-- ==== Sys2Proof/Word.lean ====
section
/-! DEFINITION. The words of the KX-2620: bytes, registers, entries, serials, and their plainest arithmetic. -/

namespace Sys2Proof

/-- One byte. -/
abbrev Byte := BitVec 8

/-- A 32-bit register word (chapter "About this manual", Registers). -/
abbrev Word32 := BitVec 32

/-- A 64-byte verb or event entry; byte `n` is bits `[8n+7:8n]` (R100, R305). -/
abbrev Entry := BitVec 512

/-- A 16-byte record: a clause (R61), a completion entry (R304), a sweep point (R212). -/
abbrev Rec128 := BitVec 128

/-- A 16-bit launch serial (R67). -/
abbrev Serial := BitVec 16

/-- A sparse table: key and value pairs, kept with rising keys; what an unlisted key reads as is the
default that its reader names. -/
abbrev Tab (α : Type) := List (Nat × α)

end Sys2Proof
end

