-- ==== Sys2Proof/Syntax.lean ====
section
/-! DEFINITION. The commands of the KX-2620: one constructor for each row of the operation and event table
(spec/opcode_table.json), with the operands that the chapter of its rule gives it. -/

namespace Sys2Proof

/-- The metered sources of Table 12-1 (R321): host queue, Dalovo peer, sideband, loss of light. -/
inductive Source where
  | host (q : Nat)
  | peer (p : Nat)
  | sideband
  | lossOfLight
  deriving DecidableEq, Repr

/-- What every verb carries beside its own fields: the source that issued it and its TAG (R100). -/
structure Hdr where
  src : Source
  tag : Nat := 0
  deriving DecidableEq, Repr

/-- A network time value (R273): seconds, nanoseconds below 10^9, fraction in 2^-16 ns. -/
structure NetTime where
  sec  : Nat := 0
  ns   : Nat := 0
  frac : Nat := 0
  deriving DecidableEq, Repr

/-- The flags and result address of a launching verb (Table 3-7). -/
structure LaunchOpts where
  rearrangeOk : Bool := false
  allOrNone   : Bool := false
  copyPaths   : Bool := false
  resultAddr  : Nat := 0
  deriving DecidableEq, Repr

/-- A port named by ARM (Table 3-7): the number and whether it is an input port. -/
structure PortRef where
  input : Bool := false
  port  : Nat := 0
  deriving DecidableEq, Repr

/-- Which receiver a link row concerns: the tile link of the controller or the tile end of it. -/
inductive LinkEnd where
  | controller (tile : Nat)
  | tile (tile : Nat)
  deriving DecidableEq, Repr

/-- A block of a region (chapter Architecture, "Blocks"). -/
inductive Block where
  | link | loop | cache | smu
  deriving DecidableEq, Repr

/-- A handshake channel of R28. -/
inductive Channel where
  | regionCentral (region : Nat)
  | centralAon
  | regionBlock (region : Nat) (block : Block)
  deriving DecidableEq, Repr

/-- The fields of a TRAIN block (Table 9-3). -/
structure TrainBlock where
  phase    : Nat := 0
  speed    : Nat := 0
  reqPre   : Nat := 0
  reqMain  : Nat := 0
  reqPost  : Nat := 0
  atLimit  : Nat := 0
  lock     : Bool := false
  maxSpeed : Nat := 4
  portB    : Bool := false
  version  : Nat := 0
  echoTag  : Nat := 0
  roundTripTenthNs : Nat := 0
  deriving DecidableEq, Repr

/-- One SMU reading that a tile takes for a point (R192): its code in the range that R194 and R195 have it in, and
whether a compliance clamp stood while it was taken. -/
structure Reading where
  code    : Int := 0
  clamped : Bool := false
  deriving DecidableEq, Repr

/-- One fault report as a checker sends it to the collector (R421). -/
structure Report where
  code    : Nat
  source  : Nat
  detail0 : Nat := 0
  detail1 : Nat := 0
  deriving DecidableEq, Repr

/-- An array of the fabric (Table 2-3). -/
structure ArrayRec where
  stage    : Nat
  index    : Nat
  blkRows  : Nat := 1
  blkCols  : Nat := 1
  ga       : Nat := 1
  gb       : Nat := 1
  clsDflt  : Nat := 0
  tiles    : List Nat := []
  deriving DecidableEq, Repr

/-- A wiring record (Table 2-4). -/
structure WireRec where
  fromStage : Nat
  fromArray : Nat
  fromCol   : Nat
  toArray   : Nat
  toRow     : Nat
  deriving DecidableEq, Repr

/-- An input or output port record (Table 2-4); `monitor` is none for 0xFFFF. -/
structure PortRec where
  port    : Nat
  array   : Nat
  line    : Nat
  monitor : Option Nat := none
  deriving DecidableEq, Repr

/-- The bank record of an element class (Table 5-3), with the table's defaults. -/
structure Bank where
  lawLit      : Nat := 0
  lawDark     : Nat := 0
  sections    : Nat := 1
  outMode     : Nat := 0
  bOut        : Nat := 64
  bIn         : Nat := 24
  sUp         : Nat := 8
  sDn         : Nat := 8
  coef        : List (List Int) := []
  feLimit     : Nat := 1024
  feTime      : Nat := 500
  feBlank     : Nat := 20
  feReact     : Nat := 0
  maxJump     : Nat := 512
  slewMax     : Nat := 64
  dwell       : Nat := 20
  ditherDepth : Nat := 0
  ko          : Nat := 0x100
  trimLimit   : Nat := 512
  demodPhase  : Nat := 0
  clsTrimOn   : Int := 0
  clsTrimOff  : Int := 0
  reservedBad : Bool := false
  deriving DecidableEq, Repr

/-- The image-only fields of a class and its two banks (Tables 5-2 and 5-3). -/
structure ClassRec where
  cls      : Nat
  holdDiv  : Nat := 50
  driveMin : Nat := 0
  driveMax : Nat := 0xFFFF
  shapeOn  : List Int := []
  shapeOff : List Int := []
  bankA    : Bank := {}
  bankB    : Bank := {}
  deriving DecidableEq, Repr

/-- The comma shares of HOLD, P0, P1 and P2 (Table 1-2). -/
structure Shares where
  hold : Nat
  p0   : Nat
  p1   : Nat
  p2   : Nat
  deriving DecidableEq, Repr

/-- A meter profile (R322, R324). -/
structure Profile where
  cir : Nat
  cbs : Nat
  pir : Nat
  pbs : Nat
  deriving DecidableEq, Repr

/-- The loss-of-light record of one monitored port (R205). -/
structure LosRec where
  monitor : Nat
  thresh  : Nat := 200000
  hyst    : Nat := 4
  clearUs : Nat := 0
  respMil : Nat := 800
  deriving DecidableEq, Repr

/-- A Dalovo peer list entry (R333). -/
structure PeerRec where
  id       : Nat
  perm     : Nat := 0
  ownerKey : Option (BitVec 256) := none
  deriving DecidableEq, Repr

/-- The safety parameter block: the 28 words of R384 and the image's expected check value. -/
structure SafetyBlock where
  words    : List Word32 := []
  expected : Word32 := 0
  deriving DecidableEq, Repr

/-- An element entry of the calibration set (Table 8-2). -/
structure CalEntry where
  pullIn  : Nat := 0
  release : Nat := 0
  onBase  : Nat := 0
  offBase : Nat := 0
  dOn     : Nat := 0
  dOff    : Nat := 0
  tcSense : Int := 0
  tcDrive : Int := 0
  curve   : Int := 0
  ilEst   : Nat := 0
  valid   : Bool := false
  user    : Bool := false
  deriving DecidableEq, Repr, Inhabited

/-- A tile record of the calibration set: gain and offset pairs by channel quantity, and the temperature of
the last channel run (R223). -/
structure CalTileRec where
  pairs    : List (Nat × Int × Int) := []
  lastTemp : Int := 100
  deriving DecidableEq, Repr

/-- The calibration set as the flash holds it (Table 8-1), with what its CRC table says of each block. -/
structure CalSet where
  version    : Nat := 0
  fabricHash : BitVec 128 := 0
  headerOk   : Bool := true
  tiles      : List (Nat × CalTileRec) := []
  entries    : List (Nat × CalEntry) := []
  badBlocks  : List Nat := []
  deriving DecidableEq, Repr

/-- A sweep point record, 16 bytes (Table 7-4). -/
structure PointRec where
  mode       : Nat := 0
  rel        : Bool := false
  useBias    : Bool := false
  fullRange  : Bool := false
  range      : Nat := 0
  policy     : Nat := 0
  samples    : Nat := 1
  force      : Int := 0
  compliance : Nat := 1
  dwell      : Nat := 0
  reservedBad : Bool := false
  deriving DecidableEq, Repr

/-- A paragraph step record (Table 3-6). -/
structure StepRec where
  handle : Nat
  offset : Nat
  reservedBad : Bool := false
  deriving DecidableEq, Repr

/-- The applied content of an image (Table 17-5). Fields of an absent optional section stand at the reset values
of their registers or the defaults of their rules (R451). -/
structure Image where
  hash         : BitVec 256 := 0
  version      : Nat := 0
  fabricHash   : BitVec 128 := 0
  arrays       : List ArrayRec := []
  wiring       : List WireRec := []
  inPorts      : List PortRec := []
  outPorts     : List PortRec := []
  classes      : List ClassRec := []
  classMap     : List (Nat × Nat) := []
  lossMap      : List (Nat × Nat) := []
  ilDefault    : Nat := 0x14
  linkShare    : Shares := ⟨0x30, 0x20, 0x50, 0x30⟩
  loopShare    : Shares := ⟨0x80, 0x20, 0x20, 0x20⟩
  commitLead   : Nat := 1000
  prepLead     : Nat := 1000
  schedSuspend : Bool := false
  fastFloor    : Nat := 64
  toneFtw      : List Nat := [0x0978D4FE, 0x0B020C4A, 0x0D916873]
  maxMoves     : Nat := 8
  outerMin     : Nat := 10
  liShift      : Nat := 8
  ddrSpeed     : Nat := 4
  ddrRanks     : Nat := 0
  ddrDensity   : Nat := 2
  ddrWidth     : Nat := 0
  bankPlan     : Option (List Nat) := none
  placeBanks   : Nat := 20
  promoteTime  : Nat := 1
  demoteTime   : Nat := 60
  overrunPin   : Nat := 10
  fastReserve  : Nat := 8
  balHigh      : Nat := 0xC0
  balTarget    : Nat := 0xA0
  journalGib   : Nat := 96
  ddrHostGib   : Nat := 0
  freezePre    : Nat := 1000
  freezePost   : Nat := 200
  meters       : List (Nat × Nat × Profile) := []
  kp           : Nat := 0x4000
  ki           : Nat := 0x0800
  jumpLimit    : Nat := 1000
  rateMax      : Nat := 500
  hostTime     : Bool := false
  stepThresh   : Nat := 10
  lockThresh   : Nat := 100
  lockCount    : Nat := 8
  unlockThresh : Nat := 1000
  syncTimeout  : Nat := 3
  holdoverMax  : Nat := 60
  portMode     : Nat := 2
  domain       : Nat := 0
  peers        : List PeerRec := []
  safety       : SafetyBlock := {}
  los          : List LosRec := []
  portBias     : Int := -2000
  portDown     : Nat := 64
  portDecim    : Nat := 100
  actMargin    : Nat := 8
  uncalVmax    : Nat := 20
  calDelta     : Nat := 8
  calDeltaCh   : Nat := 40
  calSlew      : Nat := 4
  plaus        : Nat := 20
  calPoints    : Nat := 9
  calStep      : Nat := 128
  calDwell     : Nat := 20
  calResid     : Nat := 16
  adoptTol     : Nat := 0x200
  adoptSlew    : Nat := 0x40
  linkMaxSpeed : Nat := 4
  presets      : Option (List (List (Nat × Nat × Nat))) := none
  restartWait  : Nat := 500
  mateEnable   : Bool := false
  matePrio     : Nat := 0
  mateWait     : Nat := 100
  takeUnsynced : Bool := false
  reportQueue  : Nat := 0
  drillMs      : Nat := 10
  mxPrio       : List (Nat × Nat × Nat) := []
  sweeps       : List (Nat × List PointRec) := []
  deriving DecidableEq, Repr

/-- What a read of the image area of the flash yields (R447 to R452): what the checks 2 to 8 of Table 17-6 look at,
and the fields that the sections hold. -/
structure FlashImage where
  sfdpOk      : Bool := true
  readOk      : Bool := true
  magic       : Word32 := 0x4B582620
  format      : Nat := 1
  length      : Nat := 4096
  areaSize    : Nat := 0x3800000
  sections    : List (Nat × Bool × Nat × Nat) := []
  keyHash     : BitVec 256 := 0
  signatureOk : Bool := true
  content     : Image := {}
  /-- The owner certificate area of Table 17-3, and whether the certificate meets R465. -/
  ownerCert   : List Byte := []
  ownerCertOk : Bool := false
  deriving DecidableEq, Repr

/-- The fields of a PTP Announce message that the best master choice and the status registers use (R281, R275). -/
structure Announce where
  domain     : Nat := 0
  version    : Nat := 2
  gmId       : Nat := 0
  dataset    : List Nat := []
  logSync    : Int := 0
  logAnnounce : Int := 1
  utcOffset  : Int := 0
  utcValid   : Bool := false
  ptpScale   : Bool := true
  deriving DecidableEq, Repr

/-- A Dalovo HELLO or HELLO_REPLY frame as received, with what its certificates and signature say (R334, R335). -/
structure HelloFrame where
  port       : Nat := 0
  srcId      : Nat := 0
  dstId      : Nat := 0
  certLen    : Nat := 0
  chainOk    : Bool := true
  subjectId  : Nat := 0
  ownerLen   : Nat := 0
  ownerKey   : Option (BitVec 256) := none
  ownerId    : Nat := 0
  signatureOk : Bool := true
  body       : List Byte := []
  deriving DecidableEq, Repr

/-- The clear header fields and authentication outcome of an encrypted Dalovo frame (R332). -/
structure DvHead where
  port    : Nat := 0
  version : Nat := 1
  srcId   : Nat := 0
  session : Nat := 0
  seq     : Nat := 0
  length  : Nat := 0
  lengthOk : Bool := true
  tagOk   : Bool := true
  deriving DecidableEq, Repr

/-- What a mirror record carries (Table 15-2): one change of mirrored data, by kind and values. -/
structure MirrorRec where
  kind  : Nat := 0
  key   : Nat := 0
  value : List Nat := []
  deriving DecidableEq, Repr

/-- The data that a host memory access made for a verb brings back: none for a failed access (R73). -/
structure HostData where
  clauses : List Rec128 := []
  steps   : List StepRec := []
  bank    : Bank := {}
  points  : List PointRec := []
  payload : List Byte := []
  set     : CalSet := {}
  deriving DecidableEq, Repr

/-- The commands of the block: every row of the table of operations and events. -/
inductive Instr where
  -- host verbs of chapters 11, 16, 17, 15 and 12
  | nop (h : Hdr)
  | resumeRegion (h : Hdr) (isTile : Bool) (target : Nat)
  | selfTest (h : Hdr) (targets timeoutMs : Nat) (missed : List (Nat × Nat))
  | getDigest (h : Hdr) (wait : Bool) (addr : Nat) (nonce : BitVec 256)
  | getCert (h : Hdr) (which addr length : Nat)
  | handover (h : Hdr) (ret : Bool) (drillMs : Nat)
  | dalovoSend (h : Hdr) (timed ns : Bool) (peer length addr : Nat) (t : NetTime) (late : Nat)
  -- connection verbs, Table 3-7
  | stage (h : Hdr) (openFlag : Bool) (handle : Nat) (clauses : List Rec128)
  | stageList (h : Hdr) (openFlag ns : Bool) (handle count addr : Nat)
  | commit (h : Hdr) (handle : Nat) (opts : LaunchOpts)
  | schedule (h : Hdr) (handle : Nat) (opts : LaunchOpts) (t : NetTime) (late : Nat)
  | arm (h : Hdr) (handle : Nat) (opts : LaunchOpts) (rearm : Bool) (pgroup : Nat) (ports : List PortRef)
  | disarm (h : Hdr) (handle : Nat)
  | fire (h : Hdr) (handle : Nat)
  | cancel (h : Hdr) (handle : Nat)
  | freeSentence (h : Hdr) (handle : Nat)
  | paraDefine (h : Hdr) (halt : Bool) (para stepCount addr period repeats late : Nat)
  | paraStart (h : Hdr) (reportAll : Bool) (para : Nat) (start : NetTime)
  | paraStop (h : Hdr) (now : Bool) (para : Nat)
  -- placement and element verbs, Tables 4-2 and 5-6
  | pin (h : Hdr) (scope : Bool) (first count lifetimeMs : Nat)
  | unpin (h : Hdr) (scope : Bool) (first count : Nat)
  | retireElement (h : Hdr) (eid : Nat)
  | restoreElement (h : Hdr) (eid : Nat)
  | classLoad (h : Hdr) (cls bank addr : Nat)
  | classSwap (h : Hdr) (cls : Nat)
  | elementTrim (h : Hdr) (resetOuter : Bool) (eid : Nat) (trimOn trimOff : Int)
  | journalCopy (h : Hdr) (release : Bool) (tile startMs count addr : Nat)
  -- sweep and calibration verbs, Tables 7-7 and 8-4
  | sweepLoad (h : Hdr) (ns : Bool) (list count addr : Nat)
  | sweepRun (h : Hdr) (compEnd actuator : Bool) (list target downCount timeoutMs resultAddr : Nat)
  | sweepStop (h : Hdr) (list : Nat)
  | sweepFree (h : Hdr) (list : Nat)
  | calRun (h : Hdr) (kind scope target timeoutMs : Nat)
  | saveCalibration (h : Hdr) (fromHost ns : Bool) (addr : Nat)
  | exportCalibration (h : Hdr) (inService : Bool) (addr length : Nat)
  -- host interface, chapter 11
  | verbArrival (src : Source) (entry : Entry)
  | sqTailWrite (q value : Nat)
  | cqHeadWrite (q value : Nat)
  | eqHeadWrite (q value : Nat)
  | sqEntryFetch (q : Nat) (entries : List Entry)
  | sqReadFail (q : Nat)
  | cqEqWriteFail (q : Nat) (event : Bool)
  | queueEnable (q : Nat)
  | queueDisable (q : Nat)
  | queueDrained (q : Nat)
  | queueConfigWrite (q reg : Nat) (value : Word32)
  | completionPost (src : Source)
  | eventPost
  | msixInterruptTimer (q : Nat) (event : Bool)
  | fireDoorbell (value : Word32)
  | sbVerbWrite (entry : Entry) (bytes : Nat) (pecOk : Bool)
  | sbCompletionRead
  | sbEventRead
  | sbWindowOffset (value : Nat) (pecOk : Bool)
  | sbWindowAccess (write : Bool) (bytes : Nat) (data : List Word32) (pecOk : Bool)
  | pcieFunctionReset
  | pciePerst (low : Bool)
  | bar2Access (write : Bool) (addr : Nat) (count : Nat) (data : List (Option Byte))
  | bar0AccessError (write : Bool) (offset dwords : Nat)
  | registerWrite (offset : Nat) (value : Word32) (allBytes : Bool)
  -- launches, chapters 3, 4 and 6
  | sentencePrepare
  | prepLeadDue (para : Bool) (index : Nat)
  | staleReprepare (handle : Nat)
  | tokenIssue (launch : Nat)
  | p0Dispatch
  | latchReportReceive (tile : Nat) (serial : Serial) (latched : Bool)
  | launchResultTimeout (tile : Nat) (serial : Serial)
  | reversalLaunch (serial : Serial)
  | scheduledLaunchDue (handle : Nat)
  | paragraphStepDue (para : Nat)
  | losEventReceive (monitors : List Nat)
  | losClearReceive (monitor : Nat)
  | complianceEventReceive (tile channel detail : Nat)
  | scheduleMismatchReceive (tile : Nat)
  | tileFaultReceive (tile detail : Nat)
  | tokenLostReceive (tile : Nat)
  -- commas, loops, placement, chapters 1, 4 and 5
  | commaBoundary
  | regionEscalate (region : Nat)
  | commaLinkShareWrite (value : Word32)
  | commaLoopShareWrite (value : Word32)
  | settlingDwellEnd (eid : Nat)
  | feBlankEnd (eid : Nat)
  | journalFrameWrite (ms tile : Nat)
  | journalFrameExpire (ms tile : Nat)
  | placementMove (eid : Nat) (writtenDuringCopy : Bool)
  | pinExpire (eid : Nat) (host : Bool)
  | contextRebuild (eid : Nat)
  | elementReroute (inPort : Nat)
  | cellOperationError (region : Nat) (block : Block) (cell : Nat) (eid : Option Nat)
  | handshakeWatchdog (channel : Channel)
  -- the tile end of a link, chapter 9
  | tileCommitReceive (tile : Nat) (portB : Bool) (serial : Serial) (slot time : Nat)
  | tileLatch (tile : Nat) (serial : Serial)
  | driveShapeEnd (tile elem : Nat)
  | tileDriveFrame (tile : Nat) (portB : Bool) (comma : Nat) (codes : List Nat)
  | slotOpen (tile : Nat) (portB : Bool) (slot count : Nat)
  | driveSlotFrame (tile : Nat) (portB : Bool) (elem0 d0 elem1 d1 : Nat)
  | cmdAckReceive (tile opcode : Nat) (ok : Bool) (slot : Nat)
  | setClass (tile : Nat) (portB : Bool) (elem cls : Nat) (all : Bool)
  | setFast (tile : Nat) (portB : Bool) (elem : Nat) (fast : Bool) (comma : Nat)
  | classDiv (tile : Nat) (portB : Bool) (cls div comma : Nat)
  | shapeLoad (tile : Nat) (portB : Bool) (cls : Nat) (off : Bool) (point : Nat) (value : Int)
  | setEpoch (tile : Nat) (portB : Bool) (epoch : Nat)
  | setShare (tile : Nat) (portB : Bool) (shares : Shares)
  | tileAbort (tile : Nat) (portB : Bool) (elem : Nat)
  | claim (tile : Nat) (portB : Bool)
  | release (tile : Nat) (portB : Bool)
  | bulkPull (tile : Nat) (portB : Bool) (offset count : Nat)
  | logInfoReceive (tile length : Nat) (withdrawn : Bool)
  | bulkReceive (tile index : Nat) (data : Word32) (withdrawn : Bool)
  | pointWord (tile : Nat) (portB : Bool) (word : Nat) (value : Word32)
  | pointGo (tile : Nat) (portB : Bool) (channel elem downCount : Nat)
  | pointResultReceive (tile channel word : Nat) (value : Word32)
  | portSampleReceive (tile channel range : Nat) (flag : Bool) (code : Int) (los : Bool)
  | calPoint (tile : Nat) (portB : Bool) (elem drive : Nat)
  | calSenseReceive (tile elem sense : Nat)
  | smuBus (tile : Nat) (portB : Bool) (channel : Nat) (connect : Bool)
  | readbackReq (tile : Nat) (portB : Bool)
  | readbackReceive (tile part : Nat) (codes : List Nat)
  | identReceive (tile word : Nat) (value : Word32)
  | tempReceive (tile : Nat) (temp : Int)
  | senseFrameReceive (tile comma : Nat) (samples : List Nat)
  | tbeaconReceive (tile : Nat) (portB : Bool) (time : Nat)
  | tbeaconLoss (tile : Nat)
  | hbeatSend
  | hbeatTileRelay (tile : Nat) (portB : Bool) (word : Word32)
  | relayedHbeatReceive (tile : Nat) (word : Word32)
  | ownerHbeatExpire (tile : Nat)
  | linkFrameReceive (at_ : LinkEnd) (multi : Bool) (control : BitVec 64) (data : List (BitVec 64))
  | linkctlAckReceive (at_ : LinkEnd) (multi : Bool) (num : Nat)
  | linkctlNakReceive (at_ : LinkEnd) (multi : Bool) (num : Nat)
  | nakRepeatTimeout (at_ : LinkEnd) (multi : Bool)
  | ackIdleTimeout (at_ : LinkEnd) (multi : Bool)
  | ackMissingTimeout (tile : Nat)
  | blockLockLoss (tile : Nat)
  | trainBlockReceive (tile : Nat) (block : TrainBlock)
  | trainStepTimeout (tile : Nat)
  | adoptCorrectionEnd (tile : Nat)
  | eidleEnter (at_ : LinkEnd)
  | eidleExit (at_ : LinkEnd)
  | linkRetrain (tile : Nat)
  | linkInjectCrc (tile : Nat)
  -- source-measure engine, chapter 7
  | sweepPointStart (list : Nat)
  | sweepPointEnd (list : Nat) (readings : List Reading) (forceRb : Int) (writeOk : Bool)
  | sweepTimeout (list : Nat)
  | sweepRunEnd (list : Nat)
  | ssCtrlGo
  | ssResultRead
  | portSelWrite (value : Word32)
  | portResultRead
  | refCtrlWrite (value : Word32)
  | refConversionGo
  | refConversionDone (value : Int) (isOver : Bool)
  | refResultRead
  | busCtrlRequest (value : Word32)
  | calBusTimeout
  | losComparatorRaise (monitor : Nat) (current : Int)
  | losComparatorClear (monitor : Nat) (current : Int)
  | complianceClamp (tile channel : Nat) (sampling : Bool)
  -- calibration, chapter 8
  | calMicroRun (eid : Nat)
  | calFullRun (eid : Nat)
  | calChannelRun (tile : Nat) (fits : List (Nat × Int × Int))
  | calTimeout (batch : Nat)
  | pathLossUpdate (inPort : Nat)
  | calDonePost (batch : Nat)
  -- faults, chapter 16
  | faultReport (reports : List Report)
  | safeStateTokenResolve (serial : Serial)
  | collectorSelfFault
  | faultClear (value : Word32)
  | faultFirstClear
  | faultInjectCheck (target unit : Nat) (double viaSideband : Bool)
  | faultInjectReact (target unit : Nat) (double viaSideband : Bool)
  | centralEngineError (ddr : Bool) (source : Nat)
  | mgmtWatchdog
  -- network time, chapter 10
  | timeMeasurement (theta : Int)
  | servoFeedWrite (value : Word32)
  | heldChangeApply
  | heldChangeLimit
  | syncTimeout
  | holdoverExpire
  | acceptJump
  | timeSnap
  | dtLoRead
  | rateLoRead
  | ptpAnnounceReceive (port : Nat) (msg : Announce)
  | ptpSyncReceive (port : Nat) (followUp twoStep : Bool) (domain : Nat) (origin : NetTime) (correction : Int) (ingressTick : Nat)
  | ptpDelayReqSend (port egressTick : Nat)
  | ptpDelayRespReceive (port domain : Nat) (receive : NetTime) (correction : Int) (logInterval : Int)
  | ptpAnnounceTimeout
  | ppsOutEdge
  | ppsOutFall
  | ppsInEdge
  | ppsInResultRead
  | timedDalovoDue (port : Nat)
  -- Dalovo, chapter 12
  | dalovoAnnounceSend (port : Nat)
  | dalovoAnnounceReceive (port srcId : Nat) (ownerHeld : Bool)
  | dalovoHello (frame : HelloFrame)
  | dalovoHelloReply (frame : HelloFrame)
  | dalovoFinish (head : DvHead) (transcriptOk : Bool)
  | dalovoHandshakeTimeout (peer : Nat)
  | dalovoVerbFrame (head : DvHead) (entry : Entry)
  | dalovoUserFrame (head : DvHead) (payload : List Byte) (ingressTick : Nat)
  | dvRxSlotFree (value : Word32)
  | dalovoClose (peer reason : Nat)
  | dalovoIdleTimeout (peer : Nat)
  -- light safety, chapter 14
  | safetyFrameReceive (head : DvHead) (body : BitVec 160)
  | safetyFrameSend (binding : Nat)
  | bindingWatchdogExpire (binding : Nat)
  | ilkContactChange (input : Nat) (contactB closed : Bool)
  | ilkDiscrepancy (input : Nat)
  | lenEvaluate
  | fbkTimeout (output : Nat) (fbkOpen : Bool)
  | stuckOnDetect (output : Nat)
  | testPulseStart (output : Nat)
  | testPulseCheck (output : Nat) (readbackOn : Bool)
  | safeKeyWrite (value : Word32)
  | safeCommitWrite (value : Word32)
  | safeKeyTimeout
  | safeAckWrite (value : Word32)
  | lenForceOffWrite (value : Word32)
  | safetyBlockDeliver (block : SafetyBlock)
  | safetyRecordWrite (ok : Bool)
  | lsuSelfCheck (crcOk parityOk clockOk supplyOk : Bool)
  -- mated redundancy, chapter 15
  | mateHeartbeatReceive (word : Word32) (mateId matePrio : Nat) (mateHash : BitVec 256)
  | mateWaitExpire
  | mirrorReceive (num : Nat) (rec : MirrorRec)
  | mirrorAckReceive (num : Nat)
  | mirrorAckTimeout
  | syncReq
  | snapshotApplied (num : Nat)
  | digestFrameReceive (digest : BitVec 256)
  | digestMismatchExpire
  | roleFrameReceive (step : Nat) (ret : Bool)
  | takeoverTokenResolve (serial : Serial)
  | splitRetry
  | deferredLosFire (handle : Nat)
  | drillEnd (cause tilesFailed : Nat)
  -- DMA, banks, DDR, chapter 13
  | dmaGo (channel : Nat)
  | dmaResume (channel : Nat)
  | dmaEnableClear (channel : Nat)
  | dmaGlobalDisable
  | dmaErrorHalt (channel : Nat) (write : Bool) (cause : Nat) (k0 k1 k2 : Nat) (data : List Byte)
  | dmaReadbackDone (channel : Nat) (ok : Bool) (data : List Byte)
  | bankOwnerWrite (bank : Nat) (value : Word32)
  | bankOwnerChanged (bank : Nat)
  | bankPowerWrite (bank : Nat) (value : Word32)
  | bankPowerReached (bank : Nat)
  | bankInit (bank : Nat)
  | bankInitDone (bank : Nat)
  | bankAccessCollide (bank word : Nat) (dataA dataB : BitVec 64)
  | ddrTrainingDone (ok0 ok1 : Bool)
  -- admission and telemetry, chapters 12, 6 and 15
  | admMeterWrite (reg : Nat) (value : Word32)
  | queueTelemetrySample
  | p0LatencyClearMax
  | mateGapClearMax
  | admTelClearMax
  -- housekeeping, chapter 18
  | hkRound (readings : List Int)
  | adcConversionDone (code : Nat)
  | adcCtrlWrite (value : Word32)
  | adcUrgentGo (value : Word32)
  | adcUrgentResultRead
  | dacCtrlWrite (channel : Nat) (value : Word32)
  | dacClrNChange (low : Bool)
  -- start-up, chapters 17 and 19
  | porNRelease
  | porNAssert
  | warmReset (lowNs : Nat)
  | resetCtrlWrite (value : Word32)
  | resetHeldExpire
  | mainStart
  | calSetRead (set : CalSet)
  | surfaceExpandDone (tile : Nat)
  | restartResolve
  | readyChange
  | digestRecomputeDone
  | mainSupplyFault (monitor : Nat)
  | mainSupplyGood
  | aonSupplyLow
  | timePllLock
  | timePllLossOfLock
  | sitePortLinkChange (port : Nat) (up : Bool)
  | verbHostDataDone (h : Hdr) (data : Option HostData)
  | flashImageReadDone (img : FlashImage)
  | calSaveFlashDone (ok : Bool)
  | adcUrgentConversionDone (code : Nat)
  | standbyIdentPoll
  | selfTestTimeout (h : Hdr)
  | dalovoFrameSent (port : Nat)
  | pciePowerStateChange (d3hot : Bool)
  deriving DecidableEq, Repr

end Sys2Proof
end

