-- ==== Sys2Proof/Decode.lean ====
section
/-! DEFINITION. The commands that a word spells by the table's bits. The operation and event table gives no row any
bits (its rows are operations and events, not words), so no word spells a command; the 64-byte entries of the verbs
are taken apart in `Sys2Proof.Machine.Operands`. -/

namespace Sys2Proof

/-- The rows of the table that give bits: none. Width of the row, mask, pattern, command. -/
def bitRows : List (Nat × Nat × Nat × Instr) := []

/-- The command that the word `w` of `nbits` bits spells by the table's bits. -/
def decodeTableWord (nbits w : Nat) : Option Instr :=
  (bitRows.find? fun r => r.1 = nbits && Nat.land w r.2.1 = r.2.2.1).map fun r => r.2.2.2

end Sys2Proof
end

