-- ==== Sys2Proof/Config.lean ====
section
/-! DEFINITION. What the spec leaves open, as constants without a body, and the fixed sizes of the part (Table 0-1). -/

namespace Sys2Proof.Config

/-- A fresh free value: applied to the counter `State.free` (assumption log 4). -/
opaque freeValue : Nat → Nat

/-- Entry `i` of the 1,024-entry Q1.15 sine table (R158, R485). The spec states no rounding of its entries. -/
opaque sine : Nat → Int

/-- One lock-in filter step (R160): the old value, the input term in units of 2^-15, and LI_SHIFT. The spec states no
number format. -/
opaque lockInStep : Int → Int → Nat → Int

/-- round(KO × g × 1024) of R161 from DEMOD_PHASE, Ik, Qk, P and KO; the spec states no arithmetic for g. -/
opaque outerIncrement : Nat → Int → Int → Int → Nat → Int

/-- Optical power of R203 in 0.01 dBm, from the photocurrent and PORT_RESP; the spec states no rounding. -/
opaque dbm : Int → Nat → Int

/-- The move of IL_EST by R232: IL_EST, the path's sum, the two powers. The spec states no rounding. -/
opaque pathLoss : Nat → Nat → Int → Int → Nat

/-- A value of one row of the expanded surface (R224): which (0 ON_BASE, 1 OFF_BASE, 2 D_ON, 3 D_OFF, 4 PULL_IN,
5 RELEASE, 6 INV_SLOPE), the entry, the row. The spec states no rounding. -/
opaque surfaceRow : Nat → CalEntry → Nat → Nat

/-- Interpolation between two different row values (R224) at a sixteenth of the distance; no rounding is stated. -/
opaque interpolate : Nat → Nat → Nat → Nat

/-- Sense that the surface gives at a drive (R234): curve points of the last full run (none: as expanded), the entry's
CURVE, ON_BASE, OFF_BASE, D_ON, the drive. -/
opaque curveSense : List (Nat × Nat) → Int → Nat → Nat → Nat → Nat → Nat

/-- What a full run's points give (R234) where the spec states no formula: 0 D_ON, 1 ON_BASE, 2 OFF_BASE, 3 D_OFF. -/
opaque fullRunValue : Nat → List (Nat × Nat) → Nat

/-- INV_SLOPE from the fit of a micro or full run (R234): the measured pairs. -/
opaque fitInvSlope : List (Nat × Nat) → Nat

/-- The fitted sense at drive H (R234): the pairs and H. -/
opaque fitSense : List (Nat × Nat) → Nat → Nat

/-- The RMS residual of the straight-line fit (Table 8-3), in sense LSB, rounded up: the pairs. -/
opaque fitResidual : List (Nat × Nat) → Nat

/-- Compression of an element's surface to an entry (R237): the row values that runs and folds have set, the curve
points of full runs, the entry that the surface came from. -/
opaque compress : List (Nat × Nat) → List (Nat × List (Nat × Nat)) → CalEntry → CalEntry

/-- The bytes of a calibration set as Table 8-1 lays it out, as one little-endian number. -/
opaque setBytes : CalSet → Nat

/-- Whether a quotient that is not whole is rounded up (else down), by numerator and denominator, where the spec
states no rounding (R192, R202, R213). -/
opaque roundsUp : Int → Int → Bool

/-- The burst that a master of the matrix has open at a tick (R361): master, channel, tick. Odd: one is open; then from
bit 1 its beats less one, direction, target and the beats that have landed, as `Machine.abortBurst` reads them. -/
opaque openBurst : Nat → Nat → Nat → Nat

/-- Requests of a DMA transfer that the matrix holds back (R360): channel, tick. -/
opaque heldRequests : Nat → Nat → Nat

/-- The 64-bit identity of the tile on a link (Table 9-4). -/
opaque tileIdentity : Nat → Nat

/-- The device's ECDSA P-256 signature (RFC 6979) of a message hash, uninterpreted (assumption log 9). -/
opaque ecdsaSign : BitVec 256 → BitVec 512

/-- HKDF-SHA-256 session keys (R334) from the handshake transcripts, uninterpreted. -/
opaque sessionKeys : List Byte → List Byte → Nat

/-- AES-256-GCM of a body under keys and SEQ: ciphertext with tag, uninterpreted. -/
opaque sealBody : Nat → Nat → List Byte → List Byte

end Sys2Proof.Config
end

