-- ==== Sys2Proof/Machine/Units/Admission.lean ====
section
/-! DEFINITION. The state of admission, queue telemetry and the Dalovo channel (chapter "Admission, policing and queue
telemetry"). -/

namespace Sys2Proof.Machine

/-- A meter (R322): profile, the two buckets in exact units of 1/1,250,000,000 token, so that a tick of 0.8 ns adds
exactly the rate in requests per second, and the device time at which it last acted. -/
structure Meter where
  profile : Profile := ⟨0, 0, 0, 0⟩
  tc      : Nat := 0
  tp      : Nat := 0
  last    : Nat := 0
  green   : Nat := 0
  yellow  : Nat := 0
  red     : Nat := 0
  deriving DecidableEq, Repr

/-- DV_PEER.STATE. -/
inductive PeerState where
  | absent | seen | handshake | up
  deriving DecidableEq, Repr

/-- A Dalovo peer's session (R333 to R338). -/
structure Peer where
  state     : PeerState := .absent
  port      : Nat := 0
  session   : Nat := 0
  /-- This controller began the key agreement (R333). -/
  initiator : Bool := false
  /-- Bytes that the FINISH frames bind and the keys and salts derived (R334), as one number. -/
  keys      : Nat := 0
  txSeq     : Nat := 0
  /-- Last SEQ accepted (R336); none before FINISH. -/
  rxSeq     : Option Nat := none
  deadline  : Nat := 0
  lastRx    : Nat := 0
  upSince   : Nat := 0
  /-- Device times of failed tags within the last second (R336). -/
  tagFails  : List Nat := []
  authFail  : Nat := 0
  replay    : Nat := 0
  tagFail   : Nat := 0
  lost      : Nat := 0
  deriving DecidableEq, Repr

/-- A USER frame queued at a site port (R340, R288). -/
structure UserFrame where
  peer   : Nat
  src    : Source
  tag    : Nat
  /-- Port, session and frame number that it was encrypted for when it was queued (R288). -/
  port   : Nat := 0
  session : Nat := 0
  seq    : Nat := 0
  /-- The encrypted body. -/
  body   : List Byte := []
  /-- T and LATE_LIMIT of a timed frame. -/
  timed  : Option (Int × Nat) := none
  deriving DecidableEq, Repr

/-- Telemetry of one source (R342). -/
structure Tel where
  depth    : Nat := 0
  delay    : Nat := 0
  maxDepth : Nat := 0
  maxDelay : Nat := 0
  deriving DecidableEq, Repr

/-- Admission and the Dalovo channel. -/
structure Admission where
  /-- Keyed by 4 × source + class. -/
  meters   : Tab Meter := []
  /-- Meter writes that wait for the comma boundary (R325). -/
  pending  : List (Nat × Profile) := []
  selSource : Nat := 0
  selClass : Nat := 0
  meterErr : Bool := false
  delayAlarm : Nat := 1000
  alarms   : Tab Bool := []
  tel      : Tab Tel := []
  peers    : Tab Peer := []
  peerSel  : Nat := 0
  /-- Receive slots: peer, ingress network time, payload (R341). -/
  rxSlots  : Tab (Option (Nat × Int × List Byte)) := []
  /-- Link of each site port up (R456). -/
  sp0Up    : Bool := false
  sp1Up    : Bool := false
  /-- Device time of the last ANNOUNCE of each port (R333). -/
  announced : Tab Nat := []
  /-- USER frames waiting, oldest first; the timed ones among them fill TRIG_STATUS.DALOVO_PENDING. -/
  queue    : List UserFrame := []
  nextSession : Nat := 1
  /-- Announces from identities that the list does not name (R333). -/
  unlisted : Nat := 0
  deriving DecidableEq, Repr

end Sys2Proof.Machine
end

