-- ==== Sys2Proof/Machine/Units/Calib.lean ====
section
/-! DEFINITION. The state of the calibration manager (chapter "Calibration"). -/

namespace Sys2Proof.Machine

/-- The kinds of run (R226): a micro run, a full run, a channel run. -/
inductive RunKind where
  | micro | full | channel
  deriving DecidableEq, Repr

/-- A calibration run, queued or running. `target` is an EID, or a tile for a channel run. -/
structure CalRun where
  kind    : RunKind := .micro
  target  : Nat
  /-- The CAL_RUN batches that wait for it (R226: a merged trigger). -/
  batches : List Nat := []
  /-- Device time at which it was queued, and its TIMEOUT in ms where CAL_RUN gave one (R227). -/
  queued  : Nat := 0
  timeout : Option Nat := none
  running : Bool := false
  /-- Hold drive H at the start (R228). -/
  hold    : Nat := 0
  /-- Trial drives still to be measured and the pairs measured (R228, R229). -/
  todo    : List Nat := []
  measured : List (Nat × Nat) := []
  /-- A full run past its pull-in: the index of the pull-in point (R229). -/
  pullIn  : Option Nat := none
  deriving DecidableEq, Repr

/-- A CAL_RUN verb whose runs have not all ended (R240). -/
structure CalBatch where
  id       : Nat
  src      : Source
  tag      : Nat
  passed   : Nat := 0
  failed   : Nat := 0
  skipped  : Nat := 0
  aborted  : Nat := 0
  deferred : Nat := 0
  lost     : Bool := false
  deriving DecidableEq, Repr

/-- The calibration manager. -/
structure Calib where
  setValid   : Bool := false
  saveBusy   : Option Hdr := none
  exportBusy : Option Hdr := none
  /-- The set that a SAVE_CALIBRATION is writing to flash (R237). -/
  saving     : Option CalSet := none
  badBlocks  : Nat := 0
  version    : Nat := 0
  /-- The set as the flash holds it (R222), and as the image load last read it: what the surfaces came from (R224). -/
  stored     : CalSet := {}
  loaded     : CalSet := {}
  runs       : List CalRun := []
  batches    : List CalBatch := []
  nextBatch  : Nat := 0
  passed     : Nat := 0
  failed     : Nat := 0
  aborted    : Nat := 0
  deferred   : Nat := 0
  elemSel    : Nat := 0
  /-- Temperature of the last run of a class on a tile, keyed by tile × 64 + class (R226). -/
  classTemp  : Tab Int := []
  /-- Tile records in service: gains and offsets by channel quantity (R223). -/
  tiles      : Tab CalTileRec := []
  /-- Row values of the surfaces that runs and folds have changed (R231, R234), keyed by EID × 256 + 8 × row + which, with
`which` as `Config.surfaceRow` numbers them. -/
  rowSet     : Tab Nat := []
  /-- Curve points that full runs have set in a row (R234), keyed by EID × 32 + row. -/
  curves     : Tab (List (Nat × Nat)) := []
  deriving DecidableEq, Repr

end Sys2Proof.Machine
end

