-- ==== Sys2Proof/Machine/Units/Clauses.lean ====
section
/-! DEFINITION. The state of the clause store, the connection table, the launches and the paragraphs
(chapters "Clauses, sentences and paragraphs" and "Switch timing and the P0 latency bound"). -/

namespace Sys2Proof.Machine

/-- Table 3-2. -/
inductive SentState where
  | free | stored | scheduled | armed | stale | launching
  deriving DecidableEq, Repr

/-- PARA_INFO.STATE. -/
inductive ParaState where
  | idle | defined | running | halted
  deriving DecidableEq, Repr

/-- A stored sentence (R70 to R93). -/
structure Sentence where
  state    : SentState := .free
  clauses  : List Rec128 := []
  rearm    : Bool := false
  pgroup   : Nat := 0
  ports    : List PortRef := []
  opts     : LaunchOpts := {}
  armSrc   : Source := .sideband
  armTag   : Nat := 0
  /-- Arm slot, while the sentence holds one (R184). -/
  slot     : Option Nat := none
  lastStatus : Nat := 0
  lastSerial : Serial := 0
  lastApplied : Nat := 0
  bitmap   : List Bool := []
  /-- The clauses as prepared by the arming, with their reasons: the precomputed drive list (R89). -/
  armedList : List (Rec128 × Nat) := []
  /-- Connections that the armed list moves under R115, and every element that it moves (R87). -/
  armedMoves : List (Nat × Rec128) := []
  armedMoved : List Nat := []
  /-- Tiles that have acknowledged the arm slot (R184). -/
  slotAcked : List Nat := []
  /-- Device time at which the on-chip pin of PIN with SCOPE 1 expires. -/
  pinExpiry : Option Nat := none
  deriving DecidableEq, Repr

/-- What caused a launch or a preparation: a verb, a time, loss of light, the controller itself. -/
inductive Trigger where
  | commit (h : Hdr)
  | fire (h : Hdr)
  | schedule (src : Source) (tag : Nat) (t : Int) (late : Nat)
  | paraStep (para step iter : Nat) (src : Source) (tag : Nat) (t : Int) (late : Nat)
  | lossOfLight (monitor : Nat) (src : Source) (tag : Nat)
  | deferredLos (monitor : Nat) (src : Source)
  | doorbell (q tag : Nat)
  | arming (h : Hdr)
  | rearming
  | restale
  | reroute (inPort : Nat)
  | reversal (of_ : Serial)
  | releaseRetired (eid : Nat)
  | resolved (src : Source)
  | restart
  deriving DecidableEq, Repr

/-- One entry of the connection table (R67): the clause as routed, the handle that placed it, its launch serial. -/
structure Conn where
  clause : Rec128 := 0
  handle : Nat := 0
  serial : Serial := 0
  deriving DecidableEq, Repr

/-- A preparation: a sentence (or an internal reroute) waiting for or past the work of R74. -/
structure Prep where
  id       : Nat
  handle   : Nat
  trigger  : Trigger
  opts     : LaunchOpts := {}
  /-- Routed clauses with their reason codes, once prepared. -/
  done     : Option (List (Rec128 × Nat)) := none
  /-- Connections that the rearrangement of R115 moves: input port and new routed clause. -/
  moves    : List (Nat × Rec128) := []
  /-- Arrival of the P0 request that fires as P1 (R89). -/
  arrival  : Option Nat := none
  /-- Its token waits for a held servo change, and has been counted (R278). -/
  held     : Bool := false
  deriving DecidableEq, Repr

/-- What a launch does to one element: the index of its clause (the moves of R115 count on from the sentence's
clauses), the element, new target and LIT intent, what they were before, and the class override from then on. -/
structure Act where
  clause : Nat
  eid    : Nat
  on     : Bool
  lit    : Bool
  wasOn  : Bool
  wasLit : Bool
  /-- Class override that holds from the launch on (R66). -/
  cls    : Option Nat := none
  deriving DecidableEq, Repr

/-- State of one tile of a launch's footprint. -/
inductive TileResult where
  | waiting | latched | missed | lost | fenced | safeState
  deriving DecidableEq, Repr

/-- An issued token whose results are outstanding (R67, R77, R78). -/
structure Launch where
  serial   : Serial
  /-- Launch time in device ticks. -/
  tick     : Nat
  handle   : Nat
  trigger  : Trigger
  opts     : LaunchOpts := {}
  /-- The sentence's clauses as routed, then one clause for each moved connection (R116). -/
  clauses  : List Rec128 := []
  reasons  : List Nat := []
  /-- Clauses of the sentence itself. -/
  own      : Nat := 0
  acts     : List Act := []
  /-- Footprint: tile, drive-list slot, result. -/
  tiles    : List (Nat × Nat × TileResult) := []
  /-- For each clause that changed the table: its index, input port and the entry that it replaced. -/
  replaced : List (Nat × Nat × Option Conn) := []
  /-- Clauses with an element that the launch was not applied to (R57, R59). -/
  unusable : List Nat := []
  boundLost : Bool := false
  /-- Every tile has reported or failed; what failed has been reverted (R78). -/
  settled  : Bool := false
  /-- The reversal that the row REVERSAL_LAUNCH is to issue. -/
  revActs  : List Act := []
  reversed : Bool := false
  /-- Serial of the reversal launch that is out. -/
  reversal : Option Serial := none
  deriving DecidableEq, Repr

/-- A pending SCHEDULE launch (R81). -/
structure Sched where
  handle : Nat
  opts   : LaunchOpts := {}
  t      : Int
  late   : Nat
  src    : Source
  tag    : Nat
  /-- Device time of its acceptance. -/
  since  : Nat := 0
  deriving DecidableEq, Repr

/-- A paragraph (R94 to R98). -/
structure Para where
  state    : ParaState := .idle
  steps    : List (Nat × Nat) := []
  period   : Nat := 0
  repeats  : Nat := 0
  late     : Nat := 0
  halt     : Bool := false
  start    : Int := 0
  step     : Nat := 0
  iter     : Nat := 0
  reportAll : Bool := false
  stopAtEnd : Bool := false
  src      : Source := .sideband
  tag      : Nat := 0
  /-- The step before has launched and its report is outstanding (R96). -/
  inFlight : Bool := false
  deriving DecidableEq, Repr

/-- A P0 request waiting at the dispatcher (R182). -/
structure P0Req where
  handle  : Nat
  trigger : Trigger
  yellow  : Bool := false
  arrival : Nat := 0
  deriving DecidableEq, Repr

/-- The clause store, the connection table and the launch machinery. -/
structure Store where
  sentences : Tab Sentence := []
  /-- The connection table, keyed by input port (R67). -/
  table     : Tab (Option Conn) := []
  nextSerial : Serial := 1
  /-- Issue ticks of the tokens of the last 65,536 ticks, newest first (R69). -/
  tokenTicks : List Nat := []
  preps     : List Prep := []
  nextPrep  : Nat := 0
  launches  : List Launch := []
  scheds    : List Sched := []
  paras     : Tab Para := []
  p0Queue   : List P0Req := []
  /-- Connections whose reroute failed and is tried again (R118), by input port. -/
  failedReroutes : List Nat := []
  lateCancels : Nat := 0
  staleFires : Nat := 0
  ignoredTriggers : Nat := 0
  selSentence : Nat := 0
  selPara   : Nat := 0
  ptr       : Nat := 0
  routed    : Nat := 0
  noRoute   : Nat := 0
  needsRearrange : Nat := 0
  moves     : Nat := 0
  reroutes  : Nat := 0
  reroutesFailed : Nat := 0
  p0Fires   : Nat := 0
  p0BoundLost : Nat := 0
  p0Last    : Nat := 0
  p0Max     : Nat := 0
  /-- P0_LOST_CAUSE bits 0 to 4. -/
  p0Cause   : List Bool := [false, false, false, false, false]
  deriving DecidableEq, Repr

end Sys2Proof.Machine
end

