-- ==== Sys2Proof/Machine/Units/Mate.lean ====
section
/-! DEFINITION. The state of mated redundancy (chapter "Mated redundancy"). -/

namespace Sys2Proof.Machine

/-- Table 15-1. -/
inductive Role where
  | starting | active | standby | alone
  deriving DecidableEq, Repr

/-- A completion or report that waits for the standby's acknowledgement of a record (R405). -/
structure MirrorWait where
  record : Nat
  src    : Source
  tag    : Nat
  deriving DecidableEq, Repr

/-- The phases of a takeover (R407). -/
inductive Takeover where
  | none | claiming | resolving | adopting
  deriving DecidableEq, Repr

/-- The steps of a HANDOVER in progress (R416, R417). -/
inductive Handover where
  | none
  | waiting (h : Hdr) (ret : Bool) (drillMs : Nat)
  | released (h : Hdr) (ret : Bool) (drillMs : Nat)
  /-- This controller took the tiles of a drill and checks itself until the tick. -/
  | drilling (until_ : Nat)
  /-- The tiles of a drill go back: whether they have been released. -/
  | handingBack (released : Bool)
  deriving DecidableEq, Repr

/-- The mate port and the role. -/
structure Mate where
  role      : Role := .starting
  link      : Bool := false
  /-- Device time of the latest heartbeat on the mate path and on the relay path (R402). -/
  mateAt    : Option Nat := none
  relayAt   : Option Nat := none
  pathMate  : Bool := false
  pathRelay : Bool := false
  synced    : Bool := false
  digestMismatch : Bool := false
  safeMismatch : Bool := false
  pathAlarm : Bool := false
  splitAverted : Bool := false
  handover  : Handover := .none
  /-- This controller takes the tiles by a handover that its mate began: RETURN (R416). -/
  incoming  : Option Bool := none
  takeover  : Takeover := .none
  /-- Tiles whose CLAIM is not answered yet, and those that granted it (R407, R408). -/
  claims    : List Nat := []
  granted   : List Nat := []
  /-- Earliest tick at which a takeover is tried again (R408). -/
  retryAt   : Option Nat := none
  mateId    : Nat := 0
  matePrio  : Nat := 0
  mateHash  : BitVec 256 := 0
  mateRole  : Role := .starting
  mateSynced : Bool := false
  mateDrill : Bool := false
  mateTag   : BitVec 12 := 0
  mateDigest : BitVec 256 := 0
  /-- Device time since which the digests have differed (R419). -/
  differAt  : Option Nat := none
  hbSeq     : Nat := 0
  /-- Device time of the latest heartbeat sent (R270). -/
  hbAt      : Nat := 0
  /-- Mirror numbering at the active: last record sent, last acknowledged, send times of the rest (R404). -/
  sent      : Nat := 0
  acked     : Nat := 0
  unacked   : List (Nat × Nat) := []
  waits     : List MirrorWait := []
  /-- At the standby: last record applied. -/
  applied   : Nat := 0
  snapshotWanted : Bool := false
  gapLast   : Nat := 0
  gapMax    : Nat := 0
  takeovers : Nat := 0
  handovers : Nat := 0
  drillFails : Nat := 0
  pathAlarms : Nat := 0
  lostReports : Nat := 0
  deferredFires : Nat := 0
  drillCause : Nat := 0
  tilesFailed : Nat := 0
  /-- Loss-of-light events recorded during a takeover, by monitor (R411). -/
  deferred  : List Nat := []
  /-- MATE_WAIT has begun (R396): device time. -/
  waitFrom  : Nat := 0
  deriving DecidableEq, Repr

end Sys2Proof.Machine
end

