-- ==== Sys2Proof/Machine/Units/Time.lean ====
section
/-! DEFINITION. The state of the time unit: the servo, PTP, the PPS pins (chapter "Network time"). -/

namespace Sys2Proof.Machine

/-- Table 10-2: the states of the time unit. -/
inductive TimeState where
  | free | acquiring | locked | holdover | jump
  deriving DecidableEq, Repr

/-- A result register set of R221: SEQ, READY, NEW, the words of the latest completion and the snapshot that the
read of the first word takes. -/
structure Result where
  seq   : Nat := 0
  ready : Bool := false
  fresh : Bool := false
  words : List Word32 := []
  snap  : List Word32 := []
  deriving DecidableEq, Repr

/-- The PTP part of the time unit (R281 to R284): what the management sequencer holds of its masters and of the
exchange in progress. -/
structure Ptp where
  port       : Nat := 0
  portState  : Nat := 1
  logSync    : Int := 0
  utcOffset  : Int := 0
  utcValid   : Bool := false
  ptpScale   : Bool := false
  gmId       : Nat := 0
  discarded  : Nat := 0
  gated      : Nat := 0
  /-- Best Announce of each site port, with the device time of its latest receipt. -/
  masters    : Tab (Announce × Nat) := []
  paths      : List Int := []
  t1         : Option Int := none
  t2         : Option Int := none
  t3         : Option Int := none
  awaitsFollowUp : Bool := false
  delayInterval  : Int := 0
  /-- Device time of the latest Delay_Req. -/
  asked      : Option Nat := none
  deriving DecidableEq, Repr

/-- The time unit (R272 to R290). Network times are held as integers in units of 2^-16 ns. -/
structure TimeUnit where
  pllLocked  : Bool := false
  state      : TimeState := .free
  timeJump   : Bool := false
  rateClamp  : Bool := false
  dtHi       : Word32 := 0
  rateHi     : Word32 := 0
  snap       : List Word32 := [0, 0, 0, 0, 0, 0]
  baseNt     : Int := 0
  baseDt     : Nat := 0
  rate       : Int := 0
  integ      : Int := 0
  needInitial : Bool := true
  /-- After an initial set or a step: the next measurement starts s afresh (R277). -/
  afresh     : Bool := true
  lastAccepted : Option Nat := none
  lastMeasured : Option Nat := none
  lockRun    : Nat := 0
  unlockRun  : Nat := 0
  jumpLocked : Bool := false
  holdoverOver : Bool := false
  /-- The waiting measurement of R278: θ in 2^-16 ns and the device time of its arrival. -/
  held       : Option (Int × Nat) := none
  firstHeld  : Option Nat := none
  tokensStopped : Bool := false
  servoOffset : Int := 0
  servoPath  : Nat := 0
  steps      : Nat := 0
  jumps      : Nat := 0
  heldCount  : Nat := 0
  tokenWaits : Nat := 0
  ppsMode    : Nat := 0
  ppsWidth   : Nat := 100
  ppsOffset  : Int := 0
  ppsOut     : Bool := false
  /-- The latest whole second that PPS_OUT has marked. -/
  ppsMarked  : Option Int := none
  /-- Network time at which PPS_OUT falls. -/
  ppsFall    : Int := 0
  ppsIn      : Result := {}
  dalovoLate : Nat := 0
  asym       : Tab Int := []
  ptp        : Ptp := {}
  deriving DecidableEq, Repr

end Sys2Proof.Machine
end

