-- ==== Sys2Proof/Machine/Units/Chip.lean ====
section
/-! DEFINITION. The state of start-up, identity, the digest and the always-on island (chapter "Start-up, image and
identity"), and of housekeeping (chapter "Temperature, ADC and DAC"). -/

namespace Sys2Proof.Machine

/-- OTP contents (R464, R225). -/
structure Otp where
  identity  : Nat := 0
  deviceLen : Nat := 0
  deviceCert : List Byte := []
  ownerFused : Bool := false
  ownerKeyHash : BitVec 256 := 0
  vendorKeyHash : BitVec 256 := 0
  /-- Trim of each temperature sensor, added to its reading. -/
  tempTrims : Tab Int := []
  deriving DecidableEq, Repr

/-- The restart record (R458). -/
structure RestartRecord where
  valid  : Bool := false
  hash   : BitVec 256 := 0
  table  : Tab (Option Conn) := []
  /-- By tile: expected epoch, last latched serial, identity. -/
  tiles  : List (Nat × Nat × Serial × Option Nat) := []
  /-- Outstanding tokens with serial, launch time, footprint and clauses. -/
  tokens : List Launch := []
  deriving DecidableEq, Repr

/-- Start-up, identity and digest. -/
structure Chip where
  /-- POR_N is low, or an always-on supply is below its reset level (R443, R497). -/
  por       : Bool := false
  /-- RESET_N is high. -/
  resetHigh : Bool := false
  mainPower : Bool := false
  mainRun   : Bool := false
  resetHeld : Bool := false
  heldSince : Nat := 0
  heldMs    : Nat := 0
  heldReported : Bool := false
  resetCause : Nat := 0
  resetCount : Nat := 0
  /-- The flash read of the image is in progress (R452). -/
  imageReading : Bool := false
  readRetried : Bool := false
  imageApplied : Bool := false
  imageResult : Nat := 0
  imageSection : Nat := 0
  imageRecord : Nat := 0
  image     : Image := {}
  /-- Fabric class of Table 2-6 and n, m of a Clos fabric (R54). -/
  fabClass  : Nat := 0
  closN     : Nat := 0
  closM     : Nat := 0
  heldFabric : Bool := false
  setChecked : Bool := false
  resolved  : Bool := false
  ready     : Word32 := 0
  readyEvent : Word32 := 0
  expanded  : List Nat := []
  restart   : RestartRecord := {}
  restartMode : Nat := 0
  restartApplied : Nat := 0
  restartReverted : Nat := 0
  restartConns : Nat := 0
  /-- Connections entered at a restart, by input port (R462). -/
  restored  : List Nat := []
  /-- Elements that tokens resolved at a restart or a takeover move (R462). -/
  resolvedMoves : List Nat := []
  /-- Elements held as strays (R461). -/
  strays    : List Nat := []
  /-- Device time at which READY.DDR was set (R459). -/
  ddrAt     : Nat := 0
  digest    : BitVec 256 := 0
  digestSerial : Nat := 0
  /-- A recomputation runs; another change came during it (R466). -/
  digestBusy : Bool := false
  digestAgain : Bool := false
  digestCurrent : Bool := false
  digestRec : Nat := 0
  /-- GET_DIGEST verbs with WAIT = 1 that wait for CURRENT (R468). -/
  digestWaits : List (Hdr × Nat × BitVec 256) := []
  connSel   : Nat := 0
  aonRecSel : Nat := 0
  sbMainAddr : Nat := 0
  ownerCert : List Byte := []
  ownerValid : Bool := false
  otp       : Otp := {}
  deriving DecidableEq, Repr

/-- A temperature sensor (R471, R472, R477). -/
structure TempSensor where
  reading : Int := 0
  valid   : Bool := false
  band    : Nat := 0
  max     : Option Int := none
  goodRounds : Nat := 2
  prev    : Option Int := none
  deriving DecidableEq, Repr

/-- An ADC sequence entry with its result (R481, R482). -/
structure AdcEntry where
  input  : Option Nat := none
  ref    : Nat := 0
  low    : Nat := 0
  high   : Nat := 0xFFF
  code   : Nat := 0
  settling : Bool := false
  window : Bool := false
  alarm  : Bool := false
  /-- A write of ADC_SEQ_e during a conversion of the entry, which takes effect at the next one: input, reference, LOW,
HIGH (R481). -/
  next   : Option (Nat × Nat × Nat × Nat) := none
  deriving DecidableEq, Repr

/-- A DAC channel (R484 to R487). -/
structure Dac where
  sine   : Bool := false
  gain2  : Bool := false
  refPin : Bool := false
  toCal  : Bool := false
  /-- DAC_CTRL_k has been written since RESET_N was released. -/
  written : Bool := false
  busConflict : Bool := false
  code   : Nat := 0
  clear  : Nat := 0
  ftw    : Nat := 0
  center : Nat := 0x8000
  ampl   : Nat := 0
  /-- Code that the sine has last set. -/
  sineCode : Nat := 0
  deriving DecidableEq, Repr

/-- Housekeeping. -/
structure House where
  temps   : Tab TempSensor := []
  hottest : Int := 0
  hotSrc  : Nat := 0
  warn    : Bool := false
  throttle : Bool := false
  shutdown : Bool := false
  centralBand : Nat := 0
  throttles : Nat := 0
  sensorFails : Nat := 0
  adcRun  : Bool := true
  adcLast : Nat := 31
  adc     : Tab AdcEntry := []
  /-- Entry being converted; the sequence stops after it; the reference and end of the conversion before (R481). -/
  adcEntry : Nat := 0
  adcStopping : Bool := false
  lastRef : Option (Nat × Nat) := none
  urgInput : Nat := 0
  urgRef  : Nat := 0
  /-- Device time at which the host's urgent conversion began. -/
  urgAt   : Nat := 0
  urgBusy : Bool := false
  urgTrigLost : Bool := false
  urgResult : Result := {}
  dacs    : Tab Dac := []
  dacClrLow : Bool := false
  deriving DecidableEq, Repr

end Sys2Proof.Machine
end

