-- ==== Sys2Proof/Machine/Units/Elements.lean ====
section
/-! DEFINITION. The state of the elements (chapters "The photonic fabric", "Element loops", "Routing and placement",
"Calibration"), of the classes, of the lock-ins and of the journal. -/

namespace Sys2Proof.Machine

/-- Table 2-7; code 0b111 is what a register shows for an element of a tile that is not placed (R45). -/
inductive EState where
  | uncal | darkOff | darkOn | lit | switching | suspect | retired
  deriving DecidableEq, Repr

/-- A state event of R59 that waits for the element's next sample boundary (R60). -/
inductive ElemEvent where
  | retire
  | suspect
  | restore
  /-- A latched launch: new target, LIT intent, whether the drive shape plays, the class from then on. -/
  | launch (on lit : Bool) (moves : Bool)
  | release
  | calPass
  deriving DecidableEq, Repr

/-- The law that an element's update runs (R143, R145). -/
inductive Law where
  | none | hyst | biquad (sections outMode : Nat)
  deriving DecidableEq, Repr

/-- The surface values of an element at the tile's present temperature (R224, R234). -/
structure Surface where
  onBase   : Nat := 0
  offBase  : Nat := 0
  dOn      : Nat := 0
  dOff     : Nat := 0
  pullIn   : Nat := 0
  release  : Nat := 0
  /-- INV_SLOPE, unsigned Q4.12. -/
  invSlope : Nat := 0
  deriving DecidableEq, Repr

/-- One element with its 128-byte context. -/
structure Elem where
  st        : EState := .uncal
  on        : Bool := false
  lit       : Bool := false
  events    : List ElemEvent := []
  /-- Serial and tick of the latest launch that acted on it (R69). -/
  lastLaunch : Option (Serial × Nat) := none
  /-- Class override of the standing clause (R66). -/
  clsOvr    : Option Nat := none
  /-- Class taken at the latest sample boundary; none: the class of the image's class map. -/
  cls       : Option Nat := none
  bankB     : Bool := false
  law       : Law := .none
  stepping  : Bool := false
  /-- x and y histories of each section: x(n−1), x(n−2), y(n−1), y(n−2) (R145). -/
  hist      : List (Int × Int × Int × Int) := []
  drive     : Nat := 0
  sense     : Nat := 0
  target    : Int := 0
  lastTarget : Int := 0
  err       : Int := 0
  trimOn    : Int := 0
  trimOff   : Int := 0
  outerTrim : Int := 0
  outerSat  : Bool := false
  overruns  : Nat := 0
  consec    : Nat := 0
  feTimer   : Nat := 0
  feReported : Bool := false
  handover  : Bool := false
  /-- A handover is due at the next served update (R154, R169). -/
  handoverDue : Bool := false
  /-- Device tick at which the drive shape ends. -/
  shapeEnd  : Nat := 0
  shaping   : Bool := false
  dwellEnd  : Option Nat := none
  blankEnd  : Option Nat := none
  supervised : Bool := false
  lastServed : Nat := 0
  lastSwitch : Nat := 0
  /-- Output port of the path on which the element was last LIT (R161, R231). -/
  litPort   : Option Nat := none
  /-- Sense sample of the comma before, if it arrived with a good CRC: comma number and code (R139). -/
  sample    : Option (Nat × Nat) := none
  swapSeen  : Bool := true
  inUse     : Surface := {}
  /-- What the calibration has brought the bases to go towards (R235). -/
  goal      : Surface := {}
  entryValid : Bool := false
  /-- IL_EST from the calibration set or set by the manager; none: the image's value (R110). -/
  ilEst     : Option Nat := none
  tier      : Nat := 0
  bank      : Nat := 0
  moving    : Option (Nat × Nat) := none
  overrunPin : Option Nat := none
  hostPin   : Option Nat := none
  /-- Its context failed and has still to be rebuilt (R429). -/
  rebuilding : Bool := false
  paused    : Bool := false
  calFails  : Nat := 0
  calLast   : Nat := 0
  calLastTemp : Int := 100
  journal   : Option Int := none
  /-- The next comma boundary is a sample boundary whatever the hold-rate schedule (R60). -/
  dueNext   : Bool := false
  /-- Fast flag of the tile's mirror (R258) in this comma and from the next one on. -/
  fast      : Bool := false
  fastNext  : Bool := false
  /-- The update of this comma is scheduled and waits for its sense sample (R139, R167). -/
  due       : Bool := false
  /-- Trims of an ELEMENT_TRIM that waits for the sample boundary, and RESET_OUTER (R176). -/
  newTrims  : Option (Int × Int × Bool) := none
  /-- Launches that change its intent or its class override without moving it, and whose launch time has not passed: the
  launch time, LIT intent, override (R65). -/
  intents   : List (Nat × Bool × Option Nat) := []
  deriving DecidableEq, Repr

/-- A class in service (R148 to R150). -/
structure ClassState where
  defined   : Bool := false
  holdDiv   : Nat := 50
  driveMin  : Nat := 0
  driveMax  : Nat := 0xFFFF
  shapeOn   : List Int := []
  shapeOff  : List Int := []
  bankA     : Bank := {}
  bankB     : Bank := {}
  activeB   : Bool := false
  swapPending : Bool := false
  /-- The swap waits for the comma boundary (R150). -/
  swapDue   : Bool := false
  /-- The CLASS_SWAP verb that is to complete when SWAP_PENDING clears (R176). -/
  swapper   : Option Hdr := none
  deriving DecidableEq, Repr

/-- The lock-in of one output port (R160); values in units of 2^-16 of the current's LSB. -/
structure LockIn where
  i1 : Int := 0
  q1 : Int := 0
  i2 : Int := 0
  q2 : Int := 0
  i3 : Int := 0
  q3 : Int := 0
  p  : Int := 0
  /-- The connection that the filters run for: input port and serial of its table entry. -/
  conn : Option (Nat × Serial) := none
  last : Int := 0
  lastFlag : Option Nat := none
  deriving DecidableEq, Repr

/-- The element journal (R172 to R174). Frames are keyed by millisecond × 256 + tile. -/
structure Journal where
  frames   : Tab (List (Option Int)) := []
  /-- Frames formed and not yet written: millisecond, tile and samples. -/
  waiting  : List (Nat × Nat × List (Option Int)) := []
  /-- Frozen slots of the ring, as disjoint rising ranges: first slot and the slot after the last. -/
  frozen   : List (Nat × Nat) := []
  refused  : Nat := 0
  lost     : Nat := 0
  deriving DecidableEq, Repr

/-- The elements, classes, lock-ins, journal and the chip-wide loop and placement registers. -/
structure Loops where
  elems    : Tab Elem := []
  classes  : Tab ClassState := []
  lockIns  : Tab LockIn := []
  journal  : Journal := {}
  throttled : Bool := false
  /-- Verbs that complete at the next sample boundary of an element: element, header, opcode (R121, R176). -/
  waits     : List (Nat × Hdr × Nat) := []
  clsSel   : Nat := 0
  clsSelB  : Bool := false
  placeEid : Nat := 0
  misses   : Nat := 0
  overrunPins : Nat := 0
  deriving DecidableEq, Repr

end Sys2Proof.Machine
end

