-- ==== Sys2Proof/Machine/Units/Faults.lean ====
section
/-! DEFINITION. The state of the fault collector and of the always-on copy of its log (chapter "Faults and recovery"). -/

namespace Sys2Proof.Machine

/-- A fault record (Table 16-2). `seq` is none for a record that has no SEQ yet (R433, R437). -/
structure FaultRec where
  time     : Nat := 0
  seq      : Option Nat := none
  code     : Nat := 0
  source   : Nat := 0
  severity : Nat := 0
  simul    : Bool := false
  injected : Bool := false
  frozen   : Bool := false
  cleared  : Bool := false
  count    : Nat := 1
  detail0  : Nat := 0
  detail1  : Nat := 0
  timeLast : Nat := 0
  deriving DecidableEq, Repr

/-- An injection in progress (R439). -/
structure Injection where
  target : Nat
  unit   : Nat
  double : Bool
  react  : Bool
  deriving DecidableEq, Repr

/-- A RESUME_REGION verb whose tiles are being adopted (R442). -/
structure Resume where
  hdr   : Hdr
  tiles : List Nat
  deriving DecidableEq, Repr

/-- The fault collector, with the uncleared counts and ERR_LEVEL that the always-on island keeps. -/
structure Faults where
  /-- The on-chip log, oldest first, at most 1,024 records (R437). -/
  log       : List FaultRec := []
  /-- The DRAM spill ring, oldest first, at most 65,536 records (R437). -/
  spill     : List FaultRec := []
  /-- The always-on copy of the latest 64 records, oldest first (R437). -/
  aonCopy   : List FaultRec := []
  /-- Records made while the main side is down, oldest first (R437). -/
  aonPending : List FaultRec := []
  nextSeq   : Nat := 0
  errLevel  : Nat := 2
  unclear1  : Nat := 0
  unclear2  : Nat := 0
  unclear3  : Nat := 0
  /-- Uncleared records that the log no longer holds, as SEQ and severity; SEQ none: from before the main side's
  latest reset (R435). -/
  lostUnclear : List (Option Nat × Nat) := []
  firstValid : Bool := false
  first     : Nat := 0
  last      : Nat := 0xFFFFFFFF
  safeSeq   : Nat := 0xFFFFFFFF
  sel       : Nat := 0
  spilled   : Nat := 0
  dropped   : Nat := 0
  safeState : Bool := false
  injTarget : Nat := 0
  injReact  : Bool := false
  injDouble : Bool := false
  injUnit   : Nat := 0
  injBusy   : Option Injection := none
  injErr    : Bool := false
  injAddr0  : Word32 := 0
  injAddr1  : Word32 := 0
  /-- Tiles fenced under R427. -/
  tileFences : List Nat := []
  resumes   : List Resume := []
  deriving DecidableEq, Repr

end Sys2Proof.Machine
end

