-- ==== Sys2Proof/Machine/Units/HostIf.lean ====
section
/-! DEFINITION. The state of the PCIe function, the verb queues and the sideband (chapter "Host interface and verb
queues"), and the observable output of the block. -/

namespace Sys2Proof.Machine

/-- The states of a host queue (R300 to R303). -/
inductive QState where
  | disabled | running | draining | error
  deriving DecidableEq, Repr

/-- An event entry (Tables 11-4 and 11-5) before it is written: the header fields and bytes 24 to 63 as one
little-endian number. -/
structure Event where
  kind   : Nat
  tag    : Nat := 0
  handle : Nat := 0
  status : Nat := 0
  /-- Network time in units of 2^-16 ns. -/
  time   : Int := 0
  body   : Nat := 0
  /-- A launch report of a P0 fire: its vector is sent at once (R297). -/
  urgent : Bool := false
  deriving DecidableEq, Repr

/-- A host queue pair with its event area (R299 to R307). -/
structure Queue where
  sqBase   : Nat := 0
  cqBase   : Nat := 0
  eqBase   : Nat := 0
  size     : Nat := 4
  eqSize   : Nat := 4
  enable   : Bool := false
  sysEvents : Bool := false
  fireOnly : Bool := false
  state    : QState := .disabled
  errCode  : Nat := 0
  /-- Entries of the read of the SQ that is out (R302). -/
  reading  : Nat := 0
  sqHead   : Nat := 0
  sqTail   : Nat := 0
  cqTail   : Nat := 0
  cqHead   : Nat := 0
  eqTail   : Nat := 0
  eqHead   : Nat := 0
  cqPhase  : Bool := true
  eqPhase  : Bool := true
  eqOverflow : Bool := false
  cfgErr   : Bool := false
  cqCount  : Nat := 1
  eqCount  : Nat := 1
  time     : Nat := 0
  lost     : Nat := 0
  /-- Entries held for want of room, oldest first, at most 64 (R307). -/
  held     : List Event := []
  /-- Entries dropped since the previous OVERFLOW entry (R307). -/
  droppedSince : Nat := 0
  /-- Entries posted since the vector's last send, with the device time of the oldest (R297). -/
  cqUnsignalled : Nat := 0
  eqUnsignalled : Nat := 0
  cqOldest : Nat := 0
  eqOldest : Nat := 0
  deriving DecidableEq, Repr

/-- A verb that has arrived and whose completion has not been posted, in issue order of its source (R302, R310). -/
structure Issue where
  src    : Source
  tag    : Nat := 0
  opcode : Nat := 0
  /-- The colour admission gave it: 0 green, 1 yellow, 2 red (R322). -/
  colour : Nat := 0
  /-- The device time of arrival (R342). -/
  at_    : Nat := 0
  /-- STATUS and RESULT once it has ended. -/
  done   : Option (Nat × Nat) := none
  /-- Device time by which its work must have begun, where the verb carries TIMEOUT (R440). -/
  limit  : Option Nat := none
  /-- The queue was reset after the fetch: its entries are discarded (R320). -/
  orphan : Bool := false
  deriving DecidableEq, Repr

/-- What the block does to the outside world, in order: posted writes, messages, frames, bus answers, pin levels. -/
inductive Output where
  /-- A write of `len` bytes (little-endian `value`) to host memory. -/
  | hostWrite (addr len value : Nat)
  | msix (vector : Nat)
  /-- The data of a register or BAR2 read; none for Unsupported Request. -/
  | readData (words : List Word32)
  | unsupportedRequest
  | poisonedCompletion
  | smbusData (bytes : List Byte)
  | smbusNack
  /-- A read of host memory is requested. -/
  | hostRead (addr len : Nat) (noSnoop : Bool)
  /-- A frame for tile `tile`: name and fields as chapter "Paost tile links" gives them. -/
  | downFrame (tile : Nat) (name : String) (fields : List Nat)
  /-- A frame from a tile towards controller port `portB`. -/
  | upFrame (tile : Nat) (portB : Bool) (name : String) (fields : List Nat)
  /-- A frame on a site port. -/
  | siteFrame (port : Nat) (name : String) (fields : List Nat)
  /-- A frame on the mate port. -/
  | mateFrame (name : String) (fields : List Nat)
  deriving DecidableEq, Repr

/-- The PCIe function, the verb queues and the sideband buffers. -/
structure HostIf where
  queues   : Tab Queue := []
  issues   : List Issue := []
  /-- Events owed and not yet posted, oldest first, with the source whose event area they go to (R306). -/
  owed     : List (Source × Event) := []
  speed    : Nat := 0
  width    : Nat := 0
  bme      : Bool := false
  msixEn   : Bool := false
  flrCount : Nat := 0
  apertureDenied : Nat := 0
  d3hot    : Bool := false
  perst    : Bool := false
  /-- MSI-X table entries: address, data, unmasked. -/
  msixAddr : Tab Nat := []
  msixData : Tab Nat := []
  msixUnmasked : Tab Bool := []
  msixPending  : Tab Bool := []
  sbCompletions : List Nat := []
  sbEvents  : List Nat := []
  sbEventDropped : Nat := 0
  sbDropped : Nat := 0
  sbOffset  : Nat := 0
  deriving DecidableEq, Repr

end Sys2Proof.Machine
end

