-- ==== Sys2Proof/Machine/Units/Links.lean ====
section
/-! DEFINITION. The state of the Paost links at the controller, and of the tiles at their far ends (chapter "Paost tile
links"). -/

namespace Sys2Proof.Machine

/-- LINK_STATUS.STATE. -/
inductive LinkState where
  | down | caps | step | active | idle
  deriving DecidableEq, Repr

/-- LINK_STATUS.TILE. -/
inductive TileState where
  | absent | adopting | quarantined | adopted
  deriving DecidableEq, Repr

/-- The token of a tile (R269). -/
inductive Token where
  | none | a | b
  deriving DecidableEq, Repr

/-- One direction's two streams at one end of a link (R249 to R251): what it sends and what it expects. -/
structure LinkPort where
  /-- Next frame numbers, one-block and multi-block. -/
  next1    : Nat := 0
  nextM    : Nat := 0
  /-- Frame numbers sent and not acknowledged, oldest first (R250). -/
  unacked1 : List Nat := []
  unackedM : List Nat := []
  /-- Next frame numbers expected from the far end. -/
  expect1  : Nat := 0
  expectM  : Nat := 0
  /-- A NAK is out for the expected frame (R251). -/
  missing1 : Bool := false
  missingM : Bool := false
  /-- Device time of the NAK. -/
  nakAt1   : Nat := 0
  nakAtM   : Nat := 0
  /-- The frame that NAKs received have named, and how many of them (R252). -/
  nakNum1  : Nat := 0
  nakCount1 : Nat := 0
  nakNumM  : Nat := 0
  nakCountM : Nat := 0
  /-- Device time of the latest acknowledgement that arrived (R252). -/
  ackAt    : Nat := 0
  /-- Device time at which an acknowledging header of each stream was last sent (R250). -/
  ackSent1 : Nat := 0
  ackSentM : Nat := 0
  eidle    : Bool := false
  deriving DecidableEq, Repr

/-- A link at the controller (R241 to R271). -/
structure Link where
  state     : LinkState := .down
  speed     : Nat := 0
  limited   : Bool := false
  blockLock : Bool := false
  tile      : TileState := .absent
  owner     : Bool := false
  portB     : Bool := false
  stale     : Bool := false
  maxSpeed  : Nat := 4
  idleEn    : Bool := true
  idleMin   : Nat := 0x60
  injectCrc : Bool := false
  /-- One-way delay in 0.1 ns (R243). -/
  delay     : Nat := 0
  trainings : Nat := 0
  crcErr    : Nat := 0
  syncErr   : Nat := 0
  replays   : Nat := 0
  downs     : Nat := 0
  bulkDiscard : Nat := 0
  /-- Identity held for the link, and that of the tile adopted last (R265). -/
  idHeld    : Option Nat := none
  tileId    : Nat := 0
  corrected : Nat := 0
  lastSerial : Serial := 0
  lastSerialAt : Option Nat := none
  epoch     : Nat := 0
  /-- Writes to the tile whose SET_EPOCH has not been sent yet (R265). -/
  epochDirty : Bool := false
  /-- Training: limits and taps (R261, R262). -/
  farMax    : Nat := 4
  farPort   : Bool := false
  farVersion : Nat := 0
  stepFails : Nat := 0
  stepSpeed : Nat := 0
  tapPre    : Nat := 0
  tapMain   : Nat := 20
  tapPost   : Nat := 0
  /-- Adoption: the claim is answered, IDENT words and READBACK parts received (R264). -/
  claimed   : Option Bool := none
  ident     : List (Nat × Word32) := []
  readback  : List (Nat × List Nat) := []
  /-- READBACK_REQ has been sent for this adoption. -/
  readAsked : Bool := false
  /-- First temperature since the link last became ACTIVE (R513), and the latest report. -/
  tempSeen  : Bool := false
  temp      : Int := 0
  /-- Corrections of a quarantined tile still to make: element and intent drive, OFF first (R267). -/
  corrections : List (Nat × Nat) := []
  /-- Acknowledgements outstanding of writes that the epoch counts (R265). -/
  acksOpen  : Nat := 0
  /-- The controller holds an expected epoch and serial for the tile: from an adoption, the restart record or the mirror
(R265, R460). -/
  known     : Bool := false
  /-- Launch slots in use (R253). -/
  launchSlots : List Nat := []
  /-- Launch slot that the next P1 launch tries first, 0 to 7 (R253). -/
  slotTurn  : Nat := 0
  /-- Tile log (R271): announced length, read offset, burst in progress and its words. -/
  logLen    : Nat := 0
  logOffset : Nat := 0
  logOpen   : Bool := false
  logBurst  : Option Nat := none
  logWords  : List Word32 := []
  near      : LinkPort := {}
  /-- Latest TBEACON sent (R260). -/
  beaconAt  : Nat := 0
  deriving DecidableEq, Repr

/-- A slot entry: element and D1 field (Table 9-3). -/
abbrev SlotEntry := Nat × Nat

/-- A shape that plays (R153). -/
structure Playing where
  elem   : Nat
  start  : Nat
  d0     : Nat
  d1     : Nat
  off    : Bool
  cls    : Nat
  deriving DecidableEq, Repr

/-- A tile, the PT-1032 at the far end (R47, R253 to R260, R269). -/
structure Tile where
  token     : Token := .none
  /-- Device time of the latest HBEAT from port A and from port B. -/
  hbeatA    : Option Nat := none
  hbeatB    : Option Nat := none
  /-- The former owner to be told that its token is lost (R269). -/
  lostTo    : Token := .none
  epoch     : Nat := 0
  lastSerial : Serial := 0
  lastSerialAt : Option Nat := none
  held      : Tab Nat := []
  serials   : Tab (Option (Serial × Nat)) := []
  slots     : Tab (List SlotEntry) := []
  /-- The slot being filled: number, count and the entries so far (R253). -/
  filling   : Option (Nat × Nat × List SlotEntry) := none
  /-- Launches taken: serial, slot and latch tick (R254). -/
  launches  : List (Serial × Nat × Nat) := []
  playing   : List Playing := []
  /-- Shape points, keyed by class × 64 + 32 × off + point. -/
  shapes    : Tab Int := []
  classes   : Tab Nat := []
  divs      : Tab Nat := []
  fast      : Tab Bool := []
  /-- Mirror changes that wait for their comma: DIV (or fast flag), key, value, comma (R258). -/
  mirrorDue : List (Bool × Nat × Nat × Nat) := []
  /-- Codes received for a comma: the comma and the element codes (R139, R258). -/
  codesDue  : Option (Nat × List (Nat × Nat)) := none
  shares    : Shares := ⟨0, 0, 0, 0⟩
  sharesDue : Option Shares := none
  time      : Nat := 0
  beaconAt  : Option Nat := none
  /-- Element that the actuator path serves (R207). -/
  actuator  : Option Nat := none
  /-- Words of the point record being written (R213). -/
  pointWords : List (Nat × Word32) := []
  pointOn   : Option (Nat × Nat) := none
  /-- Calibration trial in progress: element and trial drive (R228). -/
  trial     : Option (Nat × Nat) := none
  busChannel : Option Nat := none
  /-- Device time of the latest DRIVE codes applied; a new owner's first ones are still to come (R410). -/
  driveAt   : Nat := 0
  gapOpen   : Bool := false
  /-- The log the tile holds: length, withdrawn (R271). -/
  logLen    : Nat := 0
  withdrawn : Bool := false
  far       : LinkPort := {}
  deriving DecidableEq, Repr

/-- The links and tiles, by tile number. -/
structure Paost where
  links : Tab Link := []
  tiles : Tab Tile := []
  deriving DecidableEq, Repr

end Sys2Proof.Machine
end

