-- ==== Sys2Proof/Machine/Units/Memory.lean ====
section
/-! DEFINITION. The state of the general banks, the DDR channels, the bus matrix and the DMA channels (chapter "DMA,
memory banks, DDR and the bus matrix"). -/

namespace Sys2Proof.Machine

/-- Table 13-1. -/
inductive Power where
  | on | retain | off
  deriving DecidableEq, Repr

/-- A general bank (R343 to R353). Its bytes and the poison markers of its words lie in `Memory`. -/
structure BankState where
  owner   : Nat := 5
  pendingOwner : Option Nat := none
  power   : Power := .on
  pendingPower : Option Power := none
  rotate  : Bool := false
  /-- Device time at which an initialisation ends (R349). -/
  initEnd : Option Nat := none
  ce      : Nat := 0
  ue      : Nat := 0
  collides : Nat := 0
  deriving DecidableEq, Repr

/-- DMA_STATUS.STATE. -/
inductive DmaState where
  | idle | running | halted | dropped
  deriving DecidableEq, Repr

/-- A DMA channel (R362 to R369). -/
structure DmaChan where
  src     : Nat := 0
  dst     : Nat := 0
  count0  : Nat := 1
  esize   : Nat := 0
  count1  : Nat := 1
  count2  : Nat := 1
  /-- SRC_STEP0, DST_STEP0, SRC_STEP1, DST_STEP1, SRC_STEP2, DST_STEP2. -/
  steps   : List Word32 := [0, 0, 0, 0, 0, 0]
  enable  : Bool := false
  srcSpace : Nat := 0
  dstSpace : Nat := 0
  ns      : Bool := false
  state   : DmaState := .idle
  /-- Elements of the transfer that have been moved, in loop order. -/
  moved   : Nat := 0
  done    : Bool := false
  cfgErr  : Bool := false
  errWrite : Bool := false
  errCause : Nat := 0
  pos0    : Word32 := 0
  pos1    : Word32 := 0
  errAddr0 : Word32 := 0
  errAddr1 : Word32 := 0
  /-- Registers written since the channel was dropped (R369): addresses and counts, by register index. -/
  reprogrammed : List Nat := []
  deriving DecidableEq, Repr

/-- A DDR channel. -/
structure DdrChan where
  trained  : Bool := false
  capacity : Nat := 0
  ce       : Nat := 0
  ue       : Nat := 0
  deriving DecidableEq, Repr

/-- MX_ABORT (R361). -/
structure MxAbort where
  master  : Nat := 0
  write   : Bool := false
  target  : Nat := 0
  landed  : Nat := 0
  planned : Nat := 0
  valid   : Bool := false
  deriving DecidableEq, Repr

/-- What the matrix counts and records: MX_STAT and MX_ABORT (R360, R361). -/
structure Matrix where
  holds  : Nat := 0
  aborts : Nat := 0
  abort  : MxAbort := {}
  deriving DecidableEq, Repr

/-- The banks, DDR channels, matrix priorities and DMA. `bytes` holds the bytes of the banks (bank × 2^20 + offset) and, from
2^25 on, of the DRAM host area, in canonical form; `clean` tells of the banks' words whether their poison marker is
clear: key word, or 2^22 + bank for the words of a bank that it does not list; what neither lists is poisoned, as after OFF
(R349). -/
structure Memory where
  bytes    : List Host.Cell := []
  clean    : Tab Bool := []
  banks    : Tab BankState := []
  ownErr   : Bool := false
  powerErr : Bool := false
  mxMaster : Nat := 0
  mxTarget : Nat := 0
  /-- Priorities that differ from the masters' defaults, keyed by 64 × master + target; value + 1. -/
  mxPrio   : Tab Nat := []
  mxAge    : Nat := 0x400
  /-- The next full write of a unit stores inverted check bits: unit, double (R439). A unit is a word of the banks (byte
address / 8), or 2^22 + 2 × (host-area offset / 64) + channel for 64 bytes of DRAM. -/
  poisonNext : Option (Nat × Bool) := none
  /-- Units that hold inverted check bits: one bit, or two. -/
  bad        : List (Nat × Bool) := []
  ddr0     : DdrChan := {}
  ddr1     : DdrChan := {}
  chans    : Tab DmaChan := []
  dmaDisable : Bool := false
  deriving DecidableEq, Repr

end Sys2Proof.Machine
end

