-- ==== Sys2Proof/Machine/Units/Regions.lean ====
section
/-! DEFINITION. The state of the regions, their blocks and the comma shares (chapter "Architecture"), with the
loop-block registers of chapter "Element loops" and the row-group map of chapter "Routing and placement". -/

namespace Sys2Proof.Machine

/-- A region (R11 to R44), its loop block (R167 to R170) and its row-group map (R132). -/
structure Region where
  clockOk    : Bool := false
  fenced     : Bool := false
  /-- RESUME_REGION is adopting the region's tiles: its links and loops work again, the fence still stands (R442). -/
  resuming   : Bool := false
  holdShort  : Bool := false
  /-- Fenced cells of each block, as cell numbers (R14). -/
  linkFenced : List Nat := []
  loopFenced : List Nat := []
  smuFenced  : List Nat := []
  /-- Fenced blocks (R18). -/
  linkBlk    : Bool := false
  loopBlk    : Bool := false
  cacheBlk   : Bool := false
  smuBlk     : Bool := false
  /-- Cell failures: block, cell and comma number of each, newest first (R14). -/
  failures   : List (Block × Nat × Nat) := []
  shortCount : Nat := 0
  shortRun   : Nat := 0
  /-- RGN_STATUS and RGN_HOLD_STAT as copied at the moment of fencing (R42). -/
  snapStatus : Word32 := 0
  snapHold   : Word32 := 0
  /-- A rebalance has been asked for (R20). -/
  rebalance  : Bool := false
  /-- The loop cell that groups are being moved away from (R133). -/
  hotCell    : Option Nat := none
  degrade    : Nat := 0
  /-- Cycles of HOLD credit used in each of the latest 16 commas, newest first (R170). -/
  holdUsed   : List Nat := []
  /-- Cycles that the hold-rate elements alone asked for in each of the latest 16 commas, newest first (R170). -/
  holdDemand : List Nat := []
  fastDemand : Nat := 0
  /-- A scheduled HOLD update of this comma has not been served (R19). -/
  unserved   : Bool := false
  overruns   : Nat := 0
  feEvents   : Nat := 0
  elemSel    : Nat := 0
  /-- Load of each loop cell in the latest 16 commas, newest first, in millionths of a cycle; a group that is moved takes
its share along (R133). -/
  cellUsed   : Tab (List Nat) := []
  /-- Serving cell of a row group, keyed by 32 × (tile mod 16) + row; unlisted: cell (tile mod 16) (R132). -/
  rowCell    : Tab (Option Nat) := []
  deriving DecidableEq, Repr

/-- The chip-global comma registers (R31, R33, R43). -/
structure Comma where
  linkShare   : Shares := ⟨0x30, 0x20, 0x50, 0x30⟩
  loopShare   : Shares := ⟨0x80, 0x20, 0x20, 0x20⟩
  pendingLink : Option Shares := none
  pendingLoop : Option Shares := none
  shareErr    : Bool := false
  deriving DecidableEq, Repr

end Sys2Proof.Machine
end

