-- ==== Sys2Proof/Machine/Units/Safety.lean ====
section
/-! DEFINITION. The state of the light-safety unit (chapter "Light safety"). Times are device ticks; the unit's own
clock runs in the always-on island (assumption log 17). -/

namespace Sys2Proof.Machine

/-- ILK_STATUS.STATE. -/
inductive IlkState where
  | unused | ok | demand | discrepancy
  deriving DecidableEq, Repr

/-- An interlock input (R371 to R373). Levels are "closed". -/
structure Ilk where
  rawA    : Bool := false
  rawB    : Bool := false
  filtA   : Bool := false
  filtB   : Bool := false
  state   : IlkState := .unused
  /-- The steps 1 and 2 that end a DISCREPANCY have been seen (R373). -/
  seenNon : Bool := false
  seenPerm : Bool := false
  deriving DecidableEq, Repr

/-- LEN_STATUS.CAUSE. -/
inductive LenCause where
  | none | fbkStart | fbkTimeout | testFail | stuckOn | lsuFault
  deriving DecidableEq, Repr

/-- TP_STATUS.LAST. -/
inductive TestResult where
  | none | passed | incomplete | failed
  deriving DecidableEq, Repr

/-- A light-enable output (R374 to R378). -/
structure Len where
  on       : Bool := false
  cause    : LenCause := .none
  ackWait  : Bool := false
  forceOff : Bool := false
  /-- FBKk reads contactor open. -/
  fbkOpen  : Bool := true
  /-- The output has been energised, or acknowledged under R374, since POR_N. -/
  everOn   : Bool := false
  last     : TestResult := .none
  /-- Device time at which the next test pulse falls due (R377). -/
  tpDue    : Option Nat := none
  /-- A test pulse is in progress; its first check has been made. -/
  inPulse  : Bool := false
  check1   : Option Bool := none
  /-- Device time of the start of the pulse in progress, and of the end of the last one (R376, R377). -/
  pulseAt  : Nat := 0
  pulseEnd : Option Nat := none
  /-- A demand has arrived during the pulse (R378). -/
  demandInPulse : Bool := false
  /-- Device time at which the output was last commanded on or off. -/
  changed  : Nat := 0
  /-- STUCK_ON: device time since which readback agrees with the command (R375). -/
  agreeSince : Option Nat := none
  deriving DecidableEq, Repr

/-- RC_STATUS.STATE. -/
inductive RcState where
  | notReceiving | permit | shutdown | expired
  deriving DecidableEq, Repr

/-- A binding (R389 to R391). -/
structure Rc where
  state   : RcState := .notReceiving
  lastSeq : Option Nat := none
  /-- Device time of the latest accepted message. -/
  lastAt  : Nat := 0
  /-- The first accepted message after EXPIRED has set only the last SEQ. -/
  primed  : Bool := false
  txSeq   : Nat := 0
  sending : Bool := false
  /-- Device time of the latest message sent, and the repeats of a change still due (R390). -/
  sentAt  : Nat := 0
  repeats : Nat := 0
  deriving DecidableEq, Repr

/-- The light-safety unit. -/
structure LightSafety where
  words     : List Word32 := []
  paramOk   : Bool := false
  commissioned : Bool := false
  safeState : Bool := false
  fault     : Bool := false
  commitErr : Bool := false
  recordErr : Bool := false
  /-- 0: no key word; 1: first word taken; 2: key open. -/
  keyPhase  : Nat := 0
  keyAt     : Nat := 0
  check     : Word32 := 0
  committed : Word32 := 0
  /-- Value to be written to the flash safety record, while the write is outstanding (R388). -/
  recordPending : Option Word32 := none
  /-- The safety record in flash: stored value, and its own CRC is good (R388). -/
  record    : Option (Word32 × Bool) := none
  ilks      : Tab Ilk := []
  lens      : Tab Len := []
  rcs       : Tab Rc := []
  incomplete : Nat := 0
  passed    : Nat := 0
  cntCrc    : Nat := 0
  cntSeq    : Nat := 0
  cntIdent  : Nat := 0
  cntWd     : Nat := 0
  deriving DecidableEq, Repr

end Sys2Proof.Machine
end

