-- ==== Sys2Proof/Machine/Units/Smu.lean ====
section
/-! DEFINITION. The state of the SMU engine, the reference channels and the calibration bus (chapter "Source-measure
engine"). Each field's comment names its rule. -/

namespace Sys2Proof.Machine

/-- A monitor channel as the controller knows it from its latest sample (R192 to R206). -/
structure Monitor where
  range     : Nat := 6 -- R194
  flag      : Bool := false -- R196
  /-- Latest photocurrent, linear current format (R202). -/
  current   : Int := 0
  /-- A sample has arrived since adoption (R203). -/
  sampled   : Bool := false
  los       : Bool := false -- R205
  /-- The tile end of the channel: comparator raised (R205). -/
  tileLos   : Bool := false
  /-- Connected to the calibration bus (R220). -/
  onBus     : Bool := false
  /-- A compliance clamp stands at the tile (R197). -/
  clamped   : Bool := false
  deriving DecidableEq, Repr

/-- A run of a sweep list, queued or running (R214 to R218). -/
structure Run where
  target    : Nat := 0
  actuator  : Bool := false
  compEnd   : Bool := false
  downCount : Nat := 16
  /-- TIMEOUT in ms (R215). -/
  timeout   : Nat := 100
  resultAddr : Nat := 0
  src       : Source := .sideband
  tag       : Nat := 0
  /-- The single-shot point of SS_CTRL, which no verb issued (R221). -/
  single    : Bool := false
  /-- Region sequencer that runs the list (R214). -/
  seqr      : Option Nat := none
  point     : Nat := 0
  /-- A point is in progress. -/
  active    : Bool := false
  /-- Device time at which the list or point became ready to begin (R215). -/
  readySince : Nat := 0
  /-- Flags that events have set on the point in progress (Table 7-5). -/
  compliance : Bool := false
  compSampling : Bool := false
  aborted   : Bool := false
  blocked   : Bool := false
  completed : Nat := 0
  nCompliance : Nat := 0
  nBlocked  : Nat := 0
  nAborted  : Nat := 0
  /-- End code of Table 7-6, once the run has ended and its channel has still to rest. -/
  ended     : Option Nat := none
  /-- The SWEEP_STOP verb that ended it (R218). -/
  stopper   : Option Hdr := none
  lastRange : Nat := 0
  lastFlags : Nat := 0
  lastValue : Int := 0
  lastCode  : Int := 0
  lastUsed  : Nat := 0
  /-- POINT_RESULT words received for the point (R213). -/
  words     : List (Nat × Word32) := []
  deriving DecidableEq, Repr

/-- A reference channel (R219). -/
structure RefChannel where
  forceEn : Bool := false
  measureCurrent : Bool := false
  range   : Nat := 2
  connect : Bool := false
  force   : Int := 0
  deriving DecidableEq, Repr

/-- Who holds the calibration bus (R220). -/
inductive BusHolder where
  | nobody | manager (tile channel : Nat) | request (tile channel : Nat)
  deriving DecidableEq, Repr

/-- The SMU engine. -/
structure Smu where
  monitors  : Tab Monitor := []
  lists     : Tab (List PointRec) := []
  runs      : Tab (Option Run) := []
  busFault  : Bool := false
  compliance : Nat := 0
  rangeChanges : Nat := 0
  portSel   : Nat := 0
  portSelIn : Bool := false
  portResult : Result := {}
  ssTarget  : Nat := 0
  ssActuator : Bool := false
  ssTrigLost : Bool := false
  ssPoint   : List Word32 := [0, 0, 0, 0]
  ssRun     : Option (Run × PointRec) := none
  ssResult  : Result := {}
  ref0      : RefChannel := {}
  ref1      : RefChannel := {}
  refSel1   : Bool := false
  refBusy   : Option (Bool × Nat) := none
  refResult : Result := {}
  refConflict : Bool := false
  refTrigLost : Bool := false
  bus       : BusHolder := .nobody
  /-- Device time at which the tile of the bus was lost (R220). -/
  busLostAt : Option Nat := none
  busTile   : Nat := 0
  busChannel : Nat := 0
  busRequest : Bool := false
  deriving DecidableEq, Repr

end Sys2Proof.Machine
end

