-- ==== Sys2Proof/Machine/State.lean ====
section
/-! DEFINITION. The state of the block as plain data, its faults and refusals, and the state after reset. -/

namespace Sys2Proof.Machine

/-- A host memory access that a verb waits for (row VERB_HOST_DATA_DONE): the verb as it was carried out. -/
structure HostOp where
  hdr  : Hdr
  verb : Instr
  deriving DecidableEq, Repr

/-- The whole state of the KX-2620 with the tiles at the far ends of its links. -/
structure State where
  /-- Commands that wait, first in, first out. -/
  pending : List Instr := []
  /-- What the block has done to the outside world, oldest first. -/
  out     : List Output := []
  /-- How many free values have been drawn (`Config.freeValue`). The model's own field. -/
  free    : Nat := 0
  /-- Device time in ticks of 0.8 ns (R272). -/
  dt      : Nat := 0
  time    : TimeUnit := {}
  faults  : Faults := {}
  host    : HostIf := {}
  comma   : Comma := {}
  regions : Tab Region := []
  store   : Store := {}
  loops   : Loops := {}
  smu     : Smu := {}
  calib   : Calib := {}
  paost   : Paost := {}
  adm     : Admission := {}
  mem     : Memory := {}
  matrix  : Matrix := {}
  lsu     : LightSafety := {}
  mate    : Mate := {}
  chip    : Chip := {}
  house   : House := {}
  /-- Host memory accesses made for verbs and not yet answered, oldest first. -/
  hostOps : List HostOp := []
  deriving DecidableEq, Repr

/-- Why the block stops with a fault. -/
inductive Fault where
  /-- An access names an address that does not exist in its space. Raised by BAR2_ACCESS beyond the 32 MiB of BAR2
  and by REGISTER_WRITE and BAR0_ACCESS_ERROR beyond the 16 MiB of BAR0. Safe: the block stops where the hardware
  could not have been addressed. -/
  | noSuchAddress (addr : Nat)
  deriving DecidableEq, Repr

/-- Why the block refuses a command. -/
inductive Refusal where
  /-- The command has no meaning in the model yet. Raised by the arms of `exec` alone. Safe. -/
  | notModelled (mnemonic : String)
  deriving DecidableEq, Repr

/-- The state right after POR_N has been released (R8, R443): the always-on island runs, the main side is still in
reset, every register holds the value of its Reset column, device time has not started. -/
def State.reset : State := {}

end Sys2Proof.Machine
end

