-- ==== Sys2Proof/Machine/Ops.lean ====
section
/-! DEFINITION. The named operations over the state: sparse tables, accessors, counters, network time, outputs,
messages, events and completions. -/

namespace Sys2Proof.Machine

/-! ## Sparse tables -/

/-- The value of key `k`, the default `d` where the table does not list it. -/
def tabGet {α : Type} (t : Tab α) (d : α) (k : Nat) : α :=
  match t with
  | [] => d
  | (k', v) :: r => if k = k' then v else if k < k' then d else tabGet r d k

/-- Key `k` gets `v`; the keys stay rising. -/
def tabSet {α : Type} (t : Tab α) (k : Nat) (v : α) : Tab α :=
  match t with
  | [] => [(k, v)]
  | (k', w) :: r =>
    if k < k' then (k, v) :: (k', w) :: r
    else if k = k' then (k, v) :: r
    else (k', w) :: tabSet r k v

/-- Change the value of key `k` by `f`. -/
def tabMod {α : Type} (t : Tab α) (d : α) (k : Nat) (f : α → α) : Tab α :=
  tabSet t k (f (tabGet t d k))

/-! ## Numbers -/

/-- A saturating counter's next value. -/
def satInc (n top : Nat) : Nat := if n < top then n + 1 else top

/-- A saturating sum. -/
def satAdd (n k top : Nat) : Nat := min (n + k) top

/-- `v` limited to `lo`..`hi` (R9). -/
def clampNat (lo hi v : Nat) : Nat := if v < lo then lo else if hi < v then hi else v

/-- `v` limited to `lo`..`hi`. -/
def clampInt (lo hi v : Int) : Int := if v < lo then lo else if hi < v then hi else v

/-- Bits `[lo + len - 1 : lo]` of a number. -/
def bits (v lo len : Nat) : Nat := v / 2 ^ lo % 2 ^ len

/-- Bit `i` of a number. -/
def bit (v i : Nat) : Bool := v / 2 ^ i % 2 == 1

/-- A two's complement field of `len` bits as an integer. -/
def signed (v len : Nat) : Int := if v < 2 ^ (len - 1) then v else (v : Int) - 2 ^ len

/-- An integer as a two's complement field of `len` bits. -/
def unsign (v : Int) (len : Nat) : Nat := (v % (2 ^ len : Int)).toNat

/-- 1 or 0. -/
def b2n (b : Bool) : Nat := if b then 1 else 0

/-- Rounded quotient, halves away from zero (R143, R145, R153). -/
def roundDiv (n d : Int) : Int :=
  if 0 ≤ n then (2 * n + d) / (2 * d) else -((2 * (-n) + d) / (2 * d))

/-- Absolute value as a natural number. -/
def absN (v : Int) : Nat := v.natAbs

/-- The serial `a` is newer than `b` (R69). -/
def newer (a b : Serial) : Bool :=
  let d := (a - b).toNat
  1 ≤ d && d ≤ 32767

/-! ## Times: ticks of 0.8 ns -/

/-- Ticks of a microsecond: also the length of a comma (R30). -/
def usTicks : Nat := 1250

/-- Ticks of a millisecond. -/
def msTicks : Nat := 1250000

/-- Ticks of a second. -/
def secTicks : Nat := 1250000000

/-- Ticks that cover `ns` nanoseconds, rounded up. -/
def nsTicks (ns : Nat) : Nat := (ns * 5 + 3) / 4

/-- Nanoseconds of `t` ticks, rounded up. -/
def ticksNsUp (t : Nat) : Nat := (t * 4 + 4) / 5

/-- The comma number (R30). -/
def State.commaNo (s : State) : Nat := s.dt / usTicks

/-- The journal's millisecond number (R172). -/
def State.milli (s : State) : Nat := s.commaNo / 1000

/-- Network time units (2^-16 ns) in one nanosecond. -/
def ntNs : Int := 65536

/-- Network time units in one second. -/
def ntSec : Int := 65536 * 1000000000

/-- Network time of device tick `t`, in 2^-16 ns (R274). -/
def TimeUnit.nt (u : TimeUnit) (t : Nat) : Int :=
  u.baseNt + ((t : Int) - u.baseDt) * 4 * 65536 * (2 ^ 48 + u.rate) / (5 * 2 ^ 48)

/-- Network time now. -/
def State.now (s : State) : Int := s.time.nt s.dt

/-- A network time as its 14 bytes, little-endian (R273): seconds, nanoseconds, fraction. -/
def ntBytes (t : Int) : Nat :=
  let sec := unsign (t / ntSec) 64
  let r := (t % ntSec).toNat
  sec + 2 ^ 64 * (r / 65536) + 2 ^ 96 * (r % 65536)

/-- Network time is locked, in the sense of R279. -/
def TimeUnit.locked (u : TimeUnit) : Bool :=
  match u.state with
  | .locked => true
  | .holdover => !u.holdoverOver
  | .jump => u.jumpLocked && !u.holdoverOver
  | _ => false

/-! ## Accessors -/

def State.elem (s : State) (e : Nat) : Elem := tabGet s.loops.elems {} e
def State.setElem (s : State) (e : Nat) (v : Elem) : State :=
  { s with loops := { s.loops with elems := tabSet s.loops.elems e v } }
def State.modElem (s : State) (e : Nat) (f : Elem → Elem) : State := s.setElem e (f (s.elem e))
def State.cls (s : State) (c : Nat) : ClassState := tabGet s.loops.classes {} c
def State.setCls (s : State) (c : Nat) (v : ClassState) : State :=
  { s with loops := { s.loops with classes := tabSet s.loops.classes c v } }
def State.link (s : State) (t : Nat) : Link := tabGet s.paost.links {} t
def State.setLink (s : State) (t : Nat) (v : Link) : State :=
  { s with paost := { s.paost with links := tabSet s.paost.links t v } }
def State.modLink (s : State) (t : Nat) (f : Link → Link) : State := s.setLink t (f (s.link t))
def State.tile (s : State) (t : Nat) : Tile := tabGet s.paost.tiles {} t
def State.setTile (s : State) (t : Nat) (v : Tile) : State :=
  { s with paost := { s.paost with tiles := tabSet s.paost.tiles t v } }
def State.modTile (s : State) (t : Nat) (f : Tile → Tile) : State := s.setTile t (f (s.tile t))
def State.region (s : State) (n : Nat) : Region := tabGet s.regions {} n
def State.setRegion (s : State) (n : Nat) (v : Region) : State := { s with regions := tabSet s.regions n v }
def State.modRegion (s : State) (n : Nat) (f : Region → Region) : State := s.setRegion n (f (s.region n))
def State.queue (s : State) (q : Nat) : Queue := tabGet s.host.queues {} q
def State.setQueue (s : State) (q : Nat) (v : Queue) : State :=
  { s with host := { s.host with queues := tabSet s.host.queues q v } }
def State.modQueue (s : State) (q : Nat) (f : Queue → Queue) : State := s.setQueue q (f (s.queue q))
def State.sent (s : State) (h : Nat) : Sentence := tabGet s.store.sentences {} h
def State.setSent (s : State) (h : Nat) (v : Sentence) : State :=
  { s with store := { s.store with sentences := tabSet s.store.sentences h v } }
def State.modSent (s : State) (h : Nat) (f : Sentence → Sentence) : State := s.setSent h (f (s.sent h))
def State.conn (s : State) (ip : Nat) : Option Conn := tabGet s.store.table none ip
def State.setConn (s : State) (ip : Nat) (v : Option Conn) : State :=
  { s with store := { s.store with table := tabSet s.store.table ip v } }
def State.para (s : State) (p : Nat) : Para := tabGet s.store.paras {} p
def State.setPara (s : State) (p : Nat) (v : Para) : State :=
  { s with store := { s.store with paras := tabSet s.store.paras p v } }
def State.bank (s : State) (b : Nat) : BankState := tabGet s.mem.banks {} b
def State.setBank (s : State) (b : Nat) (v : BankState) : State :=
  { s with mem := { s.mem with banks := tabSet s.mem.banks b v } }
def State.chan (s : State) (c : Nat) : DmaChan := tabGet s.mem.chans {} c
def State.setChan (s : State) (c : Nat) (v : DmaChan) : State :=
  { s with mem := { s.mem with chans := tabSet s.mem.chans c v } }
def State.monitor (s : State) (m : Nat) : Monitor := tabGet s.smu.monitors {} m
def State.setMonitor (s : State) (m : Nat) (v : Monitor) : State :=
  { s with smu := { s.smu with monitors := tabSet s.smu.monitors m v } }
def State.run (s : State) (l : Nat) : Option Run := tabGet s.smu.runs none l
def State.setRun (s : State) (l : Nat) (v : Option Run) : State :=
  { s with smu := { s.smu with runs := tabSet s.smu.runs l v } }
def State.list (s : State) (l : Nat) : List PointRec := tabGet s.smu.lists [] l
def State.peer (s : State) (p : Nat) : Peer := tabGet s.adm.peers {} p
def State.setPeer (s : State) (p : Nat) (v : Peer) : State :=
  { s with adm := { s.adm with peers := tabSet s.adm.peers p v } }
def State.ilk (s : State) (i : Nat) : Ilk := tabGet s.lsu.ilks {} i
def State.setIlk (s : State) (i : Nat) (v : Ilk) : State :=
  { s with lsu := { s.lsu with ilks := tabSet s.lsu.ilks i v } }
def State.len (s : State) (k : Nat) : Len := tabGet s.lsu.lens {} k
def State.setLen (s : State) (k : Nat) (v : Len) : State :=
  { s with lsu := { s.lsu with lens := tabSet s.lsu.lens k v } }
def State.rc (s : State) (j : Nat) : Rc := tabGet s.lsu.rcs {} j
def State.setRc (s : State) (j : Nat) (v : Rc) : State :=
  { s with lsu := { s.lsu with rcs := tabSet s.lsu.rcs j v } }
def State.dac (s : State) (k : Nat) : Dac := tabGet s.house.dacs {} k
def State.setDac (s : State) (k : Nat) (v : Dac) : State :=
  { s with house := { s.house with dacs := tabSet s.house.dacs k v } }
def State.adcEntry (s : State) (e : Nat) : AdcEntry := tabGet s.house.adc {} e
def State.setAdcEntry (s : State) (e : Nat) (v : AdcEntry) : State :=
  { s with house := { s.house with adc := tabSet s.house.adc e v } }

/-- The applied image. -/
def State.img (s : State) : Image := s.chip.image

/-! ## Outputs -/

/-- The block does `o`. -/
def State.emit (s : State) (o : Output) : State := { s with out := s.out ++ [o] }

/-- A frame of stream `multi` leaves a port at device time `t` (R249, R250): it takes the stream's next number and is
kept until it is acknowledged; the wait for an acknowledgement begins with the first frame outstanding (R252). -/
def LinkPort.send (p : LinkPort) (multi : Bool) (t : Nat) : LinkPort :=
  let at_ := if p.unacked1.isEmpty && p.unackedM.isEmpty then t else p.ackAt
  if multi then { p with nextM := (p.nextM + 1) % 4096, unackedM := p.unackedM ++ [p.nextM], ackAt := at_, ackSentM := t,
                         ackSent1 := t }
  else { p with next1 := (p.next1 + 1) % 4096, unacked1 := p.unacked1 ++ [p.next1], ackAt := at_ }

/-- The block is a link block: not numbered and never replayed (Table 9-1). -/
def isLinkBlock (name : String) : Bool := name == "LINKCTL" || name == "TRAIN" || name == "REPLAY"

/-- The frame is a multi-block frame (Table 9-2). -/
def isMulti (name : String) : Bool := name == "DRIVE" || name == "SENSE" || name == "READBACK"

/-- The frame is a write that the tile's expected epoch counts: shapes, classes, DIVs, shares, arm slots (R265). -/
def isEpochWrite (name : String) (fields : List Nat) : Bool :=
  ["SET_CLASS", "CLASS_DIV", "SHAPE_LOAD", "SET_SHARE"].contains name ||
    (name == "SLOT_OPEN" && decide (fields.getD 0 0 < 256))

/-- A frame to tile `t` (Tables 9-3 and 9-4): it enters its stream; a write advances the expected epoch (R265); an
injected CRC inversion is used up by the first frame (R439). -/
def State.down (s : State) (t : Nat) (name : String) (fields : List Nat) : State :=
  let w := isEpochWrite name fields
  (if isLinkBlock name then s else
    s.modLink t fun l => { l with
      near := l.near.send (isMulti name) s.dt
      injectCrc := false
      epoch := if w then (l.epoch + 1) % 2 ^ 32 else l.epoch
      epochDirty := l.epochDirty || w
      acksOpen := if w then l.acksOpen + 1 else l.acksOpen }).emit (.downFrame t name fields)

/-- A frame from tile `t` on upstream port `portB`; the model keeps the streams of the port that this controller's link
is on. -/
def State.up (s : State) (t : Nat) (portB : Bool) (name : String) (fields : List Nat) : State :=
  (if isLinkBlock name || portB != (s.link t).portB then s else
    s.modTile t fun x => { x with far := x.far.send (isMulti name) s.dt }).emit (.upFrame t portB name fields)

/-- The PCIe function can send: the link is not held and Bus Master Enable is set (R291, R504). -/
def State.canMaster (s : State) : Bool := s.host.bme && !s.host.d3hot && !s.host.perst && s.chip.mainRun

/-- An MSI-X message for `v`, or its pending bit while the vector is masked (R296). -/
def State.msix (s : State) (v : Nat) : State :=
  if s.host.msixEn && s.canMaster then
    if tabGet s.host.msixUnmasked false v then s.emit (.msix v)
    else { s with host := { s.host with msixPending := tabSet s.host.msixPending v true } }
  else s

/-- A fresh free value: any number at all. -/
def State.draw (s : State) : Nat × State := (Config.freeValue s.free, { s with free := s.free + 1 })

/-! ## Events and completions -/

/-- An event falls due to the event area of `src` (R306); the row EVENT_POST posts it. -/
def State.event (s : State) (src : Source) (e : Event) : State :=
  { s with host := { s.host with owed := s.host.owed ++ [(src, e)] } }

/-- Mark the first unfinished verb of `src` with `tag` and `opcode` in the issue list as ended. -/
def finishIssue (src : Source) (tag opcode status result : Nat) : List Issue → Option (List Issue)
  | [] => none
  | i :: r =>
    if i.src = src && i.tag = tag && i.opcode = opcode && i.done = none then
      some ({ i with done := some (status, result) } :: r)
    else (finishIssue src tag opcode status result r).map (i :: ·)

/-- The verb of header `h` ends with `status` and RESULT bytes `result` (R304); the row COMPLETION_POST posts its
completion in issue order. A verb that no arrival has entered is entered here. -/
def State.complete (s : State) (h : Hdr) (opcode status result : Nat) : State :=
  match finishIssue h.src h.tag opcode status result s.host.issues with
  | some l => { s with host := { s.host with issues := l } }
  | none =>
    { s with host := { s.host with issues := s.host.issues ++
      [{ src := h.src, tag := h.tag, opcode, at_ := s.dt, done := some (status, result) }] } }

/-! Status codes of Tables 3-4 and 11-6. -/
def stSuccess : Nat := 0x00
def stPartial : Nat := 0x01
def stRefused : Nat := 0x02
def stLateCancelled : Nat := 0x03
def stCancelled : Nat := 0x04
def stPoliced : Nat := 0x05
def stBadState : Nat := 0x06
def stBadField : Nat := 0x07
def stStoreFull : Nat := 0x08
def stPortBound : Nat := 0x09
def stArmConflict : Nat := 0x0A
def stScheduleFull : Nat := 0x0B
def stTimeNotLocked : Nat := 0x0C
def stHostReadError : Nat := 0x0D
def stBadOpcode : Nat := 0x0E
def stNotReady : Nat := 0x0F
def stDeferred : Nat := 0x10
def stHostWriteError : Nat := 0x11

/-- Clause reason codes of Table 3-5 and R431. -/
def rsApplied : Nat := 0x00
def rsNoRoute : Nat := 0x01
def rsNeedsRearrange : Nat := 0x02
def rsPortBusy : Nat := 0x03
def rsLineConflict : Nat := 0x04
def rsUnusable : Nat := 0x05
def rsFenced : Nat := 0x06
def rsMissed : Nat := 0x07
def rsTileLost : Nat := 0x08
def rsPreempted : Nat := 0x09
def rsWithheld : Nat := 0x0A
def rsAbsent : Nat := 0x0B
def rsBadPath : Nat := 0x0C
def rsSafeState : Nat := 0x0D

/-! ## The result register sets of R221 -/

/-- A result completes: SEQ rises, READY and NEW are set, the words are replaced. -/
def Result.complete (r : Result) (words : List Word32) : Result :=
  { r with seq := (r.seq + 1) % 256, ready := true, fresh := true, words }

/-- A new trigger: READY reads 0 until its result completes. -/
def Result.trigger (r : Result) : Result := { r with ready := false }

/-- A read of the first word: clears NEW and takes the snapshot. -/
def Result.read (r : Result) : Result := { r with fresh := false, snap := r.words }

/-- The first word's SEQ, READY and NEW. -/
def Result.head (r : Result) : Nat := r.seq + 256 * b2n r.ready + 512 * b2n r.fresh

/-! ## Bus matrix -/

/-- Master `m` is reset (R361): whether a burst of it is open, and how far it has come, is left open. An open burst ends with
ABORT; it is recorded and counted. `unit` tells the channels of one master apart. -/
def abortBurst (s : State) (m unit : Nat) : State :=
  let v := Config.openBurst m unit s.dt
  let planned := v / 2 % 32 + 1
  { s with matrix := if v % 2 = 0 then s.matrix else { s.matrix with
    aborts := satInc s.matrix.aborts 0xFFFF
    abort := { master := m, write := bit v 6, target := v / 128 % 36, landed := v / 2 ^ 16 % planned, planned, valid := true } } }

end Sys2Proof.Machine

namespace Sys2Proof

/-- A network time value in units of 2^-16 ns (R273, R274). -/
def NetTime.units (t : NetTime) : Int :=
  (t.sec : Int) * Machine.ntSec + (t.ns : Int) * Machine.ntNs + (t.frac : Int)

/-- The index of a source in Table 12-1. -/
def Source.index : Source → Nat
  | .host q => q
  | .peer p => 8 + p
  | .sideband => 24
  | .lossOfLight => 25

end Sys2Proof
end

