-- ==== Sys2Proof/Machine/Fabric.lean ====
section
/-! DEFINITION. The fabric as the controller sees it: elements, arrays, lines, wiring, ports, clauses and paths
(chapters "The photonic fabric" and "Clauses, sentences and paragraphs"). -/

namespace Sys2Proof

open Machine

/-! ## Elements and tiles -/

def eidTile (e : Nat) : Nat := e / 1024
def eidRow (e : Nat) : Nat := e / 32 % 32
def eidCol (e : Nat) : Nat := e % 32
def tileRegion (t : Nat) : Nat := t / 16

/-- Tiles that the image places, array by array. -/
def Image.tiles (i : Image) : List Nat := i.arrays.flatMap ArrayRec.tiles

/-- The image places tile `t`. -/
def Image.placed (i : Image) (t : Nat) : Bool := i.tiles.contains t

/-- `e` is an element of a placed tile (R45). -/
def Image.placedEid (i : Image) (e : Nat) : Bool := decide (e < 262144) && i.placed (eidTile e)

/-- Stages of the fabric. -/
def Image.stages (i : Image) : Nat := i.arrays.foldl (fun m a => max m a.stage) 0

/-- The array of index `x` of stage `k`. -/
def Image.array (i : Image) (k x : Nat) : Option ArrayRec :=
  i.arrays.find? fun a => a.stage = k && a.index = x

/-- The array that holds tile `t`. -/
def Image.arrayOf (i : Image) (t : Nat) : Option ArrayRec := i.arrays.find? fun a => a.tiles.contains t

/-- Where an element lies: stage, array index, array row line, array column line (R48, R49). -/
structure Place where
  stage : Nat
  array : Nat
  row   : Nat
  col   : Nat
  deriving DecidableEq, Repr

/-- The place of element `e`. -/
def Image.place (i : Image) (e : Nat) : Option Place :=
  match i.arrayOf (eidTile e) with
  | none => none
  | some a =>
    let idx := a.tiles.idxOf (eidTile e)
    let per := a.blkRows * a.blkCols
    let b := idx / per
    let k := idx % per
    let row := (b / a.gb) * (32 * a.blkRows) + (if a.blkRows = 1 then 0 else 32 * k) + eidRow e
    let col := (b % a.gb) * (32 * a.blkCols) + (if a.blkCols = 1 then 0 else 32 * k) + eidCol e
    some ⟨a.stage, a.index, row, col⟩

/-- The element at row line `row` and column line `col` of an array. -/
def ArrayRec.eid (a : ArrayRec) (row col : Nat) : Option Nat :=
  let br := row / (32 * a.blkRows)
  let bc := col / (32 * a.blkCols)
  let r := row % (32 * a.blkRows)
  let c := col % (32 * a.blkCols)
  let k := if a.blkRows = 1 then c / 32 else r / 32
  match a.tiles[(br * a.gb + bc) * (a.blkRows * a.blkCols) + k]? with
  | none => none
  | some t => if br < a.ga && bc < a.gb then some (t * 1024 + (r % 32) * 32 + c % 32) else none

/-- The row neighbours of an element (chapter "The photonic fabric", "Elements"): at most two. -/
def Image.neighbours (i : Image) (e : Nat) : List Nat :=
  match i.place e with
  | none => []
  | some p =>
    match i.array p.stage p.array with
    | none => []
    | some a => (if p.col = 0 then [] else (a.eid p.row (p.col - 1)).toList) ++ (a.eid p.row (p.col + 1)).toList

/-- SLOTS of R172: whole milliseconds that JOURNAL_GIB holds. -/
def Image.journalSlots (i : Image) : Nat :=
  if i.tiles.length = 0 then 0 else i.journalGib * 2 ^ 30 / (i.tiles.length * 2048)

/-! ## Ports and wiring -/

def Image.inPort (i : Image) (p : Nat) : Option PortRec := i.inPorts.find? fun r => r.port = p
def Image.outPort (i : Image) (p : Nat) : Option PortRec := i.outPorts.find? fun r => r.port = p

/-- The port that a port reference names. -/
def Image.portRef (i : Image) (r : PortRef) : Option PortRec := if r.input then i.inPort r.port else i.outPort r.port

/-- The port record that names monitor `m`, and whether it is an input port (R51). -/
def Image.portOfMonitor (i : Image) (m : Nat) : Option (Bool × PortRec) :=
  match i.outPorts.find? fun r => r.monitor = some m with
  | some r => some (false, r)
  | none => (i.inPorts.find? fun r => r.monitor = some m).map fun r => (true, r)

/-- Where a column line of stage `k` leads: array and row line of stage `k + 1`. -/
def Image.wireFrom (i : Image) (k x c : Nat) : Option WireRec :=
  i.wiring.find? fun w => w.fromStage = k && w.fromArray = x && w.fromCol = c

/-- What feeds a row line of stage `k + 1`. -/
def Image.wireTo (i : Image) (k x r : Nat) : Option WireRec :=
  i.wiring.find? fun w => w.fromStage + 1 = k && w.toArray = x && w.toRow = r

/-- The loss-of-light record of a monitor, with the defaults of R205. -/
def Image.losOf (i : Image) (m : Nat) : LosRec :=
  (i.los.find? fun r => r.monitor = m).getD { monitor := m }

/-- The class the image's class map gives an element: its own entry, else the array's default (R66). -/
def Image.classOf (i : Image) (e : Nat) : Nat :=
  match i.classMap.find? fun p => p.1 = e with
  | some p => p.2
  | none => match i.arrayOf (eidTile e) with
    | some a => a.clsDflt
    | none => 0

/-! ## Clauses (Table 3-1) -/

/-- A clause record taken apart. `e1` to `e3` are the EID fields. -/
structure Clause where
  inPort  : Nat
  outPort : Nat
  path    : Nat
  lit     : Bool
  brk     : Bool
  clsOvr  : Nat
  clsEn   : Bool
  e1      : Nat
  e2      : Nat
  e3      : Nat
  pgroup  : Nat
  resv    : Bool
  deriving DecidableEq, Repr

/-- The fields of a clause record (R61). -/
def clauseOf (r : Rec128) : Clause :=
  let v := r.toNat
  { inPort := bits v 0 10, outPort := bits v 10 10, path := bits v 20 2, lit := bit v 22, brk := bit v 23,
    clsOvr := bits v 24 6, clsEn := bit v 30, e1 := bits v 32 18, e2 := bits v 50 18, e3 := bits v 68 18,
    pgroup := bits v 86 8, resv := bit v 31 || bits v 94 34 != 0 }

/-- The record of a clause; reserved bits 0. -/
def Clause.toRec (c : Clause) : Rec128 :=
  BitVec.ofNat 128 (c.inPort + 2 ^ 10 * c.outPort + 2 ^ 20 * c.path + 2 ^ 22 * b2n c.lit + 2 ^ 23 * b2n c.brk
    + 2 ^ 24 * c.clsOvr + 2 ^ 30 * b2n c.clsEn + 2 ^ 32 * c.e1 + 2 ^ 50 * c.e2 + 2 ^ 68 * c.e3 + 2 ^ 86 * c.pgroup)

/-- The EID field value that stands for no element in a stage the fabric does not have (R63). -/
def noEid : Nat := 0x3FFFF

/-- The elements of a routed clause: one for each stage of the fabric (R63). -/
def Clause.eids (c : Clause) (stages : Nat) : List Nat := [c.e1, c.e2, c.e3].take stages

/-- The clause with path `es`, marked ROUTED (R63). -/
def Clause.routed (c : Clause) (es : List Nat) : Clause :=
  { c with path := 2, e1 := es.getD 0 noEid, e2 := es.getD 1 noEid, e3 := es.getD 2 noEid }

/-- The checks of R62 on a clause; `true` when the clause may be staged. -/
def Image.clauseOk (i : Image) (r : Rec128) : Bool :=
  let c := clauseOf r
  !c.resv && c.path != 3 && (i.inPort c.inPort).isSome && (i.outPort c.outPort).isSome &&
    (c.brk || ((c.path != 0 || (c.e1 == noEid && c.e2 == noEid && c.e3 == noEid)) &&
      (!c.clsEn || i.classes.any fun k => k.cls == c.clsOvr)))

/-- A line of an array: stage, array, column line or row line, number. -/
abbrev Line := Nat × Nat × Bool × Nat

/-- The two lines of an element. -/
def Image.lines (i : Image) (e : Nat) : List Line :=
  match i.place e with
  | none => []
  | some p => [(p.stage, p.array, false, p.row), (p.stage, p.array, true, p.col)]

/-- The lines on which elements `es` lie. -/
def Image.linesOf (i : Image) (es : List Nat) : List Line := es.flatMap i.lines

end Sys2Proof

namespace Sys2Proof.Machine

/-! ## The connection table -/

/-- Connections in effect, with their input ports. -/
def connsOf (t : Tab (Option Conn)) : List (Nat × Conn) :=
  t.filterMap fun p => p.2.map fun c => (p.1, c)

/-- The connection that holds output port `op`. -/
def connOfOut (t : Tab (Option Conn)) (op : Nat) : Option (Nat × Conn) :=
  (connsOf t).find? fun p => (clauseOf p.2.clause).outPort = op

/-- Elements that the connections of a table set ON. -/
def onEids (t : Tab (Option Conn)) (stages : Nat) : List Nat :=
  (connsOf t).flatMap fun p => (clauseOf p.2.clause).eids stages

/-- The connection through element `e`. -/
def connThrough (t : Tab (Option Conn)) (stages e : Nat) : Option (Nat × Conn) :=
  (connsOf t).find? fun p => ((clauseOf p.2.clause).eids stages).contains e

/-- The elements that a sentence's armed list sets ON (R87). -/
def Sentence.makeEids (t : Sentence) (stages : Nat) : List Nat :=
  t.armedList.flatMap fun p =>
    let c := clauseOf p.1
    if c.brk || p.2 != rsApplied then [] else c.eids stages

/-- Sentences that hold an arm slot, with their handles: ARMED or STALE, on the way to ARMED or back to it, or with a
fire whose token is still to be issued (R87, R91). -/
def State.armedSents (s : State) : List (Nat × Sentence) :=
  s.store.sentences.filter fun p => p.2.slot.isSome

/-- Lines that armed MAKEs hold (R87), those of sentence `but` left out. -/
def State.armedLines (s : State) (but : Option Nat) : List Line :=
  (s.armedSents.filter fun p => some p.1 ≠ but).flatMap fun p =>
    s.img.linesOf (p.2.makeEids s.img.stages)

/-- Lines with an element of target ON by the table, and those of the held strays (R461). -/
def State.usedLines (s : State) (t : Tab (Option Conn)) : List Line :=
  s.img.linesOf (onEids t s.img.stages) ++ s.img.linesOf s.chip.strays

/-! ## What stops an element from being chosen -/

/-- The element lies in a fenced region. -/
def State.fencedEid (s : State) (e : Nat) : Bool := (s.region (tileRegion (eidTile e))).fenced

/-- The tile of the element is adopted, its link up and it is not fenced (R109, R267, R427). -/
def State.tileUsable (s : State) (t : Nat) : Bool :=
  let l := s.link t
  s.img.placed t && l.tile = .adopted && (l.state = .active || l.state = .idle) &&
    !s.faults.tileFences.contains t &&
    !(s.region (tileRegion t)).linkFenced.contains (t % 16)

/-- DARK-OFF on a usable tile, lines not looked at (R109). -/
def State.elemFree (s : State) (e : Nat) : Bool :=
  (s.elem e).st = .darkOff && s.tileUsable (eidTile e) && !s.fencedEid e

/-- IL_EST of an element (R110): its own value, else the image's loss map, else IL_DEFAULT. -/
def State.ilEst (s : State) (e : Nat) : Nat :=
  match (s.elem e).ilEst with
  | some v => v
  | none => match s.img.lossMap.find? fun p => p.1 = e with
    | some p => p.2
    | none => s.img.ilDefault

/-- IL_EST sum of a path (R110). -/
def State.pathCost (s : State) (es : List Nat) : Nat := es.foldl (fun n e => n + s.ilEst e) 0

/-- Class that an element's updates run with (R66, R151). -/
def State.elemClass (s : State) (e : Nat) : Nat := ((s.elem e).cls).getD (s.img.classOf e)

end Sys2Proof.Machine
end

