-- ==== Sys2Proof/Machine/Stops.lean ====
section
/-! DEFINITION. What stops on its own: light-enable outputs, sweeps, calibration runs, the calibration bus switches of
the DACs; and the fields of the safety parameter block (chapters "Light safety", "Source-measure engine",
"Calibration", "Temperature, ADC and DAC"). -/

namespace Sys2Proof.Machine

/-! ## The safety parameter block -/

/-- Word `n` of the 28 words of R384; before a block is loaded, the Reset column of its register. -/
def LightSafety.word (u : LightSafety) (n : Nat) : Nat :=
  match u.words[n]? with
  | some w => w.toNat
  | none => if n < 8 then 0x50C else if n < 12 then 0x32950000 else if n % 2 = 0 then 0 else 0x64

def LightSafety.ilkMode (u : LightSafety) (i : Nat) : Nat := bits (u.word i) 0 2
/-- FILTER of input `i` in ms. -/
def LightSafety.ilkFilter (u : LightSafety) (i : Nat) : Nat := bits (u.word i) 2 4
/-- DISCREP of input `i` in units of 5 ms. -/
def LightSafety.ilkDiscrep (u : LightSafety) (i : Nat) : Nat := bits (u.word i) 6 7
def LightSafety.ilkMask (u : LightSafety) (k : Nat) : Nat := bits (u.word (8 + k)) 0 8
def LightSafety.rcMask (u : LightSafety) (k : Nat) : Nat := bits (u.word (8 + k)) 8 8
def LightSafety.tpEn (u : LightSafety) (k : Nat) : Bool := bit (u.word (8 + k)) 16
/-- TP_PERIOD of output `k` in s. -/
def LightSafety.tpPeriod (u : LightSafety) (k : Nat) : Nat := bits (u.word (8 + k)) 17 6
def LightSafety.fbkEn (u : LightSafety) (k : Nat) : Bool := bit (u.word (8 + k)) 23
/-- FBK_TIME of output `k` in ms. -/
def LightSafety.fbkTime (u : LightSafety) (k : Nat) : Nat := bits (u.word (8 + k)) 24 6
def LightSafety.manual (u : LightSafety) (k : Nat) : Bool := !bit (u.word (8 + k)) 30
def LightSafety.used (u : LightSafety) (k : Nat) : Bool := bit (u.word (8 + k)) 31
def LightSafety.rcPeer (u : LightSafety) (j : Nat) : Nat := u.word (12 + 2 * j)
/-- WATCHDOG of binding `j` in ms. -/
def LightSafety.rcWatchdog (u : LightSafety) (j : Nat) : Nat := bits (u.word (13 + 2 * j)) 0 10
def LightSafety.rcSends (u : LightSafety) (j : Nat) : Bool := bit (u.word (13 + 2 * j)) 10
def LightSafety.rcReceives (u : LightSafety) (j : Nat) : Bool := bit (u.word (13 + 2 * j)) 11
def LightSafety.srcMask (u : LightSafety) (j : Nat) : Nat := bits (u.word (13 + 2 * j)) 12 8

/-- What MSI-X vector 21 watches (Table 11-9). -/
def LightSafety.view (u : LightSafety) : List Bool × List IlkState × List (Bool × LenCause) × List RcState :=
  ([u.paramOk, u.commissioned, u.safeState, u.fault, u.commitErr, u.recordErr, u.keyPhase == 2],
   (List.range 8).map fun i => (tabGet u.ilks {} i).state,
   (List.range 4).map fun k => ((tabGet u.lens {} k).on, (tabGet u.lens {} k).cause),
   (List.range 8).map fun j => (tabGet u.rcs {} j).state)

/-- Vector 21 is sent when anything that it watches has changed since `old` (R296). -/
def State.lsuNotify (s : State) (old : LightSafety) : State :=
  if s.lsu.view = old.view then s else s.msix 21

/-- Output `k` is not allowed: it is de-energised and, with RESTART = MANUAL, waits for an acknowledgement (R374). -/
def lenOff (s : State) (k : Nat) : State :=
  let l := s.len k
  s.setLen k { l with
    on := false
    changed := if l.on then s.dt else l.changed
    ackWait := l.ackWait || s.lsu.manual k
    demandInPulse := l.demandInPulse || l.inPulse
    tpDue := none }

/-- SAFE_STATE is signalled to the light-safety unit: every output is de-energised (R374, R430). -/
def lsuSafeState (s : State) : State :=
  let s1 := { s with lsu := { s.lsu with safeState := true } }
  (List.range 4).foldl lenOff s1

/-! ## Sweeps and calibration runs -/

/-- The list number by which the rows name the single-shot point of SS_CTRL. -/
def singleList : Nat := 256

/-- End codes of Table 7-6. -/
def endDone : Nat := 0
def endStopped : Nat := 1
def endCompliance : Nat := 2
def endDeferred : Nat := 3
def endLost : Nat := 4
def endWriteError : Nat := 5

/-- Tile of a run's target (R191). -/
def Run.tile (r : Run) : Nat := if r.actuator then eidTile r.target else r.target / 8

/-- A run is to end with `code`; the row SWEEP_RUN_END brings its channel to rest and posts its end. -/
def Run.endWith (r : Run) (code : Nat) : Run :=
  match r.ended with
  | some _ => r
  | none => { r with ended := some code, aborted := r.aborted || r.active }

/-- Tile and channel of the calibration bus's holder (R220). -/
def BusHolder.place : BusHolder → Option (Nat × Nat)
  | .nobody => none
  | .manager t c => some (t, c)
  | .request t c => some (t, c)

/-- Every run that meets `p` ends with `code` (R217), the single-shot point included. -/
def endRuns (s : State) (p : Run → Bool) (code : Nat) : State :=
  { s with smu := { s.smu with
      runs := s.smu.runs.map fun x => (x.1, x.2.map fun r => if p r then r.endWith code else r)
      ssRun := s.smu.ssRun.map fun x => if p x.1 then (x.1.endWith code, x.2) else x } }

/-- ABORT frames for the points in progress of the runs that meet `p` (R430): one for each point, with the element
of the actuator path or the number of the monitor channel. -/
def abortPoints (s : State) (p : Run → Bool) : State :=
  let rs := s.smu.runs.filterMap (·.2) ++ (s.smu.ssRun.map (·.1)).toList
  (rs.filter fun r => p r && r.active && r.ended.isNone).foldl
    (fun s r => s.down r.tile "ABORT" [if r.actuator then r.target % 1024 else r.target % 8]) s

/-- The tile that a calibration run is about. -/
def CalRun.tile (r : CalRun) : Nat := if r.kind = .channel then r.target else eidTile r.target

/-- Batches of CAL_RUN that lose a run (R240). -/
def loseBatches (bs : List CalBatch) (ids : List Nat) : List CalBatch :=
  bs.map fun b => if ids.contains b.id then { b with lost := true } else b

/-- Every calibration run that meets `p` ends LOST and leaves the queue (R230). A running micro or full run's tile is
left alone: it holds H as the hold code of the element. -/
def loseCalRuns (s : State) (p : CalRun → Bool) : State :=
  let gone := s.calib.runs.filter p
  let s1 := { s with calib := { s.calib with
      runs := s.calib.runs.filter fun r => !p r
      batches := loseBatches s.calib.batches (gone.flatMap (·.batches)) } }
  (gone.filter fun r => r.running && r.kind ≠ .channel).foldl
    (fun s r => s.modElem r.target fun e => { e with paused := false }) s1

/-! ## DACs -/

/-- Every TO_CAL switch opens (R487). -/
def openToCal (s : State) : State :=
  (List.range 4).foldl (fun s k => s.setDac k { s.dac k with toCal := false }) s

end Sys2Proof.Machine
end

