-- ==== Sys2Proof/Machine/Collector.lean ====
section
/-! DEFINITION. The fault collector: severities, journal freeze, records, the safe state (chapter "Faults and
recovery", R421 to R438, and R174). -/

namespace Sys2Proof.Machine

/-! ## Codes and severities -/

/-- Severity of a fault code (Table 16-3). -/
def severityOf (code : Nat) : Nat :=
  match code with
  | 0x0001 => 3
  | 0x0010 => 3
  | 0x0011 => 2
  | 0x0012 => 2
  | 0x0020 => 2
  | 0x0021 => 2
  | 0x0022 => 2
  | 0x0030 => 2
  | 0x0031 => 2
  | 0x0046 => 2
  | 0x0052 => 3
  | 0x0053 => 3
  | 0x0054 => 2
  | 0x0055 => 3
  | 0x0062 => 3
  | 0x0064 => 3
  | 0x0070 => 0
  | 0x0072 => 3
  | 0x0073 => 3
  | 0x0081 => 2
  | 0x0082 => 2
  | 0x00B0 => 2
  | 0x00C0 => 2
  | 0x00C1 => 2
  | _ => 1

/-- Source indices of Table 16-1. -/
def srcAon : Nat := 1
def srcLsu : Nat := 2
def srcHouse : Nat := 3
def srcTime : Nat := 4
def srcClause : Nat := 5
def srcPlace : Nat := 6
def srcSmu : Nat := 7
def srcDma : Nat := 8
def srcMatrix : Nat := 9
def srcSite : Nat := 13
def srcMate : Nat := 14
def srcMgmt : Nat := 15
def srcRegion (n : Nat) : Nat := 16 + n
def srcTile (t : Nat) : Nat := 32 + t

/-! ## The journal ring and its freeze -/

/-- The range `a` to `b - 1` joined into disjoint rising ranges. -/
def addRange (a b : Nat) : List (Nat × Nat) → List (Nat × Nat)
  | [] => if a < b then [(a, b)] else []
  | (c, d) :: r =>
    if b < c then (if a < b then (a, b) :: (c, d) :: r else (c, d) :: r)
    else if d < a then (c, d) :: addRange a b r
    else addRange (min a c) (max b d) r

/-- Slots in disjoint ranges. -/
def rangeSize (l : List (Nat × Nat)) : Nat := l.foldl (fun n p => n + (p.2 - p.1)) 0

/-- Slot `k` lies in a range. -/
def inRanges (l : List (Nat × Nat)) (k : Nat) : Bool := l.any fun p => p.1 ≤ k && k < p.2

/-- The slots of milliseconds `a` to `b` of a ring of `n` slots, joined into `l`. -/
def freezeRanges (n a b : Nat) (l : List (Nat × Nat)) : List (Nat × Nat) :=
  if n ≤ b - a + 1 then [(0, n)]
  else if a % n ≤ b % n then addRange (a % n) (b % n + 1) l
  else addRange (a % n) n (addRange 0 (b % n + 1) l)

/-- Freeze around millisecond `m` (R174): the new journal and the FROZEN flag of R438. -/
def freezeJournal (i : Image) (j : Journal) (m : Nat) : Journal × Bool :=
  let n := i.journalSlots
  if n = 0 then (j, false) else
    let new := freezeRanges n (m - i.freezePre) (m + i.freezePost) j.frozen
    if new = j.frozen then (j, true)
    else if rangeSize new > n / 2 then ({ j with refused := j.refused + 1 }, false)
    else ({ j with frozen := new }, true)

/-! ## Records -/

/-- Both DDR channels have trained (R456). -/
def State.ddrReady (s : State) : Bool := s.mem.ddr0.trained && s.mem.ddr1.trained

/-- The record would be merged with a report of this source, code and first detail at device time `t` (R424). -/
def FaultRec.merges (f : FaultRec) (r : Report) (t : Nat) : Bool :=
  f.source == r.source && f.code == r.code && f.detail0 == r.detail0 && !f.cleared && t - f.time ≤ msTicks

/-- The record with one report more (R424). -/
def FaultRec.merged (f : FaultRec) (t : Nat) : FaultRec :=
  { f with count := satInc f.count 0xFFFF, timeLast := t % 2 ^ 32 }

/-- The first record of a list that a report merges with. -/
def findMerge (l : List FaultRec) (r : Report) (t : Nat) : Option FaultRec := l.find? fun f => f.merges r t

/-- The records with the one of SEQ `q` changed. -/
def mapSeq (l : List FaultRec) (q : Option Nat) (g : FaultRec → FaultRec) : List FaultRec :=
  l.map fun f => if f.seq = q then g f else f

/-- The list without the first record that meets `p`. -/
def dropFirst (p : FaultRec → Bool) : List FaultRec → List FaultRec
  | [] => []
  | f :: r => if p f then r else f :: dropFirst p r

/-- Keep the latest `n`. -/
def latest {α : Type} (n : Nat) (l : List α) : List α := l.drop (l.length - n)

/-- An uncleared record leaves the log: its count stands until FAULT_CLEAR reaches it (R435). -/
def loseRecord (u : Faults) (f : FaultRec) : Faults :=
  if f.cleared || f.severity = 0 then u else { u with lostUnclear := u.lostUnclear ++ [(f.seq, f.severity)] }

/-- Room for one more record on-chip (R437): the oldest moves to the spill ring, or a record is dropped. -/
def makeRoom (u : Faults) (spill : Bool) : Faults :=
  if u.log.length < 1024 then u
  else if spill then
    match u.log with
    | [] => u
    | f :: r =>
      let u1 := { u with log := r, spilled := satInc u.spilled 0xFFFF }
      match u.spill with
      | g :: s => if u.spill.length < 65536 then { u1 with spill := u.spill ++ [f] }
                  else loseRecord { u1 with spill := s ++ [f] } g
      | [] => { u1 with spill := [f] }
  else
    let u1 := { u with dropped := satInc u.dropped 0xFFFF }
    match u.log.find? (·.cleared) with
    | some _ => { u1 with log := dropFirst (·.cleared) u.log }
    | none =>
      match u.log with
      | [] => u1
      | f :: r => loseRecord { u1 with log := r } f

/-- The uncleared count of severity `v` changes by one record more. -/
def countUncleared (u : Faults) (v : Nat) : Faults :=
  match v with
  | 1 => { u with unclear1 := u.unclear1 + 1 }
  | 2 => { u with unclear2 := u.unclear2 + 1 }
  | 3 => { u with unclear3 := u.unclear3 + 1 }
  | _ => u

/-- The uncleared count of severity `v` falls by one. -/
def uncountCleared (u : Faults) (v : Nat) : Faults :=
  match v with
  | 1 => { u with unclear1 := u.unclear1 - 1 }
  | 2 => { u with unclear2 := u.unclear2 - 1 }
  | 3 => { u with unclear3 := u.unclear3 - 1 }
  | _ => u

/-- ERR_N is driven low (R435). -/
def Faults.errActive (u : Faults) : Bool :=
  decide (0 < (if u.errLevel ≤ 1 then u.unclear1 else 0) + (if u.errLevel ≤ 2 then u.unclear2 else 0) + u.unclear3)

/-- The on-chip log takes record `f`: SEQ, FAULT_FIRST, FAULT_LAST (R422, R436, R437). -/
def writeRecord (u : Faults) (spill : Bool) (f : FaultRec) : Faults :=
  let q := u.nextSeq
  let u1 := makeRoom u spill
  { u1 with
    log := u1.log ++ [{ f with seq := some q }]
    nextSeq := (q + 1) % 2 ^ 32
    last := q
    first := if u.firstValid then u.first else q
    firstValid := true }

/-- A new record is written while the main side runs. -/
def recordNew (s : State) (r : Report) (sev : Nat) (simul inj : Bool) : State :=
  let (j, fr) := freezeJournal s.img s.loops.journal s.milli
  let f : FaultRec := { time := s.dt, code := r.code, source := r.source, severity := sev, simul, injected := inj,
                        frozen := fr, detail0 := r.detail0, detail1 := r.detail1, timeLast := s.dt % 2 ^ 32 }
  let q := s.faults.nextSeq
  let u := writeRecord (countUncleared s.faults sev) (s.ddrReady && !s.loops.throttled) f
  let s1 := { s with
    faults := { u with aonCopy := latest 64 (u.aonCopy ++ [{ f with seq := some q }]) }
    loops := { s.loops with journal := j } }
  if sev ≥ s.faults.errLevel then s1.msix 16 else s1

/-- A record made while the main side is down waits in the always-on memory (R437). -/
def recordAon (s : State) (r : Report) (sev : Nat) (simul : Bool) : State :=
  let f : FaultRec := { time := s.dt, code := r.code, source := r.source, severity := sev, simul,
                        detail0 := r.detail0, detail1 := r.detail1, timeLast := s.dt % 2 ^ 32 }
  let u := countUncleared s.faults sev
  { s with faults := { u with aonCopy := latest 64 (u.aonCopy ++ [f]), aonPending := u.aonPending ++ [f] } }

/-! ## The safe state -/

/-- Entry to the safe state by the record with SEQ `q` (R430): light off, no token, loops and links stopped, sweeps
and calibration runs LOST, DAC switches open, vector 16. -/
def enterSafeState (s : State) (q : Nat) : State :=
  if s.faults.safeState then s else
    let s1 := lsuSafeState { s with faults := { s.faults with safeState := true, safeSeq := q } }
    let s2 := abortPoints s1 fun _ => true
    let s3 := (s2.calib.runs.filter fun r => r.running && r.kind ≠ .channel).foldl
      (fun s r => s.down r.tile "ABORT" [r.target % 1024]) s2
    let s4 := loseCalRuns (endRuns s3 (fun _ => true) endLost) fun _ => true
    (openToCal s4).msix 16

/-- One report is written: merged or as a new record (R423, R424), then the safe state where its severity is S3.
`inj`: INJECTED; `check`: a CHECK injection, recorded at S0 (R439). -/
def recordOne (s : State) (simul inj check : Bool) (r : Report) : State :=
  let sev := if check then 0 else severityOf r.code
  if s.chip.mainRun then
    match findMerge (s.faults.log ++ s.faults.spill) r s.dt with
    | some f =>
      { s with faults := { s.faults with
          log := mapSeq s.faults.log f.seq fun g => g.merged s.dt
          spill := mapSeq s.faults.spill f.seq fun g => g.merged s.dt
          aonCopy := mapSeq s.faults.aonCopy f.seq fun g => g.merged s.dt } }
    | none =>
      let q := s.faults.nextSeq
      let s1 := recordNew s r sev simul inj
      if sev = 3 then enterSafeState s1 q else s1
  else
    match findMerge s.faults.aonPending r s.dt with
    | some f =>
      let g := fun h : FaultRec => if h = f then h.merged s.dt else h
      { s with faults := { s.faults with
          aonPending := s.faults.aonPending.map g, aonCopy := s.faults.aonCopy.map g } }
    | none =>
      let s1 := recordAon s r sev simul
      if sev = 3 then enterSafeState s1 0xFFFFFFFF else s1

/-- The order of R423: higher severity, lower source, lower code. -/
def Report.before (a b : Report) : Bool :=
  let va := severityOf a.code
  let vb := severityOf b.code
  vb < va || (va == vb && (a.source < b.source || (a.source == b.source && a.code ≤ b.code)))

/-- Sorted insertion of a report. -/
def insertReport (a : Report) : List Report → List Report
  | [] => [a]
  | b :: r => if Report.before a b then a :: b :: r else b :: insertReport a r

/-- The reports of one cycle in the order of R423. -/
def sortReports (l : List Report) : List Report := l.foldr insertReport []

/-- A report of a fenced unit is not recorded (R426). -/
def State.fencedSource (s : State) (r : Report) : Bool :=
  if 32 ≤ r.source then s.faults.tileFences.contains (r.source - 32)
  else if 16 ≤ r.source then (s.region (r.source - 16)).fenced
  else false

/-- The reports of one cycle are written in order (R423). -/
def recordReports (s : State) (rs : List Report) : State :=
  let l := sortReports (rs.filter fun r => !s.fencedSource r)
  l.foldl (fun s r => recordOne s (1 < rs.length) false false r) s

/-- One report alone in its cycle. -/
def State.report (s : State) (code source : Nat) (d0 d1 : Nat := 0) : State :=
  recordReports s [{ code, source, detail0 := d0, detail1 := d1 }]

end Sys2Proof.Machine
end

