-- ==== Sys2Proof/Machine/Route.lean ====
section
/-! DEFINITION. The route engine: candidate paths, the choice among them, the checks of explicit paths, rearrangement
(chapter "Routing and placement", R108 to R116) and the preparation of a sentence's clauses (R68). -/

namespace Sys2Proof.Machine

/-- A candidate path: its elements stage by stage, and the stage-2 array, row line and column line that order ties
(R111). -/
structure Path where
  es  : List Nat
  mid : Nat := 0
  row : Nat := 0
  col : Nat := 0
  deriving DecidableEq, Repr

/-- Fabric classes of Table 2-6 as ROUTE_STATUS.CLASS codes them. -/
def fcCrossbar : Nat := 0
def fcStrict : Nat := 1
def fcRearr : Nat := 2
def fcGeneral : Nat := 3

/-- The fabric is a Clos fabric. -/
def State.clos (s : State) : Bool := s.chip.fabClass == fcStrict || s.chip.fabClass == fcRearr

/-- The element at a row and a column line of array `x` of stage `k`, as a list of at most one. -/
def lineElem (i : Image) (k x r c : Nat) : List Nat :=
  match i.array k x with
  | none => []
  | some a => (a.eid r c).toList

/-- Every path that the wiring gives from an input port to an output port (R111). -/
def candidates (i : Image) (ip op : Nat) : List Path :=
  match i.inPort ip, i.outPort op with
  | some p, some q =>
    match i.stages with
    | 1 => if p.array = q.array then (lineElem i 1 p.array p.line q.line).map fun e => { es := [e] } else []
    | 2 =>
      (i.wiring.filter fun w => w.fromStage = 1 && w.fromArray = p.array && w.toArray = q.array).flatMap fun w =>
        (lineElem i 1 p.array p.line w.fromCol).flatMap fun e1 =>
          (lineElem i 2 q.array w.toRow q.line).map fun e2 =>
            { es := [e1, e2], mid := q.array, row := w.toRow, col := q.line }
    | 3 =>
      (i.wiring.filter fun w => w.fromStage = 1 && w.fromArray = p.array).flatMap fun w =>
        (i.wiring.filter fun v => v.fromStage = 2 && v.fromArray = w.toArray && v.toArray = q.array).flatMap fun v =>
          (lineElem i 1 p.array p.line w.fromCol).flatMap fun e1 =>
            (lineElem i 2 w.toArray w.toRow v.fromCol).flatMap fun e2 =>
              (lineElem i 3 q.array v.toRow q.line).map fun e3 =>
                { es := [e1, e2, e3], mid := w.toArray, row := w.toRow, col := v.fromCol }
    | _ => []
  | _, _ => []

/-- No line of elements `es` is among `used`. -/
def linesFree (i : Image) (used : List Line) (es : List Nat) : Bool := (i.linesOf es).all fun l => !used.contains l

/-- The path is usable (R109) with `used` as the set lines of the bitmaps. -/
def State.pathUsable (s : State) (used : List Line) (p : Path) : Bool :=
  p.es.all (fun e => s.elemFree e) && linesFree s.img used p.es

/-- The middle arrays of a Clos fabric, counted upward by their index (R111). -/
def middleArrays (i : Image) : List Nat := (i.arrays.filter (·.stage == 2)).map (·.index)

/-- Order of ties among paths of equal cost (R111), as one number. -/
def State.tieKey (s : State) (ptr : Nat) (p : Path) : Nat :=
  if s.clos then ((middleArrays s.img).idxOf p.mid + s.chip.closM - ptr) % max 1 s.chip.closM
  else (p.mid * 1024 + p.row) * 1024 + p.col

/-- The better of two paths: lower cost, then the tie rule. -/
def State.betterPath (s : State) (ptr : Nat) (best : Option Path) (p : Path) : Option Path :=
  match best with
  | none => some p
  | some b =>
    let cb := s.pathCost b.es
    let cp := s.pathCost p.es
    if cp < cb || (cp == cb && s.tieKey ptr p < s.tieKey ptr b) then some p else some b

/-- The usable path that R111 chooses. -/
def State.choosePath (s : State) (ptr : Nat) (used : List Line) (ps : List Path) : Option Path :=
  (ps.filter (s.pathUsable used)).foldl (s.betterPath ptr) none

/-! ## Reasons -/

/-- A tile's region or the tile itself is fenced. -/
def State.fencedAt (s : State) (e : Nat) : Bool := s.fencedEid e || s.faults.tileFences.contains (eidTile e)

/-- Checks 3 to 5 of Table 4-1 on elements `es`, a fenced tile counting as a fenced region (R441, log entry 130); `freed`:
elements of connections that the sentence breaks. -/
def State.elemReason (s : State) (used : List Line) (freed es : List Nat) : Nat :=
  if es.any fun e => s.fencedAt e then rsFenced
  else if es.any fun e => !(s.tileUsable (eidTile e) && ((s.elem e).st = .darkOff || freed.contains e)) then rsUnusable
  else if !linesFree s.img used es then rsLineConflict
  else rsApplied

/-- The working state of a preparation (R68). -/
structure Work where
  table  : Tab (Option Conn)
  ptr    : Nat
  /-- Elements of the connections that the sentence breaks. -/
  freed  : List Nat := []
  /-- Input ports of the clauses of the sentence: broken or made. -/
  ports  : List Nat := []
  moves  : List (Nat × Rec128) := []
  routed : Nat := 0
  noRoute : Nat := 0
  needs  : Nat := 0
  deriving DecidableEq, Repr

/-- A port of the clause is in a connection of the working copy. -/
def Work.portBusy (w : Work) (c : Clause) : Bool :=
  (tabGet w.table none c.inPort).isSome || (connOfOut w.table c.outPort).isSome

/-- The two ports already form a connection of the working copy (R65). -/
def Work.samePair (w : Work) (c : Clause) : Option Conn :=
  match tabGet w.table none c.inPort with
  | some k => if (clauseOf k.clause).outPort = c.outPort then some k else none
  | none => none

/-! ## Rearrangement (R115) -/

/-- The stage-2 array that a connection's path crosses. -/
def connMid (i : Image) (stages : Nat) (k : Conn) : Option Nat :=
  match ((clauseOf k.clause).eids stages)[1]? with
  | none => none
  | some e => (i.arrayOf (eidTile e)).map (·.index)

/-- The connection of `t` through middle array `m` and stage-1 (or last-stage) array `a`. -/
def connAt (i : Image) (stages : Nat) (t : Tab (Option Conn)) (first : Bool) (a m : Nat) : Option (Nat × Conn) :=
  (connsOf t).find? fun p =>
    let c := clauseOf p.2.clause
    connMid i stages p.2 == some m &&
      (if first then (i.inPort c.inPort).map (·.array) else (i.outPort c.outPort).map (·.array)) == some a

/-- Follow the alternating chain between `x` and `y` for at most `n` moves: each moved connection's input port and
the middle array that it moves to; none where the chain is longer. -/
def moveChain (i : Image) (stages : Nat) (t : Tab (Option Conn)) (n : Nat) (first : Bool) (a src dst : Nat) :
    Option (List (Nat × Nat)) :=
  match connAt i stages t first a src with
  | none => some []
  | some (ip, k) =>
    match n with
    | 0 => none
    | n + 1 =>
      let c := clauseOf k.clause
      let next := if first then (i.outPort c.outPort).map (·.array) else (i.inPort c.inPort).map (·.array)
      match next with
      | none => none
      | some b => (moveChain i stages (tabSet t ip none) n (!first) b dst src).map ((ip, dst) :: ·)

/-- The first middle array, by the tie rule, from which `free` holds. -/
def State.firstMid (s : State) (ptr : Nat) (free : Nat → Bool) : Option Nat :=
  ((List.range s.chip.closM).map fun k => (middleArrays s.img).getD ((ptr + k) % max 1 s.chip.closM) 0).find? free

/-- The moves brought into the working copy one by one: each moved connection is taken out, then each is made on its
new path; none where a new path is not usable. -/
def State.applyMoves (s : State) (held : List Line) (t : Tab (Option Conn)) (ms : List (Nat × Path)) :
    Option (Tab (Option Conn) × List (Nat × Rec128)) :=
  let bare := ms.foldl (fun t m => tabSet t m.1 none) t
  ms.foldl (fun acc m =>
    match acc with
    | none => none
    | some (u, out) =>
      match tabGet t none m.1 with
      | none => none
      | some k =>
        if s.pathUsable (s.usedLines u ++ held) m.2 then
          let r := ((clauseOf k.clause).routed m.2.es).toRec
          some (tabSet u m.1 (some { k with clause := r }), out ++ [(m.1, r)])
        else none) (some (bare, []))

/-- The moves for a clause in a Clos fabric. -/
def State.closMoves (s : State) (w : Work) (held : List Line) (c : Clause) : Option (List (Nat × Path)) :=
  let i := s.img
  match i.inPort c.inPort, i.outPort c.outPort with
  | some p, some _ =>
    let used := s.usedLines w.table ++ held
    let ps := candidates i c.inPort c.outPort
    let side := fun (k : Nat) (m : Nat) => ps.any fun path => path.mid == m &&
      (match path.es[k]? with
        | some e => s.elemFree e && (match (i.lines e)[if k = 0 then 1 else 0]? with
            | some l => !used.contains l
            | none => false)
        | none => false)
    match s.firstMid w.ptr (side 0), s.firstMid w.ptr (side 2) with
    | some x, some y =>
      match moveChain i 3 w.table i.maxMoves true p.array y x with
      | none => none
      | some ms => ms.mapM fun m =>
          match tabGet w.table none m.1 with
          | none => none
          | some k => ((candidates i m.1 (clauseOf k.clause).outPort).find? fun path => path.mid = m.2).map (m.1, ·)
    | _, _ => none
  | _, _ => none

/-- The moves for a clause in a GENERAL fabric: each blocking connection of the lowest-cost candidate moves to a
usable path of its own. -/
def State.generalMoves (s : State) (w : Work) (held : List Line) (c : Clause) : Option (List (Nat × Path)) :=
  let i := s.img
  match s.choosePath w.ptr (i.linesOf s.chip.strays ++ held) (candidates i c.inPort c.outPort) with
  | none => none
  | some best =>
    let ls := i.linesOf best.es
    let blockers := (connsOf w.table).filter fun p =>
      (i.linesOf ((clauseOf p.2.clause).eids i.stages)).any ls.contains
    let r := blockers.foldl (fun acc p =>
      match acc with
      | none => none
      | some (t, out) =>
        let bare := tabSet t p.1 none
        match s.choosePath w.ptr (s.usedLines t ++ held ++ ls) (candidates i p.1 (clauseOf p.2.clause).outPort) with
        | none => none
        | some path =>
          some (tabSet bare p.1 (some { p.2 with clause := ((clauseOf p.2.clause).routed path.es).toRec }),
                out ++ [(p.1, path)])) (some (w.table, ([] : List (Nat × Path))))
    r.map (·.2)

/-- Rearrangement for a clause: the new working copy and the moves, or none where it is refused (R115). -/
def State.rearrange (s : State) (w : Work) (held : List Line) (c : Clause) :
    Option (Tab (Option Conn) × List (Nat × Rec128)) :=
  let ms := if s.clos then s.closMoves w held c else s.generalMoves w held c
  match ms with
  | none => none
  | some l =>
    if l.length > s.img.maxMoves || l.any (fun m => w.ports.contains m.1 || (w.moves.any fun o => o.1 == m.1)) then none
    else s.applyMoves held w.table l

/-! ## One clause -/

/-- Outcome of a MAKE at preparation: reason and elements. -/
abbrev Routed := Nat × List Nat

/-- The next tie pointer after an AUTO route (R111). -/
def State.nextPtr (s : State) (ptr : Nat) : Nat := if s.clos then (ptr + 1) % max 1 s.chip.closM else ptr

/-- An AUTO clause whose ports are free (R111, R112, R115). -/
def State.routeAuto (s : State) (w : Work) (held : List Line) (rearr : Bool) (c : Clause) : Routed × Work :=
  let i := s.img
  let used := s.usedLines w.table ++ held
  let ps := candidates i c.inPort c.outPort
  if s.chip.fabClass = fcCrossbar then
    match ps with
    | [] => ((rsNoRoute, []), { w with noRoute := w.noRoute + 1 })
    | p :: _ =>
      match s.elemReason used [] p.es with
      | 0 => ((rsApplied, p.es), w)
      | r => ((r, []), w)
  else
    let w1 := { w with ptr := s.nextPtr w.ptr }
    match s.choosePath w.ptr used ps with
    | some p => ((rsApplied, p.es), w1)
    | none =>
      let bare := i.linesOf s.chip.strays ++ held
      if s.chip.fabClass ≠ fcStrict && ps.any (s.pathUsable bare) then
        match if rearr then s.rearrange w held c else none with
        | none => ((rsNeedsRearrange, []), { w1 with needs := w.needs + 1 })
        | some (t, ms) =>
          match s.choosePath w.ptr (s.usedLines t ++ held) ps with
          | none => ((rsNeedsRearrange, []), { w1 with needs := w.needs + 1 })
          | some p => ((rsApplied, p.es), { w1 with table := t, moves := w.moves ++ ms })
      else ((rsNoRoute, []), { w1 with noRoute := w.noRoute + 1 })

/-- Check 2 of Table 4-1: the elements that an EXPLICIT clause names form one of the paths of the wiring. -/
def pathOf (i : Image) (c : Clause) : Option (List Nat) :=
  let es := c.eids i.stages
  if (([c.e1, c.e2, c.e3].drop i.stages).all (· == noEid)) &&
      (candidates i c.inPort c.outPort).any (fun p => p.es == es) then some es
  else none

/-- An EXPLICIT or ROUTED clause whose ports are free (R113). -/
def State.checkExplicit (s : State) (w : Work) (held : List Line) (c : Clause) : Routed :=
  match pathOf s.img c with
  | none => (rsBadPath, [])
  | some es =>
    match s.elemReason (s.usedLines w.table ++ held) w.freed es with
    | 0 => (rsApplied, es)
    | r => (r, [])

/-- One MAKE clause of a preparation: its routed record, its reason, the working state after it. -/
def State.prepareMake (s : State) (held : List Line) (rearr : Bool) (w : Work) (r : Rec128) : (Rec128 × Nat) × Work :=
  let c := clauseOf r
  match w.samePair c with
  | some k =>
    let rr := (c.routed ((clauseOf k.clause).eids s.img.stages)).toRec
    ((rr, rsApplied), { w with table := tabSet w.table c.inPort (some { k with clause := rr }), routed := w.routed + 1 })
  | none =>
    let w := { w with routed := w.routed + 1 }
    if w.portBusy c then ((r, rsPortBusy), if c.path = 0 then { w with ptr := s.nextPtr w.ptr } else w)
    else
      let res := if c.path = 0 then s.routeAuto w held rearr c else (s.checkExplicit w held c, w)
      match res with
      | ((0, es), w1) =>
        let rr := (c.routed es).toRec
        ((rr, rsApplied), { w1 with table := tabSet w1.table c.inPort (some { clause := rr }) })
      | ((reason, _), w1) => ((r, reason), w1)

/-- A BREAK clause takes its connection out of the working copy (R64, R68). -/
def breakStep (stages : Nat) (w : Work) (r : Rec128) : Nat × Work :=
  let c := clauseOf r
  match w.samePair c with
  | some k => (rsApplied, { w with table := tabSet w.table c.inPort none,
                                   freed := w.freed ++ (clauseOf k.clause).eids stages })
  | none => (rsAbsent, w)

/-- All BREAK clauses first, in index order. -/
def breakAll (stages : Nat) (w : Work) (rs : List Rec128) : Work :=
  rs.foldl (fun w r => if (clauseOf r).brk then (breakStep stages w r).2 else w) w

/-- The clauses of a sentence prepared in index order against the working copy (R68): records as routed with their
reasons. -/
def State.prepareAll (s : State) (held : List Line) (rearr : Bool) (w : Work) :
    List Rec128 → List (Rec128 × Nat) × Work
  | [] => ([], w)
  | r :: rest =>
    if (clauseOf r).brk then
      let (l, w1) := s.prepareAll held rearr w rest
      ((r, rsApplied) :: l, w1)
    else
      let (x, w1) := s.prepareMake held rearr w r
      let (l, w2) := s.prepareAll held rearr w1 rest
      (x :: l, w2)

/-- The input ports of clauses. -/
def clausePorts (rs : List Rec128) : List Nat := rs.map fun r => (clauseOf r).inPort

end Sys2Proof.Machine
end

