-- ==== Sys2Proof/Machine/Launching.lean ====
section
/-! DEFINITION. Launches: what a token does to the connection table and to the elements, its frames, the settling of
its results, reversion and reversal, completions and launch reports (chapters "Clauses, sentences and paragraphs",
"Switch timing and the P0 latency bound", "Paost tile links"). -/

namespace Sys2Proof.Machine

/-! ## Reports -/

/-- The RESULT fields of Table 3-3 as one little-endian number of 8 bytes. -/
def resultFields (applied notApplied firstFail firstReason flags : Nat) : Nat :=
  applied + 2 ^ 16 * notApplied + 2 ^ 32 * firstFail + 2 ^ 48 * firstReason + 2 ^ 56 * flags

/-- The fields of a launch that was cancelled before any token (R83). -/
def cancelledFields : Nat := resultFields 0 0 0xFFFF 0 0

/-- Bytes 24 to 63 of a LAUNCH_REPORT (Table 11-5). -/
def reportBody (result : Nat) (serial : Serial) (trig step iter para monitor : Nat) : Nat :=
  result + 2 ^ 64 * serial.toNat + 2 ^ 80 * trig + 2 ^ 88 * (step % 256) + 2 ^ 96 * (iter % 2 ^ 32)
    + 2 ^ 128 * para + 2 ^ 144 * monitor

/-- A launch report (Table 11-5, KIND 0x01). -/
def launchReport (tag handle status : Nat) (t : Int) (body : Nat) (urgent : Bool) : Event :=
  { kind := 1, tag, handle, status, time := t, body, urgent }

/-- The source to which a report of this controller goes when a role change has taken its own away (R412). -/
def State.reportSource (s : State) : Source := .host s.img.reportQueue

/-- Bytes 24 to 63 of a REARRANGE, REROUTE or REROUTE_FAILED event. -/
def moveBody (inPort outPort : Nat) (old new : List Nat) (serial : Serial) : Nat :=
  let e := fun (l : List Nat) (k : Nat) => l.getD k noEid
  inPort + 2 ^ 16 * outPort + 2 ^ 32 * e old 0 + 2 ^ 64 * e old 1 + 2 ^ 96 * e old 2
    + 2 ^ 128 * e new 0 + 2 ^ 160 * e new 1 + 2 ^ 192 * e new 2 + 2 ^ 224 * serial.toNat

/-- Route events go to every RUNNING host queue with SYS_EVENTS = 1 and to the sideband (R306). -/
def State.sysEvent (s : State) (e : Event) : State :=
  (((List.range 8).filter fun q => (s.queue q).state = .running && (s.queue q).sysEvents).foldl
    (fun s q => s.event (.host q) e) s).event .sideband e

/-! ## Sentences -/

/-- A paragraph that is not IDLE names the sentence: it is locked (R71). -/
def State.locked (s : State) (h : Nat) : Bool :=
  s.store.paras.any fun p => p.2.state ≠ .idle && p.2.steps.any fun x => x.1 == h

/-- Clauses that the store holds (R70). -/
def State.clauseCount (s : State) : Nat := s.store.sentences.foldl (fun n p => n + p.2.clauses.length) 0

/-- Pending SCHEDULE launches (R70). -/
def State.schedCount (s : State) : Nat := s.store.scheds.length

/-- The elements that an armed list moves, by the connection table (R87). -/
def State.movedEids (s : State) (l : List (Rec128 × Nat)) : List Nat :=
  l.flatMap fun p =>
    let c := clauseOf p.1
    if p.2 ≠ rsApplied then [] else
      match s.conn c.inPort with
      | some k =>
        if (clauseOf k.clause).outPort = c.outPort then
          (if c.brk then (clauseOf k.clause).eids s.img.stages else [])
        else if c.brk then [] else c.eids s.img.stages
      | none => if c.brk then [] else c.eids s.img.stages

/-- The preparation is that of an arming, of a re-arming or of a STALE sentence. -/
def Prep.arms (q : Prep) : Bool :=
  match q.trigger with
  | .arming _ => true
  | .rearming => true
  | .restale => true
  | _ => false

/-- ARMED sentences that meet `p` become STALE (R87); a sentence on the way to ARMED is prepared again. -/
def markStale (s : State) (p : Nat → Sentence → Bool) : State :=
  let hit := fun h : Nat => (s.sent h).slot.isSome && p h (s.sent h)
  { s with store := { s.store with
      sentences := s.store.sentences.map fun x =>
        if (x.2.state == .armed) && p x.1 x.2 then (x.1, { x.2 with state := .stale }) else x
      preps := s.store.preps.map fun q =>
        if q.arms && q.done.isSome && hit q.handle then { q with done := none } else q } }

/-- Sentences that move an element with `q` become STALE. -/
def staleByElem (s : State) (q : Nat → Bool) : State :=
  markStale s fun _ t => t.armedMoved.any q

/-- A sentence in the ARMED or STALE state, or one whose fire has not completed, keeps its arm slot (R91, R184). -/
def State.armSlots (s : State) : List Nat := s.store.sentences.filterMap fun p => p.2.slot

/-- The lowest arm slot that is free. -/
def State.freeArmSlot (s : State) : Option Nat := (List.range 256).find? fun k => !s.armSlots.contains k

/-! ## The table change of a token -/

/-- The connection table with what a token does to it so far. -/
structure Change where
  table    : Tab (Option Conn)
  reasons  : List Nat
  acts     : List Act := []
  replaced : List (Nat × Nat × Option Conn) := []
  deriving DecidableEq, Repr

/-- The acts of clause `k` on elements `es`. -/
def actsOf (k : Nat) (es : List Nat) (on lit wasOn wasLit : Bool) (cls : Option Nat) : List Act :=
  es.map fun e => { clause := k, eid := e, on, lit, wasOn, wasLit, cls }

/-- A BREAK clause at token issue (R64, R75, R441). -/
def State.issueBreak (s : State) (ch : Change) (k : Nat) (r : Rec128) : Change :=
  let c := clauseOf r
  match tabGet ch.table none c.inPort with
  | some o =>
    let oc := clauseOf o.clause
    let es := oc.eids s.img.stages
    if oc.outPort ≠ c.outPort then { ch with reasons := ch.reasons.set k rsAbsent }
    else if es.any s.fencedAt then { ch with reasons := ch.reasons.set k rsFenced }
    else { ch with
      table := tabSet ch.table c.inPort none
      acts := ch.acts ++ actsOf k es false false true oc.lit none
      replaced := ch.replaced ++ [(k, c.inPort, some o)] }
  | none => { ch with reasons := ch.reasons.set k rsAbsent }

/-- The class override of a clause. -/
def clauseOverride (c : Clause) : Option Nat := if c.clsEn then some c.clsOvr else none

/-- A MAKE clause at token issue (R65, R75, R441); `handle` and `serial` enter the table with it. -/
def State.issueMake (s : State) (handle : Nat) (serial : Serial) (ch : Change) (k : Nat) (r : Rec128) : Change :=
  let c := clauseOf r
  let es := c.eids s.img.stages
  if es.any s.fencedAt then { ch with reasons := ch.reasons.set k rsFenced }
  else
    match tabGet ch.table none c.inPort with
    | some o =>
      let oc := clauseOf o.clause
      if oc.outPort ≠ c.outPort then { ch with reasons := ch.reasons.set k rsPreempted }
      else
        let es := oc.eids s.img.stages
        { ch with
          table := tabSet ch.table c.inPort (some { clause := (c.routed es).toRec, handle, serial })
          acts := ch.acts ++ actsOf k es true c.lit true oc.lit (clauseOverride c)
          replaced := ch.replaced ++ [(k, c.inPort, some o)] }
    | none =>
      if (connOfOut ch.table c.outPort).isSome || !linesFree s.img (s.usedLines ch.table) es then
        { ch with reasons := ch.reasons.set k rsPreempted }
      else { ch with
        table := tabSet ch.table c.inPort (some { clause := r, handle, serial })
        acts := ch.acts ++ actsOf k es true c.lit false false (clauseOverride c)
        replaced := ch.replaced ++ [(k, c.inPort, none)] }

/-- The moves of a rearrangement or a reroute at token issue (R116, R117): every old path is taken out, then each
connection is made on its new path; it keeps its handle and its attributes. -/
def State.issueMoves (s : State) (serial : Serial) (base : Nat) (ch : Change) (moves : List (Nat × Rec128)) : Change :=
  let olds := moves.map fun m => tabGet ch.table none m.1
  let bare := moves.foldl (fun t m => tabSet t m.1 none) ch.table
  ((List.range moves.length).foldl (fun (acc : Change × Tab (Option Conn)) j =>
    let (ch, t) := acc
    match moves[j]?, olds[j]? with
    | some m, some (some o) =>
      let oc := clauseOf o.clause
      let es := (clauseOf m.2).eids s.img.stages
      let old := oc.eids s.img.stages
      if es.any s.fencedAt || !linesFree s.img (s.usedLines t) es || oc.outPort ≠ (clauseOf m.2).outPort then
        ({ ch with reasons := ch.reasons.set (base + j) rsPreempted, table := tabSet ch.table m.1 (some o) },
         tabSet t m.1 (some o))
      else
        let k : Conn := { o with clause := (oc.routed es).toRec, serial }
        ({ ch with
            table := tabSet ch.table m.1 (some k)
            acts := ch.acts ++ actsOf (base + j) (old.filter fun e => !es.contains e) false false true oc.lit none
              ++ actsOf (base + j) (es.filter fun e => !old.contains e) true oc.lit false false (clauseOverride oc)
            replaced := ch.replaced ++ [(base + j, m.1, some o)] },
         tabSet t m.1 (some k))
    | _, _ => ({ ch with reasons := ch.reasons.set (base + j) rsPreempted }, t)) ({ ch with table := bare }, bare)).1

/-- Fold over clauses with their indices. -/
def foldIdx {α β : Type} (f : β → Nat → α → β) (b : β) (l : List α) : β :=
  (List.range l.length).foldl (fun b k => match l[k]? with
    | some a => f b k a
    | none => b) b

/-- The table change of a token (R67, R68, R75): all BREAKs, then moves, then the MAKEs in index order. Clauses with a
reason other than APPLIED are passed over. -/
def State.tableChange (s : State) (handle : Nat) (serial : Serial) (cl : List Rec128) (reasons : List Nat)
    (moves : List (Nat × Rec128)) : Change :=
  let n := cl.length
  let ch0 : Change := { table := s.store.table, reasons := reasons ++ moves.map fun _ => rsApplied }
  let live := fun (ch : Change) (k : Nat) => ch.reasons.getD k rsWithheld == rsApplied
  let ch1 := foldIdx (fun ch k r => if live ch k && (clauseOf r).brk then s.issueBreak ch k r else ch) ch0 cl
  let ch2 := if moves.isEmpty then ch1 else s.issueMoves serial n ch1 moves
  foldIdx (fun ch k r => if live ch k && !(clauseOf r).brk then s.issueMake handle serial ch k r else ch) ch2 cl

/-! ## Elements and frames of a launch -/

/-- The final target that acts give element `e`: ON where any act sets it ON. -/
def finalOn (acts : List Act) (e : Nat) : Bool := acts.any fun a => a.eid == e && a.on

/-- The target that element `e` had before the acts. -/
def firstOn (acts : List Act) (e : Nat) : Bool :=
  match acts.find? fun a => a.eid == e with
  | some a => a.wasOn
  | none => false

/-- The elements that acts move: those whose target changes, each once, rising. -/
def movingEids (acts : List Act) : List Nat :=
  let es := (acts.map (·.eid)).foldl (fun l e => if l.contains e then l else l ++ [e]) []
  (es.filter fun e => finalOn acts e != firstOn acts e).mergeSort (fun a b => a ≤ b)

/-- The tiles of elements, each once, rising. -/
def tilesOf (es : List Nat) : List Nat :=
  ((es.map eidTile).foldl (fun l t => if l.contains t then l else l ++ [t]) []).mergeSort (fun a b => a ≤ b)

/-- The D1 field of a slot entry (R255): the hold drive of the target, in units of 64, halves upward, at most
1,023. -/
def State.d1Field (s : State) (e : Nat) (on : Bool) : Nat :=
  let u := (s.elem e).inUse
  min 1023 (((if on then u.dOn else u.dOff) + 32) / 64)

/-- The entries of tile `t` in a launch: element index and D1 field. -/
def State.slotEntries (s : State) (acts : List Act) (t : Nat) : List (Nat × Nat) :=
  ((movingEids acts).filter fun e => eidTile e = t).map fun e => (e % 1024, s.d1Field e (finalOn acts e))

/-- DRIVE frames in slot form: two entries each. -/
def slotFrames (s : State) (t : Nat) : List (Nat × Nat) → State
  | [] => s
  | [a] => s.down t "DRIVE_SLOT" [a.1, a.2, 0, 0]
  | a :: b :: r => slotFrames (s.down t "DRIVE_SLOT" [a.1, a.2, b.1, b.2]) t r

/-- SLOT_OPEN and the entries of slot `slot` of tile `t` (R253). -/
def fillSlot (s : State) (t slot : Nat) (es : List (Nat × Nat)) : State :=
  slotFrames (s.down t "SLOT_OPEN" [slot, es.length]) t es

/-- The tile can take frames: link up, adopted, owned, not fenced. -/
def State.tileReach (s : State) (t : Nat) : Bool := s.tileUsable t && !(s.region (tileRegion t)).fenced

/-- The launch slot that the tile's next P1 or reversal launch takes: the first free from the turn on (R253). -/
def State.launchSlot (s : State) (t : Nat) : Option Nat :=
  let l := s.link t
  ((List.range 8).map fun k => 256 + (l.slotTurn + k) % 8).find? fun k => !l.launchSlots.contains k

/-- A launch slot is free on every reachable tile (R253). -/
def State.slotsFree (s : State) (ts : List Nat) : Bool :=
  ts.all fun t => !s.tileReach t || (s.launchSlot t).isSome

/-- One tile of a launch: its COMMIT frame, with the slot filled first for a launch slot. -/
def commitTile (armSlot : Option Nat) (serial : Serial) (tick : Nat) (acts : List Act)
    (acc : State × List (Nat × Nat × TileResult)) (t : Nat) : State × List (Nat × Nat × TileResult) :=
  let (s, l) := acc
  if s.tileReach t then
    match armSlot with
    | some k => (s.down t "COMMIT" [serial.toNat, k, tick % 65536], l ++ [(t, k, .waiting)])
    | none =>
      match s.launchSlot t with
      | some k =>
        let s1 := s.modLink t fun x => { x with launchSlots := x.launchSlots ++ [k], slotTurn := (k - 256 + 1) % 8 }
        ((fillSlot s1 t k (s.slotEntries acts t)).down t "COMMIT" [serial.toNat, k, tick % 65536],
         l ++ [(t, k, .waiting)])
      | none => (s, l ++ [(t, 0, .lost)])
  else (s, l ++ [(t, 0, if s.fencedAt (t * 1024) then .fenced else .lost)])

/-! ## Points and calibration runs that a token ends (R210, R230) -/

/-- Elements whose points and runs a token ends: it moves them, or sets an element ON on one of their lines. -/
def State.tokenHits (s : State) (acts : List Act) (e : Nat) : Bool :=
  (movingEids acts).contains e ||
    (s.img.lines e).any ((s.img.linesOf ((movingEids acts).filter (finalOn acts))).contains ·)

/-- Points in progress on an element that the token hits stop with FLAGS.ABORTED; a tile outside the footprint is
sent an ABORT (R210). -/
def abortByToken (s : State) (acts : List Act) (ts : List Nat) : State :=
  let hit := fun r : Run => r.actuator && r.active && s.tokenHits acts r.target
  let s1 := (((s.smu.runs.filterMap (·.2)) ++ (s.smu.ssRun.map (·.1)).toList).filter fun r =>
      hit r && !ts.contains r.tile).foldl (fun s r => s.down r.tile "ABORT" [r.target % 1024]) s
  { s1 with smu := { s1.smu with
      runs := s1.smu.runs.map fun x => (x.1, x.2.map fun r => if hit r then { r with aborted := true } else r)
      ssRun := s1.smu.ssRun.map fun x => if hit x.1 then ({ x.1 with aborted := true }, x.2) else x } }

/-- Running micro and full runs that the token hits end and are queued again (R230). -/
def abortCalByToken (s : State) (acts : List Act) (ts : List Nat) : State :=
  let hit := fun r : CalRun => r.running && r.kind ≠ .channel && s.tokenHits acts r.target
  let gone := s.calib.runs.filter hit
  let ids := gone.flatMap (·.batches)
  let s1 := { s with calib := { s.calib with
      runs := s.calib.runs.map fun r =>
        if hit r then { r with running := false, todo := [], measured := [], pullIn := none } else r
      batches := s.calib.batches.map fun b => { b with aborted := b.aborted + ids.count b.id }
      aborted := satAdd s.calib.aborted gone.length 0xFFFF } }
  gone.foldl (fun s r =>
    (if ts.contains r.tile then s else s.down r.tile "ABORT" [r.target % 1024]).modElem r.target
      fun e => { e with paused := false, calLast := 5 }) s1

/-- ARMED sentences that a token makes STALE (R87): `t0` and `t1` are the table before and after it. -/
def staleByToken (s : State) (but : Nat) (t0 t1 : Tab (Option Conn)) (acts : List Act) : State :=
  let moved := movingEids acts
  let onLines := s.img.linesOf (moved.filter (finalOn acts))
  markStale s fun h t => h ≠ but &&
    ((t.armedList.any fun p =>
        let c := clauseOf p.1
        c.brk && tabGet t0 none c.inPort != tabGet t1 none c.inPort) ||
      t.armedMoved.any moved.contains ||
      (s.img.linesOf (t.makeEids s.img.stages)).any onLines.contains)

/-! ## Token issue -/

/-- What a token carries. -/
structure CommitToken where
  handle   : Nat
  trigger  : Trigger
  opts     : LaunchOpts := {}
  tick     : Nat
  /-- The clauses of the sentence as routed, with the reasons of the preparation. -/
  clauses  : List (Rec128 × Nat)
  moves    : List (Nat × Rec128) := []
  armSlot  : Option Nat := none
  boundLost : Bool := false
  /-- Acts of a reversal launch, which changes no table entry. -/
  revActs  : List Act := []
  deriving DecidableEq, Repr

/-- Tokens issued in the last 65,536 ticks (R69). -/
def State.recentTokens (s : State) : List Nat := s.store.tokenTicks.filter fun t => s.dt < t + 65536

/-- Room for one token more under R69. -/
def State.tokenRoom (s : State) : Bool := s.recentTokens.length < 16384

/-- No token may be issued: the safe state (R430), a role that issues none (Table 15-1), a handover past its step 2
(R416). -/
def State.tokensBarred (s : State) : Bool :=
  s.faults.safeState || s.mate.role = .starting || s.mate.role = .standby ||
    (match s.mate.handover with
      | .none => false
      | .drilling _ => false
      | _ => true)

/-- A token as numbers, for its mirror record (R405, Table 15-2): serial, launch time, handle, footprint, clauses with
reasons, moves, acts of a reversal. -/
def CommitToken.nats (tk : CommitToken) (serial : Serial) (ts : List Nat) : List Nat :=
  [serial.toNat, tk.tick, tk.handle, b2n tk.boundLost, ts.length, tk.clauses.length, tk.moves.length, tk.revActs.length] ++ ts
    ++ (tk.clauses.flatMap fun x => [x.1.toNat, x.2]) ++ (tk.moves.flatMap fun x => [x.1, x.2.toNat])
    ++ tk.revActs.flatMap fun a => [a.eid, b2n a.on, b2n a.lit, b2n a.wasOn, b2n a.wasLit]

/-- Numbers in pairs. -/
def pairsOf : List Nat → List (Nat × Nat)
  | a :: b :: r => (a, b) :: pairsOf r
  | _ => []

/-- Acts from their numbers. -/
def actsOfNats : List Nat → List Act
  | e :: a :: b :: c :: d :: r =>
    { clause := 0, eid := e, on := a == 1, lit := b == 1, wasOn := c == 1, wasLit := d == 1 } :: actsOfNats r
  | _ => []

/-- The token that a mirror record's numbers stand for. -/
def tokenOfNats (src : Source) (l : List Nat) : CommitToken :=
  let g := fun i => l.getD i 0
  let r1 := l.drop (8 + g 4)
  let r2 := r1.drop (2 * g 5)
  { handle := g 2, trigger := .resolved src, tick := g 1, boundLost := g 3 == 1
    clauses := (pairsOf (r1.take (2 * g 5))).map fun p => (BitVec.ofNat 128 p.1, p.2)
    moves := (pairsOf (r2.take (2 * g 6))).map fun p => (p.1, BitVec.ofNat 128 p.2)
    revActs := actsOfNats (r2.drop (2 * g 6)) }

/-- The mirror record of a token (R405, Table 15-2): it leaves before the token does. -/
def mirrorToken (s : State) (tk : CommitToken) (serial : Serial) (ts : List Nat) : State :=
  if s.mate.role = .active && s.mate.link then
    let n := s.mate.sent + 1
    ({ s with mate := { s.mate with sent := n, unacked := s.mate.unacked ++ [(n, s.dt)] } }).emit
      (.mateFrame "MIRROR" ([n, 1, serial.toNat] ++ tk.nats serial ts))
  else s

/-- The restart record as the state gives it (R458). -/
def State.recordNow (s : State) : RestartRecord :=
  { valid := true
    hash := s.img.hash
    table := s.store.table
    tiles := s.img.tiles.map fun t => (t, (s.link t).epoch, (s.link t).lastSerial, (s.link t).idHeld)
    tokens := ((s.store.launches.filter fun l => !l.settled).map fun l =>
      { l with trigger := .restart, opts := {} }).take 64 }

/-- The launch that a token begins, and its table change (R67). -/
def State.tokenLaunch (s : State) (tk : CommitToken) (serial : Serial) : Launch × Change :=
  let cl := tk.clauses.map (·.1)
  let ch := s.tableChange tk.handle serial cl (tk.clauses.map (·.2)) tk.moves
  let acts := ch.acts ++ tk.revActs
  ({ serial, tick := tk.tick, handle := tk.handle, trigger := tk.trigger, opts := tk.opts,
     clauses := cl ++ tk.moves.map (·.2), reasons := ch.reasons, own := cl.length, acts,
     tiles := (tilesOf (movingEids acts)).map fun t => (t, 0, .waiting), replaced := ch.replaced,
     boundLost := tk.boundLost }, ch)

/-- The table and the launches after a token with serial `serial`. -/
def enterToken (s : State) (l : Launch) (ch : Change) : State :=
  { s with store := { s.store with
      table := ch.table
      nextSerial := l.serial + 1
      launches := s.store.launches ++ [l] } }

/-- Elements whose intent or class a launch changes without moving them take the change at the first comma boundary after
the launch time (R60, R65). -/
def noteIntents (s : State) (l : Launch) : State :=
  let moved := movingEids l.acts
  (l.acts.filter fun a => a.on && !moved.contains a.eid).foldl (fun s a =>
    s.modElem a.eid fun e => { e with intents := e.intents ++ [(l.tick, a.lit, a.cls)] }) s

/-- A token is issued (R67): serial, table, mirror record, frames, what it stops and makes STALE. -/
def issueToken (s : State) (tk : CommitToken) : State :=
  let serial := s.store.nextSerial
  let (l0, ch) := s.tokenLaunch tk serial
  let acts := l0.acts
  let ts := tilesOf (movingEids acts)
  let s0 := noteIntents (enterToken s l0 ch) l0
  let s1 := { s0 with store := { s0.store with
      tokenTicks := s.dt :: s.recentTokens
      moves := satAdd s.store.moves (tk.moves.filter fun m => (tabGet ch.table none m.1).any fun c => c.serial == serial).length 0xFFFF } }
  let s2 := staleByToken s1 tk.handle s.store.table ch.table acts
  let s3 := { s2 with chip := { s2.chip with restart := s2.recordNow } }
  let s4 := mirrorToken s3 tk serial ts
  let s5 := abortCalByToken (abortByToken s4 acts ts) acts ts
  let (s6, tiles) := ts.foldl (commitTile tk.armSlot serial tk.tick acts) (s5, [])
  { s6 with store := { s6.store with
      launches := s6.store.launches.map fun l => if l.serial = serial then { l with tiles } else l } }

/-! ## Settling -/

/-- Every tile has reported or failed. -/
def Launch.allIn (l : Launch) : Bool := l.tiles.all fun t => t.2.2 ≠ .waiting

/-- The tiles on which clause `k` moves an element (R65), with their results. -/
def Launch.clauseTiles (l : Launch) (k : Nat) : List TileResult :=
  let moved := movingEids l.acts
  let ts := (l.acts.filter fun a => a.clause = k && moved.contains a.eid).map fun a => eidTile a.eid
  (l.tiles.filter fun t => ts.contains t.1).map (·.2.2)

/-- The reason of clause `k` once every tile has reported or failed (R514). -/
def Launch.finalReason (l : Launch) (k : Nat) : Nat :=
  let r := l.reasons.getD k rsWithheld
  if r ≠ rsApplied then r else
    let ts := l.clauseTiles k
    if ts.contains .safeState then rsSafeState
    else if ts.contains .fenced then rsFenced
    else if ts.contains .lost then rsTileLost
    else if ts.contains .missed then rsMissed
    else if l.unusable.contains k then rsUnusable
    else rsApplied

/-- The clauses that a launch finds not applied after its token (R78). -/
def Launch.failedClauses (l : Launch) : List Nat :=
  (List.range l.clauses.length).filter fun k => l.reasons.getD k rsWithheld = rsApplied && l.finalReason k ≠ rsApplied

/-- One reversion (R78): the entry that clause `k` replaced returns, unless an applied clause has the port since. -/
def revertEntry (l : Launch) (t : Tab (Option Conn)) (k ip : Nat) (old : Option Conn) : Tab (Option Conn) :=
  let cur := tabGet t none ip
  let own := match cur with
    | none => (clauseOf (l.clauses.getD k 0)).brk
    | some c => c.serial == l.serial && (clauseOf c.clause).outPort == (clauseOf (l.clauses.getD k 0)).outPort &&
        !(clauseOf (l.clauses.getD k 0)).brk
  if own then
    match old with
    | none => tabSet t ip none
    | some o => if (connOfOut (tabSet t ip none) (clauseOf o.clause).outPort).isSome then tabSet t ip none
                else tabSet t ip (some o)
  else t

/-- The table after the reversion of the failed clauses, latest change first. -/
def revertTable (l : Launch) (failed : List Nat) (t : Tab (Option Conn)) : Tab (Option Conn) :=
  l.replaced.reverse.foldl (fun t x => if failed.contains x.1 then revertEntry l t x.1 x.2.1 x.2.2 else t) t

/-- What a reversal does to the elements that the failed clauses moved on tiles that latched (R78, R257): each goes
to the target that the reverted table gives it, OFF where that would break R50 against a standing connection. -/
def State.reversalActs (s : State) (l : Launch) (failed : List Nat) : List Act :=
  let stages := s.img.stages
  let on := onEids s.store.table stages
  let latched := (l.tiles.filter fun t => t.2.2 = .latched).map (·.1)
  let es := ((l.acts.filter fun a => failed.contains a.clause && latched.contains (eidTile a.eid)
    && s.tileReach (eidTile a.eid)).map (·.eid)).foldl (fun x e => if x.contains e then x else x ++ [e]) []
  es.filterMap fun e =>
    let now := finalOn l.acts e
    let clash := (s.img.lines e).any fun x => (on.filter (· ≠ e)).any fun f => (s.img.lines f).contains x
    let want := on.contains e && !clash
    if want = now then none else
      let k := connThrough s.store.table stages e
      some { clause := 0, eid := e, on := want, lit := want && (k.any fun p => (clauseOf p.2.clause).lit),
             wasOn := now, wasLit := false, cls := k.bind fun p => clauseOverride (clauseOf p.2.clause) }

/-! ## Completion -/

/-- Applied bits of a launch's own clauses. -/
def Launch.bitmap (l : Launch) : List Bool :=
  (List.range l.own).map fun k =>
    let r := l.finalReason k
    r == rsApplied || r == rsAbsent

/-- Status of Table 3-4 from the applied bits (R79). -/
def statusOf (bm : List Bool) : Nat :=
  if bm.all id then stSuccess else if bm.any id then stPartial else stRefused

/-- The RESULT fields of a launch (Table 3-3). -/
def Launch.fields (l : Launch) (written : Bool) : Nat :=
  let bm := l.bitmap
  let n := (bm.filter id).length
  let first := (List.range l.own).find? fun k => !bm.getD k true
  resultFields n (l.own - n) (first.getD 0xFFFF) (match first with
    | some k => l.finalReason k
    | none => 0) (b2n written + 2 * b2n l.boundLost + 4 * b2n l.reversed)

/-- A list of bits as a little-endian number. -/
def bitsNat (l : List Bool) : Nat := l.foldr (fun b n => b2n b + 2 * n) 0

/-- A list of bytes as a little-endian number. -/
def bytesNat (l : List Nat) : Nat := l.foldr (fun b n => b + 256 * n) 0

/-- The result block of R80 as one little-endian number. -/
def Launch.block (l : Launch) : Nat :=
  bitsNat l.bitmap + 2 ^ (8 * 128) * bytesNat ((List.range l.own).map l.finalReason)
    + (if l.opts.copyPaths then
        2 ^ (8 * 1152) * ((l.clauses.take l.own).foldr (fun r n => r.toNat + 2 ^ 128 * n) 0) else 0)

/-- The result block is written where RESULT_ADDR asks for it and the host can be reached (R80). -/
def writeBlock (s : State) (l : Launch) : State × Bool :=
  if l.opts.resultAddr = 0 then (s, false)
  else if s.canMaster then
    (s.emit (.hostWrite l.opts.resultAddr (if l.opts.copyPaths then 17536 else 1152) l.block), true)
  else (s, false)

/-- Outcome events of the moves of a rearrangement (R116). -/
def moveEvents (s : State) (l : Launch) (src : Source) : State :=
  (List.range (l.clauses.length - l.own)).foldl (fun s j =>
    let k := l.own + j
    let c := clauseOf (l.clauses.getD k 0)
    let old := match (l.replaced.find? fun x => x.1 = k) with
      | some (_, _, some o) => (clauseOf o.clause).eids s.img.stages
      | _ => []
    s.event src { kind := 2, status := l.finalReason k, time := s.time.nt l.tick,
                  body := moveBody c.inPort c.outPort old (c.eids s.img.stages) l.serial }) s

/-- A new preparation joins the queue (R74). -/
def State.addPrep (s : State) (handle : Nat) (trigger : Trigger) (opts : LaunchOpts) : State :=
  { s with store := { s.store with
      preps := s.store.preps ++ [{ id := s.store.nextPrep, handle, trigger, opts }]
      nextPrep := s.store.nextPrep + 1 } }

/-- What a sentence's arming holds, released (R91, R93). -/
def Sentence.disarmed (t : Sentence) : Sentence :=
  { t with
    state := .stored
    rearm := false
    pgroup := 0
    ports := []
    slot := none
    armedList := []
    armedMoves := []
    armedMoved := []
    slotAcked := [] }

/-- The sentence after the launch of its fire or commit has completed (R71, R91). -/
def finishSentence (s : State) (l : Launch) (fire : Bool) : State :=
  let t := s.sent l.handle
  let bm := l.bitmap
  let t1 := { t with lastStatus := statusOf bm, lastSerial := l.serial, lastApplied := (bm.filter id).length, bitmap := bm }
  if fire && t.rearm then
    -- The sentence is prepared again at once, on the way back to ARMED.
    (s.setSent l.handle { t1 with state := .launching, slotAcked := [] }).addPrep l.handle .rearming t.opts
  else if fire then s.setSent l.handle { t1.disarmed with state := .stored }
  else s.setSent l.handle { t1 with state := .stored }

/-- Iteration and step of a paragraph after a step (R95, R97, R98): the next step, or DEFINED at the end of the run. -/
def Para.advance (p : Para) : Para :=
  let last := p.step + 1 ≥ p.steps.length
  let p1 := if last then { p with step := 0, iter := p.iter + 1 } else { p with step := p.step + 1 }
  if last && (p.stopAtEnd || (p.repeats ≠ 0xFFFF && p.iter + 1 ≥ p.repeats)) then
    { p1 with state := .defined, stopAtEnd := false }
  else p1

/-- The completion or report of a launch whose effect is in place (R103). -/
def reportLaunch (s : State) (l : Launch) (written : Bool) : State :=
  let f := l.fields written
  let st := statusOf l.bitmap
  let t := s.time.nt l.tick
  let fire := fun (src : Source) (tag trig mon : Nat) (urgent : Bool) =>
    (finishSentence s l true).event src
      (launchReport tag l.handle st t (reportBody f l.serial trig 0 0 0xFF mon) urgent)
  match l.trigger with
  | .commit h => (moveEvents (finishSentence s l false) l h.src).complete h 0x12 st f
  | .fire h => (moveEvents (finishSentence s l true) l h.src).complete h 0x16 st f
  | .schedule src tag _ _ =>
    (moveEvents (finishSentence s l false) l src).event src
      (launchReport tag l.handle st t (reportBody f l.serial 0 0 0 0xFF 0xFFFF) false)
  | .paraStep p step iter src tag _ _ =>
    let s1 := finishSentence s l false
    let s2 := if (s.para p).reportAll then
        s1.event src (launchReport tag l.handle st t (reportBody f l.serial 1 step iter p 0xFFFF) false)
      else s1
    let q := s2.para p
    s2.setPara p { q with inFlight := false }
  | .lossOfLight m src tag => fire src tag 2 m true
  | .deferredLos m src => fire src 0 5 m true
  | .doorbell q tag => fire (.host q) tag 3 0xFFFF true
  | .resolved src =>
    (finishSentence s l (s.sent l.handle).slot.isSome).event src (launchReport 0 l.handle st t (reportBody f l.serial 4 0 0 0xFF 0xFFFF) false)
  | .reroute ip =>
    let c := clauseOf (l.clauses.getD 0 0)
    let old := match l.replaced with
      | (_, _, some o) :: _ => (clauseOf o.clause).eids s.img.stages
      | _ => []
    if l.finalReason 0 = rsApplied then
      { (s.sysEvent { kind := 3, status := rsApplied, time := t,
                      body := moveBody ip c.outPort old (c.eids s.img.stages) l.serial }) with
        store := { s.store with reroutes := satInc s.store.reroutes 0xFFFF } }
    else s.sysEvent { kind := 3, status := l.finalReason 0, time := t,
                      body := moveBody ip c.outPort old (c.eids s.img.stages) l.serial }
  | _ => s

/-- The launch leaves the list. -/
def dropLaunch (s : State) (serial : Serial) : State :=
  { s with store := { s.store with launches := s.store.launches.filter fun l => l.serial ≠ serial } }

/-- A launch ends: result block, report, sentence (R80, R103). -/
def completeLaunch (s : State) (l : Launch) : State :=
  let (s1, w) := writeBlock (dropLaunch s l.serial) l
  reportLaunch s1 l w

/-- The expected epoch of a tile advances (R265); SET_EPOCH follows the writes. -/
def bumpEpoch (s : State) (t : Nat) : State :=
  s.modLink t fun l => { l with epoch := (l.epoch + 1) % 2 ^ 32, epochDirty := true }

/-- In the safe state every tile that has not latched gives its clauses the reason SAFE_STATE (R432). -/
def Launch.underSafe (l : Launch) (safe : Bool) : Launch :=
  if safe then
    { l with tiles := l.tiles.map fun x => (x.1, x.2.1, if x.2.2 = .latched then .latched else .safeState) }
  else l

/-- Every tile of a launch has reported or failed: reasons, reversion, then the reversal or the completion (R78, R103,
R432). -/
def settleLaunch (s : State) (l0 : Launch) : State :=
  let l := l0.underSafe s.faults.safeState
  match l.trigger with
  | .reversal of_ =>
    -- The reversal has latched: the launch that it reverses completes.
    let s1 := dropLaunch s l.serial
    match s1.store.launches.find? fun x => x.serial = of_ with
    | some p => completeLaunch s1 { p with reversed := true }
    | none => s1
  | _ =>
    let failed := l.failedClauses
    let s1 := { s with store := { s.store with table := revertTable l failed s.store.table } }
    let acts := s1.reversalActs l failed
    if s.faults.safeState then
      let latched := (l.tiles.filter fun t => t.2.2 = .latched).map (·.1)
      let ts := (tilesOf ((l.acts.filter fun a => failed.contains a.clause).map (·.eid))).filter latched.contains
      completeLaunch (ts.foldl bumpEpoch s1) l
    else if acts.isEmpty then completeLaunch s1 l
    else { s1 with store := { s1.store with launches := s1.store.launches.map fun x =>
        if x.serial = l.serial then { x with settled := true, revActs := acts } else x } }

/-- Settle the launch of `serial` when its results are all in. -/
def checkSettle (s : State) (serial : Serial) : State :=
  match s.store.launches.find? fun l => l.serial = serial && !l.settled with
  | some l => if l.allIn then settleLaunch s l else s
  | none => s

/-- Settle every launch whose results are all in. -/
def settleAll (s : State) : State := (s.store.launches.map (·.serial)).foldl checkSettle s

/-- The result of tile `t` in the launch of `serial`, where it is still awaited. -/
def setTileResult (s : State) (serial : Serial) (t : Nat) (r : TileResult) : State :=
  { s with store := { s.store with launches := s.store.launches.map fun l =>
      if l.serial = serial then
        { l with tiles := l.tiles.map fun x => if x.1 = t && x.2.2 = .waiting then (x.1, x.2.1, r) else x }
      else l } }

/-- A launch slot of a tile becomes free (R253). -/
def freeLaunchSlot (s : State) (serial : Serial) (t : Nat) : State :=
  match s.store.launches.find? fun l => l.serial = serial with
  | none => s
  | some l =>
    match l.tiles.find? fun x => x.1 = t with
    | none => s
    | some x => s.modLink t fun k => { k with launchSlots := k.launchSlots.filter (· ≠ x.2.1) }

/-! ## Leads -/

/-- COMMIT_LEAD_P1 in ticks (R39). -/
def State.leadP1 (s : State) : Nat := nsTicks s.img.commitLead

/-- The row of Table 6-4 for a link: 0 for 10 Gb/s and faster, then 1 for 5, 2 for 2.5, 3 for 1.25 Gb/s, 4 for a slow
link with a long delay. -/
def leadRow (l : Link) : Nat :=
  let r := if 3 ≤ l.speed then 0 else 3 - l.speed
  if 200 < l.delay then r + 1 else r

/-- COMMIT_LEAD_P0 in ns by the row, and the delay in 0.1 ns (R183). -/
def leadNs (row delay : Nat) : Nat :=
  match row with
  | 0 => 840
  | 1 => 1300
  | 2 => 2220
  | 3 => 4080
  | _ => 4080 + (3 * (delay - 200) + 99) / 100 * 10

/-- COMMIT_LEAD_P0 of a footprint in ns: the value for its slowest link that is up (R183). -/
def State.leadP0 (s : State) (ts : List Nat) : Nat :=
  (ts.filter s.tileReach).foldl (fun n t => max n (leadNs (leadRow (s.link t)) (s.link t).delay)) 840

end Sys2Proof.Machine
end

