-- ==== Sys2Proof/Machine/Fences.lean ====
section
/-! DEFINITION. Fences of regions and tiles, links that go DOWN (chapters "Architecture", "Faults and recovery",
"Paost tile links"). -/

namespace Sys2Proof.Machine

/-- RGN_STATUS of region `n` as the region itself gives it. -/
def Region.statusWord (r : Region) : Nat :=
  b2n r.clockOk + 2 * b2n r.fenced + 4 * b2n r.holdShort + 2 ^ 8 * r.loopFenced.length + 2 ^ 16 * r.linkFenced.length
    + 2 ^ 21 * b2n r.linkBlk + 2 ^ 22 * b2n r.loopBlk + 2 ^ 23 * b2n r.cacheBlk + 2 ^ 24 * b2n r.smuBlk

/-- RGN_HOLD_STAT of a region. -/
def Region.holdWord (r : Region) : Nat := r.shortCount + 2 ^ 16 * r.shortRun

/-- The tiles of region `n` in every launch whose report is awaited count as fenced (R106). -/
def fenceLaunchTiles (s : State) (p : Nat → Bool) : State :=
  { s with store := { s.store with launches := s.store.launches.map fun l =>
      { l with tiles := l.tiles.map fun x => if p x.1 && x.2.2 = .waiting then (x.1, x.2.1, .fenced) else x } } }

/-- The chip fences region `n` (R23): its status is copied (R42), its tiles leave every launch (R106), armed sentences
with elements there become STALE (R87), its sweeps and calibration runs end LOST (Table 7-6, R230), its agent's burst is
aborted (R361). -/
def fenceRegion (s : State) (n : Nat) : State :=
  let r := s.region n
  if r.fenced && !r.resuming then s else
    let r1 := { r with fenced := true, resuming := false }
    let inR := fun t : Nat => tileRegion t == n
    let s1 := s.setRegion n { r1 with
      snapStatus := BitVec.ofNat 32 r1.statusWord, snapHold := BitVec.ofNat 32 r1.holdWord }
    let s2 := staleByElem s1 fun e => inR (eidTile e)
    let s3 := loseCalRuns (endRuns s2 (fun x => inR x.tile) endLost) fun x => inR x.tile
    abortBurst (settleAll (fenceLaunchTiles s3 inR)) n 0

/-- The controller fences tile `t` (R427). -/
def fenceTile (s : State) (t : Nat) : State :=
  if s.faults.tileFences.contains t then s else
    let s1 := { s with faults := { s.faults with tileFences := s.faults.tileFences ++ [t] } }
    let s2 := staleByElem s1 fun e => eidTile e == t
    let s3 := loseCalRuns (endRuns s2 (fun x => x.tile == t) endLost) fun x => x.tile == t
    settleAll (fenceLaunchTiles s3 (· == t))

/-- The link to tile `t` goes DOWN (R252, R268): both streams stop and their buffers are discarded, the tile keeps its
drives, sweeps and calibration runs on it end LOST, an S2 fault names it; training starts again at DETECT. -/
def linkDown (s : State) (t : Nat) : State :=
  let l := s.link t
  let s1 := s.setLink t { l with
    state := .down, blockLock := false, tile := .absent, near := {}, downs := satInc l.downs 0xFF
    claimed := none, ident := [], readback := [], readAsked := false, tempSeen := false, corrections := [], launchSlots := []
    acksOpen := 0, logBurst := none, logWords := [], stepFails := 0, limited := false }
  let s2 := { s1 with smu := { s1.smu with
    busLostAt := if s1.smu.bus.place.any (·.1 == t) then some s1.dt else s1.smu.busLostAt } }
  let s3 := loseCalRuns (endRuns s2 (fun x => x.tile == t) endLost) fun x => x.tile == t
  s3.report 0x0030 (srcTile t) t

/-! ## Readiness (R456) -/

/-- The READY register as the functions themselves give it. -/
def State.readyNow (s : State) : Nat :=
  let r := fun n => (s.region n).clockOk && !(s.region n).fenced
  if !s.chip.mainRun then 2 ^ 7 * b2n s.lsu.commissioned else
    b2n s.chip.imageApplied + 2 * b2n s.ddrReady
      + 4 * b2n (s.chip.imageApplied && s.ddrReady && s.chip.setChecked && s.chip.resolved)
      + 8 * b2n s.time.locked + 16 * b2n s.adm.sp0Up + 32 * b2n s.adm.sp1Up
      + 64 * b2n (s.chip.imageApplied && (!s.img.mateEnable || s.mate.role ≠ .starting))
      + 128 * b2n s.lsu.commissioned + 2 ^ 16 * bitsNat ((List.range 16).map r)

/-- READY.FABRIC. -/
def State.fabricReady (s : State) : Bool := bit s.readyNow 2

/-- Tile `t` is ready: adopted, its link ACTIVE, not fenced (R456). A link in electrical idle is not ACTIVE by
LINK_STATUS.STATE, but its tile stays in use, so it counts as ACTIVE here. -/
def State.tileReady (s : State) (t : Nat) : Bool := s.tileUsable t

/-! ## Regions whose tiles the image uses -/

/-- The placed tiles of region `n`. -/
def regionTiles (i : Image) (n : Nat) : List Nat := i.tiles.filter fun t => tileRegion t = n

end Sys2Proof.Machine
end

