-- ==== Sys2Proof/Machine/After.lean ====
section
/-! DEFINITION. What follows a change of state whatever made it: the restart record (R458), the fabric digest (R466),
mirror records (R404, R405), the MSI-X vectors that watch status registers (R296). -/

namespace Sys2Proof.Machine

/-! ## Numbers of states, as registers and records give them -/

def EState.code : EState → Nat
  | .uncal => 0
  | .darkOff => 1
  | .darkOn => 2
  | .lit => 3
  | .switching => 4
  | .suspect => 5
  | .retired => 6

def SentState.code : SentState → Nat
  | .free => 0
  | .stored => 1
  | .scheduled => 2
  | .armed => 3
  | .stale => 4
  | .launching => 5

def ParaState.code : ParaState → Nat
  | .idle => 0
  | .defined => 1
  | .running => 2
  | .halted => 3

def Role.code : Role → Nat
  | .starting => 0
  | .active => 1
  | .standby => 2
  | .alone => 3

/-! ## The digest -/

/-- The items that the fabric digest covers (R466): image hash, table as routed, SET_VERSION, SAFE_CHECK, epochs. -/
def State.digestItems (s : State) : BitVec 256 × List (Nat × Rec128) × Nat × Word32 × List Nat :=
  (s.img.hash, (connsOf s.store.table).map fun p => (p.1, p.2.clause), s.calib.version, s.lsu.check,
   s.img.tiles.map fun t => (s.link t).epoch)

/-- A change of any item starts a recomputation, or one more after the one that runs (R466). -/
def digestTouch (s0 s : State) : State :=
  if !s.chip.imageApplied || s.digestItems = s0.digestItems then s
  else { s with chip := { s.chip with
    digestCurrent := false
    digestBusy := true
    digestAgain := s.chip.digestAgain || s.chip.digestBusy } }

/-! ## Mirror records -/

/-- Keys at which two tables differ. -/
def diffKeys {α : Type} [DecidableEq α] (d : α) (a b : Tab α) : List Nat :=
  let ks := (a.map (·.1) ++ (b.map (·.1)).filter fun k => (a.map (·.1)).all (· ≠ k))
  ks.filter fun k => tabGet a d k ≠ tabGet b d k

/-- What a mirror record of an element carries (Table 15-2). -/
def Elem.mirror (e : Elem) : List Nat :=
  [e.st.code, b2n e.on, b2n e.lit, unsign e.trimOn 16, unsign e.trimOff 16, unsign e.outerTrim 16,
   match e.clsOvr with
   | none => 0
   | some c => c + 1]

/-- What a mirror record of a sentence carries beside its clauses. -/
def Sentence.mirror (t : Sentence) : List Nat :=
  [t.state.code, b2n t.rearm, t.pgroup, match t.slot with
   | none => 0
   | some k => k + 1,
   t.clauses.length, b2n t.opts.rearrangeOk + 2 * b2n t.opts.allOrNone, t.lastStatus, t.lastSerial.toNat,
   t.lastApplied, t.bitmap.length, bitsNat t.bitmap] ++ t.ports.map fun p => 2 * p.port + b2n p.input

/-- What a mirror record of a paragraph carries: state and position, START, the definition, the steps. -/
def Para.mirror (p : Para) : List Nat :=
  [p.state.code, p.step, p.iter, unsign p.start 112, p.period, p.repeats, p.late, b2n p.halt, b2n p.reportAll,
   b2n p.stopAtEnd] ++ p.steps.flatMap fun x => [x.1, x.2]

/-- A bank as numbers, for the mirror. -/
def bankNats (b : Bank) : List Nat :=
  [b.lawLit, b.lawDark, b.sections, b.outMode, b.bOut, b.bIn, b.sUp, b.sDn, b.feLimit, b.feTime, b.feBlank, b.feReact,
   b.maxJump, b.slewMax, b.dwell, b.ditherDepth, b.ko, b.trimLimit, b.demodPhase, unsign b.clsTrimOn 16,
   unsign b.clsTrimOff 16] ++ b.coef.flatMap fun c => (List.range 5).map fun i => unsign (c.getD i 0) 32

/-- The bank that numbers stand for. -/
def bankOfNats (l : List Nat) : Bank :=
  let g := fun i => l.getD i 0
  let cs := l.drop 21
  { lawLit := g 0, lawDark := g 1, sections := g 2, outMode := g 3, bOut := g 4, bIn := g 5, sUp := g 6, sDn := g 7
    feLimit := g 8, feTime := g 9, feBlank := g 10, feReact := g 11, maxJump := g 12, slewMax := g 13, dwell := g 14
    ditherDepth := g 15, ko := g 16, trimLimit := g 17, demodPhase := g 18
    clsTrimOn := signed (g 19) 16, clsTrimOff := signed (g 20) 16
    coef := (List.range (cs.length / 5)).map fun j => (List.range 5).map fun i => signed (cs.getD (5 * j + i) 0) 32 }

/-- Record kinds: 2 connection, 3 sentence, 4 clause of a sentence, 5 paragraph, 6 element, 7 tile, 8 calibration,
9 safety check value, 10 class (banks A, B and the active one), 11 row value of a calibration result, 12 end of a launch, 13 time of a scheduled launch;
kind 1 is the token's record. Each is kind, key and values. -/
def State.mirrorDiff (s0 s : State) : List (List Nat) :=
  let conns := (diffKeys none s0.store.table s.store.table).map fun k =>
    match s.conn k with
    | none => [2, k, 0, 0, 0, 0]
    | some c => [2, k, 1, c.handle, c.serial.toNat, c.clause.toNat]
  let ended := (s0.store.launches.filter fun l => s.store.launches.all fun x => x.serial != l.serial).map fun l =>
    [12, l.serial.toNat]
  let sched := fun (l : List Sched) (h : Nat) => l.find? fun (x : Sched) => x.handle == h
  let times := (((s0.store.scheds ++ s.store.scheds).map (·.handle)).filter fun h =>
      sched s0.store.scheds h != sched s.store.scheds h).map fun h =>
    match sched s.store.scheds h with
    | none => [13, h]
    | some x => [13, h, unsign x.t 112, x.late]
  let sents := (diffKeys {} s0.store.sentences s.store.sentences).flatMap fun k =>
    ([3, k] ++ (s.sent k).mirror) ::
      (if (s.sent k).clauses = (s0.sent k).clauses then []
       else (List.range (s.sent k).clauses.length).map fun j => [4, k, j, ((s.sent k).clauses.getD j 0).toNat])
  let paras := (diffKeys {} s0.store.paras s.store.paras).map fun k =>
    [5, k] ++ (s.para k).mirror
  let elems := ((diffKeys {} s0.loops.elems s.loops.elems).filter fun k =>
      (s0.elem k).mirror ≠ (s.elem k).mirror).map fun k => [6, k] ++ (s.elem k).mirror
  let tiles := ((diffKeys {} s0.paost.links s.paost.links).filter fun k =>
      (s0.link k).epoch ≠ (s.link k).epoch || (s0.link k).lastSerial ≠ (s.link k).lastSerial
        || (s0.link k).idHeld ≠ (s.link k).idHeld).map fun k =>
    [7, k, (s.link k).epoch, (s.link k).lastSerial.toNat, match (s.link k).idHeld with
      | none => 0
      | some i => i + 1]
  let cal := if s0.calib.version = s.calib.version then [] else [[8, 0, s.calib.version]]
  let safe := if s0.lsu.check = s.lsu.check then [] else [[9, 0, s.lsu.check.toNat]]
  let clss := ((diffKeys {} s0.loops.classes s.loops.classes).filter fun k =>
      (s0.cls k).activeB ≠ (s.cls k).activeB || (s0.cls k).bankA ≠ (s.cls k).bankA
        || (s0.cls k).bankB ≠ (s.cls k).bankB).map fun k => [10, k, b2n (s.cls k).activeB, 21 + 5 * (s.cls k).bankA.coef.length]
      ++ bankNats (s.cls k).bankA ++ bankNats (s.cls k).bankB
  let rows := (diffKeys 0 s0.calib.rowSet s.calib.rowSet).map fun k => [11, k, tabGet s.calib.rowSet 0 k]
  conns ++ ended ++ sents ++ times ++ paras ++ elems ++ tiles ++ cal ++ safe ++ clss ++ rows

/-- One mirror record is sent. -/
def sendMirror (s : State) (r : List Nat) : State :=
  let n := s.mate.sent + 1
  ({ s with mate := { s.mate with sent := n, unacked := s.mate.unacked ++ [(n, s.dt)] } }).emit
    (.mateFrame "MIRROR" (n :: r))

/-- The verbs that ended, and the launch reports that fell due, between two states. -/
def newResults (s0 s : State) : List (Source × Nat) :=
  ((s.host.issues.filter fun i => i.done.isSome && !s0.host.issues.contains i).map fun i => (i.src, i.tag)) ++
    ((s.host.owed.drop s0.host.owed.length).filter fun e => e.2.kind = 1).map fun e => (e.1, e.2.tag)

/-- The active mirrors every change (R404); results of a verb that changed mirrored data wait for the
acknowledgement while the standby is SYNCED (R405). -/
def mirrorTouch (s0 s : State) : State :=
  if s.mate.role = .active && s.mate.link then
    let s1 := (s0.mirrorDiff s).foldl sendMirror s
    if s1.mate.sent = s0.mate.sent || !s1.mate.synced then s1
    else { s1 with mate := { s1.mate with
      waits := s1.mate.waits ++ (newResults s0 s1).map fun x => { record := s1.mate.sent, src := x.1, tag := x.2 } } }
  else s

/-! ## Vectors -/

/-- Vector 18 (Table 11-9). -/
def timeNotify (s0 s : State) : State :=
  let a := s0.time
  let b := s.time
  if a.state ≠ b.state || a.timeJump ≠ b.timeJump || (b.rateClamp && !a.rateClamp) || a.dalovoLate < b.dalovoLate
      || a.ppsIn.seq ≠ b.ppsIn.seq then s.msix 18 else s

/-- Vector 19 for the states of the peers (Table 11-9). -/
def peerNotify (s0 s : State) : State :=
  if (List.range 16).any fun p => (s0.peer p).state ≠ (s.peer p).state then s.msix 19 else s

/-- Vector 20 (Table 11-9). -/
def mateNotify (s0 s : State) : State :=
  let a := s0.mate
  let b := s.mate
  if a.role ≠ b.role || a.link ≠ b.link || a.synced ≠ b.synced || (b.pathAlarm && !a.pathAlarm)
      || (b.splitAverted && !a.splitAverted) || (b.digestMismatch && !a.digestMismatch)
      || (b.safeMismatch && !a.safeMismatch) || a.takeovers ≠ b.takeovers || a.handovers ≠ b.handovers
      || a.drillFails ≠ b.drillFails then s.msix 20 else s

/-- What vector 40 + n watches of region `n` itself (Table 11-9); of HOLD_SHORT and FENCED only the setting counts. -/
def Region.view (r : Region) : List Nat × List Nat × List Nat × List Bool × Nat :=
  (r.linkFenced, r.loopFenced, r.smuFenced, [r.linkBlk, r.loopBlk, r.cacheBlk, r.smuBlk], r.degrade)

/-- Vectors 40 to 55 (Table 11-9). -/
def regionNotify (s0 s : State) : State :=
  let own := (diffKeys {} s0.regions s.regions).filter fun n =>
    (s0.region n).view ≠ (s.region n).view || ((s.region n).fenced && !(s0.region n).fenced)
      || ((s.region n).holdShort && !(s0.region n).holdShort)
  let links := ((diffKeys {} s0.paost.links s.paost.links).filter fun t =>
    (s0.link t).state ≠ (s.link t).state || (s0.link t).tile ≠ (s.link t).tile).map tileRegion
  ((List.range 16).filter fun n => own.contains n || links.contains n).foldl (fun s n => s.msix (40 + n)) s

/-- The restart record follows every change of the table, the tokens and the tiles' epochs and serials (R458), once
restart resolution has ended. -/
def recordTouch (s : State) : State :=
  if s.chip.resolved && s.chip.mainRun && s.mate.role ≠ .starting then
    { s with chip := { s.chip with restart := s.recordNow } }
  else s

/-! ## Handover (R416) -/

/-- The controllers' frame ROLE: the requested step of R416 and RETURN (Table 15-5). -/
def sendRole (s : State) (step : Nat) (ret : Bool) : State := s.emit (.mateFrame "ROLE" [step, b2n ret])

/-- This controller no longer owns a tile: sweeps and calibration runs on it end LOST (Table 7-6, R230, R414). -/
def loseTile (s : State) (t : Nat) : State :=
  let s1 := s.modLink t fun l => { l with owner := false, claimed := none, tile := if l.tile == .absent then .absent else .adopting
                                          ident := [], readback := [], readAsked := false, corrections := [] }
  loseCalRuns (endRuns s1 (fun x => x.tile == t) endLost) fun x => x.tile == t

/-- Tiles are given back with RELEASE (R408, R416). -/
def releaseTiles (s : State) (ts : List Nat) : State :=
  ts.foldl (fun s t => (loseTile s t).down t "RELEASE" []) s

/-- Tiles whose link is up. -/
def State.linked (s : State) : List Nat :=
  (s.img.tiles.foldl (fun l t => if l.contains t then l else l ++ [t]) []).filter fun t =>
    (s.link t).state == .active || (s.link t).state == .idle

/-- Every outstanding launch has ended, so step 3 of R416 follows: RELEASE on every tile link. -/
def handoverStep (s : State) : State :=
  if !s.store.launches.isEmpty then s else
    match s.mate.handover with
    | .waiting h ret ms =>
      let s1 := releaseTiles s s.linked
      sendRole { s1 with mate := { s1.mate with handover := .released h ret ms } } 3 ret
    | .handingBack false =>
      let s1 := releaseTiles s s.linked
      sendRole { s1 with mate := { s1.mate with handover := .handingBack true } } 3 false
    | _ => s

/-! ## RESUME_REGION (R442) -/

/-- Fences end of the regions whose tiles have all been adopted or found DOWN (R442 step 5). -/
def endResuming (s : State) : State :=
  ((List.range 16).filter fun n => (s.region n).resuming && (regionTiles s.img n).all fun t =>
      (s.link t).state == .down || (s.link t).tile == .adopted).foldl
    (fun (s : State) n => s.modRegion n fun r => { r with fenced := false, resuming := false }) s

/-- The verbs whose tiles have all been adopted or found DOWN end; a region's fence ends with them (R442 step 5). -/
def resumeStep (s : State) : State :=
  s.faults.resumes.foldl (fun (s : State) r =>
    if r.tiles.all fun t => (s.link t).state == .down || (s.link t).tile == .adopted then
      let got := r.tiles.filter fun t => (s.link t).tile == .adopted
      let stale := got.filter fun t => (s.link t).stale
      let s1 := endResuming s
      State.complete { s1 with faults := { s1.faults with resumes := s1.faults.resumes.filter (· ≠ r) } } r.hdr 0x01 stSuccess
        (got.length + 2 ^ 16 * stale.length)
    else s) s

/-- What follows a command that took `s0` to `s`. -/
def after (s0 s : State) : State :=
  let s1 := mirrorTouch s0 (digestTouch s0 (recordTouch (resumeStep (handoverStep s))))
  (regionNotify s0 (mateNotify s0 (peerNotify s0 (timeNotify s0 s1)))).lsuNotify s0.lsu

/-- A command's outcome: its effect, with what follows it. -/
def ok (s0 s : State) : Host.Outcome State Fault Refusal := .next (after s0 s)

/-- An access of BAR0 or another row of the main side: nothing happens while it is down or in reset (R443, R470). -/
def mainRow (s : State) (f : State → State) : Host.Outcome State Fault Refusal :=
  if s.chip.mainRun then ok s (f s) else .next s

/-- A read of a BAR0 register with an effect of its own: the data, then the state after it. -/
def readRow (s : State) (f : State → Word32 × State) : Host.Outcome State Fault Refusal :=
  mainRow s fun s => (f s).2.emit (.readData [(f s).1])

/-- An earlier verb of the same source has not ended: this one waits (R101, R102). -/
def earlierOpen (src : Source) (tag opcode : Nat) : List Issue → Bool
  | [] => false
  | i :: r =>
    if i.src = src then
      if i.tag = tag && i.opcode = opcode && i.done.isNone then
        false
      else i.done.isNone || earlierOpen src tag opcode r
    else earlierOpen src tag opcode r

end Sys2Proof.Machine
end

