-- ==== Sys2Proof/Machine/Flags.lean ====
section
/-! DEFINITION. Check values and flag words that several chapters compute: CRC-32C (R384), the pins ERR_N and
SB_ALERT_N's sources, the status words of the light-safety unit. -/

namespace Sys2Proof.Machine

/-- One bit of CRC-32C, reflected (R384). -/
def crc32cBit (c : BitVec 32) : BitVec 32 :=
  if c.getLsbD 0 then (c >>> 1) ^^^ 0x82F63B78#32 else c >>> 1

/-- One byte of CRC-32C. -/
def crc32cByte (c : BitVec 32) (b : Nat) : BitVec 32 :=
  (List.range 8).foldl (fun c _ => crc32cBit c) (c ^^^ BitVec.ofNat 32 (b % 256))

/-- CRC-32C of bytes (R384): initial value and final inversion of all ones. -/
def crc32c (bs : List Nat) : BitVec 32 := ~~~(bs.foldl crc32cByte 0xFFFFFFFF#32)

/-- The `n` bytes of a number, little-endian. -/
def leBytes (n v : Nat) : List Nat := (List.range n).map fun i => v / 256 ^ i % 256

/-- Check value of the 28 words of a safety block (R384). -/
def safeCheck (ws : List Word32) : Word32 := crc32c (ws.flatMap fun w => leBytes 4 w.toNat)

/-! ## Contacts (R371) -/

/-- The filtered contact levels `a` and `b` (closed) of an input in mode `m` as permissive. -/
def permissive (m : Nat) (a b : Bool) : Bool × Bool := (a, if m = 2 then !b else b)

/-! ## Light-safety status words -/

def IlkState.code : IlkState → Nat
  | .unused => 0
  | .ok => 1
  | .demand => 2
  | .discrepancy => 3

def LenCause.code : LenCause → Nat
  | .none => 0
  | .fbkStart => 1
  | .fbkTimeout => 2
  | .testFail => 3
  | .stuckOn => 4
  | .lsuFault => 5

def TestResult.code : TestResult → Nat
  | .none => 0
  | .passed => 1
  | .incomplete => 2
  | .failed => 3

def RcState.code : RcState → Nat
  | .notReceiving => 0
  | .permit => 1
  | .shutdown => 2
  | .expired => 3

/-- Numbers below 2^w each, the first lowest. -/
def packed (w : Nat) (l : List Nat) : Nat := l.foldr (fun v n => v + 2 ^ w * n) 0

def LightSafety.ilkOf (u : LightSafety) (i : Nat) : Ilk := tabGet u.ilks {} i
def LightSafety.lenOf (u : LightSafety) (k : Nat) : Len := tabGet u.lens {} k
def LightSafety.rcOf (u : LightSafety) (j : Nat) : Rc := tabGet u.rcs {} j

/-- Output `k` drives its load: commanded on and not in the off part of a test pulse. -/
def Len.driven (l : Len) (t : Nat) : Bool := l.on && !(l.inPulse && decide (t < l.pulseAt + 200 * usTicks))

/-- READBACK of an output: it follows the drive, but for a driver found stuck on. -/
def Len.readback (l : Len) (t : Nat) : Bool := l.driven t || l.cause == .stuckOn

/-- SAFE_STATUS. -/
def LightSafety.statusWord (u : LightSafety) : Nat :=
  bitsNat [u.paramOk, u.commissioned, u.safeState, u.fault, u.commitErr, u.recordErr, u.keyPhase == 2]

/-- ILK_STATUS. -/
def LightSafety.ilkWord (u : LightSafety) : Nat :=
  packed 2 ((List.range 8).map fun i => (u.ilkOf i).state.code) + 2 ^ 16 * packed 2 ((List.range 8).map fun i =>
    let x := u.ilkOf i
    let p := permissive (u.ilkMode i) x.rawA x.rawB
    if u.ilkMode i = 0 then 0 else b2n p.1 + 2 * b2n p.2)

/-- LEN_STATUS at device time `t`. -/
def LightSafety.lenWord (u : LightSafety) (t : Nat) : Nat :=
  bitsNat ((List.range 4).map fun k => (u.lenOf k).on) + 2 ^ 4 * bitsNat ((List.range 4).map fun k => (u.lenOf k).readback t)
    + 2 ^ 8 * packed 3 ((List.range 4).map fun k => (u.lenOf k).cause.code)
    + 2 ^ 20 * bitsNat ((List.range 4).map fun k => (u.lenOf k).ackWait)

/-- TP_STATUS. -/
def LightSafety.tpWord (u : LightSafety) : Nat :=
  packed 2 ((List.range 4).map fun k => (u.lenOf k).last.code) + 2 ^ 8 * u.incomplete + 2 ^ 16 * u.passed

/-- RC_STATUS. -/
def LightSafety.rcWord (u : LightSafety) : Nat :=
  packed 2 ((List.range 8).map fun j => (u.rcOf j).state.code)
    + 2 ^ 16 * bitsNat ((List.range 8).map fun j => u.rcSends j && (u.rcOf j).sending)

/-- A safety fault is latched (R383). -/
def LightSafety.faultLatched (u : LightSafety) : Bool :=
  u.fault || (List.range 4).any (fun k => (u.lenOf k).cause != .none) ||
    (List.range 8).any fun i => (u.ilkOf i).state == .discrepancy

end Sys2Proof.Machine
end

