-- ==== Sys2Proof/Machine/LightSafety.lean ====
section
/-! DEFINITION. The light-safety unit (chapter "Light safety", R370 to R392); the SAFETY frames are in `Dalovo`. -/

namespace Sys2Proof.Machine

/-- The unit runs: POR_N and the always-on supplies do not hold it in reset (R443, R497). -/
def State.lsuRuns (s : State) : Bool := !s.chip.por

/-- A row of the unit: nothing happens while it is in reset. -/
def lsuRow (s : State) (f : State → State) : Host.Outcome State Fault Refusal := ok s (if s.lsuRuns then f s else s)

/-! ## Interlock inputs -/

/-- Input `i` takes state `new`; the beginning or end of a demand, and DISCREPANCY, are reported (R383). -/
def ilkTo (s : State) (i : Nat) (x : Ilk) (new : IlkState) : State :=
  let s1 := s.setIlk i { x with state := new }
  let s2 := if (x.state == .ok) != (new == .ok) then s1.report 0x0070 srcLsu i else s1
  if new == .discrepancy && x.state != .discrepancy then s2.report 0x0071 srcLsu i else s2

/-- The state that an input's filtered contacts give it (R372, R373); the steps that end a DISCREPANCY are followed. -/
def ilkFollow (s : State) (i : Nat) : State :=
  let x := s.ilk i
  let p := permissive (s.lsu.ilkMode i) x.filtA x.filtB
  let both := p.1 && p.2
  let neither := !p.1 && !p.2
  match x.state with
  | .unused => s
  | .discrepancy =>
    let seen := x.seenNon || neither
    s.setIlk i { x with seenNon := seen, seenPerm := x.seenPerm || (seen && both) }
  | _ => ilkTo s i x (if both then .ok else .demand)

/-- ILK_CONTACT_CHANGE: a filtered level has changed to `closed` after FILTER ms (R371). -/
def execIlkContactChange (input : Nat) (contactB closed : Bool) (s : State) : Host.Outcome State Fault Refusal :=
  lsuRow s fun s =>
    if 8 ≤ input then s else
      let x := s.ilk input
      let y := if contactB then { x with rawB := closed, filtB := closed } else { x with rawA := closed, filtA := closed }
      ilkFollow (s.setIlk input y) input

/-- ILK_DISCREPANCY: the filtered contacts have differed for longer than DISCREP (R373). -/
def execIlkDiscrepancy (input : Nat) (s : State) : Host.Outcome State Fault Refusal :=
  lsuRow s fun s =>
    let x := s.ilk input
    let p := permissive (s.lsu.ilkMode input) x.filtA x.filtB
    if 8 ≤ input || x.state == .unused || x.state == .discrepancy || p.1 == p.2 then s
    else ilkTo s input { x with seenNon := false, seenPerm := false } .discrepancy

/-! ## Light-enable outputs -/

/-- ALLOWED of R374. -/
def State.lenAllowed (s : State) (k : Nat) : Bool :=
  let u := s.lsu
  u.used k && u.paramOk && u.commissioned && !u.fault && !u.safeState && (s.len k).cause == .none && !(s.len k).forceOff &&
    ((List.range 8).all fun i => !bit (u.ilkMask k) i || (s.ilk i).state == .ok) &&
    ((List.range 8).all fun j => !bit (u.rcMask k) j || (s.rc j).state == .permit)

/-- A cause latches on output `k` and keeps it de-energised (R375); one field holds the cause, the graver one stays. -/
def latchCause (s : State) (k : Nat) (c : LenCause) (code : Nat) : State :=
  if c.code ≤ (s.len k).cause.code then s else
    let s1 := s.setLen k { s.len k with cause := c, agreeSince := some s.dt }
    (lenOff s1 k).report code srcLsu k

/-- A pulse that a demand has met ends: the test is incomplete, unless its first check failed (R378). -/
def endPulse (s : State) (k : Nat) : State :=
  let l := s.len k
  if l.inPulse && l.demandInPulse && decide (l.pulseAt + 200 * usTicks ≤ s.dt) then
    let s1 := s.setLen k { l with inPulse := false, pulseEnd := some s.dt, check1 := none, demandInPulse := false,
                                  last := .incomplete }
    { s1 with lsu := { s1.lsu with incomplete := satInc s1.lsu.incomplete 0xFF } }.report 0x0071 srcLsu k
  else s

/-- Output `k` is energised: its next test pulse is scheduled (R377, R378). -/
def lenOn (s : State) (k : Nat) : State :=
  s.setLen k { s.len k with
    on := true
    everOn := true
    changed := s.dt
    tpDue := if s.lsu.tpEn k then some (s.dt + s.lsu.tpPeriod k * secTicks) else none }

/-- One evaluation of R374 for output `k`. -/
def lenStep (s0 : State) (k : Nat) : State :=
  let s := endPulse s0 k
  let l := s.len k
  if !s.lenAllowed k then lenOff s k
  else if l.on || (s.lsu.manual k && (l.ackWait || !l.everOn)) then s
  else if !s.lsu.fbkEn k || l.fbkOpen then lenOn s k
  else latchCause s k .fbkStart 0x0071

/-- LEN_EVALUATE (R374). -/
def execLenEvaluate (s : State) : Host.Outcome State Fault Refusal := lsuRow s fun s => (List.range 4).foldl lenStep s

/-- Feedback is evaluated: not during a test pulse nor for 5 ms after one (R376). -/
def State.fbkLive (s : State) (k : Nat) : Bool :=
  let l := s.len k
  !l.inPulse && (match l.pulseEnd with
    | some e => decide (e + 5 * msTicks ≤ s.dt)
    | none => true)

/-- FBK_TIMEOUT: the feedback reads `fbkOpen`; a disagreement that has outlasted FBK_TIME is latched (R376). -/
def execFbkTimeout (output : Nat) (fbkOpen : Bool) (s : State) : Host.Outcome State Fault Refusal :=
  lsuRow s fun s =>
    if 4 ≤ output then s else
      let l := s.len output
      let s1 := s.setLen output { l with fbkOpen }
      if s.lsu.used output && s.lsu.fbkEn output && s.fbkLive output && l.on == fbkOpen
          && decide (l.changed + s.lsu.fbkTime output * msTicks ≤ s.dt) then
        latchCause s1 output .fbkTimeout 0x0071
      else s1

/-- STUCK_ON_DETECT: the output has read energised for more than 100 µs while commanded off, outside a test pulse
(R375). A further detection says that the disagreement lasts. -/
def execStuckOnDetect (output : Nat) (s : State) : Host.Outcome State Fault Refusal :=
  lsuRow s fun s =>
    let l := s.len output
    if 4 ≤ output || l.on || l.inPulse then s
    else if l.cause == .stuckOn then s.setLen output { l with agreeSince := some s.dt }
    else latchCause s output .stuckOn 0x0072

/-! ## Test pulses -/

/-- No pulse of another output stands in the way of one that is due at `due` (R377). -/
def State.pulseFree (s : State) (k due : Nat) : Bool :=
  (List.range 4).all fun j => j == k || (!(s.len j).inPulse && (match (s.len j).pulseEnd with
    | some e => decide (due < (s.len j).pulseAt) || decide (e < due) || decide (e + msTicks ≤ s.dt)
    | none => true))

/-- TEST_PULSE_START (R377). -/
def execTestPulseStart (output : Nat) (s : State) : Host.Outcome State Fault Refusal :=
  lsuRow s fun s =>
    let l := s.len output
    match l.tpDue with
    | some due =>
      if output < 4 && s.lsu.tpEn output && l.on && !l.inPulse && decide (due ≤ s.dt) && s.pulseFree output due then
        s.setLen output { l with inPulse := true, check1 := none, pulseAt := s.dt, demandInPulse := false, tpDue := none }
      else s
    | none => s

/-- TEST_PULSE_CHECK: the first check, then the second (R377, R378). -/
def execTestPulseCheck (output : Nat) (readbackOn : Bool) (s : State) : Host.Outcome State Fault Refusal :=
  lsuRow s fun s =>
    let l := s.len output
    if 4 ≤ output || !l.inPulse then s
    else
      let ended := { l with inPulse := false, pulseEnd := some s.dt, check1 := none, demandInPulse := false }
      let failed := fun (s : State) => latchCause (s.setLen output { ended with last := .failed }) output .testFail 0x0071
      match l.check1 with
      | none => if readbackOn then failed s else s.setLen output { l with check1 := some true }
      | some _ =>
        if l.demandInPulse then endPulse s output
        else if !readbackOn then failed s
        else
          let s1 := s.setLen output { ended with
            last := .passed, tpDue := some (l.pulseAt + s.lsu.tpPeriod output * secTicks) }
          { s1 with lsu := { s1.lsu with passed := satInc s1.lsu.passed 0xFFFF } }

/-! ## Commissioning -/

/-- Any write to the unit that is no step of the key sequence closes the key (R387). -/
def dropKey (s : State) : State := { s with lsu := { s.lsu with keyPhase := 0 } }

/-- The key is open and its second has not run out. -/
def State.keyOpen (s : State) : Bool := s.lsu.keyPhase == 2 && decide (s.dt ≤ s.lsu.keyAt + secTicks)

/-- A write of SAFE_KEY. -/
def safeKey (s : State) (value : Word32) : State :=
  if value == 0xA5E1#32 && s.lsu.keyPhase == 1 then { s with lsu := { s.lsu with keyPhase := 2, keyAt := s.dt } }
  else { s with lsu := { s.lsu with keyPhase := if value == 0x5A1E#32 then 1 else 0 } }

/-- SAFE_KEY_WRITE (R387). -/
def execSafeKeyWrite (value : Word32) (s : State) : Host.Outcome State Fault Refusal := lsuRow s (safeKey · value)

/-- A write of SAFE_COMMIT. -/
def safeCommit (s : State) (value : Word32) : State :=
  let s1 := dropKey s
  if s.keyOpen && value == 0#32 then
    let s2 := { s1 with lsu := { s1.lsu with commissioned := false, committed := 0, recordPending := some 0 } }
    (List.range 4).foldl lenOff s2
  else if s.keyOpen && value == s.lsu.check then
    { s1 with lsu := { s1.lsu with commissioned := true, committed := value, recordPending := some value } }
  else { s1 with lsu := { s1.lsu with commitErr := true } }

/-- SAFE_COMMIT_WRITE (R387). -/
def execSafeCommitWrite (value : Word32) (s : State) : Host.Outcome State Fault Refusal := lsuRow s (safeCommit · value)

/-- SAFE_KEY_TIMEOUT: the second after the key opened has run out (R387). -/
def execSafeKeyTimeout (s : State) : Host.Outcome State Fault Refusal :=
  lsuRow s fun s => if s.lsu.keyPhase == 2 && decide (s.lsu.keyAt + secTicks ≤ s.dt) then dropKey s else s

/-- SAFE_ACK for input `i` (R373). -/
def ackIlk (s : State) (i : Nat) : State :=
  let x := s.ilk i
  if x.state == .discrepancy && x.seenPerm then
    let p := permissive (s.lsu.ilkMode i) x.filtA x.filtB
    ilkTo s i { x with seenNon := false, seenPerm := false } (if p.1 && p.2 then .ok else .demand)
  else s

/-- SAFE_ACK for output `k` (R374, R375); ALLOWED is taken as it stood before the write. -/
def ackLen (s0 s : State) (k : Nat) : State :=
  let l := s.len k
  let clear := match l.cause with
    | .fbkStart | .fbkTimeout | .testFail => !l.readback s.dt && (!s.lsu.fbkEn k || l.fbkOpen)
    | .stuckOn => (match l.agreeSince with
      | some t => decide (t + 10 * msTicks ≤ s.dt)
      | none => false)
    | _ => false
  let acked := s0.lenAllowed k
  s.setLen k { l with
    cause := if clear then .none else l.cause
    ackWait := l.ackWait && !acked
    everOn := l.everOn || acked }

/-- A write of SAFE_ACK. -/
def safeAck (s : State) (value : Word32) : State :=
  let s1 := (((List.range 8).filter fun i => bit value.toNat i).foldl ackIlk (dropKey s))
  ((List.range 4).filter fun k => bit value.toNat (8 + k)).foldl (ackLen s) s1

/-- SAFE_ACK_WRITE (R373 to R375). -/
def execSafeAckWrite (value : Word32) (s : State) : Host.Outcome State Fault Refusal := lsuRow s (safeAck · value)

/-- A write of LEN_FORCE_OFF: a set bit de-energises its output and no bit energises one. -/
def lenForceOff (s : State) (value : Word32) : State :=
  (List.range 4).foldl (fun (s : State) k =>
    let f := bit value.toNat k
    let s1 := s.setLen k { s.len k with forceOff := f }
    if f then lenOff s1 k else s1) (dropKey s)

/-- LEN_FORCE_OFF_WRITE (R374). -/
def execLenForceOffWrite (value : Word32) (s : State) : Host.Outcome State Fault Refusal := lsuRow s (lenForceOff · value)

/-- Inputs, outputs and bindings as a newly taken block starts them (R372, R386, R391). -/
def startBlock (s : State) : State :=
  let s1 := (List.range 8).foldl (fun (s : State) i =>
    let x := s.ilk i
    s.setIlk i { x with state := if s.lsu.ilkMode i = 0 then .unused else .demand, seenNon := false, seenPerm := false }) s
  let s2 := (List.range 8).foldl (fun (s : State) j =>
    s.setRc j { s.rc j with state := if s.lsu.rcReceives j then .expired else .notReceiving, lastSeq := none, primed := false,
                            sending := true, repeats := 0 }) s1
  (List.range 4).foldl lenOff s2

/-- The main side delivers block `b` (R384 to R386, R388). -/
def deliverBlock (s : State) (b : SafetyBlock) : State :=
  let c := safeCheck b.words
  let u := s.lsu
  if !u.words.isEmpty && c == u.check then s else
    let good := c == b.expected
    let kept := u.words.isEmpty && good && u.record == some (c, true)
    startBlock { s with lsu := { u with
      words := b.words, check := c, paramOk := good, commissioned := kept
      committed := if kept then c else u.committed } }

/-- SAFETY_BLOCK_DELIVER (R386). -/
def execSafetyBlockDeliver (block : SafetyBlock) (s : State) : Host.Outcome State Fault Refusal :=
  lsuRow s fun s => if block.words.length = 28 then deliverBlock s block else s

/-- SAFETY_RECORD_WRITE: the flash write of the committed value ends; only the running main side writes it (R388, R448,
R449). -/
def execSafetyRecordWrite (good : Bool) (s : State) : Host.Outcome State Fault Refusal :=
  lsuRow s fun s =>
    match s.lsu.recordPending with
    | some v =>
      if !s.chip.mainRun then s
      else if good then { s with lsu := { s.lsu with record := some (v, true), recordPending := none } }
      else { s with lsu := { s.lsu with recordErr := true, recordPending := none } }
    | none => s

/-- An internal fault of the unit (R382): it holds until POR_N. -/
def lsuFault (s : State) (detail : Nat) : State :=
  if s.lsu.fault then s else
    let s1 := { s with lsu := { s.lsu with fault := true } }
    let s2 := (List.range 4).foldl (fun (s : State) k => lenOff (s.setLen k { s.len k with cause := .lsuFault }) k) s1
    s2.report 0x0073 srcLsu detail

/-- LSU_SELF_CHECK (R382): DETAIL0 numbers the check that failed. -/
def execLsuSelfCheck (crcOk parityOk clockOk supplyOk : Bool) (s : State) : Host.Outcome State Fault Refusal :=
  lsuRow s fun s =>
    if crcOk && parityOk && clockOk && supplyOk then s
    else lsuFault s (if !crcOk then 0 else if !parityOk then 1 else if !clockOk then 2 else 3)

end Sys2Proof.Machine
end

