-- ==== Sys2Proof/Machine/Operands.lean ====
section
/-! DEFINITION. The operand forms of the verbs: classes and sources (Table 11-7), the fields of a 64-byte verb entry,
and the checks 2 to 4 of R310. -/

namespace Sys2Proof.Machine

/-! ## Classes, sources, readiness -/

/-- Class of an opcode as the number of its meter: 0 P0 to 3 P3 (Table 11-7); none: not in the table. -/
def verbClass (op : Nat) : Option Nat :=
  match op with
  | 0x00 | 0x03 | 0x04 | 0x06 | 0x2B | 0x3A => some 3
  | 0x16 => some 0
  | 0x01 | 0x05 | 0x10 | 0x11 | 0x12 | 0x13 | 0x14 | 0x15 | 0x17 | 0x18 | 0x19 | 0x1A | 0x1B
  | 0x22 | 0x23 | 0x29 | 0x2A | 0x32 => some 1
  | 0x02 | 0x20 | 0x21 | 0x28 | 0x30 | 0x31 | 0x33 | 0x38 | 0x39 => some 2
  | _ => none

/-- Verbs that only a host queue may issue (Table 11-7). -/
def hostOnly (op : Nat) : Bool := [0x06, 0x11, 0x19, 0x28, 0x2B, 0x30, 0x3A].contains op

/-- Verbs that a Dalovo peer may issue, as far as its permission mask `m` allows (Table 11-7, R338). -/
def peerMay (m op : Nat) : Bool :=
  if op = 0 then true
  else if op = 0x16 then bit m 1
  else if op = 3 || op = 4 then bit m 2
  else if op = 0x11 || op = 0x19 then false
  else if 0x10 ≤ op && op ≤ 0x1B then bit m 0
  else false

/-- Permission mask of peer `p`. -/
def State.perm (s : State) (p : Nat) : Nat :=
  match s.img.peers[p]? with
  | some r => r.perm
  | none => 0

/-- Check 2 of R310: the opcode, the source and FIRE_ONLY allow the verb (R308). -/
def State.permitted (s : State) (src : Source) (op : Nat) : Bool :=
  (verbClass op).isSome &&
    match src with
    | .host q => !(s.queue q).fireOnly || op == 0x16
    | .peer p => peerMay (s.perm p) op
    | .sideband => !hostOnly op
    | .lossOfLight => false

/-- Check 3 of R310: what the verb needs is ready (R319, R400, R431, R457). -/
def State.verbReady (s : State) (op : Nat) : Bool :=
  s.chip.mainRun &&
    (!s.faults.safeState || [0x12, 0x16, 0x00, 0x03, 0x04, 0x2B, 0x3A].contains op) &&
    (!(s.img.mateEnable && (s.mate.role == .starting || s.mate.role == .standby))
      || [0x00, 0x03, 0x04, 0x05].contains op) &&
    (if op = 0 || op = 4 then true
     else if [1, 2, 5, 6].contains op then s.chip.imageApplied
     else s.fabricReady)

/-! ## Field ranges -/

/-- A host address field: 0 for a source that has no host memory (R309), aligned to `n`. -/
def addrOk (h : Hdr) (addr n : Nat) : Bool :=
  addr % n == 0 && addr < 2 ^ 64 && (match h.src with
    | .host _ => true
    | _ => addr == 0)

/-- A network time field (R273). -/
def timeOk (t : NetTime) : Bool := t.sec < 2 ^ 64 && t.ns < 1000000000 && t.frac < 65536

/-- Flags and result address of a launching verb. -/
def optsOk (h : Hdr) (o : LaunchOpts) : Bool := addrOk h o.resultAddr 64

/-- The range checks of a verb's fields (check 4 of R310, R309). -/
def fieldsOk : Instr → Bool
  | .resumeRegion _ t n => n < if t then 256 else 16
  | .selfTest _ t ms _ => t < 2 ^ 8 && 1 ≤ ms && ms < 65536
  | .getDigest h _ a _ => addrOk h a 64
  | .getCert h w a n => w ≤ 1 && addrOk h a 1 && n < 2 ^ 32
  | .handover _ _ ms => ms < 65536
  | .dalovoSend h timed _ p n a t late =>
    p < 16 && 1 ≤ n && n ≤ 992 && addrOk h a 1 && (!timed || timeOk t) && late ≤ 1000000000
  | .stage _ _ hd cl => hd < 4096 && 1 ≤ cl.length && cl.length ≤ 3
  | .stageList h _ _ hd n a => hd < 4096 && 1 ≤ n && n ≤ 1024 && addrOk h a 16
  | .commit h hd o => hd < 4096 && optsOk h o
  | .schedule h hd o t late => hd < 4096 && optsOk h o && timeOk t && late ≤ 1000000000
  | .arm h hd o _ pg ps => hd < 4096 && optsOk h o && pg < 256 && ps.length ≤ 8 && ps.all fun p => p.port < 1024
  | .disarm _ hd => hd < 4096
  | .fire _ hd => hd < 4096
  | .cancel _ hd => hd < 4096
  | .freeSentence _ hd => hd < 4096
  | .paraDefine h _ p n a per r late =>
    p < 64 && 1 ≤ n && n ≤ 256 && addrOk h a 16 && 1000 ≤ per && per < 2 ^ 48 && 1 ≤ r && r < 65536
      && late < 2 ^ 32
  | .paraStart _ _ p t => p < 64 && timeOk t
  | .paraStop _ _ p => p < 64
  | .pin _ sc f n ms =>
    (if sc then f < 4096 && n == 0 else 1 ≤ n && n ≤ 1024 && f + n ≤ 262144) && 1 ≤ ms && ms ≤ 86400000
  | .unpin _ sc f n => if sc then f < 4096 && n == 0 else 1 ≤ n && n ≤ 1024 && f + n ≤ 262144
  | .retireElement _ e => e < 262144
  | .restoreElement _ e => e < 262144
  | .classLoad h c b a => c < 64 && b ≤ 1 && addrOk h a 64
  | .classSwap _ c => c < 64
  | .elementTrim _ _ e a b => e < 262144 && -4096 ≤ a && a ≤ 4095 && -4096 ≤ b && b ≤ 4095
  | .journalCopy h _ t ms n a => t < 256 && ms < 2 ^ 64 && 1 ≤ n && n ≤ 65536 && addrOk h a 64
  | .sweepLoad h _ l n a => l < 256 && 1 ≤ n && n ≤ 4096 && addrOk h a 16
  | .sweepRun h _ act l t dc ms a =>
    l < 256 && t < (if act then 262144 else 2048) && dc < 256 && 1 ≤ ms && ms < 65536 && addrOk h a 64
  | .sweepStop _ l => l < 256
  | .sweepFree _ l => l < 256
  | .calRun _ k sc t ms =>
    k ≤ 2 && sc ≤ 3 && (if sc = 0 then t < 262144 else if sc = 1 then t < 256 else if sc = 2 then t < 64 else t == 0)
      && 1 ≤ ms && ms < 65536
  | .saveCalibration h fh ns a =>
    (if fh then addrOk h a 64 && (match h.src with
      | .host _ => true
      | _ => false) else a == 0 && !ns)
  | .exportCalibration h _ a n => addrOk h a 64 && n < 2 ^ 32
  | _ => true

/-- Checks 2 to 4 of R310 in their order: the status of the first that fails. -/
def State.gate (s : State) (src : Source) (op : Nat) (i : Instr) : Option Nat :=
  if !s.permitted src op then some stBadOpcode
  else if !s.verbReady op then some stNotReady
  else if !fieldsOk i then some stBadField
  else none

/-! ## Verb entries -/

/-- `len` bytes of an entry from byte `off` on, little-endian. -/
def ebytes (e : Entry) (off len : Nat) : Nat := bits e.toNat (8 * off) (8 * len)

/-- Every bit outside the named fields (first bit and length of each) is 0 (R100). -/
def onlyFields (e : Entry) (fs : List (Nat × Nat)) : Bool :=
  fs.foldl (fun n f => n + bits e.toNat f.1 f.2 * 2 ^ f.1) 0 == e.toNat

/-- The common header: OPCODE, TAG, and `flags` bits of FLAGS. -/
def hdrBits (flags : Nat) : List (Nat × Nat) := [(0, 8), (8, flags), (16, 16)]

/-- Bytes as a field. -/
def byteField (off len : Nat) : Nat × Nat := (8 * off, 8 * len)

/-- The flags and result address of Table 3-7. -/
def entryOpts (e : Entry) : LaunchOpts :=
  { rearrangeOk := bit e.toNat 8, allOrNone := bit e.toNat 9, copyPaths := bit e.toNat 10, resultAddr := ebytes e 8 8 }

/-- A network time at byte `off` (R273). -/
def entryTime (e : Entry) (off : Nat) : NetTime :=
  { sec := ebytes e off 8, ns := bits e.toNat (8 * (off + 8)) 30, frac := ebytes e (off + 12) 2 }

/-- The bits of a network time at byte `off`. -/
def timeBits (off : Nat) : List (Nat × Nat) :=
  [byteField off 8, (8 * (off + 8), 30), byteField (off + 12) 2]

/-- The ports of an ARM entry: `n` of the eight. -/
def entryPorts (e : Entry) (n : Nat) : List PortRef :=
  (List.range n).map fun k =>
    { input := bit e.toNat (8 * 16 + 16 * k + 15), port := bits e.toNat (8 * 16 + 16 * k) 10 }

/-- A verb entry as its verb, by the formats of Tables 3-7, 4-2, 5-6, 7-7, 8-4, 12-4, 15-4, 16-4 and 17-8: none where a
reserved bit is set (R100). The opcode is one of Table 11-7. -/
def entryVerb (src : Source) (e : Entry) : Option Instr :=
  let h : Hdr := { src, tag := ebytes e 2 2 }
  let v := e.toNat
  let fl := fun k => bit v (8 + k)
  let fit := fun (flags : Nat) (fs : List (Nat × Nat)) (i : Instr) =>
    if onlyFields e (hdrBits flags ++ fs) then some i else none
  match ebytes e 0 1 with
  | 0x00 => fit 0 [] (.nop h)
  | 0x01 => fit 1 [byteField 4 1] (.resumeRegion h (fl 0) (ebytes e 4 1))
  | 0x02 => fit 0 [(32, 8), byteField 12 2] (.selfTest h (ebytes e 4 1) (ebytes e 12 2) [])
  | 0x03 => fit 1 [byteField 8 8, byteField 16 32]
      (.getDigest h (fl 0) (ebytes e 8 8) (BitVec.ofNat 256 (ebytes e 16 32)))
  | 0x04 => fit 0 [byteField 4 1, byteField 8 8, byteField 16 4]
      (.getCert h (ebytes e 4 1) (ebytes e 8 8) (ebytes e 16 4))
  | 0x05 => fit 1 [byteField 4 2] (.handover h (fl 0) (ebytes e 4 2))
  | 0x06 => fit 2 ([byteField 4 1, byteField 6 2, byteField 8 8, byteField 32 4] ++ timeBits 16)
      (.dalovoSend h (fl 0) (fl 1) (ebytes e 4 1) (ebytes e 6 2) (ebytes e 8 8) (entryTime e 16) (ebytes e 32 4))
  | 0x10 =>
      let n := ebytes e 6 1
      if 1 ≤ n && n ≤ 3 then
        fit 1 [byteField 4 2, byteField 6 1, byteField 16 48] (.stage h (fl 0) (ebytes e 4 2)
          ((List.range n).map fun k => BitVec.ofNat 128 (ebytes e (16 + 16 * k) 16)))
      else none
  | 0x11 => fit 2 [byteField 4 2, byteField 6 2, byteField 8 8]
      (.stageList h (fl 0) (fl 1) (ebytes e 4 2) (ebytes e 6 2) (ebytes e 8 8))
  | 0x12 => fit 3 [byteField 4 2, byteField 8 8] (.commit h (ebytes e 4 2) (entryOpts e))
  | 0x13 => fit 3 ([byteField 4 2, byteField 8 8, byteField 32 4] ++ timeBits 16)
      (.schedule h (ebytes e 4 2) (entryOpts e) (entryTime e 16) (ebytes e 32 4))
  | 0x14 =>
      let n := ebytes e 7 1
      if n ≤ 8 then
        fit 4 ([byteField 4 2, byteField 6 1, byteField 7 1, byteField 8 8] ++
          (List.range 8).flatMap fun k => [(128 + 16 * k, 10), (143 + 16 * k, 1)])
          (.arm h (ebytes e 4 2) (entryOpts e) (fl 3) (ebytes e 6 1) (entryPorts e n))
      else none
  | 0x15 => fit 0 [byteField 4 2] (.disarm h (ebytes e 4 2))
  | 0x16 => fit 0 [byteField 4 2] (.fire h (ebytes e 4 2))
  | 0x17 => fit 0 [byteField 4 2] (.cancel h (ebytes e 4 2))
  | 0x18 => fit 0 [byteField 4 2] (.freeSentence h (ebytes e 4 2))
  | 0x19 => fit 1 [byteField 4 1, byteField 6 2, byteField 8 8, byteField 16 6, byteField 22 2, byteField 24 4]
      (.paraDefine h (fl 0) (ebytes e 4 1) (ebytes e 6 2) (ebytes e 8 8) (ebytes e 16 6) (ebytes e 22 2) (ebytes e 24 4))
  | 0x1A => fit 1 (byteField 4 1 :: timeBits 16) (.paraStart h (fl 0) (ebytes e 4 1) (entryTime e 16))
  | 0x1B => fit 1 [byteField 4 1] (.paraStop h (fl 0) (ebytes e 4 1))
  | 0x20 => fit 1 [if fl 0 then (32, 12) else (32, 18), byteField 8 2, byteField 12 4]
      (.pin h (fl 0) (ebytes e 4 4) (ebytes e 8 2) (ebytes e 12 4))
  | 0x21 => fit 1 [if fl 0 then (32, 12) else (32, 18), byteField 8 2] (.unpin h (fl 0) (ebytes e 4 4) (ebytes e 8 2))
  | 0x22 => fit 0 [(32, 18)] (.retireElement h (ebytes e 4 4))
  | 0x23 => fit 0 [(32, 18)] (.restoreElement h (ebytes e 4 4))
  | 0x28 => fit 0 [byteField 4 1, byteField 5 1, byteField 8 8] (.classLoad h (ebytes e 4 1) (ebytes e 5 1) (ebytes e 8 8))
  | 0x29 => fit 0 [byteField 4 1] (.classSwap h (ebytes e 4 1))
  | 0x2A => fit 1 [(32, 18), byteField 8 2, byteField 10 2]
      (.elementTrim h (fl 0) (ebytes e 4 4) (signed (ebytes e 8 2) 16) (signed (ebytes e 10 2) 16))
  | 0x2B => fit 1 [byteField 4 1, byteField 8 8, byteField 16 4, byteField 24 8]
      (.journalCopy h (fl 0) (ebytes e 4 1) (ebytes e 8 8) (ebytes e 16 4) (ebytes e 24 8))
  | 0x30 => fit 1 [byteField 4 1, byteField 6 2, byteField 8 8]
      (.sweepLoad h (fl 0) (ebytes e 4 1) (ebytes e 6 2) (ebytes e 8 8))
  | 0x31 => fit 2 [byteField 4 1, if fl 1 then (64, 18) else (64, 11), byteField 12 1, byteField 14 2, byteField 16 8]
      (.sweepRun h (fl 0) (fl 1) (ebytes e 4 1) (ebytes e 8 4) (ebytes e 12 1) (ebytes e 14 2) (ebytes e 16 8))
  | 0x32 => fit 0 [byteField 4 1] (.sweepStop h (ebytes e 4 1))
  | 0x33 => fit 0 [byteField 4 1] (.sweepFree h (ebytes e 4 1))
  | 0x38 => fit 2 [byteField 4 1, (64, if ebytes e 4 1 = 0 then 18 else if ebytes e 4 1 = 1 then 8
        else if ebytes e 4 1 = 2 then 6 else 0), byteField 12 2]
      (.calRun h (bits v 8 2) (ebytes e 4 1) (ebytes e 8 4) (ebytes e 12 2))
  | 0x39 => fit 2 [byteField 8 8] (.saveCalibration h (fl 0) (fl 1) (ebytes e 8 8))
  | 0x3A => fit 1 [byteField 8 8, byteField 16 4] (.exportCalibration h (fl 0) (ebytes e 8 8) (ebytes e 16 4))
  | _ => none

/-! ## Carrying out a verb -/

/-- The RESULT of a launching verb that ends without a token: the fields of Table 3-3 with no clause counted. -/
def noResult (op : Nat) : Nat := if op = 0x12 || op = 0x16 then cancelledFields else 0

/-- The verb of header `h` ends with a status other than SUCCESS and without effect. -/
def State.fail (s : State) (h : Hdr) (op status : Nat) : State := s.complete h op status (noResult op)

/-- A handover past its step 2 holds the verbs that arrive (R416). -/
def State.verbsWait (s : State) : Bool :=
  s.mate.role == .active && match s.mate.handover with
    | .waiting .. => true
    | .released .. => true
    | .handingBack _ => true
    | _ => false

/-- A P2 or P3 verb stays in its dispatcher while throttling lasts (R475). -/
def State.verbStays (s : State) (op : Nat) : Bool :=
  s.loops.throttled && (match verbClass op with
    | some c => decide (2 ≤ c)
    | none => false)

/-- The colour and the arrival that a verb's issue entry holds; a verb that no arrival has entered is green and
arrives now. -/
def State.issueOf (s : State) (h : Hdr) (op : Nat) : Nat × Nat :=
  match s.host.issues.find? fun i => i.src = h.src && i.tag = h.tag && i.opcode = op && i.done.isNone with
  | some i => (i.colour, i.at_)
  | none => (0, s.dt)

/-- A trigger is that of the verb `src`, `tag`. -/
def Trigger.isVerb (t : Trigger) (src : Source) (tag : Nat) : Bool :=
  match t with
  | .commit h => h == ⟨src, tag⟩
  | .fire h => h == ⟨src, tag⟩
  | .arming h => h == ⟨src, tag⟩
  | _ => false

/-- The work of the verb `src`, `tag` has begun, or its token is issued, and it has not ended. -/
def State.worksOn (s : State) (src : Source) (tag : Nat) : Bool :=
  let h : Hdr := ⟨src, tag⟩
  (s.hostOps.any fun o => o.hdr == h) || (s.store.launches.any fun l => l.trigger.isVerb src tag) ||
    (s.calib.batches.any fun b => b.src == src && b.tag == tag) || s.calib.saveBusy == some h || s.calib.exportBusy == some h ||
    (s.loops.waits.any fun w => w.2.1 == h) || (s.loops.classes.any fun c => c.2.swapper == some h) ||
    (s.smu.runs.any fun r => r.2.any fun x => x.stopper == some h) || (s.chip.digestWaits.any fun w => w.1 == h) ||
    (s.faults.resumes.any fun r => r.hdr == h) ||
    match s.mate.handover with
    | .waiting k _ _ => k == h
    | .released k _ _ => k == h
    | _ => false

/-- The dispatcher of its class has taken the verb: it works, is being prepared, or waits as a P0 request. -/
def State.taken (s : State) (i : Issue) : Bool :=
  s.worksOn i.src i.tag || (s.store.preps.any fun p => p.trigger.isVerb i.src i.tag) ||
    s.store.p0Queue.any fun r => r.trigger.isVerb i.src i.tag

/-- A yellow verb of the classes P1 to P3 gives way to a green verb of its class that waits at the head of another source
(R327). -/
def State.yields (s : State) (h : Hdr) (op : Nat) : Bool :=
  (s.issueOf h op).1 == 1 && verbClass op != some 0 && s.host.issues.any fun j =>
    j.colour == 0 && j.done.isNone && j.src != h.src && verbClass j.opcode == verbClass op && !s.taken j &&
      !earlierOpen j.src j.tag j.opcode s.host.issues

/-- The verb of header `h` has its turn: in its source's issue order (R101), and at the dispatcher of its class (R327). -/
def State.turn (s : State) (h : Hdr) (opcode : Nat) : Bool :=
  !earlierOpen h.src h.tag opcode s.host.issues && !s.yields h opcode

/-- A verb is carried out in its turn: the checks 2 to 4 of R310, then `f`, its own checks and its effect. Out of its
turn, and while its class is throttled, it waits, and nothing happens. -/
def verb (s : State) (h : Hdr) (op : Nat) (i : Instr) (f : State → State) : Host.Outcome State Fault Refusal :=
  if !s.turn h op || s.verbsWait || s.verbStays op then .next s
  else match s.gate h.src op i with
    | some st => ok s (s.fail h op st)
    | none => ok s (f s)

end Sys2Proof.Machine
end

