-- ==== Sys2Proof/Machine/Meters.lean ====
section
/-! DEFINITION. The meters of admission (chapter "Admission, policing and queue telemetry", R321 to R331). -/

namespace Sys2Proof.Machine

/-- Bucket units in one token. -/
def tokenUnit : Nat := 1250000000

/-- The default profile of a source and class (Table 12-2). -/
def defaultProfile (src cls : Nat) : Profile :=
  if src < 8 then
    match cls with
    | 0 => if src = 0 then ⟨1000, 2, 100000, 8⟩ else ⟨0, 0, 100000, 8⟩
    | 1 => ⟨1000000, 64, 2000000, 255⟩
    | _ => ⟨100000, 16, 1000000, 64⟩
  else if src < 24 then
    match cls with
    | 0 => ⟨0, 0, 100000, 8⟩
    | 1 => ⟨10000, 16, 100000, 64⟩
    | _ => ⟨1000, 4, 10000, 16⟩
  else if src = 24 then
    match cls with
    | 0 => ⟨0, 0, 1000, 4⟩
    | _ => ⟨1000, 4, 2000, 16⟩
  else if cls = 0 then ⟨100000, 4, 1000000, 16⟩
  else ⟨0, 0, 0, 0⟩

/-- A meter with full buckets (R323). -/
def fullMeter (p : Profile) (t : Nat) : Meter :=
  { profile := p, tc := p.cbs * tokenUnit, tp := p.pbs * tokenUnit, last := t }

/-- The meter of a source and class. -/
def State.meter (s : State) (src cls : Nat) : Meter :=
  tabGet s.adm.meters (fullMeter (defaultProfile src cls) 0) (4 * src + cls)

def State.setMeter (s : State) (src cls : Nat) (m : Meter) : State :=
  { s with adm := { s.adm with meters := tabSet s.adm.meters (4 * src + cls) m } }

/-- The buckets refilled up to device time `t`: exactly, and never above the bursts (R322, R323). -/
def Meter.refill (m : Meter) (t : Nat) : Meter :=
  { m with
    tc := min (m.tc + m.profile.cir * (t - m.last)) (m.profile.cbs * tokenUnit)
    tp := min (m.tp + m.profile.pir * (t - m.last)) (m.profile.pbs * tokenUnit)
    last := t }

/-- One request: the colour (0 green, 1 yellow, 2 red) and the meter after it (R322, R328). -/
def Meter.request (m0 : Meter) (t : Nat) : Nat × Meter :=
  let m := m0.refill t
  if m.tp < tokenUnit then (2, { m with red := satInc m.red 0xFFFF })
  else if m.tc < tokenUnit then (1, { m with tp := m.tp - tokenUnit, yellow := satInc m.yellow 0xFFFF })
  else (0, { m with tc := m.tc - tokenUnit, tp := m.tp - tokenUnit, green := satInc m.green 0xFFFF })

/-- A request of a source and class is coloured. -/
def State.colour (s : State) (src : Source) (cls : Nat) : Nat × State :=
  let (c, m) := (s.meter src.index cls).request s.dt
  (c, s.setMeter src.index cls m)

end Sys2Proof.Machine
end

