-- ==== Sys2Proof/Machine/Placement.lean ====
section
/-! DEFINITION. The placement engine: pins, tiers, room (chapter "Routing and placement", R122 to R131). -/

namespace Sys2Proof.Machine

/-- Elements that preparations and launches in progress concern (Table 4-4, PREP), row neighbours included. -/
def State.prepElems (s : State) : List Nat :=
  let es := (s.store.preps.flatMap fun p => match p.done with
      | some l => s.movedEids l
      | none => []) ++ s.store.launches.flatMap fun l => l.acts.map (·.eid)
  es ++ es.flatMap s.img.neighbours

/-- Elements of the ARMED pins (Table 4-4). -/
def State.armedElems (s : State) : List Nat :=
  let es := (s.store.sentences.filter fun p => p.2.state = .armed).flatMap fun p => p.2.armedMoved
  es ++ es.flatMap s.img.neighbours

/-- The element is at the fast rate by its own state (Table 5-1). -/
def Elem.bright (e : Elem) : Bool := e.st = .lit || e.st = .switching || (e.st = .suspect && e.on && e.lit)

/-- Pin reason FAST (Table 4-4). -/
def State.pinFast (s : State) (e : Nat) : Bool :=
  let x := s.elem e
  x.st = .lit || x.st = .switching || (s.img.neighbours e).any fun n => (s.elem n).st = .lit

/-- The pin reasons of an element, bit i as PLACE_PIN_i (Table 4-4). -/
def State.pins (s : State) (e : Nat) : Nat :=
  b2n (s.pinFast e) + 2 * b2n (s.armedElems.contains e) + 4 * b2n (s.prepElems.contains e)
    + 8 * b2n ((s.elem e).overrunPin.isSome) + 16 * b2n ((s.elem e).hostPin.isSome)

/-- Elements of region `n` whose context is in tier 0. -/
def State.tier0 (s : State) (n : Nat) : List (Nat × Elem) :=
  s.loops.elems.filter fun p => tileRegion (eidTile p.1) = n && p.2.tier = 0

/-- Tier-0 contexts of a region left for pins other than FAST (R128). -/
def State.room0 (s : State) : Nat := 8192 - 256 * s.img.fastReserve

/-- Non-FAST pinned contexts of region `n` if the elements `es` were pinned too. -/
def State.pinnedWith (s : State) (n : Nat) (es : List Nat) : Nat :=
  let pinned := (s.loops.elems.filter fun p => tileRegion (eidTile p.1) = n && !es.contains p.1 &&
    decide (1 < s.pins p.1)).length
  pinned + (es.filter fun e => tileRegion (eidTile e) = n).length

/-- Contexts in tier 1. -/
def State.tier1Count (s : State) : Nat := (s.loops.elems.filter fun p => p.2.tier = 1).length

/-- Hold rate of a class in updates per second (R137). -/
def ClassState.holdRate (c : ClassState) : Nat := 1000000 / max 1 c.holdDiv

/-- The tier-2 fetch capacity holds once the contexts that `es` displaces from tier 0 are placed (R128). -/
def State.tier2Fits (s : State) (es : List Nat) : Bool :=
  let new := es.filter fun e => (s.elem e).tier ≠ 0
  let out := ((List.range 16).map fun n =>
    (new.filter fun e => tileRegion (eidTile e) = n).length - (8192 - (s.tier0 n).length)).foldl (· + ·) 0
  let room := s.img.placeBanks * 8192 + (new.filter fun e => (s.elem e).tier = 1).length - s.tier1Count
  let most := (s.loops.classes.map fun p => p.2.holdRate).foldl max 0
  let stay := (s.loops.elems.filter fun p => p.2.tier = 2 && !new.contains p.1).map fun p => (s.cls (s.elemClass p.1)).holdRate
  decide (stay.foldl (· + ·) 0 + (out - room) * most ≤ 100000000)

/-- The pins fit (R128). -/
def State.pinsFit (s : State) (es : List Nat) : Bool :=
  s.tier2Fits es && (List.range 16).all fun n => (es.all fun e => tileRegion (eidTile e) ≠ n) || s.pinnedWith n es ≤ s.room0

/-- Elements without repeats. -/
def dedup (l : List Nat) : List Nat := l.foldl (fun l e => if l.contains e then l else l ++ [e]) []

/-- The unpinned tier-0 context of a region with the oldest switch: the first to make room (R125). -/
def State.victim (s : State) (n : Nat) : Option Nat :=
  ((s.tier0 n).filter fun p => s.pins p.1 = 0).foldl (fun (best : Option Nat) p =>
    match best with
    | none => some p.1
    | some b => if p.2.lastSwitch < (s.elem b).lastSwitch then some p.1 else best) none

/-- A context leaves tier 0 for tier 1 while that has room, else for tier 2 (R125). -/
def demote (s : State) (e : Nat) : State :=
  let t := if s.tier1Count < s.img.placeBanks * 8192 then 1 else 2
  s.modElem e fun x => { x with tier := t, bank := if t = 1 then s.tier1Count / 8192 else 0 }

/-- A context is brought into its region's tier 0 (R74, R124); while the region's context cache block is fenced it
stays where it is (R129). -/
def promote (s : State) (e : Nat) : State :=
  let n := tileRegion (eidTile e)
  if (s.elem e).tier = 0 || (s.region n).cacheBlk then s else
    let s1 := if (s.tier0 n).length < 8192 then s else
      match s.victim n with
      | some v => demote s v
      | none => s
    s1.modElem e fun x => { x with tier := 0, bank := 0 }

/-- Contexts of elements and of their row neighbours brought on-chip (R74). -/
def promoteAll (s : State) (es : List Nat) : State := (es ++ es.flatMap s.img.neighbours).foldl promote s

end Sys2Proof.Machine
end

