-- ==== Sys2Proof/Machine/Sentences.lean ====
section
/-! DEFINITION. The connection verbs (Table 3-7, R70 to R99) and NOP. -/

namespace Sys2Proof.Machine

/-! ## Shared operations -/

/-- A STORED sentence with no arming in progress. -/
def Sentence.idle (t : Sentence) : Bool := t.state == .stored && t.slot.isNone

/-- The sentence accepts STAGE and STAGE_LIST (Table 3-2). -/
def State.stageable (s : State) (hd : Nat) (openF : Bool) : Bool :=
  !s.locked hd && ((s.sent hd).idle || ((s.sent hd).state == .free && openF))

/-- The clauses of a sentence after a staging verb (R72). -/
def Sentence.staged (t : Sentence) (openF : Bool) (cl : List Rec128) : List Rec128 :=
  if openF then cl else t.clauses ++ cl

/-- Clauses that the store would hold after a staging verb (R70). -/
def State.storeAfter (s : State) (hd : Nat) (cl : List Rec128) : Nat :=
  s.clauseCount - (s.sent hd).clauses.length + cl.length

/-- STAGE and STAGE_LIST once their clauses are known: the checks of R62, R71 and R72 in this order, then the
replacement. -/
def stageClauses (s : State) (h : Hdr) (op : Nat) (openF : Bool) (hd : Nat) (cl : List Rec128) : State :=
  let t := s.sent hd
  let new := t.staged openF cl
  if !cl.all s.img.clauseOk then s.fail h op stBadField
  else if !s.stageable hd openF then s.fail h op stBadState
  else if 1024 < new.length || 1048576 < s.storeAfter hd new then s.fail h op stStoreFull
  else (s.setSent hd { t with state := .stored, clauses := new }).complete h op stSuccess 0

/-- The verb waits for host memory (row VERB_HOST_DATA_DONE): its read is issued (R73, R313). -/
def hostRead (s : State) (h : Hdr) (i : Instr) (addr len : Nat) (ns : Bool) : State :=
  { (s.emit (.hostRead addr len ns)) with hostOps := s.hostOps ++ [{ hdr := h, verb := i }] }

/-- A launch that ends without a token: every clause keeps the reason it has (R74, R79, R431). -/
def refuseLaunch (s : State) (handle : Nat) (trigger : Trigger) (opts : LaunchOpts) (clauses : List Rec128)
    (reasons : List Nat) (boundLost : Bool) : State :=
  let last := (s.sent handle).lastSerial
  let l : Launch := { serial := 0, tick := s.dt, handle, trigger, opts, clauses, reasons, own := reasons.length, boundLost }
  let (s1, w) := writeBlock s l
  (reportLaunch s1 l w).modSent handle fun t => { t with lastSerial := last }

/-- Every clause of a sentence refused with one reason. -/
def refuseAll (s : State) (handle : Nat) (trigger : Trigger) (opts : LaunchOpts) (reason : Nat) (boundLost : Bool) : State :=
  let cl := (s.sent handle).clauses
  refuseLaunch s handle trigger opts cl (cl.map fun _ => reason) boundLost

/-- Preparations that meet `p` lapse. -/
def dropPreps (s : State) (p : Prep → Bool) : State :=
  { s with store := { s.store with preps := s.store.preps.filter fun q => !p q } }

/-- The preparation is of the pending SCHEDULE launch of a sentence. -/
def Prep.isSched (q : Prep) (hd : Nat) : Bool :=
  q.handle == hd && (match q.trigger with
    | .schedule .. => true
    | _ => false)

/-- The preparation is of a step of paragraph `p`. -/
def Prep.isPara (q : Prep) (p : Nat) : Bool :=
  match q.trigger with
  | .paraStep n .. => n == p
  | _ => false

/-- The launch report of a pending SCHEDULE launch that ends before its token (R83, R85); the sentence returns to
STORED. -/
def endSched (s : State) (x : Sched) (status : Nat) : State :=
  let s1 := dropPreps { s with store := { s.store with scheds := s.store.scheds.filter (· ≠ x) } } (Prep.isSched · x.handle)
  (s1.modSent x.handle fun t => { t with state := .stored, lastStatus := status }).event x.src
    (launchReport x.tag x.handle status x.t (reportBody cancelledFields 0 0 0 0 0xFF 0xFFFF) false)

/-- Network time of step `k` of iteration `n` of a paragraph (R95). -/
def Para.time (p : Para) (k n : Nat) : Int :=
  p.start + ((n * p.period : Nat) : Int) * ntNs + (((p.steps.getD k (0, 0)).2 : Nat) : Int) * ntNs

/-- The sentence of the next step. -/
def Para.handle (p : Para) : Nat := (p.steps.getD p.step (0, 0)).1

/-- The launch report of a paragraph step that ends before its token (R97, R98). -/
def stepReport (s : State) (n : Nat) (status : Nat) : State :=
  let p := s.para n
  (s.modSent p.handle fun t => { t with lastStatus := status }).event p.src
    (launchReport p.tag p.handle status (p.time p.step p.iter)
      (reportBody cancelledFields 0 1 p.step p.iter n 0xFFFF) false)

/-! ## Bindings and conflicts of ARM (R86) -/

/-- A port is bound to an armed sentence other than `hd`. -/
def State.boundElsewhere (s : State) (hd : Nat) (r : PortRef) : Bool :=
  s.armedSents.any fun p => p.1 != hd && p.2.ports.contains r

/-- The elements of a clause that are known before its preparation: those of the standing connection of its ports,
those that it names, or the one path of a crossbar. -/
def State.knownEids (s : State) (r : Rec128) : List Nat :=
  let c := clauseOf r
  if c.brk then [] else
    match s.conn c.inPort with
    | some k => if (clauseOf k.clause).outPort = c.outPort then (clauseOf k.clause).eids s.img.stages
                else if c.path ≠ 0 then c.eids s.img.stages else []
    | none =>
      if c.path ≠ 0 then c.eids s.img.stages
      else if s.chip.fabClass = fcCrossbar then ((candidates s.img c.inPort c.outPort).head?.map (·.es)).getD []
      else []

/-- A MAKE of the sentence shares a line with a MAKE of another armed or stale sentence (R86). -/
def State.armConflict (s : State) (hd : Nat) : Bool :=
  let held := s.armedLines (some hd)
  (s.img.linesOf ((s.sent hd).clauses.flatMap s.knownEids)).any held.contains

/-- Clauses that sentences in the ARMED or STALE state hold (R70). -/
def State.armedClauses (s : State) : Nat := s.armedSents.foldl (fun n p => n + p.2.clauses.length) 0

/-! ## The verbs -/

/-- NOP (R308): does nothing. -/
def execNop (h : Hdr) (s : State) : Host.Outcome State Fault Refusal :=
  verb s h 0x00 (.nop h) fun s => s.complete h 0x00 stSuccess 0

/-- STAGE (R72). -/
def execStage (h : Hdr) (openFlag : Bool) (handle : Nat) (clauses : List Rec128) (s : State) :
    Host.Outcome State Fault Refusal :=
  verb s h 0x10 (.stage h openFlag handle clauses) fun s => stageClauses s h 0x10 openFlag handle clauses

/-- STAGE_LIST (R73): the clauses are read from host memory. -/
def execStageList (h : Hdr) (openFlag ns : Bool) (handle count addr : Nat) (s : State) :
    Host.Outcome State Fault Refusal :=
  let i := Instr.stageList h openFlag ns handle count addr
  verb s h 0x11 i fun s => hostRead s h i addr (16 * count) ns

/-- COMMIT (R74, R77): the sentence is to be prepared at once; in the safe state it is refused (R431). -/
def execCommit (h : Hdr) (handle : Nat) (opts : LaunchOpts) (s : State) : Host.Outcome State Fault Refusal :=
  verb s h 0x12 (.commit h handle opts) fun s =>
    if !(s.sent handle).idle then s.fail h 0x12 stBadState
    else if s.faults.safeState then refuseAll s handle (.commit h) opts rsSafeState false
    else (s.modSent handle fun t => { t with state := .launching }).addPrep handle (.commit h) opts

/-- SCHEDULE (R81). -/
def execSchedule (h : Hdr) (handle : Nat) (opts : LaunchOpts) (t : NetTime) (late : Nat) (s : State) :
    Host.Outcome State Fault Refusal :=
  verb s h 0x13 (.schedule h handle opts t late) fun s =>
    if !(s.sent handle).idle || s.locked handle then s.fail h 0x13 stBadState
    else if !s.time.locked then s.fail h 0x13 stTimeNotLocked
    else if 448 ≤ s.schedCount then s.fail h 0x13 stScheduleFull
    else
      let s1 := s.modSent handle fun t => { t with state := .scheduled }
      let x : Sched := { handle, opts, t := t.units, late, src := h.src, tag := h.tag, since := s1.dt }
      State.complete { s1 with store := { s1.store with scheds := s1.store.scheds ++ [x] } } h 0x13 stSuccess 0

/-- ARM (R86, R184): bindings, arm slot, and the preparation whose end completes the verb. -/
def execArm (h : Hdr) (handle : Nat) (opts : LaunchOpts) (rearm : Bool) (pgroup : Nat) (ports : List PortRef) (s : State) :
    Host.Outcome State Fault Refusal :=
  verb s h 0x14 (.arm h handle opts rearm pgroup ports) fun s =>
    let t := s.sent handle
    if !t.idle || s.locked handle then s.fail h 0x14 stBadState
    else if ports.any fun r => ((s.img.portRef r).bind (·.monitor)).isNone then s.fail h 0x14 stBadField
    else if ports.any (s.boundElsewhere handle) then s.fail h 0x14 stPortBound
    else if s.armConflict handle then s.fail h 0x14 stArmConflict
    else match s.freeArmSlot with
      | none => s.fail h 0x14 stStoreFull
      | some k =>
        if 65536 < s.armedClauses + t.clauses.length then s.fail h 0x14 stStoreFull
        else (s.setSent handle { t with
            rearm, pgroup, ports, opts, armSrc := h.src, armTag := h.tag, slot := some k,
            armedList := [], armedMoves := [], armedMoved := [], slotAcked := [] }).addPrep handle (.arming h) opts

/-- DISARM (R93). -/
def execDisarm (h : Hdr) (handle : Nat) (s : State) : Host.Outcome State Fault Refusal :=
  verb s h 0x15 (.disarm h handle) fun s =>
    let t := s.sent handle
    if t.state = .armed || t.state = .stale then
      ((dropPreps s fun q => q.arms && q.handle == handle).setSent handle t.disarmed).complete h 0x15 stSuccess 0
    else s.fail h 0x15 stBadState

/-- An ARMED or STALE sentence fires (R89): as P0 through the dispatcher, or as a P1 commit with P0_BOUND_LOST. The
safe state refuses it (R431). -/
def fireSentence (s : State) (handle : Nat) (trigger : Trigger) (yellow : Bool) (arrival : Nat) : State :=
  let t := s.sent handle
  if s.faults.safeState then refuseAll s handle trigger t.opts rsSafeState false
  else if t.state = .armed then
    let s1 := s.setSent handle { t with state := .launching }
    { s1 with store := { s1.store with p0Queue := s1.store.p0Queue ++ [{ handle, trigger, yellow, arrival }] } }
  else
    let s1 := (dropPreps s fun q => q.arms && q.handle == handle).setSent handle { t with state := .launching }
    let st := s1.store
    { s1 with store := { st with
        preps := st.preps ++ [{ id := st.nextPrep, handle, trigger, opts := t.opts, arrival := some arrival }]
        nextPrep := st.nextPrep + 1
        staleFires := satInc st.staleFires 0xFF
        p0Fires := satInc st.p0Fires 0xFFFF
        p0BoundLost := satInc st.p0BoundLost 0xFFFF
        p0Cause := st.p0Cause.set 3 true } }

/-- A trigger that finds its armed sentence LAUNCHING (R88). -/
def ignoreTrigger (s : State) (handle : Nat) : State :=
  let t := s.sent handle
  if t.state = .launching && t.slot.isSome then
    { s with store := { s.store with ignoredTriggers := satInc s.store.ignoredTriggers 0xFF } }
  else s

/-- FIRE (R88, R89). -/
def execFire (h : Hdr) (handle : Nat) (s : State) : Host.Outcome State Fault Refusal :=
  verb s h 0x16 (.fire h handle) fun s =>
    let t := s.sent handle
    if t.state = .armed || t.state = .stale then
      let (c, a) := s.issueOf h 0x16
      fireSentence s handle (.fire h) (c = 1) a
    else (ignoreTrigger s handle).fail h 0x16 stBadState

/-- CANCEL (R85). -/
def execCancel (h : Hdr) (handle : Nat) (s : State) : Host.Outcome State Fault Refusal :=
  verb s h 0x17 (.cancel h handle) fun s =>
    match s.store.scheds.find? fun x => x.handle = handle with
    | some x =>
      if (s.sent handle).state = .scheduled then (endSched s x stCancelled).complete h 0x17 stSuccess 0
      else s.fail h 0x17 stBadState
    | none => s.fail h 0x17 stBadState

/-- FREE_SENTENCE (R71). -/
def execFreeSentence (h : Hdr) (handle : Nat) (s : State) : Host.Outcome State Fault Refusal :=
  verb s h 0x18 (.freeSentence h handle) fun s =>
    if !(s.sent handle).idle || s.locked handle then s.fail h 0x18 stBadState
    else (s.modSent handle fun t => { t with state := .free, clauses := [] }).complete h 0x18 stSuccess 0

/-- PARA_DEFINE (R94): the step list is read from host memory. -/
def execParaDefine (h : Hdr) (halt : Bool) (para stepCount addr period repeats late : Nat) (s : State) :
    Host.Outcome State Fault Refusal :=
  let i := Instr.paraDefine h halt para stepCount addr period repeats late
  verb s h 0x19 i fun s =>
    if (s.para para).state = .idle || (s.para para).state = .defined then hostRead s h i addr (16 * stepCount) false
    else s.fail h 0x19 stBadState

/-- Offsets rise strictly and stay below PERIOD (R94). -/
def offsetsOk (period : Nat) : List StepRec → Bool
  | [] => true
  | [a] => a.offset < period
  | a :: b :: r => a.offset < b.offset && a.offset < period && offsetsOk period (b :: r)

/-- PARA_DEFINE once its steps are known (R94, Table 3-6). -/
def defineSteps (s : State) (h : Hdr) (halt : Bool) (para period repeats late : Nat) (steps : List StepRec) : State :=
  if steps.any (fun x => x.reservedBad || 4096 ≤ x.handle) || !offsetsOk period steps then s.fail h 0x19 stBadField
  else if !((s.para para).state = .idle || (s.para para).state = .defined)
      || steps.any (fun x => !(s.sent x.handle).idle) then s.fail h 0x19 stBadState
  else (s.setPara para { state := .defined, steps := steps.map fun x => (x.handle, x.offset),
                         period, repeats, late, halt }).complete h 0x19 stSuccess 0

/-- PARA_START (R95). -/
def execParaStart (h : Hdr) (reportAll : Bool) (para : Nat) (start : NetTime) (s : State) :
    Host.Outcome State Fault Refusal :=
  verb s h 0x1A (.paraStart h reportAll para start) fun s =>
    let p := s.para para
    if p.state = .defined || p.state = .halted then
      (s.setPara para { p with state := .running, start := start.units, step := 0, iter := 0, reportAll,
                               stopAtEnd := false, src := h.src, tag := h.tag }).complete h 0x1A stSuccess 0
    else s.fail h 0x1A stBadState

/-- The pending step is cancelled and the paragraph becomes DEFINED (R98). -/
def stopPara (s : State) (n : Nat) : State :=
  let s1 := stepReport (dropPreps s (Prep.isPara · n)) n stCancelled
  s1.setPara n { s1.para n with state := .defined, stopAtEnd := false }

/-- PARA_STOP (R98). -/
def execParaStop (h : Hdr) (now : Bool) (para : Nat) (s : State) : Host.Outcome State Fault Refusal :=
  verb s h 0x1B (.paraStop h now para) fun s =>
    let p := s.para para
    if p.state ≠ .running then s.fail h 0x1B stBadState
    else if now || p.step = 0 then (stopPara s para).complete h 0x1B stSuccess 0
    else (s.setPara para { p with stopAtEnd := true }).complete h 0x1B stSuccess 0

end Sys2Proof.Machine
end

