-- ==== Sys2Proof/Machine/Launches.lean ====
section
/-! DEFINITION. The rows of launches: preparation, token issue, the P0 dispatcher, latch reports, scheduled launches and
paragraph steps, loss-of-light fires, reroutes (R67 to R98, R117 to R119, R177 to R190). -/

namespace Sys2Proof.Machine

/-! ## Preparation (R68, R74) -/

/-- A tile or region that the arming concerns is fenced, or its context cache block (R87). -/
def State.armFenced (s : State) (t : Sentence) : Bool :=
  t.armedMoved.any fun e => s.fencedAt e || (s.region (tileRegion (eidTile e))).cacheBlk

/-- The preparation can be served now: that of an armed sentence waits for the end of a fence (R87) and, because its
slots are written at its end, of the safe state (R430). -/
def State.servable (s : State) (p : Prep) : Bool :=
  p.done.isNone && (!p.arms || (!s.faults.safeState && !s.armFenced (s.sent p.handle)))

/-- Replace a preparation by its new value. -/
def setPrep (s : State) (p : Prep) : State :=
  { s with store := { s.store with preps := s.store.preps.map fun q => if q.id = p.id then p else q } }

/-- What the route engine counts (ROUTE_COUNT, ROUTE_REFUSE, PTR). -/
def routeCounts (s : State) (w : Work) : State :=
  { s with store := { s.store with
      ptr := w.ptr
      routed := (s.store.routed + w.routed) % 2 ^ 32
      noRoute := satAdd s.store.noRoute w.noRoute 0xFFFF
      needsRearrange := satAdd s.store.needsRearrange w.needs 0xFFFF } }

/-- A clause that its preparation placed. -/
def placedClause (x : Rec128 × Nat) : Bool := x.2 == rsApplied

/-- Reasons of a sentence withheld under ALL_OR_NONE (R74). -/
def withheldReasons (l : List (Rec128 × Nat)) : List Nat :=
  l.map fun x => if placedClause x then rsWithheld else x.2

/-- The prepared clauses of a sentence, and the working state of the route engine. -/
def State.routeSentence (s : State) (handle : Nat) (rearr : Bool) : List (Rec128 × Nat) × Work :=
  let cl := (s.sent handle).clauses
  let w0 : Work := { table := s.store.table, ptr := s.store.ptr, ports := clausePorts cl }
  s.prepareAll (s.armedLines (some handle)) (rearr && (s.chip.fabClass == fcRearr || s.chip.fabClass == fcGeneral))
    (breakAll s.img.stages w0 cl) cl

/-- A paragraph step that ended without a token: the paragraph goes on (R96). -/
def afterStep (s : State) (n : Nat) : State :=
  let p := s.para n
  s.setPara n { p.advance with inFlight := false }

/-- A launch that ends without a token leaves the time unit or its paragraph too. -/
def endTrigger (s : State) (handle : Nat) (trigger : Trigger) : State :=
  match trigger with
  | .schedule .. => { s with store := { s.store with scheds := s.store.scheds.filter fun x => x.handle ≠ handle } }
  | .paraStep n .. => afterStep s n
  | _ => s

/-- A preparation whose launch is refused: no token, its result at once (R74, R79). -/
def refusePrep (s : State) (p : Prep) (clauses : List Rec128) (reasons : List Nat) : State :=
  endTrigger (refuseLaunch (dropPreps s (·.id == p.id)) p.handle p.trigger p.opts clauses reasons p.arrival.isSome)
    p.handle p.trigger

/-- The arming of a sentence ends: every tile of its footprint has acknowledged its slot (R184). -/
def finishArming (s : State) (handle : Nat) : State :=
  match s.store.preps.find? fun p => p.arms && p.handle = handle && p.done.isSome with
  | none => s
  | some p =>
    let t := s.sent handle
    if (tilesOf t.armedMoved).all t.slotAcked.contains then
      let s1 := dropPreps (s.setSent handle { t with state := .armed }) (·.id == p.id)
      match p.trigger with
      | .arming h => s1.complete h 0x14 stSuccess 0
      | _ => s1
    else s

/-- The arm slot of a sentence is written into every tile of its footprint that can be reached (R184, R265). -/
def writeArmSlots (s : State) (handle : Nat) (acts : List Act) : State :=
  match (s.sent handle).slot with
  | none => s
  | some k => (tilesOf (movingEids acts)).foldl (fun s t =>
      if s.tileReach t then fillSlot s t k (s.slotEntries acts t) else s) s

/-- The preparation of an armed sentence is done: its list, its drive list in the arm slots. -/
def armPrepared (s : State) (p : Prep) (l : List (Rec128 × Nat)) (moves : List (Nat × Rec128)) : State :=
  let acts := (s.tableChange p.handle 0 (l.map (·.1)) (l.map (·.2)) moves).acts
  let moved := movingEids acts
  if s.pinsFit (dedup (s.armedElems ++ moved ++ moved.flatMap s.img.neighbours)) then
    let s1 := setPrep (promoteAll s moved) { p with done := some l, moves }
    let s2 := s1.modSent p.handle fun t =>
      { t with armedList := l, armedMoves := moves, armedMoved := moved, slotAcked := [] }
    finishArming (writeArmSlots s2 p.handle acts) p.handle
  else match p.trigger with
    | .arming h => (dropPreps (s.modSent p.handle Sentence.disarmed) (·.id == p.id)).fail h 0x14 stStoreFull
    | _ => s

/-- ALL_OR_NONE withholds the arming (R74): ARM completes REFUSED; a sentence that was armed stays STALE. -/
def armWithheld (s : State) (p : Prep) : State :=
  match p.trigger with
  | .arming h => (dropPreps (s.modSent p.handle Sentence.disarmed) (·.id == p.id)).fail h 0x14 stRefused
  | _ => s.modSent p.handle fun t => { t with state := .stale }

/-- One preparation is served. -/
def prepareOne (s : State) (p : Prep) : State :=
  let (l, w) := s.routeSentence p.handle p.opts.rearrangeOk
  let s1 := routeCounts s w
  let failing := p.opts.allOrNone && !l.all placedClause
  if p.arms then (if failing then armWithheld s1 p else armPrepared s1 p l w.moves)
  else if failing then refusePrep s1 p (l.map (·.1)) (withheldReasons l)
  else if !l.any placedClause then refusePrep s1 p (l.map (·.1)) (l.map (·.2))
  else promoteAll (setPrep s1 { p with done := some l, moves := w.moves }) (s1.movedEids l)

/-- SENTENCE_PREPARE (R74): the oldest preparation that waits is served. -/
def execSentencePrepare (s : State) : Host.Outcome State Fault Refusal :=
  match s.store.preps.find? s.servable with
  | some p => ok s (prepareOne s p)
  | none => .next s

/-- The preparation of paragraph `n`'s next step, or of a pending SCHEDULE launch, is under way. -/
def State.preparing (s : State) (p : Prep → Bool) : Bool := s.store.preps.any p

/-- PREP_LEAD_DUE (R74): a scheduled launch or a paragraph step is within PREP_LEAD of its time. -/
def execPrepLeadDue (para : Bool) (index : Nat) (s : State) : Host.Outcome State Fault Refusal :=
  let lead : Int := (s.img.prepLead : Int) * 1000 * ntNs
  if para then
    let p := s.para index
    let t := p.time p.step p.iter
    if p.state = .running && t - lead ≤ s.now && (s.sent p.handle).idle && !s.preparing (Prep.isPara · index) then
      ok s (s.addPrep p.handle (.paraStep index p.step p.iter p.src p.tag t p.late) {})
    else .next s
  else
    match s.store.scheds.find? fun x => x.handle = index with
    | some x =>
      if x.t - lead ≤ s.now && !s.preparing (Prep.isSched · index) then
        ok s (s.addPrep index (.schedule x.src x.tag x.t x.late) x.opts)
      else .next s
    | none => .next s

/-- STALE_REPREPARE (R87): a STALE sentence is to be prepared again, unless a fence keeps it STALE. -/
def execStaleReprepare (handle : Nat) (s : State) : Host.Outcome State Fault Refusal :=
  let t := s.sent handle
  if t.state = .stale && !s.armFenced t && !s.preparing (fun p => p.arms && p.handle == handle) then
    ok s (s.addPrep handle .restale t.opts)
  else .next s

/-! ## Token issue (R67, R77) -/

/-- An earlier launching verb of the source has not posted its completion (R77, R101). -/
def earlierLaunch (src : Source) (tag op : Nat) : List Issue → Bool
  | [] => false
  | i :: r =>
    if i.src = src then
      if i.tag = tag && i.opcode = op && i.done.isNone then false
      else i.opcode == 0x12 || i.opcode == 0x16 || earlierLaunch src tag op r
    else earlierLaunch src tag op r

/-- The trigger's verb waits for an earlier launching verb of its source. -/
def State.launchHeld (s : State) (t : Trigger) : Bool :=
  match t with
  | .commit h => earlierLaunch h.src h.tag 0x12 s.host.issues
  | .fire h => earlierLaunch h.src h.tag 0x16 s.host.issues
  | _ => false

/-- The request that the dispatcher takes next: green before yellow, then by arrival. -/
def State.nextP0 (s : State) : Option P0Req :=
  match s.store.p0Queue.find? fun r => !r.yellow with
  | some r => some r
  | none => s.store.p0Queue.head?

/-- A P0 request can be dispatched: its token is issued before every P1 token whose issue has not begun (R182). -/
def State.p0First (s : State) : Bool :=
  match s.nextP0 with
  | some r => !s.launchHeld r.trigger
  | none => false

/-- What a preparation's token carries; a RETIRED element that is released carries its OFF act (R58). -/
def State.tokenOf (_s : State) (p : Prep) (tick : Nat) : CommitToken :=
  { handle := p.handle, trigger := p.trigger, opts := p.opts, tick
    clauses := p.done.getD [], moves := p.moves, boundLost := p.arrival.isSome
    revActs := match p.trigger with
      | .releaseRetired e => [{ clause := 0, eid := e, on := false, lit := false, wasOn := true, wasLit := false }]
      | _ => [] }

/-- The tiles that a token would touch. -/
def State.tokenTiles (s : State) (tk : CommitToken) : List Nat :=
  let ch := s.tableChange tk.handle s.store.nextSerial (tk.clauses.map (·.1)) (tk.clauses.map (·.2)) tk.moves
  tilesOf (movingEids (ch.acts ++ tk.revActs))

/-- The token is issued; where every clause conflicts with the table by now (R75), none is. -/
def dispatchToken (s : State) (tk : CommitToken) : State :=
  let cl := tk.clauses.map (·.1)
  let ch := s.tableChange tk.handle s.store.nextSerial cl (tk.clauses.map (·.2)) tk.moves
  let own := ch.reasons.take cl.length
  if own.any (fun r => r == rsApplied || r == rsAbsent) || !tk.revActs.isEmpty || (cl.isEmpty && !tk.moves.isEmpty) then
    checkSettle (issueToken s tk) s.store.nextSerial
  else
    endTrigger (refuseLaunch s tk.handle tk.trigger tk.opts cl own tk.boundLost) tk.handle tk.trigger

/-- A FIRE_DOORBELL write that ends without a token: its launch report (R178). -/
def doorbellReport (s : State) (q tag handle status : Nat) : State :=
  s.event (.host q) (launchReport tag handle status s.now (reportBody cancelledFields 0 3 0 0 0xFF 0xFFFF) true)

/-- A launching verb that a controller without the role still holds ends NOT_READY (R414); a preparation of another
kind lapses. -/
def notReadyPrep (s : State) (p : Prep) : State :=
  let s1 := dropPreps s (·.id == p.id)
  match p.trigger with
  | .commit h => (s1.modSent p.handle fun t => { t with state := .stored }).complete h 0x12 stNotReady cancelledFields
  | .fire h => (s1.modSent p.handle fun t => { t with state := .stale }).complete h 0x16 stNotReady cancelledFields
  | .doorbell q tag => doorbellReport (s1.modSent p.handle fun t => { t with state := .stale }) q tag p.handle stNotReady
  | _ => s1

/-- P0_LATENCY after a fire (R190). -/
def noteLatency (s : State) (arrival tick : Nat) : State :=
  let v := min 4095 (ticksNsUp (tick - arrival))
  { s with store := { s.store with p0Last := v, p0Max := max s.store.p0Max v } }

/-- TOKEN_ISSUE (R67): the token of a prepared commit, of a STALE fire, of a reroute or of a release. The index is that
of the preparation. -/
def execTokenIssue (launch : Nat) (s : State) : Host.Outcome State Fault Refusal :=
  match s.store.preps.find? fun p => p.id = launch && p.done.isSome && !p.arms with
  | none => .next s
  | some p =>
    match p.trigger with
    | .schedule .. => .next s
    | .paraStep .. => .next s
    | _ =>
      if s.faults.safeState then
        ok s (refusePrep s p (s.sent p.handle).clauses ((s.sent p.handle).clauses.map fun _ => rsSafeState))
      else if s.mate.role = .standby || s.mate.role = .starting then ok s (notReadyPrep s p)
      else
        let tk := s.tokenOf p (s.dt + s.leadP1)
        if s.tokensBarred || s.p0First || s.launchHeld p.trigger || !s.tokenRoom || !s.slotsFree (s.tokenTiles tk) then .next s
        else
          let s1 := dispatchToken (dropPreps s (·.id == p.id)) tk
          ok s (match p.arrival with
            | some a => noteLatency s1 a tk.tick
            | none => s1)

/-! ## The P0 dispatcher (R182) -/

/-- The list without its first `r`. -/
def dropReq (r : P0Req) : List P0Req → List P0Req
  | [] => []
  | x :: l => if x = r then l else x :: dropReq r l

/-- The causes of Table 6-5 for a P0 fire of footprint `ts`: yellow, slow link, link down. -/
def State.p0Causes (s : State) (yellow : Bool) (ts : List Nat) : Bool × Bool × Bool :=
  (yellow, decide (840 < s.leadP0 ts), ts.any fun t => !s.tileReach t)

/-- The bits of P0_LOST_CAUSE that a fire sets, and the counts of P0_COUNT. -/
def noteCauses (s : State) (c : Bool × Bool × Bool) (lost : Bool) : State :=
  let st := s.store
  let p := st.p0Cause
  { s with store := { st with
      p0Cause := [p.getD 0 false || c.1, p.getD 1 false || c.2.1, p.getD 2 false || c.2.2, p.getD 3 false, p.getD 4 false]
      p0Fires := satInc st.p0Fires 0xFFFF
      p0BoundLost := if lost then satInc st.p0BoundLost 0xFFFF else st.p0BoundLost } }

/-- One P0 request is dispatched. -/
def dispatchP0 (s : State) (r : P0Req) : State :=
  let s1 := { s with store := { s.store with p0Queue := dropReq r s.store.p0Queue } }
  let t := s1.sent r.handle
  if s1.faults.safeState then refuseAll s1 r.handle r.trigger t.opts rsSafeState false
  else
    let deferred := match r.trigger with
      | .deferredLos .. => true
      | _ => false
    let c := if deferred then (false, false, false) else s1.p0Causes r.yellow (tilesOf t.armedMoved)
    let lost := deferred || c.1 || c.2.1 || c.2.2
    let tick := s1.dt + nsTicks (s1.leadP0 (tilesOf t.armedMoved))
    noteLatency (dispatchToken (noteCauses s1 c lost)
      { handle := r.handle, trigger := r.trigger, opts := t.opts, tick, clauses := t.armedList, moves := t.armedMoves,
        armSlot := t.slot, boundLost := lost }) r.arrival tick

/-- P0_DISPATCH (R182, R186). -/
def execP0Dispatch (s : State) : Host.Outcome State Fault Refusal :=
  match s.nextP0 with
  | some r =>
    if (s.tokensBarred && !s.faults.safeState) || !s.tokenRoom || s.launchHeld r.trigger then .next s
    else ok s (dispatchP0 s r)
  | none => .next s

/-! ## Latch reports (R38, R103, R255) -/

/-- Serial `a` acts over the serial and tick that an element or tile holds, at tick `t` (R69). -/
def actsOver (a : Serial) (t : Nat) : Option (Serial × Nat) → Bool
  | none => true
  | some (b, u) => newer a b || u + 65536 < t

/-- The class override that a launch gives element `e`: that of the clause that sets it ON. -/
def Launch.override (l : Launch) (e : Nat) : Option Nat :=
  match l.acts.find? fun a => a.eid = e && a.on with
  | some a => a.cls
  | none => none

/-- The LIT intent that a launch gives element `e`. -/
def Launch.litOf (l : Launch) (e : Nat) : Bool := l.acts.any fun a => a.eid = e && a.on && a.lit

/-- The launch is not applied to the element (R57, R59): RETIRED or to be retired, or SUSPECT towards ON. -/
def Elem.rejects (e : Elem) (on : Bool) : Bool :=
  let restored := e.events.contains .restore
  let retired := (e.st == .retired || e.events.contains .retire) && !restored
  let suspect := (e.st == .suspect || e.events.contains .suspect) && !restored
  on && (retired || suspect)

/-- The class of an element changes by a launch: SET_CLASS follows the latch report (R256) and is a write to the tile
(R265). -/
def sendClass (s : State) (e : Nat) (new : Option Nat) : State :=
  let old := (s.elem e).clsOvr
  let c := fun o : Option Nat => o.getD (s.img.classOf e)
  let s1 := s.modElem e fun x => { x with clsOvr := new }
  if c old = c new then s1
  else s1.down (eidTile e) "SET_CLASS" [e % 1024, c new, 0]

/-- A latched launch acts on element `e` of the tile: the shape plays from the launch time, the state event waits for
the next comma boundary (R60). -/
def latchElem (l : Launch) (s : State) (e : Nat) : State :=
  let x := s.elem e
  let on := finalOn l.acts e
  if !actsOver l.serial l.tick x.lastLaunch then s
  else
    let s1 := s.modElem e fun x => { x with
      lastLaunch := some (l.serial, l.tick), shaping := true, shapeEnd := l.tick + 2000, dueNext := true }
    if x.rejects on then s1
    else
      let ev := if (x.st == .retired || x.events.contains .retire) && !on then ElemEvent.release
                else .launch on (on && l.litOf e) true
      sendClass (s1.modElem e fun x => { x with events := x.events ++ [ev] }) e (l.override e)

/-- Clauses of the launch with an element of tile `t` to which it is not applied. -/
def State.unusableClauses (s : State) (l : Launch) (t : Nat) : List Nat :=
  (l.acts.filter fun a => eidTile a.eid = t && (movingEids l.acts).contains a.eid &&
    (s.elem a.eid).rejects (finalOn l.acts a.eid)).map (·.clause)

/-- The controller's record of the tile's last serial follows a latch report (R265). -/
def noteSerial (s : State) (l : Launch) (t : Nat) : State :=
  s.modLink t fun k =>
    if actsOver l.serial l.tick (k.lastSerialAt.map fun u => (k.lastSerial, u)) then
      { k with lastSerial := l.serial, lastSerialAt := some l.tick }
    else k

/-- A tile has latched the launch. -/
def tileLatched (s : State) (l : Launch) (t : Nat) : State :=
  let bad := s.unusableClauses l t
  let s1 := noteSerial (setTileResult s l.serial t .latched) l t
  let s2 := { s1 with store := { s1.store with launches := s1.store.launches.map fun x =>
    if x.serial = l.serial then { x with unusable := x.unusable ++ bad } else x } }
  ((movingEids l.acts).filter fun e => eidTile e = t).foldl (latchElem l) s2

/-- The trigger is a fire of an armed sentence. -/
def Trigger.isFire : Trigger → Bool
  | .fire _ => true
  | .lossOfLight .. => true
  | .deferredLos .. => true
  | .doorbell .. => true
  | _ => false

/-- A tile has missed the launch (R185): LAUNCH_MISSED, or SAFE_STATE under R432. -/
def tileMissed (s : State) (l : Launch) (t : Nat) : State :=
  let s1 := setTileResult s l.serial t (if s.faults.safeState then .safeState else .missed)
  if l.trigger.isFire && !s.faults.safeState then
    { s1 with store := { s1.store with p0Cause := s1.store.p0Cause.set 4 true } }
  else s1

/-- LATCH_REPORT_RECEIVE (R38): the report counts while its tile's result is awaited. -/
def execLatchReportReceive (tile : Nat) (serial : Serial) (latched : Bool) (s : State) :
    Host.Outcome State Fault Refusal :=
  match s.store.launches.find? fun l => l.serial = serial && l.tiles.any fun x => x.1 = tile && x.2.2 = .waiting with
  | none => .next s
  | some l =>
    let s1 := freeLaunchSlot s serial tile
    let s2 := if latched then tileLatched s1 l tile else tileMissed s1 l tile
    ok s (checkSettle s2 serial)

/-- LAUNCH_RESULT_TIMEOUT (R106): 20 µs after the launch time the tile's clauses are not applied. -/
def execLaunchResultTimeout (tile : Nat) (serial : Serial) (s : State) : Host.Outcome State Fault Refusal :=
  match s.store.launches.find? fun l => l.serial = serial && l.tiles.any fun x => x.1 = tile && x.2.2 = .waiting with
  | none => .next s
  | some l =>
    if s.dt < l.tick + 20 * usTicks || s.mate.role = .standby then .next s
    else
      let s1 := setTileResult (freeLaunchSlot s serial tile) serial tile (if s.faults.safeState then .safeState else .lost)
      ok s (checkSettle s1 serial)

/-- The role is one that issues tokens (Table 15-1). -/
def State.issuesTokens (s : State) : Bool := s.mate.role == .active || s.mate.role == .alone

/-- The reversal of a launch that was resolved after a restart or takeover waits until its tiles are adopted (R409). -/
def State.revWaits (s : State) (l : Launch) : Bool :=
  (match l.trigger with
    | .resolved _ => true
    | .restart => true
    | _ => false) &&
    (s.mate.role == .standby || s.mate.role == .starting ||
      l.revActs.any fun a => let k := s.link (eidTile a.eid); k.state == .active && k.tile != .adopted)

/-- REVERSAL_LAUNCH (R78, R257): the elements of the clauses not applied go back by a launch of their own. In the safe
state none is issued; the tiles that latched become stale instead (R432). -/
def execReversalLaunch (serial : Serial) (s : State) : Host.Outcome State Fault Refusal :=
  match s.store.launches.find? fun l => l.serial = serial && l.settled && l.reversal.isNone && !l.revActs.isEmpty with
  | none => .next s
  | some l =>
    let tk : CommitToken := { handle := l.handle, trigger := .reversal serial, tick := s.dt + s.leadP1, clauses := [],
                              revActs := l.revActs }
    if s.faults.safeState then
      ok s (completeLaunch ((tilesOf (l.revActs.map (·.eid))).foldl bumpEpoch s) l)
    else if s.revWaits l then .next s
    else if !s.issuesTokens then ok s (completeLaunch s l)
    else if s.tokensBarred || s.p0First || !s.tokenRoom || !s.slotsFree (s.tokenTiles tk) then .next s
    else
      let s1 := { s with store := { s.store with launches := s.store.launches.map fun x =>
        if x.serial = serial then { x with reversal := some s.store.nextSerial } else x } }
      ok s (checkSettle (issueToken s1 tk) s.store.nextSerial)

/-! ## Scheduled launches and paragraphs (R82 to R84, R95 to R97) -/

/-- The first device tick at which network time is `t` or later (R82). -/
def TimeUnit.tickOf (u : TimeUnit) (t : Int) : Nat :=
  let k : Int := 4 * 65536 * (2 ^ 48 + u.rate)
  let d : Int := 5 * 2 ^ 48
  (u.baseDt + -((-((t - u.baseNt) * d)) / k)).toNat

/-- Scheduled launches are suspended (R84). -/
def State.suspended (s : State) : Bool := s.img.schedSuspend && s.time.timeJump

/-- How a launch of time `t` and limit `late` stands (R82, R83): it may be too late, not due yet, or due for the tick. -/
inductive Due where
  | late | notYet | due (tick : Nat)
  deriving DecidableEq, Repr

def State.dueNow (s : State) (t : Int) (late : Nat) : Due :=
  let first := s.time.tickOf t
  let l := max first (s.dt + s.leadP1)
  if s.suspended then (if t + (late : Int) * ntNs < s.now then .late else .notYet)
  else if first < s.dt + s.leadP1 && t + (late : Int) * ntNs < s.time.nt l then .late
  else if s.dt + s.leadP1 < first then .notYet
  else .due l

/-- An earlier launching verb of the same queue has not completed (R83). -/
def State.priorLaunch (s : State) (x : Sched) : Bool :=
  s.host.issues.any fun i => i.src == x.src && (i.opcode == 0x12 || i.opcode == 0x16) && i.at_ < x.since

/-- The token of a prepared launch with a time can be issued. -/
def State.canIssue (s : State) (p : Prep) (tick : Nat) : Bool :=
  !s.tokensBarred && !s.p0First && s.tokenRoom && s.slotsFree (s.tokenTiles (s.tokenOf p tick))

/-- A late launch counts (R83). -/
def countLate (s : State) : State :=
  { s with store := { s.store with lateCancels := satInc s.store.lateCancels 0xFFFF } }

/-- A due token waits while a held servo change has outlasted its limit; it is counted once (R278). -/
def waitToken (s : State) (p : Prep) : Host.Outcome State Fault Refusal :=
  if p.held then .next s
  else ok s { s with
    store := { s.store with preps := s.store.preps.map fun q => if q.id == p.id then { q with held := true } else q }
    time := { s.time with tokenWaits := satInc s.time.tokenWaits 0xFFFF } }

/-- SCHEDULED_LAUNCH_DUE (R82, R83). -/
def execScheduledLaunchDue (handle : Nat) (s : State) : Host.Outcome State Fault Refusal :=
  match s.store.scheds.find? fun x => x.handle = handle && s.issuesTokens with
  | none => .next s
  | some x =>
    match s.dueNow x.t x.late with
    | .notYet => .next s
    | .late => ok s (endSched (countLate s) x stLateCancelled)
    | .due tick =>
      match s.store.preps.find? fun p => p.isSched handle && p.done.isSome with
      | none => .next s
      | some p =>
        if s.priorLaunch x then .next s
        else if s.time.tokensStopped then waitToken s p
        else if !s.canIssue p tick then .next s
        else
          let s1 := dropPreps { s with store := { s.store with scheds := s.store.scheds.filter (· ≠ x) } } (·.id == p.id)
          ok s (dispatchToken (s1.modSent handle fun t => { t with state := .launching }) (s.tokenOf p tick))

/-- A paragraph step is cancelled for lateness (R97). -/
def missStep (s : State) (n : Nat) : State :=
  let s1 := stepReport (dropPreps (countLate s) (Prep.isPara · n)) n stLateCancelled
  let p := s1.para n
  if p.halt then s1.setPara n { p with state := .halted } else s1.setPara n p.advance

/-- PARAGRAPH_STEP_DUE (R95, R96, R97). -/
def execParagraphStepDue (para : Nat) (s : State) : Host.Outcome State Fault Refusal :=
  let p := s.para para
  if p.state ≠ .running || !s.issuesTokens then .next s
  else
    match s.dueNow (p.time p.step p.iter) p.late with
    | .notYet => .next s
    | .late => ok s (missStep s para)
    | .due tick =>
      match s.store.preps.find? fun q => q.isPara para && q.done.isSome with
      | none => .next s
      | some q =>
        if p.inFlight || !(s.sent q.handle).idle then .next s
        else if s.time.tokensStopped then waitToken s q
        else if !s.canIssue q tick then .next s
        else
          let s1 := dropPreps s (·.id == q.id)
          let s2 := (s1.modSent q.handle fun t => { t with state := .launching }).setPara para
            { p.advance with inFlight := true }
          ok s (dispatchToken s2 (s.tokenOf q tick))

/-! ## Loss of light (R88, R90, R189) -/

/-- The sentence that a port is bound to. -/
def State.boundTo (s : State) (r : PortRef) : Option (Nat × Sentence) :=
  s.armedSents.find? fun p => p.2.ports.contains r && p.2.state ≠ .stored

/-- The connection that has the port. -/
def State.connAtPort (s : State) (r : PortRef) : Option Conn :=
  if r.input then s.conn r.port else (connOfOut s.store.table r.port).map (·.2)

/-- A loss-of-light EVENT on the port fires the sentence (R88). -/
def State.losMatches (s : State) (t : Sentence) (r : PortRef) : Bool :=
  t.pgroup == 0 ||
    match s.connAtPort r with
    | some k => (clauseOf k.clause).lit && (clauseOf k.clause).pgroup == t.pgroup
    | none => false

/-- A loss-of-light request that admission has dropped (R328). -/
def policedReport (s : State) (m handle : Nat) (t : Sentence) : State :=
  s.event t.armSrc (launchReport t.armTag handle stPoliced s.now (reportBody cancelledFields 0 2 0 0 0xFF m) true)

/-- One loss-of-light EVENT of monitor `m`: the indication, and the fire of the sentence that it matches. -/
def losRaise (s0 : State) (m : Nat) : State :=
  let s := s0.setMonitor m { s0.monitor m with los := true }
  if s.mate.role = .starting || s.mate.role = .standby then
    if s.mate.takeover = .none then s
    else { s with mate := { s.mate with deferred := dedup (s.mate.deferred ++ [m]) } }
  else
    match s.img.portOfMonitor m with
    | none => s
    | some (inp, pr) =>
      match s.boundTo { input := inp, port := pr.port } with
      | none => s
      | some (h, t) =>
        if !s.losMatches t { input := inp, port := pr.port } then s
        else if t.state = .armed || t.state = .stale then
          let (c, s1) := s.colour .lossOfLight 0
          if c = 2 then policedReport s1 m h t
          else fireSentence s1 h (.lossOfLight m t.armSrc t.armTag) (c = 1) s.dt
        else ignoreTrigger s h

/-- LOS_EVENT_RECEIVE (R88, R90): the monitors of one cycle, lowest number first. -/
def execLosEventReceive (monitors : List Nat) (s : State) : Host.Outcome State Fault Refusal :=
  ok s ((monitors.mergeSort (fun a b => a ≤ b)).foldl losRaise s)

/-- LOS_CLEAR_RECEIVE (R206). -/
def execLosClearReceive (monitor : Nat) (s : State) : Host.Outcome State Fault Refusal :=
  ok s (s.setMonitor monitor { s.monitor monitor with los := false })

/-! ## Reroutes (R117, R118) -/

/-- The connection runs through a RETIRED element. -/
def State.throughRetired (s : State) (k : Conn) : Bool :=
  ((clauseOf k.clause).eids s.img.stages).any fun e => (s.elem e).st = .retired

/-- ELEMENT_REROUTE (R117, R118): a new path for the connection, or the event that none was found. -/
def execElementReroute (inPort : Nat) (s : State) : Host.Outcome State Fault Refusal :=
  match s.conn inPort with
  | none => .next s
  | some k =>
    let c := clauseOf k.clause
    let busy := s.store.preps.any (fun p => p.trigger == .reroute inPort) || s.store.launches.any fun l =>
      l.trigger == .reroute inPort
    if !s.throughRetired k || busy then .next s
    else
      let used := s.usedLines (tabSet s.store.table inPort none) ++ s.armedLines none
      match s.choosePath s.store.ptr used (candidates s.img inPort c.outPort) with
      | some path =>
        let st := s.store
        let r := (c.routed path.es).toRec
        ok s (promoteAll { s with store := { st with
          ptr := s.nextPtr st.ptr
          failedReroutes := st.failedReroutes.filter (· ≠ inPort)
          preps := st.preps ++ [{ id := st.nextPrep, handle := k.handle, trigger := .reroute inPort, done := some [],
                                  moves := [(inPort, r)] }]
          nextPrep := st.nextPrep + 1 } } path.es)
      | none =>
        if s.store.failedReroutes.contains inPort then .next s
        else
          let s1 := { s with store := { s.store with
            failedReroutes := s.store.failedReroutes ++ [inPort]
            reroutesFailed := satInc s.store.reroutesFailed 0xFFFF } }
          ok s (s1.sysEvent { kind := 4, status := rsNoRoute, time := s.now,
                              body := moveBody inPort c.outPort (c.eids s.img.stages) [] 0 })

end Sys2Proof.Machine
end

