-- ==== Sys2Proof/Machine/CalOps.lean ====
section
/-! DEFINITION. Shared operations of the calibration manager and of the SMU engine: surfaces, folds, queued runs, the
tests of lines and elements (R208, R209, R224 to R235). -/

namespace Sys2Proof.Machine

/-! ## Surfaces (R224) -/

/-- The two rows of the temperature grid that bracket `temp` (0.25 °C), and the sixteenths between them. -/
def bracket (temp : Int) : Nat × Nat × Nat :=
  let u := temp + 96
  if u < 0 then (0, 0, 0)
  else if 496 ≤ u then (31, 31, 0)
  else ((u / 16).toNat, (u / 16).toNat + 1, (u % 16).toNat)

/-- The calibration entry of an element as last loaded, where it is valid (R223). -/
def State.calEntry (s : State) (e : Nat) : Option CalEntry :=
  if !s.calib.loaded.headerOk || s.calib.loaded.fabricHash ≠ s.img.fabricHash then none
  else match s.calib.loaded.entries.find? fun p => p.1 = e with
    | some p => if p.2.valid && !s.calib.loaded.badBlocks.contains (33 + e / 256) then some p.2 else none
    | none => none

/-- Value `which` of row `row` of an element's surface: as runs and folds have changed it, else as expanded. -/
def State.rowValue (s : State) (e row which : Nat) : Nat :=
  match tabGet (s.calib.rowSet.map fun p => (p.1, some p.2)) none (256 * e + 8 * row + which) with
  | some v => v
  | none => match s.calEntry e with
    | some c => Config.surfaceRow which c row
    | none => Config.surfaceRow which {} row

/-- A surface value at a temperature: linear between the bracketing rows. -/
def State.surfaceAt (s : State) (e : Nat) (temp : Int) (which : Nat) : Nat :=
  let (lo, hi, f) := bracket temp
  let a := s.rowValue e lo which
  let b := s.rowValue e hi which
  if a = b || f = 0 then a else Config.interpolate a b f

/-- Sense that an element's surface gives at a drive and a temperature (R234). -/
def State.surfaceSense (s : State) (e : Nat) (temp : Int) (d : Nat) : Nat :=
  let pts := tabGet s.calib.curves [] (32 * e + (bracket temp).1)
  let k := match s.calEntry e with
    | some c => c.curve
    | none => 0
  Config.curveSense pts k (s.surfaceAt e temp 0) (s.surfaceAt e temp 1) (s.surfaceAt e temp 2) d

/-- The surface values of an element at a temperature. -/
def State.surfaceOf (s : State) (e : Nat) (temp : Int) : Surface :=
  let v := s.surfaceAt e temp
  { onBase := v 0, offBase := v 1, dOn := v 2, dOff := v 3, pullIn := v 4, release := v 5, invSlope := v 6 }

/-- A row value of an element's surface is set. -/
def setRow (s : State) (e row which v : Nat) : State :=
  { s with calib := { s.calib with rowSet := tabSet s.calib.rowSet (256 * e + 8 * row + which) v } }

/-- Value `which` of both bracketing rows is replaced. -/
def setRows (s : State) (e : Nat) (temp : Int) (which v : Nat) : State :=
  let (lo, hi, _) := bracket temp
  setRow (setRow s e lo which v) e hi which v

/-- A base of both bracketing rows moves by `d`, in sense codes 0 to 65,535. -/
def shiftRows (s : State) (e : Nat) (temp : Int) (which : Nat) (d : Int) : State :=
  let (lo, hi, _) := bracket temp
  let go := fun (s : State) (row : Nat) => setRow s e row which (clampInt 0 65535 (s.rowValue e row which + d)).toNat
  if lo = hi then go s lo else go (go s lo) hi

/-- Drive codes that move far enough for the arm slots to be written again (R184). -/
def farMove (a b : Surface) : Bool :=
  64 < absN ((a.dOn : Int) - b.dOn) || 64 < absN ((a.dOff : Int) - b.dOff)

/-- The arm slots of ARMED and STALE sentences that move element `e` are written again; they stay as they are (R184). -/
def rewriteSlots (s : State) (e : Nat) : State :=
  (s.armedSents.filter fun p => p.2.armedMoved.contains e).foldl (fun s p =>
    match p.2.slot with
    | none => s
    | some k =>
      let acts := (s.tableChange p.1 0 (p.2.armedList.map (·.1)) (p.2.armedList.map (·.2)) p.2.armedMoves).acts
      let t := eidTile e
      if s.tileReach t then fillSlot s t k (s.slotEntries acts t) else s) s

/-- The surface of an element moves to the values `u`: the bases are the goal of R235, the rest acts at once. -/
def takeSurface (s : State) (e : Nat) (u : Surface) : State :=
  let x := s.elem e
  let s1 := s.setElem e { x with
    goal := u, inUse := { u with onBase := x.inUse.onBase, offBase := x.inUse.offBase } }
  if farMove x.inUse u then rewriteSlots s1 e else s1

/-- Every element of a tile takes its surface at the tile's temperature (R224). -/
def retune (s : State) (t : Nat) : State :=
  ((s.loops.elems.filter fun p => eidTile p.1 = t && p.2.entryValid).map (·.1)).foldl
    (fun s e => takeSurface s e (s.surfaceOf e (s.link t).temp)) s

/-- The elements of a tile that is not adopted take their surfaces at the tile's temperature at once: no target follows
them yet, so R235 has nothing to slew. -/
def settleSurfaces (s : State) (t : Nat) : State :=
  ((s.loops.elems.filter fun p => eidTile p.1 = t && p.2.entryValid).map (·.1)).foldl
    (fun (s : State) e =>
      let u := s.surfaceOf e (s.link t).temp
      s.modElem e fun x => { x with goal := u, inUse := u }) s

/-! ## The outer loop's conditions (R161) and folds (R231) -/

/-- Output port, and its connection, that element `e` is on. -/
def State.connOfElem (s : State) (e : Nat) : Option (Nat × Conn) := connThrough s.store.table s.img.stages e

/-- The output port of the connection through the element, with its record; of an element that leaves LIT because its
connection is gone, that of its last path (R231). -/
def State.outPortOf (s : State) (e : Nat) : Option PortRec :=
  match s.connOfElem e with
  | some (_, k) => s.img.outPort (clauseOf k.clause).outPort
  | none => (s.elem e).litPort.bind s.img.outPort

/-- The bank in use of an element (R150). -/
def State.bankOf (s : State) (e : Nat) : Bank :=
  let c := s.cls (s.elemClass e)
  if (s.elem e).bankB then c.bankB else c.bankA

/-- OUTER_MIN in units of the lock-in's level: nA, of 200 LSB of 5 pA, in 2^-16 LSB. -/
def State.outerMin (s : State) : Int := (s.img.outerMin : Int) * 200 * 65536

/-- The outer update of an element is skipped (R161). -/
def State.outerSkipped (s : State) (e : Nat) : Bool :=
  match s.outPortOf e with
  | none => true
  | some r =>
    match r.monitor with
    | none => true
    | some m =>
      let k := tabGet s.loops.lockIns {} r.port
      k.p < s.outerMin || (s.monitor m).los || (s.bankOf e).ditherDepth = 0 ||
        (match k.lastFlag with
          | some c => s.commaNo < c + 100
          | none => false)

/-- A fold of OUTER_TRIM into ON_BASE (R231); none where it is skipped. -/
def fold (s : State) (e : Nat) : Option State :=
  let x := s.elem e
  if x.outerSat || s.outerSkipped e then none
  else
    let s1 := shiftRows s e (s.link (eidTile e)).temp 0 x.outerTrim
    let move := fun n : Nat => (clampInt 0 65535 (n + x.outerTrim)).toNat
    some (s1.setElem e { x with
      outerTrim := 0
      goal := { x.goal with onBase := move x.goal.onBase }
      inUse := { x.inUse with onBase := move x.inUse.onBase } })

/-! ## Lines and elements (R208, R209, R228, R229) -/

/-- Some element of the line has target ON. -/
def State.lineOn (s : State) (l : Line) : Bool := (s.usedLines s.store.table).contains l

/-- Light cannot come to the element's row line: the port or the column line that feeds it is dark (R209). -/
def State.feedDark (s : State) (p : Place) : Bool :=
  if p.stage = 1 then
    match s.img.inPorts.find? fun r => r.array = p.array && r.line = p.row with
    | none => true
    | some r => match r.monitor with
      | some m => (s.monitor m).los
      | none => false
  else
    match s.img.wireTo p.stage p.array p.row with
    | none => true
    | some w => !s.lineOn (w.fromStage, w.fromArray, true, w.fromCol)

/-- Both lines of the element are dark, as FULL_RANGE asks (R209). -/
def State.linesDark (s : State) (e : Nat) : Bool :=
  match s.img.place e with
  | none => false
  | some p => !s.lineOn (p.stage, p.array, true, p.col) && s.feedDark p

/-- An ARMED or STALE sentence moves the element or sets an element ON on one of its lines (R208). -/
def State.armedTouches (s : State) (e : Nat) : Bool :=
  s.armedSents.any fun p => p.2.armedMoved.contains e ||
    (s.img.lines e).any (s.img.linesOf (p.2.makeEids s.img.stages)).contains

/-- A preparation in progress includes the element. -/
def State.prepTouches (s : State) (e : Nat) : Bool :=
  s.store.preps.any fun p => (s.movedEids (p.done.getD [])).contains e || p.moves.any fun m =>
    ((clauseOf m.2).eids s.img.stages).contains e

/-- The controller's loops, sweeps and calibration run (Table 15-1, R430). -/
def State.working (s : State) : Bool :=
  !s.faults.safeState && s.chip.mainRun && (s.mate.role == .active || s.mate.role == .alone)

/-- The element is at the fast rate of a LIT element (Table 5-1). -/
def Elem.fastLit (x : Elem) : Bool := x.st == .lit || (x.st == .suspect && x.on && x.lit)

/-- A micro run may be made on the element (R228). -/
def Elem.microOk (x : Elem) : Bool :=
  x.st == .darkOff || x.st == .darkOn || (x.st == .retired && !x.on) || (x.st == .suspect && !x.fastLit)

/-- A full run may begin on the element (R229). -/
def State.fullOk (s : State) (e : Nat) : Bool :=
  let x := s.elem e
  (x.st == .uncal || x.st == .darkOff || ((x.st == .suspect || x.st == .retired) && !x.on))
    && s.linesDark e && !(s.armedSents.any fun p => p.2.armedMoved.contains e) && !s.prepTouches e

/-! ## Queued runs (R226) -/

/-- The run is of the same element or tile. -/
def CalRun.same (r : CalRun) (k : RunKind) (target : Nat) : Bool :=
  r.target == target && ((r.kind == .channel) == (k == .channel))

/-- A queued run with one more trigger merged into it: a full run serves a micro run's trigger too. -/
def CalRun.merge (r : CalRun) (k : RunKind) (batch : Option Nat) (timeout : Option Nat) (t : Nat) : CalRun :=
  { r with
    kind := if k == .full then k else r.kind
    batches := r.batches ++ batch.toList
    queued := if r.timeout.isNone then t else r.queued
    timeout := if r.timeout.isNone then timeout else r.timeout }

/-- A trigger queues a run, or is merged with the one that is queued (R226). -/
def queueRun (batch timeout : Option Nat) (s : State) (r : RunKind × Nat) : State :=
  let (k, target) := r
  let old := fun (x : CalRun) => !x.running && x.same k target
  let runs :=
    if s.calib.runs.any old then
      s.calib.runs.map fun x => if old x then x.merge k batch timeout s.dt else x
    else
      s.calib.runs ++ [{ kind := k, target, batches := batch.toList, queued := s.dt, timeout }]
  { s with calib := { s.calib with runs } }

/-- What a trigger asks of an element: a full run for UNCAL, a fold for LIT (none here), else `k` (R226). -/
def State.wantedRun (s : State) (k : RunKind) (e : Nat) : Option (RunKind × Nat) :=
  let x := s.elem e
  if x.st == .lit then none
  else if x.st == .uncal then some (.full, e)
  else some (k, e)

/-- Elements of a tile. -/
def tileEids (t : Nat) : List Nat := (List.range 1024).map fun j => 1024 * t + j

/-- Folds of the LIT elements among `es`; `n` counts those made, `m` those skipped. -/
def foldAll (s : State) (es : List Nat) : State × Nat × Nat :=
  (es.filter fun e => (s.elem e).st == .lit).foldl (fun (acc : State × Nat × Nat) e =>
    match fold acc.1 e with
    | some s1 => (s1, acc.2.1 + 1, acc.2.2)
    | none => (acc.1, acc.2.1, acc.2.2 + 1)) (s, 0, 0)

/-- Temperature of the last run of a class on a tile; the entries of the set are for 25 °C. -/
def State.classTemp (s : State) (t c : Nat) : Int := tabGet s.calib.classTemp 100 (64 * t + c)

/-- The tile record in service (R223): gain 1.0 and offset 0 where none is given. -/
def State.tileRec (s : State) (t : Nat) : CalTileRec := tabGet s.calib.tiles {} t

/-- A tile's temperature triggers runs and folds (R226). -/
def calTempTrigger (s : State) (t : Nat) : State :=
  if !s.working || (s.link t).tile ≠ .adopted then s
  else
    let temp := (s.link t).temp
    let far := fun c : Nat => s.img.calDelta < absN (temp - s.classTemp t c)
    let es := (tileEids t).filter fun e => far (s.elemClass e)
    let s1 := (es.filterMap (s.wantedRun .micro)).foldl (queueRun none none) s
    let (s2, _) := foldAll s1 es
    if s.img.calDeltaCh < absN (temp - (s.tileRec t).lastTemp) then queueRun none none s2 (.channel, t) else s2

end Sys2Proof.Machine
end

