-- ==== Sys2Proof/Machine/Calibration.lean ====
section
/-! DEFINITION. The calibration manager: runs, their checks, saving and exporting (chapter "Calibration"). -/

namespace Sys2Proof.Machine

/-! ## The verbs (R237 to R240) -/

/-- Tiles that the image places, each once. -/
def State.placedTiles (s : State) : List Nat := dedup s.img.tiles

/-- Elements that CAL_RUN names; none: BAD_FIELD (R240). -/
def State.calElems (s : State) (scope target : Nat) : Option (List Nat) :=
  match scope with
  | 0 => if s.img.placedEid target then some [target] else none
  | 1 => if s.img.placed target then some (tileEids target) else none
  | 2 => if s.img.classes.any fun k => k.cls = target then
      some ((s.placedTiles.flatMap tileEids).filter fun e => s.elemClass e = target) else none
  | _ => some (s.placedTiles.flatMap tileEids)

/-- CAL_RUN (R226, R240): runs are queued, LIT elements are folded (R231); the verb completes. -/
def execCalRun (h : Hdr) (kind scope target timeoutMs : Nat) (s : State) : Host.Outcome State Fault Refusal :=
  verb s h 0x38 (.calRun h kind scope target timeoutMs) fun s =>
    match s.calElems scope target with
    | none => s.fail h 0x38 stBadField
    | some es =>
      let id := s.calib.nextBatch
      let (s1, n, m) := if kind = 2 then (s, 0, 0) else foldAll s es
      let runs := if kind = 2 then (tilesOf es).map fun t => (RunKind.channel, t)
        else es.filterMap (s.wantedRun (if kind = 0 then .micro else .full))
      let s2 := runs.foldl (queueRun (some id) (some timeoutMs)) s1
      let b : CalBatch := { id, src := h.src, tag := h.tag, passed := n, skipped := m }
      State.complete { s2 with calib := { s2.calib with
          batches := s2.calib.batches ++ [b]
          nextBatch := id + 1 } } h 0x38 stSuccess 0

/-- A set as the surfaces in service compress to (R237, R239). -/
def State.serviceSet (s : State) : CalSet :=
  let es := s.loops.elems.filter fun p => p.2.entryValid && s.img.placedEid p.1
  { version := s.calib.version
    fabricHash := s.img.fabricHash
    tiles := s.placedTiles.map fun t => (t, s.tileRec t)
    entries := es.map fun p =>
      let c := Config.compress (s.calib.rowSet.filter fun r => r.1 / 256 = p.1)
        (s.calib.curves.filter fun r => r.1 / 32 = p.1) ((s.calEntry p.1).getD {})
      (p.1, { c with ilEst := s.ilEst p.1, valid := true, user := true }) }

/-- SAVE_CALIBRATION (R237, R238): the set goes to flash (row CAL_SAVE_FLASH_DONE), read from the host first where
FROM_HOST is 1. -/
def execSaveCalibration (h : Hdr) (fromHost ns : Bool) (addr : Nat) (s : State) : Host.Outcome State Fault Refusal :=
  let i := Instr.saveCalibration h fromHost ns addr
  verb s h 0x39 i fun s =>
    if s.calib.saveBusy.isSome || (s.img.mateEnable && !(s.mate.role == .active || s.mate.role == .alone)) then
      s.fail h 0x39 stBadState
    else
      let s1 := { s with calib := { s.calib with saveBusy := some h } }
      if fromHost then hostRead s1 h i addr 4337664 ns
      else { s1 with calib := { s1.calib with saving := some { s.serviceSet with version := s.calib.version + 1 } } }

/-- CAL_SAVE_FLASH_DONE (R237): the flash has been written, read back and compared. -/
def execCalSaveFlashDone (good : Bool) (s : State) : Host.Outcome State Fault Refusal :=
  match s.calib.saveBusy, s.calib.saving with
  | some h, some set =>
    let c := s.calib
    let s1 := { s with calib := { c with
      saveBusy := none, saving := none
      stored := if good then set else { set with headerOk := false }
      version := if good then set.version else c.version } }
    ok s (if good then s1.complete h 0x39 stSuccess 0 else s1.fail h 0x39 stRefused)
  | _, _ => .next s

/-- Bytes of a whole set: 1,059 blocks (R239). -/
def setLength : Nat := 4337664

/-- EXPORT_CALIBRATION (R239): the set is written to ADDR; the row VERB_HOST_DATA_DONE ends it. -/
def execExportCalibration (h : Hdr) (inService : Bool) (addr length : Nat) (s : State) :
    Host.Outcome State Fault Refusal :=
  let i := Instr.exportCalibration h inService addr length
  verb s h 0x3A i fun s =>
    if length < setLength then s.fail h 0x3A stBadField
    else
      let set := if inService then s.serviceSet else s.calib.stored
      let s1 := s.emit (.hostWrite addr setLength (Config.setBytes set))
      { s1 with
        calib := { s1.calib with exportBusy := some h }
        hostOps := s1.hostOps ++ [{ hdr := h, verb := i }] }

/-! ## Runs of elements -/

/-- The run can begin now (R228, R229), its queue order apart. -/
def State.runnable (s : State) (r : CalRun) : Bool :=
  !r.running && s.tileReach r.tile &&
    match r.kind with
    | .micro => (s.elem r.target).microOk
    | .full => s.fullOk r.target
    | .channel => false

/-- Queued runs of a tile are taken in EID order, at most four at once, in P2 credit that throttling has not stopped
(R226, R227). -/
def State.runsNext (s : State) (r : CalRun) : Bool :=
  s.working && !s.loops.throttled && s.runnable r &&
    !(s.calib.runs.any fun q => q.target < r.target && q.kind != .channel && q.tile == r.tile && s.runnable q) &&
    decide ((s.calib.runs.filter fun q => q.running && q.kind != .channel && q.tile == r.tile).length < 4)

/-- ACT_MARGIN in drive codes: units of 0.25 V, 64 V full scale (R209). -/
def State.marginCode (s : State) : Nat := 256 * s.img.actMargin

/-- The trial drives of a micro run about `h` (R228): those of the `CAL_POINTS` that stay within the limits. -/
def State.microDrives (s : State) (e h : Nat) : List Nat :=
  let c := s.cls (s.elemClass e)
  let x := s.elem e
  let lo := if x.on then max c.driveMin (x.inUse.release + s.marginCode) else c.driveMin
  let hi := if x.on then c.driveMax else min c.driveMax (x.inUse.pullIn - s.marginCode)
  let n := s.img.calPoints / 2
  ((List.range (2 * n + 1)).map fun (k : Nat) => (h : Int) + ((k : Int) - n) * s.img.calStep).filterMap fun d =>
    if (lo : Int) ≤ d && d ≤ hi then some d.toNat else none

/-- The queued run `r` begins with drives `ds` (R228 step 1): the element's loop pauses, the first drive goes out. -/
def beginRun (s : State) (r : CalRun) (ds : List Nat) : State :=
  let x := s.elem r.target
  let runs := s.calib.runs.map fun q =>
    if q = r then { q with running := true, timeout := none, hold := x.drive, todo := ds, measured := [], pullIn := none }
    else q
  let s1 := ({ s with calib := { s.calib with runs } }).setElem r.target { x with paused := true }
  match ds with
  | d :: _ => s1.down r.tile "CAL_POINT" [r.target % 1024, d]
  | [] => s1

/-- The queued run of a kind on an element. -/
def State.queuedRun (s : State) (k : RunKind) (target : Nat) : Option CalRun :=
  s.calib.runs.find? fun r => !r.running && r.kind == k && r.target == target

/-- CAL_MICRO_RUN (R228): a run whose every trial drive would be outside the limits does not begin. -/
def execCalMicroRun (eid : Nat) (s : State) : Host.Outcome State Fault Refusal :=
  match s.queuedRun .micro eid with
  | some r =>
    let ds := s.microDrives eid (s.elem eid).drive
    if s.runsNext r && !ds.isEmpty then ok s (beginRun s r ds) else .next s
  | none => .next s

/-- CAL_FULL_RUN (R229): the drive rises from DRIVE_MIN. -/
def execCalFullRun (eid : Nat) (s : State) : Host.Outcome State Fault Refusal :=
  match s.queuedRun .full eid with
  | some r => if s.runsNext r then ok s (beginRun s r [(s.cls (s.elemClass eid)).driveMin]) else .next s
  | none => .next s

/-! ## Results (R233, R234) -/

/-- Each sense rises with the drive on every step (Table 8-3, code 3), whichever way the steps go. -/
def monotonic : List (Nat × Nat) → Bool
  | a :: b :: r => (if a.1 < b.1 then a.2 < b.2 else b.2 < a.2) && monotonic (b :: r)
  | _ => true

/-- The line through two points at a drive, times their distance. -/
def overLine (p q : Nat × Nat) (d s margin : Nat) : Bool :=
  -- above the line through p and q by more than margin, for p.1 < q.1
  let step : Int := (q.1 : Int) - p.1
  ((q.2 : Int) - p.2) * ((d : Int) - q.1) + ((q.2 : Int) + margin) * step < (s : Int) * step

/-- The batches of a run with a count changed. -/
def countBatches (s : State) (r : CalRun) (f : CalBatch → CalBatch) : State :=
  { s with calib := { s.calib with
      batches := s.calib.batches.map fun b => if r.batches.contains b.id then f b else b } }

/-- A run of an element has ended: it leaves the queue, the loop goes on, supervision resumes FE_BLANK later; the class
has had a run at this temperature (R226, R228). -/
def leaveRun (s : State) (r : CalRun) (code : Nat) : State :=
  let e := r.target
  let temp := (s.link r.tile).temp
  let s1 := { s with calib := { s.calib with
    runs := s.calib.runs.filter (· ≠ r)
    classTemp := tabSet s.calib.classTemp (64 * r.tile + s.elemClass e) temp } }
  s1.modElem e fun x => { x with
    paused := false
    supervised := false
    blankEnd := some (s.dt + (s.bankOf e).feBlank * usTicks)
    calLast := code
    calLastTemp := temp }

/-- A result that fails a check (R233): the old values stay, S1, the count of failures; the third in a row makes the
element SUSPECT. -/
def failRun (s : State) (r : CalRun) (code : Nat) : State :=
  let s1 := countBatches (leaveRun s r code) r fun b => { b with failed := b.failed + 1 }
  let s2 := { s1 with calib := { s1.calib with failed := satInc s1.calib.failed 0xFFFF } }
  let x := s2.elem r.target
  let third := x.calFails = 2
  let s3 := s2.setElem r.target { x with
    calFails := if third then 0 else x.calFails + 1
    events := if third && x.st ≠ .uncal && x.st ≠ .retired then x.events ++ [.suspect] else x.events }
  s3.report 0x0044 srcSmu r.target code

/-- A run passes: it leaves, and is counted. -/
def countPass (s : State) (r : CalRun) : State :=
  let s1 := countBatches (leaveRun s r 0) r fun b => { b with passed := b.passed + 1 }
  { s1 with calib := { s1.calib with passed := satInc s1.calib.passed 0xFFFF } }

/-- The rows that a passing run gave are in force (R231, R234). -/
def takePass (s : State) (r : CalRun) : State :=
  let e := r.target
  (takeSurface s e (s.surfaceOf e (s.link r.tile).temp)).modElem e fun x => { x with
    calFails := 0, entryValid := true, events := x.events ++ [.calPass] }

/-- What a passing micro run changes (R234). -/
def microRows (r : CalRun) (s : State) : State :=
  let temp := (s.link r.tile).temp
  let d : Int := (Config.fitSense r.measured r.hold : Int) - s.surfaceSense r.target temp r.hold
  let s1 := setRows s r.target temp 6 (Config.fitInvSlope r.measured)
  shiftRows (shiftRows s1 r.target temp 0 d) r.target temp 1 d

/-- A micro run has its points (Table 8-3, codes 3 and 4). -/
def endMicro (s : State) (r : CalRun) : State :=
  if !monotonic r.measured then failRun s r 3
  else if s.img.calResid < Config.fitResidual r.measured then failRun s r 4
  else takePass (microRows r (countPass s r)) r

/-- The two branches of a full run, less the points at which it coupled and released. -/
def CalRun.branches (r : CalRun) : List (Nat × Nat) × List (Nat × Nat) :=
  let n := r.pullIn.getD r.measured.length
  (r.measured.take n, (r.measured.drop n).dropLast)

/-- What a passing full run changes (R234): PULL_IN, RELEASE, D_ON, the curve; all of the surface of an element that
had none. -/
def fullRows (r : CalRun) (pull rel : Nat) (s : State) : State :=
  let e := r.target
  let temp := (s.link r.tile).temp
  let had := (s.elem e).entryValid
  let s1 := setRows (setRows (setRows s e temp 4 pull) e temp 5 rel) e temp 2 (Config.fullRunValue 0 r.measured)
  let (lo, hi, _) := bracket temp
  let s2 := { s1 with calib := { s1.calib with
    curves := tabSet (tabSet s1.calib.curves (32 * e + lo) r.measured) (32 * e + hi) r.measured } }
  if had then s2
  else
    let s3 := setRows (setRows s2 e temp 0 (Config.fullRunValue 1 r.measured)) e temp 1 (Config.fullRunValue 2 r.measured)
    setRows (setRows s3 e temp 3 (Config.fullRunValue 3 r.measured)) e temp 6 (Config.fitInvSlope r.branches.1)

/-- A full run has found its release, or the end of its range (Table 8-3). -/
def endFull (s : State) (r : CalRun) (released : Bool) : State :=
  let x := s.elem r.target
  let old := x.inUse.pullIn
  match r.pullIn with
  | none => failRun s r 1
  | some n =>
    let pull := (r.measured.getD n (0, 0)).1
    let rel := (r.measured.getLastD (0, 0)).1
    if x.entryValid && s.img.plaus * old < 400 * absN ((pull : Int) - old) then failRun s r 1
    else if !released || pull ≤ rel then failRun s r 2
    else if !(monotonic r.branches.1 && monotonic r.branches.2) then failRun s r 3
    else if s.img.calResid < Config.fitResidual r.branches.1 || s.img.calResid < Config.fitResidual r.branches.2 then
      failRun s r 4
    else takePass (fullRows r pull rel (countPass s r)) r

/-- The next drive of a full run after the point `(d, v)` (R229): none when it has ended, and whether by release. -/
def State.fullNext (s : State) (r : CalRun) : Option Nat × Option Nat × Bool :=
  let c := s.cls (s.elemClass r.target)
  let l := r.measured
  let (d, v) := l.getLastD (0, 0)
  let margin := 16 * s.img.calResid
  match r.pullIn with
  | none =>
    let n := l.length - 1
    if 2 ≤ n && overLine (l.getD (n - 2) (0, 0)) (l.getD (n - 1) (0, 0)) d v margin then
      if c.driveMin + s.img.calStep ≤ d then (some (d - s.img.calStep), some n, false) else (none, some n, false)
    else if d + s.img.calStep ≤ min c.driveMax 0xFFFF then (some (d + s.img.calStep), none, false)
    else (none, none, false)
  | some n =>
    if !overLine (l.getD (n - 2) (0, 0)) (l.getD (n - 1) (0, 0)) d v margin then (none, some n, true)
    else if c.driveMin + s.img.calStep ≤ d then (some (d - s.img.calStep), some n, false)
    else (none, some n, false)

/-- A run goes on with drive `d`. -/
def nextPoint (s : State) (old new : CalRun) (d : Nat) : State :=
  State.down { s with calib := { s.calib with runs := s.calib.runs.map fun q => if q = old then new else q } }
    old.tile "CAL_POINT" [old.target % 1024, d]

/-- CAL_SENSE_RECEIVE (R228, R229, R233): a point's mean sense; the next point, or the end of the run. The tile has
restored the hold drive once the last mean is out. -/
def execCalSenseReceive (tile elem sense : Nat) (s : State) : Host.Outcome State Fault Refusal :=
  let e := 1024 * tile + elem
  match s.calib.runs.find? fun r => r.running && r.kind != .channel && r.target == e with
  | none => .next s
  | some r =>
    match r.todo with
    | [] => .next s
    | d :: rest =>
      let s0 := s.modTile tile fun x => { x with trial := if (x.trial.map (·.1)) = some elem then none else x.trial }
      let r1 := { r with measured := r.measured ++ [(d, sense)], todo := rest }
      -- the run as the queue holds it, so that its end removes it
      let close := fun (r2 : CalRun) =>
        { s0 with calib := { s0.calib with runs := s0.calib.runs.map fun q => if q = r then r2 else q } }
      if r.kind == .micro then
        match rest with
        | d2 :: _ => ok s (nextPoint s0 r r1 d2)
        | [] => ok s (endMicro (close r1) r1)
      else
        let (next, pull, released) := s.fullNext r1
        match next with
        | some d2 => ok s (nextPoint s0 r { r1 with todo := [d2], pullIn := pull } d2)
        | none =>
          let r2 := { r1 with pullIn := pull }
          ok s (endFull (close r2) r2 released)

/-! ## Channel runs (R236) -/

/-- A channel's quantity key: 16 × channel + quantity, the actuator path as channel 8. -/
def keyChannel (k : Nat) : Nat := k / 16

/-- The gain and offset of a quantity in service: 1.0 and 0 where the record gives none (R223). -/
def tilePair (r : CalTileRec) (k : Nat) : Int × Int :=
  match r.pairs.find? fun p => p.1 = k with
  | some p => p.2
  | none => (16384, 0)

/-- A pair passes: GAIN within 2 % of the old, OFFSET within 0.5 % of the full scale of 30,000 (R236). -/
def pairOk (old new : Int × Int) : Bool :=
  decide (50 * absN (new.1 - old.1) ≤ absN old.1) && decide (absN new.2 ≤ 150)

/-- The port channel is one of a LIT connection. -/
def State.litChannel (s : State) (t c : Nat) : Bool :=
  c < 8 && match s.img.portOfMonitor (8 * t + c) with
    | none => false
    | some (inp, r) =>
      match (if inp then s.conn r.port else (connOfOut s.store.table r.port).map (·.2)) with
      | some k => (clauseOf k.clause).lit
      | none => false

/-- CAL_CHANNEL_RUN (R236): the channels are connected to the bus in turn and measured; `fits` are the fitted pairs. -/
def execCalChannelRun (tile : Nat) (fits : List (Nat × Int × Int)) (s : State) : Host.Outcome State Fault Refusal :=
  match s.queuedRun .channel tile with
  | none => .next s
  | some r =>
    if !s.working || s.loops.throttled || !s.tileReach tile || s.smu.bus ≠ .nobody then .next s
    else if s.smu.busFault then
      let s1 := countBatches s r fun b => { b with deferred := b.deferred + 1 }
      ok s { s1 with calib := { s1.calib with
        runs := s1.calib.runs.filter (· ≠ r)
        deferred := satInc s1.calib.deferred 0xFFFF } }
    else
      let chans := (List.range 9).filter fun c => !s.litChannel tile c
      let skipped := decide (chans.length < 9)
      let used := fits.filter fun f => chans.contains (keyChannel f.1)
      let old := s.tileRec tile
      let good := used.filter fun f => pairOk (tilePair old f.1) f.2
      let new := good.foldl (fun (l : List (Nat × Int × Int)) f => (l.filter fun p => p.1 ≠ f.1) ++ [f]) old.pairs
      let s1 := chans.foldl (fun (s : State) c => (s.down tile "SMU_BUS" [c, 1]).down tile "SMU_BUS" [c, 0]) s
      let pass := good.length = used.length
      let s2 := countBatches s1 r fun b =>
        { b with passed := b.passed + (if pass then 1 else 0), failed := b.failed + (if pass then 0 else 1),
                 skipped := b.skipped + b2n skipped }
      let c := s2.calib
      let s3 := { s2 with calib := { c with
        runs := c.runs.filter (· ≠ r)
        tiles := tabSet c.tiles tile { pairs := new, lastTemp := (s.link tile).temp }
        passed := if pass then satInc c.passed 0xFFFF else c.passed
        failed := if pass then c.failed else satInc c.failed 0xFFFF } }
      let s4 := if skipped then queueRun none none s3 (.channel, tile) else s3
      ok s (if pass then s4 else s4.report 0x0044 srcSmu tile 0)

/-! ## The ends of batches, path loss -/

/-- The run has waited longer than its TIMEOUT. -/
def CalRun.timedOut (r : CalRun) (t : Nat) : Bool :=
  !r.running && (match r.timeout with
    | some ms => decide (r.queued + ms * msTicks ≤ t)
    | none => false)

/-- CAL_TIMEOUT (R227): runs of the batch that have not begun end DEFERRED. -/
def execCalTimeout (batch : Nat) (s : State) : Host.Outcome State Fault Refusal :=
  let gone := s.calib.runs.filter fun r => r.timedOut s.dt && r.batches.contains batch
  if gone.isEmpty then .next s
  else
    let bs := s.calib.batches.map fun b =>
      let n := (gone.filter fun r => r.batches.contains b.id).length
      { b with deferred := b.deferred + n }
    let left := s.calib.runs.filter fun r => !gone.contains r
    ok s { s with calib := { s.calib with
      runs := left
      batches := bs
      deferred := satAdd s.calib.deferred gone.length 0xFFFF } }

/-- The end code of a batch (R240, Table 7-6). -/
def CalBatch.code (b : CalBatch) : Nat := if b.lost then endLost else if b.deferred ≠ 0 then endDeferred else endDone

/-- CAL_DONE_POST (R240): the last run of the verb has ended. -/
def execCalDonePost (batch : Nat) (s : State) : Host.Outcome State Fault Refusal :=
  match s.calib.batches.find? fun b => b.id = batch with
  | none => .next s
  | some b =>
    if (s.calib.runs.any fun r => r.batches.contains batch) then .next s
    else
      let s1 := { s with calib := { s.calib with batches := s.calib.batches.filter fun x => x.id ≠ batch } }
      let body := b.passed + 2 ^ 32 * b.failed + 2 ^ 64 * b.skipped + 2 ^ 96 * b.aborted + 2 ^ 128 * b.deferred
      ok s (s1.event b.src { kind := 6, tag := b.tag, status := b.code, time := s.now, body })

/-- PATH_LOSS_UPDATE (R232): once per second for a LIT connection with monitor channels at both ports. -/
def execPathLossUpdate (inPort : Nat) (s : State) : Host.Outcome State Fault Refusal :=
  match s.conn inPort with
  | none => .next s
  | some k =>
    let c := clauseOf k.clause
    match (s.img.inPort inPort).bind (·.monitor), (s.img.outPort c.outPort).bind (·.monitor) with
    | some mi, some mo =>
      if !c.lit || !s.working then .next s
      else
        let power := fun m => Config.dbm (s.monitor m).current (s.img.losOf m).respMil
        let es := c.eids s.img.stages
        let sum := s.pathCost es
        let new := es.map fun e => (e, Config.pathLoss (s.ilEst e) sum (power mi) (power mo))
        ok s (new.foldl (fun (s : State) x => s.modElem x.1 fun y => { y with ilEst := some x.2 }) s)
    | _, _ => .next s

end Sys2Proof.Machine
end

