-- ==== Sys2Proof/Machine/TileEnds.lean ====
section
/-! DEFINITION. The tile ends of the links: what a PT-1032 does with the frames it receives (R47, R153, R253 to R260,
R264, R269 to R271). -/

namespace Sys2Proof.Machine

/-! ## Shared operations -/

/-- The token value of an upstream port. -/
def portToken (portB : Bool) : Token := if portB then .b else .a

/-- The tile acts on drive, slot, COMMIT, CMD, SMU and TBEACON frames of the port that holds its token (R269). -/
def Tile.obeys (x : Tile) (portB : Bool) : Bool := x.token == portToken portB

/-- The port of the owner. -/
def Tile.ownerPort (x : Tile) : Bool := x.token == .b

/-- A command frame from a port: acted on only from the owner's. -/
def tileCmd (s : State) (t : Nat) (portB : Bool) (f : State → State) : Host.Outcome State Fault Refusal :=
  if (s.tile t).obeys portB then ok s (f s) else .next s

/-- CMD_ACK of the tile (Table 9-4). -/
def cmdAck (s : State) (t : Nat) (portB : Bool) (opcode : Nat) (good : Bool) (slot : Nat) : State :=
  s.up t portB "CMD_ACK" [opcode, b2n good, slot]

/-- An EVENT frame goes out on every upstream port whose link is ACTIVE (R399). Of the two links the model holds this
controller's; the other port's frame always leaves. -/
def tileEvent (s : State) (t : Nat) (fields : List Nat) : State :=
  let l := s.link t
  let s1 := if l.state == .active then s.up t l.portB "EVENT" fields else s
  s1.up t (!l.portB) "EVENT" fields

/-- The tile's local time (R260). -/
def State.tileTime (s : State) (t : Nat) : Nat :=
  let x := s.tile t
  match x.beaconAt with
  | some a => x.time + (s.dt - a)
  | none => x.time

/-- The tile has had a TBEACON within 64 commas (R260). -/
def State.tileTimed (s : State) (t : Nat) : Bool :=
  match (s.tile t).beaconAt with
  | some a => s.dt ≤ a + 64 * usTicks
  | none => false

/-- Drive code that a tile holds for an element (R47). -/
def Tile.heldCode (x : Tile) (e : Nat) : Nat := tabGet x.held 0 e

/-- A point of a class's shape in Q2.14, as loaded, else linear (Table 5-2). -/
def Tile.shapePoint (x : Tile) (cls : Nat) (off : Bool) (i : Nat) : Int :=
  tabGet x.shapes (512 * (i + 1)) (64 * cls + 32 * b2n off + i)

/-- Drive of point `i` of a shape that plays (R153). -/
def State.shapeDrive (s : State) (x : Tile) (p : Playing) (i : Nat) : Nat :=
  let c := s.cls p.cls
  let d : Int := p.d0 + roundDiv (x.shapePoint p.cls p.off i * ((p.d1 : Int) - p.d0)) 16384
  (clampInt c.driveMin c.driveMax d).toNat

/-- Index of the shape point that is applied at device time `t`: one every 50 ns (R153). -/
def Playing.pointAt (p : Playing) (t : Nat) : Nat := min 31 ((t - p.start) * 4 / 250)

/-- The drive that the tile applies to an element now: the point of a shape that plays, else the held code. -/
def State.tileDrive (s : State) (t e : Nat) : Nat :=
  let x := s.tile t
  match x.playing.find? fun p => p.elem = e with
  | some p => s.shapeDrive x p (p.pointAt s.dt)
  | none => x.heldCode e

/-- The drive shape of an element of a tile has ended: the tile holds drive(31), and the loop cell takes it as the
element's present drive, with a handover due (R153, R154). -/
def endShape (s : State) (t e : Nat) : State :=
  let x := s.tile t
  match x.playing.find? fun p => p.elem = e with
  | none => s
  | some p =>
    let d := s.shapeDrive x p 31
    let s1 := s.setTile t { x with
      held := tabSet x.held e d
      playing := x.playing.filter fun q => q.elem ≠ e }
    s1.modElem (1024 * t + e) fun y => { y with drive := d, shaping := false, handoverDue := true }

/-! ## Launches at the tile (R254, R255) -/

/-- TILE_COMMIT_RECEIVE (R254): the launch time is the first tick that ends in TIME, within 26.2 µs. -/
def execTileCommitReceive (tile : Nat) (portB : Bool) (serial : Serial) (slot time : Nat) (s : State) :
    Host.Outcome State Fault Refusal :=
  tileCmd s tile portB fun s =>
    let d := (time + 65536 - s.tileTime tile % 65536) % 65536
    if s.tileTimed tile && d ≤ 32768 then
      s.modTile tile fun x => { x with launches := x.launches ++ [(serial, slot, s.dt + d)] }
    else s.up tile portB "COMMIT" [serial.toNat, 0]

/-- One slot entry at the launch time (R255): the shape starts from the drive that the tile holds at the latch. -/
def applyEntry (t : Nat) (serial : Serial) (tick : Nat) (s : State) (n : SlotEntry) : State :=
  let x := s.tile t
  let e := n.1
  if actsOver serial tick (tabGet x.serials none e) then
    let d0 := match x.playing.find? fun p => p.elem = e with
      | some p => s.shapeDrive x p (p.pointAt tick)
      | none => x.heldCode e
    let d1 := 64 * n.2
    let p : Playing := { elem := e, start := tick, d0, d1, off := d1 < d0, cls := tabGet x.classes 0 e }
    s.setTile t { x with
      serials := tabSet x.serials e (some (serial, tick))
      playing := (x.playing.filter fun q => q.elem ≠ e) ++ [p]
      trial := if (x.trial.map (·.1)) = some e then none else x.trial
      actuator := if x.actuator = some e then none else x.actuator }
  else s

/-- TILE_LATCH (R255): at the launch time each newer entry acts, the latch report leaves, LAST_SERIAL follows. -/
def execTileLatch (tile : Nat) (serial : Serial) (s : State) : Host.Outcome State Fault Refusal :=
  let x := s.tile tile
  match x.launches.find? fun l => l.1 = serial && l.2.2 ≤ s.dt with
  | none => .next s
  | some (_, slot, tick) =>
    let s1 := (tabGet x.slots [] slot).foldl (applyEntry tile serial tick) s
    let s2 := s1.modTile tile fun y => { y with
      launches := y.launches.filter fun l => l.1 ≠ serial
      lastSerial := if actsOver serial tick (x.lastSerialAt.map fun u => (x.lastSerial, u)) then serial else x.lastSerial
      lastSerialAt := if actsOver serial tick (x.lastSerialAt.map fun u => (x.lastSerial, u)) then some tick
                      else x.lastSerialAt }
    ok s (s2.up tile x.ownerPort "COMMIT" [serial.toNat, 1])

/-- DRIVE_SHAPE_END (R153): 1.6 µs after the launch. -/
def execDriveShapeEnd (tile elem : Nat) (s : State) : Host.Outcome State Fault Refusal :=
  match (s.tile tile).playing.find? fun p => p.elem = elem with
  | some p => if p.start + 2000 ≤ s.dt then ok s (endShape s tile elem) else .next s
  | none => .next s

/-! ## Slots (R253) -/

/-- SLOT_OPEN (R253). -/
def execSlotOpen (tile : Nat) (portB : Bool) (slot count : Nat) (s : State) : Host.Outcome State Fault Refusal :=
  tileCmd s tile portB fun s => s.modTile tile fun x => { x with filling := some (slot, count, []) }

/-- DRIVE_SLOT_FRAME (R253): two entries, one in the last frame of an odd count; the last entry replaces the slot. -/
def execDriveSlotFrame (tile : Nat) (portB : Bool) (elem0 d0 elem1 d1 : Nat) (s : State) :
    Host.Outcome State Fault Refusal :=
  tileCmd s tile portB fun s =>
    match (s.tile tile).filling with
    | none => s
    | some (slot, count, l) =>
      let l1 := (l ++ [(elem0, d0), (elem1, d1)]).take count
      if l1.length < count then s.modTile tile fun x => { x with filling := some (slot, count, l1) }
      else cmdAck (s.modTile tile fun x => { x with filling := none, slots := tabSet x.slots slot l1 }) tile portB 0x01 true slot

/-! ## Loop traffic (R258, R259) -/

/-- Elements of a tile that its mirror has due in comma `c` (R137, R258). -/
def Tile.dueIn (x : Tile) (t c : Nat) : List Nat :=
  (List.range 1024).filter fun e =>
    tabGet x.fast false e || (c + (1024 * t + e)) % max 1 (tabGet x.divs 50 (tabGet x.classes 0 e)) = 0

/-- A DRIVE frame whose codes apply at device time `t`: the first one of a new owner ends the gap of R410, in µs. -/
def noteGap (s : State) (tile t : Nat) : State :=
  let x := s.tile tile
  let g := min 255 ((t - x.driveAt) / usTicks)
  let s1 := s.setTile tile { x with driveAt := t, gapOpen := false }
  if !x.gapOpen then s1
  else { s1 with mate := { s1.mate with gapLast := max s1.mate.gapLast g, gapMax := max s1.mate.gapMax g } }

/-- TILE_DRIVE_FRAME (R139, R258): the codes of a comma that has not begun, one for each element that the mirror has due
for an update in the comma before; otherwise the frame is discarded and a schedule mismatch is sent. -/
def execTileDriveFrame (tile : Nat) (portB : Bool) (comma : Nat) (codes : List Nat) (s : State) :
    Host.Outcome State Fault Refusal :=
  tileCmd s tile portB fun s =>
    let es := (s.tile tile).dueIn tile (comma - 1)
    if es.length = codes.length && s.dt < comma * usTicks then
      noteGap (s.modTile tile fun x => { x with codesDue := some (comma, es.zip codes) }) tile (comma * usTicks)
    else tileEvent s tile [4, 0, 0]

/-- SET_CLASS (R256, R258). -/
def execSetClass (tile : Nat) (portB : Bool) (elem cls : Nat) (all : Bool) (s : State) : Host.Outcome State Fault Refusal :=
  tileCmd s tile portB fun s =>
    cmdAck (s.modTile tile fun x => { x with
      classes := if all then (List.range 1024).map fun e => (e, cls) else tabSet x.classes elem cls }) tile portB 0x03 true 0

/-- SET_FAST (R258): from the comma of effect on. -/
def execSetFast (tile : Nat) (portB : Bool) (elem : Nat) (fast : Bool) (comma : Nat) (s : State) :
    Host.Outcome State Fault Refusal :=
  tileCmd s tile portB fun s =>
    cmdAck (s.modTile tile fun x => { x with mirrorDue := x.mirrorDue ++ [(false, elem, b2n fast, comma)] })
      tile portB 0x04 true 0

/-- CLASS_DIV (R258): from the comma of effect on. -/
def execClassDiv (tile : Nat) (portB : Bool) (cls div comma : Nat) (s : State) : Host.Outcome State Fault Refusal :=
  tileCmd s tile portB fun s =>
    cmdAck (s.modTile tile fun x => { x with mirrorDue := x.mirrorDue ++ [(true, cls, div, comma)] }) tile portB 0x05 true 0

/-- SHAPE_LOAD (R153): one point of a class's shape. -/
def execShapeLoad (tile : Nat) (portB : Bool) (cls : Nat) (off : Bool) (point : Nat) (value : Int) (s : State) :
    Host.Outcome State Fault Refusal :=
  tileCmd s tile portB fun s =>
    cmdAck (s.modTile tile fun x => { x with shapes := tabSet x.shapes (64 * cls + 32 * b2n off + point) value })
      tile portB 0x06 true 0

/-- SET_EPOCH (R265): the tile takes the new EPOCH. -/
def execSetEpoch (tile : Nat) (portB : Bool) (epoch : Nat) (s : State) : Host.Outcome State Fault Refusal :=
  tileCmd s tile portB fun s => cmdAck (s.modTile tile fun x => { x with epoch }) tile portB 0x07 true 0

/-- SET_SHARE (R247): applied from the next comma boundary on. -/
def execSetShare (tile : Nat) (portB : Bool) (shares : Shares) (s : State) : Host.Outcome State Fault Refusal :=
  tileCmd s tile portB fun s => cmdAck (s.modTile tile fun x => { x with sharesDue := some shares }) tile portB 0x08 true 0

/-- A mirror change whose comma has come (R258). -/
def applyMirror (x : Tile) (m : Bool × Nat × Nat × Nat) : Tile :=
  if m.1 then { x with divs := tabSet x.divs m.2.1 m.2.2.1 } else { x with fast := tabSet x.fast m.2.1 (m.2.2.1 != 0) }

/-- What a tile takes up at the start of comma `c`: mirror changes, shares, codes (R139, R247, R258). A shape that
plays, a trial and the actuator path keep their elements. -/
def Tile.comma (x : Tile) (c : Nat) : Tile :=
  let (now, later) := x.mirrorDue.partition fun m => m.2.2.2 ≤ c
  let y := now.foldl applyMirror { x with mirrorDue := later, shares := x.sharesDue.getD x.shares, sharesDue := none }
  match y.codesDue with
  | some (k, l) =>
    if k ≤ c then
      { y with codesDue := none
               held := l.foldl (fun h p => if y.playing.any fun q => q.elem = p.1 then h else tabSet h p.1 p.2) y.held }
    else y
  | none => y

/-! ## Points, trials, the calibration bus at the tile (R207, R210, R213, R220, R228) -/

/-- TILE_ABORT (R210, R430): a point or a run on the element ends and its hold DAC is connected again; a monitor
channel's point ends. -/
def execTileAbort (tile : Nat) (portB : Bool) (elem : Nat) (s : State) : Host.Outcome State Fault Refusal :=
  tileCmd s tile portB fun s => s.modTile tile fun x => { x with
    trial := if x.trial.map (·.1) = some elem then none else x.trial
    actuator := if x.actuator = some elem then none else x.actuator
    pointOn := match x.pointOn with
      | some (c, e) => if (c = 8 && e = elem) || (c < 8 && c = elem) then none else some (c, e)
      | none => none }

/-- POINT_WORD (R213). -/
def execPointWord (tile : Nat) (portB : Bool) (word : Nat) (value : Word32) (s : State) : Host.Outcome State Fault Refusal :=
  tileCmd s tile portB fun s => s.modTile tile fun x =>
    { x with pointWords := (x.pointWords.filter fun p => p.1 ≠ word) ++ [(word, value)] }

/-- POINT_GO (R207, R213): the point starts; channel 8 is the actuator path, connected to the element. -/
def execPointGo (tile : Nat) (portB : Bool) (channel elem _downCount : Nat) (s : State) : Host.Outcome State Fault Refusal :=
  tileCmd s tile portB fun s => s.modTile tile fun x =>
    { x with pointOn := some (channel, elem), actuator := if channel = 8 then some elem else x.actuator }

/-- CAL_POINT (R228): one trial drive; the hold code stays. -/
def execCalPoint (tile : Nat) (portB : Bool) (elem drive : Nat) (s : State) : Host.Outcome State Fault Refusal :=
  tileCmd s tile portB fun s => s.modTile tile fun x => { x with trial := some (elem, drive) }

/-- SMU_BUS (R220). -/
def execSmuBus (tile : Nat) (portB : Bool) (channel : Nat) (connect : Bool) (s : State) : Host.Outcome State Fault Refusal :=
  tileCmd s tile portB fun s => s.modTile tile fun x =>
    { x with busChannel := if connect then some channel else if x.busChannel = some channel then none else x.busChannel }

/-! ## Reading back, time (R260, R264) -/

/-- READBACK frame `k`: held codes of 64 elements. -/
def readbackPart (x : Tile) (k : Nat) : List Nat := k :: (List.range 64).map fun j => x.heldCode (64 * k + j)

/-- READBACK_REQ (R264): answered by 16 READBACK frames, from either port. -/
def execReadbackReq (tile : Nat) (portB : Bool) (s : State) : Host.Outcome State Fault Refusal :=
  ok s ((List.range 16).foldl (fun s k => s.up tile portB "READBACK" (readbackPart (s.tile tile) k)) s)

/-- TBEACON_RECEIVE (R260). -/
def execTbeaconReceive (tile : Nat) (portB : Bool) (time : Nat) (s : State) : Host.Outcome State Fault Refusal :=
  tileCmd s tile portB fun s => s.modTile tile fun x => { x with time := time % 2 ^ 41, beaconAt := some s.dt }

/-- TBEACON_LOSS (R260): after 64 commas without one, every COMMIT is answered with LATCHED = 0. -/
def execTbeaconLoss (tile : Nat) (s : State) : Host.Outcome State Fault Refusal :=
  if s.tileTimed tile then .next s else ok s (s.modTile tile fun x => { x with beaconAt := none })

/-! ## Ownership (R269, R270) -/

/-- No HBEAT has come from the owner's port for 30 µs. -/
def State.ownerSilent (s : State) (x : Tile) : Bool :=
  match (if x.ownerPort then x.hbeatB else x.hbeatA) with
  | some a => a + 30 * usTicks < s.dt
  | none => true

/-- The HBEAT time of a port. -/
def Tile.beat (x : Tile) (portB : Bool) (t : Option Nat) : Tile :=
  if portB then { x with hbeatB := t } else { x with hbeatA := t }

/-- A CLAIM is granted (R269). -/
def State.grants (s : State) (x : Tile) (portB : Bool) : Bool :=
  x.token == .none || x.obeys portB || s.ownerSilent x

/-- The token-lost EVENT to a former owner: at once, but to this controller's port only while its link is ACTIVE. -/
def tellLost (s : State) (t : Nat) : State :=
  let x := s.tile t
  match x.lostTo with
  | .none => s
  | k =>
    let pb := k == .b
    if pb = (s.link t).portB && (s.link t).state ≠ .active then s
    else (s.setTile t { x with lostTo := .none }).up t pb "EVENT" [6, 0, 0]

/-- CLAIM (R269): granted, the token changes; the new owner's 30 µs begin at the grant, so that only the first claim
after an expiry is granted. -/
def execClaim (tile : Nat) (portB : Bool) (s : State) : Host.Outcome State Fault Refusal :=
  let x := s.tile tile
  if s.grants x portB then
    let lost := if x.token = .none || x.obeys portB then x.lostTo else x.token
    let y := (if x.obeys portB then x else x.beat portB (some s.dt))
    ok s (tellLost (cmdAck (s.setTile tile { y with token := portToken portB, lostTo := lost }) tile portB 0x0A true 0) tile)
  else ok s (cmdAck s tile portB 0x0A false 0)

/-- RELEASE (R269). -/
def execRelease (tile : Nat) (portB : Bool) (s : State) : Host.Outcome State Fault Refusal :=
  tileCmd s tile portB fun s => s.modTile tile fun x => { x with token := .none }

/-- HBEAT_TILE_RELAY (R270): the HBEAT of one port goes out on the other with RELAYED = 1 while that link is ACTIVE. -/
def execHbeatTileRelay (tile : Nat) (portB : Bool) (word : Word32) (s : State) : Host.Outcome State Fault Refusal :=
  let s1 := s.modTile tile fun x => x.beat portB (some s.dt)
  if !portB = (s.link tile).portB && (s.link tile).state ≠ .active then ok s s1
  else ok s (s1.up tile (!portB) "HBEAT" [1, b2n portB, word.toNat])

/-- OWNER_HBEAT_EXPIRE (R269): the next claim will be granted. -/
def execOwnerHbeatExpire (tile : Nat) (s : State) : Host.Outcome State Fault Refusal :=
  let x := s.tile tile
  if x.token ≠ .none && s.ownerSilent x then ok s (s.setTile tile (x.beat x.ownerPort none)) else .next s

/-! ## The tile log (R271) -/

/-- BULK_PULL (R271): the tile sends the burst of its log; WITHDRAWN marks the frames of a withdrawn log. The words of
the log are the tile's own. -/
def execBulkPull (tile : Nat) (portB : Bool) (offset count : Nat) (s : State) : Host.Outcome State Fault Refusal :=
  tileCmd s tile portB fun s =>
    (List.range count).foldl (fun s k =>
      let (v, s1) := s.draw
      s1.up tile portB "BULK" [k, v % 2 ^ 32, b2n (s1.tile tile).withdrawn, offset + k]) s

end Sys2Proof.Machine
end

