-- ==== Sys2Proof/Machine/SourceMeasure.lean ====
section
/-! DEFINITION. The source-measure engine: sweep lists, points, port samples, reference channels, the calibration bus,
the comparators at the tiles (chapter "Source-measure engine"). -/

namespace Sys2Proof.Machine

/-! ## Numbers -/

/-- A quotient whose rounding the spec does not state: one of its two neighbours. -/
def openDiv (n d : Int) : Int := n / d + (if n % d ≠ 0 && Config.roundsUp n d then 1 else 0)

/-- Photocurrent of a port sample in the linear current format (R192, R202): code × 10 nA × 10^range ÷ 30,000. -/
def portCurrent (code : Int) (range : Nat) : Int := openDiv (code * (2000 * 10 ^ range : Nat)) 30000

/-- Modes of Table 7-4. -/
def mFvmi : Nat := 0
def mFvmv : Nat := 1
def mFimv : Nat := 2
def mFimi : Nat := 3
def mAfvmi : Nat := 4

/-- The highest range index of a mode (Table 7-2). -/
def maxRange (mode : Nat) : Nat := if mode = mAfvmi then 3 else if mode = mFvmv || mode = mFimv then 1 else 6

/-- Settling readings of a range (Table 7-2). -/
def settling (mode range : Nat) : Nat :=
  if mode = mFvmv || mode = mFimv then 2
  else match range with
    | 0 => 16
    | 1 => 8
    | 2 => 4
    | _ => 2

/-- Full scale of a range in the value format of the mode (Tables 7-2 and 7-3). -/
def fullScale (mode range : Nat) : Nat :=
  (if mode = mFvmv || mode = mFimv || mode = mAfvmi then 1000000 else 2000) * 10 ^ range

/-! ## Points -/

/-- Table 7-4 and R198 for one point record. -/
def pointOk (p : PointRec) : Bool :=
  !p.reservedBad && p.mode ≤ 4 && p.policy ≠ 3 && p.range ≤ maxRange p.mode &&
    1 ≤ p.samples && p.samples ≤ 4096 && p.dwell ≤ 1000000 &&
    (p.mode == mAfvmi || (!p.rel && !p.fullRange)) && (p.mode != mAfvmi || !p.useBias) &&
    p.compliance ≠ 0 &&
    p.compliance ≤ (if p.mode = mAfvmi then 1000000000 else if p.mode = mFvmi || p.mode = mFvmv then 2000000000 else 10000000) &&
    (if p.mode = mAfvmi then true
     else if p.mode = mFvmi || p.mode = mFvmv then decide (-10000000 ≤ p.force) && decide (p.force ≤ 10000000)
     else decide (-2000000000 ≤ p.force) && decide (p.force ≤ 2000000000))

/-- The four words of a point record (Table 7-4). -/
def pointWordsOf (p : PointRec) : List Nat :=
  [p.mode + 8 * b2n p.rel + 16 * b2n p.useBias + 32 * b2n p.fullRange + 256 * (p.range + 8 * p.policy) + 65536 * p.samples,
   unsign p.force 32, p.compliance, p.dwell]

/-- A point record from its four words. -/
def pointOf (ws : List Word32) : PointRec :=
  let w := fun k => (ws.getD k 0).toNat
  { mode := bits (w 0) 0 3
    rel := bit (w 0) 3
    useBias := bit (w 0) 4
    fullRange := bit (w 0) 5
    range := bits (w 0) 8 3
    policy := bits (w 0) 11 2
    samples := bits (w 0) 16 16
    force := signed (w 1) 32
    compliance := w 2
    dwell := w 3
    reservedBad := bits (w 0) 6 2 ≠ 0 || bits (w 0) 13 3 ≠ 0 }

/-- The readings of a point as the tile keeps them (R194, R195, R196, R213). -/
structure Taking where
  range   : Nat
  settle  : Nat := 0
  low     : Nat := 0
  passed  : Nat := 0
  kept    : List (Int × Nat) := []
  changes : Nat := 0
  clamped : Bool := false
  deriving DecidableEq, Repr

/-- The point has its readings: SAMPLES kept, or 2 × SAMPLES + 64 passed. -/
def Taking.full (k : Taking) (n : Nat) : Bool := decide (n ≤ k.kept.length) || decide (2 * n + 64 ≤ k.passed)

/-- One reading. -/
def Taking.step (p : PointRec) (down : Nat) (k : Taking) (r : Reading) : Taking :=
  if k.full p.samples then k
  else
    let c := clampInt (-32767) 32767 r.code
    let k1 := { k with passed := k.passed + 1, clamped := k.clamped || r.clamped }
    if k.settle ≠ 0 then { k1 with settle := k.settle - 1 }
    else if p.policy ≠ 0 && 28500 < absN c && k.range < maxRange p.mode then
      { k1 with range := k.range + 1, settle := settling p.mode (k.range + 1), changes := k.changes + 1 }
    else
      let k2 := { k1 with kept := k.kept ++ [(c, k.range)] }
      if p.policy = 1 && absN c < 2400 then
        if down ≤ k.low + 1 && 0 < k.range then
          { k2 with range := k.range - 1, settle := settling p.mode (k.range - 1), low := 0, changes := k.changes + 1 }
        else { k2 with low := k.low + 1 }
      else { k2 with low := 0 }

/-- The readings of a point, from its start range on. -/
def takeReadings (p : PointRec) (down : Nat) (rs : List Reading) : Taking :=
  rs.foldl (Taking.step p down) { range := p.range }

/-- Result of a point: range, flags, VALUE, CODE, USED (R213, Table 7-5). -/
structure PointResult where
  range : Nat := 0
  flags : Nat := 0
  value : Int := 0
  code  : Int := 0
  used  : Nat := 0
  deriving DecidableEq, Repr

/-- Sum of the values of kept readings, in 1/30,000 of the value format. -/
def keptSum (mode : Nat) (l : List (Int × Nat)) : Int := l.foldl (fun n x => n + x.1 * fullScale mode x.2) 0

/-- The result that readings form; a mean of no readings is a free value. -/
def formResult (s : State) (p : PointRec) (k : Taking) (compliance sampling aborted : Bool) : PointResult × State :=
  let last := match k.kept.getLast? with
    | some x => x.2
    | none => k.range
  let mine := k.kept.filter fun x => x.2 = last
  let isOver := match k.kept.getLast? with
    | some x => decide (32767 ≤ absN x.1)
    | none => false
  let partial_ := decide (k.kept.length < p.samples) && !aborted
  let flags := b2n compliance + 2 * b2n sampling + 4 * b2n (0 < k.changes) + 8 * b2n isOver + 16 * b2n partial_ + 64 * b2n aborted
  if k.kept.isEmpty then
    let (v, s1) := s.draw
    let (c, s2) := s1.draw
    ({ range := last, flags, value := signed (v % 2 ^ 32) 32, code := signed (c % 2 ^ 16) 16 }, s2)
  else
    ({ range := last, flags
       value := openDiv (keptSum p.mode k.kept) (30000 * k.kept.length)
       code := openDiv (mine.foldl (fun n x => n + x.1) 0) mine.length
       used := k.kept.length }, s)

/-! ## Runs -/

/-- A run by its list number; 256 is the single-shot point. -/
def State.anyRun (s : State) (l : Nat) : Option Run := if l = singleList then s.smu.ssRun.map (·.1) else s.run l

def State.setAnyRun (s : State) (l : Nat) (r : Run) : State :=
  if l = singleList then { s with smu := { s.smu with ssRun := s.smu.ssRun.map fun x => (r, x.2) } }
  else s.setRun l (some r)

/-- The points of a run. -/
def State.runPoints (s : State) (l : Nat) : List PointRec :=
  if l = singleList then (s.smu.ssRun.map (·.2)).toList else s.list l

/-- Every run, with its list number. -/
def State.allRuns (s : State) : List (Nat × Run) :=
  (s.smu.runs.filterMap fun x => x.2.map fun r => (x.1, r)) ++ (s.smu.ssRun.map fun x => (singleList, x.1)).toList

/-- The channel or path of a run. -/
def Run.unit (r : Run) : Nat × Bool := (if r.actuator then r.tile else r.target, r.actuator)

/-- The target is the monitor channel of a port. -/
def State.portTarget (s : State) (r : Run) : Bool := !r.actuator && (s.img.portOfMonitor r.target).isSome

/-- The list may run on the target (R204, Table 7-4). -/
def State.listFits (s : State) (actuator : Bool) (target : Nat) (ps : List PointRec) : Bool :=
  if actuator then ps.all fun p => p.mode == mAfvmi
  else if (s.img.portOfMonitor target).isSome then ps.all fun p => p.mode == mFvmi && p.useBias && p.policy == 1
  else ps.all fun p => p.mode != mAfvmi && !p.useBias

/-- The target is of a placed tile. -/
def State.targetPlaced (s : State) (actuator : Bool) (target : Nat) : Bool :=
  if actuator then s.img.placedEid target else target < 2048 && s.img.placed (target / 8)

/-- DOWN_COUNT: 0 means 16. -/
def downCountOf (n : Nat) : Nat := if n = 0 then 16 else n

/-! ## The verbs (R218) -/

/-- SWEEP_LOAD: the records are read from host memory. -/
def execSweepLoad (h : Hdr) (ns : Bool) (list count addr : Nat) (s : State) : Host.Outcome State Fault Refusal :=
  let i := Instr.sweepLoad h ns list count addr
  verb s h 0x30 i fun s =>
    if (s.run list).isSome then s.fail h 0x30 stBadState else hostRead s h i addr (16 * count) ns

/-- SWEEP_LOAD once its records are known. -/
def loadList (s : State) (h : Hdr) (list : Nat) (ps : List PointRec) : State :=
  if (s.run list).isSome then s.fail h 0x30 stBadState
  else if !ps.all pointOk then s.fail h 0x30 stBadField
  else State.complete { s with smu := { s.smu with lists := tabSet s.smu.lists list ps } } h 0x30 stSuccess 0

/-- SWEEP_RUN: the run is queued. -/
def execSweepRun (h : Hdr) (compEnd actuator : Bool) (list target downCount timeoutMs resultAddr : Nat) (s : State) :
    Host.Outcome State Fault Refusal :=
  verb s h 0x31 (.sweepRun h compEnd actuator list target downCount timeoutMs resultAddr) fun s =>
    let r : Run := { target, actuator, compEnd, downCount := downCountOf downCount, timeout := timeoutMs, resultAddr,
                     src := h.src, tag := h.tag, readySince := s.dt }
    if !s.targetPlaced actuator target || !s.listFits actuator target (s.list list) then s.fail h 0x31 stBadField
    else if (s.list list).isEmpty || (s.run list).isSome || s.allRuns.any (fun x => x.2.unit == r.unit) ||
        (s.region (tileRegion r.tile)).fenced then s.fail h 0x31 stBadState
    else (s.setRun list (some r)).complete h 0x31 stSuccess 0

/-- SWEEP_STOP: the run ends STOPPED; the verb completes with it (row SWEEP_RUN_END). -/
def execSweepStop (h : Hdr) (list : Nat) (s : State) : Host.Outcome State Fault Refusal :=
  verb s h 0x32 (.sweepStop h list) fun s =>
    match s.run list with
    | none => s.fail h 0x32 stBadState
    | some r =>
      if r.ended.isSome then s.fail h 0x32 stBadState
      else
        let s1 := if r.active then s.down r.tile "ABORT" [if r.actuator then r.target % 1024 else r.target % 8] else s
        s1.setRun list (some { r.endWith endStopped with stopper := some h })

/-- SWEEP_FREE. -/
def execSweepFree (h : Hdr) (list : Nat) (s : State) : Host.Outcome State Fault Refusal :=
  verb s h 0x33 (.sweepFree h list) fun s =>
    if (s.run list).isSome then s.fail h 0x33 stBadState
    else State.complete { s with smu := { s.smu with lists := tabSet s.smu.lists list [] } } h 0x33 stSuccess 0

/-! ## Points in progress (R207 to R217) -/

/-- The lowest-numbered free sequencer of a region (R214). -/
def State.freeSequencer (s : State) (n : Nat) : Option Nat :=
  let busy := s.allRuns.filterMap fun x => if tileRegion x.2.tile = n then x.2.seqr else none
  if (s.region n).smuBlk || (s.region n).fenced then none
  else (List.range 16).find? fun k => !busy.contains k && !(s.region n).smuFenced.contains k

/-- Force of an AFVMI point in 1/1,024 µV, after REL (Table 7-4). -/
def State.actForce (s : State) (e : Nat) (p : PointRec) : Int :=
  p.force * 1024 + (if p.rel then ((s.elem e).drive : Int) * 1000000 else 0)

/-- The force of an AFVMI point is within its limit (R209). -/
def State.forceOk (s : State) (e : Nat) (p : PointRec) : Bool :=
  let f := s.actForce e p
  let x := s.elem e
  decide (0 ≤ f) &&
    if p.fullRange then decide (f ≤ 64000000 * 1024) && s.linesDark e
    else if x.entryValid then decide (f ≤ (x.inUse.pullIn : Int) * 1000000 - (s.img.actMargin : Int) * 250000 * 1024)
    else decide (f ≤ (s.img.uncalVmax : Int) * 1000000 * 1024)

/-- No element on the element's two array lines has target ON (R208). -/
def State.linesClear (s : State) (e : Nat) : Bool := (s.img.lines e).all fun l => !s.lineOn l

/-- The AFVMI point is admitted (R208, R209). -/
def State.actAdmitted (s : State) (e : Nat) (p : PointRec) : Bool :=
  let x := s.elem e
  (x.st == .darkOff || x.st == .uncal || (x.st == .retired && !x.on)) && s.linesClear e && !s.armedTouches e &&
    !s.prepTouches e && (s.link (eidTile e)).owner && s.forceOk e p

/-- A point's result is written: host memory, the counts, the single-shot fields; the run goes on or ends
(R216, R217). -/
def postPoint (s : State) (l : Nat) (r : Run) (res : PointResult) (forceRb : Int) (writeOk : Bool) : State :=
  let value := res.range * 2 ^ 16 + r.point + res.flags * 2 ^ 24 + unsign res.value 32 * 2 ^ 32
    + unsign res.code 16 * 2 ^ 64 + res.used * 2 ^ 80 + unsign forceRb 32 * 2 ^ 96
  let s1 := if r.resultAddr = 0 then s else s.emit (.hostWrite (r.resultAddr + 16 * r.point) 16 value)
  let comp := bit res.flags 0
  let r1 := { r with
    active := false, compliance := false, compSampling := false, aborted := false, blocked := false, words := []
    point := r.point + 1, completed := r.completed + 1, readySince := s.dt
    nCompliance := r.nCompliance + b2n comp
    nBlocked := r.nBlocked + b2n (bit res.flags 5)
    nAborted := r.nAborted + b2n (bit res.flags 6)
    lastRange := res.range, lastFlags := res.flags, lastValue := res.value, lastCode := res.code, lastUsed := res.used }
  let r2 := if r.resultAddr ≠ 0 && !writeOk then r1.endWith endWriteError
    else if r.compEnd && comp then r1.endWith endCompliance
    else if (s.runPoints l).length ≤ r1.point then r1.endWith endDone
    else r1
  let s2 := s1.setAnyRun l r2
  if comp then { s2 with smu := { s2.smu with compliance := satInc s2.smu.compliance 0xFFFF } } else s2

/-- A point that is not admitted: BLOCKED, no reading kept (R208). -/
def blockPoint (s : State) (l : Nat) (r : Run) (p : PointRec) : State :=
  let (v, s1) := s.draw
  let (c, s2) := s1.draw
  let (f, s3) := s2.draw
  postPoint s3 l r { range := p.range, flags := 32, value := signed (v % 2 ^ 32) 32, code := signed (c % 2 ^ 16) 16 }
    (signed (f % 2 ^ 32) 32) true

/-- The actuator path takes an element, or leaves it: its loop pauses, supervision waits FE_BLANK after the path has
gone (R207, R211). -/
def actuatorOn (s : State) (e : Nat) : State := s.modElem e fun x => { x with paused := true, supervised := false }

def actuatorOff (s : State) (e : Nat) : State :=
  if !(s.elem e).paused then s
  else s.modElem e fun x => { x with
    paused := false, supervised := false, blankEnd := some (s.dt + (s.bankOf e).feBlank * usTicks) }

/-- SWEEP_POINT_START (R214, R215): sequencer, admission, the frames of the point. -/
def execSweepPointStart (list : Nat) (s : State) : Host.Outcome State Fault Refusal :=
  match s.anyRun list with
  | none => .next s
  | some r =>
    let p := (s.runPoints list).getD r.point {}
    let taken := s.allRuns.any fun x => x.1 != list && x.2.unit == r.unit && x.2.seqr.isSome
    if r.active || r.ended.isSome || !s.working || s.loops.throttled || !s.tileReach r.tile || taken then .next s
    else match (match r.seqr with
        | some k => some k
        | none => s.freeSequencer (tileRegion r.tile)) with
      | none => .next s
      | some k =>
        let r1 := { r with seqr := some k }
        if r.actuator && !s.actAdmitted r.target p then ok s (blockPoint s list r1 p)
        else
          let s1 := s.setAnyRun list { r1 with active := true, words := [] }
          let s2 := if s.portTarget r then s1
            else
              let go := if r.actuator then [8, r.target % 1024, r.downCount] else [r.target % 8, 0, r.downCount]
              State.down ((List.range 4).foldl (fun s k => s.down r.tile "POINT_WORD" [k, (pointWordsOf p).getD k 0]) s1)
                r.tile "POINT_GO" go
          ok s (if r.actuator then actuatorOn s2 r.target else s2)

/-- POINT_RESULT_RECEIVE (R213): a word of the result record of the channel's point. -/
def execPointResultReceive (tile channel word : Nat) (value : Word32) (s : State) : Host.Outcome State Fault Refusal :=
  match s.allRuns.find? fun x => x.2.active && x.2.tile == tile && (if x.2.actuator then channel == 8 else channel == x.2.target % 8) with
  | none => .next s
  | some (l, r) => ok s (s.setAnyRun l { r with words := (r.words.filter fun w => w.1 ≠ word) ++ [(word, value)] })

/-- SWEEP_POINT_END (R213, R216): the point has its readings, or has been stopped. -/
def execSweepPointEnd (list : Nat) (readings : List Reading) (forceRb : Int) (writeOk : Bool) (s : State) :
    Host.Outcome State Fault Refusal :=
  match s.anyRun list with
  | none => .next s
  | some r =>
    let p := (s.runPoints list).getD r.point {}
    let k := takeReadings p r.downCount readings
    if !r.active || !(r.aborted || k.full p.samples) then .next s
    else
      let (res, s1) := formResult s p k (r.compliance || k.clamped) (r.compSampling || k.clamped) r.aborted
      let s2 := { s1 with smu := { s1.smu with rangeChanges := satAdd s1.smu.rangeChanges k.changes 0xFFFF } }
      let s3 := s2.modTile r.tile fun x => { x with pointOn := none, pointWords := [] }
      let s4 := postPoint s3 list r res forceRb writeOk
      ok s (if r.actuator && r.aborted then actuatorOff s4 r.target else s4)

/-- SWEEP_TIMEOUT (R215): the list or point has not begun within TIMEOUT. -/
def execSweepTimeout (list : Nat) (s : State) : Host.Outcome State Fault Refusal :=
  match s.anyRun list with
  | none => .next s
  | some r =>
    if r.active || r.ended.isSome || s.dt < r.readySince + r.timeout * msTicks then .next s
    else ok s (s.setAnyRun list (r.endWith endDeferred))

/-- The words of SS_RESULT, SS_VALUE and SS_CODE. -/
def Run.resultWords (r : Run) (code : Nat) : List Word32 :=
  [BitVec.ofNat 32 (r.lastRange * 2 ^ 10 + r.lastFlags * 2 ^ 16 + code * 2 ^ 24), BitVec.ofInt 32 r.lastValue,
   BitVec.ofNat 32 (unsign r.lastCode 16 + r.lastUsed * 2 ^ 16)]

/-- SWEEP_RUN_END (R216, R217): the channel or path comes to rest, SWEEP_DONE or the single-shot result follows. A point that
SWEEP_STOP ends has its result written before (row SWEEP_POINT_END), while its tile can be reached. -/
def execSweepRunEnd (list : Nat) (s : State) : Host.Outcome State Fault Refusal :=
  match s.anyRun list with
  | none => .next s
  | some r =>
    match r.ended with
    | none => .next s
    | some code =>
      if r.active && code = endStopped && s.tileReach r.tile then .next s else
      let cut := b2n (r.active && r.aborted)
      let s1 := if r.actuator then
          (actuatorOff s r.target).modTile r.tile fun x => { x with
            actuator := if x.actuator = some (r.target % 1024) then none else x.actuator, pointOn := none }
        else if s.portTarget r then s
        else s.setMonitor r.target { s.monitor r.target with range := 6, clamped := false }
      if list = singleList then
        ok s { s1 with smu := { s1.smu with
          ssRun := none
          ssResult := s1.smu.ssResult.complete (r.resultWords code) } }
      else
        let s2 := (s1.setRun list none).event r.src
          { kind := 5, tag := r.tag, status := code, time := s.now
            body := r.completed + 2 ^ 16 * r.nCompliance + 2 ^ 32 * r.nBlocked + 2 ^ 48 * (r.nAborted + cut) }
        ok s (match r.stopper with
          | some h => s2.complete h 0x32 stSuccess 0
          | none => s2)

/-! ## Single-shot points (R221) -/

/-- GO of SS_CTRL: a trigger while the previous one runs is lost; a record or target that is refused triggers
nothing. -/
def ssGo (s : State) : State :=
  if s.smu.ssRun.isSome then { s with smu := { s.smu with ssTrigLost := true } }
  else
    let p := pointOf s.smu.ssPoint
    let m := s.smu
    if !pointOk p || !s.targetPlaced m.ssActuator m.ssTarget || !s.listFits m.ssActuator m.ssTarget [p] then s
    else
      let r : Run := { target := m.ssTarget, actuator := m.ssActuator, single := true, readySince := s.dt }
      { s with smu := { m with ssRun := some (r, p), ssResult := m.ssResult.trigger } }

/-- SS_CTRL_GO (R221). -/
def execSsCtrlGo (s : State) : Host.Outcome State Fault Refusal := mainRow s ssGo

/-- The word that a read of a result's first register returns. -/
def Result.word (r : Result) : Word32 := BitVec.ofNat 32 r.head ||| r.words.getD 0 0

/-- A read of SS_RESULT: its value and the state after it. -/
def readSsResult (s : State) : Word32 × State :=
  (s.smu.ssResult.word, { s with smu := { s.smu with ssResult := s.smu.ssResult.read } })

/-- SS_RESULT_READ. -/
def execSsResultRead (s : State) : Host.Outcome State Fault Refusal := readRow s readSsResult

/-! ## Port samples (R200 to R203) -/

/-- The monitor of the port that PORT_SEL names. -/
def State.portSelMonitor (s : State) : Option Nat :=
  (s.img.portRef { input := s.smu.portSelIn, port := s.smu.portSel }).bind (·.monitor)

/-- The words of PORT_RESULT and PORT_CURRENT for a sample. -/
def State.portWords (s : State) (m range : Nat) (flag los : Bool) (current : Int) : List Word32 :=
  let dbm : Int := if current ≤ 0 then -32768 else Config.dbm current (s.img.losOf m).respMil
  [BitVec.ofNat 32 (range * 2 ^ 10 + b2n flag * 2 ^ 13 + b2n los * 2 ^ 14 + 2 ^ 15 + unsign dbm 16 * 2 ^ 16),
   BitVec.ofInt 32 current]

/-- The tone words. -/
def State.toneIndex (s : State) (k c : Nat) : Nat := (s.img.toneFtw.getD k 0 * c % 2 ^ 32) / 2 ^ 22

/-- One sample through the lock-in of a port for connection `id` (R160). -/
def lockInSample (s : State) (k : LockIn) (id : Nat × Serial) (x0 : Int) (flag : Bool) : LockIn :=
  let x := if flag then k.last else x0
  let c := s.commaNo
  let lf := if flag then some c else k.lastFlag
  if k.conn ≠ some id then { conn := some id, p := 65536 * x0, last := x0, lastFlag := lf }
  else
    let sh := s.img.liShift
    let si := fun n => Config.sine (s.toneIndex n c)
    let co := fun n => Config.sine ((s.toneIndex n c + 256) % 1024)
    let f := fun old t => Config.lockInStep old (x * t) sh
    { k with
      i1 := f k.i1 (si 0)
      q1 := f k.q1 (co 0)
      i2 := f k.i2 (si 1)
      q2 := f k.q2 (co 1)
      i3 := f k.i3 (si 2)
      q3 := f k.q3 (co 2)
      p := f k.p 32768
      last := x
      lastFlag := lf }

/-- PORT_SAMPLE_RECEIVE (R201, R202): the monitor's sample, the port result, the lock-in. -/
def execPortSampleReceive (tile channel range : Nat) (flag : Bool) (code : Int) (los : Bool) (s : State) :
    Host.Outcome State Fault Refusal :=
  let m := 8 * tile + channel
  match s.img.portOfMonitor m with
  | none => .next s
  | some (inp, r) =>
    let x := s.monitor m
    let flagged := flag || x.onBus
    let cur := portCurrent code range
    let s1 := s.setMonitor m { x with range, flag := flagged, current := cur, sampled := true }
    let s2 := if x.sampled && x.range ≠ range then
        { s1 with smu := { s1.smu with rangeChanges := satInc s1.smu.rangeChanges 0xFFFF } } else s1
    let s3 := if s.portSelMonitor = some m then
        { s2 with smu := { s2.smu with portResult := s2.smu.portResult.complete (s.portWords m range flagged los cur) } }
      else s2
    if inp then ok s s3
    else match connOfOut s.store.table r.port with
      | some (ip, k) =>
        if (clauseOf k.clause).lit then
          let l := lockInSample s (tabGet s.loops.lockIns {} r.port) (ip, k.serial) cur flagged
          ok s { s3 with loops := { s3.loops with lockIns := tabSet s3.loops.lockIns r.port l } }
        else ok s s3
      | none => ok s s3

/-- A write of PORT_SEL selects the port, and triggers. -/
def selectPort (s : State) (value : Word32) : State :=
  let v := value.toNat
  { s with smu := { s.smu with
    portSel := bits v 0 10, portSelIn := bit v 10, portResult := s.smu.portResult.trigger } }

/-- PORT_SEL_WRITE (R221). -/
def execPortSelWrite (value : Word32) (s : State) : Host.Outcome State Fault Refusal := mainRow s (selectPort · value)

/-- A read of PORT_RESULT: 0 while the selected port has no monitor channel. -/
def readPortResult (s : State) : Word32 × State :=
  (if s.portSelMonitor.isSome then s.smu.portResult.word else 0,
   { s with smu := { s.smu with portResult := s.smu.portResult.read } })

/-- PORT_RESULT_READ (R221). -/
def execPortResultRead (s : State) : Host.Outcome State Fault Refusal := readRow s readPortResult

/-! ## Loss of light and clamps at the tile (R197, R199, R205, R206) -/

/-- LOS_COMPARATOR_RAISE (R205). -/
def execLosComparatorRaise (monitor : Nat) (current : Int) (s : State) : Host.Outcome State Fault Refusal :=
  let x := s.monitor monitor
  if (s.img.portOfMonitor monitor).isNone || x.tileLos || ((s.img.losOf monitor).thresh : Int) ≤ current then .next s
  else ok s (tileEvent (s.setMonitor monitor { x with tileLos := true }) (monitor / 8) [1, monitor % 8, 0])

/-- LOS_COMPARATOR_CLEAR (R205): above LOS_THRESH × (1 + LOS_HYST ÷ 16) for LOS_CLEAR. -/
def execLosComparatorClear (monitor : Nat) (current : Int) (s : State) : Host.Outcome State Fault Refusal :=
  let x := s.monitor monitor
  let r := s.img.losOf monitor
  if !x.tileLos || 16 * current ≤ (r.thresh : Int) * (16 + r.hyst) then .next s
  else ok s (tileEvent (s.setMonitor monitor { x with tileLos := false }) (monitor / 8) [2, monitor % 8, 0])

/-- COMPLIANCE_CLAMP (R197, R199): DETAIL is 1 when the clamp acts during sampling. -/
def execComplianceClamp (tile channel : Nat) (sampling : Bool) (s : State) : Host.Outcome State Fault Refusal :=
  let s1 := if channel < 8 then
      s.setMonitor (8 * tile + channel) { s.monitor (8 * tile + channel) with clamped := true } else s
  ok s (tileEvent s1 tile [3, channel % 8, b2n sampling])

/-- The run whose point a clamp EVENT is about: that of the monitor channel, else that of the actuator path, which CHANNEL
cannot name. -/
def State.clampedRun (s : State) (tile channel : Nat) : Option (Nat × Run) :=
  let mine := s.allRuns.filter fun x => x.2.active && x.2.tile == tile
  match mine.find? fun x => !x.2.actuator && channel == x.2.target % 8 with
  | some x => some x
  | none => mine.find? fun x => x.2.actuator

/-- COMPLIANCE_EVENT_RECEIVE (R199): the point in progress on the channel, or on the actuator path, records it. -/
def execComplianceEventReceive (tile channel detail : Nat) (s : State) : Host.Outcome State Fault Refusal :=
  match s.clampedRun tile channel with
  | none => .next s
  | some (l, r) => ok s (s.setAnyRun l { r with compliance := true, compSampling := r.compSampling || detail ≠ 0 })

/-! ## Reference channels (R219) -/

def Smu.ref (m : Smu) (one : Bool) : RefChannel := if one then m.ref1 else m.ref0
def Smu.setRef (m : Smu) (one : Bool) (r : RefChannel) : Smu :=
  { m with ref0 := if one then m.ref0 else r, ref1 := if one then r else m.ref1 }

/-- A conversion is triggered, or lost. -/
def refGo (s : State) : State :=
  if s.smu.refBusy.isSome then { s with smu := { s.smu with refTrigLost := true } }
  else { s with smu := { s.smu with refBusy := some (s.smu.refSel1, s.dt), refResult := s.smu.refResult.trigger } }

/-- DAC channel 0 or 1 is connected to the calibration bus (R486). -/
def State.dacOnBus (s : State) : Bool := (s.dac 0).toCal || (s.dac 1).toCal

/-- A write of REF_CTRL (R219, R486): one that would make both channels force, or force onto a bus that a DAC drives,
is ignored with CONFLICT. RANGE 0b11 becomes the nearest in range (R9). -/
def refCtrl (s : State) (value : Word32) : State :=
  let v := value.toNat
  let one := bit v 0
  let r := { s.smu.ref one with
    forceEn := bit v 1, measureCurrent := bit v 2, range := min 2 (bits v 3 2), connect := bit v 5 }
  if r.forceEn && ((s.smu.ref (!one)).forceEn || (r.connect && s.dacOnBus)) then
    { s with smu := { s.smu with refConflict := true } }
  else
    let s1 := { s with smu := { s.smu.setRef one r with refSel1 := one } }
    if bit v 6 then refGo s1 else s1

/-- REF_CTRL_WRITE (R219, R486). -/
def execRefCtrlWrite (value : Word32) (s : State) : Host.Outcome State Fault Refusal := mainRow s (refCtrl · value)

/-- REF_CONVERSION_GO (R219): a conversion of 50 µs on the selected channel. -/
def execRefConversionGo (s : State) : Host.Outcome State Fault Refusal := mainRow s refGo

/-- REF_CONVERSION_DONE (R219, R221). -/
def execRefConversionDone (value : Int) (isOver : Bool) (s : State) : Host.Outcome State Fault Refusal :=
  match s.smu.refBusy with
  | none => .next s
  | some (one, t) =>
    if s.dt < t + 50 * usTicks then .next s
    else ok s { s with smu := { s.smu with
      refBusy := none
      refResult := s.smu.refResult.complete [BitVec.ofNat 32 (2 ^ 10 * b2n one + 2 ^ 11 * b2n isOver), BitVec.ofInt 32 value] } }

/-- A read of REF_RESULT, with its live error bits. -/
def readRefResult (s : State) : Word32 × State :=
  (s.smu.refResult.word ||| BitVec.ofNat 32 (2 ^ 12 * b2n s.smu.refConflict + 2 ^ 13 * b2n s.smu.refTrigLost),
   { s with smu := { s.smu with refResult := s.smu.refResult.read } })

/-- REF_RESULT_READ. -/
def execRefResultRead (s : State) : Host.Outcome State Fault Refusal := readRow s readRefResult

/-! ## The calibration bus (R220) -/

/-- The bus channel of BUS_CTRL is connected or released at its tile; a port channel's samples are flagged meanwhile. -/
def busSwitch (s : State) (t c : Nat) (on : Bool) : State :=
  let s1 := s.down t "SMU_BUS" [c, b2n on]
  if c < 8 then s1.setMonitor (8 * t + c) { s1.monitor (8 * t + c) with onBus := on } else s1

/-- The request of BUS_CTRL is granted where the bus is free, not faulted, and the channel may connect. -/
def grantBus (s : State) : State :=
  let m := s.smu
  if m.busRequest && m.bus == .nobody && !m.busFault && s.tileReach m.busTile && !s.litChannel m.busTile m.busChannel then
    busSwitch { s with smu := { m with bus := .request m.busTile m.busChannel } } m.busTile m.busChannel true
  else s

/-- The bus is given up. -/
def freeBus (s : State) : State :=
  match s.smu.bus with
  | .nobody => s
  | .manager t c => busSwitch { s with smu := { s.smu with bus := .nobody, busLostAt := none } } t c false
  | .request t c => busSwitch { s with smu := { s.smu with bus := .nobody, busLostAt := none } } t c false

/-- A write of BUS_CTRL gives up the bus: a request of other content holds it, and its tile's link is not lost (R220). -/
def Smu.releases (m : Smu) (t c : Nat) (request : Bool) : Bool :=
  m.busLostAt.isNone && match m.bus with
    | .request a b => !(request && a == t && b == c)
    | _ => false

/-- A write of BUS_CTRL (R220): REQUEST = 1 asks for the bus, 0 releases it; a CHANNEL above 8 becomes 8 (R9). -/
def busCtrl (s : State) (value : Word32) : State :=
  let v := value.toNat
  let t := bits v 0 8
  let c := min 8 (bits v 8 4)
  let s1 := if s.smu.releases t c (bit v 12) then freeBus s else s
  grantBus { s1 with smu := { s1.smu with busTile := t, busChannel := c, busRequest := bit v 12 } }

/-- BUS_CTRL_REQUEST (R220). -/
def execBusCtrlRequest (value : Word32) (s : State) : Host.Outcome State Fault Refusal := mainRow s (busCtrl · value)

/-- CAL_BUS_TIMEOUT (R220): 100 ms after the loss of the connected tile's link. -/
def execCalBusTimeout (s : State) : Host.Outcome State Fault Refusal :=
  match s.smu.busLostAt with
  | none => .next s
  | some a =>
    match s.smu.bus.place with
    | none => .next s
    | some (t, c) =>
      if s.dt < a + 100 * msTicks then .next s
      else
        let s1 := { s with smu := { s.smu with bus := .nobody, busLostAt := none, busFault := true } }
        let s2 := if c < 8 then s1.setMonitor (8 * t + c) { s1.monitor (8 * t + c) with onBus := false } else s1
        ok s (s2.report 0x0046 srcSmu t)

end Sys2Proof.Machine
end

