-- ==== Sys2Proof/Machine/ImageCheck.lean ====
section
/-! DEFINITION. The checks of an image (Table 17-6): ranges, rules and capacities of every section. -/

namespace Sys2Proof.Machine

/-- A check with the code of Table 17-6, the section and the record that it names when it fails. -/
structure Check where
  code    : Nat
  section_ : Nat
  record  : Nat
  ok      : Bool
  deriving DecidableEq, Repr

/-- A check of a whole section. -/
def whole (code sec : Nat) (ok : Bool) : Check := ⟨code, sec, 0, ok⟩

/-- A check of every record of a list. -/
def each {α : Type} (code sec : Nat) (l : List α) (p : α → Bool) : List Check :=
  ((List.range l.length).zip l).map fun x => ⟨code, sec, min x.1 0xFFF, p x.2⟩

/-- A list names nothing twice. -/
def distinct {α : Type} [BEq α] : List α → Bool
  | [] => true
  | a :: r => !r.contains a && distinct r

/-! ## Banks and classes (Tables 5-2 and 5-3) -/

/-- `v` lies in `lo` to `hi`. -/
def within (lo hi v : Nat) : Bool := decide (lo ≤ v) && decide (v ≤ hi)

/-- `v` lies in `lo` to `hi`. -/
def withinI (lo hi v : Int) : Bool := decide (lo ≤ v) && decide (v ≤ hi)

/-- Coefficient `i` of section `k` of a bank: b0, b1, b2, a1, a2 (Table 5-3). -/
def bankCo (b : Bank) (k i : Nat) : Int := (b.coef.getD k []).getD i 0

/-- Every field of a bank record lies in its range (Table 5-3), the rules R144 and R147 hold. -/
def bankOk (b : Bank) : Bool :=
  !b.reservedBad && within 0 1 b.lawLit && within 0 1 b.lawDark && within 1 4 b.sections && within 0 1 b.outMode &&
    within 2 32767 b.bOut && within 1 (b.bOut - 1) b.bIn && within 1 4095 b.sUp && within 1 4095 b.sDn &&
    (b.coef.all fun c => c.all fun v => withinI (-2 ^ 31) (2 ^ 31 - 1) v) &&
    within 1 65535 b.feLimit && within 1 65535 b.feTime && within 0 65535 b.feBlank && within 0 2 b.feReact &&
    within 1 65535 b.maxJump && within 1 65535 b.slewMax && within 0 65535 b.dwell && within 0 1023 b.ditherDepth &&
    within 0 65535 b.ko && within 0 16383 b.trimLimit && within 0 65535 b.demodPhase &&
    withinI (-4096) 4095 b.clsTrimOn && withinI (-4096) 4095 b.clsTrimOff &&
    (b.outMode == 0 || (bankCo b (b.sections - 1) 3 == -2 ^ 30 && bankCo b (b.sections - 1) 4 == 0))

/-- A drive shape has no points (the default) or 32 points in Q2.14. -/
def shapeOk (l : List Int) : Bool := l.isEmpty || (l.length == 32 && l.all fun v => withinI (-32768) 32767 v)

/-- The image-only fields of a class and its banks (Table 5-2, R149). -/
def classRecOk (c : ClassRec) : Bool :=
  within 0 63 c.cls && within 20 1000 c.holdDiv && decide (c.driveMin ≤ c.driveMax) && within 0 0xFFFF c.driveMax &&
    shapeOk c.shapeOn && shapeOk c.shapeOff && bankOk c.bankA && bankOk c.bankB

/-- Cycles of an update under law `law` of bank `b` (R140). -/
def lawCost (b : Bank) (law : Nat) : Nat := if law = 0 then 4 else 4 * b.sections

/-! ## The fabric section (Tables 2-3 to 2-5, R53) -/

def rowLines (a : ArrayRec) : Nat := 32 * a.blkRows * a.ga
def colLines (a : ArrayRec) : Nat := 32 * a.blkCols * a.gb

def arrayOk (i : Image) (a : ArrayRec) : Bool :=
  within 1 3 a.stage && within 0 255 a.index && within 1 4 a.blkRows && within 1 4 a.blkCols &&
    (a.blkRows == 1 || a.blkCols == 1) && within 1 16 a.ga && within 1 16 a.gb &&
    decide (rowLines a ≤ 1024) && decide (colLines a ≤ 1024) &&
    a.tiles.length == a.blkRows * a.blkCols * a.ga * a.gb && (a.tiles.all fun t => decide (t < 256)) &&
    (i.classes.any fun c => c.cls == a.clsDflt)

/-- Arrays stand in order of stage, then index (R451). -/
def arraysOrdered : List ArrayRec → Bool
  | a :: b :: r => (decide (a.stage < b.stage) || (a.stage == b.stage && decide (a.index < b.index))) && arraysOrdered (b :: r)
  | _ => true

/-- A row line of an array exists. -/
def hasRow (i : Image) (k x r : Nat) : Bool :=
  match i.array k x with
  | some a => decide (r < rowLines a)
  | none => false

/-- A column line of an array exists. -/
def hasCol (i : Image) (k x c : Nat) : Bool :=
  match i.array k x with
  | some a => decide (c < colLines a)
  | none => false

def wireOk (i : Image) (w : WireRec) : Bool :=
  within 1 2 w.fromStage && hasCol i w.fromStage w.fromArray w.fromCol && hasRow i (w.fromStage + 1) w.toArray w.toRow

/-- A port's monitor channel lies on a placed tile. -/
def monitorOk (i : Image) (m : Nat) : Bool := decide (m < 2048) && i.placed (m / 8)

def inPortOk (i : Image) (p : PortRec) : Bool :=
  decide (p.port < 1024) && hasRow i 1 p.array p.line && (match p.monitor with
    | some m => monitorOk i m
    | none => true)

def outPortOk (i : Image) (p : PortRec) : Bool :=
  decide (p.port < 1024) && hasCol i i.stages p.array p.line && (match p.monitor with
    | some m => monitorOk i m
    | none => false)

/-- Limits of Table 2-5 that concern several records. -/
def fabricWhole (i : Image) : Bool :=
  !i.arrays.isEmpty && ((List.range i.stages).all fun k => i.arrays.any fun a => a.stage == k + 1) &&
    arraysOrdered i.arrays && distinct i.tiles &&
    distinct (i.wiring.map fun w => (w.fromStage, w.fromArray, w.fromCol)) &&
    distinct (i.wiring.map fun w => (w.fromStage, w.toArray, w.toRow)) &&
    distinct (i.inPorts.map (·.port)) && distinct (i.outPorts.map (·.port)) &&
    distinct (i.inPorts.map fun p => (p.array, p.line)) && distinct (i.outPorts.map fun p => (p.array, p.line)) &&
    distinct ((i.inPorts ++ i.outPorts).filterMap (·.monitor)) &&
    (i.inPorts.all fun p => i.wiring.all fun w => !(w.fromStage + 1 == 1 && w.toArray == p.array && w.toRow == p.line)) &&
    (i.outPorts.all fun p => i.wiring.all fun w => !(w.fromStage == i.stages && w.fromArray == p.array && w.fromCol == p.line))

/-! ## Demands and capacities -/

/-- Elements of tile `t` with class `c`. -/
def classCount (i : Image) (t c : Nat) : Nat :=
  let dflt := match i.arrayOf t with
    | some a => a.clsDflt
    | none => 0
  let here := i.classMap.filter fun m => eidTile m.1 == t
  if c = dflt then 1024 - (here.filter fun m => m.2 != dflt).length else (here.filter fun m => m.2 == c).length

/-- Classes of the elements of tiles `ts`. -/
def classesOn (i : Image) (ts : List Nat) : List ClassRec :=
  i.classes.filter fun c => ts.any fun t => classCount i t c.cls != 0

/-- Sum of fractions. -/
def fracSum (l : List (Nat × Nat)) : Nat × Nat := l.foldl (fun a x => (a.1 * x.2 + x.1 * a.2, a.2 * x.2)) (0, 1)

/-- HOLD demand of the loop block of a region (R152) against a share, with the costs `dark` and `lit` of a class. -/
def loopDemandOk (i : Image) (dark lit : ClassRec → Nat) (n share : Nat) : Bool :=
  let ts := i.tiles.filter fun t => tileRegion t == n
  let cs := classesOn i ts
  let sum := fracSum (cs.map fun c => ((ts.map fun t => classCount i t c.cls).foldl (· + ·) 0 * dark c, c.holdDiv))
  let most := fun (f : ClassRec → Nat) => (cs.map f).foldl max 0
  let fast := i.fastFloor * (100 * most lit + 16 + 200 * most dark)
  decide (100 * sum.1 + fast * sum.2 ≤ 100 * sum.2 * (share * 16000 / 256))

/-- Costs of a class while both of its banks are being loaded (R152). -/
def darkCost (c : ClassRec) : Nat := max (lawCost c.bankA c.bankA.lawDark) (lawCost c.bankB c.bankB.lawDark)
def litCost (c : ClassRec) : Nat := max (lawCost c.bankA c.bankA.lawLit) (lawCost c.bankB c.bankB.lawLit)

/-- Quotient rounded up. -/
def ceilDiv (n d : Nat) : Nat := (n + d - 1) / d

/-- HOLD demand of the link of tile `t` (R512). -/
def linkDemand (i : Image) (t : Nat) : Nat :=
  let div := ((classesOn i [t]).map (·.holdDiv)).foldl min 1000
  let e := ceilDiv 1024 div + 3 * min 32 (ceilDiv i.fastFloor 16)
  let p := (((i.inPorts ++ i.outPorts).filterMap (·.monitor)).filter fun m => m / 8 == t).length
  max (4 + ceilDiv e 4) (2 + p + ceilDiv e 4)

/-- HOLD demands on links at 10 Gb/s and on loop blocks stay within the credit (R32). -/
def linkDemandsOk (i : Image) : Bool := i.tiles.all fun t => decide (linkDemand i t ≤ i.linkShare.hold * 151 / 256)

def loopDemandsOk (i : Image) : Bool := (List.range 16).all fun n => loopDemandOk i darkCost litCost n i.loopShare.hold

/-- Smallest HOLD_DIV of the image's classes: its hold rate is the highest (R123). -/
def minDiv (i : Image) : Nat := (i.classes.map (·.holdDiv)).foldl min 1000

/-- The two capacity checks of R123, with H = 1,000,000 ÷ the smallest HOLD_DIV. -/
def tiersOk (i : Image) : Bool :=
  decide (i.tiles.length * 1024 ≤ 16 * (8192 - 256 * i.fastReserve) + i.placeBanks * 8192 + 100 * minDiv i) &&
    decide (i.placeBanks * 8192 * 1000000 ≤ i.placeBanks * 200000000 * minDiv i)

/-- GiB of one DDR channel as the image describes it (R354): ranks, devices of a 64-bit channel, density. -/
def channelGib (i : Image) : Nat :=
  (1 + i.ddrRanks) * (if i.ddrWidth = 0 then 8 else 4) * (if i.ddrDensity = 0 then 16 else if i.ddrDensity = 1 then 24 else 32) / 8

/-- The DRAM layout fits (R357); in units of 32 KiB. -/
def dramOk (i : Image) : Bool :=
  decide (i.tiles.length * 1024 + (i.journalGib + i.ddrHostGib + 1) * 32768 ≤ 2 * channelGib i * 32768)

/-! ## Bank plan (R352) -/

/-- Owner codes of Table 13-2. -/
def ownHost : Nat := 0
def ownDma : Nat := 1
def ownPlace : Nat := 2
def ownClause : Nat := 3
def ownSmu : Nat := 4
def ownMgmt : Nat := 5

/-- The plan that an image without one has. -/
def defaultPlan (p : Nat) : List Nat :=
  let rest := 32 - p
  let cl := if 7 ≤ rest then 4 else if 5 ≤ rest then rest - 3 else 2
  let sm := if rest < 5 then 1 else 2
  (List.replicate p ownPlace ++ List.replicate cl ownClause ++ List.replicate sm ownSmu ++ [ownMgmt]
    ++ List.replicate (rest - cl - sm - 1) ownHost)

/-- Banks of owner `o` in a plan. -/
def planCount (l : List Nat) (o : Nat) : Nat := (l.filter (· == o)).length

/-- A bank plan keeps R352. -/
def planOk (i : Image) : Bool :=
  match i.bankPlan with
  | none => true
  | some l => l.length == 32 && (l.all fun o => decide (o ≤ 5)) && planCount l ownPlace == i.placeBanks &&
      within 2 8 (planCount l ownClause) && within 1 4 (planCount l ownSmu) && planCount l ownMgmt == 1

/-! ## Shares, meters -/

/-- Shares that R32 allows. -/
def sharesOk (h : Shares) : Bool :=
  decide (16 ≤ h.hold) && decide (16 ≤ h.p0) && decide (h.hold + h.p0 + h.p1 + h.p2 ≤ 256)

/-- A meter profile in range (R324). -/
def profileOk (p : Profile) : Bool :=
  decide (p.cir ≤ 16777215) && decide (p.pir ≤ 16777215) && decide (p.cbs ≤ 255) && decide (p.pbs ≤ 255) &&
    decide (p.cir ≤ p.pir) && decide (p.cbs ≤ p.pbs)

/-- The P0 profile of a source as the image sets it (Table 12-2 where it does not). -/
def p0Profile (i : Image) (src : Nat) : Profile :=
  match i.meters.find? fun m => m.1 == src && m.2.1 == 0 with
  | some m => m.2.2
  | none => defaultProfile src 0

/-- What a P0 meter adds to the sum of R330: CBS + ⌈CIR × 1.6 µs⌉. -/
def p0Share (p : Profile) : Nat := p.cbs + ceilDiv (p.cir * 16) 10000000

/-- R330. -/
def envelopeOk (i : Image) : Bool := decide (((List.range 26).map fun k => p0Share (p0Profile i k)).foldl (· + ·) 0 ≤ 8)

/-! ## The safety block (R385) -/

/-- Word `n` of a block. -/
def safetyWord (b : SafetyBlock) (n : Nat) : Nat := (b.words.getD n 0).toNat

/-- Every field of word `n` lies in its range, reserved bits are 0. -/
def safetyWordOk (n v : Nat) : Bool :=
  if n < 8 then bits v 0 2 != 3 && within 1 10 (bits v 2 4) && within 1 100 (bits v 6 7) && bits v 13 19 == 0
  else if n < 12 then within 1 60 (bits v 17 6) && within 10 50 (bits v 24 6)
  else if n % 2 = 0 then true
  else within 10 1000 (bits v 0 10) && bits v 20 12 == 0

/-- No mask of word `n` names an UNUSED input. -/
def safetyMaskOk (b : SafetyBlock) (n : Nat) : Bool :=
  let m := if n < 8 then 0 else if n < 12 then bits (safetyWord b n) 0 8 else if n % 2 = 0 then 0 else bits (safetyWord b n) 12 8
  (List.range 8).all fun i => !bit m i || bits (safetyWord b i) 0 2 != 0

/-- A binding in use names a listed peer with permission bit 3. -/
def safetyPeerOk (i : Image) (n : Nat) : Bool :=
  n < 12 || n % 2 == 0 || bits (safetyWord i.safety n) 10 2 == 0 ||
    i.peers.any fun p => p.id == safetyWord i.safety (n - 1) && bit p.perm 3

def safetyRecordOk (i : Image) (n : Nat) : Bool :=
  safetyWordOk n (safetyWord i.safety n) && safetyMaskOk i.safety n && safetyPeerOk i n

/-! ## Table 17-6 -/

/-- Section types (Table 17-5). -/
def secFabric : Nat := 1
def secClasses : Nat := 2
def secLoss : Nat := 3
def secBudgets : Nat := 4
def secMemory : Nat := 5
def secMeters : Nat := 6
def secTime : Nat := 7
def secPeers : Nat := 8
def secSafety : Nat := 9
def secPorts : Nat := 10
def secLinks : Nat := 11
def secMate : Nat := 12
def secSweeps : Nat := 13

/-- An element number of a record: placed by the image. -/
def eidOk (i : Image) (e : Nat) : Bool := i.placedEid e

def losOk (i : Image) (r : LosRec) : Bool :=
  (i.portOfMonitor r.monitor).isSome && within 200 200000000 r.thresh && within 0 15 r.hyst && within 0 65535 r.clearUs

/-- Presets of the LINKS section stay within the limits of the taps PRE, MAIN and POST (R262, R478). -/
def presetsOk (i : Image) : Bool :=
  match i.presets with
  | none => true
  | some l => l.all fun b => b.all fun p =>
      within 0 15 p.1 && within 20 63 p.2.1 && within 0 31 p.2.2 && decide (p.1 + p.2.1 + p.2.2 ≤ 63)

def sweepOk (x : Nat × List PointRec) : Bool := decide (x.1 < 256) && within 1 4096 x.2.length && x.2.all pointOk

/-- The range checks (code 9) of Table 17-6, section by section. -/
def rangeChecks (i : Image) : List Check :=
  each 9 secFabric i.arrays (arrayOk i) ++ each 9 secFabric i.wiring (wireOk i) ++
  each 9 secFabric i.inPorts (inPortOk i) ++ each 9 secFabric i.outPorts (outPortOk i) ++
  [whole 9 secFabric (fabricWhole i)] ++
  each 9 secClasses i.classes classRecOk ++ [whole 9 secClasses (distinct (i.classes.map (·.cls)))] ++
  each 9 secClasses i.classMap (fun m => eidOk i m.1 && i.classes.any fun c => c.cls == m.2) ++
  [whole 9 secClasses (distinct (i.classMap.map (·.1)))] ++
  each 9 secLoss i.lossMap (fun m => eidOk i m.1 && decide (m.2 < 256)) ++ [whole 9 secLoss (decide (i.ilDefault < 256))] ++
  [whole 9 secBudgets (sharesOk i.linkShare && sharesOk i.loopShare && within 200 20000 i.commitLead &&
      within 10 10000 i.prepLead && within 0 512 i.fastFloor && i.toneFtw.length == 3 &&
      (i.toneFtw.all fun f => decide (f < 2 ^ 32)) && within 0 63 i.maxMoves && decide (i.outerMin < 2 ^ 16) &&
      within 4 12 i.liShift && linkDemandsOk i),
   whole 9 secMemory (within 0 4 i.ddrSpeed && within 0 1 i.ddrRanks && within 0 2 i.ddrDensity && within 0 1 i.ddrWidth &&
      within 0 28 i.placeBanks && within 1 255 i.promoteTime && within 1 65535 i.demoteTime && within 1 3600 i.overrunPin &&
      within 4 16 i.fastReserve && decide (i.balTarget < i.balHigh) && within 0 255 i.balHigh && within 0 96 i.journalGib &&
      within 0 16 i.ddrHostGib && within 0 10000 i.freezePre && within 0 10000 i.freezePost && planOk i)] ++
  each 9 secMemory i.mxPrio (fun m => within 16 21 m.1 && decide (m.2.1 < 36) && decide (m.2.2 < 16)) ++
  each 9 secMeters i.meters (fun m => decide (m.1 < 26) && decide (m.2.1 < 4) && profileOk m.2.2) ++
  [whole 9 secMeters (envelopeOk i),
   whole 9 secTime (decide (i.kp < 2 ^ 16) && decide (i.ki < 2 ^ 16) && within 1 1000000 i.jumpLimit && within 1 1000 i.rateMax &&
      within 1 i.jumpLimit i.stepThresh && within 1 65535 i.lockThresh && within 1 255 i.lockCount &&
      within i.lockThresh 4095 i.unlockThresh && within 1 63 i.syncTimeout && within 1 63 i.holdoverMax &&
      within 0 2 i.portMode && within 0 127 i.domain),
   whole 9 secPeers (decide (i.peers.length ≤ 16) && distinct (i.peers.map (·.id)))] ++
  each 9 secPeers i.peers (fun p => decide (p.id < 2 ^ 32) && decide (p.perm < 32)) ++
  each 9 secPorts i.los (losOk i) ++
  [whole 9 secPorts (withinI (-10000) 10000 i.portBias && within 1 255 i.portDown && within 10 255 i.portDecim &&
      within 0 255 i.actMargin && within 0 64 i.uncalVmax && within 1 80 i.calDelta && within 1 200 i.calDeltaCh &&
      within 1 63 i.calSlew && within 1 200 i.plaus && within 5 17 i.calPoints && i.calPoints % 2 == 1 &&
      within 16 1024 i.calStep && within 1 255 i.calDwell && within 1 255 i.calResid),
   whole 9 secLinks (within 16 4095 i.adoptTol && within 1 4095 i.adoptSlew && within 0 4 i.linkMaxSpeed && presetsOk i),
   whole 9 secMate (within 0 7 i.matePrio && within 1 255 i.mateWait && within 0 7 i.reportQueue && within 1 65535 i.drillMs)] ++
  each 9 secSweeps i.sweeps sweepOk

/-- Capacities (code 10). -/
def capacityChecks (i : Image) : List Check :=
  [whole 10 secMemory (tiersOk i), whole 10 secBudgets (loopDemandsOk i), whole 10 secMemory (dramOk i)]

/-- The safety block (code 11). -/
def safetyChecks (i : Image) : List Check :=
  whole 11 secSafety (i.safety.words.length == 28) :: each 11 secSafety (List.range 28) (safetyRecordOk i)

/-- A section lies within the image (check 5): behind the table, before the signature block. -/
def sectionIn (f : FlashImage) (x : Nat × Bool × Nat × Nat) : Bool :=
  decide (64 + 16 * f.sections.length ≤ x.2.2.1) && decide (x.2.2.1 + x.2.2.2 ≤ f.length - 128)

/-- Every check of Table 17-6 in order, from code 4 on; codes 2 and 3 are the read's own. -/
def imageChecks (o : Otp) (f : FlashImage) : List Check :=
  [whole 4 0 (f.magic == 0x4B582620#32 && f.format == 1),
   whole 5 0 (f.length % 64 == 0 && decide (192 ≤ f.length) && decide (f.length ≤ f.areaSize) && within 1 32 f.sections.length)] ++
  f.sections.map (fun x => ⟨5, x.1, 0, sectionIn f x⟩) ++
  [whole 6 0 (f.keyHash == (if o.ownerFused then o.ownerKeyHash else o.vendorKeyHash)), whole 7 0 f.signatureOk] ++
  [1, 2, 5, 9, 14].map (fun t => whole 8 t (f.sections.any fun x => x.1 == t)) ++
  f.sections.map (fun x => whole 8 x.1 (!x.2.1 || within 1 14 x.1)) ++
  rangeChecks f.content ++ capacityChecks f.content ++ safetyChecks f.content

/-- The first check that fails (R452). -/
def firstFail (o : Otp) (f : FlashImage) : Option Check :=
  if !f.sfdpOk then some (whole 2 0 false)
  else if !f.readOk then some (whole 3 0 false)
  else (imageChecks o f).find? fun c => !c.ok

/-! ## Fabric classes (Table 2-6, R54) -/

/-- All of a list are equal to its first. -/
def uniform {α : Type} [BEq α] : List α → Bool
  | [] => true
  | a :: r => r.all (· == a)

/-- Class, n and m of a fabric (Table 2-6). -/
def fabricClass (i : Image) : Nat × Nat × Nat :=
  if i.stages = 1 then (0, 0, 0)
  else if i.stages ≠ 3 then (3, 0, 0)
  else
    let st := fun (k : Nat) => i.arrays.filter fun a => a.stage == k
    let same := (List.range 3).all fun k => uniform ((st (k + 1)).map fun a => (a.blkRows, a.blkCols, a.ga, a.gb))
    let ins := (st 1).map fun a => (i.inPorts.filter fun p => p.array == a.index).length
    let n := ins.headD 0
    let m := (st 2).length
    let links := fun (k x y : Nat) => (i.wiring.filter fun w => w.fromStage == k && w.fromArray == x && w.toArray == y).length
    let up := (st 1).all fun a => (st 2).all fun b => links 1 a.index b.index == 1
    let dn := (st 2).all fun b => (st 3).all fun c => links 2 b.index c.index == 1
    if same && uniform ins && decide (1 ≤ n) && up && dn && decide (n ≤ m) then
      (if 2 * n - 1 ≤ m then 1 else 2, n, m)
    else (3, 0, 0)

end Sys2Proof.Machine
end

