-- ==== Sys2Proof/Machine/Adoption.lean ====
section
/-! DEFINITION. Adoption of tiles: current and stale tiles, quarantine, the table from held drives, a takeover's last step
(R264 to R267, R407 to R409, R459 to R463). -/

namespace Sys2Proof.Machine

/-! ## What a tile has answered -/

/-- Held code of element `j` of a tile as read back. -/
def Link.held (l : Link) (j : Nat) : Nat :=
  match l.readback.find? fun p => p.1 = j / 64 with
  | some p => p.2.getD (j % 64) 0
  | none => 0

/-- A word of IDENT. -/
def Link.identWord (l : Link) (k : Nat) : Nat :=
  match l.ident.find? fun p => p.1 = k with
  | some p => p.2.toNat
  | none => 0

/-- Identity, EPOCH and LAST_SERIAL of the IDENT words (Table 9-4). -/
def Link.identId (l : Link) : Nat := l.identWord 0 + 2 ^ 32 * l.identWord 1
def Link.identSerial (l : Link) : Serial := BitVec.ofNat 16 (bits (l.identWord 3) 0 16)

/-- The four IDENT words have arrived; the 16 parts of the readback have. -/
def Link.identDone (l : Link) : Bool := l.ident.length = 4
def Link.readDone (l : Link) : Bool := l.readback.length = 16

/-- The link is up. -/
def Link.up (l : Link) : Bool := l.state == .active || l.state == .idle

/-- The tile is current (R265). -/
def Link.current (l : Link) : Bool :=
  l.known && l.identWord 2 == l.epoch && l.identSerial == l.lastSerial &&
    (match l.idHeld with
      | some i => i == l.identId
      | none => true)

/-- This controller drives tiles, or takes them over (Table 15-1, R407). -/
def State.drivesTiles (s : State) : Bool :=
  s.mate.role == .active || s.mate.role == .alone || (s.mate.takeover == .adopting)

/-- Adoption of the tile can be decided (R264, R407, R459, R463, R513). -/
def State.adoptReady (s : State) (t : Nat) : Bool :=
  let l := s.link t
  l.up && l.tile == .adopting && l.claimed == some true && l.identDone && l.readDone && l.tempSeen &&
    s.img.placed t && s.chip.expanded.contains t && s.chip.setChecked && s.chip.resolved && !s.chip.heldFabric &&
    s.drivesTiles && !s.faults.safeState

/-! ## The table from held drives (R460, R461) -/

end Sys2Proof.Machine

namespace Sys2Proof

open Machine

/-- Elements of a line (stage, array, column line or row line, number). -/
def Image.onLine (i : Image) (l : Line) : List Nat :=
  match i.array l.1 l.2.1 with
  | none => []
  | some a =>
    if l.2.2.1 then (List.range (32 * a.blkRows * a.ga)).filterMap fun r => a.eid r l.2.2.2
    else (List.range (32 * a.blkCols * a.gb)).filterMap fun c => a.eid l.2.2.2 c

end Sys2Proof

namespace Sys2Proof.Machine

/-- The tile has answered with its held drives. -/
def State.answered (s : State) (t : Nat) : Bool := (s.link t).up && (s.link t).readDone

/-- The element is ON by its held drive (R460 step 1). -/
def State.heldOn (s : State) (e : Nat) : Bool :=
  let l := s.link (eidTile e)
  s.answered (eidTile e) && (s.elem e).entryValid &&
    absN ((l.held (e % 1024) : Int) - s.surfaceAt e l.temp 2) ≤ s.img.adoptTol

/-- The one ON element of a line; none where there is none or more than one (R460 step 4). -/
def State.soleOn (s : State) (l : Line) : Option Nat :=
  match (s.img.onLine l).filter s.heldOn with
  | [e] => some e
  | _ => none

/-- The line has no ON element, and an element on a tile that has not answered. -/
def State.lineOpen (s : State) (l : Line) : Bool :=
  ((s.img.onLine l).filter s.heldOn).isEmpty && (s.img.onLine l).any fun e => !s.answered (eidTile e)

/-- Follow the trace from a row line: elements, output port, and whether it ends at a tile that has not answered
(R460 steps 2 and 4). -/
def State.traceRow (s : State) : Nat → Nat → Nat → Nat → List Nat × Option Nat × Bool
  | 0, _, _, _ => ([], none, false)
  | n + 1, k, a, row =>
    match s.soleOn (k, a, false, row) with
    | none => ([], none, s.lineOpen (k, a, false, row))
    | some e =>
      match s.img.place e with
      | none => ([e], none, false)
      | some p =>
        if s.soleOn (k, a, true, p.col) ≠ some e then ([e], none, false)
        else if k = s.img.stages then
          ([e], (s.img.outPorts.find? fun r => r.array = a && r.line = p.col).map (·.port), false)
        else match s.img.wireFrom k a p.col with
          | none => ([e], none, false)
          | some w =>
            let (es, o, op) := s.traceRow n (k + 1) w.toArray w.toRow
            (e :: es, o, op)

/-- Follow the trace back from an element: whether it ends at a tile that has not answered. -/
def State.traceBack (s : State) : Nat → Nat → Bool
  | 0, _ => false
  | n + 1, e =>
    match s.img.place e with
    | none => false
    | some p =>
      match s.img.wireTo p.stage p.array p.row with
      | none => false
      | some w =>
        let l := (w.fromStage, w.fromArray, true, w.fromCol)
        match s.soleOn l with
        | some f => s.traceBack n f
        | none => s.lineOpen l

/-- A connection entered at a restart (R460 step 3, R462). -/
def State.tracedConn (s : State) (ip op : Nat) (es : List Nat) : Conn :=
  let los := match (s.img.outPort op).bind (·.monitor) with
    | some m => (s.monitor m).los
    | none => false
  let c : Clause := { inPort := ip, outPort := op, path := 2, lit := !los, brk := false, clsOvr := 0, clsEn := false,
                      e1 := noEid, e2 := noEid, e3 := noEid, pgroup := 0, resv := false }
  { clause := (c.routed es).toRec, handle := 0xFFF }

/-- The complete traces: input port and connection. -/
def State.traces (s : State) : List (Nat × Conn) :=
  s.img.inPorts.filterMap fun r =>
    let (es, o, _) := s.traceRow 3 1 r.array r.line
    match o with
    | some op => if es.length = s.img.stages then some (r.port, s.tracedConn r.port op es) else none
    | none => none

/-- ON elements on no connection whose trace reaches a tile that has not answered (R461). -/
def State.strayEids (s : State) (t : Tab (Option Conn)) : List Nat :=
  let on := (s.img.tiles.flatMap tileEids).filter fun e => s.heldOn e && (connThrough t s.img.stages e).isNone
  on.filter fun e =>
    s.traceBack 3 e ||
      match s.img.place e with
      | none => false
      | some p => (s.traceRow 3 p.stage p.array p.row).2.2

/-- The connections that held drives show are entered, the strays held (R460, R461). -/
def reconstruct (s : State) : State :=
  let new := s.traces.filter fun x => (s.conn x.1).isNone && (connOfOut s.store.table (clauseOf x.2.clause).outPort).isNone
  let table := new.foldl (fun t x => tabSet t x.1 (some x.2)) s.store.table
  let s1 := { s with store := { s.store with table } }
  { s1 with chip := { s1.chip with
      strays := s1.strayEids table
      restored := s1.chip.restored ++ new.map (·.1)
      restartConns := s1.chip.restartConns + new.length } }

/-! ## Writing a tile's mirror (R258, R267) -/

/-- DIV in use of a class (R137, R474). -/
def State.divInUse (s : State) (c : Nat) : Nat := (s.cls c).holdDiv * (if s.loops.throttled then 2 else 1)

/-- Classes that the image defines. -/
def State.classList (s : State) : List Nat := s.img.classes.map (·.cls)

/-- SET_CLASS for all elements at once where one class `ks` covers them, else for each of `es`. -/
def sendClassList (s : State) (t : Nat) (ks es : List Nat) : State :=
  match ks with
  | [c] => s.down t "SET_CLASS" [0, c, 1]
  | _ => es.foldl (fun (s : State) e => s.down t "SET_CLASS" [e % 1024, s.elemClass e, 0]) s

/-- SET_CLASS for every element of a tile: one frame where all have one class. -/
def sendClasses (s : State) (t : Nat) : State :=
  sendClassList s t (dedup ((tileEids t).map s.elemClass)) (tileEids t)

/-- CLASS_DIV for every class, from comma `c` on. -/
def sendDivs (s : State) (t c : Nat) : State :=
  s.classList.foldl (fun (s : State) k => s.down t "CLASS_DIV" [k, s.divInUse k, c % 8]) s

/-- SET_FAST for the elements `es`. -/
def sendFast (s : State) (t c : Nat) (es : List Nat) : State :=
  (tileEids t).foldl (fun (s : State) e => s.down t "SET_FAST" [e % 1024, b2n (es.contains e), c % 8]) s

/-- The schedule mirror of a tile is sent (R258); the controller goes by the flags that it holds from then on. -/
def sendMirrorOf (s : State) (t : Nat) (more : List Nat) : State :=
  let c := s.commaNo + 2
  let fast := (tileEids t).filter fun e => (s.elem e).bright || more.contains e
  let s1 := sendFast (sendDivs (sendClasses s t) t c) t c fast
  (tileEids t).foldl (fun (s : State) e => s.modElem e fun x => { x with fast := fast.contains e, fastNext := fast.contains e }) s1

/-- The shapes of every class (R267). -/
def sendShapes (s : State) (t : Nat) : State :=
  s.classList.foldl (fun (s : State) k =>
    let go := fun (s : State) (off : Nat) (l : List Int) =>
      (List.range 32).foldl (fun (s : State) i => s.down t "SHAPE_LOAD" [k, off, i, unsign (l.getD i (512 * ((i : Int) + 1))) 16]) s
    go (go s 0 (s.cls k).shapeOn) 1 (s.cls k).shapeOff) s

/-- SET_SHARE with the shares in force (R247). -/
def sendShares (s : State) (t : Nat) : State :=
  let x := s.comma.linkShare
  s.down t "SET_SHARE" [x.hold, x.p0, x.p1, x.p2]

/-- The arm slots of armed sentences whose footprint has the tile (R267). -/
def sendArmSlots (s : State) (t : Nat) : State :=
  s.armedSents.foldl (fun s p =>
    match p.2.slot with
    | none => s
    | some k =>
      let acts := (s.tableChange p.1 0 (p.2.armedList.map (·.1)) (p.2.armedList.map (·.2)) p.2.armedMoves).acts
      let es := s.slotEntries acts t
      if es.isEmpty then s else fillSlot s t k es) s

/-! ## The end of adoption (R266, R267, R462) -/

/-- An element at the adoption of its tile: its state by the table, its law by handover from the held code. -/
def State.adoptElem (s : State) (e held : Nat) (moved : Bool) : Elem :=
  let x := s.elem e
  let k := s.connOfElem e
  let lit := match k with
    | some c => (clauseOf c.2.clause).lit
    | none => false
  let y := { x with drive := held, handoverDue := true, shaping := false, supervised := false, blankEnd := none,
                    dwellEnd := none, feTimer := 0, dueNext := true }
  match x.st with
  | .uncal => { y with on := k.isSome, lit }
  | .retired => y
  | .suspect => y
  | st =>
    if moved || st == .switching then { y with st := .switching, on := k.isSome, lit }
    else { y with st := if k.isNone then .darkOff else if lit then .lit else .darkOn, on := k.isSome, lit }

/-- The tile's record in the calibration set failed its check (R223). -/
def State.tileRecBad (s : State) (t : Nat) : Bool := s.calib.loaded.badBlocks.contains (1 + t / 8)

/-- Tile `t` is adopted: its elements take their states, the controller's record follows the tile. `moved`: elements that
corrections have moved. -/
def finishAdoption (s : State) (t : Nat) (moved : List Nat) : State :=
  let l := s.link t
  let stale := l.tile == .quarantined
  let s1 := (tileEids t).foldl (fun (s : State) e =>
    let held := if moved.contains e then (s.elem e).drive else l.held (e % 1024)
    s.setElem e (s.adoptElem e held (moved.contains e || s.chip.resolvedMoves.contains e))) s
  let otherId := match l.idHeld with
    | some i => i != l.identId
    | none => false
  let s2 := s1.modLink t fun x => { x with
    tile := .adopted, stale, known := true, tileId := l.identId, idHeld := some l.identId
    corrected := moved.length
    lastSerial := l.identSerial
    lastSerialAt := if stale then some s.dt else x.lastSerialAt
    epochDirty := if stale then false else x.epochDirty }
  let s3 := if stale then s2.down t "SET_EPOCH" [(s2.link t).epoch] else s2
  let s4 := if s3.smu.bus.place.any (·.1 == t) && s3.smu.busLostAt.isSome then freeBus s3 else s3
  let s5 := if otherId || s4.tileRecBad t then queueRun none none s4 (.channel, t) else s4
  let s6 := { s5 with chip := { s5.chip with resolvedMoves := s5.chip.resolvedMoves.filter fun e => eidTile e ≠ t } }
  calTempTrigger (if s6.chip.strays.isEmpty then s6 else reconstruct s6) t

/-- Intent drive of an element (R267 step 2). -/
def State.intentDrive (s : State) (e held : Nat) : Nat :=
  if !(s.elem e).entryValid || (s.elem e).st == .uncal then held
  else s.surfaceAt e (s.link (eidTile e)).temp (if (s.connOfElem e).isSome then 2 else 3)

/-- The corrections of a stale tile, OFF targets first; strays keep their drives (R267 step 3, R461). -/
def State.correctionsOf (s : State) (t : Nat) : List (Nat × Nat) :=
  let l := s.link t
  let far := ((tileEids t).filter fun e => !s.chip.strays.contains e).filterMap fun e =>
    let h := l.held (e % 1024)
    let d := s.intentDrive e h
    if s.img.adoptTol < absN ((h : Int) - d) then some (e, d) else none
  let (on, off) := far.partition fun x => (s.connOfElem x.1).isSome
  off ++ on

/-- Tile `t` is quarantined (R267): the rewrite, and the corrections to come. -/
def quarantine (s : State) (t : Nat) : State :=
  let l := s.link t
  let cs := s.correctionsOf t
  let s1 := s.modLink t fun x => { x with tile := .quarantined, stale := true, corrections := cs, corrected := cs.length }
  let s2 := (tileEids t).foldl (fun (s : State) e => s.modElem e fun x => { x with drive := l.held (e % 1024), supervised := false }) s1
  sendArmSlots (sendShares (sendMirrorOf (sendShapes s2 t) t (cs.map (·.1))) t) t

/-! ## Role changes (R407, R416) -/

/-- A sentence that the mirror has brought ARMED or STALE gets its drive list (R404: re-derived). -/
def prepareMirrored (s : State) (h : Nat) : State :=
  let t := s.sent h
  if (t.state = .armed || t.state = .stale) && t.armedList.isEmpty then
    let held := s.armedLines (some h)
    let (l, w) := s.prepareAll held t.opts.rearrangeOk { table := s.store.table, ptr := s.store.ptr } t.clauses
    s.setSent h { t with armedList := l, armedMoves := w.moves, armedMoved := s.movedEids l }
  else s

/-- A sentence left LAUNCHING by a token that was never issued, or whose verb is gone, becomes STORED, an armed one STALE
(R412). -/
def repairSentence (s : State) (h : Nat) : State :=
  let t := s.sent h
  if t.state == .launching && s.store.launches.all (fun l => l.handle != h) && s.store.preps.all fun p => p.handle != h then
    s.setSent h { t with state := if t.slot.isSome then .stale else .stored }
  else s

/-- The new active (R407 step 5, R416 step 4): role, counts, the gap at its tiles still to be measured. -/
def becomeActive (s : State) : State :=
  let m := s.mate
  let s1 := m.granted.foldl (fun (s : State) t => s.modTile t fun x => { x with gapOpen := true }) s
  let drill := m.incoming = some true
  let s2 := { s1 with mate := { s1.mate with
    role := .active, takeover := .none, granted := [], claims := [], incoming := none, gapLast := 0, synced := false
    takeovers := if m.incoming.isNone then satInc m.takeovers 0xFF else m.takeovers
    handovers := if m.incoming.isSome then satInc m.handovers 0xFF else m.handovers
    handover := if drill then .drilling (s.dt + s.img.drillMs * msTicks) else m.handover } }
  let s3 := if m.incoming.isSome then sendRole s2 0 false else s2
  (s3.store.sentences.map (·.1)).foldl (fun s h => prepareMirrored (repairSentence s h) h) s3

/-- The HANDOVER verb ends (R418). -/
def endHandover (s : State) (h : Hdr) (status taken lost cause : Nat) : State :=
  State.complete { s with mate := { s.mate with handover := .none } } h 0x05 status (taken + 2 ^ 16 * lost + 2 ^ 32 * cause)

/-- Tile links that are up. -/
def State.upTiles (s : State) : List Nat := s.placedTiles.filter fun t => (s.link t).up

/-- The last step of a takeover, once every granted tile is adopted or quarantined. A verb HANDOVER whose drill has come
back ends; the drill's cause is known to the mate only, so it is a free value here. -/
def takeoverEnd (s : State) : State :=
  if s.mate.takeover == .adopting &&
      s.mate.granted.all fun t => (s.link t).tile == .adopted || (s.link t).tile == .quarantined || !(s.link t).up then
    let s1 := becomeActive s
    match s.mate.handover with
    | .released h true _ =>
      let (v, s2) := s1.draw
      let cause := v % 7
      endHandover s2 h (if cause = 0 then stSuccess else stRefused) s.mate.granted.length
        (s.placedTiles.length - s.mate.granted.length) cause
    | _ => s1
  else s

/-- The tile is adopted at once or quarantined, once its adoption can be decided (R265 to R267). -/
def tryAdopt (s : State) (t : Nat) : State :=
  if s.adoptReady t then takeoverEnd (if (s.link t).current then finishAdoption s t [] else quarantine s t) else s

/-- Every tile whose adoption can be decided. -/
def tryAdoptAll (s : State) : State := s.placedTiles.foldl tryAdopt s

end Sys2Proof.Machine
end

