-- ==== Sys2Proof/Machine/Links.lean ====
section
/-! DEFINITION. The link protocol at both ends of a tile link, and the frames that the controller receives (chapter "Paost
tile links", R241 to R271, R513; R407, R408, R414 for what a claim's answer means in a takeover). -/

namespace Sys2Proof.Machine

/-! ## CRC (R246) -/

/-- One bit into the CRC-16 of polynomial 0x1021. -/
def crcBit (c : BitVec 16) (b : Bool) : BitVec 16 :=
  if c.msb != b then (c <<< 1) ^^^ 0x1021#16 else c <<< 1

/-- The low `n` bits of a word into the CRC, bit 0 first. -/
def crcBits {w : Nat} (c : BitVec 16) (n : Nat) (v : BitVec w) : BitVec 16 :=
  (List.range n).foldl (fun c i => crcBit c (v.getLsbD i)) c

/-- CRC of a control block and the data blocks that follow it, from the initial value `init` (R246). -/
def frameCrc (init : Nat) (control : BitVec 64) (data : List (BitVec 64)) : BitVec 16 :=
  data.foldl (fun c d => crcBits c 64 d) (crcBits (BitVec.ofNat 16 init) 48 control)

/-- The frame passes its CRC and its SEQ3 as frame `n` of its stream (R246, R251). -/
def frameOk (multi : Bool) (n : Nat) (control : BitVec 64) (data : List (BitVec 64)) : Bool :=
  let v := control.toNat
  bits v 4 3 == n % 8 && BitVec.ofNat 16 (bits v 48 16) == frameCrc (if multi then 0x1000 + n else n) control data &&
    (if multi then bits v 7 6 == data.length else data.isEmpty)

/-! ## The two ends -/

end Sys2Proof.Machine

namespace Sys2Proof

/-- The tile whose link an end belongs to. -/
def LinkEnd.num : LinkEnd → Nat
  | .controller t => t
  | .tile t => t

/-- The end is the controller's. -/
def LinkEnd.here : LinkEnd → Bool
  | .controller _ => true
  | .tile _ => false

end Sys2Proof

namespace Sys2Proof.Machine

/-- The streams at one end. -/
def State.port (s : State) (e : LinkEnd) : LinkPort := if e.here then (s.link e.num).near else (s.tile e.num).far

def State.setPort (s : State) (e : LinkEnd) (p : LinkPort) : State :=
  if e.here then s.modLink e.num fun l => { l with near := p } else s.modTile e.num fun x => { x with far := p }

/-- A link block leaves an end. -/
def sendBlock (s : State) (e : LinkEnd) (name : String) (fields : List Nat) : State :=
  if e.here then s.down e.num name fields else s.up e.num (s.link e.num).portB name fields

/-- Number of the last frame received in order, of the next expected `n`. -/
def lastOf (n : Nat) : Nat := (n + 4095) % 4096

/-- Frames through number `n` are acknowledged; a number that is not outstanding acknowledges nothing new. -/
def ackThrough (l : List Nat) (n : Nat) : List Nat := if l.contains n then l.drop (l.idxOf n + 1) else l

/-- An acknowledgement of one stream arrives (R250, R252). -/
def LinkPort.acked (p : LinkPort) (multi : Bool) (n t : Nat) : LinkPort :=
  if multi then { p with unackedM := ackThrough p.unackedM n, ackAt := t }
  else { p with unacked1 := ackThrough p.unacked1 n, ackAt := t }

/-- A LINKCTL NAK names the first missing frame (R251). -/
def sendNak (s : State) (e : LinkEnd) (multi : Bool) : State :=
  let p := s.port e
  let s1 := s.setPort e (if multi then { p with missingM := true, nakAtM := s.dt } else { p with missing1 := true, nakAt1 := s.dt })
  sendBlock s1 e "LINKCTL" [1, b2n multi, if multi then p.expectM else p.expect1]

/-- A LINKCTL ACK names the last frame received in order (R250). -/
def sendAck (s : State) (e : LinkEnd) (multi : Bool) : State :=
  let p := s.port e
  let s1 := s.setPort e (if multi then { p with ackSentM := s.dt } else { p with ackSent1 := s.dt })
  sendBlock s1 e "LINKCTL" [0, b2n multi, lastOf (if multi then p.expectM else p.expect1)]

/-- A NAK that names frame `n` arrives: the stream is sent again from it; a fourth one takes the link DOWN (R251, R252). A
replay uses up an injected CRC inversion (R439). -/
def takeNak (s : State) (e : LinkEnd) (multi : Bool) (n : Nat) : State :=
  let p := s.port e
  let c := if multi then (if p.nakNumM = n then p.nakCountM + 1 else 1) else (if p.nakNum1 = n then p.nakCount1 + 1 else 1)
  let s1 := s.setPort e (if multi then { p with nakNumM := n, nakCountM := c } else { p with nakNum1 := n, nakCount1 := c })
  let s2 := if e.here then s1.modLink e.num fun l => { l with replays := satInc l.replays 0xFFFF } else s1
  if 4 ≤ c then (if (s2.link e.num).state == .down then s2 else linkDown s2 e.num)
  else
    let s3 := sendBlock s2 e "REPLAY" [b2n multi, n]
    if e.here then s3.modLink e.num fun l => { l with injectCrc := false } else s3

/-- What a whole frame's header says to the transmitter beside it: the acknowledgements of DRIVE, SENSE and READBACK
headers (R250), the NAK of an EVENT (R251). -/
def takeHeader (s : State) (e : LinkEnd) (multi : Bool) (control : BitVec 64) : State :=
  let v := control.toNat
  if multi then s.setPort e (((s.port e).acked false (bits v 24 12) s.dt).acked true (bits v 36 12) s.dt)
  else if bits v 0 4 = 7 && bit v 22 then takeNak s e (bit v 35) (bits v 23 12)
  else s

/-- Whole link blocks carry FTYPE 0, 1 or 2. -/
def isLinkCode (control : BitVec 64) : Bool := decide (bits control.toNat 0 4 ≤ 2)

/-- LINK_FRAME_RECEIVE (R249, R251): the frame counts in number order; the frames' own rows act on their contents. -/
def execLinkFrameReceive (at_ : LinkEnd) (multi : Bool) (control : BitVec 64) (data : List (BitVec 64)) (s : State) :
    Host.Outcome State Fault Refusal :=
  let p := s.port at_
  if 14 ≤ bits control.toNat 0 4 then
    if at_.here then ok s (s.modLink at_.num fun l => { l with syncErr := satInc l.syncErr 0xFFFF }) else .next s
  else if isLinkCode control then .next s
  else if frameOk multi (if multi then p.expectM else p.expect1) control data then
    let p1 := if multi then { p with expectM := (p.expectM + 1) % 4096, missingM := false }
              else { p with expect1 := (p.expect1 + 1) % 4096, missing1 := false }
    ok s (takeHeader (s.setPort at_ p1) at_ multi control)
  else if (if multi then p.missingM else p.missing1) then .next s
  else
    let s1 := if at_.here then s.modLink at_.num fun l => { l with crcErr := satInc l.crcErr 0xFFFF } else s
    ok s (sendNak s1 at_ multi)

/-- LINKCTL_ACK_RECEIVE (R250). -/
def execLinkctlAckReceive (at_ : LinkEnd) (multi : Bool) (num : Nat) (s : State) : Host.Outcome State Fault Refusal :=
  ok s (s.setPort at_ ((s.port at_).acked multi num s.dt))

/-- LINKCTL_NAK_RECEIVE (R251, R252). -/
def execLinkctlNakReceive (at_ : LinkEnd) (multi : Bool) (num : Nat) (s : State) : Host.Outcome State Fault Refusal :=
  ok s (takeNak s at_ multi num)

/-- NAK_REPEAT_TIMEOUT (R251): twice the round trip plus 100 ns after the NAK. -/
def execNakRepeatTimeout (at_ : LinkEnd) (multi : Bool) (s : State) : Host.Outcome State Fault Refusal :=
  let p := s.port at_
  let wait := 8 * (if multi then p.nakAtM else p.nakAt1) + 4 * (s.link at_.num).delay + 1000
  if (if multi then p.missingM else p.missing1) && wait ≤ 8 * s.dt then ok s (sendNak s at_ multi) else .next s

/-- ACK_IDLE_TIMEOUT (R250): 2 commas without an acknowledging header. -/
def execAckIdleTimeout (at_ : LinkEnd) (multi : Bool) (s : State) : Host.Outcome State Fault Refusal :=
  let p := s.port at_
  if (s.link at_.num).up && (if multi then p.ackSentM else p.ackSent1) + 2 * usTicks ≤ s.dt then ok s (sendAck s at_ multi)
  else .next s

/-- ACK_MISSING_TIMEOUT (R252): 4 commas without an acknowledgement while frames are outstanding. -/
def execAckMissingTimeout (tile : Nat) (s : State) : Host.Outcome State Fault Refusal :=
  let p := (s.link tile).near
  if (s.link tile).up && !(p.unacked1.isEmpty && p.unackedM.isEmpty) && p.ackAt + 4 * usTicks ≤ s.dt then
    ok s (linkDown s tile)
  else .next s

/-- BLOCK_LOCK_LOSS (R244, R252): sixteen invalid sync headers within 64 blocks. -/
def execBlockLockLoss (tile : Nat) (s : State) : Host.Outcome State Fault Refusal :=
  let s1 := s.modLink tile fun l => { l with syncErr := satAdd l.syncErr 16 0xFFFF, blockLock := false }
  ok s (if (s.link tile).state == .down then s1 else linkDown s1 tile)

/-! ## Training (R261, R262) -/

/-- The link may train: placed, image applied, not held, the role of a paired controller decided (R396, R453, R454). -/
def State.mayTrain (s : State) (t : Nat) : Bool :=
  s.img.placed t && s.chip.imageApplied && s.chip.mainRun && !s.chip.heldFabric &&
    !(s.region (tileRegion t)).linkBlk && !(s.region (tileRegion t)).linkFenced.contains (t % 16) &&
    (!s.img.mateEnable || s.mate.role != .starting)

/-- Table 18-3: preset taps PRE, MAIN, POST of a band and a speed. -/
def presetOf (band speed : Nat) : Nat × Nat × Nat :=
  match band, speed with
  | 0, 3 => (2, 50, 8)
  | 0, 4 => (3, 47, 10)
  | 1, 3 => (2, 49, 9)
  | 1, 4 => (3, 46, 11)
  | 2, 3 => (2, 48, 10)
  | 2, 4 => (4, 44, 12)
  | 3, 3 => (3, 46, 11)
  | 3, 4 => (4, 43, 13)
  | 4, 3 => (3, 45, 12)
  | 4, 4 => (5, 41, 14)
  | b, _ => (0, 56 - b / 2, 4 + b / 2)

/-- Band of a region (R477): that of its sensor, else of sensor 16. -/
def State.band (s : State) (n : Nat) : Nat :=
  let k := tabGet s.house.temps {} n
  if k.valid then k.band else (tabGet s.house.temps {} 16).band

/-- The preset of a link at a training step (R478): the image's list by band and speed, else Table 18-3. -/
def State.preset (s : State) (t speed : Nat) : Nat × Nat × Nat :=
  let b := s.band (tileRegion t)
  match s.img.presets.bind fun l => (l[b]?).bind fun r => r[speed]? with
  | some p => p
  | none => presetOf b speed

/-- A training step begins: taps at the preset, TRAIN blocks of phase STEP. -/
def beginStep (s : State) (t speed : Nat) : State :=
  let (pre, main, post) := s.preset t speed
  (s.modLink t fun l => { l with state := .step, stepSpeed := speed, tapPre := pre, tapMain := main, tapPost := post }).down
    t "TRAIN" [2, speed, 0, 0]

/-- One tap request within the limits of R262: the tap, and whether the request broke them. -/
def tapRequest (req v lo hi rest : Nat) : Nat × Bool :=
  match req with
  | 1 => if v < hi && v + rest < 63 then (v + 1, false) else (v, true)
  | 2 => if lo < v then (v - 1, false) else (v, true)
  | _ => (v, false)

/-- The far receiver's tap requests are taken, and answered with AT_LIMIT. -/
def takeTaps (s : State) (t : Nat) (b : TrainBlock) : State :=
  let l := s.link t
  let (pre, x) := tapRequest b.reqPre l.tapPre 0 15 (l.tapMain + l.tapPost)
  let (main, y) := tapRequest b.reqMain l.tapMain 20 63 (pre + l.tapPost)
  let (post, z) := tapRequest b.reqPost l.tapPost 0 31 (pre + main)
  (s.setLink t { l with tapPre := pre, tapMain := main, tapPost := post }).down t "TRAIN"
    [2, l.stepSpeed, b2n x + 2 * b2n y + 4 * b2n z, 0]

/-- The speed that a link steps up to (R261). -/
def State.speedLimit (s : State) (t : Nat) : Nat := min (min (s.link t).farMax (s.link t).maxSpeed) s.img.linkMaxSpeed

/-- CLAIM is sent, unless this controller holds the token (R264, R269). -/
def sendClaim (s : State) (t : Nat) : State :=
  (s.modLink t fun l => { l with claimed := none, ident := [], readback := [], readAsked := false }).down t "CLAIM" []

/-- A link becomes ACTIVE: both streams begin afresh, adoption begins (R264). The standby's claim is refused while the
active's heartbeats reach the tile (R398). -/
def linkActive (s : State) (t : Nat) (limited : Bool) : State :=
  let port : LinkPort := { ackAt := s.dt, ackSent1 := s.dt, ackSentM := s.dt }
  let s1 := s.modLink t fun l => { l with
    state := .active, tile := .adopting, limited, trainings := satInc l.trainings 0xFFFF, near := port
    claimed := if l.owner then some true else none
    ident := [], readback := [], readAsked := false, tempSeen := false, stepFails := 0 }
  let s2 := s1.modTile t fun x => { x with far := port }
  if (s2.link t).owner then s2 else sendClaim s2 t

/-- TRAIN_BLOCK_RECEIVE (R243, R261, R262). -/
def execTrainBlockReceive (tile : Nat) (block : TrainBlock) (s : State) : Host.Outcome State Fault Refusal :=
  let l := s.link tile
  if !s.mayTrain tile then .next s else
    match l.state, block.phase with
    | .down, 0 =>
      ok s ((s.setLink tile { l with state := .caps, blockLock := true, speed := 0 }).down tile "TRAIN" [1, 0, l.maxSpeed, 0])
    | .caps, 1 =>
      ok s ((s.setLink tile { l with farMax := block.maxSpeed, portB := block.portB, farVersion := block.version }).down
        tile "TRAIN" [4, 0, 0, 0])
    | .caps, 5 => ok s (beginStep (s.setLink tile { l with delay := min 1023 (block.roundTripTenthNs / 2) }) tile 0)
    | .step, 2 => ok s (if block.lock then s.down tile "TRAIN" [4, l.stepSpeed, 0, 1] else takeTaps s tile block)
    | .step, 3 => ok s (s.down tile "TRAIN" [4, l.stepSpeed, 0, 1])
    | .step, 5 =>
      let s1 := s.setLink tile { l with
        delay := min 1023 (block.roundTripTenthNs / 2), speed := l.stepSpeed, stepFails := 0 }
      ok s (if l.stepSpeed < s.speedLimit tile then beginStep s1 tile (l.stepSpeed + 1) else linkActive s1 tile false)
    | _, _ => .next s

/-- TRAIN_STEP_TIMEOUT (R262): a step is tried three times; then the last speed that locked stands, or DETECT where none
did. -/
def execTrainStepTimeout (tile : Nat) (s : State) : Host.Outcome State Fault Refusal :=
  let l := s.link tile
  if l.state != .step then .next s
  else if l.stepFails < 2 then ok s (beginStep (s.setLink tile { l with stepFails := l.stepFails + 1 }) tile l.stepSpeed)
  else if l.stepSpeed = 0 then ok s ((s.setLink tile { l with state := .down, stepFails := 0 }).down tile "TRAIN" [0, 0, 0, 0])
  else ok s (linkActive s tile true)

/-- EIDLE_ENTER (R263): nothing is queued, so nothing is unacknowledged at the controller. -/
def execEidleEnter (at_ : LinkEnd) (s : State) : Host.Outcome State Fault Refusal :=
  let l := s.link at_.num
  let p := s.port at_
  if !l.idleEn || !l.up || p.eidle then .next s
  else
    let s1 := (sendBlock s at_ "LINKCTL" [2, 0, 0]).setPort at_ { p with eidle := true }
    ok s (if at_.here then s1.modLink at_.num fun k => { k with state := .idle } else s1)

/-- EIDLE_EXIT (R263): 64 TRAIN blocks of phase IDLE_EXIT. -/
def execEidleExit (at_ : LinkEnd) (s : State) : Host.Outcome State Fault Refusal :=
  let p := s.port at_
  if !p.eidle then .next s
  else
    let s1 := (sendBlock s at_ "TRAIN" [6, 64]).setPort at_ { p with eidle := false }
    ok s (if at_.here then s1.modLink at_.num fun k => { k with state := .active } else s1)

/-- LINK_RETRAIN (LINK_CONFIG.RETRAIN): the link goes DOWN and trains again. -/
def retrain (s : State) (t : Nat) : State := if (s.link t).state == .down then s else linkDown s t

def execLinkRetrain (tile : Nat) (s : State) : Host.Outcome State Fault Refusal := mainRow s (retrain · tile)

/-- LINK_INJECT_CRC (LINK_CONFIG.INJECT_CRC). -/
def injectCrc (s : State) (t : Nat) : State := s.modLink t fun l => { l with injectCrc := true }

def execLinkInjectCrc (tile : Nat) (s : State) : Host.Outcome State Fault Refusal := mainRow s (injectCrc · tile)

/-! ## Claims and what they mean (R264, R269, R407, R408, R414) -/

/-- READBACK_REQ follows the claim and the four IDENT words (R264). -/
def askRead (s : State) (t : Nat) : State :=
  let l := s.link t
  if l.claimed.isSome && l.identDone && !l.readAsked then
    (s.setLink t { l with readAsked := true, readback := [] }).down t "READBACK_REQ" []
  else s

/-- Every claim is answered: resolution of the mirrored tokens, or adoption (R407 steps 3 and 4). -/
def claimsDone (s : State) : State :=
  if s.mate.takeover == .claiming && s.mate.claims.isEmpty then
    if s.store.launches.isEmpty then takeoverEnd (tryAdoptAll { s with mate := { s.mate with takeover := .adopting } })
    else { s with mate := { s.mate with takeover := .resolving } }
  else s

/-- A refused claim in a takeover: the active is alive (R408). In a handover the taking is refused and undone. -/
def claimRefused (s : State) (t : Nat) : State :=
  let s0 := s.modLink t fun l => { l with owner := false, claimed := some false }
  if s.mate.takeover == .claiming && s.mate.claims.contains t then
    let s1 := releaseTiles s0 s.mate.granted
    let m := { s1.mate with takeover := .none, claims := [], granted := [] }
    match s.mate.incoming with
    | some ret => sendRole { s1 with mate := { m with incoming := none } } 1 ret
    | none =>
      ({ s1 with mate := { m with splitAverted := true, retryAt := some (s.dt + msTicks) } }).report 0x0081 srcMate
  else askRead s0 t

/-- A granted claim: IDENT and READBACK follow; in a takeover or handover the tile is one of those taken. -/
def claimGranted (s : State) (t : Nat) : State :=
  let s1 := s.modLink t fun l => { l with owner := true, claimed := some true }
  if s.mate.takeover == .claiming && s.mate.claims.contains t then
    let s2 := s1.modLink t fun l => { l with tile := .adopting, ident := [], readback := [], readAsked := false }
    claimsDone { s2 with mate := { s2.mate with
      claims := s2.mate.claims.filter (· ≠ t), granted := s2.mate.granted ++ [t] } }
  else askRead s1 t

/-- SET_EPOCH once every write that the epoch counts is acknowledged (R265). -/
def flushEpoch (s : State) (t : Nat) : State :=
  let l := s.link t
  if l.tile == .adopted && l.epochDirty && l.acksOpen = 0 then
    (s.setLink t { l with epochDirty := false }).down t "SET_EPOCH" [l.epoch]
  else s

/-- A write that the epoch counts is acknowledged. -/
def writeAcked (s : State) (t : Nat) : State :=
  flushEpoch (s.modLink t fun l => { l with acksOpen := l.acksOpen - 1 }) t

/-- CMD_ACK_RECEIVE (R184, R253, R264, R265, R407, R408). -/
def execCmdAckReceive (tile opcode : Nat) (good : Bool) (slot : Nat) (s : State) : Host.Outcome State Fault Refusal :=
  if opcode = 0x0A then ok s (if good then claimGranted s tile else claimRefused s tile)
  else if opcode = 0x01 && slot < 256 then
    let s1 := writeAcked s tile
    match s1.store.sentences.find? fun p => p.2.slot = some slot with
    | some p => ok s (finishArming (s1.modSent p.1 fun x => { x with slotAcked := x.slotAcked ++ [tile] }) p.1)
    | none => ok s s1
  else if [0x03, 0x05, 0x06, 0x08].contains opcode then ok s (writeAcked s tile)
  else .next s

/-- The owner field of IDENT's STATE word (Table 9-4). -/
def Link.identOwner (l : Link) : Nat := bits (l.identWord 3) 16 2

/-- IDENT_RECEIVE (R264, R265, R408): the words of a tile; a token found at NONE is claimed again. -/
def execIdentReceive (tile word : Nat) (value : Word32) (s : State) : Host.Outcome State Fault Refusal :=
  let s1 := s.modLink tile fun l => { l with ident := (l.ident.filter fun p => p.1 ≠ word) ++ [(word, value)] }
  let l := s1.link tile
  if word = 3 && l.identOwner = 0 && l.owner && (s.mate.role == .active || s.mate.role == .alone) && !s.tokensBarred then
    ok s (sendClaim (loseTile s1 tile) tile)
  else ok s (tryAdopt (askRead s1 tile) tile)

/-- READBACK_RECEIVE (R264): 64 held codes; with all sixteen the adoption is decided. -/
def execReadbackReceive (tile part : Nat) (codes : List Nat) (s : State) : Host.Outcome State Fault Refusal :=
  let s1 := s.modLink tile fun l => { l with readback := (l.readback.filter fun p => p.1 ≠ part) ++ [(part, codes)] }
  ok s (tryAdopt s1 tile)

/-- TEMP_RECEIVE (R226, R513). -/
def execTempReceive (tile : Nat) (temp : Int) (s : State) : Host.Outcome State Fault Refusal :=
  let s1 := s.modLink tile fun l => { l with temp, tempSeen := true }
  let s2 := if (s.link tile).tile == .adopted then retune s1 tile else settleSurfaces s1 tile
  ok s (tryAdopt (calTempTrigger s2 tile) tile)

/-- ADOPT_CORRECTION_END (R267 step 4): no correction is left; the tile rejoins. -/
def execAdoptCorrectionEnd (tile : Nat) (s : State) : Host.Outcome State Fault Refusal :=
  let l := s.link tile
  if l.tile == .quarantined && l.corrections.isEmpty && l.acksOpen = 0 then
    let h := fun e => l.held (e % 1024)
    let moved := (tileEids tile).filter fun e => (s.elem e).drive ≠ h e
    ok s (takeoverEnd (finishAdoption s tile moved))
  else .next s

/-! ## Events of a tile -/

/-- TILE_FAULT_RECEIVE (R427): the fault names the tile, then the tile is fenced. -/
def execTileFaultReceive (tile detail : Nat) (s : State) : Host.Outcome State Fault Refusal :=
  ok s (fenceTile (s.report 0x0031 (srcTile tile) tile detail) tile)

/-- TOKEN_LOST_RECEIVE (R269, R408): claimed again by a controller that drives tiles. -/
def execTokenLostReceive (tile : Nat) (s : State) : Host.Outcome State Fault Refusal :=
  let s1 := loseTile (s.report 0x0033 (srcTile tile) tile) tile
  ok s (if s.mate.role == .active || s.mate.role == .alone then sendClaim s1 tile else s1)

/-! ## Heartbeats (R270, R401) -/

/-- The heartbeat word (R401). -/
def State.hbWord (s : State) : Nat :=
  let m := s.mate
  m.hbSeq + 2 ^ 16 * m.role.code + 2 ^ 18 * b2n m.synced + 2 ^ 19 * b2n (match m.handover with
    | .drilling _ => true
    | _ => false) + 2 ^ 20 * (s.chip.digest.toNat % 4096)

/-- Heartbeats are sent at all (R430, R445, R453). -/
def State.beats (s : State) : Bool := s.chip.mainRun && s.chip.imageApplied && !s.faults.safeState && !s.chip.heldFabric

/-- HBEAT_SEND (R270): every 10 µs, on every link that is up and on the mate port. -/
def execHbeatSend (s : State) : Host.Outcome State Fault Refusal :=
  if !s.beats || s.dt < s.mate.hbAt + 10 * usTicks then .next s
  else
    let w := s.hbWord
    let s1 := { s with mate := { s.mate with hbSeq := (s.mate.hbSeq + 1) % 2 ^ 16, hbAt := s.dt } }
    let s2 := s1.upTiles.foldl (fun (s : State) t => s.down t "HBEAT" [0, b2n (s.link t).portB, w]) s1
    ok s (if s.img.mateEnable then s2.emit (.mateFrame "HEARTBEAT" [w]) else s2)

/-- RELAYED_HBEAT_RECEIVE (R402): the relay path has a heartbeat of the mate. -/
def execRelayedHbeatReceive (_tile : Nat) (_word : Word32) (s : State) : Host.Outcome State Fault Refusal :=
  if s.img.mateEnable then ok s { s with mate := { s.mate with relayAt := some s.dt } } else .next s

/-! ## Tile logs (R271) -/

/-- The next burst of a tile's log is pulled: at most 256 words. -/
def pullLog (s : State) (t : Nat) : State :=
  let l := s.link t
  let n := min 256 (l.logLen - l.logOffset)
  if l.logOpen && l.logBurst.isNone && 0 < n then
    (s.setLink t { l with logBurst := some n }).down t "BULK_PULL" [l.logOffset, n - 1]
  else s

/-- LOG_INFO_RECEIVE (R271). -/
def execLogInfoReceive (tile length : Nat) (withdrawn : Bool) (s : State) : Host.Outcome State Fault Refusal :=
  let l := s.link tile
  if withdrawn then ok s (s.setLink tile { l with logOpen := false })
  else
    let l1 := { l with logLen := length, logOffset := 0, logOpen := true, logBurst := none, logWords := [] }
    ok s (pullLog (s.setLink tile l1) tile)

/-- BULK_RECEIVE (R271): a burst with a withdrawn frame is discarded whole. -/
def execBulkReceive (tile index : Nat) (data : Word32) (withdrawn : Bool) (s : State) : Host.Outcome State Fault Refusal :=
  let l := s.link tile
  match l.logBurst with
  | none => .next s
  | some n =>
    let l1 := { l with logWords := l.logWords ++ [data], logOpen := l.logOpen && !withdrawn }
    if index + 1 < n then ok s (s.setLink tile l1)
    else if l1.logOpen then
      ok s (pullLog (s.setLink tile { l1 with logBurst := none, logOffset := l.logOffset + n }) tile)
    else
      ok s (s.setLink tile { l1 with
        logBurst := none, logWords := l1.logWords.take l.logOffset, bulkDiscard := satInc l.bulkDiscard 0xFF })

end Sys2Proof.Machine
end

