-- ==== Sys2Proof/Machine/Mating.lean ====
section
/-! DEFINITION. Mated redundancy: roles, mirroring, takeover, handover (chapter "Mated redundancy", R395 to R420), with
the resolution of outstanding tokens that a restart shares (R459). -/

namespace Sys2Proof.Machine

/-! ## Roles (R396, R414) -/

/-- The standby asks for a full snapshot (R404). -/
def askSnapshot (s : State) : State :=
  ({ s with mate := { s.mate with synced := false, snapshotWanted := true } }).emit (.mateFrame "SYNC_REQ" [])

/-- A controller becomes STANDBY: it drives no tile and issues no token; the launching verbs that it still holds end
NOT_READY, clauses on its tiles report TILE_LOST, sweeps and calibration runs end (Table 15-1, R414); it discards the
restart record and asks for the snapshot (R404, R459). -/
def becomeStandby (s : State) : State :=
  let hand := match s.mate.handover with
    | .released h r ms => Handover.released h r ms
    | _ => .none
  let m := { s.mate with role := .standby, takeover := .none, claims := [], granted := [], incoming := none, waits := [] }
  let c := { s.chip with restart := {}, resolved := true, restored := [], strays := [] }
  let s1 := { s with mate := { m with handover := hand }, chip := c }
  let s2 := s1.store.preps.foldl notReadyPrep s1
  let s3 := s2.store.p0Queue.foldl (fun (s : State) r => match r.trigger with
    | .fire h => (s.modSent r.handle fun t => { t with state := .armed }).complete h 0x16 stNotReady cancelledFields
    | .doorbell q tag => doorbellReport (s.modSent r.handle fun t => { t with state := .armed }) q tag r.handle stNotReady
    | _ => s.modSent r.handle fun t => { t with state := .armed }) s2
  let gone := s3.store.launches.map fun l =>
    { l with tiles := l.tiles.map fun x => if x.2.2 = .waiting then (x.1, x.2.1, .lost) else x }
  let s4 := { s3 with store := { s3.store with p0Queue := [], launches := gone } }
  let s5 := s4.placedTiles.foldl loseTile (settleAll s4)
  askSnapshot (loseCalRuns (endRuns s5 (fun _ => true) endLost) fun _ => true)

/-- Tiles of which this controller lacks the token though their links are up. -/
def State.lostTiles (s : State) : List Nat := s.upTiles.filter fun t => !(s.link t).owner

/-- The role after a heartbeat of the mate (R396, R414). -/
def decideRole (s : State) : State :=
  let m := s.mate
  match m.role, m.mateRole with
  | .starting, .active => becomeStandby s
  | .starting, .alone => becomeStandby s
  | .starting, .starting =>
    if m.matePrio < s.img.matePrio || (m.matePrio = s.img.matePrio && s.chip.otp.identity < m.mateId) then
      { s with mate := { m with role := .active } }
    else becomeStandby s
  | .alone, .starting => { s with mate := { m with role := .active } }
  | .alone, .standby => { s with mate := { m with role := .active } }
  | .active, .active => if !m.mateSynced && !s.lostTiles.isEmpty then becomeStandby s else s
  | _, _ => s

/-- The role that a heartbeat word names. -/
def roleOf (w : Nat) : Role :=
  match bits w 16 2 with
  | 0 => .starting
  | 1 => .active
  | 2 => .standby
  | _ => .alone

/-- A mismatch of image hashes, digests or safety check values (R397, R419): its bit, the fault, not SYNCED. -/
def setMismatch (s : State) : State :=
  if s.mate.digestMismatch then { s with mate := { s.mate with synced := false } }
  else ({ s with mate := { s.mate with digestMismatch := true, synced := false } }).report 0x0083 srcMate

/-- MATE_HEARTBEAT_RECEIVE (R396, R397, R401, R402, R414). -/
def execMateHeartbeatReceive (word : Word32) (mateId matePrio : Nat) (mateHash : BitVec 256) (s : State) :
    Host.Outcome State Fault Refusal :=
  if !s.img.mateEnable || !s.chip.imageApplied || !s.chip.mainRun then .next s
  else
    let w := word.toNat
    let s1 := { s with mate := { s.mate with
      link := true, mateAt := some s.dt, mateId, matePrio, mateHash, mateRole := roleOf w, mateSynced := bit w 18
      mateDrill := bit w 19, mateTag := BitVec.ofNat 12 (bits w 20 12) } }
    let s2 := if mateHash ≠ s.img.hash then setMismatch s1 else s1
    ok s (decideRole s2)

/-- MATE_WAIT_EXPIRE (R396): no heartbeat within MATE_WAIT ms. -/
def execMateWaitExpire (s : State) : Host.Outcome State Fault Refusal :=
  if s.img.mateEnable && s.chip.imageApplied && s.mate.role == .starting && s.mate.mateAt.isNone &&
      s.mate.waitFrom + s.img.mateWait * msTicks ≤ s.dt then
    ok s { s with mate := { s.mate with role := .alone } }
  else .next s

/-! ## Paths and takeover (R402, R403, R407, R408) -/

/-- A path is alive: a heartbeat within the last 30 µs (R402). -/
def State.alive (s : State) (at_ : Option Nat) : Bool :=
  match at_ with
  | some t => s.dt ≤ t + 30 * usTicks
  | none => false

/-- Both paths are dead. -/
def State.bothDead (s : State) : Bool := !s.alive s.mate.mateAt && !s.alive s.mate.relayAt

/-- The takeover begins: CLAIM on every tile link that is up (R407 step 1). Also a handover's step 4. -/
def startTakeover (s : State) : State :=
  let ts := s.upTiles
  let s1 := { s with mate := { s.mate with takeover := .claiming, claims := ts, granted := [], deferred := [] } }
  claimsDone (ts.foldl sendClaim s1)

/-- PATH_ALARM and its fault (R403). -/
def pathAlarm (s : State) : State :=
  ({ s with mate := { s.mate with pathAlarm := true, pathAlarms := satInc s.mate.pathAlarms 0xFF } }).report 0x0080 srcMate

/-- The evaluation of both paths at a comma boundary (R402, R403): the alarm when the state of the paths changes to one
that has it; the standby's takeover. -/
def matePaths (s : State) : State :=
  if !s.img.mateEnable || !s.chip.imageApplied || s.mate.role == .starting then s
  else
    let a := s.alive s.mate.mateAt
    let b := s.alive s.mate.relayAt
    let changed := a != s.mate.pathMate || b != s.mate.pathRelay
    let s1 := { s with mate := { s.mate with pathMate := a, pathRelay := b, link := s.mate.link && a } }
    let may := s1.mate.synced || s1.img.takeUnsynced
    if a && b then s1
    else if a || b then (if changed then pathAlarm s1 else s1)
    else if s1.mate.role == .standby && may then
      (if s1.mate.takeover == .none && s1.mate.retryAt.isNone && !s1.faults.safeState then startTakeover s1 else s1)
    else if changed && s1.mate.role != .alone then pathAlarm s1
    else s1

/-- SPLIT_RETRY (R408): 1 ms after the averted split. -/
def execSplitRetry (s : State) : Host.Outcome State Fault Refusal :=
  match s.mate.retryAt with
  | none => .next s
  | some t =>
    if s.dt < t then .next s
    else
      let s1 := { s with mate := { s.mate with retryAt := none } }
      ok s (if s1.bothDead && s1.mate.role == .standby && s1.mate.takeover == .none then startTakeover s1 else s1)

/-! ## Outstanding tokens (R409, R459) -/

/-- What LAST_SERIAL as read from tile `t` says of a token (R409). -/
def State.tokenResult (s : State) (serial : Serial) (t : Nat) : TileResult :=
  let l := s.link t
  if !l.up || !l.identDone then .lost
  else if l.identSerial = serial || newer l.identSerial serial then .latched
  else .missed

/-- One tile of an outstanding token is resolved: a tile that shows the serial has latched it; one that shows a newer
serial is taken to have latched it and is adopted as stale (R409). Elements moved there enter SWITCHING (R462). -/
def resolveTile (l : Launch) (s : State) (t : Nat) : State :=
  let r := s.tokenResult l.serial t
  let s1 := setTileResult s l.serial t r
  if r = .latched then
    let s2 := if (s.link t).identSerial = l.serial then noteSerial s1 l t
              else s1.modLink t fun k => { k with known := false }
    { s2 with chip := { s2.chip with resolvedMoves := s2.chip.resolvedMoves ++ (movingEids l.acts).filter fun e => eidTile e == t } }
  else s1

/-- An outstanding token is resolved on every tile of its footprint; then it settles under R78. -/
def resolveToken (s : State) (l : Launch) : State :=
  checkSettle (((l.tiles.filter fun x => x.2.2 = .waiting).map (·.1)).foldl (resolveTile l) s) l.serial

/-- Every token of the takeover is resolved: adoption follows (R407 step 4). -/
def resolvedAll (s : State) : State :=
  if s.mate.takeover == .resolving && s.store.launches.all fun l => l.allIn then
    takeoverEnd (tryAdoptAll { s with mate := { s.mate with takeover := .adopting } })
  else s

/-- TAKEOVER_TOKEN_RESOLVE (R409): 20 µs after the launch time. -/
def execTakeoverTokenResolve (serial : Serial) (s : State) : Host.Outcome State Fault Refusal :=
  match s.store.launches.find? fun l => l.serial = serial && !l.allIn with
  | none => if s.mate.takeover == .resolving then ok s (resolvedAll s) else .next s
  | some l =>
    if s.mate.takeover != .resolving || s.dt < l.tick + 20 * usTicks then .next s
    else ok s (resolvedAll (resolveToken s l))

/-- DEFERRED_LOS_FIRE (R411): the new active owns every tile of the footprint, the loss of light is still raised. -/
def execDeferredLosFire (handle : Nat) (s : State) : Host.Outcome State Fault Refusal :=
  let t := s.sent handle
  let bound := s.mate.deferred.filter fun m => (s.monitor m).los && match s.img.portOfMonitor m with
    | some (inp, pr) => t.ports.contains { input := inp, port := pr.port } && s.losMatches t { input := inp, port := pr.port }
    | none => false
  match bound with
  | [] => .next s
  | m :: _ =>
    if t.state != .armed || !s.issuesTokens || !((tilesOf t.armedMoved).all fun k => (s.link k).owner) then .next s
    else
      let s1 := { s with mate := { s.mate with
        deferred := s.mate.deferred.filter (· ≠ m), deferredFires := satInc s.mate.deferredFires 0xFFFF } }
      ok s (fireSentence s1 handle (.deferredLos m t.armSrc) false s.dt)

/-! ## Mirroring (R404 to R406, R419) -/

def sentOfCode : Nat → SentState
  | 0 => .free
  | 1 => .stored
  | 2 => .scheduled
  | 3 => .armed
  | 4 => .stale
  | _ => .launching

def paraOfCode : Nat → ParaState
  | 0 => .idle
  | 1 => .defined
  | 2 => .running
  | _ => .halted

def elemOfCode : Nat → EState
  | 0 => .uncal
  | 1 => .darkOff
  | 2 => .darkOn
  | 3 => .lit
  | 4 => .switching
  | 5 => .suspect
  | _ => .retired

/-- A mirrored optional number: 0 for none. -/
def optOf (n : Nat) : Option Nat := if n = 0 then none else some (n - 1)

/-- Bits of a number. -/
def boolsOf (n k : Nat) : List Bool := (List.range k).map fun i => bit n i

/-- The numbers of a port list. -/
def portsOf (l : List Nat) : List PortRef := l.map fun n => { input := n % 2 == 1, port := n / 2 }

/-- A sentence as its mirror record gives it; clauses beyond those held arrive in records of their own. -/
def mirrorSentence (src : Source) (t : Sentence) (v : List Nat) : Sentence :=
  let g := fun i => v.getD i 0
  { t with
    state := sentOfCode (g 0), rearm := g 1 == 1, pgroup := g 2, slot := optOf (g 3), clauses := t.clauses.take (g 4)
    opts := { rearrangeOk := bit (g 5) 0, allOrNone := bit (g 5) 1 }
    lastStatus := g 6, lastSerial := BitVec.ofNat 16 (g 7), lastApplied := g 8, bitmap := boolsOf (g 10) (g 9)
    ports := portsOf (v.drop 11), armSrc := src, armTag := 0, armedList := [], armedMoves := [] }

/-- A sentence whose clause `j` a mirror record gives. -/
def mirrorClause (t : Sentence) (j : Nat) (r : Rec128) : Sentence :=
  { t with clauses := if j < t.clauses.length then t.clauses.set j r else t.clauses ++ [r], armedList := [], armedMoves := [] }

/-- The mirrored list of an ARMED sentence is derived again, its contexts brought on-chip (R398). -/
def armMirrored (s : State) (h : Nat) : State :=
  let s1 := prepareMirrored s h
  if (s1.sent h).state == .armed then promoteAll s1 (s1.sent h).armedMoved else s1

/-- One mirror record is applied (R404). -/
def applyRecord (s : State) (r : MirrorRec) : State :=
  let k := r.key
  let g := fun i => r.value.getD i 0
  match r.kind with
  | 1 =>
    let (l, ch) := s.tokenLaunch (tokenOfNats s.reportSource r.value) (BitVec.ofNat 16 k)
    enterToken s l ch
  | 2 => s.setConn k (if g 0 = 0 then none else
      some { clause := BitVec.ofNat 128 (g 3), handle := g 1, serial := BitVec.ofNat 16 (g 2) })
  | 3 => armMirrored (s.setSent k (mirrorSentence s.reportSource (s.sent k) r.value)) k
  | 4 => armMirrored (s.modSent k fun t => mirrorClause t (g 0) (BitVec.ofNat 128 (g 1))) k
  | 5 => s.setPara k { s.para k with
      state := paraOfCode (g 0), step := g 1, iter := g 2, start := signed (g 3) 112, period := g 4, repeats := g 5
      late := g 6, halt := g 7 == 1, reportAll := g 8 == 1, stopAtEnd := g 9 == 1, steps := pairsOf (r.value.drop 10)
      src := s.reportSource, tag := 0, inFlight := false }
  | 6 => s.modElem k fun e => { e with
      st := elemOfCode (g 0), on := g 1 == 1, lit := g 2 == 1, trimOn := signed (g 3) 16, trimOff := signed (g 4) 16
      outerTrim := signed (g 5) 16, clsOvr := optOf (g 6) }
  | 7 => s.modLink k fun l => { l with
      epoch := g 0, lastSerial := BitVec.ofNat 16 (g 1), idHeld := optOf (g 2), known := true }
  | 8 => { s with calib := { s.calib with version := g 0 } }
  | 9 =>
    if g 0 = s.lsu.check.toNat then { s with mate := { s.mate with safeMismatch := false } }
    else ({ s with mate := { s.mate with safeMismatch := true } }).report 0x0083 srcMate 1
  | 10 =>
    let n := g 1
    s.setCls k { s.cls k with
      activeB := g 0 == 1, bankA := bankOfNats ((r.value.drop 2).take n), bankB := bankOfNats (r.value.drop (2 + n)) }
  | 11 =>
    let e := k / 256
    let s1 := { s with calib := { s.calib with rowSet := tabSet s.calib.rowSet k (g 0) } }
    takeSurface s1 e (s1.surfaceOf e (s1.link (eidTile e)).temp)
  | 12 => dropLaunch s (BitVec.ofNat 16 k)
  | 13 =>
    let rest := s.store.scheds.filter fun x => x.handle != k
    { s with store := { s.store with
        scheds := if r.value.isEmpty then rest else
          rest ++ [{ handle := k, opts := (s.sent k).opts, t := signed (g 0) 112, late := g 1, src := s.reportSource, tag := 0
                     since := s.dt }] } }
  | _ => s

/-- The record numbers that frames carry have 22 bits (Table 15-5). -/
def recNum (n : Nat) : Nat := n % 2 ^ 22

/-- MIRROR_RECEIVE (R404): a record in turn, or one of a snapshot, is applied and acknowledged; a gap asks for one. -/
def execMirrorReceive (num : Nat) (rec : MirrorRec) (s : State) : Host.Outcome State Fault Refusal :=
  if s.mate.role != .standby then .next s
  else if s.mate.snapshotWanted || recNum num = recNum (s.mate.applied + 1) then
    let s1 := applyRecord s rec
    ok s (({ s1 with mate := { s1.mate with applied := num } }).emit (.mateFrame "MIRROR_ACK" [recNum num]))
  else ok s (askSnapshot s)

/-- The records that wait no longer are those acknowledged: the results behind them may be posted (R405). -/
def ackRecords (s : State) (n : Nat) : State :=
  let m := s.mate
  { s with mate := { m with
      acked := n, unacked := m.unacked.filter fun p => n < p.1, waits := m.waits.filter fun w => n < w.record } }

/-- MIRROR_ACK_RECEIVE (R404, R405): the standby is SYNCED when every record is acknowledged within 100 µs. -/
def execMirrorAckReceive (num : Nat) (s : State) : Host.Outcome State Fault Refusal :=
  match s.mate.unacked.find? fun p => recNum p.1 = recNum num with
  | none => .next s
  | some (n, t) =>
    let s1 := ackRecords s n
    let all := s1.mate.unacked.isEmpty && s.dt ≤ t + 100 * usTicks && !s.mate.digestMismatch
    ok s { s1 with mate := { s1.mate with synced := s1.mate.synced || all } }

/-- MIRROR_ACK_TIMEOUT (R404, R406): a record unacknowledged for 100 µs; nothing waits any more. -/
def execMirrorAckTimeout (s : State) : Host.Outcome State Fault Refusal :=
  match s.mate.unacked with
  | (_, t) :: _ =>
    if t + 100 * usTicks ≤ s.dt && s.mate.role == .active then
      ok s { s with mate := { s.mate with synced := false, waits := [] } }
    else .next s
  | [] => .next s

/-- Everything that is mirrored is sent, as records against a state that holds nothing (R404). -/
def sendSnapshot (s : State) : State := (State.mirrorDiff {} s).foldl sendMirror s

/-- SYNC_REQ (R404): the standby asks, the active sends everything that is mirrored as records. -/
def execSyncReq (s : State) : Host.Outcome State Fault Refusal :=
  if s.mate.role == .standby then ok s (askSnapshot s)
  else if s.mate.role == .active then
    let s1 := { s with mate := { s.mate with synced := false, unacked := [], waits := [] } }
    ok s1 (sendSnapshot s1)
  else .next s

/-- SNAPSHOT_APPLIED (R404): the standby has everything up to the record. -/
def execSnapshotApplied (num : Nat) (s : State) : Host.Outcome State Fault Refusal :=
  if s.mate.role == .standby && s.mate.snapshotWanted then
    let s1 := { s with
      mate := { s.mate with snapshotWanted := false, applied := num, synced := !s.mate.digestMismatch }
      chip := { s.chip with restartMode := 3, resolved := true } }
    ok s (s1.emit (.mateFrame "MIRROR_ACK" [recNum num]))
  else .next s

/-- The two digests are compared (R419); images that differ are a mismatch for good (R397). -/
def compareDigests (s : State) : State :=
  if s.mate.mateDigest ≠ s.chip.digest then
    { s with mate := { s.mate with differAt := some (s.mate.differAt.getD s.dt) } }
  else { s with mate := { s.mate with
      differAt := none, digestMismatch := s.mate.digestMismatch && s.mate.mateHash != s.img.hash } }

/-- DIGEST_FRAME_RECEIVE (R419). -/
def execDigestFrameReceive (digest : BitVec 256) (s : State) : Host.Outcome State Fault Refusal :=
  ok s (compareDigests { s with mate := { s.mate with mateDigest := digest } })

/-- DIGEST_MISMATCH_EXPIRE (R419): the digests have differed for longer than 1 ms. -/
def execDigestMismatchExpire (s : State) : Host.Outcome State Fault Refusal :=
  match s.mate.differAt with
  | none => .next s
  | some t => if t + msTicks < s.dt then ok s (setMismatch s) else .next s

/-! ## Handover and drill (R416 to R418) -/

/-- HANDOVER (R416): step 1; the steps 2 and 3 follow when no launch is outstanding. -/
def execHandover (h : Hdr) (ret : Bool) (drillMs : Nat) (s : State) : Host.Outcome State Fault Refusal :=
  verb s h 0x05 (.handover h ret drillMs) fun s =>
    if s.mate.role != .active || !s.mate.synced || s.mate.handover != .none then s.fail h 0x05 stBadState
    else { s with mate := { s.mate with handover := .waiting h ret (if drillMs = 0 then s.img.drillMs else drillMs) } }

/-- The mate could not take the tiles: this controller claims them back, and the verb ends (R418). -/
def handoverRefused (s : State) (h : Hdr) (ret : Bool) : State :=
  let s1 := s.upTiles.foldl sendClaim s
  endHandover s1 h stRefused 0 s.placedTiles.length (if ret then 1 else 0)

/-- ROLE_FRAME_RECEIVE (R416): step 3, the tiles are released and this controller takes them; step 1, the taking was
refused; step 0, the sender is ACTIVE. -/
def execRoleFrameReceive (step : Nat) (ret : Bool) (s : State) : Host.Outcome State Fault Refusal :=
  match step, s.mate.role with
  | 3, .standby => ok s (startTakeover { s with mate := { s.mate with incoming := some ret } })
  | 1, .active =>
    match s.mate.handover with
    | .released h r _ => ok s (handoverRefused s h r)
    | .handingBack _ => ok s (s.upTiles.foldl sendClaim { s with mate := { s.mate with handover := .none } })
    | _ => .next s
  | 0, .active =>
    match s.mate.handover with
    | .released h false _ =>
      let up := s.linked.length
      let lost := s.placedTiles.length - up
      ok s (endHandover (becomeStandby s) h (if lost = 0 then stSuccess else stRefused) up lost 0)
    | .released _ true _ => ok s (becomeStandby s)
    | .handingBack _ => ok s (becomeStandby s)
    | _ => .next s
  | _, _ => .next s

/-- DRILL_END (R417): at DRILL_MS, or on a failure, the tiles go back. -/
def execDrillEnd (cause tilesFailed : Nat) (s : State) : Host.Outcome State Fault Refusal :=
  match s.mate.handover with
  | .drilling t =>
    if cause = 0 && s.dt < t then .next s
    else
      let m := { s.mate with drillCause := cause, tilesFailed, handover := .handingBack false }
      if cause = 0 then ok s { s with mate := m }
      else ok s (({ s with mate := { m with drillFails := satInc m.drillFails 0xFF } }).report 0x0082 srcMate cause tilesFailed)
  | _ => .next s

/-! ## Small commands -/

/-- The four IDENT words that a tile answers (Table 9-4). -/
def tileIdent (s : State) (t : Nat) : State :=
  let x := s.tile t
  let l := s.link t
  let id := Config.tileIdentity t
  let own := match x.token with
    | .none => 0
    | .a => 1
    | .b => 2
  let words := [id % 2 ^ 32, id / 2 ^ 32 % 2 ^ 32, x.epoch, x.lastSerial.toNat + 2 ^ 16 * own + 2 ^ 18 * b2n l.portB]
  (List.range 4).foldl (fun (s : State) k => s.up t l.portB "IDENT" [k, words.getD k 0]) s

/-- STANDBY_IDENT_POLL (R398): the IDENT words of every tile whose link is up are read. -/
def execStandbyIdentPoll (s : State) : Host.Outcome State Fault Refusal :=
  if s.mate.role == .standby then ok s (s.upTiles.foldl tileIdent s) else .next s

/-- MATE_GAP_CLEAR_MAX (R410). -/
def clearGap (s : State) : State := { s with mate := { s.mate with gapMax := 0 } }

def execMateGapClearMax (s : State) : Host.Outcome State Fault Refusal := mainRow s clearGap

end Sys2Proof.Machine
end

