-- ==== Sys2Proof/Machine/StartUp.lean ====
section
/-! DEFINITION. Start-up, image and identity: reset, the image, the restart, readiness, the digest and the certificates
(chapter "Start-up, image and identity"; R496, R497, R499). -/

namespace Sys2Proof.Machine

/-! ## Resets -/

/-- What the collector keeps through a warm reset (Table 17-1): the always-on copy and the uncleared counts; the records
that the main side's log held are out of reach of FAULT_CLEAR by number (R435). -/
def Faults.warm (u : Faults) : Faults :=
  { aonCopy := u.aonCopy, aonPending := u.aonPending, errLevel := u.errLevel
    unclear1 := u.unclear1, unclear2 := u.unclear2, unclear3 := u.unclear3
    lostUnclear := (u.lostUnclear.map fun x => (none, x.2)) ++
      ((u.log ++ u.spill).filter fun f => !f.cleared && f.severity != 0).map fun f => (none, f.severity) }

/-- What the sideband holds through a warm reset: it belongs to the always-on island (R8, R469); PCIE_PERST_N is a pin. -/
def HostIf.warm (h : HostIf) : HostIf :=
  { sbCompletions := h.sbCompletions, sbEvents := h.sbEvents, sbEventDropped := h.sbEventDropped
    sbDropped := h.sbDropped, sbOffset := h.sbOffset, perst := h.perst }

/-- The PCIe link has trained at its best, and the host has set Bus Master Enable and MSI-X Enable. -/
def HostIf.trained (h : HostIf) : HostIf := { h with speed := 4, width := 4, bme := true, msixEn := true }

/-- What start-up and identity keep: always-on registers, OTP, the flash's owner certificate, the restart record. -/
def Chip.warm (c : Chip) : Chip :=
  { por := c.por, resetHigh := c.resetHigh, mainPower := c.mainPower, resetHeld := c.resetHeld, heldSince := c.heldSince
    heldMs := c.heldMs, heldReported := c.heldReported, resetCause := c.resetCause, resetCount := c.resetCount
    restart := c.restart, aonRecSel := c.aonRecSel, sbMainAddr := c.sbMainAddr, otp := c.otp }

/-- What the banks keep: contents and poison markers; the DRAM's contents are gone (R349, R445). -/
def Memory.warm (m : Memory) : Memory :=
  { bytes := m.bytes.filter fun x => decide (x.1 < 2 ^ 25), clean := m.clean
    bad := m.bad.filter fun x => decide (x.1 < 2 ^ 22) }

/-- What housekeeping keeps through a warm reset: the highest readings since POR_N, and the level of a pin. -/
def House.warm (u : House) : House :=
  { dacClrLow := u.dacClrLow, temps := u.temps.map fun x => (x.1, { max := x.2.max }) }

/-- The main side is in reset: every field of it stands at its reset value, what Table 17-1 keeps is kept; tiles are not
part of the controller (R47); the safe state ends (R434). -/
def mainReset (s : State) : State :=
  { pending := s.pending, out := s.out, free := s.free, dt := s.dt
    time := { pllLocked := s.time.pllLocked }
    faults := s.faults.warm, host := s.host.warm, mem := s.mem.warm
    lsu := { s.lsu with safeState := false }
    paost := { tiles := s.paost.tiles }
    calib := { stored := s.calib.stored }
    chip := s.chip.warm, house := s.house.warm }

/-- A warm reset begins with cause `cause` (R445, R446). -/
def warmReset (s : State) (cause : Nat) : State :=
  let s1 := mainReset s
  let c := { s1.chip with
    resetHeld := true, heldSince := s.dt, heldMs := 0, heldReported := false, resetCause := cause
    resetCount := satInc s.chip.resetCount 0xFFFF }
  { s1 with chip := { c with ready := BitVec.ofNat 32 (State.readyNow { s1 with chip := c }) } }

/-- POR_N holds everything in reset (R443, R446): what is left is OTP, the flash and the tiles. -/
def porReset (s : State) : State :=
  { pending := s.pending, out := s.out, free := s.free, host := { perst := s.host.perst }
    calib := { stored := s.calib.stored }
    lsu := { record := s.lsu.record }
    paost := { tiles := s.paost.tiles }
    chip := { por := true, otp := s.chip.otp }, house := { dacClrLow := s.house.dacClrLow } }

/-- POR_N_ASSERT (R443): the LEN outputs are de-energised. -/
def execPorNAssert (s : State) : Host.Outcome State Fault Refusal := .next (porReset s)

/-- AON_SUPPLY_LOW (R497): as if POR_N were low. -/
def execAonSupplyLow (s : State) : Host.Outcome State Fault Refusal := .next (porReset s)

/-- POR_N_RELEASE: the always-on island starts and reads its OTP values (R443). -/
def execPorNRelease (s : State) : Host.Outcome State Fault Refusal :=
  .next (if s.chip.por then { s with chip := { s.chip with por := false } } else s)

/-- WARM_RESET: RESET_N is low for `lowNs` (R444). -/
def execWarmReset (lowNs : Nat) (s : State) : Host.Outcome State Fault Refusal :=
  let low := fun (s : State) =>
    let s1 := warmReset s 1
    { s1 with chip := { s1.chip with resetHigh := false } }
  if s.chip.por || lowNs < 500 then .next s
  else if 1000 ≤ lowNs then .next (low s)
  else
    let (v, s1) := s.draw
    .next (if v % 2 = 0 then s1 else low s1)

/-- A write of RESET_CTRL (R444). -/
def resetCtrl (s : State) (value : Word32) : State := if value == 0x5EE7#32 && !s.chip.por then warmReset s 2 else s

/-- RESET_CTRL_WRITE (R444). -/
def execResetCtrlWrite (value : Word32) (s : State) : Host.Outcome State Fault Refusal := .next (resetCtrl s value)

/-- RESET_HELD_EXPIRE: RESET_HELD has lasted 1 s (R445). -/
def execResetHeldExpire (s : State) : Host.Outcome State Fault Refusal :=
  if s.chip.resetHeld && !s.chip.heldReported && decide (s.chip.heldSince + secTicks ≤ s.dt) then
    ok s (State.report { s with chip := { s.chip with heldReported := true } } 0x00C2 srcAon)
  else .next s

/-- MAIN_SUPPLY_FAULT: a main supply has been outside its limits for 10 µs (R496). -/
def execMainSupplyFault (monitor : Nat) (s : State) : Host.Outcome State Fault Refusal :=
  if s.chip.por then .next s
  else
    let s1 := warmReset s 3
    ok s (State.report { s1 with chip := { s1.chip with mainPower := false } } 0x00C3 srcAon monitor)

/-- MAIN_SUPPLY_GOOD: every main supply has been within its limits for 2 ms (R496). -/
def execMainSupplyGood (s : State) : Host.Outcome State Fault Refusal :=
  .next (if s.chip.por then s else { s with chip := { s.chip with mainPower := true } })

/-- HELD_MS while a reset lasts (R445). -/
def State.heldNow (s : State) : Nat :=
  if s.chip.resetHeld then min ((s.dt - s.chip.heldSince) / msTicks) (2 ^ 29 - 1) else s.chip.heldMs

/-- A record made while the main side was down enters the log with its SEQ (R437). -/
def adoptRecord (u : Faults) (f : FaultRec) : Faults :=
  let q := u.nextSeq
  let u1 := writeRecord u false f
  let rec mark : List FaultRec → List FaultRec
    | [] => []
    | g :: r => if g = f then { g with seq := some q } :: r else g :: mark r
  { u1 with aonCopy := mark u1.aonCopy }

/-- MAIN_START: the main side leaves reset; records that waited enter the log; the image read begins (R437, R443,
R452). -/
def execMainStart (s : State) : Host.Outcome State Fault Refusal :=
  if s.chip.por || s.chip.mainRun || !s.chip.mainPower then .next s
  else
    let s1 := { s with chip := { s.chip with
      resetHigh := true, mainRun := true, resetHeld := false, heldMs := s.heldNow, imageReading := true, readRetried := false } }
    let h := if s.host.perst then s.host else s.host.trained
    .next { s1 with host := h, faults := { s1.faults.aonPending.foldl adoptRecord s1.faults with aonPending := [] } }

/-! ## The time PLL (R272, R425, R499) -/

/-- TIME_PLL_LOCK: device time starts at 0 at the first lock after POR_N; else it runs on. -/
def execTimePllLock (s : State) : Host.Outcome State Fault Refusal :=
  .next (if s.chip.por then s else { s with time := { s.time with pllLocked := true } })

/-- TIME_PLL_LOSS_OF_LOCK: code 0x0055 at S3 (Table 16-3). -/
def execTimePllLossOfLock (s : State) : Host.Outcome State Fault Refusal :=
  if s.time.pllLocked then ok s (State.report { s with time := { s.time with pllLocked := false } } 0x0055 srcTime) else .next s

/-! ## The image (R447 to R455) -/

/-- The image is refused (R453): the held-fabric state. -/
def refuseImage (s : State) (c : Check) : State :=
  State.report { s with chip := { s.chip with
    imageReading := false, imageResult := c.code, imageSection := c.section_, imageRecord := c.record, heldFabric := true } }
    0x00C0 srcMgmt c.code

/-- Contexts beyond tier 0 as the image first places them (R125): each region's tier 0 takes its elements in EID order as
far as FAST_RESERVE leaves room, tier 1 the next, tier 2 the rest. -/
def initialTiers (i : Image) : Tab Elem :=
  let room := 8192 - 256 * i.fastReserve
  let beyond := (List.range 16).flatMap fun n =>
    (((List.range 16).map fun k => 16 * n + k).filter i.placed).flatMap tileEids |>.drop room
  (List.range beyond.length).zip beyond |>.map fun x =>
    (x.2, if x.1 < i.placeBanks * 8192 then { tier := 1, bank := x.1 / 8192 } else { tier := 2 })

/-- A class as the image sets it. -/
def classInit (c : ClassRec) : ClassState :=
  { defined := true, holdDiv := c.holdDiv, driveMin := c.driveMin, driveMax := c.driveMax
    shapeOn := c.shapeOn, shapeOff := c.shapeOff, bankA := c.bankA, bankB := c.bankB }

/-- Image-set state of every unit; the safety block is delivered and the role of an unpaired controller is ALONE (R455). -/
def applyImage (s : State) (i : Image) : State :=
  let (k, n, m) := fabricClass i
  let chip := { s.chip with
    imageReading := false, imageApplied := true, imageResult := 1, imageSection := 0, imageRecord := 0, image := i
    fabClass := k, closN := n, closM := m }
  let plan := i.bankPlan.getD (defaultPlan i.placeBanks)
  let banks := (List.range 32).foldl (fun t b => tabSet t b { owner := plan.getD b ownHost }) []
  let prio := i.mxPrio.foldl (fun t x => tabSet t (64 * x.1 + x.2.1) (x.2.2 + 1)) []
  let classes := i.classes.foldl (fun t c => tabSet t c.cls (classInit c)) []
  let lists := i.sweeps.foldl (fun t x => tabSet t x.1 x.2) []
  let regions := (List.range 16).foldl (fun t n => tabSet t n { clockOk := true }) []
  let role := if i.mateEnable then Role.starting else Role.alone
  let s1 := { s with
    chip, regions
    comma := { s.comma with linkShare := i.linkShare, loopShare := i.loopShare }
    loops := { s.loops with classes, elems := initialTiers i }
    smu := { s.smu with lists }
    mem := { s.mem with banks, mxPrio := prio }
    time := { s.time with ptp := { s.time.ptp with port := if i.portMode = 1 then 1 else 0, portState := 4 } }
    mate := { s.mate with role, waitFrom := s.dt } }
  let s2 := i.meters.foldl (fun (s : State) x => s.setMeter x.1 x.2.1 (fullMeter x.2.2 s.dt)) s1
  deliverBlock s2 i.safety

/-- FLASH_IMAGE_READ_DONE (R452): a read error is retried once; the first failing check refuses the image. The owner
certificate is taken as R465 has it. -/
def execFlashImageReadDone (img : FlashImage) (s : State) : Host.Outcome State Fault Refusal :=
  if !s.chip.mainRun || !s.chip.imageReading then .next s
  else if img.sfdpOk && !img.readOk && !s.chip.readRetried then .next { s with chip := { s.chip with readRetried := true } }
  else
    let good := img.ownerCertOk && !img.ownerCert.isEmpty && decide (img.ownerCert.length ≤ 640)
    let s1 := { s with chip := { s.chip with ownerCert := if good then img.ownerCert else [], ownerValid := good } }
    match firstFail s.chip.otp img with
    | some c => ok s (refuseImage s1 c)
    | none => ok s (applyImage s1 img.content)

/-! ## The calibration set and the surfaces (R223, R463) -/

/-- CAL_SET_READ: the set is read and checked after DDR training. -/
def execCalSetRead (set : CalSet) (s : State) : Host.Outcome State Fault Refusal :=
  if !s.chip.imageApplied || !s.ddrReady || s.chip.setChecked then .next s
  else
    let usable := set.headerOk && set.fabricHash == s.img.fabricHash
    let bad := fun (t : Nat) => !usable || set.badBlocks.contains (1 + t / 8)
    let tiles := (set.tiles.filter fun x => !bad x.1).foldl (fun t x => tabSet t x.1 x.2) []
    let s1 := { s with
      calib := { s.calib with
        stored := set, loaded := set, tiles, version := set.version
        setValid := usable && set.badBlocks.isEmpty
        badBlocks := min set.badBlocks.length 1059 }
      chip := { s.chip with setChecked := true } }
    ok s ((s1.placedTiles.filter bad).foldl (fun (s : State) t => queueRun none none s (.channel, t)) s1)

/-- Tiles whose surfaces come first (R463): those on connections of the restart record. -/
def State.expandFirst (s : State) : List Nat :=
  if !s.chip.restart.valid || s.chip.restart.hash != s.img.hash then []
  else tilesOf ((connsOf s.chip.restart.table).flatMap fun x => (clauseOf x.2.clause).eids s.img.stages)

/-- The order in which surfaces are expanded. -/
def State.expandOrder (s : State) : List Nat :=
  dedup ((s.expandFirst.filter s.img.placed) ++ (List.range 256).filter s.img.placed)

/-- One element of a tile whose surfaces are ready (R224, Table 2-8). -/
def expandElem (s : State) (e : Nat) : State :=
  match s.calEntry e with
  | none => s.modElem e fun x => { x with st := .uncal, entryValid := false }
  | some c =>
    let u := s.surfaceOf e (s.link (eidTile e)).temp
    s.modElem e fun x => { x with st := .darkOff, entryValid := true, goal := u, inUse := u, ilEst := some c.ilEst }

/-- SURFACE_EXPAND_DONE: the next tile's surfaces are ready, and the tile may be adopted (R463). -/
def execSurfaceExpandDone (tile : Nat) (s : State) : Host.Outcome State Fault Refusal :=
  if !s.chip.setChecked || (s.expandOrder.filter fun t => !s.chip.expanded.contains t).head? ≠ some tile then .next s
  else
    let s1 := (tileEids tile).foldl expandElem s
    ok s (tryAdopt { s1 with chip := { s1.chip with expanded := s1.chip.expanded ++ [tile] } } tile)

/-! ## Light paths across a restart (R458 to R461) -/

/-- The restart record can be used (R459). -/
def State.recordUsable (s : State) : Bool := s.chip.restart.valid && s.chip.restart.hash == s.img.hash

/-- The newer of two serials. -/
def laterSerial (a b : Serial) : Serial := if newer a b then a else b

/-- A connection as a restart enters it (R462). -/
def restoredConn (c : Conn) : Conn := { c with handle := 0xFFF }

/-- One outstanding token of the record is resolved, and counted (R459, RESTART_STATUS). -/
def resolveRecorded (s : State) (l : Launch) : State :=
  let done : Launch := { l with tiles := l.tiles.map fun x => if x.2.2 = .waiting then (x.1, x.2.1, s.tokenResult l.serial x.1) else x }
  let applied := done.bitmap.any id
  let s1 := resolveToken s l
  { s1 with chip := { s1.chip with
    restartApplied := s1.chip.restartApplied + b2n applied, restartReverted := s1.chip.restartReverted + b2n !applied } }

/-- The restart record is used: table, epochs, serials and identities, then the outstanding tokens (R459). -/
def useRecord (s : State) : State :=
  let r := s.chip.restart
  let table := r.table.map fun x => (x.1, x.2.map restoredConn)
  let tokens := r.tokens.map fun l => { l with replaced := l.replaced.map fun x => (x.1, x.2.1, x.2.2.map restoredConn) }
  let serials := (r.tiles.map fun x => x.2.2.1) ++ tokens.map (·.serial) ++ (connsOf table).map fun x => x.2.serial
  let s1 := { s with
    store := { s.store with table, launches := tokens, nextSerial := (serials.foldl laterSerial (serials.headD 0)) + 1 }
    chip := { s.chip with restartMode := 1 } }
  let s2 := r.tiles.foldl (fun (s : State) x => s.modLink x.1 fun l => { l with
    epoch := x.2.1, lastSerial := x.2.2.1, idHeld := x.2.2.2, known := true }) s1
  let s3 := tokens.foldl resolveRecorded s2
  { s3 with chip := { s3.chip with restored := (connsOf s3.store.table).map (·.1) } }

/-- The tiles whose answers restart resolution waits for (R459, R460). -/
def State.restartTiles (s : State) : List Nat :=
  if s.recordUsable then s.chip.restart.tokens.flatMap fun l => l.tiles.map (·.1) else s.placedTiles

/-- A tile has answered as far as the resolution needs it. -/
def State.restartAnswered (s : State) (t : Nat) : Bool :=
  if s.recordUsable then (s.link t).up && (s.link t).identDone else s.answered t

/-- RESTART_RESOLVE (R459, R460): RESTART_WAIT has passed since READY.DDR, or every tile asked has answered. -/
def execRestartResolve (s : State) : Host.Outcome State Fault Refusal :=
  if !s.chip.imageApplied || !s.ddrReady || !s.chip.setChecked || s.chip.resolved || !s.issuesTokens
      || !(decide (s.chip.ddrAt + s.img.restartWait * msTicks ≤ s.dt) || s.restartTiles.all s.restartAnswered) then .next s
  else
    let s1 := if s.recordUsable then useRecord s else reconstruct { s with chip := { s.chip with restartMode := 2 } }
    ok s (tryAdoptAll { s1 with chip := { s1.chip with resolved := true } })

/-! ## Readiness (R456) -/

/-- READY_CHANGE: every READY bit that has changed sets its bit in READY_EVENT; vector 17. -/
def execReadyChange (s : State) : Host.Outcome State Fault Refusal :=
  let now := BitVec.ofNat 32 s.readyNow
  if now = s.chip.ready then .next s
  else
    let c := { s.chip with ready := now, readyEvent := if s.chip.mainRun then s.chip.readyEvent ||| (now ^^^ s.chip.ready) else 0 }
    ok s (State.msix { s with chip := c } 17)

/-! ## Digest and certificates (R464 to R468) -/

/-- Bytes of a number as the block sends them. -/
def byteList (n v : Nat) : List Byte := (leBytes n v).map (BitVec.ofNat 8)

/-- A hash as its bytes: byte 0 is its lowest. -/
def hashBytes (h : BitVec 256) : List Byte := byteList 32 h.toNat

/-- The bytes that the fabric digest covers (R466). -/
def State.digestBytes (s : State) : List Byte :=
  hashBytes s.img.hash ++ ((connsOf s.store.table).flatMap fun p => byteList 16 p.2.clause.toNat)
    ++ byteList 4 s.calib.version ++ byteList 4 s.lsu.check.toNat
    ++ ((List.range 256).filter s.img.placed).flatMap fun t => byteList 4 (s.link t).epoch

/-- Bytes 0 to 135 of a digest record (Table 17-8). -/
def State.digestHead (s : State) (nonce : BitVec 256) : List Byte :=
  byteList 2 1 ++ byteList 1 s.mate.role.code
    ++ byteList 1 (b2n s.time.locked + 2 * b2n s.chip.digestCurrent + 4 * b2n s.chip.ownerValid)
    ++ byteList 4 s.chip.otp.identity ++ byteList 8 s.dt ++ byteList 14 (ntBytes s.now)
    ++ byteList 2 s.placedTiles.length ++ byteList 4 s.chip.digestSerial ++ hashBytes nonce
    ++ hashBytes s.img.hash ++ hashBytes s.chip.digest ++ byteList 4 s.calib.version

/-- The 200 bytes of a signed digest record as a number (R467). -/
def State.digestRecord (s : State) (nonce : BitVec 256) : Nat :=
  let head := s.digestHead nonce
  let sig := Config.ecdsaSign (sha256 head)
  bytesNat (head.map (·.toNat)) + 2 ^ 1088 * sig.toNat

/-- A Dalovo requester gets the record in five events of 40 bytes (R468). -/
def digestEvents (s : State) (h : Hdr) (r : Nat) : State :=
  match h.src with
  | .peer _ => [0, 1, 2, 3, 4].foldl (fun (s : State) p =>
      s.event h.src { kind := 0x08, tag := h.tag, handle := p, time := s.now, body := bits r (320 * p) 320 }) s
  | _ => s

/-- GET_DIGEST is carried out (R468): the record, then the completion. -/
def giveDigest (s : State) (h : Hdr) (addr : Nat) (nonce : BitVec 256) : State :=
  let r := s.digestRecord nonce
  let s1 := if addr ≠ 0 then s.emit (.hostWrite addr 200 r) else { s with chip := { s.chip with digestRec := r } }
  let s2 := digestEvents s1 h r
  s2.complete h 0x03 stSuccess (s.chip.digestSerial + 2 ^ 32 * bits s.chip.digest.toNat 0 32)

/-- GET_DIGEST (R468): with WAIT it is held until CURRENT is 1. -/
def execGetDigest (h : Hdr) (wait : Bool) (addr : Nat) (nonce : BitVec 256) (s : State) : Host.Outcome State Fault Refusal :=
  verb s h 0x03 (.getDigest h wait addr nonce) fun s =>
    if wait && !s.chip.digestCurrent then
      { s with chip := { s.chip with digestWaits := s.chip.digestWaits ++ [(h, addr, nonce)] } }
    else giveDigest s h addr nonce

/-- GET_CERT (R468). -/
def execGetCert (h : Hdr) (which addr length : Nat) (s : State) : Host.Outcome State Fault Refusal :=
  verb s h 0x04 (.getCert h which addr length) fun s =>
    let cert := if which = 0 then s.chip.otp.deviceCert else s.chip.ownerCert
    if which = 1 && !s.chip.ownerValid then s.fail h 0x04 stBadState
    else if addr ≠ 0 && length < cert.length then s.fail h 0x04 stBadField
    else
      let s1 := if addr ≠ 0 then s.emit (.hostWrite addr cert.length (bytesNat (cert.map (·.toNat)))) else s
      s1.complete h 0x04 stSuccess cert.length

/-- DIGEST_RECOMPUTE_DONE (R466, R419): the digest is that of the state at its end; a change during the recomputation
starts one more. -/
def execDigestRecomputeDone (s : State) : Host.Outcome State Fault Refusal :=
  if !s.chip.digestBusy then .next s
  else
    let again := s.chip.digestAgain
    let d := sha256 s.digestBytes
    let s1 := { s with chip := { s.chip with
      digest := d, digestSerial := (s.chip.digestSerial + 1) % 2 ^ 31, digestBusy := again, digestAgain := false
      digestCurrent := !again } }
    let s2 := if s.img.mateEnable && s.mate.link then
      compareDigests (s1.emit (.mateFrame "DIGEST" [d.toNat])) else s1
    if again then ok s s2
    else ok s (s2.chip.digestWaits.foldl (fun (s : State) w => giveDigest s w.1 w.2.1 w.2.2)
      { s2 with chip := { s2.chip with digestWaits := [] } })

end Sys2Proof.Machine
end

