-- ==== Sys2Proof/Machine/Memory.lean ====
section
/-! DEFINITION. The general banks, the DDR channels, BAR2 and the DMA channels (chapter "DMA, memory banks, DDR and the bus
matrix", R294). -/

namespace Sys2Proof.Machine

/-! ## Bytes and poison markers -/

/-- The byte at an address; what nothing has written reads as 0 (assumption log 8). -/
def byteGet : List (Nat × Byte) → Nat → Byte
  | [], _ => 0
  | (k, v) :: r, a => if a = k then v else if a < k then 0 else byteGet r a

/-- A byte is written; the list stays rising and lists no 0. -/
def byteSet : List (Nat × Byte) → Nat → Byte → List (Nat × Byte)
  | [], a, v => if v = 0 then [] else [(a, v)]
  | (k, w) :: r, a, v =>
    if a < k then (if v = 0 then (k, w) :: r else (a, v) :: (k, w) :: r)
    else if a = k then (if v = 0 then r else (a, v) :: r)
    else (k, w) :: byteSet r a v

/-- Addresses rise strictly. -/
def rising : List (Nat × Byte) → Bool
  | x :: y :: r => decide (x.1 < y.1) && rising (y :: r)
  | _ => true

/-- The canonical form of the bytes. -/
def Memory.wf (m : Memory) : Bool := rising m.bytes && m.bytes.all fun x => x.2 != 0

/-- Bytes of one bank, and all of the banks. -/
def bankSize : Nat := 2 ^ 20
def banksSize : Nat := 2 ^ 25

/-- The poison marker of word `w` (8 bytes) of the banks is clear. -/
def Memory.wordClean (m : Memory) (w : Nat) : Bool := tabGet m.clean (tabGet m.clean false (2 ^ 22 + w / 2 ^ 17)) w

/-- A byte of the banks or of the DRAM host area. -/
def Memory.get (m : Memory) (a : Nat) : Byte := byteGet m.bytes a

/-- A byte is written; poison markers are not touched. -/
def Memory.put (m : Memory) (a : Nat) (v : Byte) : Memory := { m with bytes := byteSet m.bytes a v }

/-- The poison marker of a word. -/
def Memory.mark (m : Memory) (w : Nat) (c : Bool) : Memory := { m with clean := tabSet m.clean w c }

/-- Bytes with enables from address `a` on; a word of the banks that is written whole is no longer poisoned (R346). -/
def Memory.write (m : Memory) (a : Nat) (bs : List (Option Byte)) : Memory :=
  let on := fun (i : Nat) => ((bs.getD i none).isSome)
  let put := (List.range bs.length).foldl (fun (m : Memory) i => match bs.getD i none with
    | some v => m.put (a + i) v
    | none => m) m
  let words := ((List.range (bs.length / 8 + 2)).map fun j => a / 8 + j).filter fun w =>
    decide (w < 2 ^ 22) && (List.range 8).all fun i => decide (a ≤ 8 * w + i) && on (8 * w + i - a)
  words.foldl (fun (m : Memory) w => m.mark w true) put

/-- Every byte of a bank is dropped and its words' default marker set. -/
def Memory.wipe (m : Memory) (b : Nat) (clean : Bool) : Memory :=
  { m with
    bytes := m.bytes.filter fun x => x.1 / bankSize != b
    bad := m.bad.filter fun x => x.1 / 2 ^ 17 != b
    clean := tabSet (m.clean.filter fun x => x.1 / 2 ^ 17 != b) (2 ^ 22 + b) clean }

/-! ## Banks -/

/-- The bank serves accesses: ON, not on its way elsewhere, not being initialised (R348, R349). -/
def BankState.awake (b : BankState) : Bool := b.power == .on && b.pendingPower.isNone && b.initEnd.isNone

/-- The bank admits the host aperture: it is HOST's and not passing to DMA (R351, R353). -/
def BankState.hostReach (b : BankState) : Bool := b.owner == ownHost && b.awake && b.pendingOwner.getD ownHost == ownHost

/-- Software may set the power and the initialisation of the bank (R350). -/
def BankState.soft (b : BankState) : Bool := decide (b.owner ≤ ownDma)

def ownError (s : State) : State := { s with mem := { s.mem with ownErr := true } }
def powerError (s : State) : State := { s with mem := { s.mem with powerErr := true } }

/-- A write of BANK_OWNER (R353). -/
def bankOwner (s : State) (b : Nat) (value : Word32) : State :=
  let k := s.bank b
  let o := bits value.toNat 0 3
  if k.soft && o ≤ ownDma && k.pendingOwner.isNone then s.setBank b { k with pendingOwner := some o } else ownError s

/-- BANK_OWNER_WRITE (R353). -/
def execBankOwnerWrite (bank : Nat) (value : Word32) (s : State) : Host.Outcome State Fault Refusal :=
  mainRow s fun s => if bank < 32 then bankOwner s bank value else s

/-- BANK_OWNER_CHANGED: what the bank had accepted is complete (R353). -/
def execBankOwnerChanged (bank : Nat) (s : State) : Host.Outcome State Fault Refusal :=
  match (s.bank bank).pendingOwner with
  | some o => ok s (s.setBank bank { s.bank bank with owner := o, pendingOwner := none })
  | none => .next s

/-- INIT = 1 of a bank (R349, R350): 131,072 cycles of 800 MHz. -/
def bankInit (s : State) (b : Nat) : State :=
  let k := s.bank b
  if !k.soft then powerError s
  else if k.awake then s.setBank b { k with initEnd := some (s.dt + 204800) }
  else s

/-- The power state that a code of BANK_CFG.POWER stands for; 0b11 is taken as the nearest in range (R9). -/
def powerOf (n : Nat) : Power :=
  match n with
  | 0 => .on
  | 1 => .retain
  | _ => .off

/-- A write of BANK_CFG (R347 to R350). -/
def bankCfg (s0 : State) (b : Nat) (value : Word32) : State :=
  let v := value.toNat
  let s := s0.setBank b { s0.bank b with rotate := bit v 2 }
  let k := s.bank b
  let want := powerOf (bits v 0 2)
  let s1 := if want == k.pendingPower.getD k.power then s
    else if !k.soft then powerError s
    else s.setBank b { k with pendingPower := some want }
  let s2 := if bits v 0 2 = 3 then powerError s1 else s1
  if bit v 3 then bankInit s2 b else s2

/-- BANK_POWER_WRITE (R348, R350). -/
def execBankPowerWrite (bank : Nat) (value : Word32) (s : State) : Host.Outcome State Fault Refusal :=
  mainRow s fun s => if bank < 32 then bankCfg s bank value else s

/-- BANK_POWER_REACHED: OFF loses the contents and every word is then poisoned (R348, Table 13-1). -/
def execBankPowerReached (bank : Nat) (s : State) : Host.Outcome State Fault Refusal :=
  let k := s.bank bank
  match k.pendingPower with
  | some p =>
    let s1 := s.setBank bank { k with power := p, pendingPower := none }
    ok s (if p == .off then { s1 with mem := s1.mem.wipe bank false } else s1)
  | none => .next s

/-- BANK_INIT (R349). -/
def execBankInit (bank : Nat) (s : State) : Host.Outcome State Fault Refusal := mainRow s fun s => if bank < 32 then bankInit s bank else s

/-- BANK_INIT_DONE: every word reads 0 and is not poisoned (R349). -/
def execBankInitDone (bank : Nat) (s : State) : Host.Outcome State Fault Refusal :=
  match (s.bank bank).initEnd with
  | some t =>
    if t ≤ s.dt then
      let s1 := s.setBank bank { s.bank bank with initEnd := none }
      ok s { s1 with mem := s1.mem.wipe bank true }
    else .next s
  | none => .next s

/-! ## Check bits (R345, R356, R439) -/

/-- Units are written whole: what an injection had stored there is gone, and the one that waits stores its bits. -/
def wroteUnits (s : State) (us : List Nat) : State :=
  let m := s.mem
  let bad := m.bad.filter fun x => !us.contains x.1
  match m.poisonNext with
  | some (u, dbl) =>
    if us.contains u then
      { s with mem := { m with bad := bad ++ [(u, dbl)], poisonNext := none }
               faults := { s.faults with injBusy := none } }
    else { s with mem := { m with bad } }
  | none => { s with mem := { m with bad } }

/-- A word of the banks is read: one inverted bit is corrected and counted, two poison the word (R345). -/
def readWord (s : State) (w : Nat) : State :=
  match s.mem.bad.find? fun x => x.1 == w with
  | none => s
  | some (_, dbl) =>
    let b := w / 2 ^ 17
    let k := s.bank b
    let s1 := { s with mem := { s.mem with bad := s.mem.bad.filter fun x => x.1 != w } }
    if dbl then
      let s2 := s1.setBank b { k with ue := satInc k.ue 0xFFFF }
      recordOne { s2 with mem := s2.mem.mark w false } false true false { code := 0x0050, source := srcMatrix, detail0 := 8 * w }
    else s1.setBank b { k with ce := satInc k.ce 0xFFFF }

/-- A unit of DRAM is read: one inverted bit is corrected and counted, two are reported and the data is POISON (R356). -/
def readDram (s : State) (u : Nat) : State :=
  match s.mem.bad.find? fun x => x.1 == u with
  | none => s
  | some (_, dbl) =>
    let ch := u % 2
    let inc := fun (d : DdrChan) => if dbl then { d with ue := satInc d.ue 0xFFFF } else { d with ce := satInc d.ce 0xFFFF }
    let m := if ch = 0 then { s.mem with ddr0 := inc s.mem.ddr0 } else { s.mem with ddr1 := inc s.mem.ddr1 }
    if dbl then
      recordOne { s with mem := m } false true false
        { code := 0x0051, source := 10 + ch, detail0 := (u - 2 ^ 22) / 2 * 64 % 2 ^ 32, detail1 := (u - 2 ^ 22) / 2 * 64 / 2 ^ 32 }
    else { s with mem := { m with bad := m.bad.filter fun x => x.1 != u } }

/-- The two keys of a unit of DRAM that holds host-area offset `a`. -/
def dramUnits (a : Nat) : List Nat := [2 ^ 22 + 2 * (a / 64), 2 ^ 22 + 2 * (a / 64) + 1]

/-- Bytes from address `a` on are written to the banks: words in part are read first, words in full lose their marker. -/
def writeBanks (s : State) (a : Nat) (bs : List (Option Byte)) : State :=
  let on := fun (i : Nat) => ((bs.getD i none).isSome)
  let ws := ((List.range (bs.length / 8 + 2)).map fun j => a / 8 + j)
  let full := ws.filter fun w => decide (w < 2 ^ 22) && (List.range 8).all fun i => decide (a ≤ 8 * w + i) && on (8 * w + i - a)
  let part := ws.filter fun w => !full.contains w && (List.range 8).any fun i => decide (a ≤ 8 * w + i) && on (8 * w + i - a)
  let s1 := part.foldl readWord s
  wroteUnits { s1 with mem := s1.mem.write a bs } full

/-- The eight bytes of a word, all enabled. -/
def wordBytes (d : BitVec 64) : List (Option Byte) := (byteList 8 d.toNat).map some

/-- BANK_ACCESS_COLLIDE: the port A write of `dataA` is applied, that of port B receives COLLIDE and is counted (R344). -/
def execBankAccessCollide (bank word : Nat) (dataA _dataB : BitVec 64) (s : State) : Host.Outcome State Fault Refusal :=
  let k := s.bank bank
  if 32 ≤ bank || 131072 ≤ word || !k.awake then .next s
  else
    let s1 := s.setBank bank { k with collides := satInc k.collides 0xFFFF }
    ok s (writeBanks s1 (bank * bankSize + 8 * word) (wordBytes dataA))

/-! ## DDR (R355, R454) -/

/-- DDR_TRAINING_DONE: a failure of either channel holds the fabric. -/
def execDdrTrainingDone (ok0 ok1 : Bool) (s : State) : Host.Outcome State Fault Refusal :=
  if !s.chip.mainRun || !s.chip.imageApplied || s.ddrReady then .next s
  else
    let gib := channelGib s.img
    let ch := fun (d : DdrChan) (g : Bool) => { d with trained := g, capacity := if g then gib else 0 }
    let s1 := { s with mem := { s.mem with ddr0 := ch s.mem.ddr0 ok0, ddr1 := ch s.mem.ddr1 ok1 } }
    if ok0 && ok1 then ok s { s1 with chip := { s1.chip with ddrAt := s.dt } }
    else ok s (State.report { s1 with chip := { s1.chip with heldFabric := true } } 0x00C1 (if ok0 then 11 else 10))

/-! ## BAR2 (R294) -/

/-- A DWORD of the banks as a BAR2 read gives it: none for one that holds poison. -/
def State.bar2Word (s : State) (a : Nat) : Option Word32 :=
  if !(s.bank (a / bankSize)).hostReach then some 0xFFFFFFFF
  else if !s.mem.wordClean (a / 8) then none
  else some (BitVec.ofNat 32 (bytesNat ((List.range 4).map fun i => (s.mem.get (a + i)).toNat)))

/-- A request that meets a bank of another owner is counted (R294). -/
def denied (s : State) : State := { s with host := { s.host with apertureDenied := satInc s.host.apertureDenied 0xFFFF } }

/-- BAR2_ACCESS (R292, R294). -/
def execBar2Access (write : Bool) (addr count : Nat) (data : List (Option Byte)) (s : State) :
    Host.Outcome State Fault Refusal :=
  let n := if write then data.length else count
  if banksSize < addr + n || n = 0 then .fault (.noSuchAddress addr)
  else if !s.chip.mainRun then .next s
  else
    let first := addr / 4 * 4
    let words := (List.range ((addr + n - first + 3) / 4)).map fun i => first + 4 * i
    let s1 := if words.any fun a => !(s.bank (a / bankSize)).hostReach then denied s else s
    if write then
      let keep := ((List.range n).zip data).map fun x =>
        if (s.bank ((addr + x.1) / bankSize)).hostReach then x.2 else none
      ok s (writeBanks s1 addr keep)
    else
      let s2 := ((words.filter fun a => (s.bank (a / bankSize)).hostReach).map (· / 8)).foldl readWord s1
      let got := words.map s2.bar2Word
      ok s (s2.emit (if got.any (·.isNone) then .poisonedCompletion else .readData (got.filterMap id)))

/-! ## DMA (R362 to R369) -/

/-- Elements of a transfer. -/
def DmaChan.total (c : DmaChan) : Nat := c.count0 * c.count1 * c.count2

/-- Bytes of an element. -/
def DmaChan.width (c : DmaChan) : Nat := 2 ^ c.esize

/-- Loop position of element `i`: k0, k1, k2. -/
def DmaChan.pos (c : DmaChan) (i : Nat) : Nat × Nat × Nat :=
  (i % c.count0, i / c.count0 % c.count1, i / (c.count0 * c.count1))

/-- Step `m` as a signed byte count. -/
def DmaChan.step (c : DmaChan) (m : Nat) : Int := (c.steps.getD m 0).toInt

/-- Bytes of a space: host memory, the banks, the DRAM host area (R357). -/
def State.spaceSize (s : State) (sp : Nat) : Nat :=
  match sp with
  | 0 => 2 ^ 64
  | 1 => banksSize
  | _ => s.img.ddrHostGib * 2 ^ 30

/-- Address of element `i`: sums wrap modulo the size of the space (R362). -/
def State.elemAddr (s : State) (c : DmaChan) (dst : Bool) (i : Nat) : Nat :=
  let (k0, k1, k2) := c.pos i
  let o := if dst then 1 else 0
  let a := ((if dst then c.dst else c.src) : Int) + k2 * c.step (4 + o) + k1 * c.step (2 + o) + k0 * c.step o
  (a % (s.spaceSize (if dst then c.dstSpace else c.srcSpace) : Int)).toNat

/-- Address in `Memory.bytes` of byte `a` of a space. -/
def spaceByte (sp a : Nat) : Nat := if sp = 1 then a else banksSize + a

/-- The bytes of element `i` at one end, in the space's own addresses. -/
def State.elemBytes (s : State) (c : DmaChan) (dst : Bool) (i : Nat) : List Nat :=
  let sp := if dst then c.dstSpace else c.srcSpace
  (List.range c.width).map fun k => (s.elemAddr c dst i + k) % s.spaceSize sp

/-- Why an access of the banks or the DRAM is not served: ERR_CAUSE, 0 for none (Table 13-5). -/
def State.accessCause (s : State) (c : DmaChan) (dst : Bool) (i : Nat) : Nat :=
  let sp := if dst then c.dstSpace else c.srcSpace
  let base := if dst then c.dst else c.src
  if s.spaceSize sp ≤ base then 6
  else if sp ≠ 1 then 0
  else
    let as_ := s.elemBytes c dst i
    if as_.any fun a => decide (ownDma < (s.bank (a / bankSize)).owner) then 4
    else if as_.any fun a => !(s.bank (a / bankSize)).awake then 5
    else if !dst && as_.any fun a => !s.mem.wordClean (a / 8) then 3
    else 0

/-- A read of DRAM that meets two inverted bits returns POISON (R356). -/
def State.dramPoison (s : State) (c : DmaChan) (i : Nat) : Bool :=
  c.srcSpace == 2 && (s.elemBytes c false i).any fun a => s.mem.bad.any fun x => x.2 && (dramUnits a).contains x.1

/-- The whole inner loop is one run (R363). -/
def DmaChan.oneRun (c : DmaChan) : Bool := c.step 0 == c.width && c.step 1 == c.width

/-- Destination and source bytes of a transfer meet (R364). -/
def State.overlaps (s : State) (c : DmaChan) : Bool :=
  c.srcSpace == c.dstSpace && (List.range c.total).any fun i => (List.range c.total).any fun j =>
    (s.elemBytes c true i).any fun a => (s.elemBytes c false j).contains a

/-- Free bytes. -/
def drawBytes (s : State) : Nat → List Byte × State
  | 0 => ([], s)
  | n + 1 =>
    let (v, s1) := s.draw
    let (l, s2) := drawBytes s1 n
    (BitVec.ofNat 8 v :: l, s2)

/-- Units of `n` bytes that element `i` completes as whole ones of its run (R346, R363). -/
def State.wholeUnits (s : State) (c : DmaChan) (i n : Nat) : List Nat :=
  let d := s.elemAddr c true i
  let start := if c.oneRun then s.elemAddr c true (i - (c.pos i).1) else d
  ((List.range 2).map fun j => d / n + j).filter fun w => decide (start ≤ n * w) && decide (n * w + n ≤ d + c.width) &&
    decide (d < n * w + n)

/-- Units of `n` bytes of which the run of element `i` writes a part only: they are read first (R345, R356, R363). -/
def State.partUnits (s : State) (c : DmaChan) (i n : Nat) : List Nat :=
  let start := s.elemAddr c true (if c.oneRun then i - (c.pos i).1 else i)
  let stop := start + (if c.oneRun then c.count0 * c.width else c.width)
  ((s.elemBytes c true i).map (· / n)).filter fun w => !(decide (start ≤ n * w) && decide (n * w + n ≤ stop))

/-- What the reads of element `i` meet: its source, and a unit of the destination that its run writes in part. -/
def readElem (s : State) (c : DmaChan) (i : Nat) : State :=
  let as_ := s.elemBytes c false i
  let s1 := if c.srcSpace = 1 then (as_.map (· / 8)).foldl readWord s
    else if c.srcSpace = 0 then s else (as_.flatMap dramUnits).foldl readDram s
  if c.dstSpace = 1 then (s.partUnits c i 8).foldl readWord s1
  else if c.dstSpace = 0 then s1 else ((s.partUnits c i 64).flatMap fun u => dramUnits (64 * u)).foldl readDram s1

/-- Element `i` is moved; `host` are its bytes where host memory is the source. -/
def moveElem (s : State) (c : DmaChan) (free : Bool) (host : List Byte) (i : Nat) : State :=
  let from_ := s.elemBytes c false i
  let s0 := if c.srcSpace = 0 then s.emit (.hostRead (s.elemAddr c false i) c.width c.ns) else s
  let read := if c.srcSpace = 0 then host else from_.map fun a => s.mem.get (spaceByte c.srcSpace a)
  let (vals, s1) := if free then drawBytes s0 c.width else (read, s0)
  if c.dstSpace = 0 then s1.emit (.hostWrite (s.elemAddr c true i) c.width (bytesNat (vals.map (·.toNat))))
  else
    let m := ((s.elemBytes c true i).zip vals).foldl (fun (m : Memory) x => m.put (spaceByte c.dstSpace x.1) x.2) s1.mem
    if c.dstSpace = 1 then
      let ws := s.wholeUnits c i 8
      wroteUnits { s1 with mem := ws.foldl (fun (m : Memory) w => m.mark w true) m } ws
    else wroteUnits { s1 with mem := m } ((s.wholeUnits c i 64).flatMap fun u => dramUnits (64 * u))

/-- `n` elements from element `i` on are moved in loop order; an access that is not served stops the transfer: its element,
direction and cause. -/
def moveElems (c : DmaChan) (free : Bool) (s : State) (host : List Byte) (i : Nat) : Nat → State × Option (Nat × Bool × Nat)
  | 0 => (s, none)
  | n + 1 =>
    let r := if s.accessCause c false i = 0 && s.accessCause c true i = 0 then readElem s c i else s
    let k := if s.dramPoison c i then 3 else r.accessCause c false i
    let w := r.accessCause c true i
    if k ≠ 0 then (r, some (i, false, k))
    else if w ≠ 0 then (r, some (i, true, w))
    else moveElems c free (moveElem r c free (host.take c.width) i) (host.drop c.width) (i + 1) n

/-- The channel halts at element `i` with a cause (R368). -/
def haltChan (s : State) (ch i : Nat) (write : Bool) (cause : Nat) : State :=
  let c := s.chan ch
  let (k0, k1, k2) := c.pos (min i (c.total - 1))
  let a := s.elemAddr c write (min i (c.total - 1))
  (s.setChan ch { c with
    state := .halted, moved := i, errWrite := write, errCause := cause
    pos0 := BitVec.ofNat 32 k0, pos1 := BitVec.ofNat 32 (k1 + 2 ^ 16 * k2)
    errAddr0 := BitVec.ofNat 32 a, errAddr1 := BitVec.ofNat 32 (a / 2 ^ 32) }).msix (24 + ch)

/-- Counts and addresses that a dropped channel must be given again (R369): register indices. -/
def dmaAgain : List Nat := [0, 1, 2, 3, 4, 5]

/-- A write of GO = 1 to an enabled channel (R366). -/
def dmaGo (s : State) (ch : Nat) : State :=
  let c := s.chan ch
  let bad := s.setChan ch { c with cfgErr := true }
  if !c.enable || s.mem.dmaDisable then s
  else if c.state == .running || c.state == .halted then bad
  else if c.state == .dropped && !(dmaAgain.all fun r => c.reprogrammed.contains r) then bad
  else
    let c1 := { c with state := .running, moved := 0, pos0 := 0, pos1 := 0, errCause := 0, errWrite := false, reprogrammed := [] }
    let s1 := s.setChan ch c1
    if (c.srcSpace = 0 || c.dstSpace = 0) && !s.host.bme then haltChan s1 ch 0 (c.srcSpace ≠ 0) 7 else s1

/-- DMA_GO (R366). -/
def execDmaGo (channel : Nat) (s : State) : Host.Outcome State Fault Refusal := mainRow s fun s => if channel < 16 then dmaGo s channel else s

/-- A write of RESUME = 1: the failed access is issued again (R368). -/
def dmaResume (s : State) (ch : Nat) : State :=
  let c := s.chan ch
  if c.state == .halted then s.setChan ch { c with state := .running, errCause := 0 } else s

/-- DMA_RESUME (R368). -/
def execDmaResume (channel : Nat) (s : State) : Host.Outcome State Fault Refusal := mainRow s (dmaResume · channel)

/-- A channel is dropped (R369), its burst is aborted (R361): DMA_POS, DMA_ERR_ADDR and what it was writing hold free values. -/
def dropChan (s : State) (ch : Nat) : State :=
  let c := s.chan ch
  let (v0, s1) := (if c.state == .running then abortBurst s 16 ch else s).draw
  let (v1, s2) := s1.draw
  let (v2, s3) := s2.draw
  let (v3, s4) := s3.draw
  let w := fun (v : Nat) => BitVec.ofNat 32 v
  let live := c.state == .running || c.state == .halted
  let s5 := s4.setChan ch { c with
    state := .dropped, reprogrammed := [], pos0 := w v0, pos1 := w v1, errAddr0 := w v2, errAddr1 := w v3 }
  if live && c.dstSpace ≠ 0 && c.dst < s.spaceSize c.dstSpace then
    ((List.range c.total).flatMap (s.elemBytes c true)).foldl (fun (s : State) a =>
      let (v, t) := s.draw
      { t with mem := t.mem.put (spaceByte c.dstSpace a) (BitVec.ofNat 8 v) }) s5
  else s5

/-- Every channel is dropped. -/
def dropAll (s : State) : State := (List.range 16).foldl dropChan s

/-- ENABLE = 0 (R369). -/
def dmaDisable (s : State) (ch : Nat) : State :=
  let s1 := dropChan s ch
  s1.setChan ch { s1.chan ch with enable := false }

/-- DMA_ENABLE_CLEAR (R369). -/
def execDmaEnableClear (channel : Nat) (s : State) : Host.Outcome State Fault Refusal :=
  mainRow s fun s => if channel < 16 then dmaDisable s channel else s

/-- DISABLE = 1 (R369). -/
def dmaGlobal (s : State) : State := dropAll { s with mem := { s.mem with dmaDisable := true } }

/-- DMA_GLOBAL_DISABLE (R369). -/
def execDmaGlobalDisable (s : State) : Host.Outcome State Fault Refusal := mainRow s dmaGlobal

/-- The host bytes that the elements up to `n` need are at hand. -/
def DmaChan.supplied (c : DmaChan) (n : Nat) (data : List Byte) : Bool :=
  c.srcSpace ≠ 0 || decide ((n - c.moved) * c.width ≤ data.length)

/-- Requests that the matrix has held back for a transfer are counted (R360); how many is left open. -/
def noteHolds (s : State) (ch : Nat) : State :=
  { s with matrix := { s.matrix with holds := satAdd s.matrix.holds (Config.heldRequests ch s.dt) 0xFFFF } }

/-- DMA_READBACK_DONE (R362 to R364, R367): what is left of the transfer has taken effect in loop order, unless an access
is not served, and the read-back of the last word has returned. -/
def execDmaReadbackDone (channel : Nat) (good : Bool) (data : List Byte) (s : State) : Host.Outcome State Fault Refusal :=
  let c := s.chan channel
  if c.state != .running || !c.supplied c.total data then .next s
  else
    match moveElems c (s.overlaps c) (noteHolds s channel) data c.moved (c.total - c.moved) with
    | (s1, some (i, w, k)) => ok s (haltChan s1 channel i w k)
    | (s1, none) =>
      let last := (s1.elemBytes c true (c.total - 1)).getLastD 0
      let poison := c.dstSpace = 1 && !s1.mem.wordClean (last / 8)
      let s2 := if c.dstSpace = 0 then s1.emit (.hostRead (last / 8 * 8) 8 c.ns) else s1
      if !good || poison then ok s (haltChan s2 channel c.total false (if poison then 3 else 1))
      else ok s ((s2.setChan channel { s2.chan channel with state := .idle, moved := 0, done := true }).msix (24 + channel))

/-- DMA_ERROR_HALT: the access of element (k0, k1, k2) fails with `cause`; those before it have taken effect (R368). -/
def execDmaErrorHalt (channel : Nat) (write : Bool) (cause : Nat) (k0 k1 k2 : Nat) (data : List Byte) (s : State) :
    Host.Outcome State Fault Refusal :=
  let c := s.chan channel
  let i := k0 + c.count0 * (k1 + c.count1 * k2)
  if c.state != .running || c.count0 ≤ k0 || c.count1 ≤ k1 || c.count2 ≤ k2 || i < c.moved || cause = 0 || 7 < cause
      || !c.supplied i data then .next s
  else
    match moveElems c (s.overlaps c) (noteHolds s channel) data c.moved (i - c.moved) with
    | (s1, some (j, w, k)) => ok s (haltChan s1 channel j w k)
    | (s1, none) => ok s (haltChan s1 channel i write cause)

/-! ## DMA registers -/

/-- A write of register `r` of a channel: 0 to 3 addresses, 4 COUNT0, 5 COUNT12, 6 to 11 steps (R9, R366). -/
def dmaReg (s : State) (ch r : Nat) (value : Word32) : State :=
  let c := s.chan ch
  if c.state == .running || c.state == .halted then s.setChan ch { c with cfgErr := true }
  else
    let v := value.toNat
    let lo := fun (a : Nat) => a / 2 ^ 32 * 2 ^ 32 + v
    let hi := fun (a : Nat) => a % 2 ^ 32 + v * 2 ^ 32
    let c1 := { c with reprogrammed := if c.state == DmaState.dropped then r :: c.reprogrammed else c.reprogrammed }
    s.setChan ch (match r with
      | 0 => { c1 with src := lo c.src }
      | 1 => { c1 with src := hi c.src }
      | 2 => { c1 with dst := lo c.dst }
      | 3 => { c1 with dst := hi c.dst }
      | 4 => { c1 with count0 := max 1 (bits v 0 24), esize := bits v 24 2, cfgErr := c.cfgErr || bits v 0 24 == 0 }
      | 5 => { c1 with count1 := max 1 (bits v 0 16), count2 := max 1 (bits v 16 16)
                       cfgErr := c.cfgErr || bits v 0 16 == 0 || bits v 16 16 == 0 }
      | _ => { c1 with steps := c.steps.set (r - 6) value })

/-- A write of DMA_CTRL (R366, R368, R369). -/
def dmaCtrl (s : State) (ch : Nat) (value : Word32) : State :=
  let c := s.chan ch
  let v := value.toNat
  let live := c.state == .running || c.state == .halted
  let set := { c with
    enable := true, srcSpace := min 2 (bits v 3 2), dstSpace := min 2 (bits v 5 2), ns := bit v 7
    cfgErr := c.cfgErr || bits v 3 2 == 3 || bits v 5 2 == 3 }
  if !bit v 0 then dmaDisable (if live then s else s.setChan ch set) ch
  else if live then
    let s1 := if bit v 2 then dmaResume s ch else s
    if bit v 1 then s1.setChan ch { s1.chan ch with cfgErr := true } else s1
  else
    let s1 := s.setChan ch set
    if bit v 1 then dmaGo s1 ch else s1

end Sys2Proof.Machine
end

