-- ==== Sys2Proof/Machine/Admission.lean ====
section
/-! DEFINITION. Arrival of verbs, meters at run time and queue telemetry (R310, R321 to R329, R342). -/

namespace Sys2Proof.Machine

/-! ## Arrival (R310) -/

/-- The status of the first of the checks 2 to 4 of R310 that an entry fails. -/
def State.entryGate (s : State) (src : Source) (e : Entry) : Option Nat :=
  let op := ebytes e 0 1
  if !s.permitted src op then some stBadOpcode
  else if !s.verbReady op then some stNotReady
  else match entryVerb src e with
    | some i => if fieldsOk i then none else some stBadField
    | none => some stBadField

/-- A verb arrives from a source: it is coloured, checked, and takes its place in the issue order (R310, R322, R328). While
the main side is down only the sideband's verbs arrive, and they end NOT_READY (R319). -/
def arrive (s : State) (src : Source) (e : Entry) : State :=
  let op := ebytes e 0 1
  let tag := ebytes e 2 2
  let (col, s1) := if s.chip.mainRun then s.colour src ((verbClass op).getD 3) else (0, s)
  let st := if !s.chip.mainRun then some stNotReady else if col = 2 then some stPoliced else s1.entryGate src e
  { s1 with host := { s1.host with issues := s1.host.issues ++
    [{ src, tag, opcode := op, colour := col, at_ := s.dt, done := st.map fun x => (x, noResult op)
       limit := if op = 0x02 then some (s.dt + ebytes e 12 2 * msTicks) else none }] } }

/-- VERB_ARRIVAL (R310). -/
def execVerbArrival (src : Source) (entry : Entry) (s : State) : Host.Outcome State Fault Refusal :=
  if s.chip.por then .next s else ok s (arrive s src entry)

/-! ## Meters at run time (R325) -/

/-- The profile that a run-time write starts from: the one that waits for the comma, else the one in effect. -/
def State.standing (s : State) (key : Nat) : Profile :=
  match s.adm.pending.find? fun x => x.1 == key with
  | some x => x.2
  | none => (s.meter (key / 4) (key % 4)).profile

/-- A write of ADM_CIR (0), ADM_PIR (1) or ADM_BURST (2): limited against the standing values, in effect at the next comma
boundary. -/
def meterWrite (s : State) (reg : Nat) (value : Word32) : State :=
  let key := 4 * s.adm.selSource + s.adm.selClass
  if s.adm.selClass = 0 || 25 ≤ s.adm.selSource then s
  else
    let p := s.standing key
    let v := bits value.toNat 0 24
    let cbs := bits value.toNat 0 8
    let pbs := bits value.toNat 8 8
    let (q, bad) : Profile × Bool := match reg with
      | 0 => ({ p with cir := min v p.pir }, decide (p.pir < v))
      | 1 => ({ p with pir := max v p.cir }, decide (v < p.cir))
      | _ => ({ p with cbs := min cbs pbs, pbs }, decide (pbs < cbs))
    { s with adm := { s.adm with
      pending := (s.adm.pending.filter fun x => x.1 != key) ++ [(key, q)], meterErr := s.adm.meterErr || bad } }

/-- ADM_METER_WRITE (R325). -/
def execAdmMeterWrite (reg : Nat) (value : Word32) (s : State) : Host.Outcome State Fault Refusal := mainRow s (meterWrite · reg value)

/-- At a comma boundary the waiting profiles take effect and the buckets are cut to the new bursts (R325). -/
def applyMeters (s : State) : State :=
  s.adm.pending.foldl (fun (s : State) x =>
    let m := (s.meter (x.1 / 4) (x.1 % 4)).refill s.dt
    let k := { m with profile := x.2, tc := min m.tc (x.2.cbs * tokenUnit), tp := min m.tp (x.2.pbs * tokenUnit) }
    s.setMeter (x.1 / 4) (x.1 % 4) k) { s with adm := { s.adm with pending := [] } }

/-- The four meters of a source start full (R323). -/
def fillMeters (s : State) (src : Nat) : State :=
  (List.range 4).foldl (fun (s : State) c => s.setMeter src c
    (let m := s.meter src c
     { m with tc := m.profile.cbs * tokenUnit, tp := m.profile.pbs * tokenUnit, last := s.dt })) s

/-! ## Telemetry (R342) -/

/-- A verb has taken effect: it has ended, its token is issued, or its work has begun. -/
def State.begun (s : State) (i : Issue) : Bool := i.done.isSome || s.worksOn i.src i.tag

/-- The source of an index of Table 12-1. -/
def sourceOf (k : Nat) : Source :=
  if k < 8 then .host k else if k < 24 then .peer (k - 8) else if k = 24 then .sideband else .lossOfLight

/-- Requests of a source, and the arrival times of those that have not taken effect. -/
def State.waiting (s : State) (k : Nat) : Nat × List Nat :=
  if k = 25 then
    let l := s.store.p0Queue.filter fun r => match r.trigger with
      | .lossOfLight .. => true
      | _ => false
    (l.length, l.map (·.arrival))
  else
    let l := s.host.issues.filter fun i => i.src == sourceOf k && !i.orphan
    (l.length, (l.filter fun i => !s.begun i).map (·.at_))

/-- One source's sample. -/
def sampleSource (s : State) (k : Nat) : State :=
  let (n, ts) := s.waiting k
  let age := (ts.map fun t => (s.dt - t) / usTicks).foldl max 0
  let t := tabGet s.adm.tel {} k
  let d := min n 8191
  let a := min age (2 ^ 19 - 1)
  let s1 := { s with adm := { s.adm with
    tel := tabSet s.adm.tel k { depth := d, delay := a, maxDepth := max t.maxDepth d, maxDelay := max t.maxDelay a } } }
  if s.adm.delayAlarm < age then
    State.msix { s1 with adm := { s1.adm with alarms := tabSet s1.adm.alarms k true } } 23
  else s1

/-- QUEUE_TELEMETRY_SAMPLE: every 12,500 ticks (R342). -/
def execQueueTelemetrySample (s : State) : Host.Outcome State Fault Refusal :=
  if s.dt % 12500 = 0 && s.chip.mainRun then ok s ((List.range 26).foldl sampleSource s) else .next s

/-- CLEAR_MAX = 1 of ADM_TEL_CTRL. -/
def clearTelMax (s : State) : State :=
  { s with adm := { s.adm with tel := s.adm.tel.map fun x => (x.1, { x.2 with maxDepth := 0, maxDelay := 0 }) } }

/-- ADM_TEL_CLEAR_MAX (R342). -/
def execAdmTelClearMax (s : State) : Host.Outcome State Fault Refusal := mainRow s clearTelMax

end Sys2Proof.Machine
end

