-- ==== Sys2Proof/Machine/Loops.lean ====
section
/-! DEFINITION. The element loops: state events, laws, handover, the served update, supervision, overruns, the outer
loop (chapters "The photonic fabric", R56 to R60, and "Element loops", R136 to R168). -/

namespace Sys2Proof.Machine

/-! ## State events (R56 to R60) -/

/-- The order of R59. -/
def ElemEvent.rank : ElemEvent → Nat
  | .retire => 0
  | .suspect => 1
  | .restore => 2
  | .launch .. => 3
  | .release => 4
  | .calPass => 6

/-- The state that target and intent give (Table 2-8). -/
def Elem.settled (x : Elem) : EState := if !x.on then .darkOff else if x.lit then .lit else .darkOn

/-- The element is moved by a launch: its window, dwell and supervision wait for the shape to end (R153, R165). -/
def Elem.begun (x : Elem) (t : Nat) : Elem :=
  { x with supervised := false, blankEnd := none, dwellEnd := none, handover := false, lastSwitch := t }

/-- One state event (Table 2-8, R57 to R59). -/
def Elem.event (x : Elem) (t : Nat) : ElemEvent → Elem
  | .retire => { x with st := .retired, dwellEnd := none }
  | .suspect =>
    match x.st with
    | .uncal => x
    | .retired => x
    | _ => { x with st := .suspect, dwellEnd := none }
  | .restore =>
    match x.st with
    | .suspect => { x with st := x.settled }
    | .retired => { x with st := .uncal, feTimer := 0 }
    | _ => x
  | .launch on lit moves =>
    if x.st == .retired || (x.st == .suspect && on && moves) then x
    else if moves then
      { x.begun t with on, lit, st := if x.st == .suspect then .suspect else if x.st == .uncal then .uncal else .switching }
    else
      let y := { x with on, lit }
      match x.st with
      | .darkOn => { y with st := y.settled }
      | .lit => { y with st := y.settled }
      | _ => y
  | .release => { x.begun t with on := false, lit := false }
  | .calPass =>
    match x.st with
    | .uncal => { x with st := .darkOff, on := false, lit := false }
    | .suspect => if x.on then x else { x with st := .darkOff }
    | _ => x

/-- The end of a settling dwell (R156). -/
def Elem.endDwell (x : Elem) (t : Nat) : Elem :=
  match x.dwellEnd with
  | some d => if d ≤ t then { x with dwellEnd := none, st := if x.st == .switching then x.settled else x.st } else x
  | none => x

/-- Every event that waits, in the order of R59, the end of the dwell between release and calibration result. -/
def Elem.applyEvents (x : Elem) (t : Nat) : Elem :=
  let evs := fun (k : Nat) => x.events.filter fun v => v.rank == k
  let y := (List.range 6).foldl (fun (z : Elem) k => (evs k).foldl (fun (z : Elem) v => z.event t v) z) { x with events := [] }
  (evs 6).foldl (fun (z : Elem) v => z.event t v) (y.endDwell t)

/-- The bank that an element's class has active for it. -/
def ClassState.bank (c : ClassState) (b : Bool) : Bank := if b then c.bankB else c.bankA

/-- The law of a law number of a bank. -/
def lawOf (b : Bank) (n : Nat) : Law := if n = 0 then .hyst else .biquad b.sections b.outMode

/-- The element runs as a bright one: LAW_LIT, fast rate (Table 5-1). -/
def Elem.lawWanted (x : Elem) (b : Bank) : Law :=
  if x.st == .uncal then .none else lawOf b (if x.bright then b.lawLit else b.lawDark)

/-! ## Targets (R141, R235) -/

/-- The target of R141. -/
def Elem.targetOf (x : Elem) (b : Bank) : Int :=
  clampInt 0 65535 (if x.on then x.inUse.onBase + b.clsTrimOn + x.trimOn + x.outerTrim
    else x.inUse.offBase + b.clsTrimOff + x.trimOff)

/-- A base on its way to its goal, by at most CAL_SLEW (R235). -/
def slewTo (slew have_ goal : Nat) : Nat := ((have_ : Int) + clampInt (-slew) slew ((goal : Int) - have_)).toNat

/-- Both bases one hold update nearer to their goals. -/
def Elem.slewBases (x : Elem) (slew : Nat) : Elem :=
  { x with inUse := { x.inUse with
      onBase := slewTo slew x.inUse.onBase x.goal.onBase, offBase := slewTo slew x.inUse.offBase x.goal.offBase } }

/-! ## The laws (R143, R145, R146) -/

/-- The 40-bit accumulator's saturation. -/
def sat40 (v : Int) : Int := clampInt (-2 ^ 39) (2 ^ 39 - 1) v

/-- The 24-bit data word's saturation. -/
def sat24 (v : Int) : Int := clampInt (-8388608) 8388607 v

/-- One second-order section (R145): its output and its new history. The products are truncated towards minus infinity,
the accumulator saturates at each step. -/
def biquadSection (c : List Int) (x : Int) (h : Int × Int × Int × Int) : Int × (Int × Int × Int × Int) :=
  let (x1, x2, y1, y2) := h
  let p := fun (i : Nat) (v : Int) => c.getD i 0 * v / 65536
  let a0 := sat40 (p 0 x)
  let a1 := sat40 (a0 + p 1 x1)
  let a2 := sat40 (a1 + p 2 x2)
  let a3 := sat40 (a2 - p 3 y1)
  let a4 := sat40 (a3 - p 4 y2)
  let y := sat24 (roundDiv a4 16384)
  (y, (x, x1, y, y1))

/-- The cascade: its output and the new histories. -/
def cascade (b : Bank) (n : Nat) (e : Int) (hist : List (Int × Int × Int × Int)) : Int × List (Int × Int × Int × Int) :=
  (List.range n).foldl (fun (acc : Int × List (Int × Int × Int × Int)) k =>
    let (y, h) := biquadSection (b.coef.getD k []) acc.1 (hist.getD k (0, 0, 0, 0))
    (y, acc.2 ++ [h])) (e, [])

/-- The y(n) of the last section is replaced (R146). -/
def fixLast (h : List (Int × Int × Int × Int)) (n : Nat) (d : Int) : List (Int × Int × Int × Int) :=
  match h[n - 1]? with
  | some (x1, x2, _, y2) => h.set (n - 1) (x1, x2, d, y2)
  | none => h

/-- The hysteretic law (R143): STEPPING and the drive before the clamp. -/
def Elem.hysteretic (x : Elem) (b : Bank) (e : Int) : Bool × Int :=
  let st1 := x.stepping || decide (b.bOut < absN e)
  let st2 := st1 && !decide (absN e < b.bIn)
  let d1 : Int := if st2 then (if 0 < e then (x.drive : Int) + b.sUp else (x.drive : Int) - b.sDn) else x.drive
  let jump := clampInt (-b.maxJump) b.maxJump (roundDiv ((x.target - x.lastTarget) * x.inUse.invSlope) 4096)
  (st2, if !st2 && x.target ≠ x.lastTarget then d1 + jump else d1)

/-- The law's memory so that its output equals the drive (R154). -/
def Elem.takeOver (x : Elem) : Elem :=
  let n := match x.law with
    | .biquad n _ => n
    | _ => 0
  let d : Int := match x.law with
    | .biquad _ m => if m = 1 then x.drive else 0
    | _ => 0
  { x with
    handoverDue := false
    handover := true
    stepping := false
    lastTarget := x.target
    hist := (List.range n).map fun k => if k + 1 = n then (0, 0, d, d) else (0, 0, 0, 0) }

/-- A served update (R143, R145, R146, R155) from sense code `sense` in comma `c`. -/
def Elem.update (x : Elem) (k : ClassState) (b : Bank) (c sense : Nat) : Elem :=
  let e := x.target - sense
  let lim := clampInt k.driveMin k.driveMax
  let finish := fun (y : Elem) (p : Int) (u : Option (Nat × Int)) =>
    let close := !x.handover || decide (absN (p - x.drive) ≤ b.maxJump)
    let applied := if close then p else (x.drive : Int) + clampInt (-b.slewMax) b.slewMax (p - x.drive)
    let hist := match u with
      | some (n, v) => if v = applied then y.hist else fixLast y.hist n applied
      | none => y.hist
    let t := c * usTicks
    let closing := x.handover && close
    { y with
      drive := applied.toNat, sense, err := e, lastTarget := x.target, hist, handover := x.handover && !close
      lastServed := c, consec := 0, due := false, journal := some (clampInt (-32767) 32767 e)
      blankEnd := if closing && !x.supervised && x.blankEnd.isNone then some (t + b.feBlank * usTicks) else x.blankEnd
      dwellEnd := if closing && x.st == .switching then some (t + b.dwell * usTicks) else x.dwellEnd }
  match x.law with
  | .none => { x with due := false }
  | .hyst =>
    let (st, d) := x.hysteretic b e
    finish { x with stepping := st } (lim d) none
  | .biquad n m =>
    let (u, h) := cascade b n e x.hist
    finish { x with hist := h } (lim (if m = 1 then u else x.drive + u)) (if m = 1 then some (n, u) else none)

/-! ## Supervision (R164 to R166) -/

/-- What follows a fault of an element's following error (R166). -/
def react (s : State) (e : Nat) (b : Bank) : State :=
  let x := s.elem e
  let n := tileRegion (eidTile e)
  let s1 := s.modRegion n fun r => { r with feEvents := satInc r.feEvents 0xFFFF }
  let log := fun (s : State) => s.report 0x0040 (srcRegion n) e
  if x.st == .retired || b.feReact = 0 then
    if x.feReported then s1 else log (s1.modElem e fun y => { y with feReported := true })
  else if b.feReact = 1 then
    log (s1.modElem e fun y => { y with events := y.events ++ [.suspect] })
  else log (s1.modElem e fun y => { y with events := y.events ++ [.retire] })

/-- Supervision after the update of comma `c`; `before`: the comma of the update before. -/
def supervise (s : State) (e c before : Nat) (b : Bank) : State :=
  let x := s.elem e
  if !x.supervised then s.setElem e { x with feTimer := 0, feReported := x.feReported && !decide (absN x.err ≤ b.feLimit) }
  else if absN x.err ≤ b.feLimit then s.setElem e { x with feTimer := 0, feReported := false }
  else
    let t := x.feTimer + (c - before)
    if t ≤ b.feTime then s.setElem e { x with feTimer := t }
    else react (s.setElem e { x with feTimer := 0 }) e b

/-- The update of element `e` in comma `c` is served with sense code `sense` (R154, R171 steps 5 to 8). -/
def serve (s : State) (e c sense : Nat) : State :=
  let x := s.elem e
  let b := s.bankOf e
  let y := if x.handoverDue then x.takeOver else x
  supervise (s.setElem e (y.update (s.cls (s.elemClass e)) b c sense)) e c x.lastServed b

/-! ## Overruns (R167, R168) -/

/-- Causes of an overrun as DETAIL1 of code 0x0041 gives them. -/
def ovMiss : Nat := 0
def ovSense : Nat := 1
def ovCell : Nat := 2
def ovCredit : Nat := 3
def ovDiscard : Nat := 4

/-- An OVERRUN pin is set or renewed (R124). -/
def renewPin (s : State) (e : Nat) : State :=
  let s1 := s.modElem e fun y => { y with overrunPin := some (s.dt + s.img.overrunPin * secTicks) }
  { s1 with loops := { s1.loops with overrunPins := satInc s1.loops.overrunPins 0xFFFF } }

/-- The update of element `e` is an overrun: the drive is held, the comma is short (R19). -/
def overrun (s : State) (e cause : Nat) : State :=
  let x := s.elem e
  let n := tileRegion (eidTile e)
  let third := x.consec = 2
  let s1 := (s.setElem e { x with
      due := false, overruns := satInc x.overruns 255, consec := if third then 0 else x.consec + 1 }).modRegion n fun r =>
    { r with overruns := satInc r.overruns 0xFFFF, unserved := true }
  let s2 := if cause = ovMiss then { s1 with loops := { s1.loops with misses := satInc s1.loops.misses 0xFFFF } } else s1
  if third then (renewPin s2 e).report 0x0041 (srcRegion n) e cause
  else if x.overrunPin.isSome then renewPin s2 e
  else s2

/-! ## The outer loop (R158 to R162) -/

/-- Stage of an element, 1 to 3. -/
def State.stageOf (s : State) (e : Nat) : Nat :=
  match s.img.place e with
  | some p => p.stage
  | none => 1

/-- In-phase and quadrature value of a tone. -/
def LockIn.tone (k : LockIn) (stage : Nat) : Int × Int :=
  match stage with
  | 1 => (k.i1, k.q1)
  | 2 => (k.i2, k.q2)
  | _ => (k.i3, k.q3)

/-- An outer update (R161, R162). -/
def outerUpdate (s : State) (e : Nat) : State :=
  if s.outerSkipped e then s else
    match s.outPortOf e with
    | none => s
    | some r =>
      let k := tabGet s.loops.lockIns {} r.port
      let (i, q) := k.tone (s.stageOf e)
      let b := s.bankOf e
      let x := s.elem e
      let v := clampInt (-b.trimLimit) b.trimLimit (x.outerTrim + Config.outerIncrement b.demodPhase i q k.p b.ko)
      let sat := decide (b.trimLimit ≤ absN v)
      let s1 := s.setElem e { x with outerTrim := v, outerSat := sat }
      if sat && !x.outerSat then s1.report 0x0042 (srcRegion (tileRegion (eidTile e))) e else s1

/-- The code that the DRIVE frame of comma `c` carries for an element (R159): dither on a LIT one. -/
def State.sentCode (s : State) (e c : Nat) : Nat :=
  let x := s.elem e
  if !x.fastLit then x.drive
  else
    let k := s.cls (s.elemClass e)
    let d := (s.bankOf e).ditherDepth
    if d = 0 then x.drive
    else (clampInt k.driveMin k.driveMax
      ((x.drive : Int) + roundDiv (d * Config.sine (s.toneIndex (s.stageOf e - 1) c)) 32768)).toNat

end Sys2Proof.Machine
end

