-- ==== Sys2Proof/Machine/CommaWork.lean ====
section
/-! DEFINITION. The work of a comma boundary (R30): the end-of-comma check, shares, throttling, bank swaps, degradation,
rebalancing, the sample boundaries of the elements, the journal, adoption corrections and the frames of the new comma
(chapters "Architecture", "Routing and placement", "Element loops", "Paost tile links", "Temperature, ADC and DAC"). -/

namespace Sys2Proof.Machine

/-! ## Schedules (R136 to R138) -/

/-- The elements of placed tiles, rising. -/
def State.placedElems (s : State) : List Nat := (s.loops.elems.map (·.1)).filter s.img.placedEid

/-- Comma `c` is a hold-rate comma of element `e` (R137). -/
def State.holdComma (s : State) (e c : Nat) : Bool := (c + e) % max 1 (s.divInUse (s.elemClass e)) == 0

/-- A row neighbour of the element is LIT. -/
def State.nearLit (s : State) (e : Nat) : Bool := (s.img.neighbours e).any fun n => (s.elem n).st == .lit

/-- States that the fast rate of a LIT element's neighbour applies to (Table 5-1). -/
def Elem.dark (x : Elem) : Bool := x.st == .darkOff || x.st == .darkOn || (x.st == .suspect && !x.bright)

/-- The element has a correction to make (R267). -/
def State.correcting (s : State) (e : Nat) : Bool := (s.link (eidTile e)).corrections.any fun x => x.1 == e

/-- The fast flag that the element is to have (Table 5-1, R170, R267). -/
def State.wantsFast (s : State) (e : Nat) : Bool :=
  let x := s.elem e
  x.bright || s.correcting e || (x.dark && decide ((s.region (tileRegion (eidTile e))).degrade ≤ 1) && s.nearLit e)

/-- The element is in a frame of comma `c` (R258). -/
def State.inFrame (s : State) (e c : Nat) : Bool := (s.elem e).fast || s.holdComma e c

/-- The element is due in comma `c` at the degradation step of its region (R137, Table 5-5). -/
def State.dueIn (s : State) (e c : Nat) : Bool :=
  let x := s.elem e
  let g := (s.region (tileRegion (eidTile e))).degrade
  let thin := (x.fastLit && g == 3) || (!x.bright && g == 1)
  if x.fast then !thin || (c + e) % 2 == 0 else s.holdComma e c

/-- Loops run on tile `t`: the controller works, the tile is usable, the region in service (R22, R165, R268, R430). -/
def State.loopsOn (s : State) (t : Nat) : Bool :=
  let r := s.region (tileRegion t)
  s.working && s.tileUsable t && (!r.fenced || r.resuming) && !r.loopBlk && !r.linkBlk

/-! ## End of a comma (R19, R20) -/

/-- The updates that still wait for their sense sample are overruns (R167). -/
def lateSense (s : State) : State :=
  (s.placedElems.filter fun e => (s.elem e).due).foldl (fun (s : State) e => overrun s e ovSense) s

/-- The check of region `n` on the comma that has ended. -/
def Region.endComma (r : Region) : Region :=
  if r.unserved then
    { r with unserved := false, holdShort := true, rebalance := true, shortRun := satInc r.shortRun 0xFF
             shortCount := satInc r.shortCount 0xFFFF }
  else { r with holdShort := false, shortRun := 0 }

/-- Regions in which the image places a tile. -/
def State.usedRegions (s : State) : List Nat := (List.range 16).filter fun n => !(regionTiles s.img n).isEmpty

/-- The end-of-comma check of every region. -/
def endComma (s : State) : State :=
  (s.usedRegions.filter fun n => !(s.region n).fenced).foldl (fun (s : State) n => s.modRegion n Region.endComma) (lateSense s)

/-! ## Shares and swaps (R33, R150, R247) -/

/-- Written shares come into force; the tiles are told the link shares. -/
def applyShares (s : State) : State :=
  let k := s.comma
  let s1 := { s with comma := { k with
    linkShare := k.pendingLink.getD k.linkShare, loopShare := k.pendingLoop.getD k.loopShare
    pendingLink := none, pendingLoop := none } }
  if k.pendingLink.isSome then
    (s1.placedTiles.filter fun t => (s1.link t).tile == .adopted).foldl sendShares s1
  else s1

/-- Classes with a swap that waits for the boundary. -/
def swapBanks (s : State) : State :=
  (s.loops.classes.map (·.1)).foldl (fun (s : State) k =>
    let c := s.cls k
    if !c.swapDue then s
    else
      let s1 := s.setCls k { c with swapDue := false, activeB := !c.activeB }
      (s1.placedElems.filter fun e => s1.elemClass e == k).foldl (fun (s : State) e =>
        s.modElem e fun x => { x with swapSeen := false }) s1) s

/-- SWAP_PENDING clears when every element of the class has passed a sample boundary; the verb ends (R150, R176). -/
def endSwaps (s : State) : State :=
  (s.loops.classes.map (·.1)).foldl (fun (s : State) k =>
    let c := s.cls k
    if c.swapPending && !c.swapDue && !(s.placedElems.any fun e => s.elemClass e == k && !(s.elem e).swapSeen) then
      let s1 := s.setCls k { c with swapPending := false, swapper := none }
      match c.swapper with
      | some h => s1.complete h 0x29 stSuccess 0
      | none => s1
    else s) s

/-! ## Throttling (R215, R227, R474) -/

/-- Throttling begins: points are abandoned, their element goes back to the hold DAC; runs stop and wait again. -/
def throttleBegin (s : State) : State :=
  let s1 := abortPoints s fun _ => true
  let busy := s1.allRuns.filter fun x => x.2.active && x.2.ended.isNone
  let s2 := busy.foldl (fun (s : State) x =>
    let s1 := s.setAnyRun x.1 { x.2 with active := false, readySince := s.dt, words := [], compliance := false,
                                         compSampling := false, aborted := false, blocked := false }
    if x.2.actuator then actuatorOff s1 x.2.target else s1) s1
  let runs := s2.calib.runs.filter fun r => r.running && r.kind != .channel
  let s3 := runs.foldl (fun (s : State) r =>
    (s.down r.tile "ABORT" [r.target % 1024]).modElem r.target fun x =>
      { x with paused := false, blankEnd := some (s.dt + (s.bankOf r.target).feBlank * usTicks) }) s2
  { s3 with
    calib := { s3.calib with runs := s3.calib.runs.map fun r =>
      if r.running && r.kind != .channel then { r with running := false, queued := s.dt, todo := [], measured := [], pullIn := none }
      else r }
    loops := { s3.loops with throttled := true } }

/-- Throttling follows the THROTTLE condition at the boundary. -/
def throttleStep (s : State) : State :=
  if s.house.throttle && !s.loops.throttled then throttleBegin s
  else { s with loops := { s.loops with throttled := s.house.throttle } }

/-! ## Degradation (R170, R511) -/

/-- Cycles of an element's update (R140). -/
def Elem.cost (x : Elem) : Nat :=
  match x.law with
  | .none => 0
  | .hyst => 4
  | .biquad n _ => 4 * n

/-- HOLD credit of a loop block in cycles. -/
def State.loopCredit (s : State) : Nat := s.comma.loopShare.hold * 16000 / 256

/-- Elements of region `n` whose loops run. -/
def State.runningElems (s : State) (n : Nat) : List Nat :=
  s.placedElems.filter fun e => tileRegion (eidTile e) == n && s.loopsOn (eidTile e) && (s.elem e).st != .uncal

/-- Fast demand of an element at step `g`, in hundredths of a cycle per comma (Table 5-5, R140). -/
def State.fastCost (s : State) (g e : Nat) : Nat :=
  let x := s.elem e
  if x.st == .switching then 100 * x.cost
  else if x.fastLit then (if g = 3 then 50 else 100) * x.cost + 16
  else if x.dark && s.nearLit e then (if g = 0 then 100 else if g = 1 then 50 else 0) * x.cost
  else 0

/-- Fast demand of region `n` at step `g`, in hundredths of a cycle. -/
def State.fastDemandOf (s : State) (es : List Nat) (g : Nat) : Nat := (es.map (s.fastCost g)).foldl (· + ·) 0

/-- Slots of a link in one comma by its speed code (R31). -/
def linkSlots (speed : Nat) : Nat := [18, 37, 75, 151, 189].getD speed 189

/-- The element is due in comma `c` at step `g`, as R511 counts it. -/
def State.countsAt (s : State) (g c e : Nat) : Bool :=
  let x := s.elem e
  if x.bright then true
  else if x.dark && s.nearLit e && g ≤ 1 then g = 0 || (c + e) % 2 = 0
  else s.holdComma e c

/-- HOLD demand of the link of tile `t` with `e` elements due (R512). -/
def State.linkNeed (s : State) (t e : Nat) : Nat :=
  let p := (((s.img.inPorts ++ s.img.outPorts).filterMap (·.monitor)).filter fun m => m / 8 == t).length
  max (4 + ceilDiv e 4) (2 + p + ceilDiv e 4)

/-- Loop block and links of region `n` fit at step `g`; `num`/`den` is the part of the credit that they may use. -/
def State.fits (s : State) (n c : Nat) (es : List Nat) (g num den : Nat) : Bool :=
  let mean := (s.region n).holdDemand.foldl (· + ·) 0
  -- F × 16 × den ≤ num × (16 × credit − sum of 16 commas), F in hundredths
  decide (s.fastDemandOf es g * 16 * den ≤ 100 * num * (16 * s.loopCredit - mean)) &&
    (regionTiles s.img n).all fun t => !s.loopsOn t ||
      decide (s.linkNeed t ((es.filter fun e => eidTile e == t && s.countsAt g c e).length) * den
        ≤ num * (s.comma.linkShare.hold * linkSlots (s.link t).speed / 256))

/-- The step that region `n` runs in comma `c`: the lowest that fits, a lower one than now only under the margin. -/
def State.stepOf (s : State) (n c : Nat) (es : List Nat) : Nat :=
  let now := (s.region n).degrade
  let may := fun (g : Nat) => if g < now then s.fits n c es g 15 16 else s.fits n c es g 1 1
  ((List.range 4).find? may).getD 3

/-- The degradation step of region `n`. -/
def degradeStep (c : Nat) (s : State) (n : Nat) : State :=
  let es := s.runningElems n
  let g := s.stepOf n c es
  let old := (s.region n).degrade
  let isOver := g == 3 && !(regionTiles s.img n).all fun t => !s.loopsOn t ||
      decide (s.linkNeed t ((es.filter fun e => eidTile e == t && s.countsAt g c e).length)
        ≤ s.comma.linkShare.hold * linkSlots (s.link t).speed / 256)
  let s1 := s.modRegion n fun r => { r with
    degrade := g, fastDemand := min 16383 (s.fastDemandOf es 0 / 100), unserved := r.unserved || isOver }
  if g ≠ old && g ≠ 0 then s1.report 0x0043 (srcRegion n) g else s1

/-! ## Rebalancing (R20, R132 to R134) -/

/-- Loop cell that serves an element; none: its cell is fenced and no other has taken its row group (R132). -/
def State.cellOf (s : State) (e : Nat) : Option Nat :=
  let t := eidTile e
  let r := s.region (tileRegion t)
  match tabGet r.rowCell (some (t % 16)) (32 * (t % 16) + eidRow e) with
  | some k => if r.loopFenced.contains k then none else some k
  | none => none

/-- Load of an element in millionths of a cycle per comma. -/
def State.elemLoad (s : State) (e : Nat) : Nat :=
  let x := s.elem e
  let fast := 1000000 * x.cost
  if x.fast then fast + (if x.fastLit then 160000 else 0) else fast / max 1 (s.divInUse (s.elemClass e))

/-- Load of a row group of region `n`, by its key. -/
def State.groupLoad (s : State) (n key : Nat) : Nat :=
  let first := (16 * n + key / 32) * 1024 + key % 32 * 32
  ((List.range 32).map fun j => s.elemLoad (first + j)).foldl (· + ·) 0

/-- Sum of a loop cell's loads in the latest 16 commas. -/
def Region.cellSum (r : Region) (k : Nat) : Nat := (tabGet r.cellUsed [] k).foldl (· + ·) 0

/-- Loop cells that work. -/
def Region.cells (r : Region) : List Nat := (List.range 16).filter fun k => !r.loopFenced.contains k

/-- The working cell with the lowest load, the lowest index among equals. -/
def Region.coolest (r : Region) (but : Nat) : Option Nat :=
  (r.cells.filter (· ≠ but)).foldl (fun (b : Option Nat) k =>
    match b with
    | none => some k
    | some j => if r.cellSum k < r.cellSum j then some k else some j) none

/-- The working cell with the highest load, the lowest index among equals. -/
def Region.hottest (r : Region) : Option Nat :=
  r.cells.foldl (fun (b : Option Nat) k =>
    match b with
    | none => some k
    | some j => if r.cellSum j < r.cellSum k then some k else some j) none

/-- Row groups of region `n` that cell `k` serves, highest load first, then lowest tile, then lowest row. -/
def State.groupsOf (s : State) (n k : Nat) : List Nat :=
  let r := s.region n
  let keys := (List.range 512).filter fun key => s.img.placed (16 * n + key / 32) &&
    tabGet r.rowCell (some (key / 32)) key == some k
  (keys.map fun key => (key, s.groupLoad n key)).mergeSort (fun a b => b.2 ≤ a.2) |>.map (·.1)

/-- Sixteen entries with `d` added to each. -/
def addLoad (l : List Nat) (d : Nat) : List Nat := (List.range 16).map fun i => l.getD i 0 + d

/-- Sixteen entries with `d` taken from each. -/
def subLoad (l : List Nat) (d : Nat) : List Nat := (List.range 16).map fun i => l.getD i 0 - d

/-- A row group changes its cell. -/
def moveGroup (s : State) (n key to_ : Nat) : State :=
  let d := s.groupLoad n key
  s.modRegion n fun r =>
    let used := match tabGet r.rowCell (some (key / 32)) key with
      | some k => tabMod r.cellUsed [] k fun l => subLoad l d
      | none => r.cellUsed
    { r with rowCell := tabSet r.rowCell key (some to_), cellUsed := tabMod used [] to_ fun l => addLoad l d }

/-- A sum of 16 loads is above `n`/256 of a cell's 1,000 cycles. -/
def aboveShare (sum n : Nat) : Bool := decide (n * 16000000000 < sum * 256)

/-- The hot cell of a region: the one in work, else one above BAL_HIGH, else, when asked, the hottest (R133). -/
def State.hotOf (s : State) (n : Nat) : Option Nat :=
  let r := s.region n
  match r.hotCell with
  | some k => some k
  | none => match r.cells.find? fun k => aboveShare (r.cellSum k) s.img.balHigh with
    | some k => some k
    | none => if r.rebalance then r.hottest else none

/-- One move away from the hot cell of region `n`: the new state, and whether a group has moved. -/
def balanceRegion (s : State) (n : Nat) : State × Bool :=
  match s.hotOf n with
  | none => (s, false)
  | some k =>
    let r := s.region n
    let stop := s.modRegion n fun r => { r with hotCell := none, rebalance := false }
    if !aboveShare (r.cellSum k) s.img.balTarget then (stop, false)
    else match r.coolest k with
      | none => (stop, false)
      | some j =>
        match (s.groupsOf n k).find? fun key =>
            !aboveShare (r.cellSum j + 16 * s.groupLoad n key) s.img.balTarget && decide (0 < s.groupLoad n key) with
        | none => (stop, false)
        | some key => ((moveGroup s n key j).modRegion n fun r => { r with hotCell := some k, rebalance := false }, true)

/-- At most four moves in a comma, the regions in rising order; none while P2 is suspended (R474). -/
def rebalance (s : State) : State :=
  if s.loops.throttled then s
  else
    (((List.range 4).flatMap fun _ => s.usedRegions).foldl (fun (acc : State × Nat) n =>
      if 4 ≤ acc.2 || (acc.1.region n).fenced then acc
      else
        let (s1, moved) := balanceRegion acc.1 n
        (s1, acc.2 + b2n moved)) (s, 0)).1

/-! ## Sample boundaries (R60, R171) -/

/-- The drive that an element has at the end of a drive shape (R153): what the tile gives where its shape is known, else
the shape's last point from the law's drive. -/
def State.shapeResult (s : State) (e : Nat) : Nat :=
  let t := s.tile (eidTile e)
  let x := s.elem e
  match t.playing.find? fun p => p.elem = e % 1024 with
  | some p => s.shapeDrive t p 31
  | none =>
    if (tabGet t.serials none (e % 1024)).map (·.1) = x.lastLaunch.map (·.1) then t.heldCode (e % 1024)
    else
      let d1 := 64 * s.d1Field e x.on
      let k := s.cls (s.elemClass e)
      let pts := if d1 < x.drive then k.shapeOff else k.shapeOn
      (clampInt k.driveMin k.driveMax
        ((x.drive : Int) + roundDiv (pts.getD 31 16384 * ((d1 : Int) - x.drive)) 16384)).toNat

/-- State events of an element (R59), the fold on leaving LIT (R231), what they make STALE (R87). -/
def takeEvents (s : State) (e : Nat) : State :=
  let after_ := (s.elem e).applyEvents s.dt
  let moved := (s.elem e).events.any fun v => match v with
    | .launch _ _ m => m
    | .release => true
    | _ => false
  let s1 := if (s.elem e).st == .lit && after_.st != .lit then (fold s e).getD s else s
  let x := s1.elem e
  let s2 := s1.setElem e (x.applyEvents s.dt)
  let s3 := if moved then s2.modElem e fun y => { y with drive := s2.shapeResult e } else s2
  if (after_.st == .retired || after_.st == .suspect) && x.st != after_.st then staleByElem s3 fun i => i == e else s3

/-- Class, active bank, port, trims and a finished context move are taken (R66, R126, R150, R176). -/
def takeClass (s : State) (e : Nat) : State :=
  let x := s.elem e
  let k := x.clsOvr.getD (s.img.classOf e)
  let s1 := if s.elemClass e = k then s else staleByElem s fun i => i == e
  let port := if x.st == .lit then (match s.connOfElem e with
    | some (_, c) => some (clauseOf c.clause).outPort
    | none => x.litPort) else x.litPort
  let s2 := s1.setElem e { x with cls := some k, bankB := (s1.cls k).activeB, swapSeen := true, litPort := port }
  let s3 := match x.newTrims with
    | some (a, b, r) => s2.modElem e fun y => { y with
        newTrims := none, trimOn := a, trimOff := b, outerTrim := if r then 0 else y.outerTrim
        outerSat := y.outerSat && !r }
    | none => s2
  match x.moving with
  | some (0, _) => if s.loops.throttled then s3 else promote (s3.modElem e fun y => { y with moving := none }) e
  | some (t, b) => if s.loops.throttled then s3 else s3.modElem e fun y => { y with moving := none, tier := t, bank := b }
  | none => s3

/-- The verbs that waited for the boundary end (R121, R176). -/
def endWaits (s : State) (e : Nat) : State :=
  let (mine, rest) := s.loops.waits.partition fun w => w.1 == e
  if mine.isEmpty then s
  else mine.foldl (fun (s : State) w => s.complete w.2.1 w.2.2 stSuccess 0) { s with loops := { s.loops with waits := rest } }

/-- The end of a shape: the law takes over drive(31) (R153, R154). -/
def takeShapeEnd (s : State) (e : Nat) : State :=
  let x := s.elem e
  if !x.shaping || s.dt < x.shapeEnd then s
  else if (s.tile (eidTile e)).playing.any fun p => p.elem == e % 1024 then endShape s (eidTile e) (e % 1024)
  else s.setElem e { x with shaping := false, handoverDue := true }

/-- Supervision begins again (R165). -/
def endBlank (s : State) (e : Nat) : State :=
  let x := s.elem e
  match x.blankEnd with
  | some t => if t ≤ s.dt then s.setElem e { x with blankEnd := none, supervised := x.st != .uncal, feTimer := 0 } else s
  | none => s

/-- Law, bases and target for comma `c` (R141, R151, R235). -/
def takeLaw (s : State) (e c : Nat) : State :=
  let x := s.elem e
  let b := s.bankOf e
  let want := x.lawWanted b
  let y := if x.law = want then x else { x with law := want, handoverDue := want != .none }
  let z := if s.holdComma e c then y.slewBases s.img.calSlew else y
  s.setElem e (if z.st == .uncal then z else { z with target := z.targetOf b })

/-- What the updates of a comma have used so far. -/
structure Budget where
  /-- Cycles by region. -/
  used  : Tab Nat := []
  /-- Cycles that the hold-rate elements of a region asked for. -/
  hold  : Tab Nat := []
  /-- Cycles by 16 × region + cell. -/
  cell  : Tab Nat := []
  /-- Contexts fetched from each tier-1 bank, and from tier 2. -/
  bank  : Tab Nat := []
  tier2 : Nat := 0
  deriving DecidableEq, Repr

/-- Contexts that a tier-1 bank brings within its lead of 1 µs (Table 4-3). -/
def bankFetches : Nat := 200

/-- Contexts that tier 2 brings within its lead of 8 µs (Table 4-3). -/
def tier2Fetches : Nat := 800

/-- Why the update cannot be served, if it cannot (R167): context, cell, credit, in this order. -/
def Budget.denies (u : Budget) (s : State) (e : Nat) : Option Nat :=
  let x := s.elem e
  let n := tileRegion (eidTile e)
  if x.rebuilding then some ovMiss
  else match s.cellOf e with
    | none => some ovCell
    | some k =>
      if (x.tier == 1 && decide (bankFetches ≤ tabGet u.bank 0 x.bank)) || (x.tier == 2 && decide (tier2Fetches ≤ u.tier2)) then
        some ovMiss
      else if s.loopCredit < tabGet u.used 0 n + x.cost || 1000 < tabGet u.cell 0 (16 * n + k) + x.cost then some ovCredit
      else none

/-- The fetch of an element's context. -/
def Budget.fetch (u : Budget) (x : Elem) : Budget :=
  if x.tier == 1 then { u with bank := tabMod u.bank 0 x.bank (· + 1) }
  else if x.tier == 2 then { u with tier2 := u.tier2 + 1 }
  else u

/-- The cycles of an element's update, or of `cost` more. -/
def Budget.charge (u : Budget) (s : State) (e cost : Nat) : Budget :=
  let n := tileRegion (eidTile e)
  { u with
    used := tabMod u.used 0 n (· + cost)
    cell := match s.cellOf e with
      | some k => tabMod u.cell 0 (16 * n + k) (· + cost)
      | none => u.cell }

/-- The update of element `e` is due in comma `c` (R137, R154, R157, R165). -/
def State.updateDue (s : State) (e c : Nat) : Bool :=
  let x := s.elem e
  s.dueIn e c && x.st != .uncal && !x.paused && !x.shaping && s.loopsOn (eidTile e) &&
    decide (x.shapeEnd ≤ (c - 1) * usTicks)

/-- The update of comma `c`: served when its sense sample is here, else it waits for it (R139, R167). -/
def runUpdate (acc : State × Budget) (e c : Nat) : State × Budget :=
  let (s, u) := acc
  let x := s.elem e
  let n := tileRegion (eidTile e)
  let u1 := if x.fast then u else { u with hold := tabMod u.hold 0 n (· + x.cost) }
  match u1.denies s e with
  | some cause => (overrun s e cause, u1.fetch x)
  | none =>
    let u2 := (u1.fetch x).charge s e x.cost
    match x.sample with
    | some (k, v) => if k + 1 = c then (serve s e c v, u2) else (s.setElem e { x with due := true }, u2)
    | none => (s.setElem e { x with due := true }, u2)

/-- The outer update of a LIT element, every 100 commas (R137, R140). -/
def runOuter (acc : State × Budget) (e c : Nat) : State × Budget :=
  let (s, u) := acc
  let x := s.elem e
  let n := tileRegion (eidTile e)
  if !x.fastLit || (c + e) % 100 ≠ 0 || x.paused || !s.loopsOn (eidTile e) || s.loopCredit < tabGet u.used 0 n + 16 then acc
  else (outerUpdate s e, u.charge s e 16)

/-- Changes of intent and class whose launch time has passed become state events; the tile is told a new class (R65, R256).
One that raises the element to the fast rate makes the boundary a sample boundary (R60). -/
def takeIntents (s : State) (e : Nat) : State :=
  let x := s.elem e
  let due := x.intents.filter (·.1 < s.dt)
  if due.isEmpty then s
  else due.foldl (fun (s : State) i =>
      sendClass (s.modElem e fun y => { y with
        events := y.events ++ [.launch true i.2.1 false], dueNext := y.dueNext || i.2.1 }) e i.2.2)
    (s.modElem e fun y => { y with intents := y.intents.filter (s.dt ≤ ·.1) })

/-- One element at the boundary into comma `c` (R171). -/
def boundaryElem (c : Nat) (acc : State × Budget) (e : Nat) : State × Budget :=
  let s0 := takeIntents (acc.1.modElem e fun x => { x with fast := x.fastNext }) e
  if !((s0.elem e).dueNext || s0.dueIn e c || (s0.elem e).dwellEnd.any (· ≤ s0.dt)) then (endBlank (takeShapeEnd s0 e) e, acc.2)
  else
    let s1 := takeEvents (s0.modElem e fun x => { x with dueNext := false }) e
    let s2 := endWaits (takeClass s1 e) e
    let s3 := takeLaw (endBlank (takeShapeEnd s2 e) e) e c
    let a1 := if s3.updateDue e c then runUpdate (s3, acc.2) e c else (s3, acc.2)
    runOuter a1 e c

/-- What a region's registers keep of a comma's use. -/
def Region.record (r : Region) (n : Nat) (u : Budget) : Region :=
  { r with
    holdUsed := (tabGet u.used 0 n :: r.holdUsed).take 16
    holdDemand := (tabGet u.hold 0 n :: r.holdDemand).take 16
    cellUsed := (List.range 16).foldl (fun (t : Tab (List Nat)) k =>
      let l := tabGet r.cellUsed [] k
      let v := 1000000 * tabGet u.cell 0 (16 * n + k)
      if l.isEmpty && v = 0 then t else tabSet t k ((v :: l).take 16)) r.cellUsed }

/-- Every element's boundary, in rising EID order. -/
def boundaryElems (s : State) (c : Nat) : State :=
  let (s1, u) := s.placedElems.foldl (boundaryElem c) (s, {})
  s1.usedRegions.foldl (fun (s : State) n => s.modRegion n fun r => r.record n u) s1

/-- The fast flags that change, from the next comma on (R138, R258). -/
def sendRates (s : State) (c : Nat) : State :=
  s.placedElems.foldl (fun (s : State) e =>
    let want := s.wantsFast e
    if (s.elem e).fastNext = want then s
    else
      let s1 := s.modElem e fun x => { x with fastNext := want }
      let l := s.link (eidTile e)
      if (l.tile == .adopted || l.tile == .quarantined) && (l.state == .active || l.state == .idle) then
        s1.down (eidTile e) "SET_FAST" [e % 1024, b2n want, (c + 1) % 8]
      else s1) s

/-- A RETIRED element whose connections are gone goes to OFF by a launch of its own (R58). -/
def releaseRetired (s : State) : State :=
  (s.placedElems.filter fun e => (s.elem e).st == .retired && (s.elem e).on && (s.connOfElem e).isNone &&
      !(s.elem e).events.contains .release && !(s.store.preps.any fun p => p.trigger == .releaseRetired e) &&
      !(s.store.launches.any fun l => l.acts.any fun a => a.eid == e)).foldl (fun (s : State) e =>
    let st := s.store
    { s with store := { st with
      preps := st.preps ++ [{ id := st.nextPrep, handle := 0xFFF, trigger := .releaseRetired e, done := some [] }]
      nextPrep := st.nextPrep + 1 } }) s

/-! ## The journal (R172, R173) -/

/-- The frames of the millisecond that has ended; while P3 is suspended every one is dropped. -/
def formFrames (s : State) (c : Nat) : State :=
  let ts := s.placedTiles
  if c % 1000 ≠ 0 || c = 0 || ts.isEmpty then s
  else
    let m := c / 1000 - 1
    let j := s.loops.journal
    let frames := ts.map fun t => (m, t, (tileEids t).map fun e => (s.elem e).journal)
    let j1 := if s.img.journalSlots = 0 then j
      else if s.loops.throttled then { j with lost := (j.lost + ts.length) % 2 ^ 32 }
      else { j with waiting := j.waiting ++ frames }
    { s with loops := { s.loops with
      journal := j1, elems := s.loops.elems.map fun p => (p.1, { p.2 with journal := none }) } }

/-! ## Adoption corrections (R267 step 3) -/

/-- One comma of a quarantined tile's corrections: those of OFF targets first, each by at most ADOPT_SLEW. -/
def correctTile (s : State) (t : Nat) : State :=
  let l := s.link t
  if l.tile != .quarantined || l.acksOpen ≠ 0 || l.corrections.isEmpty || !s.working then s
  else
    let offs := l.corrections.filter fun x => (s.connOfElem x.1).isNone
    let now := if offs.isEmpty then l.corrections else offs
    let s1 := now.foldl (fun (s : State) x => s.modElem x.1 fun y =>
      { y with drive := slewTo s.img.adoptSlew y.drive x.2 }) s
    s1.modLink t fun k => { k with corrections := k.corrections.filter fun x => (s1.elem x.1).drive ≠ x.2 }

/-! ## Frames of the comma (R159, R258, R260) -/

/-- The DRIVE frame for comma `c + 1`: one code for each element that is in the frame of comma `c`. -/
def sendDrive (s : State) (t c : Nat) : State :=
  let es := (tileEids t).filter fun e => s.inFrame e c
  s.down t "DRIVE" ((c + 1) :: es.map fun e => s.sentCode e (c + 1))

/-- Loop frames go to the tile: adopted, or quarantined with its rewrite acknowledged. -/
def State.drives (s : State) (t : Nat) : Bool :=
  let l := s.link t
  let r := s.region (tileRegion t)
  s.working && (l.state == .active || l.state == .idle) && (!r.fenced || r.resuming) && !r.linkBlk && !r.linkFenced.contains (t % 16) &&
    (l.tile == .adopted || (l.tile == .quarantined && l.acksOpen = 0)) && !s.faults.tileFences.contains t

/-- The DRIVE frames whose updates are all done; the others follow their SENSE frame. -/
def sendDrives (s : State) (c : Nat) : State :=
  (s.placedTiles.filter fun t => s.drives t && !((tileEids t).any fun e => (s.elem e).due)).foldl
    (fun (s : State) t => sendDrive s t c) s

/-- A TBEACON on every link that is up: the device time at which it reaches the tile (R260). -/
def sendBeacons (s : State) : State :=
  if !s.working then s else
  (s.placedTiles.filter fun t => (s.link t).state == .active || (s.link t).state == .idle).foldl (fun (s : State) t =>
    (s.modLink t fun l => { l with beaconAt := s.dt }).down t "TBEACON" [(s.dt + (s.link t).delay / 8) % 2 ^ 41]) s

/-! ## DAC sine (R485) -/

/-- Code of a sine channel in comma `c`. -/
def Dac.sineAt (d : Dac) (c : Nat) : Nat :=
  (clampInt 0 65535 ((d.center : Int) + roundDiv (d.ampl * Config.sine ((d.ftw * c % 2 ^ 32) / 2 ^ 22)) 32768)).toNat

/-- The sine channels set their codes. -/
def dacSines (s : State) (c : Nat) : State :=
  (List.range 4).foldl (fun (s : State) k =>
    let d := s.dac k
    if d.sine && d.written && !s.house.dacClrLow && !s.faults.safeState then s.setDac k { d with sineCode := d.sineAt c } else s) s

/-! ## The boundary -/

/-- What the tiles take up at the start of comma `c`. -/
def tileCommas (s : State) (c : Nat) : State :=
  { s with paost := { s.paost with tiles := s.paost.tiles.map fun p => (p.1, p.2.comma c) } }

/-- The controller's part of the boundary into comma `c`. -/
def mainComma (s : State) (c : Nat) : State :=
  let s1 := throttleStep (applyMeters (applyShares (endComma s)))
  let s2 := rebalance (s1.usedRegions.foldl (degradeStep c) (swapBanks s1))
  let s3 := boundaryElems s2 c
  let s4 := endSwaps (releaseRetired (sendRates s3 c))
  let s5 := s4.placedTiles.foldl correctTile (formFrames s4 c)
  dacSines (grantBus (matePaths (sendBeacons (sendDrives s5 c)))) c

/-- The boundary into the next comma: device time comes to it (R30). -/
def commaStep (s : State) : State :=
  let c := s.dt / usTicks + 1
  let s1 := tileCommas { s with dt := c * usTicks } c
  if !s.chip.mainRun then s1
  else if s.chip.imageApplied && (s.mate.role == .active || s.mate.role == .alone) then mainComma s1 c
  else dacSines (matePaths (throttleStep (applyMeters (applyShares s1)))) c

/-- COMMA_BOUNDARY (R30): device time runs while the time PLL is locked (R272). -/
def execCommaBoundary (s : State) : Host.Outcome State Fault Refusal :=
  if s.time.pllLocked then ok s (commaStep s) else .next s

/-- An empty queue: one tick of device time passes (R272), and with it the boundary that it brings (R30) (assumption
log 1). Without a locked time PLL nothing happens. -/
def idle (s : State) : Host.Outcome State Fault Refusal :=
  if !s.time.pllLocked then .next s
  else if (s.dt + 1) % usTicks = 0 then ok s (commaStep s)
  else .next { s with dt := s.dt + 1 }

/-! ## Timed ends that the boundary brings too -/

/-- SETTLING_DWELL_END (R156): the dwell has passed; the change takes effect at the element's sample boundary, which the
row is. -/
def execSettlingDwellEnd (eid : Nat) (s : State) : Host.Outcome State Fault Refusal :=
  let x := s.elem eid
  match x.dwellEnd with
  | some t => if t ≤ s.dt && x.events.isEmpty then ok s (takeEvents s eid) else .next s
  | none => .next s

/-- FE_BLANK_END (R165). -/
def execFeBlankEnd (eid : Nat) (s : State) : Host.Outcome State Fault Refusal :=
  match (s.elem eid).blankEnd with
  | some t => if t ≤ s.dt then ok s (endBlank s eid) else .next s
  | none => .next s

/-- SENSE_FRAME_RECEIVE (R139, R259): the samples of comma `comma`, in the order of the elements due in the next comma;
the updates that waited for them are served, and the tile's DRIVE frame follows. -/
def execSenseFrameReceive (tile comma : Nat) (samples : List Nat) (s : State) : Host.Outcome State Fault Refusal :=
  let c := s.commaNo
  let early := comma == c
  let cur := comma + 1 == c
  let div := fun (e : Nat) => (s.cls (s.elemClass e)).holdDiv * (if s.house.throttle then 2 else 1)
  let es := (tileEids tile).filter fun e =>
    if early then (s.elem e).fastNext || (comma + 1 + e) % max 1 (div e) == 0 else s.inFrame e c
  if !(early || cur) || es.length ≠ samples.length || (s.link tile).tile != .adopted then .next s
  else
    let s1 := (es.zip samples).foldl (fun (s : State) p => s.modElem p.1 fun x => { x with sample := some (comma, p.2) }) s
    if early then ok s s1
    else
      let waiting := es.filter fun e => (s.elem e).due
      let s2 := (waiting.filter fun _ => s.loopsOn tile).foldl (fun (s : State) e =>
        match (s.elem e).sample with
        | some (_, v) => serve s e c v
        | none => s) s1
      ok s (if waiting.isEmpty || !s2.drives tile then s2 else sendDrive s2 tile c)

end Sys2Proof.Machine
end

