-- ==== Sys2Proof/Machine/Dalovo.lean ====
section
/-! DEFINITION. The Dalovo channel: discovery, key agreement, sessions, VERB, USER and SAFETY frames (R332 to R341, R288,
R389 to R391, R456). -/

namespace Sys2Proof.Machine

/-! ## Ports and sessions -/

def State.sitePortUp (s : State) (p : Nat) : Bool := if p = 0 then s.adm.sp0Up else s.adm.sp1Up

/-- The peer of an identity: its place in the image's list (R333). -/
def State.peerOf (s : State) (id : Nat) : Option Nat :=
  let k := s.img.peers.findIdx fun p => p.id == id
  if k < s.img.peers.length then some k else none

/-- The identity of peer `p`. -/
def State.peerId (s : State) (p : Nat) : Nat :=
  match s.img.peers[p]? with
  | some r => r.id
  | none => 0

/-- A frame or entry of peer `p` is lost (DV_COUNT.LOST). -/
def peerLost (s : State) (p : Nat) : State := s.setPeer p { s.peer p with lost := satInc (s.peer p).lost 0xFF }

/-- A queued frame is reported to its source (R340). -/
def frameReport (s : State) (f : UserFrame) (status : Nat) (t : Int) : State :=
  s.event f.src { kind := 0x07, tag := f.tag, status, time := t }

/-- Peer `p`'s session closes (R336): its timed frames are cancelled (R340). `tell`: a CLOSE frame with the reason goes
out. -/
def closeSession (s : State) (p reason : Nat) (tell : Bool) : State :=
  let x := s.peer p
  let s1 := if tell && x.state == .up then
      s.emit (.siteFrame x.port "CLOSE" [x.session, x.txSeq, bytesNat ((Config.sealBody x.keys x.txSeq (byteList 1 reason)).map (·.toNat))])
    else s
  let gone := s1.adm.queue.filter fun f => f.peer == p && f.timed.isSome
  let s2 := { s1 with adm := { s1.adm with queue := s1.adm.queue.filter fun f => !(f.peer == p && f.timed.isSome) } }
  let s3 := gone.foldl (fun (s : State) f => frameReport s f stLateCancelled s.now) s2
  s3.setPeer p { s3.peer p with state := .absent, rxSeq := none, txSeq := 0, tagFails := [] }

/-- An encrypted frame to peer `p` in its session; without one it is lost (R336, R337). -/
def sendSealed (s : State) (p : Nat) (name : String) (body : List Byte) : State :=
  let x := s.peer p
  if x.state != .up || !s.sitePortUp x.port then peerLost s p
  else
    let text := Config.sealBody x.keys x.txSeq body
    let s1 := (s.setPeer p { x with txSeq := x.txSeq + 1 }).emit
      (.siteFrame x.port name [x.session, x.txSeq, bytesNat (text.map (·.toNat))])
    if 2 ^ 32 ≤ x.txSeq + 1 then closeSession s1 p 1 true else s1

/-- The session with peer `p` is up (R334): its meters start full (R323). -/
def sessionUp (s : State) (p : Nat) : State :=
  fillMeters (s.setPeer p { s.peer p with state := .up, upSince := s.dt, lastRx := s.dt, tagFails := [] }) (8 + p)

/-- A frame is dropped for its form or its tag (R332): 16 failed tags (`tag`) within one second close the session (R336). -/
def tagFailed (s : State) (p : Nat) (tag : Bool) : State :=
  let x := s.peer p
  let fails := (x.tagFails.filter fun t => s.dt < t + secTicks) ++ (if tag then [s.dt] else [])
  let s1 := s.setPeer p { x with tagFail := satInc x.tagFail 0xFF, tagFails := fails }
  if x.state == .up && 16 ≤ fails.length then closeSession s1 p 2 true else s1

/-- An encrypted frame arrives: the peer whose frame it is when it is accepted (R332, R336), and the state after. -/
def acceptFrame (s : State) (h : DvHead) : Option Nat × State :=
  match s.peerOf h.srcId with
  | none => (none, { s with adm := { s.adm with unlisted := s.adm.unlisted + 1 } })
  | some p =>
    let x := s.peer p
    if x.state != .up || x.port != h.port || x.session != h.session then (none, peerLost s p)
    else if h.version != 1 || !h.lengthOk || !h.tagOk then (none, tagFailed s p (h.version == 1 && h.lengthOk))
    else if h.seq ≤ x.rxSeq.getD 0 then (none, s.setPeer p { x with replay := satInc x.replay 0xFF })
    else
      let s1 := s.setPeer p { x with rxSeq := some h.seq, lastRx := s.dt }
      if 2 ^ 32 ≤ h.seq then (none, closeSession s1 p 1 true) else (some p, s1)

/-! ## Discovery and key agreement -/

/-- DALOVO_ANNOUNCE_SEND: every second while the port's link is up (R333). -/
def execDalovoAnnounceSend (port : Nat) (s : State) : Host.Outcome State Fault Refusal :=
  let last := tabGet (s.adm.announced.map fun x => (x.1, some x.2)) none port
  let due := match last with
    | some t => decide (t + 990 * msTicks ≤ s.dt)
    | none => true
  if 2 ≤ port || !s.sitePortUp port || !s.chip.imageApplied || !due then .next s
  else
    let cert := sha256 s.chip.otp.deviceCert
    ok s (State.emit { s with adm := { s.adm with announced := tabSet s.adm.announced port s.dt } }
      (.siteFrame port "ANNOUNCE" [s.chip.otp.identity, cert.toNat, port, b2n s.chip.ownerValid]))

/-- A step of the key agreement is to be answered within 100 ms (R334). -/
def handshake (s : State) (p port : Nat) (init : Bool) (f : Peer → Peer) : State :=
  s.setPeer p (f { s.peer p with
    state := .handshake, port, initiator := init, deadline := s.dt + 100 * msTicks, lastRx := s.dt, rxSeq := none, txSeq := 0
    tagFails := [] })

/-- DALOVO_ANNOUNCE_RECEIVE (R333): the controller with the lower identity starts the key agreement. -/
def execDalovoAnnounceReceive (port srcId : Nat) (_ownerHeld : Bool) (s : State) : Host.Outcome State Fault Refusal :=
  if !s.sitePortUp port || !s.chip.imageApplied then .next s
  else match s.peerOf srcId with
    | none => ok s { s with adm := { s.adm with unlisted := s.adm.unlisted + 1 } }
    | some p =>
      let x := s.peer p
      if x.state == .up || x.state == .handshake then ok s (s.setPeer p { x with lastRx := s.dt })
      else if s.chip.otp.identity < srcId then
        ok s ((handshake s p port true id).emit (.siteFrame port "HELLO" [s.chip.otp.identity, srcId]))
      else ok s (s.setPeer p { x with state := .seen, lastRx := s.dt })

/-- What R335 asks of a HELLO or HELLO_REPLY from peer `p`. -/
def State.helloOk (s : State) (p : Nat) (f : HelloFrame) : Bool :=
  decide (f.certLen ≤ 640) && f.chainOk && f.subjectId == f.srcId && f.signatureOk &&
    (match (s.img.peers[p]?).bind (·.ownerKey) with
      | none => true
      | some k => decide (1 ≤ f.ownerLen) && decide (f.ownerLen ≤ 640) && f.ownerKey == some k && f.ownerId == f.srcId)

/-- A failed check ends the attempt (R335). -/
def authFailed (s : State) (p : Nat) : State :=
  let x := s.peer p
  s.setPeer p { x with authFail := satInc x.authFail 0xFF, state := if x.state == .up then .up else .seen }

/-- The site port takes a frame meant for this controller. -/
def State.takesHello (s : State) (f : HelloFrame) : Bool :=
  s.sitePortUp f.port && s.chip.imageApplied && f.dstId == s.chip.otp.identity

/-- DALOVO_HELLO: checked and answered with HELLO_REPLY (R334, R335). A session that still stands is replaced. -/
def execDalovoHello (frame : HelloFrame) (s : State) : Host.Outcome State Fault Refusal :=
  if !s.takesHello frame then .next s
  else match s.peerOf frame.srcId with
    | none => ok s { s with adm := { s.adm with unlisted := s.adm.unlisted + 1 } }
    | some p =>
      if !s.helloOk p frame then ok s (authFailed s p)
      else
        let s1 := if (s.peer p).state == .up then closeSession s p 0 false else s
        let keys := Config.sessionKeys frame.body (byteList 4 s.chip.otp.identity)
        ok s ((handshake s1 p frame.port false fun x => { x with keys }).emit
          (.siteFrame frame.port "HELLO_REPLY" [s.chip.otp.identity, frame.srcId]))

/-- DALOVO_HELLO_REPLY: checked; the keys are derived, the session is numbered and FINISH is sent (R334). -/
def execDalovoHelloReply (frame : HelloFrame) (s : State) : Host.Outcome State Fault Refusal :=
  if !s.takesHello frame then .next s
  else match s.peerOf frame.srcId with
    | none => ok s { s with adm := { s.adm with unlisted := s.adm.unlisted + 1 } }
    | some p =>
      let x := s.peer p
      if x.state != .handshake || !x.initiator || x.port != frame.port then .next s
      else if !s.helloOk p frame then ok s (authFailed s p)
      else
        let n := s.adm.nextSession
        let keys := Config.sessionKeys (byteList 4 s.chip.otp.identity) frame.body
        let s1 := handshake s p frame.port true fun y => { y with keys, session := n, txSeq := 1 }
        let s2 := { s1 with adm := { s1.adm with nextSession := n % (2 ^ 32 - 1) + 1 } }
        ok s (s2.emit (.siteFrame frame.port "FINISH" [n, 0, bytesNat ((Config.sealBody keys 0 frame.body).map (·.toNat))]))

/-- DALOVO_FINISH: the session is up once both FINISH frames have passed their tags (R334). -/
def execDalovoFinish (head : DvHead) (transcriptOk : Bool) (s : State) : Host.Outcome State Fault Refusal :=
  match s.peerOf head.srcId with
  | none => ok s { s with adm := { s.adm with unlisted := s.adm.unlisted + 1 } }
  | some p =>
    let x := s.peer p
    if x.state != .handshake || x.port != head.port || !s.sitePortUp head.port || (x.initiator && (x.session != head.session || x.txSeq = 0)) then
      .next s
    else if head.version != 1 || !head.lengthOk || !head.tagOk then ok s (tagFailed s p (head.version == 1 && head.lengthOk))
    else if head.seq != 0 then .next s
    else if !transcriptOk then ok s (authFailed s p)
    else
      let s1 := s.setPeer p { x with session := head.session, rxSeq := some 0, txSeq := 1 }
      let s2 := if x.initiator then s1 else s1.emit (.siteFrame x.port "FINISH" [head.session, 0])
      ok s (sessionUp s2 p)

/-- DALOVO_HANDSHAKE_TIMEOUT: a step is not answered within 100 ms (R334). -/
def execDalovoHandshakeTimeout (peer : Nat) (s : State) : Host.Outcome State Fault Refusal :=
  let x := s.peer peer
  if x.state == .handshake && decide (x.deadline ≤ s.dt) then ok s (s.setPeer peer { x with state := .seen }) else .next s

/-! ## Closing -/

/-- The session has been up for its lifetime (R336). -/
def State.lifetimeOver (s : State) (p : Nat) : Bool :=
  (s.peer p).state == .up && decide ((s.peer p).upSince + 86400 * secTicks ≤ s.dt)

/-- DALOVO_CLOSE: a CLOSE frame is received, or the session has reached its lifetime (R336). -/
def execDalovoClose (peer reason : Nat) (s : State) : Host.Outcome State Fault Refusal :=
  if (s.peer peer).state == .up then ok s (closeSession s peer reason (reason == 1 && s.lifetimeOver peer)) else .next s

/-- DALOVO_IDLE_TIMEOUT: no frame has arrived from the peer for 3.5 s (R336). -/
def execDalovoIdleTimeout (peer : Nat) (s : State) : Host.Outcome State Fault Refusal :=
  if (s.peer peer).state == .up && decide ((s.peer peer).lastRx + 3500 * msTicks ≤ s.dt) then ok s (closeSession s peer 3 true)
  else .next s

/-- SITE_PORT_LINK_CHANGE: sessions of a port that goes down close (R336); code 0x00A1 (Table 16-3). -/
def execSitePortLinkChange (port : Nat) (up : Bool) (s : State) : Host.Outcome State Fault Refusal :=
  if 2 ≤ port || !s.chip.mainRun || s.sitePortUp port == up then .next s
  else
    let a := { s.adm with announced := s.adm.announced.filter fun x => x.1 != port }
    let s1 := { s with adm := if port = 0 then { a with sp0Up := up } else { a with sp1Up := up } }
    if up then ok s s1
    else
      let ps := (List.range 16).filter fun p => (s.peer p).port == port &&
        ((s.peer p).state == .up || (s.peer p).state == .handshake)
      ok s (State.report (ps.foldl (fun (s : State) p => closeSession s p 0 false) s1) 0x00A1 srcSite port)

/-! ## Verbs and payloads -/

/-- DALOVO_VERB_FRAME (R337). -/
def execDalovoVerbFrame (head : DvHead) (entry : Entry) (s : State) : Host.Outcome State Fault Refusal :=
  match acceptFrame s head with
  | (some p, s1) => ok s (arrive s1 (.peer p) entry)
  | (none, s1) => ok s s1

/-- DALOVO_USER_FRAME: the lowest free receive slot takes it (R341). -/
def execDalovoUserFrame (head : DvHead) (payload : List Byte) (ingressTick : Nat) (s : State) : Host.Outcome State Fault Refusal :=
  match acceptFrame s head with
  | (none, s1) => ok s s1
  | (some p, s1) =>
    if !bit (s1.perm p) 4 then ok s (peerLost s1 p)
    else match (List.range 16).find? fun k => (tabGet s1.adm.rxSlots none k).isNone with
      | none => ok s (peerLost s1 p)
      | some k =>
        let slots := tabSet s1.adm.rxSlots k (some (p, s1.time.nt ingressTick, payload))
        ok s (State.msix { s1 with adm := { s1.adm with rxSlots := slots } } 19)

/-- Slots of DV_RX_STATUS are freed. -/
def freeSlots (s : State) (value : Word32) : State :=
  { s with adm := { s.adm with rxSlots := s.adm.rxSlots.map fun x => if bit value.toNat x.1 then (x.1, none) else x } }

/-- DV_RX_SLOT_FREE (R341). -/
def execDvRxSlotFree (value : Word32) (s : State) : Host.Outcome State Fault Refusal := mainRow s (freeSlots · value)

/-- Timed frames that wait (TRIG_STATUS.DALOVO_PENDING). -/
def State.timedFrames (s : State) : List UserFrame := s.adm.queue.filter fun f => f.timed.isSome

/-- DALOVO_SEND (R340): its own checks, then the payload is read. -/
def execDalovoSend (h : Hdr) (timed ns : Bool) (peer length addr : Nat) (t : NetTime) (late : Nat) (s : State) :
    Host.Outcome State Fault Refusal :=
  let i := Instr.dalovoSend h timed ns peer length addr t late
  verb s h 0x06 i fun s =>
    if (s.peer peer).state != .up then s.fail h 0x06 stBadState
    else if !bit (s.perm peer) 4 then s.fail h 0x06 stBadField
    else if timed && 64 ≤ s.timedFrames.length then s.fail h 0x06 stScheduleFull
    else if timed && !s.time.locked then s.fail h 0x06 stTimeNotLocked
    else hostRead s h i addr length ns

/-- The payload of a DALOVO_SEND has arrived: the frame is encrypted and queued, and the verb completes (R288, R340). -/
def queueFrame (s : State) (h : Hdr) (peer : Nat) (timed : Option (Int × Nat)) (payload : List Byte) : State :=
  let x := s.peer peer
  if x.state != .up then s.fail h 0x06 stBadState
  else
    let f : UserFrame := { peer, src := h.src, tag := h.tag, port := x.port, session := x.session, seq := x.txSeq
                           body := Config.sealBody x.keys x.txSeq payload, timed }
    let s1 := s.setPeer peer { x with txSeq := x.txSeq + 1 }
    State.complete { s1 with adm := { s1.adm with queue := s1.adm.queue ++ [f] } } h 0x06 stSuccess 0

/-- A queued frame leaves. -/
def dropFrame (s : State) (f : UserFrame) : State :=
  { s with adm := { s.adm with queue := s.adm.queue.erase f } }

/-- A queued frame crosses its port's pins. -/
def sendFrame (s : State) (f : UserFrame) : State :=
  (dropFrame s f).emit (.siteFrame f.port "USER" [f.session, f.seq, bytesNat (f.body.map (·.toNat))])

/-- DALOVO_FRAME_SENT: the oldest untimed frame of the port leaves (R340). -/
def execDalovoFrameSent (port : Nat) (s : State) : Host.Outcome State Fault Refusal :=
  match s.adm.queue.find? fun f => f.port == port && f.timed.isNone with
  | some f => if s.sitePortUp port then ok s (frameReport (sendFrame s f) f stSuccess s.now) else .next s
  | none => .next s

/-- The timed frame of a port with the earliest T; those queued earlier first. -/
def State.nextTimed (s : State) (port : Nat) : Option (UserFrame × Int × Nat) :=
  s.adm.queue.foldl (fun (b : Option (UserFrame × Int × Nat)) f =>
    match f.timed with
    | none => b
    | some (t, late) => if f.port != port then b else match b with
      | none => some (f, t, late)
      | some x => if t < x.2.1 then some (f, t, late) else b) none

/-- TIMED_DALOVO_DUE: a timed frame is sent at its tick, or cancelled after LATE_LIMIT (R288). -/
def execTimedDalovoDue (port : Nat) (s : State) : Host.Outcome State Fault Refusal :=
  match s.nextTimed port with
  | none => .next s
  | some (f, t, late) =>
    if s.now < t then .next s
    else if s.now ≤ t + late * ntNs && s.sitePortUp port then ok s (frameReport (sendFrame s f) f stSuccess s.now)
    else if t + late * ntNs < s.now then
      let s1 := dropFrame s f
      ok s (frameReport { s1 with time := { s1.time with dalovoLate := satInc s1.time.dalovoLate 0xFFFF } } f stLateCancelled t)
    else .next s

/-! ## SAFETY frames (R389 to R391) -/

/-- Byte `i` of a SAFETY body of 20 bytes. -/
def safetyByte (b : BitVec 160) (i : Nat) : Nat := bits b.toNat (8 * i) 8

/-- The binding that takes the messages of a far site: the lowest that receives from it. -/
def State.rcOfPeer (s : State) (id : Nat) : Option Nat :=
  (List.range 8).find? fun j => s.lsu.rcReceives j && s.lsu.rcPeer j == id

/-- The unit checks a message and follows its command (R391). -/
def takeSafety (s : State) (b : BitVec 160) : State :=
  let u := s.lsu
  let f := fun (lo len : Nat) => bits b.toNat (8 * lo) (8 * len)
  let crc := crc32c ((List.range 16).map (safetyByte b))
  let cmd := safetyByte b 10
  if f 16 4 ≠ crc.toNat || (cmd ≠ 1 && cmd ≠ 2) then { s with lsu := { u with cntCrc := satInc u.cntCrc 0xFF } }
  else match s.rcOfPeer (f 2 4) with
    | none => { s with lsu := { u with cntIdent := satInc u.cntIdent 0xFF } }
    | some j =>
      let r := s.rc j
      let gap := fun (l : Nat) => (f 0 2 + 65536 - l) % 65536
      if f 6 4 ≠ s.chip.otp.identity then { s with lsu := { u with cntIdent := satInc u.cntIdent 0xFF } }
      else if f 12 2 ≠ u.rcWatchdog j then { s with lsu := { u with cntWd := satInc u.cntWd 0xFF } }
      else if (match r.lastSeq with
          | some l => decide (gap l < 1) || decide (64 < gap l)
          | none => false) then { s with lsu := { u with cntSeq := satInc u.cntSeq 0xFF } }
      else
        let st := if r.state == .expired && !r.primed then .expired else if cmd = 1 then RcState.permit else .shutdown
        s.setRc j { r with state := st, lastSeq := some (f 0 2), lastAt := s.dt, primed := true }

/-- SAFETY_FRAME_RECEIVE (R338, R391). -/
def execSafetyFrameReceive (head : DvHead) (body : BitVec 160) (s : State) : Host.Outcome State Fault Refusal :=
  match acceptFrame s head with
  | (none, s1) => ok s s1
  | (some p, s1) => if bit (s1.perm p) 3 then ok s (takeSafety s1 body) else ok s (peerLost s1 p)

/-- A sending binding sends SHUTDOWN (R390). -/
def State.rcShutdown (s : State) (j : Nat) : Bool :=
  ((List.range 8).any fun i => bit (s.lsu.srcMask j) i && (s.ilk i).state != .ok) || !s.lsu.commissioned || s.lsu.fault
    || s.lsu.safeState

/-- The body of binding `j`'s next message (Table 14-2). -/
def State.safetyBody (s : State) (j seq cmd : Nat) : List Byte :=
  let head := leBytes 2 seq ++ leBytes 4 s.chip.otp.identity ++ leBytes 4 (s.lsu.rcPeer j) ++ [cmd, j]
    ++ leBytes 2 (s.lsu.rcWatchdog j) ++ [0, 0]
  (head ++ leBytes 4 (crc32c head).toNat).map (BitVec.ofNat 8)

/-- SAFETY_FRAME_SEND: a message every floor(WATCHDOG ÷ 4) ms; a change to SHUTDOWN at once and in the next three periods
(R390). -/
def execSafetyFrameSend (binding : Nat) (s : State) : Host.Outcome State Fault Refusal :=
  let r := s.rc binding
  match s.peerOf (s.lsu.rcPeer binding) with
  | none => .next s
  | some p =>
    let down := s.rcShutdown binding
    let change := down && !r.sending
    let due := decide (r.sentAt + s.lsu.rcWatchdog binding / 4 * msTicks ≤ s.dt)
    if 8 ≤ binding || !s.lsu.rcSends binding || !s.chip.mainRun || (s.peer p).state != .up || !(change || due) then .next s
    else
      let shut := down || decide (0 < r.repeats)
      let seq := (r.txSeq + 1) % 65536
      let s1 := s.setRc binding { r with
        txSeq := seq, sending := shut, sentAt := s.dt, repeats := if change then 3 else r.repeats - 1 }
      ok s (sendSealed s1 p "SAFETY" (s.safetyBody binding seq (if shut then 2 else 1)))

/-- BINDING_WATCHDOG_EXPIRE: WATCHDOG ms without an accepted message (R391). -/
def execBindingWatchdogExpire (binding : Nat) (s : State) : Host.Outcome State Fault Refusal :=
  let r := s.rc binding
  if s.lsuRuns && binding < 8 && s.lsu.rcReceives binding && decide (r.lastAt + s.lsu.rcWatchdog binding * msTicks ≤ s.dt) then
    ok s (s.setRc binding { r with state := .expired, primed := false, lastSeq := none })
  else .next s

end Sys2Proof.Machine
end

