-- ==== Sys2Proof/Machine/LoopVerbs.lean ====
section
/-! DEFINITION. The verbs of elements, classes, pins and the journal, and the events of placement (chapters "Routing and
placement", R121 to R131, "Element loops", R172 to R176, "Architecture", R33 and R43, "Faults and recovery", R429). -/

namespace Sys2Proof.Machine

/-! ## Elements (R121, R176) -/

/-- A verb waits for the next sample boundary of an element, with what it asks for there. -/
def waitBoundary (s : State) (h : Hdr) (op e : Nat) (f : Elem → Elem) : State :=
  let s1 := s.modElem e f
  { s1 with loops := { s1.loops with waits := s1.loops.waits ++ [(e, h, op)] } }

/-- RETIRE_ELEMENT (R121): completes when the element is RETIRED. -/
def execRetireElement (h : Hdr) (eid : Nat) (s : State) : Host.Outcome State Fault Refusal :=
  verb s h 0x22 (.retireElement h eid) fun s =>
    if !s.img.placedEid eid then s.fail h 0x22 stBadField
    else if (s.elem eid).st == .retired then s.complete h 0x22 stSuccess 0
    else waitBoundary s h 0x22 eid fun x => { x with events := x.events ++ [.retire] }

/-- RESTORE_ELEMENT (R56, R121). -/
def execRestoreElement (h : Hdr) (eid : Nat) (s : State) : Host.Outcome State Fault Refusal :=
  verb s h 0x23 (.restoreElement h eid) fun s =>
    if !s.img.placedEid eid then s.fail h 0x23 stBadField
    else waitBoundary s h 0x23 eid fun x => { x with events := x.events ++ [.restore] }

/-- ELEMENT_TRIM (R176): the trims take effect at the next sample boundary, and the verb completes after it. -/
def execElementTrim (h : Hdr) (resetOuter : Bool) (eid : Nat) (trimOn trimOff : Int) (s : State) :
    Host.Outcome State Fault Refusal :=
  verb s h 0x2A (.elementTrim h resetOuter eid trimOn trimOff) fun s =>
    if !s.img.placedEid eid then s.fail h 0x2A stBadField
    else waitBoundary s h 0x2A eid fun x =>
      { x with newTrims := some (trimOn, trimOff, resetOuter || x.newTrims.any (·.2.2)) }

/-! ## Classes (R149 to R152, R176) -/

/-- CLASS_LOAD (R176): the record is read from the host and checked when it arrives. -/
def execClassLoad (h : Hdr) (cls bank addr : Nat) (s : State) : Host.Outcome State Fault Refusal :=
  let i := Instr.classLoad h cls bank addr
  verb s h 0x28 i fun s =>
    let c := s.cls cls
    if c.activeB == (bank == 1) || c.swapPending then s.fail h 0x28 stBadState else hostRead s h i addr 128 false

/-- HOLD costs of a class with bank `b` in it (R152): those of its active bank and of the bank that is being loaded. -/
def ClassState.most (c : ClassState) (b : Bank) (lit : Bool) : Nat :=
  let cost := fun (k : Bank) => lawCost k (if lit then k.lawLit else k.lawDark)
  max (cost (c.bank c.activeB)) (cost b)

/-- Every loop block still meets R152 with bank `b` loaded into class `cls`. -/
def State.loadFits (s : State) (cls : Nat) (b : Bank) : Bool :=
  let cost := fun (lit : Bool) (r : ClassRec) =>
    let c := s.cls r.cls
    if r.cls = cls then c.most b lit else c.most (c.bank c.activeB) lit
  (List.range 16).all fun n => loopDemandOk s.img (cost false) (cost true) n s.comma.loopShare.hold

/-- The record of a CLASS_LOAD has arrived (R176). -/
def loadBank (s : State) (h : Hdr) (cls bank : Nat) (b : Bank) : State :=
  let c := s.cls cls
  if c.activeB == (bank == 1) || c.swapPending then s.fail h 0x28 stBadState
  else if !bankOk b || !s.loadFits cls b then s.fail h 0x28 stBadField
  else (s.setCls cls (if bank = 1 then { c with bankB := b } else { c with bankA := b })).complete h 0x28 stSuccess 0

/-- CLASS_SWAP (R150): the swap waits for the comma boundary; the verb completes when SWAP_PENDING clears. -/
def execClassSwap (h : Hdr) (cls : Nat) (s : State) : Host.Outcome State Fault Refusal :=
  verb s h 0x29 (.classSwap h cls) fun s =>
    let c := s.cls cls
    if c.swapPending then s.fail h 0x29 stBadState
    else s.setCls cls { c with swapPending := true, swapDue := true, swapper := some h }

/-! ## Pins (R128, R131) -/

/-- Elements of SCOPE 0. -/
def pinRange (first count : Nat) : List Nat := (List.range count).map (first + ·)

/-- Elements of SCOPE 1: those of the sentence's EXPLICIT and ROUTED clauses, and their row neighbours. -/
def State.pinnedOf (s : State) (hd : Nat) : List Nat :=
  let es := (s.sent hd).clauses.flatMap fun r =>
    let c := clauseOf r
    if c.brk || c.path = 0 then [] else c.eids s.img.stages
  dedup ((es ++ es.flatMap s.img.neighbours).filter s.img.placedEid)

/-- HOST pins until device time `t`; the later expiry is kept. -/
def hostPins (s : State) (es : List Nat) (t : Nat) : State :=
  es.foldl (fun (s : State) e => s.modElem e fun x => { x with hostPin := some (max t (x.hostPin.getD 0)) }) s

/-- Contexts with a HOST pin. -/
def State.hostPinned (s : State) : List Nat := (s.loops.elems.filter fun p => p.2.hostPin.isSome).map (·.1)

/-- PIN (R128, R131). -/
def execPin (h : Hdr) (scope : Bool) (first count lifetimeMs : Nat) (s : State) : Host.Outcome State Fault Refusal :=
  verb s h 0x20 (.pin h scope first count lifetimeMs) fun s =>
    let t := s.dt + lifetimeMs * msTicks
    if scope then
      let x := s.sent first
      let es := s.pinnedOf first
      if x.state == .free then s.fail h 0x20 stBadField
      else if !s.pinsFit es then s.fail h 0x20 stStoreFull
      else ((hostPins s es t).setSent first { x with pinExpiry := some (max t (x.pinExpiry.getD 0)) }).complete h 0x20 stSuccess 0
    else
      let es := pinRange first count
      let total := (s.hostPinned.filter fun e => !es.contains e).length + es.length
      if !es.all s.img.placedEid then s.fail h 0x20 stBadField
      else if 16384 < total || !s.pinsFit es then s.fail h 0x20 stStoreFull
      else (hostPins s es t).complete h 0x20 stSuccess 0

/-- UNPIN (R131): the HOST reason is gone at once. -/
def execUnpin (h : Hdr) (scope : Bool) (first count : Nat) (s : State) : Host.Outcome State Fault Refusal :=
  verb s h 0x21 (.unpin h scope first count) fun s =>
    let drop := fun (s : State) (es : List Nat) =>
      es.foldl (fun (s : State) e => s.modElem e fun x => { x with hostPin := none }) s
    if scope then
      let s1 := drop s (s.pinnedOf first)
      (s1.modSent first fun x => { x with pinExpiry := none }).complete h 0x21 stSuccess 0
    else if !(pinRange first count).all s.img.placedEid then s.fail h 0x21 stBadField
    else (drop s (pinRange first count)).complete h 0x21 stSuccess 0

/-- PIN_EXPIRE (Table 4-4): a HOST or an OVERRUN pin has reached its time. -/
def execPinExpire (eid : Nat) (host : Bool) (s : State) : Host.Outcome State Fault Refusal :=
  let x := s.elem eid
  let isOver := fun (p : Option Nat) => p.any (· ≤ s.dt)
  if host then
    let sents := s.store.sentences.map fun p => if isOver p.2.pinExpiry then (p.1, { p.2 with pinExpiry := none }) else p
    if isOver x.hostPin then
      ok s (State.setElem { s with store := { s.store with sentences := sents } } eid { x with hostPin := none })
    else .next s
  else if isOver x.overrunPin then ok s (s.setElem eid { x with overrunPin := none })
  else .next s

/-! ## Moves and rebuilding (R125, R126, R129, R429) -/

/-- The tier-1 place that is free, if any. -/
def State.tier1Place (s : State) : Option (Nat × Nat) :=
  if s.tier1Count < s.img.placeBanks * 8192 then some (1, s.tier1Count / 8192) else none

/-- The unpinned tier-1 element with the oldest switch. -/
def State.oldest1 (s : State) : Option Nat :=
  (s.loops.elems.filter fun p => p.2.tier = 1 && s.pins p.1 = 0).foldl (fun (best : Option Nat) p =>
    match best with
    | none => some p.1
    | some b => if p.2.lastSwitch < (s.elem b).lastSwitch then some p.1 else best) none

/-- Where the engine moves an element's context to, if it does (R124, R125, R129). -/
def State.moveTo (s : State) (e : Nat) : Option (Nat × Nat) :=
  let x := s.elem e
  let n := tileRegion (eidTile e)
  let room := decide ((s.tier0 n).length < 8192)
  let newer_ := fun (v : Nat) => decide ((s.elem v).lastSwitch < x.lastSwitch)
  if (s.region n).cacheBlk then (if x.tier = 1 then none else s.tier1Place)
  else if s.pins e ≠ 0 then
    if x.tier = 0 then none
    else if room || (s.victim n).isSome then some (0, 0)
    else if x.tier = 2 then s.tier1Place
    else none
  else if x.tier = 0 then
    if !room && s.victim n == some e then some (s.tier1Place.getD (2, 0)) else none
  else if room || (s.victim n).any newer_ then some (0, 0)
  else if x.tier = 2 then s.tier1Place
  else if s.tier1Place.isNone && s.oldest1 == some e &&
      s.loops.elems.any (fun p => p.2.tier = 2 && decide (x.lastSwitch < p.2.lastSwitch)) then some (2, 0)
  else none

/-- PLACEMENT_MOVE (R125, R126): the context of an element has been copied to where the engine wants it; it is taken into
use at the next sample boundary. An update that wrote the old copy meanwhile makes the copy be made again. None moves
while P2 and P3 are suspended (R474). -/
def execPlacementMove (eid : Nat) (writtenDuringCopy : Bool) (s : State) : Host.Outcome State Fault Refusal :=
  if writtenDuringCopy || s.loops.throttled || !s.img.placedEid eid then .next s
  else match s.moveTo eid with
    | none => .next s
    | some t => ok s (s.modElem eid fun x => { x with moving := some t })

/-- CONTEXT_REBUILD (R429). -/
def execContextRebuild (eid : Nat) (s : State) : Host.Outcome State Fault Refusal :=
  let x := s.elem eid
  if !x.rebuilding then .next s
  else
    let k := s.connOfElem eid
    let held := (s.tile (eidTile eid)).heldCode (eid % 1024)
    let y := { x with
      rebuilding := false, trimOn := 0, trimOff := 0, outerTrim := 0, outerSat := false, stepping := false, hist := []
      handoverDue := true, drive := held }
    let z := if x.st == .uncal || x.st == .retired then y
      else { y with on := k.isSome, lit := k.any fun c => (clauseOf c.2.clause).lit }
    ok s ((s.setElem eid z).report 0x0045 srcPlace eid)

/-! ## The journal (R172 to R174, R176) -/

/-- The ring slot of a millisecond. -/
def State.journalSlot (s : State) (ms : Nat) : Nat := ms % max 1 s.img.journalSlots

/-- A formed frame leaves the list of those that wait. -/
def Journal.unwait (j : Journal) (ms tile : Nat) : Journal :=
  { j with waiting := j.waiting.filter fun w => !(w.1 == ms && w.2.1 == tile) }

/-- A frame is dropped and counted. -/
def Journal.lose (j : Journal) : Journal := { j with lost := (j.lost + 1) % 2 ^ 32 }

/-- JOURNAL_FRAME_WRITE (R173, R174): a formed frame is written to its slot; frozen slots are skipped. -/
def execJournalFrameWrite (ms tile : Nat) (s : State) : Host.Outcome State Fault Refusal :=
  let j := s.loops.journal
  match j.waiting.find? fun w => w.1 == ms && w.2.1 == tile with
  | none => .next s
  | some (_, _, samples) =>
    let j1 := j.unwait ms tile
    let slot := s.journalSlot ms
    let j2 := if s.loops.throttled || inRanges j.frozen slot then j1.lose
      else { j1 with frames := tabSet (j1.frames.filter fun f =>
        !(f.1 % 256 == tile && s.journalSlot (f.1 / 256) == slot)) (256 * ms + tile) samples }
    ok s { s with loops := { s.loops with journal := j2 } }

/-- JOURNAL_FRAME_EXPIRE (R173): not written 1,000 commas after its millisecond ended. -/
def execJournalFrameExpire (ms tile : Nat) (s : State) : Host.Outcome State Fault Refusal :=
  let j := s.loops.journal
  if (j.waiting.any fun w => w.1 == ms && w.2.1 == tile) && decide (((ms + 1) * 1000 + 1000) * usTicks ≤ s.dt) then
    ok s { s with loops := { s.loops with journal := (j.unwait ms tile).lose } }
  else .next s

/-- A sample as its 16 bits (R172). -/
def sampleBits : Option Int → Nat
  | some v => unsign v 16
  | none => 0x8000

/-- One entry of JOURNAL_COPY, 2,112 bytes (R176). -/
def State.journalEntry (s : State) (tile ms : Nat) : Nat :=
  let j := s.loops.journal
  let frozen := decide (0 < s.img.journalSlots) && inRanges j.frozen (s.journalSlot ms)
  match tabGet (j.frames.map fun f => (f.1, some f.2)) none (256 * ms + tile) with
  | some l => ms + 2 ^ 64 * (1 + 2 * b2n frozen) + 2 ^ 512 * (l.foldr (fun v n => sampleBits v + 2 ^ 16 * n) 0)
  | none => ms + 2 ^ 64 * (2 * b2n frozen)

/-- Ranges with one slot taken out. -/
def cutRange (k : Nat) (l : List (Nat × Nat)) : List (Nat × Nat) :=
  l.flatMap fun p => if p.1 ≤ k && k < p.2 then [(p.1, k), (k + 1, p.2)].filter (fun q => q.1 < q.2) else [p]

/-- JOURNAL_COPY (R176). -/
def execJournalCopy (h : Hdr) (release : Bool) (tile startMs count addr : Nat) (s : State) :
    Host.Outcome State Fault Refusal :=
  verb s h 0x2B (.journalCopy h release tile startMs count addr) fun s =>
    if !s.img.placed tile then s.fail h 0x2B stBadField
    else if !s.canMaster then s.fail h 0x2B stHostWriteError
    else
      let value := (List.range count).foldr (fun k n => s.journalEntry tile (startMs + k) + 2 ^ 16896 * n) 0
      let s1 := s.emit (.hostWrite addr (2112 * count) value)
      let j := s1.loops.journal
      let cut := if release then (List.range count).foldl (fun l k => cutRange (s.journalSlot (startMs + k)) l) j.frozen else j.frozen
      State.complete { s1 with loops := { s1.loops with journal := { j with frozen := cut } } } h 0x2B stSuccess 0

/-! ## Comma shares (R33, R43) -/

/-- A written P1 and P2 share, limited (R9, R43); whether a value was out of range. -/
def limitShares (x : Shares) (value : Word32) : Shares × Bool :=
  let p1 := bits value.toNat 16 8
  let p2 := bits value.toNat 24 8
  let q1 := min p1 (256 - x.hold - x.p0)
  let q2 := min p2 (256 - x.hold - x.p0 - q1)
  ({ x with p1 := q1, p2 := q2 }, q1 != p1 || q2 != p2)

/-- A write of COMMA_LINK_SHARE: the later of two writes in a comma stays. -/
def writeLinkShare (s : State) (value : Word32) : State :=
  let (x, bad) := limitShares s.comma.linkShare value
  { s with comma := { s.comma with pendingLink := some x, shareErr := s.comma.shareErr || bad } }

/-- A write of COMMA_LOOP_SHARE. -/
def writeLoopShare (s : State) (value : Word32) : State :=
  let (x, bad) := limitShares s.comma.loopShare value
  { s with comma := { s.comma with pendingLoop := some x, shareErr := s.comma.shareErr || bad } }

/-- COMMA_LINK_SHARE_WRITE (R33). -/
def execCommaLinkShareWrite (value : Word32) (s : State) : Host.Outcome State Fault Refusal := mainRow s (writeLinkShare · value)

/-- COMMA_LOOP_SHARE_WRITE (R33). -/
def execCommaLoopShareWrite (value : Word32) (s : State) : Host.Outcome State Fault Refusal := mainRow s (writeLoopShare · value)

/-! ## Schedule mismatch (R258) -/

/-- SCHEDULE_MISMATCH_RECEIVE (R258): code 0x0032, the updates of the frame are overruns, the mirror is sent again. -/
def execScheduleMismatchReceive (tile : Nat) (s : State) : Host.Outcome State Fault Refusal :=
  let s1 := s.report 0x0032 (srcTile tile) tile
  let mine := s1.placedElems.filter fun e => eidTile e == tile
  let k := (mine.map fun e => (s1.elem e).lastServed).foldl max 0
  let hit := mine.filter fun e => (s1.elem e).law != .none && (s1.elem e).lastServed == k && decide (s1.commaNo ≤ k + 1)
  let s2 := hit.foldl (fun (s : State) e => overrun s e ovDiscard) s1
  ok s (if s2.working && (s2.link tile).up then sendMirrorOf s2 tile [] else s2)

end Sys2Proof.Machine
end

