-- ==== Sys2Proof/Machine/Regions.lean ====
section
/-! DEFINITION. Failing cells, fenced cells, blocks and regions, handshake watchdogs, RESUME_REGION (chapters
"Architecture", R12 to R28 and R44, "Faults and recovery", R429 and R442). -/

namespace Sys2Proof.Machine

/-- Block codes as DETAIL1 of code 0x0020 and DETAIL0 of codes 0x0012 and 0x0021 give them. -/
def blockCode : Block → Nat
  | .link => 0
  | .loop => 1
  | .cache => 2
  | .smu => 3

/-- The fenced cells of a block. -/
def Region.fencedCells (r : Region) : Block → List Nat
  | .link => r.linkFenced
  | .loop => r.loopFenced
  | .cache => []
  | .smu => r.smuFenced

/-- The block is fenced. -/
def Region.blockFenced (r : Region) : Block → Bool
  | .link => r.linkBlk
  | .loop => r.loopBlk
  | .cache => r.cacheBlk
  | .smu => r.smuBlk

/-- Cell `k` of block `b` is fenced. -/
def Region.addFenced (r : Region) (b : Block) (k : Nat) : Region :=
  match b with
  | .link => { r with linkFenced := r.linkFenced ++ [k] }
  | .loop => { r with loopFenced := r.loopFenced ++ [k] }
  | .cache => r
  | .smu => { r with smuFenced := r.smuFenced ++ [k] }

/-- Block `b` is fenced. -/
def Region.setBlock (r : Region) (b : Block) : Region :=
  match b with
  | .link => { r with linkBlk := true }
  | .loop => { r with loopBlk := true }
  | .cache => { r with cacheBlk := true }
  | .smu => { r with smuBlk := true }

/-- The region cannot meet its HOLD budget: the chip fences it (R21, R22). -/
def escalate (s : State) (n : Nat) : State := fenceRegion (s.report 0x0022 (srcRegion n)) n

/-- The row groups of a fenced loop cell go to the cells with the lowest loads (R134). -/
def reassignCell (s : State) (n k : Nat) : State :=
  let keys := (List.range 512).filter fun key => s.img.placed (16 * n + key / 32) &&
    tabGet (s.region n).rowCell (some (key / 32)) key == some k
  keys.foldl (fun (s : State) key =>
    match (s.region n).coolest k with
    | some j => moveGroup s n key j
    | none => s) s

/-- The runs of a fenced sequencer move to another; a point in progress is repeated in full (R16). -/
def moveRuns (s : State) (n k : Nat) : State :=
  (s.allRuns.filter fun x => tileRegion x.2.tile == n && x.2.seqr == some k && x.2.ended.isNone).foldl
    (fun (s : State) x => s.setAnyRun x.1 { x.2 with
      seqr := none, active := false, readySince := s.dt, words := [], compliance := false, compSampling := false
      aborted := false, blocked := false }) s

/-- The contexts of a region whose context cache is fenced leave tier 0 (R129). -/
def emptyCache (s : State) (n : Nat) : State := ((s.tier0 n).map (·.1)).foldl demote s

/-- A region fences a block (R18). -/
def fenceBlock (s : State) (n : Nat) (b : Block) : State :=
  if (s.region n).blockFenced b || (s.region n).fenced then s
  else
    let s1 := (s.report 0x0021 (srcRegion n) (blockCode b)).modRegion n fun r => r.setBlock b
    match b with
    | .link => escalate s1 n
    | .loop => escalate s1 n
    | .cache => staleByElem (emptyCache s1 n) fun e => tileRegion (eidTile e) == n
    | .smu => endRuns s1 (fun r => tileRegion r.tile == n) endLost

/-- A block fences a cell (R14 to R17); above four the region fences the block. -/
def fenceCell (s : State) (n : Nat) (b : Block) (k : Nat) : State :=
  let s1 := (s.report 0x0020 (srcRegion n) k (blockCode b)).modRegion n fun r => r.addFenced b k
  let s2 := match b with
    | .link => if (s1.link (16 * n + k)).state == .down then s1 else linkDown s1 (16 * n + k)
    | .loop => reassignCell s1 n k
    | .cache => s1
    | .smu => moveRuns s1 n k
  if 4 < ((s2.region n).fencedCells b).length then fenceBlock s2 n b else s2

/-- What a dropped operation does beside its count: an element's update is an overrun (R13), a context is to be rebuilt
(R429). -/
def dropOperation (s : State) (b : Block) (eid : Option Nat) : State :=
  match b, eid with
  | .loop, some e => if s.img.placedEid e then overrun s e ovCell else s
  | .cache, some e => if s.img.placedEid e then s.modElem e fun x => { x with rebuilding := true } else s
  | _, _ => s

/-- CELL_OPERATION_ERROR (R13, R14): the retry has failed too; the second failure of a cell within 1,024 commas fences
it. The context cache has no cells that are fenced singly. -/
def execCellOperationError (region : Nat) (block : Block) (cell : Nat) (eid : Option Nat) (s : State) :
    Host.Outcome State Fault Refusal :=
  let r := s.region region
  if !s.chip.mainRun || 16 ≤ region || 16 ≤ cell || r.fenced || (r.fencedCells block).contains cell || r.blockFenced block then
    .next s
  else
    let s1 := dropOperation s block eid
    if block == .cache then ok s s1
    else
      let c := s.commaNo
      let again := r.failures.any fun f => f.1 == block && f.2.1 == cell && decide (c < f.2.2 + 1024)
      let s2 := s1.modRegion region fun r => { r with
        failures := (block, cell, c) :: r.failures.filter fun f => decide (c < f.2.2 + 1024) }
      ok s (if again then fenceCell s2 region block cell else s2)

/-- HANDSHAKE_WATCHDOG (R28). -/
def execHandshakeWatchdog (channel : Channel) (s : State) : Host.Outcome State Fault Refusal :=
  match channel with
  | .regionCentral n =>
    if !s.chip.mainRun || 16 ≤ n then .next s else ok s (fenceRegion (s.report 0x0011 (srcRegion n)) n)
  | .centralAon => ok s (s.report 0x0010 srcAon)
  | .regionBlock n b =>
    if !s.chip.mainRun || 16 ≤ n then .next s else ok s (fenceBlock (s.report 0x0012 (srcRegion n) (blockCode b)) n b)

/-- REGION_ESCALATE (R21): 16 consecutive short commas. -/
def execRegionEscalate (region : Nat) (s : State) : Host.Outcome State Fault Refusal :=
  if 16 ≤ (s.region region).shortRun && !(s.region region).fenced then ok s (escalate s region) else .next s

/-! ## RESUME_REGION (R44, R132, R442) -/

/-- Something of region `n` is fenced. -/
def State.anyFence (s : State) (n : Nat) : Bool :=
  let r := s.region n
  r.fenced || r.linkBlk || r.loopBlk || r.cacheBlk || r.smuBlk || !r.linkFenced.isEmpty || !r.loopFenced.isEmpty ||
    !r.smuFenced.isEmpty || s.faults.tileFences.any fun t => tileRegion t == n

/-- The cell and block fences of a region end, its short-comma counts and row-group map start afresh (R44, R132). -/
def Region.clearFences (r : Region) : Region :=
  { r with
    linkFenced := [], loopFenced := [], smuFenced := [], linkBlk := false, loopBlk := false, cacheBlk := false
    smuBlk := false, failures := [], shortCount := 0, shortRun := 0, holdShort := false, unserved := false
    rowCell := [], hotCell := none, rebalance := false, cellUsed := [], resuming := r.fenced }

/-- The tiles are adopted afresh (R264): a tile whose link is up is claimed, identified and read again. -/
def adoptAgain (s : State) (ts : List Nat) : State :=
  let s1 := { s with faults := { s.faults with tileFences := s.faults.tileFences.filter fun t => !ts.contains t } }
  (ts.filter fun t => (s.link t).up).foldl (fun (s : State) t =>
    sendClaim (s.modLink t fun l => { l with tile := .adopting, corrections := [] }) t) s1

/-- RESUME_REGION (R442). The handshake test of a region has an outcome that no command carries: a free value. -/
def execResumeRegion (h : Hdr) (isTile : Bool) (target : Nat) (s : State) : Host.Outcome State Fault Refusal :=
  verb s h 0x01 (.resumeRegion h isTile target) fun s =>
    let enter := fun (s : State) (ts : List Nat) =>
      { s with faults := { s.faults with resumes := s.faults.resumes ++ [{ hdr := h, tiles := ts }] } }
    if isTile then
      if !s.faults.tileFences.contains target then s.fail h 0x01 stBadState
      else enter (adoptAgain s [target]) [target]
    else if !s.anyFence target then s.fail h 0x01 stBadState
    else
      let (v, s1) := s.draw
      if v % 2 = 1 then
        let f : Report := { code := 0x0011, source := srcRegion target }
        (recordOne s1 false false false f).fail h 0x01 stRefused
      else
        let ts := dedup (regionTiles s1.img target)
        enter (adoptAgain (s1.modRegion target Region.clearFences) ts) ts

end Sys2Proof.Machine
end

