-- ==== Sys2Proof/Machine/FaultCollector.lean ====
section
/-! DEFINITION. The rows of the fault collector: reports and reactions, the safe state, clearing, injection, the self-test
(chapter "Faults and recovery"). -/

namespace Sys2Proof.Machine

/-! ## Reports (R421 to R428, R433) -/

/-- The island records a fault of the collector itself and takes the safe state at once (R433). -/
def collectorFault (s : State) (inj : Bool) : State :=
  let s1 := recordAon s { code := 0x0001, source := 0 } 3 false
  let m := fun f : FaultRec => if f.code = 1 then { f with injected := f.injected || inj } else f
  enterSafeState { s1 with faults := { s1.faults with
    aonCopy := s1.faults.aonCopy.map m, aonPending := s1.faults.aonPending.map m } } 0xFFFFFFFF

/-- The block that DETAIL0 of code 0x0012 names. -/
def blockOf (n : Nat) : Option Block :=
  match n with
  | 0 => some .link
  | 1 => some .loop
  | 2 => some .cache
  | 3 => some .smu
  | _ => none

/-- The fence that a report's code asks for (Table 16-3, R426). -/
def reactTo (s : State) (r : Report) : State :=
  if r.code = 0x0011 || r.code = 0x0022 then
    (if 16 ≤ r.source && r.source < 32 then fenceRegion s (r.source - 16) else s)
  else if r.code = 0x0031 then (if 32 ≤ r.source && r.source < 288 then fenceTile s (r.source - 32) else s)
  else if r.code = 0x0012 && 16 ≤ r.source && r.source < 32 then
    (match blockOf r.detail0 with
     | some b => fenceBlock s (r.source - 16) b
     | none => s)
  else s

/-- FAULT_REPORT: the reports of one cycle are recorded in the order of R423, then the fences are made (R426). -/
def execFaultReport (reports : List Report) (s : State) : Host.Outcome State Fault Refusal :=
  if s.chip.por then .next s
  else
    let live := reports.filter fun r => !s.fencedSource r
    let own := live.filter fun r => r.code != 1
    let s1 := recordReports s own
    let s2 := if own.length < live.length then collectorFault s1 false else s1
    ok s (if s.chip.mainRun then (sortReports own).foldl reactTo s2 else s2)

/-- COLLECTOR_SELF_FAULT (R433). -/
def execCollectorSelfFault (s : State) : Host.Outcome State Fault Refusal :=
  if s.chip.mainRun then ok s (collectorFault s false) else .next s

/-- CENTRAL_ENGINE_ERROR: code 0x0053 from a central engine, 0x0052 from a DDR channel (R428). -/
def execCentralEngineError (ddr : Bool) (source : Nat) (s : State) : Host.Outcome State Fault Refusal :=
  if s.chip.mainRun then ok s (s.report (if ddr then 0x0052 else 0x0053) source) else .next s

/-- MGMT_WATCHDOG: the management sequencer is restarted: its bank is initialised, Dalovo sessions close, PTP measurements
stop and the time unit runs in HOLDOVER (R428). -/
def execMgmtWatchdog (s : State) : Host.Outcome State Fault Refusal :=
  if !s.chip.mainRun then .next s
  else
    let s1 := abortBurst (s.report 0x0054 srcMgmt) 18 0
    let s2 := ((List.range 32).filter fun b => (s1.bank b).owner = ownMgmt && (s1.bank b).awake).foldl (fun (s : State) b =>
      s.setBank b { s.bank b with initEnd := some (s.dt + 204800) }) s1
    let s3 := (List.range 16).foldl (fun (s : State) p =>
      if (s.peer p).state == .up then closeSession s p 0 false
      else s.setPeer p { s.peer p with state := .absent }) s2
    let u := s3.time
    let ptp : Ptp := { discarded := u.ptp.discarded, gated := u.ptp.gated }
    ok s { s3 with time := { u with ptp, state := if u.state == .locked then .holdover else u.state } }

/-! ## Tokens at the safe state (R432) -/

/-- SAFE_STATE_TOKEN_RESOLVE: 20 µs after the launch time, tiles that have not reported count as not latched; a reversal
that was still to be issued is replaced by the advance of the tiles' expected epochs (R432). -/
def execSafeStateTokenResolve (serial : Serial) (s : State) : Host.Outcome State Fault Refusal :=
  match s.store.launches.find? fun l => l.serial = serial with
  | none => .next s
  | some l =>
    if !s.faults.safeState || s.dt < l.tick + 20 * usTicks then .next s
    else if l.settled then
      (if l.reversal.isNone then
        ok s (completeLaunch ((tilesOf (l.revActs.map (·.eid))).foldl bumpEpoch s) l)
       else .next s)
    else
      let ts := (l.tiles.filter fun x => x.2.2 = .waiting).map (·.1)
      ok s (checkSettle (ts.foldl (fun (s : State) t =>
        setTileResult (freeLaunchSlot s serial t) serial t .safeState) s) serial)

/-! ## Clearing (R435, R436) -/

/-- SEQ `q` lies at or before `v`, as far as a 32-bit number that wraps can say. -/
def seqUpTo (v : Nat) (q : Option Nat) : Bool :=
  match q with
  | some n => decide ((v + 2 ^ 32 - n) % 2 ^ 32 < 2 ^ 31)
  | none => false

/-- FAULT_CLEAR (R435): every record up to SEQ `v` is CLEARED; what the log no longer holds is uncounted too. -/
def faultClear (s : State) (v : Nat) : State :=
  let u := s.faults
  let mark := fun f : FaultRec => if seqUpTo v f.seq then { f with cleared := true } else f
  let fresh := (u.log ++ u.spill).filter fun f => !f.cleared && seqUpTo v f.seq
  let gone := u.lostUnclear.filter fun x => x.1.isNone || seqUpTo v x.1
  let u1 := ((fresh.map (·.severity)) ++ gone.map (·.2)).foldl uncountCleared u
  { s with faults := { u1 with
    log := u.log.map mark, spill := u.spill.map mark, aonCopy := u.aonCopy.map mark
    lostUnclear := u.lostUnclear.filter fun x => !(x.1.isNone || seqUpTo v x.1) } }

/-- FAULT_CLEAR (R435). -/
def execFaultClear (value : Word32) (s : State) : Host.Outcome State Fault Refusal :=
  mainRow s (faultClear · value.toNat)

/-- A write of 1 to FIRST_VALID (R436). -/
def firstClear (s : State) : State := { s with faults := { s.faults with firstValid := false } }

/-- FAULT_FIRST_CLEAR (R436). -/
def execFaultFirstClear (s : State) : Host.Outcome State Fault Refusal :=
  mainRow s firstClear

/-! ## Injection (R439, Table 16-5) -/

/-- Highest UNIT of a target. -/
def unitTop (target : Nat) : Nat :=
  match target with
  | 0 => 31
  | 1 => 1
  | 2 => 15
  | 3 => 255
  | 4 => 15
  | 5 => 0
  | 6 => 31
  | _ => 3

/-- Source of the checker of a target's unit (Table 16-1). -/
def checkerSource (target unit : Nat) : Nat :=
  match target with
  | 0 => srcMatrix
  | 1 => 10 + unit
  | 2 => srcPlace
  | 3 => srcTile unit
  | 4 => srcRegion unit
  | 5 => srcAon
  | 6 => unit
  | _ => srcLsu

/-- Code of the detection by a target's unit; none where Table 16-3 has no code for it. -/
def checkerCode (target unit : Nat) : Option Nat :=
  match target with
  | 0 => some 0x0050
  | 1 => some 0x0051
  | 2 => some 0x0045
  | 3 => none
  | 4 => some 0x0011
  | 5 => some 0x0010
  | 6 => some (if unit = 0 then 0x0001 else 0x0053)
  | _ => some 0x0072

/-- A CHECK injection on one unit: detection is recorded at S0 with INJECTED = 1, and no reaction follows. Where no code is
given the code is a free value. -/
def injectCheck (s : State) (target unit : Nat) : State :=
  let put := fun (s : State) (c : Nat) =>
    recordOne s false true true { code := c, source := checkerSource target unit, detail0 := unit }
  match checkerCode target unit with
  | some c => put s c
  | none =>
    let (v, s1) := s.draw
    put s1 (v % 2 ^ 16)

/-- FAULT_INJ_ADDR as one address. -/
def Faults.injAddr (u : Faults) : Nat := u.injAddr0.toNat + 2 ^ 32 * u.injAddr1.toNat

/-- The tier-0 elements of a region. -/
def State.cached (s : State) (n : Nat) : List Nat := (s.tier0 n).map (·.1)

/-- A REACT injection: the inverted bits enter the live path (R439). -/
def injectReact (s : State) (target unit : Nat) (double : Bool) : State :=
  let wait := fun (u : Nat) =>
    { s with mem := { s.mem with poisonNext := some (u, double) }
             faults := { s.faults with injBusy := some { target, unit, double, react := true } } }
  let rec_ := fun (s : State) (code source : Nat) => recordOne s false true false { code, source, detail0 := unit }
  match target with
  | 0 => wait (s.faults.injAddr / 8)
  | 1 => wait (2 ^ 22 + 2 * (s.faults.injAddr / 64) + unit)
  | 2 =>
    let es := s.cached unit
    if double && !es.isEmpty then
      let (v, s1) := s.draw
      s1.modElem (es.getD (v % es.length) 0) fun e => { e with rebuilding := true }
    else s
  | 3 =>
    if (s.link unit).up then
      sendNak (s.modLink unit fun l => { l with crcErr := satInc l.crcErr 0xFFFF }) (.controller unit) false
    else s
  | 4 => fenceRegion (rec_ s 0x0011 (srcRegion unit)) unit
  | 5 => rec_ s 0x0010 srcAon
  | 6 => if unit = 0 then collectorFault s true else s
  | _ =>
    let l := s.len unit
    let s1 := if l.cause.code < LenCause.stuckOn.code then
        lenOff (s.setLen unit { l with cause := .stuckOn, agreeSince := some s.dt }) unit
      else s
    rec_ s1 0x0072 srcLsu

/-- FAULT_INJECT with GO = 1: the fields are taken, and the injection starts unless R439 has it ignored. -/
def inject (s : State) (target unit : Nat) (double isReact viaSideband : Bool) : State :=
  let t := target % 8
  let u := min unit (unitTop t)
  let f := { s.faults with injTarget := t, injUnit := u, injDouble := double, injReact := isReact
                           injErr := s.faults.injErr || decide (unitTop t < unit) }
  let s1 := { s with faults := f }
  if s.faults.injBusy.isSome || (t = 7 && (!viaSideband || (s.len u).on)) then
    { s1 with faults := { f with injErr := true } }
  else if isReact then injectReact s1 t u double
  else injectCheck s1 t u

/-- FAULT_INJECT_CHECK (R439). -/
def execFaultInjectCheck (target unit : Nat) (double viaSideband : Bool) (s : State) : Host.Outcome State Fault Refusal :=
  mainRow s (inject · target unit double false viaSideband)

/-- FAULT_INJECT_REACT (R439). -/
def execFaultInjectReact (target unit : Nat) (double viaSideband : Bool) (s : State) : Host.Outcome State Fault Refusal :=
  mainRow s (inject · target unit double true viaSideband)

/-! ## The self-test (R440) -/

/-- Units of a target that SELF_TEST injects: those that are not fenced. Frames arrive only on links that are up, and an
output takes part only while it is de-energised (R439). -/
def State.testUnits (s : State) (target : Nat) : List Nat :=
  (List.range (unitTop target + 1)).filter fun u =>
    match target with
    | 2 => !(s.region u).fenced && !(s.region u).cacheBlk
    | 3 => (s.link u).up && !s.faults.tileFences.contains u && !(s.region (tileRegion u)).fenced
    | 4 => !(s.region u).fenced
    | 6 => decide (u < 16) || !(s.region (u - 16)).fenced
    | 7 => !(s.len u).on
    | _ => true

/-- SELF_TEST (R440): `missed` names the checkers that did not detect their injection. -/
def execSelfTest (h : Hdr) (targets timeoutMs : Nat) (missed : List (Nat × Nat)) (s : State) :
    Host.Outcome State Fault Refusal :=
  verb s h 0x02 (.selfTest h targets timeoutMs missed) fun s =>
    if bit targets 7 && h.src != .sideband then s.fail h 0x02 stBadField
    else
      let all := ((List.range 8).filter fun t => bit targets t).flatMap fun t => (s.testUnits t).map fun u => (t, u)
      let bad := all.filter missed.contains
      let s1 := all.foldl (fun (s : State) x =>
        if missed.contains x then s.report 0x00B0 (checkerSource x.1 x.2) x.1 x.2 else injectCheck s x.1 x.2) s
      let first := match bad with
        | [] => 0
        | x :: _ => x.1
      s1.complete h 0x02 (if bad.isEmpty then stSuccess else stRefused) (all.length + 2 ^ 16 * bad.length + 2 ^ 32 * first)

/-- SELF_TEST_TIMEOUT: work not begun within TIMEOUT (R440). -/
def execSelfTestTimeout (h : Hdr) (s : State) : Host.Outcome State Fault Refusal :=
  let late := s.host.issues.any fun i => i.src == h.src && i.tag == h.tag && i.opcode == 0x02 && i.done.isNone &&
    (match i.limit with
     | some t => decide (t ≤ s.dt)
     | none => false)
  if late then ok s (s.fail h 0x02 stDeferred) else .next s

end Sys2Proof.Machine
end

