-- ==== Sys2Proof/Machine/HostData.lean ====
section
/-! DEFINITION. Host memory accesses that verbs wait for: their end carries the verb out (R73, R313, R237, R239). -/

namespace Sys2Proof.Machine

/-- The data has the shape that the verb asked for. -/
def dataFits (d : HostData) : Instr → Bool
  | .stageList _ _ _ _ count _ => d.clauses.length == count
  | .paraDefine _ _ _ stepCount _ _ _ _ => d.steps.length == stepCount
  | .sweepLoad _ _ _ count _ => d.points.length == count
  | .dalovoSend _ _ _ _ length _ _ _ => d.payload.length == length
  | _ => true

/-- A set from the host is written to flash when its CRC table and FABRIC_HASH are right (R237). -/
def saveHostSet (s : State) (h : Hdr) (set : CalSet) : State :=
  if set.headerOk && set.badBlocks.isEmpty && set.fabricHash == s.img.fabricHash then
    { s with calib := { s.calib with saving := some set } }
  else State.fail { s with calib := { s.calib with saveBusy := none } } h 0x39 stBadField

/-- The verb `i` of header `h` goes on with its data. -/
def hostDone (s : State) (h : Hdr) (d : HostData) : Instr → State
  | .stageList _ o _ handle _ _ => stageClauses s h 0x11 o handle d.clauses
  | .paraDefine _ halt para _ _ period repeats late => defineSteps s h halt para period repeats late d.steps
  | .classLoad _ cls bank _ => loadBank s h cls bank d.bank
  | .sweepLoad _ _ list _ _ => loadList s h list d.points
  | .dalovoSend _ timed _ peer _ _ t late => queueFrame s h peer (if timed then some (t.units, late) else none) d.payload
  | .saveCalibration .. => saveHostSet s h d.set
  | .exportCalibration .. => State.complete { s with calib := { s.calib with exportBusy := none } } h 0x3A stSuccess 0
  | _ => s

/-- The access of the verb `i` has failed (R73, R239). -/
def hostFailed (s : State) (h : Hdr) : Instr → State
  | .stageList .. => s.fail h 0x11 stHostReadError
  | .paraDefine .. => s.fail h 0x19 stHostReadError
  | .classLoad .. => s.fail h 0x28 stHostReadError
  | .sweepLoad .. => s.fail h 0x30 stHostReadError
  | .dalovoSend .. => s.fail h 0x06 stHostReadError
  | .saveCalibration .. => State.fail { s with calib := { s.calib with saveBusy := none } } h 0x39 stHostReadError
  | .exportCalibration .. => State.fail { s with calib := { s.calib with exportBusy := none } } h 0x3A stHostWriteError
  | _ => s

/-- VERB_HOST_DATA_DONE: the oldest access made for the verb of header `h` has ended. -/
def execVerbHostDataDone (h : Hdr) (data : Option HostData) (s : State) : Host.Outcome State Fault Refusal :=
  match s.hostOps.find? fun o => o.hdr == h with
  | none => .next s
  | some o =>
    let s1 := { s with hostOps := s.hostOps.erase o }
    match data with
    | none => ok s (hostFailed s1 h o.verb)
    | some d => if dataFits d o.verb then ok s (hostDone s1 h d o.verb) else .next s

end Sys2Proof.Machine
end

