-- ==== Sys2Proof/Machine/HostQueues.lean ====
section
/-! DEFINITION. Host queues, completions and events, MSI-X timers, the fire doorbell, the sideband's buffers, and the PCIe
function's resets and power states (chapter "Host interface and verb queues"; R178, R504). -/

namespace Sys2Proof.Machine

/-! ## Rings -/

/-- Entries from index `a` up to index `b` of a ring of `n`. -/
def ringLen (n a b : Nat) : Nat := (b + n - a) % n

/-- Verbs of host queue `q` that have been fetched and whose completions are not posted (Q_COUNT.INFLIGHT). -/
def State.inflight (s : State) (q : Nat) : Nat := (s.host.issues.filter fun i => i.src == .host q && !i.orphan).length

/-- The entries of the next read of the SQ (R302): up to 8, to the tail, not past the end of the ring, and no more than the
CQ has room for. -/
def State.fetchCount (s : State) (q : Nat) : Nat :=
  let x := s.queue q
  let n := 2 ^ x.size
  let used := s.inflight q + ringLen n x.cqHead x.cqTail
  min (min 8 (ringLen n x.sqHead x.sqTail)) (min (n - x.sqHead) (n - 1 - used))

/-- The next read of SQ entries is issued (R302, R313). -/
def fetchMore (s : State) (q : Nat) : State :=
  let x := s.queue q
  let n := s.fetchCount q
  if x.state == .running && s.canMaster && x.reading == 0 && 0 < n then
    (s.setQueue q { x with reading := n }).emit (.hostRead (x.sqBase + 64 * x.sqHead) (64 * n) false)
  else s

/-- A queue stops: what is held for it is discarded and counted (R300, R301, R303). -/
def Queue.stop (x : Queue) (st : QState) (code : Nat) : Queue :=
  { x with state := st, errCode := code, reading := 0, lost := satAdd x.lost x.held.length 0xFFFF, held := [] }

/-- A queue enters ERROR (R301, R303). -/
def queueError (s : State) (q code : Nat) : State := s.setQueue q ((s.queue q).stop .error code)

/-- Entries that fall due to the queue are posted: it runs or drains, and no error stands (R300, R303). -/
def Queue.posts (x : Queue) : Bool := x.state == .running || (x.state == .draining && x.errCode == 0)

/-- A write of SQ_TAIL (R301, R302). -/
def sqTail (s : State) (q value : Nat) : State :=
  let x := s.queue q
  if x.state != .running then s
  else if 2 ^ x.size ≤ value then queueError s q 1
  else fetchMore (s.setQueue q { x with sqTail := value }) q

/-- SQ_TAIL_WRITE (R301). -/
def execSqTailWrite (q value : Nat) (s : State) : Host.Outcome State Fault Refusal := mainRow s (sqTail · q value)

/-- A write of CQ_HEAD (R301). -/
def cqHead (s : State) (q value : Nat) : State :=
  let x := s.queue q
  let n := 2 ^ x.size
  if x.state != .running then s
  else if n ≤ value || ringLen n x.cqHead x.cqTail < ringLen n x.cqHead value then queueError s q 2
  else fetchMore (s.setQueue q { x with cqHead := value }) q

/-- CQ_HEAD_WRITE (R301). -/
def execCqHeadWrite (q value : Nat) (s : State) : Host.Outcome State Fault Refusal := mainRow s (cqHead · q value)

/-! ## Event areas (R305 to R307, R297) -/

/-- An event entry as its 64 bytes (Tables 11-4 and 11-5). -/
def eventEntry (phase : Bool) (e : Event) : Nat :=
  e.kind + 2 ^ 8 * b2n phase + 2 ^ 16 * e.tag + 2 ^ 32 * e.handle + 2 ^ 48 * e.status + 2 ^ 64 * ntBytes e.time
    + 2 ^ 192 * e.body

/-- A completion entry as its 16 bytes (Table 11-3). -/
def completionEntry (phase : Bool) (sqHead : Nat) (i : Issue) (status result : Nat) : Nat :=
  i.tag + 2 ^ 16 * status + 2 ^ 24 * i.opcode + 2 ^ 32 * sqHead + 2 ^ 48 * b2n phase + 2 ^ 64 * result

/-- The event area has no room: one slot stays free, so that head and tail tell full from empty. -/
def Queue.eqFull (x : Queue) : Bool := ringLen (2 ^ x.eqSize) x.eqHead x.eqTail == 2 ^ x.eqSize - 1

/-- An entry is written to the event area of queue `q` and signalled (R304, R297, R298). -/
def writeEvent (s : State) (q : Nat) (e : Event) : State :=
  let x := s.queue q
  let t := (x.eqTail + 1) % 2 ^ x.eqSize
  let s1 := s.emit (.hostWrite (x.eqBase + 64 * x.eqTail) 64 (eventEntry x.eqPhase e))
  let u := x.eqUnsignalled + 1
  let y := { x with eqTail := t, eqPhase := if t = 0 then !x.eqPhase else x.eqPhase }
  if e.urgent || x.eqCount ≤ u then (s1.setQueue q { y with eqUnsignalled := 0 }).msix (8 + q)
  else s1.setQueue q { y with eqUnsignalled := u, eqOldest := if x.eqUnsignalled = 0 then s.dt else x.eqOldest }

/-- The OVERFLOW entry of R307. -/
def overflowEvent (t : Int) (lost : Nat) : Event := { kind := 0x0F, time := t, body := lost % 2 ^ 32 }

/-- An entry that has no room is held, up to 64 of them; beyond, it is dropped and counted (R307). -/
def holdEvent (s : State) (q : Nat) (e : Event) : State :=
  let x := s.queue q
  if (x.held.filter fun h => h.kind != 0x0F).length < 64 then
    s.setQueue q { x with
      held := (if 0 < x.droppedSince then x.held ++ [overflowEvent s.now x.droppedSince] else x.held) ++ [e], droppedSince := 0 }
  else s.setQueue q { x with droppedSince := x.droppedSince + 1, lost := satInc x.lost 0xFFFF, eqOverflow := true }

/-- What is held is posted as room returns, then the OVERFLOW entry that is owed (R307). -/
def flushHeld (s : State) (q : Nat) : Nat → State
  | 0 => s
  | n + 1 =>
    let x := s.queue q
    if !x.posts || !s.canMaster || x.eqFull then s
    else match x.held with
      | e :: r => flushHeld (writeEvent (s.setQueue q { x with held := r }) q e) q n
      | [] =>
        if 0 < x.droppedSince then writeEvent (s.setQueue q { x with droppedSince := 0 }) q (overflowEvent s.now x.droppedSince)
        else s

/-- An event falls due to host queue `q`. -/
def postHostEvent (s : State) (q : Nat) (e : Event) : State :=
  let x := s.queue q
  if !x.posts then s.setQueue q { x with lost := satInc x.lost 0xFFFF }
  else if !s.canMaster || x.eqFull || !x.held.isEmpty || 0 < x.droppedSince then flushHeld (holdEvent s q e) q 200
  else writeEvent s q e

/-- An event for the sideband's buffer of 16 (R317). -/
def postSbEvent (s : State) (e : Event) : State :=
  let h := s.host
  if h.sbEvents.length < 16 then { s with host := { h with sbEvents := h.sbEvents ++ [eventEntry true e] } }
  else { s with host := { h with sbEventDropped := h.sbEventDropped + 1 } }

/-- A result of the source that waits for the standby's acknowledgement (R405). -/
def State.heldBack (s : State) (src : Source) (tag : Nat) : Bool :=
  s.mate.waits.any fun w => w.src == src && w.tag == tag && decide (s.mate.acked < w.record)

/-- The first owed event that nothing holds back, and the rest. -/
def State.nextEvent (s : State) : List (Source × Event) → Option ((Source × Event) × List (Source × Event))
  | [] => none
  | x :: r =>
    if x.2.kind == 1 && s.heldBack x.1 x.2.tag then (s.nextEvent r).map fun y => (y.1, x :: y.2) else some (x, r)

/-- EVENT_POST (R305 to R307, R317, R337). -/
def execEventPost (s : State) : Host.Outcome State Fault Refusal :=
  match s.nextEvent s.host.owed with
  | none => .next s
  | some (x, rest) =>
    let s1 := { s with host := { s.host with owed := rest } }
    ok s (match x.1 with
      | .host q => postHostEvent s1 q x.2
      | .peer p => sendSealed s1 p "EVENT" (byteList 64 (eventEntry true x.2))
      | .sideband => postSbEvent s1 x.2
      | .lossOfLight => s1)

/-- A write of EQ_HEAD (R301, R307). -/
def eqHead (s : State) (q value : Nat) : State :=
  let x := s.queue q
  let n := 2 ^ x.eqSize
  if x.state != .running then s
  else if n ≤ value || ringLen n x.eqHead x.eqTail < ringLen n x.eqHead value then queueError s q 2
  else flushHeld (s.setQueue q { x with eqHead := value }) q 200

/-- EQ_HEAD_WRITE (R301). -/
def execEqHeadWrite (q value : Nat) (s : State) : Host.Outcome State Fault Refusal := mainRow s (eqHead · q value)

/-! ## Fetch and completion -/

/-- SQ_ENTRY_FETCH (R302): the entries of the read arrive, and each verb passes to admission in index order. -/
def execSqEntryFetch (q : Nat) (entries : List Entry) (s : State) : Host.Outcome State Fault Refusal :=
  let x := s.queue q
  if x.state != .running || x.reading = 0 || entries.length != x.reading then .next s
  else
    let s1 := s.setQueue q { x with sqHead := (x.sqHead + x.reading) % 2 ^ x.size, reading := 0 }
    ok s (fetchMore (entries.foldl (fun (s : State) e => arrive s (.host q) e) s1) q)

/-- SQ_READ_FAIL (R303). -/
def execSqReadFail (q : Nat) (s : State) : Host.Outcome State Fault Refusal :=
  if (s.queue q).state == .running && 0 < (s.queue q).reading then ok s (queueError s q 3) else .next s

/-- CQ_EQ_WRITE_FAIL (R303): the entry is lost. -/
def execCqEqWriteFail (q : Nat) (event : Bool) (s : State) : Host.Outcome State Fault Refusal :=
  if (s.queue q).posts then
    let s1 := queueError s q (if event then 5 else 4)
    ok s (s1.setQueue q { s1.queue q with lost := satInc (s1.queue q).lost 0xFFFF })
  else .next s

/-- The oldest verb of a source in issue order, and the issue list without it. -/
def takeIssue (src : Source) : List Issue → Option (Issue × List Issue)
  | [] => none
  | i :: r => if i.src == src then some (i, r) else (takeIssue src r).map fun x => (x.1, i :: x.2)

/-- A completion entry is written to the CQ of queue `q` and signalled (R304, R297, R298). -/
def writeCompletion (s : State) (q : Nat) (i : Issue) (status result : Nat) : State :=
  let x := s.queue q
  let t := (x.cqTail + 1) % 2 ^ x.size
  let s1 := s.emit (.hostWrite (x.cqBase + 16 * x.cqTail) 16 (completionEntry x.cqPhase x.sqHead i status result))
  let u := x.cqUnsignalled + 1
  let y := { x with cqTail := t, cqPhase := if t = 0 then !x.cqPhase else x.cqPhase }
  if x.cqCount ≤ u then (s1.setQueue q { y with cqUnsignalled := 0 }).msix q
  else s1.setQueue q { y with cqUnsignalled := u, cqOldest := if x.cqUnsignalled = 0 then s.dt else x.cqOldest }

/-- COMPLETION_POST (R102, R304, R317, R337): the oldest verb of the source has ended. -/
def execCompletionPost (src : Source) (s : State) : Host.Outcome State Fault Refusal :=
  match takeIssue src s.host.issues with
  | none => .next s
  | some (i, rest) =>
    match i.done with
    | none => .next s
    | some (st, res) =>
      let s1 := { s with host := { s.host with issues := rest } }
      if s.heldBack src i.tag then .next s
      else match src with
        | .host q =>
          let x := s.queue q
          if !x.posts then ok s (s1.setQueue q { x with lost := satInc x.lost 0xFFFF })
          else if i.orphan then ok s s1
          else if !s.canMaster then .next s
          else ok s (writeCompletion s1 q i st res)
        | .peer p => ok s (sendSealed s1 p "COMPLETION" (byteList 16 (completionEntry true 0 i st res)))
        | .sideband =>
          ok s { s1 with host := { s1.host with sbCompletions := s1.host.sbCompletions ++ [completionEntry true 0 i st res] } }
        | .lossOfLight => ok s s1

/-- MSIX_INTERRUPT_TIMER: the oldest entry not signalled has waited TIME µs (R297). -/
def execMsixInterruptTimer (q : Nat) (event : Bool) (s : State) : Host.Outcome State Fault Refusal :=
  let x := s.queue q
  let n := if event then x.eqUnsignalled else x.cqUnsignalled
  let t := if event then x.eqOldest else x.cqOldest
  if x.time = 0 || n = 0 || s.dt < t + x.time * usTicks || !s.canMaster then .next s
  else if event then ok s ((s.setQueue q { x with eqUnsignalled := 0 }).msix (8 + q))
  else ok s ((s.setQueue q { x with cqUnsignalled := 0 }).msix q)

/-! ## Enabling, draining, configuration (R299, R300) -/

/-- The queue starts: heads, tails and phases as R300 says, its meters full (R323). -/
def startQueue (s : State) (q : Nat) : State :=
  let x := s.queue q
  fillMeters (s.setQueue q { x with
    enable := true, state := .running, errCode := 0, reading := 0, sqHead := 0, sqTail := 0, cqTail := 0, cqHead := 0
    eqTail := 0, eqHead := 0, cqPhase := true, eqPhase := true, held := [], droppedSince := 0, cqUnsignalled := 0
    eqUnsignalled := 0 }) q

/-- ENABLE becomes 1. While the queue still drains, it starts at the end of that. -/
def queueOn (s : State) (q : Nat) : State :=
  let x := s.queue q
  if x.enable then s
  else match x.state with
    | .disabled => startQueue s q
    | .error => s.setQueue q { x with enable := true, state := .draining }
    | _ => s.setQueue q { x with enable := true }

/-- ENABLE becomes 0 (R300). -/
def queueOff (s : State) (q : Nat) : State :=
  let x := s.queue q
  let y := { x with enable := false }
  match x.state with
  | .running => s.setQueue q { y with state := .draining, reading := 0 }
  | .error => s.setQueue q { y with state := .draining }
  | _ => s.setQueue q y

/-- QUEUE_ENABLE (R300). -/
def execQueueEnable (q : Nat) (s : State) : Host.Outcome State Fault Refusal := mainRow s (queueOn · q)

/-- QUEUE_DISABLE (R300). -/
def execQueueDisable (q : Nat) (s : State) : Host.Outcome State Fault Refusal := mainRow s (queueOff · q)

/-- QUEUE_DRAINED: every fetched verb has posted its completion (R300). -/
def execQueueDrained (q : Nat) (s : State) : Host.Outcome State Fault Refusal :=
  let x := s.queue q
  if x.state != .draining || s.inflight q != 0 then .next s
  else if x.enable then ok s (startQueue s q)
  else ok s (s.setQueue q (x.stop .disabled x.errCode))

/-- One half of a 64-bit base. -/
def setHalf (base : Nat) (high : Bool) (v : Nat) : Nat :=
  if high then base % 2 ^ 32 + 2 ^ 32 * v else base / 2 ^ 32 * 2 ^ 32 + v / 4096 * 4096

/-- A write of a configuration register of queue `q`: Q_BASE_0 to 5, Q_SIZE (6), Q_CTRL (7), Q_STATUS (8), Q_INT (9)
(R299, R300, R9). -/
def queueConfig (s : State) (q reg : Nat) (value : Word32) : State :=
  let x := s.queue q
  let v := value.toNat
  match reg with
  | 7 =>
    let s1 := s.setQueue q { x with sysEvents := bit v 1, fireOnly := bit v 2 }
    if bit v 0 then queueOn s1 q else queueOff s1 q
  | 8 => s.setQueue q { x with eqOverflow := x.eqOverflow && !bit v 18, cfgErr := x.cfgErr && !bit v 19 }
  | 9 =>
    let c := bits v 0 8
    let e := bits v 8 8
    s.setQueue q { x with
      cqCount := max 1 c, eqCount := max 1 e, time := bits v 16 16, cfgErr := x.cfgErr || c == 0 || e == 0 }
  | _ =>
    if 10 ≤ reg then s
    else if x.enable then s.setQueue q { x with cfgErr := true }
    else if reg = 6 then
      let a := bits v 0 4
      let b := bits v 4 4
      let bad := a < 4 || 12 < a || b < 4 || 12 < b
      s.setQueue q { x with size := clampNat 4 12 a, eqSize := clampNat 4 12 b, cfgErr := x.cfgErr || bad }
    else
      let high := reg % 2 == 1
      s.setQueue q (match reg / 2 with
        | 0 => { x with sqBase := setHalf x.sqBase high v }
        | 1 => { x with cqBase := setHalf x.cqBase high v }
        | _ => { x with eqBase := setHalf x.eqBase high v })

/-- QUEUE_CONFIG_WRITE (R299). -/
def execQueueConfigWrite (q reg : Nat) (value : Word32) (s : State) : Host.Outcome State Fault Refusal :=
  mainRow s (queueConfig · q reg value)

/-! ## The fire doorbell (R178) -/

/-- A write of FIRE_DOORBELL. -/
def doorbell (s : State) (value : Word32) : State :=
  let h := bits value.toNat 0 12
  let q := bits value.toNat 12 3
  let tag := bits value.toNat 16 16
  let (c, s1) := s.colour (.host q) 0
  let st := (s1.sent h).state
  if c = 2 then doorbellReport s1 q tag h stPoliced
  else if !s1.verbReady 0x16 then doorbellReport s1 q tag h stNotReady
  else if st == .armed || st == .stale then fireSentence s1 h (.doorbell q tag) (c = 1) s.dt
  else doorbellReport (ignoreTrigger s1 h) q tag h stBadState

/-- FIRE_DOORBELL (R178). -/
def execFireDoorbell (value : Word32) (s : State) : Host.Outcome State Fault Refusal := mainRow s (doorbell · value)

/-! ## The sideband (R316, R317, R469) -/

/-- Sideband verbs not yet completed. -/
def State.sbPending (s : State) : Nat := (s.host.issues.filter fun i => i.src == .sideband).length

/-- SB_VERB_WRITE (R316). -/
def execSbVerbWrite (entry : Entry) (bytes : Nat) (pecOk : Bool) (s : State) : Host.Outcome State Fault Refusal :=
  if s.chip.por then .next s
  else if 4 ≤ s.sbPending || 16 ≤ s.sbPending + s.host.sbCompletions.length then .next (s.emit .smbusNack)
  else if bytes != 64 || !pecOk then .next { s with host := { s.host with sbDropped := satInc s.host.sbDropped 0xFFFF } }
  else ok s (arrive s .sideband entry)

/-- SB_COMPLETION_READ (R317). -/
def execSbCompletionRead (s : State) : Host.Outcome State Fault Refusal :=
  if s.chip.por then .next s
  else match s.host.sbCompletions with
    | [] => .next (s.emit (.smbusData []))
    | c :: r => .next (State.emit { s with host := { s.host with sbCompletions := r } } (.smbusData (byteList 16 c)))

/-- SB_EVENT_READ (R317): with the room that returns, the OVERFLOW entry of R307. -/
def execSbEventRead (s : State) : Host.Outcome State Fault Refusal :=
  if s.chip.por then .next s
  else match s.host.sbEvents with
    | [] => .next (s.emit (.smbusData []))
    | e :: r =>
      let s1 := State.emit { s with host := { s.host with sbEvents := r } } (.smbusData (byteList 64 e))
      .next (if s.host.sbEventDropped = 0 then s1
        else postSbEvent { s1 with host := { s1.host with sbEventDropped := 0 } } (overflowEvent s.now s.host.sbEventDropped))

/-- SB_WINDOW_OFFSET (R469): a multiple of 4. -/
def execSbWindowOffset (value : Nat) (pecOk : Bool) (s : State) : Host.Outcome State Fault Refusal :=
  if s.chip.por || !pecOk then .next s
  else if value % 4 ≠ 0 then .next (s.emit .smbusNack)
  else .next { s with host := { s.host with sbOffset := value % 2 ^ 16 } }

/-! ## The PCIe function (R291, R293, R320, R504) -/

/-- What R320 does: queues at their reset values, owed entries discarded, DMA channels dropped (R369). -/
def functionReset (s : State) : State :=
  let mine := fun (x : Source) => match x with
    | .host _ => true
    | _ => false
  let keep := s.host.issues.filter fun i => !(mine i.src && i.done.isSome)
  let h := { s.host with
    queues := [], issues := keep.map fun i => if mine i.src then { i with orphan := true } else i
    owed := s.host.owed.filter fun x => !mine x.1, flrCount := satInc s.host.flrCount 0xFF }
  abortBurst (dropAll { s with host := h }) 17 0

/-- PCIE_FUNCTION_RESET (R320): Function Level Reset, hot reset or loss of the link. -/
def execPcieFunctionReset (s : State) : Host.Outcome State Fault Refusal :=
  if s.chip.mainRun then ok s (functionReset s) else .next s

/-- PCIE_PERST (R504): low holds the function in reset; after the release the link trains and the host enables the
function. -/
def execPciePerst (low : Bool) (s : State) : Host.Outcome State Fault Refusal :=
  if low then
    if s.host.perst then .next s
    else
      let s1 := { s with host := { s.host with perst := true, speed := 0, width := 0, bme := false, msixEn := false, d3hot := false } }
      if s.chip.mainRun then ok s (functionReset s1) else .next s1
  else
    let s1 := { s with host := { s.host with perst := false } }
    if s.host.perst && s.chip.mainRun then .next { s1 with host := s1.host.trained } else .next s1

/-- PCIE_POWER_STATE_CHANGE (R291): with D0 the entries that were kept are posted and fetching goes on. -/
def execPciePowerStateChange (d3hot : Bool) (s : State) : Host.Outcome State Fault Refusal :=
  let s1 := { s with host := { s.host with d3hot } }
  if d3hot then ok s s1
  else ok s ((List.range 8).foldl (fun (s : State) q => fetchMore (flushHeld s q 200) q) s1)

/-- BAR0_ACCESS_ERROR (R293): a request of more than one DWORD has no effect. -/
def execBar0AccessError (_write : Bool) (offset _dwords : Nat) (s : State) : Host.Outcome State Fault Refusal :=
  if 2 ^ 24 ≤ offset then .fault (.noSuchAddress offset) else .next (s.emit .unsupportedRequest)

end Sys2Proof.Machine
end

