-- ==== Sys2Proof/Machine/Housekeeping.lean ====
section
/-! DEFINITION. Temperature, ADC and DAC (chapter "Temperature, ADC and DAC", R471 to R487). Temperatures are in 0.25 °C. -/

namespace Sys2Proof.Machine

/-! ## Temperature sensors (R471, R472, R477) -/

/-- Lower edge of band `b` of Table 18-2, from band 1 on. -/
def bandEdge (b : Nat) : Int := 160 * ((b : Int) - 1)

/-- The band after a reading `r`: up at an edge, down at 2 °C below it (R477). -/
def nextBand (b : Nat) (r : Int) : Nat :=
  let up := (List.range 5).foldl (fun (m : Nat) k => if 0 < k && decide (bandEdge k ≤ r) then max m k else m) b
  let low := (List.range 5).foldl (fun (m : Nat) k => if 0 < k && decide (bandEdge k - 8 < r) then max m k else m) 0
  if b < up then up else min b low

/-- A sensor fails in a round (R472). -/
def sensorFails (t : TempSensor) (r : Int) : Bool :=
  decide (r < -220) || decide (700 < r) || (match t.prev with
    | some p => decide (80 < absN (r - p))
    | none => false)

/-- The sensor after a round with trimmed reading `r` (R471, R472, R477). -/
def TempSensor.round (t : TempSensor) (r : Int) : TempSensor :=
  if sensorFails t r then { t with reading := r, prev := some r, valid := false, goodRounds := 0 }
  else
    let n := min 2 (t.goodRounds + 1)
    let u := { t with reading := r, prev := some r, goodRounds := n, valid := n == 2 }
    if u.valid then
      { u with band := nextBand t.band r, max := some (match t.max with
          | some m => if m < r then r else m
          | none => r) }
    else u

/-- The hottest valid sensor and its reading; of equals the lowest index. -/
def hottestSensor (ts : List (Nat × TempSensor)) : Option (Nat × Int) :=
  (ts.filter (·.2.valid)).foldl (fun (m : Option (Nat × Int)) x =>
    match m with
    | some (_, h) => if h < x.2.reading then some (x.1, x.2.reading) else m
    | none => some (x.1, x.2.reading)) none

/-- A condition of Table 18-1 after an evaluation with hottest reading `h`. -/
def condition (old : Bool) (set clear h : Int) : Bool := if old then decide (clear ≤ h) else decide (set ≤ h)

/-- DIV of every class as the condition THROTTLE has it goes to the mirrors of the tiles, for the next comma (R474, R258). -/
def sendThrottleDivs (s : State) : State :=
  let c := s.commaNo + 1
  let f := if s.house.throttle then 2 else 1
  (s.placedTiles.filter fun t => s.working && (s.link t).tile == .adopted && s.tileReach t).foldl (fun (s : State) t =>
    s.classList.foldl (fun (s : State) k => s.down t "CLASS_DIV" [k, (s.cls k).holdDiv * f, c % 8]) s) s

/-- The evaluation of a round (R471 to R473, R476). -/
def evaluateRound (s : State) (readings : List Int) : State :=
  let old := s.house
  let ns := List.range 17
  let got := ns.map fun n => readings.getD n 0 + tabGet s.chip.otp.tempTrims 0 n
  let temps := (ns.zip got).map fun x => (x.1, (tabGet old.temps {} x.1).round x.2)
  let failed := ns.filter fun n => sensorFails (tabGet old.temps {} n) (got.getD n 0)
  let few := decide ((temps.filter (·.2.valid)).length < 9)
  let h := hottestSensor temps
  let on := fun (o : Bool) (set clear : Int) => match h with
    | some x => condition o set clear x.2
    | none => o
  let warn := on old.warn 520 496
  let thr := on old.throttle 568 544
  let shut := on old.shutdown 608 584
  let own := (tabGet temps {} 16)
  let u := { old with
    temps, warn, throttle := thr, shutdown := shut
    hottest := match h with
      | some x => x.2
      | none => old.hottest
    hotSrc := match h with
      | some x => x.1
      | none => old.hotSrc
    centralBand := if own.valid then own.band else match h with
      | some x => (tabGet temps {} x.1).band
      | none => old.centralBand
    throttles := if thr && !old.throttle then satInc old.throttles 0xFFFF else old.throttles
    sensorFails := satAdd old.sensorFails failed.length 0xFFFF }
  let rs := (failed.map fun n => ({ code := 0x0063, source := srcHouse, detail0 := n } : Report))
    ++ (if few then [{ code := 0x0064, source := srcHouse }] else [])
    ++ (if warn && !old.warn then [{ code := 0x0060, source := srcHouse }] else [])
    ++ (if thr && !old.throttle then [{ code := 0x0061, source := srcHouse }] else [])
    ++ (if shut && !old.shutdown then [{ code := 0x0062, source := srcHouse }] else [])
  let s1 := recordReports { s with house := u } rs
  let s2 := if warn != old.warn then s1.msix 22 else s1
  if thr != old.throttle then sendThrottleDivs (s2.msix 22) else s2

/-- HK_ROUND: the round that began 40 µs ago is evaluated (R471). -/
def execHkRound (readings : List Int) (s : State) : Host.Outcome State Fault Refusal :=
  if s.chip.mainRun && s.dt % 2500000 = 50000 then ok s (evaluateRound s readings) else .next s

/-! ## ADC (R480 to R483) -/

/-- Ticks of a conversion. -/
def adcTicks : Nat := 1250

/-- A conversion with reference `r` that ends now is flagged SETTLING: the one before used another, and ended less than 2 µs
before this one began (R481). -/
def State.settling (s : State) (r : Nat) : Bool :=
  match s.house.lastRef with
  | some (q, t) => q != r && decide (s.dt < t + 2500 + adcTicks)
  | none => false

/-- A conversion of the sequence is in progress. -/
def House.converting (u : House) : Bool := (u.adcRun || u.adcStopping) && !u.urgBusy

/-- An entry takes what was written during its conversion. -/
def AdcEntry.settle (e : AdcEntry) : AdcEntry :=
  match e.next with
  | some (i, r, lo, hi) => { e with input := some i, ref := r, low := lo, high := hi, next := none }
  | none => e

/-- An entry after a conversion with `code` (R481, R482). -/
def AdcEntry.convert (e : AdcEntry) (code : Nat) (settling : Bool) : AdcEntry :=
  let out := decide (code < e.low) || decide (e.high < code)
  ({ e with
    code
    settling
    window := if settling then e.window else out
    alarm := e.alarm || (!settling && out) }).settle

/-- ADC_CONVERSION_DONE (R481, R482): the entry in progress has its code; the sequence goes on, or stops. -/
def execAdcConversionDone (code : Nat) (s : State) : Host.Outcome State Fault Refusal :=
  if !s.chip.mainRun || !s.house.converting || 4096 ≤ code then .next s
  else
    let k := s.house.adcEntry
    let e := s.adcEntry k
    let s1 := s.setAdcEntry k (e.convert code (s.settling e.ref))
    ok s { s1 with house := { s1.house with
      adcEntry := if s.house.adcStopping || s.house.adcLast ≤ k then 0 else k + 1
      adcStopping := false
      lastRef := some (e.ref, s.dt) } }

/-- A write of ADC_CTRL: RUN and LAST (R481). -/
def adcCtrl (s : State) (value : Word32) : State :=
  let u := s.house
  let go := bit value.toNat 0
  { s with house := { u with
    adcRun := go
    adcStopping := !go && (u.adcRun || u.adcStopping)
    adcLast := bits value.toNat 1 5 } }

/-- ADC_CTRL_WRITE (R481). -/
def execAdcCtrlWrite (value : Word32) (s : State) : Host.Outcome State Fault Refusal :=
  mainRow s (adcCtrl · value)

/-- A write of ADC_SEQ_e (R481, R9): at once, or after the conversion of the entry that is in progress. -/
def adcSeq (s : State) (k : Nat) (value : Word32) : State :=
  let v := value.toNat
  let i := min 47 (bits v 0 6)
  let r := min 2 (bits v 6 2)
  let e := { s.adcEntry k with next := some (i, r, bits v 8 12, bits v 20 12) }
  let busy := (s.house.adcRun || s.house.adcStopping) && s.house.adcEntry == k
  let s1 := s.setAdcEntry k (if busy then e else e.settle)
  let bad := decide (47 < bits v 0 6) || bits v 6 2 == 3
  { s1 with house := { s1.house with urgTrigLost := s1.house.urgTrigLost || bad } }

/-- A write of ADC_URGENT: the fields, then GO (R483, R221): while a request is outstanding the trigger is lost. -/
def adcUrgent (s : State) (value : Word32) : State :=
  let v := value.toNat
  let u := s.house
  let lost := u.urgTrigLost && !bit v 10
  let bad := decide (47 < bits v 0 6) || bits v 6 2 == 3
  if u.urgBusy then { s with house := { u with urgTrigLost := lost || bit v 8 || bad } }
  else
    let u1 := { u with urgInput := min 47 (bits v 0 6), urgRef := min 2 (bits v 6 2), urgTrigLost := lost || bad }
    if bit v 8 then
      let last := if u.converting then some ((s.adcEntry u.adcEntry).ref, s.dt) else u.lastRef
      let u2 := { u1 with urgBusy := true, urgAt := s.dt, urgResult := u.urgResult.trigger, lastRef := last }
      { s with house := u2 }
    else { s with house := u1 }

/-- ADC_URGENT_GO (R483): the conversion in progress is abandoned, the urgent one starts at once. -/
def execAdcUrgentGo (value : Word32) (s : State) : Host.Outcome State Fault Refusal :=
  mainRow s (adcUrgent · value)

/-- ADC_URGENT_CONVERSION_DONE (R483, R221): the interrupted entry is converted in full from here on. -/
def execAdcUrgentConversionDone (code : Nat) (s : State) : Host.Outcome State Fault Refusal :=
  let u := s.house
  if !s.chip.mainRun || !u.urgBusy || 4096 ≤ code || s.dt < u.urgAt + adcTicks then .next s
  else
    let w := BitVec.ofNat 32 (2 ^ 10 * code + 2 ^ 22 * b2n (s.settling u.urgRef))
    ok s { s with house := { u with
      urgBusy := false, urgResult := u.urgResult.complete [w], lastRef := some (u.urgRef, s.dt) } }

/-- ADC_URGENT_RESULT as a read gives it. -/
def readUrgResult (s : State) : Word32 × State :=
  (s.house.urgResult.word, { s with house := { s.house with urgResult := s.house.urgResult.read } })

/-- ADC_URGENT_RESULT_READ (R221). -/
def execAdcUrgentResultRead (s : State) : Host.Outcome State Fault Refusal := readRow s readUrgResult

/-! ## DAC (R484 to R487) -/

/-- A channel drives its CLEAR code (R487). -/
def State.dacCleared (s : State) (k : Nat) : Bool :=
  s.house.dacClrLow || !s.chip.mainRun || !(s.dac k).written || s.faults.safeState

/-- The code that drives DAC_OUTk (R484, R485, R487). -/
def State.dacOut (s : State) (k : Nat) : Nat :=
  let d := s.dac k
  if s.dacCleared k then d.clear else if d.sine then d.sineCode else d.code

/-- A reference channel forces onto the calibration bus, or the manager holds it (R486). -/
def State.busTaken (s : State) : Bool :=
  (s.smu.ref0.forceEn && s.smu.ref0.connect) || (s.smu.ref1.forceEn && s.smu.ref1.connect) ||
    (match s.smu.bus with
     | .manager .. => true
     | _ => false)

/-- A write of DAC_CTRL_k (R484, R486, R487). -/
def dacCtrl (s : State) (k : Nat) (value : Word32) : State :=
  let v := value.toNat
  let d := s.dac k
  let want := bit v 3 && decide (k < 2)
  let refused := want && !d.toCal && s.busTaken
  let s1 := s.setDac k { d with
    sine := bit v 0, gain2 := bit v 1, refPin := bit v 2, written := true, code := bits v 16 16
    busConflict := (d.busConflict && !bit v 5) || refused }
  s1.setDac k { s1.dac k with toCal := want && !refused && !s1.dacCleared k }

/-- DAC_CTRL_WRITE (R484, R486, R487). -/
def execDacCtrlWrite (channel : Nat) (value : Word32) (s : State) : Host.Outcome State Fault Refusal :=
  mainRow s fun s => if channel < 4 then dacCtrl s channel value else s

/-- DAC_CLR_N_CHANGE: the pin's level; low opens every TO_CAL switch (R487). -/
def execDacClrNChange (low : Bool) (s : State) : Host.Outcome State Fault Refusal :=
  let s1 := { s with house := { s.house with dacClrLow := low } }
  ok s (if low then openToCal s1 else s1)

end Sys2Proof.Machine
end

