-- ==== Sys2Proof/Machine/TimeUnit.lean ====
section
/-! DEFINITION. The time unit: servo, lock states, PTP, PPS (chapter "Network time"). An offset θ is an integer in
2^-16 ns. -/

namespace Sys2Proof.Machine

/-! ## The servo (R276 to R278) -/

/-- Network time of a device tick that may lie before the base (R274). -/
def TimeUnit.ntAt (u : TimeUnit) (t : Int) : Int := u.baseNt + (t - u.baseDt) * 4 * 65536 * (2 ^ 48 + u.rate) / (5 * 2 ^ 48)

/-- The base pair is set to now under the old values (R274). -/
def TimeUnit.rebase (u : TimeUnit) (t : Nat) : TimeUnit := { u with baseNt := u.nt t, baseDt := t }

/-- RATE_MAX in units of 2^-48. -/
def rateLimit (i : Image) : Int := roundDiv ((i.rateMax : Int) * 2 ^ 48) 1000000

/-- `old` less gain × θ / s in units of 2^-48, rounded to the nearest; `gain` is Q1.15, `s` in ticks. -/
def piTerm (old : Int) (gain : Nat) (theta : Int) (s : Nat) : Int :=
  roundDiv (old * s - (gain : Int) * theta * 5 * 2 ^ 15) s

/-- The PI update of R277 for a measurement `theta` at tick `at_`, `s` ticks after the one before. -/
def slew (i : Image) (u : TimeUnit) (theta : Int) (s : Nat) : TimeUnit :=
  let m := rateLimit i
  let raw := piTerm u.integ i.ki theta s
  let integ := clampInt (-m) m raw
  let raw2 := piTerm integ i.kp theta s
  let rate := clampInt (-m) m raw2
  { u with integ, rate, rateClamp := u.rateClamp || integ != raw || rate != raw2 }

/-- θ as SERVO_OFFSET shows it: ns, saturating. -/
def shownOffset (theta : Int) : Int := clampInt (-(2 ^ 31)) (2 ^ 31 - 1) (openDiv theta ntNs)

/-- A limit given in `k` ns. -/
def withinSlew (theta : Int) (k : Nat) : Bool := decide ((absN theta : Int) ≤ k * ntNs)

/-- The lock state after an accepted measurement (Table 10-2). -/
def lockStep (i : Image) (u : TimeUnit) (theta : Int) : TimeUnit :=
  let close := withinSlew theta i.lockThresh
  match u.state with
  | .acquiring =>
    let n := if close then u.lockRun + 1 else 0
    if i.lockCount ≤ n then { u with state := .locked, lockRun := 0, unlockRun := 0 } else { u with lockRun := n }
  | .locked =>
    let n := if withinSlew theta i.unlockThresh then 0 else u.unlockRun + 1
    if 3 ≤ n then { u with state := .acquiring, lockRun := 0, unlockRun := 0 } else { u with unlockRun := n }
  | .free => u
  | _ => { u with state := if close then .locked else .acquiring, lockRun := 0, unlockRun := 0 }

/-- Handling of a measurement that arrived at tick `at_` (Table 10-1). -/
def handle (i : Image) (u0 : TimeUnit) (now at_ : Nat) (theta : Int) : TimeUnit :=
  let u := { u0 with servoOffset := shownOffset theta, lastMeasured := some at_ }
  let accepted := fun (v : TimeUnit) => { v with lastAccepted := some at_, holdoverOver := false, timeJump := false }
  let step := fun (v : TimeUnit) =>
    let b := v.rebase now
    { b with baseNt := b.baseNt - theta, afresh := true, steps := satInc v.steps 0xFFFF }
  if u.needInitial then
    { accepted (step u) with needInitial := false, state := .acquiring, lockRun := 0, unlockRun := 0 }
  else if !withinSlew theta (1000 * i.jumpLimit) then
    { u with
      timeJump := true
      jumps := satInc u.jumps 0xFFFF
      jumpLocked := if u.state == .jump then u.jumpLocked else u.locked
      state := .jump, lockRun := 0, unlockRun := 0 }
  else if !withinSlew theta (1000 * i.stepThresh) then lockStep i (accepted (step u)) theta
  else if u.afresh then lockStep i { accepted u with afresh := false } theta
  else
    let s := max 1 (min (at_ - u.lastAccepted.getD at_) (16 * secTicks))
    lockStep i (accepted (slew i (u.rebase now) theta s)) theta

/-- PPS_OUT stays low where PPS_CONFIG.MODE does not let it rise (R289). -/
def TimeUnit.ppsAllowed (u : TimeUnit) : Bool := u.ppsMode == 2 || (u.ppsMode == 1 && u.locked)

/-- The pin follows the mode and the lock state. -/
def TimeUnit.ppsGate (u : TimeUnit) : TimeUnit := if u.ppsAllowed then u else { u with ppsOut := false }

/-- A measurement is handled; setting TIME_JUMP is reported. -/
def takeMeasure (s : State) (at_ : Nat) (theta : Int) : State :=
  let s1 := { s with time := (handle s.img s.time s.dt at_ theta).ppsGate }
  if s1.time.timeJump && !s.time.timeJump then s1.report 0x0090 srcTime else s1

/-- A scheduled token is outstanding: a tile of it has neither reported nor failed (R82, R278). -/
def State.tokenOut (s : State) : Bool :=
  s.store.launches.any fun l => (match l.trigger with
    | .schedule .. => true
    | .paraStep .. => true
    | _ => false) && !l.allIn

/-- The waiting change is applied, where nothing holds it any more (R278). -/
def applyHeld (s : State) : State :=
  match s.time.held with
  | none => s
  | some (theta, at_) =>
    if s.tokenOut then s
    else takeMeasure { s with time := { s.time with held := none, firstHeld := none, tokensStopped := false } } at_ theta

/-- A measured offset arrives: it is handled, or waits in place of the one that waits (R276, R278). -/
def measureTime (s0 : State) (theta : Int) : State :=
  let s := applyHeld s0
  if s.tokenOut then
    { s with time := { s.time with
      held := some (theta, s.dt)
      firstHeld := some (s.time.firstHeld.getD s.dt)
      heldCount := satInc s.time.heldCount 0xFFFF } }
  else takeMeasure s s.dt theta

/-- TIME_MEASUREMENT (R276). -/
def execTimeMeasurement (theta : Int) (s : State) : Host.Outcome State Fault Refusal :=
  if s.chip.mainRun then ok s (measureTime s theta) else .next s

/-- A write of SERVO_FEED: ignored with TIME_SOURCE = PTP. -/
def servoFeed (s : State) (value : Word32) : State := if s.img.hostTime then measureTime s (value.toInt * ntNs) else s

/-- SERVO_FEED_WRITE (R276). -/
def execServoFeedWrite (value : Word32) (s : State) : Host.Outcome State Fault Refusal :=
  mainRow s (servoFeed · value)

/-- HELD_CHANGE_APPLY (R278). -/
def execHeldChangeApply (s : State) : Host.Outcome State Fault Refusal :=
  if s.time.held.isSome && !s.tokenOut then ok s (applyHeld s) else .next s

/-- HELD_CHANGE_LIMIT: 1 ms after the arrival of the first change held (R278). -/
def execHeldChangeLimit (s : State) : Host.Outcome State Fault Refusal :=
  match s.time.firstHeld with
  | some t => if t + msTicks ≤ s.dt then ok s { s with time := { s.time with tokensStopped := true } } else .next s
  | none => .next s

/-! ## Lock states (R279) -/

/-- SYNC_TIMEOUT. -/
def execSyncTimeout (s : State) : Host.Outcome State Fault Refusal :=
  let u := s.time
  let isOver := decide (u.lastMeasured.getD 0 + s.img.syncTimeout * secTicks ≤ s.dt)
  if u.state == .locked && isOver then ok s { s with time := ({ u with state := .holdover }).ppsGate } else .next s

/-- HOLDOVER_EXPIRE: HOLDOVER_MAX seconds after the last accepted measurement. -/
def execHoldoverExpire (s : State) : Host.Outcome State Fault Refusal :=
  let u := s.time
  let isOver := decide (u.lastAccepted.getD 0 + s.img.holdoverMax * secTicks ≤ s.dt)
  if (u.state == .holdover || u.state == .jump) && !u.holdoverOver && isOver then
    ok s { s with time := ({ u with holdoverOver := true }).ppsGate }
  else .next s

/-- ACCEPT_JUMP = 1: the next measurement is an initial set. -/
def acceptJump (s : State) : State := { s with time := { s.time with needInitial := true } }

/-- ACCEPT_JUMP (R279). -/
def execAcceptJump (s : State) : Host.Outcome State Fault Refusal := mainRow s acceptJump

/-! ## Reads (R272, R274) -/

/-- A network time as the words of SNAP_0 to SNAP_3. -/
def timeWords (t : Int) : List Word32 :=
  let n := ntBytes t
  [BitVec.ofNat 32 n, BitVec.ofNat 32 (n / 2 ^ 32), BitVec.ofNat 32 (bits n 64 32), BitVec.ofNat 32 (bits n 96 16)]

/-- SNAP = 1: network time and device time of one tick. -/
def timeSnap (s : State) : State :=
  { s with time := { s.time with snap := timeWords s.now ++ [BitVec.ofNat 32 s.dt, BitVec.ofNat 32 (s.dt / 2 ^ 32)] } }

/-- TIME_SNAP (R272). -/
def execTimeSnap (s : State) : Host.Outcome State Fault Refusal := mainRow s timeSnap

/-- A read of DT_LO latches DT_HI. -/
def readDtLo (s : State) : Word32 × State :=
  (BitVec.ofNat 32 s.dt, { s with time := { s.time with dtHi := BitVec.ofNat 32 (s.dt / 2 ^ 32) } })

/-- DT_LO_READ (R272). -/
def execDtLoRead (s : State) : Host.Outcome State Fault Refusal := readRow s readDtLo

/-- A read of RATE_LO latches RATE_HI. -/
def readRateLo (s : State) : Word32 × State :=
  let n := unsign s.time.rate 40
  (BitVec.ofNat 32 n, { s with time := { s.time with rateHi := BitVec.ofNat 32 (n / 2 ^ 32) } })

/-- RATE_LO_READ. -/
def execRateLoRead (s : State) : Host.Outcome State Fault Refusal := readRow s readRateLo

/-! ## PTP (R281 to R284) -/

def State.setPtp (s : State) (p : Ptp) : State := { s with time := { s.time with ptp := p } }

/-- A message outside Table 10-3 is discarded and counted (R281). -/
def ptpDiscard (s : State) : State :=
  s.setPtp { s.time.ptp with discarded := satInc s.time.ptp.discarded 0xFFFF }

/-- The data set `a` is better than `b`: the first difference is lower. -/
def betterMaster : List Nat → List Nat → Bool
  | x :: a, y :: b => decide (x < y) || (x == y && betterMaster a b)
  | _, _ => false

/-- Ticks of an interval of 2^l seconds. -/
def logTicks (l : Int) : Nat := if 0 ≤ l then secTicks * 2 ^ l.toNat else secTicks / 2 ^ (-l).toNat

/-- The status fields that the master of the active port gives. -/
def Ptp.follow (p : Ptp) (a : Announce) : Ptp :=
  let same := p.gmId == a.gmId && 8 ≤ p.portState
  let q := { p with
    gmId := a.gmId, logSync := a.logSync, utcOffset := a.utcOffset, utcValid := a.utcValid, ptpScale := a.ptpScale
    portState := if same then p.portState else 8 }
  if same then q else { q with t1 := none, t2 := none, t3 := none, awaitsFollowUp := false }

/-- The servo takes its offsets from PTP, and the sequencer runs. -/
def State.ptpRuns (s : State) : Bool := s.chip.mainRun && s.chip.imageApplied

/-- PTP_ANNOUNCE_RECEIVE (R275, R281, R282): the better master of the port is kept. -/
def execPtpAnnounceReceive (port : Nat) (msg : Announce) (s : State) : Host.Outcome State Fault Refusal :=
  if !s.ptpRuns || 2 ≤ port then .next s
  else if msg.domain ≠ s.img.domain || msg.version ≠ 2 then ok s (ptpDiscard s)
  else
    let p := s.time.ptp
    let best := match tabGet (p.masters.map fun x => (x.1, some x.2)) none port with
      | some (a, _) => a.gmId == msg.gmId || betterMaster msg.dataset a.dataset
      | none => true
    if !best then .next s
    else
      let q := { p with masters := tabSet p.masters port (msg, s.dt) }
      ok s (s.setPtp (if port = p.port then q.follow msg else q))

/-- The master of a port. -/
def Ptp.master (p : Ptp) (port : Nat) : Option (Announce × Nat) := (p.masters.find? fun x => x.1 == port).map (·.2)

/-- Ingress stamp of a frame captured at a tick (R283). -/
def State.ingress (s : State) (port tick : Nat) : Int :=
  s.time.ntAt ((tick : Int) - 44) + tabGet s.time.asym 0 port * ntNs / 10

/-- Egress stamp. -/
def State.egress (s : State) (tick : Nat) : Int := s.time.ntAt ((tick : Int) + 36)

/-- PTP_SYNC_RECEIVE (R283, R284): t2 from the Sync, t1 from the Sync or its Follow_Up; corrections are in 2^-16 ns. -/
def execPtpSyncReceive (port : Nat) (followUp twoStep : Bool) (domain : Nat) (origin : NetTime) (correction : Int)
    (ingressTick : Nat) (s : State) : Host.Outcome State Fault Refusal :=
  let p := s.time.ptp
  if !s.ptpRuns then .next s
  else if domain ≠ s.img.domain || !timeOk origin then ok s (ptpDiscard s)
  else if port ≠ p.port || (p.master port).isNone then .next s
  else
    let t1 := some (origin.units + correction)
    if followUp then (if p.awaitsFollowUp then ok s (s.setPtp { p with t1, awaitsFollowUp := false }) else ok s (ptpDiscard s))
    else
      let q := { p with t2 := some (s.ingress port ingressTick), t3 := none, awaitsFollowUp := twoStep }
      ok s (s.setPtp { q with t1 := if twoStep then none else t1 })

/-- PTP_DELAY_REQ_SEND (R281, R283): at the master's interval, never faster than 2^-7 s. -/
def execPtpDelayReqSend (port egressTick : Nat) (s : State) : Host.Outcome State Fault Refusal :=
  let p := s.time.ptp
  let due := match p.asked with
    | some t => decide (t + logTicks (max (-7) p.delayInterval) ≤ s.dt)
    | none => true
  if !s.ptpRuns || port ≠ p.port || (p.master port).isNone || p.t1.isNone || p.t2.isNone || !due then .next s
  else
    ok s ((s.setPtp { p with t3 := some (s.egress egressTick), asked := some s.dt }).emit
      (.siteFrame port "DELAY_REQ" [s.img.domain]))

/-- An exchange is complete: path and θ, gated by the least path of the last 16 exchanges (R284). -/
def exchange (s : State) (t1 t2 t3 t4 : Int) : State :=
  let p := s.time.ptp
  let path := ((t2 - t1) + (t4 - t3)) / 2
  let theta := ((t2 - t1) - (t4 - t3)) / 2
  let gated := p.paths.any (fun x => decide (x + 1000 * ntNs < path))
  let q := { p with t3 := none, paths := (path :: p.paths).take 16 }
  if gated then s.setPtp { q with gated := satInc p.gated 0xFFFF }
  else
    let s1 := s.setPtp { q with portState := 9 }
    let s2 := { s1 with time := { s1.time with servoPath := (openDiv path ntNs).toNat } }
    if s.img.hostTime then s2 else measureTime s2 theta

/-- PTP_DELAY_RESP_RECEIVE (R284). -/
def execPtpDelayRespReceive (port domain : Nat) (receive : NetTime) (correction logInterval : Int) (s : State) :
    Host.Outcome State Fault Refusal :=
  let p := s.time.ptp
  if !s.ptpRuns then .next s
  else if domain ≠ s.img.domain || !timeOk receive then ok s (ptpDiscard s)
  else if port ≠ p.port then .next s
  else
    match p.t1, p.t2, p.t3 with
    | some t1, some t2, some t3 =>
      ok s (exchange (s.setPtp { p with delayInterval := logInterval }) t1 t2 t3 (receive.units - correction))
    | _, _, _ => ok s (ptpDiscard s)

/-- PTP_ANNOUNCE_TIMEOUT (R281, R282): 3 announce intervals without an Announce on the active port; AUTO moves where the
other port has a master. -/
def execPtpAnnounceTimeout (s : State) : Host.Outcome State Fault Refusal :=
  let p := s.time.ptp
  let isOver := match p.master p.port with
    | some (a, t) => decide (t + 3 * logTicks a.logAnnounce ≤ s.dt)
    | none => true
  if !s.ptpRuns || !isOver then .next s
  else
    let other := 1 - p.port
    let q : Ptp := { p with masters := p.masters.filter fun x => x.1 != p.port, portState := 4, t1 := none, t2 := none
                            t3 := none, awaitsFollowUp := false }
    match (if s.img.portMode = 2 then p.master other else none) with
    | some (a, _) => ok s (s.setPtp (Ptp.follow { q with port := other } a))
    | none => ok s (s.setPtp q)

/-! ## PPS (R289, R290) -/

/-- The latest second whose edge lies at or before network time `t`. -/
def TimeUnit.ppsSecond (u : TimeUnit) (t : Int) : Int := (t - u.ppsOffset * ntNs) / ntSec

/-- Network time of the edge of second `n`. -/
def TimeUnit.ppsTime (u : TimeUnit) (n : Int) : Int := n * ntSec + u.ppsOffset * ntNs

/-- PPS_OUT_EDGE: this tick is the first at or after the time of a second that has not been marked (R285, R289). -/
def execPpsOutEdge (s : State) : Host.Outcome State Fault Refusal :=
  let u := s.time
  let n := u.ppsSecond s.now
  let t := u.ppsTime n
  let fresh := match u.ppsMarked with
    | some m => decide (m < n)
    | none => true
  if !s.chip.mainRun || !u.ppsAllowed || !fresh || decide (t ≤ u.ntAt ((s.dt : Int) - 1)) then .next s
  else ok s { s with time := { u with ppsOut := true, ppsMarked := some n, ppsFall := t + u.ppsWidth * 1000000 * ntNs } }

/-- PPS_OUT_FALL: after WIDTH ms of network time. -/
def execPpsOutFall (s : State) : Host.Outcome State Fault Refusal :=
  if s.time.ppsOut && decide (s.time.ppsFall ≤ s.now) then ok s { s with time := { s.time with ppsOut := false } } else .next s

/-- PPS_IN_EDGE: network time and device time of the edge (R290, R221). -/
def execPpsInEdge (s : State) : Host.Outcome State Fault Refusal :=
  if !s.chip.mainRun then .next s
  else
    let w := timeWords s.now
    let ws := [0, w.getD 0 0, w.getD 2 0, w.getD 3 0, BitVec.ofNat 32 s.dt]
    ok s { s with time := { s.time with ppsIn := s.time.ppsIn.complete ws } }

/-- PPS_IN_RESULT as a read gives it. -/
def readPpsIn (s : State) : Word32 × State :=
  (s.time.ppsIn.word, { s with time := { s.time with ppsIn := s.time.ppsIn.read } })

/-- PPS_IN_RESULT_READ (R290). -/
def execPpsInResultRead (s : State) : Host.Outcome State Fault Refusal := readRow s readPpsIn

/-- PPS_CONFIG is written (R289, R9): MODE and WIDTH are limited. -/
def ppsConfig (s : State) (value : Word32) : State :=
  let v := value.toNat
  { s with time := ({ s.time with
    ppsMode := min 2 (bits v 0 2), ppsWidth := clampNat 1 999 (bits v 2 10), ppsOffset := signed (bits v 12 20) 20 }).ppsGate }

end Sys2Proof.Machine
end

