-- ==== Sys2Proof/Machine/Registers.lean ====
section
/-! DEFINITION. The register space (R7, R9, R40 to R42, the register tables of every chapter) and the sideband window
(R469, R470): what a read of each register returns and what a write to it does. -/

namespace Sys2Proof.Machine

/-! ## Words -/

/-- A register word from its fields: low bit, width, value; a value beyond its field shows as the largest (saturating). -/
def regWord (l : List (Nat × Nat × Nat)) : Word32 :=
  BitVec.ofNat 32 (l.foldl (fun n x => n + 2 ^ x.1 * min x.2.2 (2 ^ x.2.1 - 1)) 0)

/-- The low 32 bits of a number. -/
def w32 (n : Nat) : Word32 := BitVec.ofNat 32 n

/-- A number's 32-bit word `m`, the lowest first. -/
def wordOf (n m : Nat) : Word32 := BitVec.ofNat 32 (n / 2 ^ (32 * m))

/-- Bytes as one little-endian number. -/
def leNat (l : List Byte) : Nat := bytesNat (l.map (·.toNat))

/-- A word of a list, 0 beyond its end. -/
def wordAt (l : List Word32) (m : Nat) : Word32 := l.getD m 0

/-- The bits of the numbers 0 to `n` - 1 that satisfy `p`. -/
def maskOf (n : Nat) (p : Nat → Bool) : Nat := bitsNat ((List.range n).map p)

def Shares.word (x : Shares) : Word32 := regWord [(0, 8, x.hold), (8, 8, x.p0), (16, 8, x.p1), (24, 8, x.p2)]
def Shares.p3 (x : Shares) : Nat := 256 - x.hold - x.p0 - x.p1 - x.p2

/-! ## Chip global (chapters "Start-up, image and identity", "Architecture") -/

def chipId : Word32 := 0x4B012620#32

def Chip.resetStatus (c : Chip) : Word32 := regWord [(0, 2, c.resetCause), (2, 16, c.resetCount)]

def Chip.certInfo (c : Chip) : Word32 :=
  regWord [(0, 10, c.otp.deviceLen), (10, 10, c.ownerCert.length), (20, 1, b2n c.ownerValid), (21, 1, b2n c.otp.ownerFused)]

def readGlobal (s : State) (o : Nat) : Word32 :=
  let c := s.chip
  let m := o / 4
  if o = 0x00 then chipId
  else if o = 0x04 then w32 s.readyNow
  else if o = 0x08 then c.readyEvent
  else if 0x10 ≤ o && o < 0x30 then w32 (maskOf 32 fun i => s.tileReady (32 * (m - 4) + i))
  else if o = 0x30 then regWord [(0, 4, c.imageResult), (4, 16, c.imageSection), (20, 12, c.imageRecord)]
  else if 0x40 ≤ o && o < 0x60 then wordOf c.image.hash.toNat (m - 16)
  else if o = 0x60 then c.resetStatus
  else if o = 0x68 then w32 c.otp.identity
  else if o = 0x6C then c.certInfo
  else if o = 0x70 then
    regWord [(0, 2, c.restartMode), (2, 7, c.restartApplied), (9, 7, c.restartReverted), (16, 11, c.restartConns)]
  else if o = 0x74 then regWord [(0, 16, c.strays.length)]
  else if 0x80 ≤ o && o < 0xA0 then wordOf c.digest.toNat (m - 32)
  else if o = 0xA0 then regWord [(0, 31, c.digestSerial), (31, 1, b2n c.digestCurrent)]
  else if o = 0x100 then Shares.word s.comma.linkShare
  else if o = 0x104 then Shares.word s.comma.loopShare
  else if o = 0x108 then
    regWord [(0, 8, Shares.p3 s.comma.linkShare), (8, 8, Shares.p3 s.comma.loopShare), (16, 1, b2n s.comma.shareErr),
             (17, 1, b2n (s.comma.pendingLink.isSome || s.comma.pendingLoop.isSome))]
  else if o = 0x10C then w32 s.commaNo
  else if o = 0x110 then
    w32 (maskOf 16 (fun n => (s.region n).fenced) + 2 ^ 16 * maskOf 16 fun n => !(regionTiles s.img n).isEmpty)
  else if 0x200 ≤ o && o < 0x2C8 then wordOf c.digestRec (m - 128)
  else if 0x1000 ≤ o && o < 0x1280 then wordOf (leNat c.otp.deviceCert) (m - 0x400)
  else if 0x1400 ≤ o && o < 0x1680 then wordOf (leNat c.ownerCert) (m - 0x500)
  else 0

def writeGlobal (s : State) (o : Nat) (v : Word32) : State :=
  if o = 0x08 then { s with chip := { s.chip with readyEvent := s.chip.readyEvent &&& ~~~v } }
  else if o = 0x64 then resetCtrl s v
  else if o = 0x100 then writeLinkShare s v
  else if o = 0x104 then writeLoopShare s v
  else if o = 0x108 then
    { s with comma := { s.comma with shareErr := s.comma.shareErr && !bit v.toNat 16 } }
  else s

/-! ## Fault collector (chapter "Faults and recovery") -/

/-- The 32 bytes of a fault record as a number (Table 16-2); a record that has no SEQ yet shows all ones there. -/
def FaultRec.bytes (f : FaultRec) : Nat :=
  f.time % 2 ^ 64 + 2 ^ 64 * f.seq.getD 0xFFFFFFFF + 2 ^ 96 * f.code + 2 ^ 112 * f.source
    + 2 ^ 128 * (f.severity + 4 * b2n f.simul + 8 * b2n f.injected + 16 * b2n f.frozen + 32 * b2n f.cleared)
    + 2 ^ 144 * f.count + 2 ^ 160 * (f.detail0 % 2 ^ 32) + 2 ^ 192 * (f.detail1 % 2 ^ 32) + 2 ^ 224 * f.timeLast

/-- The record that FAULT_SEL names, and FAULT_LOC. -/
def Faults.selected (u : Faults) : Option FaultRec × Nat :=
  match u.log.find? fun f => f.seq = some u.sel with
  | some f => (some f, 0)
  | none => match u.spill.find? fun f => f.seq = some u.sel with
    | some f => (some f, 1)
    | none =>
      if u.log.isEmpty || decide (2 ^ 31 ≤ (u.nextSeq + 2 ^ 32 - 1 - u.sel) % 2 ^ 32) then (none, 3) else (none, 2)

def Faults.uncleared (u : Faults) : Word32 := regWord [(0, 10, u.unclear1), (10, 10, u.unclear2), (20, 10, u.unclear3)]

def readFault (s : State) (o : Nat) : Word32 :=
  let u := s.faults
  if o = 0x00 then w32 u.errLevel
  else if o = 0x04 then regWord [(0, 1, b2n u.safeState), (1, 1, b2n u.errActive), (2, 1, b2n u.firstValid)]
  else if o = 0x08 then u.uncleared
  else if o = 0x0C then w32 u.first
  else if o = 0x10 then w32 u.last
  else if o = 0x18 then w32 u.sel
  else if o = 0x1C then w32 u.selected.2
  else if 0x20 ≤ o && o < 0x40 then
    match u.selected.1 with
    | some f => wordOf f.bytes (o / 4 - 8)
    | none => 0
  else if o = 0x40 then regWord [(0, 16, u.spilled), (16, 16, u.dropped)]
  else if o = 0x44 then w32 u.safeSeq
  else if o = 0x50 then
    regWord [(0, 3, u.injTarget), (3, 1, b2n u.injReact), (4, 1, b2n u.injDouble), (8, 8, u.injUnit),
             (17, 1, b2n u.injBusy.isSome), (18, 1, b2n u.injErr)]
  else if o = 0x54 then u.injAddr0
  else if o = 0x58 then u.injAddr1
  else 0

/-- A write of FAULT_CONFIG: 0 becomes 1 (R9). -/
def faultConfig (s : State) (v : Word32) : State :=
  let l := bits v.toNat 0 2
  { s with faults := { s.faults with errLevel := max 1 l, injErr := s.faults.injErr || l == 0 } }

/-- A write of FAULT_INJECT: INJ_ERR is cleared where its bit is 1; then the fields, and the injection with GO. -/
def faultInject (s : State) (v : Word32) (viaSideband : Bool) : State :=
  let n := v.toNat
  let t := bits n 0 3
  let u := bits n 8 8
  let s1 := { s with faults := { s.faults with injErr := s.faults.injErr && !bit n 18 } }
  if bit n 16 then inject s1 t u (bit n 4) (bit n 3) viaSideband
  else
    { s1 with faults := { s1.faults with
      injTarget := t, injReact := bit n 3, injDouble := bit n 4, injUnit := min u (unitTop t)
      injErr := s1.faults.injErr || decide (unitTop t < u) } }

def writeFault (s : State) (o : Nat) (v : Word32) (viaSideband : Bool) : State :=
  if o = 0x00 then faultConfig s v
  else if o = 0x04 then if bit v.toNat 2 then firstClear s else s
  else if o = 0x14 then faultClear s v.toNat
  else if o = 0x18 then { s with faults := { s.faults with sel := v.toNat } }
  else if o = 0x50 then faultInject s v viaSideband
  else if o = 0x54 then { s with faults := { s.faults with injAddr0 := v } }
  else if o = 0x58 then { s with faults := { s.faults with injAddr1 := v } }
  else s

/-! ## Time unit (chapter "Network time") -/

def TimeState.code : TimeState → Nat
  | .free => 0
  | .acquiring => 1
  | .locked => 2
  | .holdover => 3
  | .jump => 4

def readTime (s : State) (o : Nat) : Word32 :=
  let u := s.time
  let i := s.img
  if o = 0x00 then
    regWord [(0, 3, u.state.code), (3, 1, b2n u.locked), (4, 1, b2n u.timeJump), (5, 1, b2n u.rateClamp), (6, 1, u.ptp.port),
             (7, 1, b2n u.held.isSome)]
  else if o = 0x08 then w32 s.dt
  else if o = 0x0C then u.dtHi
  else if 0x10 ≤ o && o < 0x28 then wordAt u.snap (o / 4 - 4)
  else if o = 0x30 then regWord [(0, 16, i.kp), (16, 16, i.ki)]
  else if o = 0x34 then regWord [(0, 20, i.jumpLimit), (20, 10, i.rateMax), (30, 1, b2n i.hostTime)]
  else if o = 0x38 then regWord [(0, 20, i.stepThresh)]
  else if o = 0x3C then regWord [(0, 8, i.lockCount), (8, 12, i.unlockThresh), (20, 6, i.syncTimeout), (26, 6, i.holdoverMax)]
  else if o = 0x40 then w32 (unsign u.rate 40)
  else if o = 0x44 then u.rateHi
  else if o = 0x48 then w32 (unsign u.servoOffset 32)
  else if o = 0x4C then w32 u.servoPath
  else if o = 0x54 then regWord [(0, 16, u.steps), (16, 16, u.jumps)]
  else if o = 0x58 then regWord [(0, 16, u.heldCount), (16, 16, u.tokenWaits)]
  else if o = 0x5C then regWord [(0, 16, i.lockThresh)]
  else if o = 0x60 then regWord [(0, 2, u.ppsMode), (2, 10, u.ppsWidth), (12, 20, unsign u.ppsOffset 20)]
  else if o = 0x70 then u.ppsIn.word
  else if 0x74 ≤ o && o < 0x80 then wordAt u.ppsIn.snap (o / 4 - 28)
  else 0

/-- The PTP registers and TRIG_STATUS. Offset 0x80 is both PTP_CONFIG and PPS_IN_3 in the register tables; PTP_CONFIG is shown
there (DESIGN CHOICE, assumption log 36). -/
def readPtp (s : State) (o : Nat) : Word32 :=
  let p := s.time.ptp
  if o = 0x80 then regWord [(0, 2, s.img.portMode), (2, 8, s.img.domain)]
  else if o = 0x84 then
    regWord [(0, 4, p.portState), (4, 8, unsign p.logSync 8), (12, 16, unsign p.utcOffset 16), (28, 1, b2n p.utcValid),
             (29, 1, b2n p.ptpScale)]
  else if o = 0x88 then wordOf p.gmId 0
  else if o = 0x8C then wordOf p.gmId 1
  else if o = 0x90 then regWord [(0, 16, p.discarded), (16, 16, p.gated)]
  else if o = 0x94 then regWord [(0, 7, s.timedFrames.length), (16, 16, s.time.dalovoLate)]
  else readTime s o

def writeTime (s : State) (o : Nat) (v : Word32) : State :=
  if o = 0x00 then { s with time := { s.time with rateClamp := s.time.rateClamp && !bit v.toNat 5 } }
  else if o = 0x04 then
    let s1 := if bit v.toNat 0 then timeSnap s else s
    if bit v.toNat 1 then acceptJump s1 else s1
  else if o = 0x50 then servoFeed s v
  else if o = 0x60 then ppsConfig s v
  else s

/-! ## Light-safety unit (chapter "Light safety") -/

def readSafety (s : State) (o : Nat) : Word32 :=
  let u := s.lsu
  if o = 0x00 then w32 u.statusWord
  else if o = 0x04 then w32 u.ilkWord
  else if o = 0x08 then w32 (u.lenWord s.dt)
  else if o = 0x0C then w32 u.tpWord
  else if o = 0x10 then w32 u.rcWord
  else if o = 0x14 then regWord [(0, 8, u.cntCrc), (8, 8, u.cntSeq), (16, 8, u.cntIdent), (24, 8, u.cntWd)]
  else if o = 0x18 then u.check
  else if o = 0x1C then u.committed
  else if o = 0x28 then w32 (maskOf 4 fun k => (s.len k).forceOff)
  else if 0x40 ≤ o && o < 0xB0 then w32 (u.word (o / 4 - 16))
  else 0

/-- A write through the sideband window. A write that is no step of the key sequence closes the key (R387). -/
def writeSafety (s : State) (o : Nat) (v : Word32) : State :=
  if o = 0x1C then safeCommit s v
  else if o = 0x20 then safeKey s v
  else if o = 0x24 then safeAck s v
  else if o = 0x28 then lenForceOff s v
  else if o = 0x00 then
    let s1 := dropKey s
    { s1 with lsu := { s1.lsu with
      commitErr := s1.lsu.commitErr && !bit v.toNat 4, recordErr := s1.lsu.recordErr && !bit v.toNat 5 } }
  else dropKey s

/-! ## Housekeeping (chapter "Temperature, ADC and DAC") -/

def readHouse (s : State) (o : Nat) : Word32 :=
  let u := s.house
  let k := o / 4
  if o < 0x44 then
    let t := tabGet u.temps {} k
    regWord [(0, 12, unsign t.reading 12), (12, 1, b2n t.valid), (13, 3, t.band), (16, 12, unsign (t.max.getD 0) 12)]
  else if o = 0x44 then
    regWord [(0, 12, unsign u.hottest 12), (12, 5, u.hotSrc), (17, 1, b2n u.warn), (18, 1, b2n u.throttle),
             (19, 1, b2n u.shutdown), (20, 3, u.centralBand)]
  else if o = 0x48 then regWord [(0, 16, u.throttles), (16, 16, u.sensorFails)]
  else if o = 0x100 then regWord [(0, 1, b2n u.adcRun), (1, 5, u.adcLast)]
  else if 0x140 ≤ o && o < 0x1C0 then
    let e := s.adcEntry (k - 0x50)
    let (i, r, lo, hi) := e.next.getD (e.input.getD (k - 0x50), e.ref, e.low, e.high)
    regWord [(0, 6, i), (6, 2, r), (8, 12, lo), (20, 12, hi)]
  else if 0x1C0 ≤ o && o < 0x240 then
    let e := s.adcEntry (k - 0x70)
    regWord [(0, 12, e.code), (12, 1, b2n e.settling), (13, 1, b2n e.window)]
  else if o = 0x240 then w32 (maskOf 32 fun e => (s.adcEntry e).alarm)
  else if o = 0x244 then regWord [(0, 6, u.urgInput), (6, 2, u.urgRef), (9, 1, b2n u.urgBusy), (10, 1, b2n u.urgTrigLost)]
  else if o = 0x248 then u.urgResult.word
  else if 0x300 ≤ o && o < 0x340 then
    let c := (o - 0x300) / 16
    let d := s.dac c
    match o / 4 % 4 with
    | 0 => regWord [(0, 1, b2n d.sine), (1, 1, b2n d.gain2), (2, 1, b2n d.refPin), (3, 1, b2n d.toCal),
                    (4, 1, b2n (s.dacCleared c)), (5, 1, b2n d.busConflict), (16, 16, d.code)]
    | 1 => w32 d.clear
    | 2 => w32 d.ftw
    | _ => regWord [(0, 16, d.center), (16, 15, d.ampl)]
  else 0

def writeHouse (s : State) (o : Nat) (v : Word32) : State :=
  let n := v.toNat
  if o = 0x100 then adcCtrl s v
  else if 0x140 ≤ o && o < 0x1C0 then adcSeq s (o / 4 - 0x50) v
  else if o = 0x240 then
    (List.range 32).foldl (fun (s : State) e => if bit n e then s.setAdcEntry e { s.adcEntry e with alarm := false } else s) s
  else if o = 0x244 then adcUrgent s v
  else if 0x300 ≤ o && o < 0x340 then
    let c := (o - 0x300) / 16
    match o / 4 % 4 with
    | 0 => dacCtrl s c v
    | 1 => s.setDac c { s.dac c with clear := bits n 0 16 }
    | 2 => s.setDac c { s.dac c with ftw := n }
    | _ => s.setDac c { s.dac c with center := bits n 0 16, ampl := bits n 16 15 }
  else s

/-! ## Calibration manager (chapter "Calibration") -/

def readCalib (s : State) (o : Nat) : Word32 :=
  let i := s.img
  let u := s.calib
  let e := u.elemSel
  let x := s.elem e
  if o = 0x00 then regWord [(0, 8, i.calDelta), (8, 8, i.calDeltaCh), (16, 6, i.calSlew), (22, 8, i.plaus)]
  else if o = 0x04 then regWord [(0, 5, i.calPoints), (5, 11, i.calStep), (16, 8, i.calDwell), (24, 8, i.calResid)]
  else if o = 0x08 then
    regWord [(0, 1, b2n u.setValid), (1, 1, b2n u.saveBusy.isSome), (2, 1, b2n u.exportBusy.isSome), (3, 11, u.badBlocks)]
  else if o = 0x0C then w32 u.version
  else if o = 0x10 then
    let q := u.runs.filter fun r => !r.running
    regWord [(0, 19, (q.filter fun r => r.kind != .channel).length), (19, 9, (q.filter fun r => r.kind == .channel).length)]
  else if o = 0x14 then regWord [(0, 16, u.passed), (16, 16, u.failed)]
  else if o = 0x18 then regWord [(0, 16, u.aborted), (16, 16, u.deferred)]
  else if o = 0x20 then w32 e
  else if o = 0x24 then
    if s.img.placedEid e then
      let slewing := x.inUse.onBase != x.goal.onBase || x.inUse.offBase != x.goal.offBase
      regWord [(0, 2, x.calFails), (2, 1, b2n (u.runs.any fun r => !r.running && r.kind != .channel && r.target == e)),
               (3, 1, b2n slewing), (4, 11, unsign x.calLastTemp 11), (15, 4, x.calLast), (31, 1, 1)]
    else 0
  else if o = 0x28 then regWord [(0, 16, x.inUse.invSlope), (16, 16, x.inUse.pullIn)]
  else 0

def writeCalib (s : State) (o : Nat) (v : Word32) : State :=
  if o = 0x20 then { s with calib := { s.calib with elemSel := bits v.toNat 0 18 } } else s

/-! ## SMU engine (chapter "Source-measure engine") -/

def readSmu (s : State) (o : Nat) : Word32 :=
  let i := s.img
  let m := s.smu
  let r := m.ref m.refSel1
  let snap := fun (x : Result) (k : Nat) => wordAt x.snap k
  if o = 0x00 then regWord [(0, 16, unsign i.portBias 16), (16, 8, i.portDown), (24, 8, i.portDecim)]
  else if o = 0x04 then regWord [(0, 8, i.actMargin), (8, 7, i.uncalVmax)]
  else if o = 0x08 then
    regWord [(0, 9, (m.lists.filter fun p => !p.2.isEmpty).length), (9, 9, (m.runs.filter fun p => p.2.isSome).length),
             (18, 1, b2n (m.bus != .nobody)), (27, 1, b2n m.busFault),
             (19, 8, match m.bus with
               | .nobody => 0
               | .manager t _ => t
               | .request t _ => t)]
  else if o = 0x0C then regWord [(0, 16, m.compliance), (16, 16, m.rangeChanges)]
  else if 0x100 ≤ o && o < 0x200 then w32 (maskOf 32 fun b => (s.monitor (32 * (o / 4 - 64) + b)).los)
  else if o = 0x200 then regWord [(0, 10, m.portSel), (10, 1, b2n m.portSelIn)]
  else if o = 0x204 then if s.portSelMonitor.isSome then m.portResult.word else 0
  else if o = 0x208 then snap m.portResult 1
  else if o = 0x300 then regWord [(0, 18, m.ssTarget), (18, 1, b2n m.ssActuator)]
  else if o = 0x304 then regWord [(1, 1, b2n m.ssRun.isSome), (2, 1, b2n m.ssTrigLost)]
  else if 0x310 ≤ o && o < 0x320 then wordAt m.ssPoint (o / 4 - 0xC4)
  else if o = 0x320 then m.ssResult.word
  else if o = 0x324 then snap m.ssResult 1
  else if o = 0x328 then snap m.ssResult 2
  else if o = 0x400 then
    regWord [(0, 1, b2n m.refSel1), (1, 1, b2n r.forceEn), (2, 1, b2n r.measureCurrent), (3, 2, r.range), (5, 1, b2n r.connect)]
  else if o = 0x404 then w32 (unsign r.force 32)
  else if o = 0x408 then (readRefResult s).1
  else if o = 0x40C then snap m.refResult 1
  else if o = 0x410 then
    regWord [(0, 8, m.busTile), (8, 4, m.busChannel), (12, 1, b2n m.busRequest), (13, 1, match m.bus with
      | .request _ _ => 1
      | _ => 0)]
  else 0

/-- A write of REF_FORCE for the selected channel (R9). -/
def refForce (s : State) (v : Word32) : State :=
  let f := clampInt (-12000000) 12000000 v.toInt
  { s with smu := { s.smu.setRef s.smu.refSel1 { s.smu.ref s.smu.refSel1 with force := f } with
    refConflict := s.smu.refConflict || f != v.toInt } }

def writeSmu (s : State) (o : Nat) (v : Word32) : State :=
  let n := v.toNat
  let m := s.smu
  if o = 0x08 then { s with smu := { m with busFault := m.busFault && !bit n 27 } }
  else if o = 0x200 then selectPort s v
  else if o = 0x300 then { s with smu := { m with ssTarget := bits n 0 18, ssActuator := bit n 18 } }
  else if o = 0x304 then
    let s1 := { s with smu := { m with ssTrigLost := m.ssTrigLost && !bit n 2 } }
    if bit n 0 then ssGo s1 else s1
  else if 0x310 ≤ o && o < 0x320 then { s with smu := { m with ssPoint := m.ssPoint.set (o / 4 - 0xC4) v } }
  else if o = 0x400 then refCtrl s v
  else if o = 0x404 then refForce s v
  else if o = 0x408 then
    { s with smu := { m with refConflict := m.refConflict && !bit n 12, refTrigLost := m.refTrigLost && !bit n 13 } }
  else if o = 0x410 then busCtrl s v
  else s

/-! ## Route and placement engines, clause store (chapters "Routing and placement", "Clauses, sentences and paragraphs",
"Switch timing and the P0 latency bound") -/

def readRoute (s : State) (o : Nat) : Word32 :=
  let t := s.store
  if o = 0x00 then
    regWord [(0, 2, s.chip.fabClass), (2, 2, s.img.stages), (4, 11, s.chip.closN), (15, 9, s.chip.closM), (24, 8, t.ptr)]
  else if o = 0x04 then regWord [(0, 6, s.img.maxMoves), (8, 8, s.img.ilDefault)]
  else if o = 0x08 then w32 t.routed
  else if o = 0x0C then regWord [(0, 16, t.noRoute), (16, 16, t.needsRearrange)]
  else if o = 0x10 then regWord [(0, 16, t.moves)]
  else if o = 0x14 then regWord [(0, 16, t.reroutes), (16, 16, t.reroutesFailed)]
  else 0

def readPlace (s : State) (o : Nat) : Word32 :=
  let i := s.img
  let l := s.loops
  let e := l.placeEid
  let x := s.elem e
  if o = 0x00 then regWord [(0, 6, i.placeBanks), (6, 8, i.promoteTime), (16, 16, i.demoteTime)]
  else if o = 0x04 then regWord [(0, 12, i.overrunPin), (12, 8, i.fastReserve)]
  else if o = 0x08 then regWord [(0, 8, i.balHigh), (8, 8, i.balTarget)]
  else if 0x10 ≤ o && o < 0x1C then w32 (l.elems.filter fun p => i.placedEid p.1 && p.2.tier == o / 4 - 4).length
  else if 0x20 ≤ o && o < 0x34 then w32 (l.elems.filter fun p => i.placedEid p.1 && bit (s.pins p.1) (o / 4 - 8)).length
  else if o = 0x40 then regWord [(0, 16, l.misses), (16, 16, l.overrunPins)]
  else if o = 0x44 then w32 e
  else if o = 0x48 then
    if i.placedEid e then
      regWord [(0, 2, x.tier), (2, 5, if x.tier = 1 then x.bank else 0), (7, 4, (s.cellOf e).getD 0), (11, 5, s.pins e),
               (16, 8, s.ilEst e), (31, 1, 1)]
    else 0
  else 0

def readClauses (s : State) (o : Nat) : Word32 :=
  let t := s.store
  let i := s.img
  let x := s.sent t.selSentence
  let p := s.para t.selPara
  if o = 0x00 then regWord [(0, 16, i.commitLead), (16, 14, i.prepLead), (30, 1, b2n i.schedSuspend)]
  else if o = 0x04 then
    let n := fun (f : SentState → Bool) => (t.sentences.filter fun q => f q.2.state).length
    regWord [(0, 13, n (· != .free)), (13, 9, n fun a => a == .armed || a == .stale), (22, 9, s.schedCount)]
  else if o = 0x08 then regWord [(0, 21, s.clauseCount)]
  else if o = 0x0C then regWord [(0, 16, t.lateCancels), (16, 8, t.staleFires), (24, 8, t.ignoredTriggers)]
  else if o = 0x10 then regWord [(0, 12, t.selSentence), (16, 6, t.selPara)]
  else if o = 0x14 then
    regWord [(0, 3, x.state.code), (3, 1, b2n (s.locked t.selSentence)), (4, 1, b2n x.rearm), (5, 11, x.clauses.length),
             (16, 8, x.pgroup), (24, 8, x.lastStatus)]
  else if o = 0x18 then regWord [(0, 16, x.lastSerial.toNat), (16, 11, x.lastApplied)]
  else if 0x40 ≤ o && o < 0xC0 then wordOf (bitsNat x.bitmap) (o / 4 - 16)
  else if o = 0xC0 then regWord [(0, 2, p.state.code), (2, 8, p.step), (10, 16, p.iter)]
  else if o = 0x100 then regWord [(0, 16, 840), (16, 4, 8)]
  else if o = 0x104 then regWord [(0, 16, t.p0Fires), (16, 16, t.p0BoundLost)]
  else if o = 0x108 then regWord [(0, 12, t.p0Last), (16, 12, t.p0Max)]
  else if o = 0x10C then w32 (bitsNat t.p0Cause)
  else if o = 0x200 then w32 s.chip.connSel
  else if o = 0x204 then
    match s.conn s.chip.connSel with
    | some c =>
      regWord [(0, 1, 1), (1, 1, b2n (s.chip.restored.contains s.chip.connSel && c.handle == 0xFFF)), (4, 12, c.handle),
               (16, 16, c.serial.toNat)]
    | none => 0
  else if 0x210 ≤ o && o < 0x220 then
    match s.conn s.chip.connSel with
    | some c => wordOf c.clause.toNat (o / 4 - 0x84)
    | none => 0
  else 0

/-- CLEAR_MAX of P0_LATENCY. -/
def clearP0Max (s : State) : State := { s with store := { s.store with p0Max := 0 } }

/-- P0_LATENCY_CLEAR_MAX (R190). -/
def execP0LatencyClearMax (s : State) : Host.Outcome State Fault Refusal := mainRow s clearP0Max

def writePlace (s : State) (o : Nat) (v : Word32) : State :=
  if o = 0x44 then { s with loops := { s.loops with placeEid := bits v.toNat 0 18 } } else s

def writeClauses (s : State) (o : Nat) (v : Word32) : State :=
  let n := v.toNat
  let t := s.store
  if o = 0x10 then { s with store := { t with selSentence := bits n 0 12, selPara := bits n 16 6 } }
  else if o = 0x108 then if bit n 31 then clearP0Max s else s
  else if o = 0x10C then
    { s with store := { t with p0Cause := (List.range 5).map fun i => t.p0Cause.getD i false && !bit n i } }
  else if o = 0x200 then { s with chip := { s.chip with connSel := bits n 0 10 } }
  else s

/-! ## Verb queues (chapter "Host interface and verb queues") -/

def QState.code : QState → Nat
  | .disabled => 0
  | .running => 1
  | .draining => 2
  | .error => 3

/-- A configuration register of queue `q`. -/
def readQueue (s : State) (q r : Nat) : Word32 :=
  let x := s.queue q
  match r with
  | 0 => wordOf x.sqBase 0
  | 1 => wordOf x.sqBase 1
  | 2 => wordOf x.cqBase 0
  | 3 => wordOf x.cqBase 1
  | 4 => wordOf x.eqBase 0
  | 5 => wordOf x.eqBase 1
  | 6 => regWord [(0, 4, x.size), (4, 4, x.eqSize)]
  | 7 => regWord [(0, 1, b2n x.enable), (1, 1, b2n x.sysEvents), (2, 1, b2n x.fireOnly)]
  | 8 => regWord [(0, 12, x.sqHead), (12, 2, x.state.code), (14, 4, x.errCode), (18, 1, b2n x.eqOverflow), (19, 1, b2n x.cfgErr)]
  | 9 => regWord [(0, 8, x.cqCount), (8, 8, x.eqCount), (16, 16, x.time)]
  | 10 => regWord [(0, 16, x.lost), (16, 13, s.inflight q)]
  | _ => 0

/-- A DWORD of the MSI-X table, in its standard layout (R295): address, data, vector control with Mask in bit 0. -/
def readMsix (s : State) (v r : Nat) : Word32 :=
  match r with
  | 0 => wordOf (tabGet s.host.msixAddr 0 v) 0
  | 1 => wordOf (tabGet s.host.msixAddr 0 v) 1
  | 2 => w32 (tabGet s.host.msixData 0 v)
  | _ => w32 (b2n !(tabGet s.host.msixUnmasked false v))

/-- A write to it: a pending vector that is unmasked is sent. -/
def writeMsix (s : State) (v r : Nat) (w : Word32) : State :=
  let h := s.host
  let a := tabGet h.msixAddr 0 v
  match r with
  | 0 => { s with host := { h with msixAddr := tabSet h.msixAddr v (a / 2 ^ 32 * 2 ^ 32 + w.toNat / 4 * 4) } }
  | 1 => { s with host := { h with msixAddr := tabSet h.msixAddr v (a % 2 ^ 32 + 2 ^ 32 * w.toNat) } }
  | 2 => { s with host := { h with msixData := tabSet h.msixData v w.toNat } }
  | _ =>
    let open_ := !bit w.toNat 0
    let s1 := { s with host := { h with msixUnmasked := tabSet h.msixUnmasked v open_ } }
    if open_ && tabGet h.msixPending false v && h.msixEn && s.canMaster then
      State.emit { s1 with host := { s1.host with msixPending := tabSet h.msixPending v false } } (.msix v)
    else s1

def readHost (s : State) (o : Nat) : Word32 :=
  let h := s.host
  if o < 0x80 then
    let x := s.queue (o / 16)
    match o / 4 % 4 with
    | 0 => w32 x.sqTail
    | 1 => w32 x.cqHead
    | 2 => w32 x.eqHead
    | _ => 0
  else if 0x1000 ≤ o && o < 0x1200 then readQueue s ((o - 0x1000) / 64) (o % 64 / 4)
  else if o = 0x2000 then
    regWord [(0, 3, h.speed), (3, 3, h.width), (6, 1, b2n h.bme), (7, 1, b2n h.msixEn), (8, 8, h.flrCount),
             (16, 16, h.apertureDenied)]
  else if 0x3000 ≤ o && o < 0x3400 then readMsix s ((o - 0x3000) / 16) (o / 4 % 4)
  else if o = 0x3800 || o = 0x3804 then w32 (maskOf 32 fun i => tabGet h.msixPending false (8 * (o - 0x3800) + i))
  else 0

def writeHost (s : State) (o : Nat) (v : Word32) : State :=
  if o < 0x80 then
    match o / 4 % 4 with
    | 0 => sqTail s (o / 16) (bits v.toNat 0 16)
    | 1 => cqHead s (o / 16) (bits v.toNat 0 16)
    | 2 => eqHead s (o / 16) (bits v.toNat 0 16)
    | _ => s
  else if o = 0x800 then doorbell s v
  else if 0x1000 ≤ o && o < 0x1200 then queueConfig s ((o - 0x1000) / 64) (o % 64 / 4) v
  else if 0x3000 ≤ o && o < 0x3400 then writeMsix s ((o - 0x3000) / 16) (o / 4 % 4) v
  else s

/-! ## DMA, banks, matrix, DDR (chapter "DMA, memory banks, DDR and the bus matrix") -/

def DmaState.code : DmaState → Nat
  | .idle => 0
  | .running => 1
  | .halted => 2
  | .dropped => 3

def readChan (s : State) (c r : Nat) : Word32 :=
  let x := s.chan c
  match r with
  | 0 => wordOf x.src 0
  | 1 => wordOf x.src 1
  | 2 => wordOf x.dst 0
  | 3 => wordOf x.dst 1
  | 4 => regWord [(0, 24, x.count0), (24, 2, x.esize)]
  | 5 => regWord [(0, 16, x.count1), (16, 16, x.count2)]
  | 12 => regWord [(0, 1, b2n x.enable), (3, 2, x.srcSpace), (5, 2, x.dstSpace), (7, 1, b2n x.ns)]
  | 13 => regWord [(0, 2, x.state.code), (2, 1, b2n x.done), (3, 1, b2n x.cfgErr), (4, 1, b2n x.errWrite), (5, 3, x.errCause)]
  | 14 => x.pos0
  | 15 => x.pos1
  | 16 => x.errAddr0
  | 17 => x.errAddr1
  | _ => if r < 12 then wordAt x.steps (r - 6) else 0

def readDma (s : State) (o : Nat) : Word32 :=
  if o < 0x800 then readChan s (o / 128) (o % 128 / 4)
  else if o = 0x800 then
    w32 (maskOf 16 (fun c => (s.chan c).state == .running) + 2 ^ 16 * b2n s.mem.dmaDisable)
  else 0

def writeDma (s : State) (o : Nat) (v : Word32) : State :=
  let n := v.toNat
  if o < 0x800 then
    let c := o / 128
    let r := o % 128 / 4
    let x := s.chan c
    if r < 12 then dmaReg s c r v
    else if r = 12 then dmaCtrl s c v
    else if r = 13 then s.setChan c { x with done := x.done && !bit n 2, cfgErr := x.cfgErr && !bit n 3 }
    else s
  else if o = 0x800 then
    if bit n 16 then dmaGlobal s else { s with mem := { s.mem with dmaDisable := false } }
  else s

def Power.code : Power → Nat
  | .on => 0
  | .retain => 1
  | .off => 2

/-- Default priority of a master of Table 13-4 (MX_PRIO). -/
def defaultPrio (m : Nat) : Nat :=
  if m < 16 then 15 else [4, 8, 9, 13, 12, 10].getD (m - 16) 0

def readBanks (s : State) (o : Nat) : Word32 :=
  let k := o / 4
  let m := s.mem
  if o < 0x80 then
    let b := s.bank k
    regWord [(0, 3, b.owner), (3, 1, b2n b.pendingOwner.isSome)]
  else if o < 0x100 then
    let b := s.bank (k - 32)
    regWord [(0, 2, b.power.code), (2, 1, b2n b.rotate), (4, 1, b2n b.initEnd.isSome), (5, 1, b2n b.pendingPower.isSome)]
  else if o < 0x180 then
    let b := s.bank (k - 64)
    regWord [(0, 8, b.ce), (8, 8, b.ue), (16, 16, b.collides)]
  else if o = 0x180 then regWord [(0, 1, b2n m.ownErr), (1, 1, b2n m.powerErr)]
  else if o = 0x200 then regWord [(0, 5, m.mxMaster), (8, 6, m.mxTarget)]
  else if o = 0x204 then
    match tabGet m.mxPrio 0 (64 * m.mxMaster + m.mxTarget) with
    | 0 => w32 (defaultPrio m.mxMaster)
    | p + 1 => w32 p
  else if o = 0x208 then w32 m.mxAge
  else if o = 0x20C then regWord [(0, 16, s.matrix.holds), (16, 16, s.matrix.aborts)]
  else if o = 0x210 then
    let a := s.matrix.abort
    regWord [(0, 5, a.master), (5, 1, b2n a.write), (8, 6, a.target), (14, 6, a.landed), (20, 6, a.planned), (31, 1, b2n a.valid)]
  else 0

def writeBanksReg (s : State) (o : Nat) (v : Word32) : State :=
  let n := v.toNat
  let m := s.mem
  if o < 0x80 then bankOwner s (o / 4) v
  else if o < 0x100 then bankCfg s (o / 4 - 32) v
  else if o = 0x180 then { s with mem := { m with ownErr := m.ownErr && !bit n 0, powerErr := m.powerErr && !bit n 1 } }
  else if o = 0x200 then
    let a := bits n 0 5
    let b := bits n 8 6
    { s with mem := { m with mxMaster := min 21 a, mxTarget := min 35 b, ownErr := m.ownErr || decide (21 < a) || decide (35 < b) } }
  else if o = 0x204 then
    if m.mxMaster < 16 then s
    else { s with mem := { m with mxPrio := tabSet m.mxPrio (64 * m.mxMaster + m.mxTarget) (bits n 0 4 + 1) } }
  else if o = 0x208 then
    { s with mem := { m with mxAge := max 16 (bits n 0 16), ownErr := m.ownErr || decide (bits n 0 16 < 16) } }
  else s

def readDdr (s : State) (o : Nat) : Word32 :=
  let i := s.img
  let st := fun (c : DdrChan) => regWord [(0, 1, b2n c.trained), (1, 7, c.capacity)]
  let er := fun (c : DdrChan) => regWord [(0, 16, c.ce), (16, 16, c.ue)]
  if o = 0x00 then
    regWord [(0, 3, i.ddrSpeed), (3, 1, i.ddrRanks), (4, 2, i.ddrDensity), (6, 1, i.ddrWidth), (7, 5, i.ddrHostGib)]
  else if o = 0x10 then st s.mem.ddr0
  else if o = 0x14 then st s.mem.ddr1
  else if o = 0x20 then er s.mem.ddr0
  else if o = 0x24 then er s.mem.ddr1
  else 0

/-! ## Site ports, Dalovo, mate, admission -/

def PeerState.code : PeerState → Nat
  | .absent => 0
  | .seen => 1
  | .handshake => 2
  | .up => 3

/-- A receive slot as its bytes: the 32-byte header, then the payload (R341). -/
def slotBytes (x : Nat × Int × List Byte) : List Byte :=
  byteList 2 x.1 ++ byteList 2 x.2.2.length ++ byteList 4 0 ++ byteList 14 (ntBytes x.2.1) ++ byteList 10 0 ++ x.2.2

def readSite (s : State) (o : Nat) : Word32 :=
  let p := s.adm.peerSel
  let x := s.peer p
  if o = 0x40 || o = 0x140 then
    regWord [(0, 16, unsign (tabGet s.time.asym 0 (o / 0x100)) 16), (16, 8, 0x24), (24, 8, 0x2C)]
  else if o = 0x1000 then w32 p
  else if o = 0x1004 then
    regWord [(0, 2, x.state.code), (2, 1, x.port), (3, 5, s.perm p), (8, 1, b2n (s.img.peers[p]?).isSome)]
  else if o = 0x1008 then w32 (s.peerId p)
  else if o = 0x100C then regWord [(0, 8, x.authFail), (8, 8, x.replay), (16, 8, x.tagFail), (24, 8, x.lost)]
  else if o = 0x1010 then w32 (maskOf 16 fun k => (tabGet s.adm.rxSlots none k).isSome)
  else if 0x4000 ≤ o && o < 0x8000 then
    match tabGet s.adm.rxSlots none ((o - 0x4000) / 0x400) with
    | some f => w32 (leNat (((slotBytes f).drop (o % 0x400)).take 4))
    | none => 0
  else 0

def writeSite (s : State) (o : Nat) (v : Word32) : State :=
  if o = 0x40 || o = 0x140 then
    { s with time := { s.time with asym := tabSet s.time.asym (o / 0x100) (signed (bits v.toNat 0 16) 16) } }
  else if o = 0x1000 then { s with adm := { s.adm with peerSel := bits v.toNat 0 4 } }
  else if o = 0x1010 then freeSlots s v
  else s

def Handover.busy : Handover → Bool
  | .none => false
  | _ => true

def Takeover.busy : Takeover → Bool
  | .none => false
  | _ => true

def readMate (s : State) (o : Nat) : Word32 :=
  let i := s.img
  let m := s.mate
  if o = 0x00 then
    regWord [(0, 1, b2n i.mateEnable), (1, 3, i.matePrio), (4, 8, i.mateWait), (12, 1, b2n i.takeUnsynced),
             (13, 3, i.reportQueue), (16, 16, i.drillMs)]
  else if o = 0x04 then
    regWord [(0, 2, m.role.code), (2, 1, b2n m.link), (3, 1, b2n m.pathMate), (4, 1, b2n m.pathRelay), (5, 1, b2n m.synced),
             (6, 1, b2n m.digestMismatch), (7, 1, b2n m.safeMismatch), (8, 1, b2n m.pathAlarm), (9, 1, b2n m.splitAverted),
             (10, 1, b2n m.handover.busy), (11, 1, b2n m.takeover.busy)]
  else if o = 0x08 then w32 m.mateId
  else if o = 0x0C then w32 (m.acked % 2 ^ 16 + 2 ^ 16 * min 0xFFFF m.unacked.length)
  else if o = 0x10 then regWord [(0, 8, m.gapLast), (8, 8, m.gapMax)]
  else if o = 0x14 then regWord [(0, 8, m.takeovers), (8, 8, m.handovers), (16, 8, m.drillFails), (24, 8, m.pathAlarms)]
  else if o = 0x18 then regWord [(0, 16, m.lostReports), (16, 16, m.deferredFires)]
  else if o = 0x1C then regWord [(0, 4, m.drillCause), (4, 9, m.tilesFailed)]
  else 0

def writeMate (s : State) (o : Nat) (v : Word32) : State :=
  let n := v.toNat
  if o = 0x04 then
    { s with mate := { s.mate with
      pathAlarm := s.mate.pathAlarm && !bit n 8, splitAverted := s.mate.splitAverted && !bit n 9 } }
  else if o = 0x10 then if bit n 31 then clearGap s else s
  else s

def readAdm (s : State) (o : Nat) : Word32 :=
  let a := s.adm
  let key := 4 * a.selSource + a.selClass
  let p := s.standing key
  let m := (s.meter a.selSource a.selClass).refill s.dt
  let tel := fun k => tabGet a.tel {} k
  if o = 0x00 then regWord [(0, 5, a.selSource), (5, 2, a.selClass)]
  else if o = 0x04 then w32 p.cir
  else if o = 0x08 then w32 p.pir
  else if o = 0x0C then regWord [(0, 8, p.cbs), (8, 8, p.pbs), (16, 8, m.tc / tokenUnit), (24, 8, m.tp / tokenUnit)]
  else if o = 0x10 then regWord [(0, 16, m.green), (16, 16, m.yellow)]
  else if o = 0x14 then regWord [(0, 16, m.red)]
  else if o = 0x18 then regWord [(0, 1, b2n a.meterErr), (1, 1, b2n !a.pending.isEmpty)]
  else if o = 0x1C then w32 a.delayAlarm
  else if o = 0x20 then w32 (maskOf 26 fun k => tabGet a.alarms false k)
  else if 0x100 ≤ o && o < 0x168 then
    let t := tel (o / 4 - 64)
    regWord [(0, 13, t.depth), (13, 19, t.delay)]
  else if 0x200 ≤ o && o < 0x268 then
    let t := tel (o / 4 - 128)
    regWord [(0, 13, t.maxDepth), (13, 19, t.maxDelay)]
  else 0

def writeAdm (s : State) (o : Nat) (v : Word32) : State :=
  let n := v.toNat
  let a := s.adm
  if o = 0x00 then
    { s with adm := { a with selSource := min 25 (bits n 0 5), selClass := bits n 5 2
                             meterErr := a.meterErr || decide (25 < bits n 0 5) } }
  else if o = 0x04 then meterWrite s 0 v
  else if o = 0x08 then meterWrite s 1 v
  else if o = 0x0C then meterWrite s 2 v
  else if o = 0x18 then { s with adm := { a with meterErr := a.meterErr && !bit n 0 } }
  else if o = 0x1C then
    let s1 := { s with adm := { a with delayAlarm := bits n 0 20 } }
    if bit n 31 then clearTelMax s1 else s1
  else if o = 0x20 then { s with adm := { a with alarms := a.alarms.map fun x => (x.1, x.2 && !bit n x.1) } }
  else s

/-! ## Region windows (chapters "Architecture", "Paost tile links", "Element loops", "Routing and placement",
"Source-measure engine") -/

def LinkState.code : LinkState → Nat
  | .down => 0
  | .caps => 1
  | .step => 2
  | .active => 3
  | .idle => 4

def TileState.code : TileState → Nat
  | .absent => 0
  | .adopting => 1
  | .quarantined => 2
  | .adopted => 3

/-- A register of the link of tile `t`. -/
def readLink (s : State) (t o : Nat) : Word32 :=
  let l := s.link t
  if o = 0x00 then
    regWord [(0, 3, l.state.code), (3, 3, l.speed), (6, 1, b2n l.limited), (7, 1, b2n l.blockLock), (8, 2, l.tile.code),
             (10, 1, b2n l.owner), (11, 1, b2n l.portB), (12, 1, b2n l.stale)]
  else if o = 0x04 then regWord [(0, 3, l.maxSpeed), (3, 1, b2n l.idleEn), (4, 8, l.idleMin)]
  else if o = 0x08 then regWord [(0, 10, l.delay), (16, 16, l.trainings)]
  else if o = 0x0C then regWord [(0, 16, l.crcErr), (16, 16, l.syncErr)]
  else if o = 0x10 then regWord [(0, 16, l.replays), (16, 8, l.downs), (24, 8, l.bulkDiscard)]
  else if o = 0x14 then wordOf l.tileId 0
  else if o = 0x18 then wordOf l.tileId 1
  else if o = 0x1C then regWord [(0, 11, l.corrected), (16, 16, l.lastSerial.toNat)]
  else if o = 0x20 then w32 l.epoch
  else 0

def writeLink (s : State) (t o : Nat) (v : Word32) : State :=
  let n := v.toNat
  if o = 0x04 then
    let s1 := s.modLink t fun l => { l with
      maxSpeed := min 4 (bits n 0 3), idleEn := bit n 3, idleMin := max 80 (bits n 4 8) }
    let s2 := if bit n 13 then injectCrc s1 t else s1
    if bit n 12 then retrain s2 t else s2
  else s

/-- ELEM_LOOP.RATE. -/
def State.rateCode (s : State) (e : Nat) : Nat :=
  let x := s.elem e
  let g := (s.region (tileRegion (eidTile e))).degrade
  if x.st == .uncal then 3
  else if !x.fast then 0
  else if (x.fastLit && g == 3) || (!x.bright && g == 1) then 2
  else 1

/-- ELEM_LOOP of region `n`. -/
def readElemLoop (s : State) (n : Nat) : Word32 :=
  let e := (s.region n).elemSel
  let x := s.elem e
  if !s.img.placedEid e then w32 7
  else if tileRegion (eidTile e) ≠ n then 0
  else
    let law := match x.law with
      | .biquad _ _ => 1
      | _ => 0
    regWord [(0, 3, x.st.code), (3, 1, b2n x.on), (4, 1, b2n x.bankB), (5, 1, law), (6, 1, b2n x.stepping),
             (7, 1, b2n x.handover), (8, 1, b2n x.outerSat), (9, 2, s.rateCode e), (11, 8, x.overruns), (19, 2, x.consec),
             (21, 1, b2n (decide (0 < x.feTimer))), (31, 1, 1)]

/-- The bytes of a bank record (Table 5-3) as a number. -/
def bankBytes (b : Bank) : Nat :=
  let f := fun (p : Nat) (v : Nat) => 2 ^ (8 * p) * v
  let coef := (List.range 4).flatMap fun s => (List.range 5).map fun i =>
    f (16 + 20 * s + 4 * i) (unsign ((b.coef.getD s []).getD i 0) 32)
  ([f 0 b.lawLit, f 1 b.lawDark, f 2 b.sections, f 3 b.outMode, f 4 b.bOut, f 6 b.bIn, f 8 b.sUp, f 10 b.sDn, f 96 b.feLimit,
    f 98 b.feTime, f 100 b.feBlank, f 102 b.feReact, f 104 b.maxJump, f 106 b.slewMax, f 108 b.dwell, f 110 b.ditherDepth,
    f 112 b.ko, f 114 b.trimLimit, f 118 b.demodPhase, f 120 (unsign b.clsTrimOn 16), f 122 (unsign b.clsTrimOff 16)]
    ++ coef).foldl (· + ·) 0

/-- The chip-wide registers of the loop block, by offset in the region window (R42). -/
def readLoopGlobal (s : State) (o : Nat) : Word32 :=
  let i := s.img
  let l := s.loops
  let c := s.cls l.clsSel
  if 0x5000 ≤ o && o < 0x500C then w32 (i.toneFtw.getD (o / 4 - 0x1400) 0)
  else if o = 0x500C then regWord [(0, 10, i.fastFloor), (10, 16, i.outerMin), (26, 4, i.liShift), (30, 1, b2n l.throttled)]
  else if o = 0x5010 then regWord [(0, 26, i.journalSlots)]
  else if o = 0x5014 then regWord [(0, 26, rangeSize l.journal.frozen)]
  else if o = 0x5018 then w32 l.journal.lost
  else if o = 0x501C then regWord [(0, 7, i.journalGib), (8, 8, l.journal.refused)]
  else if o = 0x5100 then regWord [(0, 6, l.clsSel), (8, 1, b2n l.clsSelB)]
  else if o = 0x5104 then regWord [(0, 1, b2n c.activeB), (1, 1, b2n c.swapPending), (2, 11, c.holdDiv), (13, 1, b2n c.defined)]
  else if o = 0x5108 then regWord [(0, 16, c.driveMin), (16, 16, c.driveMax)]
  else if 0x5180 ≤ o && o < 0x5200 then wordOf (bankBytes (if l.clsSelB then c.bankB else c.bankA)) (o / 4 - 0x1460)
  else 0

/-- The region's own registers of its loop block. -/
def readLoop (s : State) (n o : Nat) : Word32 :=
  let r := s.region n
  let e := r.elemSel
  let x := s.elem e
  if o = 0x4000 then
    let fast := s.loops.elems.filter fun p => s.img.placedEid p.1 && tileRegion (eidTile p.1) == n && p.2.fast
    regWord [(0, 15, fast.length), (15, 2, r.degrade)]
  else if o = 0x4004 then regWord [(0, 14, r.holdUsed.foldl (· + ·) 0 / 16), (14, 14, r.fastDemand)]
  else if o = 0x4008 then regWord [(0, 16, r.overruns), (16, 16, r.feEvents)]
  else if o = 0x4100 then w32 e
  else if o = 0x4104 then readElemLoop s n
  else if o = 0x4108 then regWord [(0, 16, x.drive), (16, 16, x.sense)]
  else if o = 0x410C then
    regWord [(0, 16, unsign x.target 16), (16, 16, unsign (clampInt (-32768) 32767 x.err) 16)]
  else if o = 0x4110 then regWord [(0, 16, unsign x.trimOn 16), (16, 16, unsign x.outerTrim 16)]
  else readLoopGlobal s o

/-- The context cache block of region `n`. -/
def readCache (s : State) (n o : Nat) : Word32 :=
  let r := s.region n
  if o = 0x8000 then
    let es := s.tier0 n
    regWord [(0, 14, es.length), (14, 14, (es.filter fun p => s.pins p.1 ≠ 0).length)]
  else if 0x8040 ≤ o && o < 0x8080 then
    let k := o / 4 - 0x2010
    let rows := (List.range 512).filter fun key => s.img.placed (16 * n + key / 32) &&
      s.cellOf ((16 * n + key / 32) * 1024 + key % 32 * 32) == some k
    regWord [(0, 11, r.cellSum k / 16000000), (16, 15, 32 * rows.length)]
  else 0

/-- The SMU block of region `n`. -/
def readSmuRegion (s : State) (n o : Nat) : Word32 :=
  let on := fun (k : Nat) => s.allRuns.find? fun x => x.2.seqr == some k && x.2.tile / 16 == n && x.2.ended.isNone
  if o = 0xC000 then
    w32 (maskOf 16 (fun k => (on k).isSome) + 2 ^ 16 * maskOf 16 fun k =>
      (s.region n).smuFenced.contains k)
  else if 0xC040 ≤ o && o < 0xC080 then
    match on (o / 4 - 0x3010) with
    | some (l, x) => regWord [(0, 8, l), (8, 1, 1), (9, 12, x.point)]
    | none => 0
  else 0

/-- The offset is one of the chip-wide registers that every region window shows (R42). -/
def chipWide (o : Nat) : Bool := (0x3000 ≤ o && o < 0x4000) || (0x5000 ≤ o && o < 0x6000)

def readRegion (s : State) (n o : Nat) : Word32 :=
  let r := s.region n
  if r.fenced && !chipWide o then
    if o = 0x0000 then r.snapStatus else if o = 0x0004 then r.snapHold else 0xFFFFFFFF#32
  else if o = 0x0000 then w32 r.statusWord
  else if o = 0x0004 then w32 r.holdWord
  else if 0x1000 ≤ o && o < 0x2000 then readLink s (16 * n + (o - 0x1000) / 0x100) (o % 0x100)
  else if o = 0x3000 then regWord [(0, 12, s.img.adoptTol), (12, 12, s.img.adoptSlew), (24, 3, s.img.linkMaxSpeed)]
  else if 0x4000 ≤ o && o < 0x8000 then readLoop s n o
  else if 0x8000 ≤ o && o < 0xC000 then readCache s n o
  else if 0xC000 ≤ o then readSmuRegion s n o
  else 0

def writeRegion (s : State) (n o : Nat) (v : Word32) : State :=
  let r := s.region n
  let b := v.toNat
  if r.fenced && !chipWide o then s
  else if 0x1000 ≤ o && o < 0x2000 then writeLink s (16 * n + (o - 0x1000) / 0x100) (o % 0x100) v
  else if o = 0x4100 then s.setRegion n { r with elemSel := bits b 0 18 }
  else if o = 0x5100 then { s with loops := { s.loops with clsSel := bits b 0 6, clsSelB := bit b 8 } }
  else s

/-! ## The register space (Table 1-4) -/

/-- What a read of BAR0 offset `off` shows. -/
def readReg (s : State) (off : Nat) : Word32 :=
  let o := off % 0x10000
  match off / 0x10000 with
  | 0x0 => readGlobal s o
  | 0x1 => readFault s o
  | 0x2 => readPtp s o
  | 0x3 => readSafety s o
  | 0x4 => readHouse s o
  | 0x5 => readCalib s o
  | 0x6 => readSmu s o
  | 0x7 => if o < 0x4000 then readRoute s o else if o < 0x8000 then readPlace s (o - 0x4000) else readClauses s (o - 0x8000)
  | 0x8 => readHost s o
  | 0x9 => readDma s o
  | 0xA => readBanks s o
  | 0xB => readDdr s o
  | 0xC => readSite s o
  | 0xD => readMate s o
  | 0xE => readAdm s o
  | k => if 0x10 ≤ k && k < 0x20 then readRegion s (k - 0x10) o else 0

/-- A read of BAR0 offset `off` with its effects (R221, R272, R274, R293). -/
def readFull (s : State) (off : Nat) : Word32 × State :=
  match off with
  | 0x20008 => readDtLo s
  | 0x20040 => readRateLo s
  | 0x20070 => readPpsIn s
  | 0x40248 => readUrgResult s
  | 0x60204 => readPortResult s
  | 0x60320 => readSsResult s
  | 0x60408 => readRefResult s
  | _ => (readReg s off, s)

/-- A write of BAR0 offset `off`: each field by its access code (R7), out-of-range values by R9, reserved offsets and the
light-safety mirror ignored (R41). -/
def writeReg (s : State) (off : Nat) (v : Word32) (viaSideband : Bool) : State :=
  let o := off % 0x10000
  match off / 0x10000 with
  | 0x0 => writeGlobal s o v
  | 0x1 => writeFault s o v viaSideband
  | 0x2 => writeTime s o v
  | 0x4 => writeHouse s o v
  | 0x5 => writeCalib s o v
  | 0x6 => writeSmu s o v
  | 0x7 => if o < 0x4000 then s else if o < 0x8000 then writePlace s (o - 0x4000) v else writeClauses s (o - 0x8000) v
  | 0x8 => writeHost s o v
  | 0x9 => writeDma s o v
  | 0xA => writeBanksReg s o v
  | 0xC => writeSite s o v
  | 0xD => writeMate s o v
  | 0xE => writeAdm s o v
  | k => if 0x10 ≤ k && k < 0x20 then writeRegion s (k - 0x10) o v else s

/-- A write of RESET_CTRL resets the main side, and what follows a command of the running chip does not follow it. -/
def wrote (s0 s : State) (off : Nat) : State := if off = 0x64 then s else after s0 s

/-- REGISTER_WRITE (R7, R9, R41, R42, R293): one aligned DWORD; with fewer than four byte enables it is ignored. -/
def execRegisterWrite (offset : Nat) (value : Word32) (allBytes : Bool) (s : State) : Host.Outcome State Fault Refusal :=
  if 2 ^ 24 ≤ offset then .fault (.noSuchAddress offset)
  else if !s.chip.mainRun || s.host.perst || !allBytes || offset % 4 ≠ 0 then .next s
  else .next (wrote s (writeReg s offset value false) offset)

/-! ## The sideband window (R469, R470) -/

/-- The record that AON_REC_SEL names, 0 the newest; no SEQ yet shows all ones (R437). -/
def State.aonRec (s : State) : Option FaultRec := s.faults.aonCopy.reverse[s.chip.aonRecSel]?

/-- A word of the window (Table 17-11), with the effects of a read through SB_MAIN_DATA. -/
def readWindow (s : State) (o : Nat) : Word32 × State :=
  let c := s.chip
  let m := o / 4
  if o = 0x0000 then (chipId, s)
  else if o = 0x0004 then (w32 s.readyNow, s)
  else if o = 0x0008 then
    (regWord [(0, 1, b2n c.resetHeld), (1, 1, b2n c.mainPower), (2, 1, b2n c.mainRun), (3, 29, s.heldNow)], s)
  else if o = 0x000C then (c.resetStatus, s)
  else if o = 0x0014 then (w32 c.otp.identity, s)
  else if o = 0x0018 then
    (regWord [(0, 3, s.sbPending), (3, 5, s.host.sbCompletions.length), (8, 5, s.host.sbEvents.length),
              (16, 16, s.host.sbDropped)], s)
  else if 0x0020 ≤ o && o < 0x0040 then (wordOf c.digest.toNat (m - 8), s)
  else if o = 0x0040 then (w32 s.faults.errLevel, s)
  else if o = 0x0044 then (s.faults.uncleared, s)
  else if o = 0x0048 then (w32 c.aonRecSel, s)
  else if 0x0050 ≤ o && o < 0x0070 then
    (match s.aonRec with
     | some f => wordOf f.bytes (m - 20)
     | none => 0, s)
  else if 0x0200 ≤ o && o < 0x02C8 then (wordOf c.digestRec (m - 128), s)
  else if 0x3000 ≤ o && o < 0x30B0 then (readSafety s (o - 0x3000), s)
  else if o = 0x8000 then (w32 c.sbMainAddr, s)
  else if o = 0x8004 then if c.mainRun then readFull s c.sbMainAddr else (0xFFFFFFFF#32, s)
  else (0, s)

/-- A write of one word of the window. -/
def writeWindow (s : State) (o : Nat) (v : Word32) : State :=
  if o = 0x0010 then resetCtrl s v
  else if o = 0x0040 then after s (faultConfig s v)
  else if o = 0x0048 then { s with chip := { s.chip with aonRecSel := bits v.toNat 0 6 } }
  else if 0x3000 ≤ o && o < 0x30B0 then after s (writeSafety s (o - 0x3000) v)
  else if o = 0x8000 then { s with chip := { s.chip with sbMainAddr := v.toNat % 2 ^ 24 / 4 * 4 } }
  else if o = 0x8004 then
    if s.chip.mainRun then wrote s (writeReg s s.chip.sbMainAddr v true) s.chip.sbMainAddr else s
  else s

/-- The window offset moves past one word. -/
def nextWord (s : State) : State := { s with host := { s.host with sbOffset := (s.host.sbOffset + 4) % 2 ^ 16 } }

/-- `n` words are read, one after another. -/
def readWords : Nat → State → List Word32 × State
  | 0, s => ([], s)
  | n + 1, s =>
    let r := readWindow s s.host.sbOffset
    let q := readWords n (nextWord r.2)
    (r.1 :: q.1, q.2)

/-- SB_WINDOW_ACCESS (R469, R470): a write with a bad PEC is ignored; a length that the command does not allow is NACKed. -/
def execSbWindowAccess (write : Bool) (bytes : Nat) (data : List Word32) (pecOk : Bool) (s : State) :
    Host.Outcome State Fault Refusal :=
  if s.chip.por || (write && !pecOk) then .next s
  else if bytes < 4 || 32 < bytes || bytes % 4 ≠ 0 then .next (s.emit .smbusNack)
  else if write then
    .next ((data.take (bytes / 4)).foldl (fun (s : State) v => nextWord (writeWindow s s.host.sbOffset v)) s)
  else
    let r := readWords (bytes / 4) s
    .next (r.2.emit (.smbusData (r.1.flatMap fun w => byteList 4 w.toNat)))

end Sys2Proof.Machine
end

