-- ==== Sys2Proof/Machine/Dispatch.lean ====
section
/-! DEFINITION. The meaning of every command: one arm for each constructor. -/

namespace Sys2Proof.Machine

/-- The effect of command `i` on everything but the queue. -/
def exec (i : Instr) (s : State) : Host.Outcome State Fault Refusal :=
  match i with
  | .nop h => Sys2Proof.Machine.execNop h s
  | .resumeRegion h isTile target => Sys2Proof.Machine.execResumeRegion h isTile target s
  | .selfTest h targets timeoutMs missed => Sys2Proof.Machine.execSelfTest h targets timeoutMs missed s
  | .getDigest h wait addr nonce => Sys2Proof.Machine.execGetDigest h wait addr nonce s
  | .getCert h which addr length => Sys2Proof.Machine.execGetCert h which addr length s
  | .handover h ret drillMs => Sys2Proof.Machine.execHandover h ret drillMs s
  | .dalovoSend h timed ns peer length addr t late => Sys2Proof.Machine.execDalovoSend h timed ns peer length addr t late s
  | .stage h openFlag handle clauses => Sys2Proof.Machine.execStage h openFlag handle clauses s
  | .stageList h openFlag ns handle count addr => Sys2Proof.Machine.execStageList h openFlag ns handle count addr s
  | .commit h handle opts => Sys2Proof.Machine.execCommit h handle opts s
  | .schedule h handle opts t late => Sys2Proof.Machine.execSchedule h handle opts t late s
  | .arm h handle opts rearm pgroup ports => Sys2Proof.Machine.execArm h handle opts rearm pgroup ports s
  | .disarm h handle => Sys2Proof.Machine.execDisarm h handle s
  | .fire h handle => Sys2Proof.Machine.execFire h handle s
  | .cancel h handle => Sys2Proof.Machine.execCancel h handle s
  | .freeSentence h handle => Sys2Proof.Machine.execFreeSentence h handle s
  | .paraDefine h halt para stepCount addr period repeats late => Sys2Proof.Machine.execParaDefine h halt para stepCount addr period repeats late s
  | .paraStart h reportAll para start => Sys2Proof.Machine.execParaStart h reportAll para start s
  | .paraStop h now para => Sys2Proof.Machine.execParaStop h now para s
  | .pin h scope first count lifetimeMs => Sys2Proof.Machine.execPin h scope first count lifetimeMs s
  | .unpin h scope first count => Sys2Proof.Machine.execUnpin h scope first count s
  | .retireElement h eid => Sys2Proof.Machine.execRetireElement h eid s
  | .restoreElement h eid => Sys2Proof.Machine.execRestoreElement h eid s
  | .classLoad h cls bank addr => Sys2Proof.Machine.execClassLoad h cls bank addr s
  | .classSwap h cls => Sys2Proof.Machine.execClassSwap h cls s
  | .elementTrim h resetOuter eid trimOn trimOff => Sys2Proof.Machine.execElementTrim h resetOuter eid trimOn trimOff s
  | .journalCopy h release tile startMs count addr => Sys2Proof.Machine.execJournalCopy h release tile startMs count addr s
  | .sweepLoad h ns list count addr => Sys2Proof.Machine.execSweepLoad h ns list count addr s
  | .sweepRun h compEnd actuator list target downCount timeoutMs resultAddr => Sys2Proof.Machine.execSweepRun h compEnd actuator list target downCount timeoutMs resultAddr s
  | .sweepStop h list => Sys2Proof.Machine.execSweepStop h list s
  | .sweepFree h list => Sys2Proof.Machine.execSweepFree h list s
  | .calRun h kind scope target timeoutMs => Sys2Proof.Machine.execCalRun h kind scope target timeoutMs s
  | .saveCalibration h fromHost ns addr => Sys2Proof.Machine.execSaveCalibration h fromHost ns addr s
  | .exportCalibration h inService addr length => Sys2Proof.Machine.execExportCalibration h inService addr length s
  | .verbArrival src entry => Sys2Proof.Machine.execVerbArrival src entry s
  | .sqTailWrite q value => Sys2Proof.Machine.execSqTailWrite q value s
  | .cqHeadWrite q value => Sys2Proof.Machine.execCqHeadWrite q value s
  | .eqHeadWrite q value => Sys2Proof.Machine.execEqHeadWrite q value s
  | .sqEntryFetch q entries => Sys2Proof.Machine.execSqEntryFetch q entries s
  | .sqReadFail q => Sys2Proof.Machine.execSqReadFail q s
  | .cqEqWriteFail q event => Sys2Proof.Machine.execCqEqWriteFail q event s
  | .queueEnable q => Sys2Proof.Machine.execQueueEnable q s
  | .queueDisable q => Sys2Proof.Machine.execQueueDisable q s
  | .queueDrained q => Sys2Proof.Machine.execQueueDrained q s
  | .queueConfigWrite q reg value => Sys2Proof.Machine.execQueueConfigWrite q reg value s
  | .completionPost src => Sys2Proof.Machine.execCompletionPost src s
  | .eventPost => Sys2Proof.Machine.execEventPost s
  | .msixInterruptTimer q event => Sys2Proof.Machine.execMsixInterruptTimer q event s
  | .fireDoorbell value => Sys2Proof.Machine.execFireDoorbell value s
  | .sbVerbWrite entry bytes pecOk => Sys2Proof.Machine.execSbVerbWrite entry bytes pecOk s
  | .sbCompletionRead => Sys2Proof.Machine.execSbCompletionRead s
  | .sbEventRead => Sys2Proof.Machine.execSbEventRead s
  | .sbWindowOffset value pecOk => Sys2Proof.Machine.execSbWindowOffset value pecOk s
  | .sbWindowAccess write bytes data pecOk => Sys2Proof.Machine.execSbWindowAccess write bytes data pecOk s
  | .pcieFunctionReset => Sys2Proof.Machine.execPcieFunctionReset s
  | .pciePerst low => Sys2Proof.Machine.execPciePerst low s
  | .bar2Access write addr count data => Sys2Proof.Machine.execBar2Access write addr count data s
  | .bar0AccessError write offset dwords => Sys2Proof.Machine.execBar0AccessError write offset dwords s
  | .registerWrite offset value allBytes => Sys2Proof.Machine.execRegisterWrite offset value allBytes s
  | .sentencePrepare => Sys2Proof.Machine.execSentencePrepare s
  | .prepLeadDue para index => Sys2Proof.Machine.execPrepLeadDue para index s
  | .staleReprepare handle => Sys2Proof.Machine.execStaleReprepare handle s
  | .tokenIssue launch => Sys2Proof.Machine.execTokenIssue launch s
  | .p0Dispatch => Sys2Proof.Machine.execP0Dispatch s
  | .latchReportReceive tile serial latched => Sys2Proof.Machine.execLatchReportReceive tile serial latched s
  | .launchResultTimeout tile serial => Sys2Proof.Machine.execLaunchResultTimeout tile serial s
  | .reversalLaunch serial => Sys2Proof.Machine.execReversalLaunch serial s
  | .scheduledLaunchDue handle => Sys2Proof.Machine.execScheduledLaunchDue handle s
  | .paragraphStepDue para => Sys2Proof.Machine.execParagraphStepDue para s
  | .losEventReceive monitors => Sys2Proof.Machine.execLosEventReceive monitors s
  | .losClearReceive monitor => Sys2Proof.Machine.execLosClearReceive monitor s
  | .complianceEventReceive tile channel detail => Sys2Proof.Machine.execComplianceEventReceive tile channel detail s
  | .scheduleMismatchReceive tile => Sys2Proof.Machine.execScheduleMismatchReceive tile s
  | .tileFaultReceive tile detail => Sys2Proof.Machine.execTileFaultReceive tile detail s
  | .tokenLostReceive tile => Sys2Proof.Machine.execTokenLostReceive tile s
  | .commaBoundary => Sys2Proof.Machine.execCommaBoundary s
  | .regionEscalate region => Sys2Proof.Machine.execRegionEscalate region s
  | .commaLinkShareWrite value => Sys2Proof.Machine.execCommaLinkShareWrite value s
  | .commaLoopShareWrite value => Sys2Proof.Machine.execCommaLoopShareWrite value s
  | .settlingDwellEnd eid => Sys2Proof.Machine.execSettlingDwellEnd eid s
  | .feBlankEnd eid => Sys2Proof.Machine.execFeBlankEnd eid s
  | .journalFrameWrite ms tile => Sys2Proof.Machine.execJournalFrameWrite ms tile s
  | .journalFrameExpire ms tile => Sys2Proof.Machine.execJournalFrameExpire ms tile s
  | .placementMove eid writtenDuringCopy => Sys2Proof.Machine.execPlacementMove eid writtenDuringCopy s
  | .pinExpire eid host => Sys2Proof.Machine.execPinExpire eid host s
  | .contextRebuild eid => Sys2Proof.Machine.execContextRebuild eid s
  | .elementReroute inPort => Sys2Proof.Machine.execElementReroute inPort s
  | .cellOperationError region block cell eid => Sys2Proof.Machine.execCellOperationError region block cell eid s
  | .handshakeWatchdog channel => Sys2Proof.Machine.execHandshakeWatchdog channel s
  | .tileCommitReceive tile portB serial slot time => Sys2Proof.Machine.execTileCommitReceive tile portB serial slot time s
  | .tileLatch tile serial => Sys2Proof.Machine.execTileLatch tile serial s
  | .driveShapeEnd tile elem => Sys2Proof.Machine.execDriveShapeEnd tile elem s
  | .tileDriveFrame tile portB comma codes => Sys2Proof.Machine.execTileDriveFrame tile portB comma codes s
  | .slotOpen tile portB slot count => Sys2Proof.Machine.execSlotOpen tile portB slot count s
  | .driveSlotFrame tile portB elem0 d0 elem1 d1 => Sys2Proof.Machine.execDriveSlotFrame tile portB elem0 d0 elem1 d1 s
  | .cmdAckReceive tile opcode ok slot => Sys2Proof.Machine.execCmdAckReceive tile opcode ok slot s
  | .setClass tile portB elem cls all => Sys2Proof.Machine.execSetClass tile portB elem cls all s
  | .setFast tile portB elem fast comma => Sys2Proof.Machine.execSetFast tile portB elem fast comma s
  | .classDiv tile portB cls div comma => Sys2Proof.Machine.execClassDiv tile portB cls div comma s
  | .shapeLoad tile portB cls off point value => Sys2Proof.Machine.execShapeLoad tile portB cls off point value s
  | .setEpoch tile portB epoch => Sys2Proof.Machine.execSetEpoch tile portB epoch s
  | .setShare tile portB shares => Sys2Proof.Machine.execSetShare tile portB shares s
  | .tileAbort tile portB elem => Sys2Proof.Machine.execTileAbort tile portB elem s
  | .claim tile portB => Sys2Proof.Machine.execClaim tile portB s
  | .release tile portB => Sys2Proof.Machine.execRelease tile portB s
  | .bulkPull tile portB offset count => Sys2Proof.Machine.execBulkPull tile portB offset count s
  | .logInfoReceive tile length withdrawn => Sys2Proof.Machine.execLogInfoReceive tile length withdrawn s
  | .bulkReceive tile index data withdrawn => Sys2Proof.Machine.execBulkReceive tile index data withdrawn s
  | .pointWord tile portB word value => Sys2Proof.Machine.execPointWord tile portB word value s
  | .pointGo tile portB channel elem downCount => Sys2Proof.Machine.execPointGo tile portB channel elem downCount s
  | .pointResultReceive tile channel word value => Sys2Proof.Machine.execPointResultReceive tile channel word value s
  | .portSampleReceive tile channel range flag code los => Sys2Proof.Machine.execPortSampleReceive tile channel range flag code los s
  | .calPoint tile portB elem drive => Sys2Proof.Machine.execCalPoint tile portB elem drive s
  | .calSenseReceive tile elem sense => Sys2Proof.Machine.execCalSenseReceive tile elem sense s
  | .smuBus tile portB channel connect => Sys2Proof.Machine.execSmuBus tile portB channel connect s
  | .readbackReq tile portB => Sys2Proof.Machine.execReadbackReq tile portB s
  | .readbackReceive tile part codes => Sys2Proof.Machine.execReadbackReceive tile part codes s
  | .identReceive tile word value => Sys2Proof.Machine.execIdentReceive tile word value s
  | .tempReceive tile temp => Sys2Proof.Machine.execTempReceive tile temp s
  | .senseFrameReceive tile comma samples => Sys2Proof.Machine.execSenseFrameReceive tile comma samples s
  | .tbeaconReceive tile portB time => Sys2Proof.Machine.execTbeaconReceive tile portB time s
  | .tbeaconLoss tile => Sys2Proof.Machine.execTbeaconLoss tile s
  | .hbeatSend => Sys2Proof.Machine.execHbeatSend s
  | .hbeatTileRelay tile portB word => Sys2Proof.Machine.execHbeatTileRelay tile portB word s
  | .relayedHbeatReceive tile word => Sys2Proof.Machine.execRelayedHbeatReceive tile word s
  | .ownerHbeatExpire tile => Sys2Proof.Machine.execOwnerHbeatExpire tile s
  | .linkFrameReceive at_ multi control data => Sys2Proof.Machine.execLinkFrameReceive at_ multi control data s
  | .linkctlAckReceive at_ multi num => Sys2Proof.Machine.execLinkctlAckReceive at_ multi num s
  | .linkctlNakReceive at_ multi num => Sys2Proof.Machine.execLinkctlNakReceive at_ multi num s
  | .nakRepeatTimeout at_ multi => Sys2Proof.Machine.execNakRepeatTimeout at_ multi s
  | .ackIdleTimeout at_ multi => Sys2Proof.Machine.execAckIdleTimeout at_ multi s
  | .ackMissingTimeout tile => Sys2Proof.Machine.execAckMissingTimeout tile s
  | .blockLockLoss tile => Sys2Proof.Machine.execBlockLockLoss tile s
  | .trainBlockReceive tile block => Sys2Proof.Machine.execTrainBlockReceive tile block s
  | .trainStepTimeout tile => Sys2Proof.Machine.execTrainStepTimeout tile s
  | .adoptCorrectionEnd tile => Sys2Proof.Machine.execAdoptCorrectionEnd tile s
  | .eidleEnter at_ => Sys2Proof.Machine.execEidleEnter at_ s
  | .eidleExit at_ => Sys2Proof.Machine.execEidleExit at_ s
  | .linkRetrain tile => Sys2Proof.Machine.execLinkRetrain tile s
  | .linkInjectCrc tile => Sys2Proof.Machine.execLinkInjectCrc tile s
  | .sweepPointStart list => Sys2Proof.Machine.execSweepPointStart list s
  | .sweepPointEnd list readings forceRb writeOk => Sys2Proof.Machine.execSweepPointEnd list readings forceRb writeOk s
  | .sweepTimeout list => Sys2Proof.Machine.execSweepTimeout list s
  | .sweepRunEnd list => Sys2Proof.Machine.execSweepRunEnd list s
  | .ssCtrlGo => Sys2Proof.Machine.execSsCtrlGo s
  | .ssResultRead => Sys2Proof.Machine.execSsResultRead s
  | .portSelWrite value => Sys2Proof.Machine.execPortSelWrite value s
  | .portResultRead => Sys2Proof.Machine.execPortResultRead s
  | .refCtrlWrite value => Sys2Proof.Machine.execRefCtrlWrite value s
  | .refConversionGo => Sys2Proof.Machine.execRefConversionGo s
  | .refConversionDone value isOver => Sys2Proof.Machine.execRefConversionDone value isOver s
  | .refResultRead => Sys2Proof.Machine.execRefResultRead s
  | .busCtrlRequest value => Sys2Proof.Machine.execBusCtrlRequest value s
  | .calBusTimeout => Sys2Proof.Machine.execCalBusTimeout s
  | .losComparatorRaise monitor current => Sys2Proof.Machine.execLosComparatorRaise monitor current s
  | .losComparatorClear monitor current => Sys2Proof.Machine.execLosComparatorClear monitor current s
  | .complianceClamp tile channel sampling => Sys2Proof.Machine.execComplianceClamp tile channel sampling s
  | .calMicroRun eid => Sys2Proof.Machine.execCalMicroRun eid s
  | .calFullRun eid => Sys2Proof.Machine.execCalFullRun eid s
  | .calChannelRun tile fits => Sys2Proof.Machine.execCalChannelRun tile fits s
  | .calTimeout batch => Sys2Proof.Machine.execCalTimeout batch s
  | .pathLossUpdate inPort => Sys2Proof.Machine.execPathLossUpdate inPort s
  | .calDonePost batch => Sys2Proof.Machine.execCalDonePost batch s
  | .faultReport reports => Sys2Proof.Machine.execFaultReport reports s
  | .safeStateTokenResolve serial => Sys2Proof.Machine.execSafeStateTokenResolve serial s
  | .collectorSelfFault => Sys2Proof.Machine.execCollectorSelfFault s
  | .faultClear value => Sys2Proof.Machine.execFaultClear value s
  | .faultFirstClear => Sys2Proof.Machine.execFaultFirstClear s
  | .faultInjectCheck target unit double viaSideband => Sys2Proof.Machine.execFaultInjectCheck target unit double viaSideband s
  | .faultInjectReact target unit double viaSideband => Sys2Proof.Machine.execFaultInjectReact target unit double viaSideband s
  | .centralEngineError ddr source => Sys2Proof.Machine.execCentralEngineError ddr source s
  | .mgmtWatchdog => Sys2Proof.Machine.execMgmtWatchdog s
  | .timeMeasurement theta => Sys2Proof.Machine.execTimeMeasurement theta s
  | .servoFeedWrite value => Sys2Proof.Machine.execServoFeedWrite value s
  | .heldChangeApply => Sys2Proof.Machine.execHeldChangeApply s
  | .heldChangeLimit => Sys2Proof.Machine.execHeldChangeLimit s
  | .syncTimeout => Sys2Proof.Machine.execSyncTimeout s
  | .holdoverExpire => Sys2Proof.Machine.execHoldoverExpire s
  | .acceptJump => Sys2Proof.Machine.execAcceptJump s
  | .timeSnap => Sys2Proof.Machine.execTimeSnap s
  | .dtLoRead => Sys2Proof.Machine.execDtLoRead s
  | .rateLoRead => Sys2Proof.Machine.execRateLoRead s
  | .ptpAnnounceReceive port msg => Sys2Proof.Machine.execPtpAnnounceReceive port msg s
  | .ptpSyncReceive port followUp twoStep domain origin correction ingressTick => Sys2Proof.Machine.execPtpSyncReceive port followUp twoStep domain origin correction ingressTick s
  | .ptpDelayReqSend port egressTick => Sys2Proof.Machine.execPtpDelayReqSend port egressTick s
  | .ptpDelayRespReceive port domain receive correction logInterval => Sys2Proof.Machine.execPtpDelayRespReceive port domain receive correction logInterval s
  | .ptpAnnounceTimeout => Sys2Proof.Machine.execPtpAnnounceTimeout s
  | .ppsOutEdge => Sys2Proof.Machine.execPpsOutEdge s
  | .ppsOutFall => Sys2Proof.Machine.execPpsOutFall s
  | .ppsInEdge => Sys2Proof.Machine.execPpsInEdge s
  | .ppsInResultRead => Sys2Proof.Machine.execPpsInResultRead s
  | .timedDalovoDue port => Sys2Proof.Machine.execTimedDalovoDue port s
  | .dalovoAnnounceSend port => Sys2Proof.Machine.execDalovoAnnounceSend port s
  | .dalovoAnnounceReceive port srcId ownerHeld => Sys2Proof.Machine.execDalovoAnnounceReceive port srcId ownerHeld s
  | .dalovoHello frame => Sys2Proof.Machine.execDalovoHello frame s
  | .dalovoHelloReply frame => Sys2Proof.Machine.execDalovoHelloReply frame s
  | .dalovoFinish head transcriptOk => Sys2Proof.Machine.execDalovoFinish head transcriptOk s
  | .dalovoHandshakeTimeout peer => Sys2Proof.Machine.execDalovoHandshakeTimeout peer s
  | .dalovoVerbFrame head entry => Sys2Proof.Machine.execDalovoVerbFrame head entry s
  | .dalovoUserFrame head payload ingressTick => Sys2Proof.Machine.execDalovoUserFrame head payload ingressTick s
  | .dvRxSlotFree value => Sys2Proof.Machine.execDvRxSlotFree value s
  | .dalovoClose peer reason => Sys2Proof.Machine.execDalovoClose peer reason s
  | .dalovoIdleTimeout peer => Sys2Proof.Machine.execDalovoIdleTimeout peer s
  | .safetyFrameReceive head body => Sys2Proof.Machine.execSafetyFrameReceive head body s
  | .safetyFrameSend binding => Sys2Proof.Machine.execSafetyFrameSend binding s
  | .bindingWatchdogExpire binding => Sys2Proof.Machine.execBindingWatchdogExpire binding s
  | .ilkContactChange input contactB closed => Sys2Proof.Machine.execIlkContactChange input contactB closed s
  | .ilkDiscrepancy input => Sys2Proof.Machine.execIlkDiscrepancy input s
  | .lenEvaluate => Sys2Proof.Machine.execLenEvaluate s
  | .fbkTimeout output fbkOpen => Sys2Proof.Machine.execFbkTimeout output fbkOpen s
  | .stuckOnDetect output => Sys2Proof.Machine.execStuckOnDetect output s
  | .testPulseStart output => Sys2Proof.Machine.execTestPulseStart output s
  | .testPulseCheck output readbackOn => Sys2Proof.Machine.execTestPulseCheck output readbackOn s
  | .safeKeyWrite value => Sys2Proof.Machine.execSafeKeyWrite value s
  | .safeCommitWrite value => Sys2Proof.Machine.execSafeCommitWrite value s
  | .safeKeyTimeout => Sys2Proof.Machine.execSafeKeyTimeout s
  | .safeAckWrite value => Sys2Proof.Machine.execSafeAckWrite value s
  | .lenForceOffWrite value => Sys2Proof.Machine.execLenForceOffWrite value s
  | .safetyBlockDeliver block => Sys2Proof.Machine.execSafetyBlockDeliver block s
  | .safetyRecordWrite ok => Sys2Proof.Machine.execSafetyRecordWrite ok s
  | .lsuSelfCheck crcOk parityOk clockOk supplyOk => Sys2Proof.Machine.execLsuSelfCheck crcOk parityOk clockOk supplyOk s
  | .mateHeartbeatReceive word mateId matePrio mateHash => Sys2Proof.Machine.execMateHeartbeatReceive word mateId matePrio mateHash s
  | .mateWaitExpire => Sys2Proof.Machine.execMateWaitExpire s
  | .mirrorReceive num rec => Sys2Proof.Machine.execMirrorReceive num rec s
  | .mirrorAckReceive num => Sys2Proof.Machine.execMirrorAckReceive num s
  | .mirrorAckTimeout => Sys2Proof.Machine.execMirrorAckTimeout s
  | .syncReq => Sys2Proof.Machine.execSyncReq s
  | .snapshotApplied num => Sys2Proof.Machine.execSnapshotApplied num s
  | .digestFrameReceive digest => Sys2Proof.Machine.execDigestFrameReceive digest s
  | .digestMismatchExpire => Sys2Proof.Machine.execDigestMismatchExpire s
  | .roleFrameReceive step ret => Sys2Proof.Machine.execRoleFrameReceive step ret s
  | .takeoverTokenResolve serial => Sys2Proof.Machine.execTakeoverTokenResolve serial s
  | .splitRetry => Sys2Proof.Machine.execSplitRetry s
  | .deferredLosFire handle => Sys2Proof.Machine.execDeferredLosFire handle s
  | .drillEnd cause tilesFailed => Sys2Proof.Machine.execDrillEnd cause tilesFailed s
  | .dmaGo channel => Sys2Proof.Machine.execDmaGo channel s
  | .dmaResume channel => Sys2Proof.Machine.execDmaResume channel s
  | .dmaEnableClear channel => Sys2Proof.Machine.execDmaEnableClear channel s
  | .dmaGlobalDisable => Sys2Proof.Machine.execDmaGlobalDisable s
  | .dmaErrorHalt channel write cause k0 k1 k2 data => Sys2Proof.Machine.execDmaErrorHalt channel write cause k0 k1 k2 data s
  | .dmaReadbackDone channel ok data => Sys2Proof.Machine.execDmaReadbackDone channel ok data s
  | .bankOwnerWrite bank value => Sys2Proof.Machine.execBankOwnerWrite bank value s
  | .bankOwnerChanged bank => Sys2Proof.Machine.execBankOwnerChanged bank s
  | .bankPowerWrite bank value => Sys2Proof.Machine.execBankPowerWrite bank value s
  | .bankPowerReached bank => Sys2Proof.Machine.execBankPowerReached bank s
  | .bankInit bank => Sys2Proof.Machine.execBankInit bank s
  | .bankInitDone bank => Sys2Proof.Machine.execBankInitDone bank s
  | .bankAccessCollide bank word dataA dataB => Sys2Proof.Machine.execBankAccessCollide bank word dataA dataB s
  | .ddrTrainingDone ok0 ok1 => Sys2Proof.Machine.execDdrTrainingDone ok0 ok1 s
  | .admMeterWrite reg value => Sys2Proof.Machine.execAdmMeterWrite reg value s
  | .queueTelemetrySample => Sys2Proof.Machine.execQueueTelemetrySample s
  | .p0LatencyClearMax => Sys2Proof.Machine.execP0LatencyClearMax s
  | .mateGapClearMax => Sys2Proof.Machine.execMateGapClearMax s
  | .admTelClearMax => Sys2Proof.Machine.execAdmTelClearMax s
  | .hkRound readings => Sys2Proof.Machine.execHkRound readings s
  | .adcConversionDone code => Sys2Proof.Machine.execAdcConversionDone code s
  | .adcCtrlWrite value => Sys2Proof.Machine.execAdcCtrlWrite value s
  | .adcUrgentGo value => Sys2Proof.Machine.execAdcUrgentGo value s
  | .adcUrgentResultRead => Sys2Proof.Machine.execAdcUrgentResultRead s
  | .dacCtrlWrite channel value => Sys2Proof.Machine.execDacCtrlWrite channel value s
  | .dacClrNChange low => Sys2Proof.Machine.execDacClrNChange low s
  | .porNRelease => Sys2Proof.Machine.execPorNRelease s
  | .porNAssert => Sys2Proof.Machine.execPorNAssert s
  | .warmReset lowNs => Sys2Proof.Machine.execWarmReset lowNs s
  | .resetCtrlWrite value => Sys2Proof.Machine.execResetCtrlWrite value s
  | .resetHeldExpire => Sys2Proof.Machine.execResetHeldExpire s
  | .mainStart => Sys2Proof.Machine.execMainStart s
  | .calSetRead set => Sys2Proof.Machine.execCalSetRead set s
  | .surfaceExpandDone tile => Sys2Proof.Machine.execSurfaceExpandDone tile s
  | .restartResolve => Sys2Proof.Machine.execRestartResolve s
  | .readyChange => Sys2Proof.Machine.execReadyChange s
  | .digestRecomputeDone => Sys2Proof.Machine.execDigestRecomputeDone s
  | .mainSupplyFault monitor => Sys2Proof.Machine.execMainSupplyFault monitor s
  | .mainSupplyGood => Sys2Proof.Machine.execMainSupplyGood s
  | .aonSupplyLow => Sys2Proof.Machine.execAonSupplyLow s
  | .timePllLock => Sys2Proof.Machine.execTimePllLock s
  | .timePllLossOfLock => Sys2Proof.Machine.execTimePllLossOfLock s
  | .sitePortLinkChange port up => Sys2Proof.Machine.execSitePortLinkChange port up s
  | .verbHostDataDone h data => Sys2Proof.Machine.execVerbHostDataDone h data s
  | .flashImageReadDone img => Sys2Proof.Machine.execFlashImageReadDone img s
  | .calSaveFlashDone ok => Sys2Proof.Machine.execCalSaveFlashDone ok s
  | .adcUrgentConversionDone code => Sys2Proof.Machine.execAdcUrgentConversionDone code s
  | .standbyIdentPoll => Sys2Proof.Machine.execStandbyIdentPoll s
  | .selfTestTimeout h => Sys2Proof.Machine.execSelfTestTimeout h s
  | .dalovoFrameSent port => Sys2Proof.Machine.execDalovoFrameSent port s
  | .pciePowerStateChange d3hot => Sys2Proof.Machine.execPciePowerStateChange d3hot s

end Sys2Proof.Machine
end

