-- ==== Sys2Proof/Safety.lean ====
section
/-! DEFINITION. What counts as a safe run, and the terms in which statements say what a command leaves alone: the parts of
the state, and the relation that only some of them differ. -/

namespace Sys2Proof.Safety

open Sys2Proof.Machine

/-- The parts of the state that a frame names. Together they are the whole state. -/
inductive Part where
  | pending | out | free | dt
  | time
  /-- The fault collector, but for ERR_LEVEL and the RESUME_REGION verbs in progress. -/
  | faults | errLevel | resumes
  /-- The PCIe function, the queues and the sideband, but for MSI-X pending bits, verbs in progress and events owed. -/
  | host | irq | issues | owed
  | comma | regions | store
  /-- Classes, lock-ins, journal and the registers of the loop block; the elements. -/
  | loops | elems
  /-- The SMU engine, but for the runs of its lists; the runs. -/
  | smu | runs
  /-- The calibration manager, but for its runs and their verbs; these. -/
  | calib | calRuns
  | links | tiles
  /-- Banks, DDR channels, DMA; what the matrix counts and records. -/
  | adm | mem | matrix | lsu
  /-- Role and paths; the progress of a HANDOVER; the numbering of mirror records. -/
  | mate | handover | mirror
  /-- Start-up and identity, but for OTP, the digest's progress and the restart record; these. -/
  | chip | otp | digest
  | house | hostOps
  deriving DecidableEq, Repr

/-- Two states agree on a part. -/
abbrev Part.same (s t : State) : Part → Prop
  | .pending => t.pending = s.pending
  | .out => t.out = s.out
  | .free => t.free = s.free
  | .dt => t.dt = s.dt
  | .time => t.time = s.time
  | .faults => { t.faults with errLevel := 0, resumes := [] } = { s.faults with errLevel := 0, resumes := [] }
  | .errLevel => t.faults.errLevel = s.faults.errLevel
  | .resumes => t.faults.resumes = s.faults.resumes
  | .host => { t.host with msixPending := [], issues := [], owed := [] } =
      { s.host with msixPending := [], issues := [], owed := [] }
  | .irq => t.host.msixPending = s.host.msixPending
  | .issues => t.host.issues = s.host.issues
  | .owed => t.host.owed = s.host.owed
  | .comma => t.comma = s.comma
  | .regions => t.regions = s.regions
  | .store => t.store = s.store
  | .loops => { t.loops with elems := [] } = { s.loops with elems := [] }
  | .elems => t.loops.elems = s.loops.elems
  | .smu => { t.smu with runs := [], ssRun := none } = { s.smu with runs := [], ssRun := none }
  | .runs => t.smu.runs = s.smu.runs ∧ t.smu.ssRun = s.smu.ssRun
  | .calib => { t.calib with runs := [], batches := [] } = { s.calib with runs := [], batches := [] }
  | .calRuns => t.calib.runs = s.calib.runs ∧ t.calib.batches = s.calib.batches
  | .links => t.paost.links = s.paost.links
  | .tiles => t.paost.tiles = s.paost.tiles
  | .adm => t.adm = s.adm
  | .mem => t.mem = s.mem
  | .matrix => t.matrix = s.matrix
  | .lsu => t.lsu = s.lsu
  | .mate => { t.mate with handover := .none, sent := 0, unacked := [], waits := [] } =
      { s.mate with handover := .none, sent := 0, unacked := [], waits := [] }
  | .handover => t.mate.handover = s.mate.handover
  | .mirror => t.mate.sent = s.mate.sent ∧ t.mate.unacked = s.mate.unacked ∧ t.mate.waits = s.mate.waits
  | .chip => { t.chip with otp := {}, digestBusy := false, digestAgain := false, digestCurrent := false, restart := {} } =
      { s.chip with otp := {}, digestBusy := false, digestAgain := false, digestCurrent := false, restart := {} }
  | .otp => t.chip.otp = s.chip.otp
  | .digest => t.chip.digestBusy = s.chip.digestBusy ∧ t.chip.digestAgain = s.chip.digestAgain ∧
      t.chip.digestCurrent = s.chip.digestCurrent ∧ t.chip.restart = s.chip.restart
  | .house => t.house = s.house
  | .hostOps => t.hostOps = s.hostOps

/-- Only the parts in `P` differ. -/
def Only (P : List Part) (s t : State) : Prop := ∀ p, p ∉ P → p.same s t

/-- No HANDOVER and no RESUME_REGION is in progress: a command brings no step of theirs after it. -/
def Quiet (s : State) : Prop := s.mate.handover = .none ∧ s.faults.resumes = []

/-- What follows any command: output, pending interrupts, mirror records, the digest's progress and the restart record
(R296, R404, R458, R466). -/
def background : List Part := [.out, .irq, .mirror, .digest]

/-- The banks' and the DRAM's bytes stand in their one canonical form. -/
def MemForm (s : State) : Prop := s.mem.wf

/-- ERR_LEVEL is a severity (R9, R435). -/
def ErrLevelOk (s : State) : Prop := 1 ≤ s.faults.errLevel ∧ s.faults.errLevel ≤ 3

/-- A run of `n` steps that neither faults nor is refused. -/
def Runs (n : Nat) (s : State) : Prop :=
  match n with
  | 0 => True
  | n + 1 => match step s with
    | .next t => Runs n t
    | _ => False

/-! ## What each command may touch beside the background -/

/-- A fault record with what it brings: the collector, the journal, light off, loops and sweeps that end, links stopped, DAC
switches open (R430, R432). -/
def recordParts : List Part := [.faults, .loops, .elems, .runs, .calRuns, .links, .lsu, .house]

/-- A token with what it brings (R102, R210, R230). -/
def launchParts : List Part := [.issues, .owed, .store, .elems, .runs, .calib, .calRuns, .links]

/-- What a warm reset clears (R445). -/
def resetParts : List Part := [.time, .faults, .errLevel, .resumes, .host, .issues, .owed, .comma, .regions, .store,
  .loops, .elems, .smu, .runs, .calib, .calRuns, .links, .adm, .mem, .matrix, .lsu, .mate, .handover, .chip, .house,
  .hostOps]

/-- An adopted tile with what waited for it (R408 to R412, R442). -/
def adoptParts : List Part := [.free, .resumes, .issues, .regions, .store, .elems, .smu, .runs, .calib, .calRuns,
  .links, .tiles, .mate, .handover, .chip]

/-- The parts that a command may touch while no HANDOVER and no RESUME_REGION is in progress. -/
def touched : Instr → List Part
  | .bar0AccessError .. => []
  | .dalovoAnnounceSend .. | .dalovoAnnounceReceive .. | .dalovoHelloReply .. | .dalovoHandshakeTimeout .. |
    .dvRxSlotFree .. | .admMeterWrite .. | .queueTelemetrySample | .admTelClearMax => [.adm]
  | .porNRelease | .readyChange | .mainSupplyGood => [.chip]
  | .commaLinkShareWrite .. | .commaLoopShareWrite .. => [.comma]
  | .feBlankEnd .. | .placementMove .. | .pathLossUpdate .. => [.elems]
  | .faultClear .. | .faultFirstClear => [.faults]
  | .sqTailWrite .. | .cqHeadWrite .. | .eqHeadWrite .. | .sqReadFail .. | .cqEqWriteFail .. | .queueDisable .. |
    .msixInterruptTimer .. | .sbCompletionRead | .sbEventRead | .sbWindowOffset .. | .pciePowerStateChange .. =>
    [.host]
  | .adcConversionDone .. | .adcCtrlWrite .. | .adcUrgentGo .. | .adcUrgentResultRead | .dacCtrlWrite .. |
    .dacClrNChange .. | .adcUrgentConversionDone .. => [.house]
  | .nop .. | .getCert .. | .selfTestTimeout .. => [.issues]
  | .logInfoReceive .. | .bulkReceive .. | .linkInjectCrc .. => [.links]
  | .journalFrameWrite .. | .journalFrameExpire .. => [.loops]
  | .bindingWatchdogExpire .. | .testPulseStart .. | .safeKeyWrite .. | .safeCommitWrite .. | .safeKeyTimeout |
    .lenForceOffWrite .. | .safetyBlockDeliver .. | .safetyRecordWrite .. => [.lsu]
  | .relayedHbeatReceive .. | .mateWaitExpire | .mirrorAckReceive .. | .mirrorAckTimeout | .syncReq |
    .digestFrameReceive .. | .mateGapClearMax => [.mate]
  | .dmaGo .. | .dmaResume .. | .bankOwnerWrite .. | .bankOwnerChanged .. | .bankPowerWrite .. | .bankPowerReached
    .. | .bankInit .. | .bankInitDone .. => [.mem]
  | .complianceEventReceive .. | .pointResultReceive .. | .sweepTimeout .. => [.runs]
  | .losClearReceive .. | .ssResultRead | .portSelWrite .. | .portResultRead | .refCtrlWrite .. | .refConversionGo |
    .refConversionDone .. | .refResultRead => [.smu]
  | .prepLeadDue .. | .staleReprepare .. | .p0LatencyClearMax => [.store]
  | .tileCommitReceive .. | .tileLatch .. | .slotOpen .. | .driveSlotFrame .. | .setClass .. | .setFast .. |
    .classDiv .. | .shapeLoad .. | .setEpoch .. | .setShare .. | .tileAbort .. | .claim .. | .release .. |
    .pointWord .. | .pointGo .. | .calPoint .. | .smuBus .. | .readbackReq .. | .tbeaconReceive .. | .tbeaconLoss ..
    | .hbeatTileRelay .. | .ownerHbeatExpire .. | .standbyIdentPoll => [.tiles]
  | .heldChangeLimit | .syncTimeout | .holdoverExpire | .acceptJump | .timeSnap | .dtLoRead | .rateLoRead |
    .ptpAnnounceReceive .. | .ptpSyncReceive .. | .ptpDelayReqSend .. | .ptpAnnounceTimeout | .ppsOutEdge |
    .ppsOutFall | .ppsInEdge | .ppsInResultRead | .timePllLock => [.time]
  | .calTimeout .. => [.calib, .calRuns]
  | .driveShapeEnd .. => [.elems, .tiles]
  | .dmaEnableClear .. | .dmaGlobalDisable => [.free, .mem, .matrix]
  | .bulkPull .. => [.free, .tiles]
  | .queueEnable .. | .queueDrained .. | .queueConfigWrite .. => [.host, .adm]
  | .verbArrival .. => [.issues, .adm]
  | .calSaveFlashDone .. => [.issues, .calib]
  | .dalovoSend .. | .stageList .. | .paraDefine .. | .classLoad .. | .sweepLoad .. => [.issues, .hostOps]
  | .classSwap .. | .journalCopy .. => [.issues, .loops]
  | .sweepRun .. => [.issues, .runs]
  | .sweepFree .. => [.issues, .smu]
  | .stage .. | .schedule .. | .arm .. | .disarm .. | .freeSentence .. | .paraStart .. => [.issues, .store]
  | .hbeatSend => [.links, .mate]
  | .linkctlAckReceive .. | .nakRepeatTimeout .. | .ackIdleTimeout .. | .trainBlockReceive .. | .trainStepTimeout ..
    | .eidleEnter .. | .eidleExit .. => [.links, .tiles]
  | .portSampleReceive .. => [.loops, .smu]
  | .snapshotApplied .. => [.mate, .chip]
  | .dalovoHello .. | .dalovoFinish .. | .dalovoUserFrame .. | .dalovoClose .. | .dalovoIdleTimeout .. |
    .dalovoFrameSent .. => [.owed, .adm]
  | .calDonePost .. => [.owed, .calRuns]
  | .busCtrlRequest .. => [.smu, .links]
  | .ssCtrlGo => [.smu, .runs]
  | .losComparatorRaise .. | .losComparatorClear .. | .complianceClamp .. => [.smu, .tiles]
  | .pinExpire .. => [.store, .elems]
  | .tileDriveFrame .. => [.tiles, .mate]
  | .calSetRead .. => [.calib, .calRuns, .chip]
  | .calMicroRun .. | .calFullRun .. => [.elems, .calRuns, .links]
  | .sqEntryFetch .. | .sbVerbWrite .. => [.host, .issues, .adm]
  | .eventPost => [.host, .owed, .adm]
  | .saveCalibration .. | .exportCalibration .. => [.issues, .calib, .hostOps]
  | .retireElement .. | .restoreElement .. | .elementTrim .. => [.issues, .loops, .elems]
  | .dalovoVerbFrame .. => [.issues, .owed, .adm]
  | .getDigest .. => [.issues, .owed, .chip]
  | .commit .. | .fire .. | .cancel .. | .paraStop .. => [.issues, .owed, .store]
  | .sweepStop .. => [.issues, .runs, .links]
  | .pin .. | .unpin .. => [.issues, .store, .elems]
  | .safetyFrameReceive .. | .safetyFrameSend .. => [.owed, .adm, .lsu]
  | .elementReroute .. => [.owed, .store, .elems]
  | .settlingDwellEnd .. => [.store, .elems, .calib]
  | .timedDalovoDue .. => [.time, .owed, .adm]
  | .completionPost .. => [.host, .issues, .owed, .adm]
  | .calRun .. => [.issues, .elems, .calib, .calRuns]
  | .digestRecomputeDone => [.issues, .owed, .mate, .chip]
  | .fireDoorbell .. => [.issues, .owed, .store, .adm]
  | .deferredLosFire .. => [.issues, .owed, .store, .mate]
  | .mainStart => [.faults, .host, .issues, .owed, .chip]
  | .sweepPointStart .. => [.free, .elems, .smu, .runs, .links]
  | .sweepPointEnd .. => [.free, .elems, .smu, .runs, .tiles]
  | .pcieFunctionReset | .pciePerst .. => [.free, .host, .issues, .owed, .mem, .matrix]
  | .sentencePrepare | .latchReportReceive .. | .launchResultTimeout .. | .safeStateTokenResolve .. => [.issues,
    .owed, .store, .elems, .links]
  | .sweepRunEnd .. => [.issues, .owed, .elems, .smu, .runs, .tiles]
  | .losEventReceive .. => [.issues, .owed, .store, .smu, .adm, .mate]
  | .collectorSelfFault => [.faults, .elems, .runs, .calRuns, .links, .lsu, .house]
  | .verbHostDataDone .. => [.issues, .store, .loops, .smu, .calib, .adm, .hostOps]
  | .tokenLostReceive .. | .contextRebuild .. | .centralEngineError .. | .ilkContactChange .. | .ilkDiscrepancy .. |
    .lenEvaluate | .fbkTimeout .. | .stuckOnDetect .. | .testPulseCheck .. | .safeAckWrite .. | .lsuSelfCheck .. |
    .hkRound .. => recordParts
  | .tokenIssue .. | .p0Dispatch | .reversalLaunch .. => launchParts
  | .handover .. => [.resumes, .issues, .regions, .elems, .runs, .calRuns, .links, .handover]
  | .resetHeldExpire => recordParts ++ [.chip]
  | .digestMismatchExpire => recordParts ++ [.mate]
  | .bankAccessCollide .. => recordParts ++ [.mem]
  | .calChannelRun .. => recordParts ++ [.calib]
  | .ackMissingTimeout .. | .blockLockLoss .. | .linkRetrain .. | .calBusTimeout => recordParts ++ [.smu]
  | .scheduleMismatchReceive .. | .senseFrameReceive .. => recordParts ++ [.regions]
  | .timeMeasurement .. | .servoFeedWrite .. | .heldChangeApply | .ptpDelayRespReceive .. | .timePllLossOfLock =>
    recordParts ++ [.time]
  | .scheduledLaunchDue .. | .paragraphStepDue .. => launchParts ++ [.time]
  | .bar2Access .. => recordParts ++ [.host, .mem]
  | .ddrTrainingDone .. => recordParts ++ [.mem, .chip]
  | .calSenseReceive .. => recordParts ++ [.calib, .tiles]
  | .linkFrameReceive .. | .linkctlNakReceive .. => recordParts ++ [.smu, .tiles]
  | .sitePortLinkChange .. => recordParts ++ [.owed, .adm]
  | .selfTest .. => recordParts ++ [.free, .issues]
  | .dmaErrorHalt .. | .dmaReadbackDone .. => recordParts ++ [.free, .mem, .matrix]
  | .tileFaultReceive .. => recordParts ++ [.issues, .owed, .store]
  | .mirrorReceive .. => recordParts ++ [.store, .calib, .mate]
  | .regionEscalate .. | .handshakeWatchdog .. | .faultReport .. => recordParts ++ [.issues, .owed, .regions,
    .store, .matrix]
  | .mgmtWatchdog => recordParts ++ [.time, .owed, .adm, .mem, .matrix]
  | .cellOperationError .. => recordParts ++ [.issues, .owed, .regions, .store, .smu, .matrix]
  | .drillEnd .. => recordParts ++ [.resumes, .issues, .regions, .mate, .handover]
  | .resumeRegion .. => recordParts ++ [.free, .resumes, .issues, .regions, .handover]
  | .faultInjectCheck .. | .faultInjectReact .. => recordParts ++ [.free, .issues, .owed, .regions, .store, .tiles,
    .mem, .matrix]
  | .readbackReceive .. | .identReceive .. | .tempReceive .. | .adoptCorrectionEnd .. | .splitRetry |
    .surfaceExpandDone .. => adoptParts
  | .mateHeartbeatReceive .. => recordParts ++ [.resumes, .issues, .owed, .regions, .store, .mate, .handover, .chip]
  | .roleFrameReceive .. | .takeoverTokenResolve .. | .restartResolve => adoptParts ++ [.owed]
  | .flashImageReadDone .. => recordParts ++ [.time, .comma, .regions, .smu, .adm, .mem, .mate, .chip]
  | .cmdAckReceive .. => adoptParts ++ [.faults, .loops, .lsu, .house]
  | .commaBoundary => adoptParts ++ [.dt, .faults, .comma, .loops, .adm, .lsu, .house]
  | .resetCtrlWrite .. | .mainSupplyFault .. => resetParts
  | .porNAssert | .aonSupplyLow => resetParts ++ [.dt]
  | .warmReset .. => resetParts ++ [.free]
  | .sbWindowAccess .. | .registerWrite .. => resetParts ++ [.free, .tiles]

/-- Those, and the background. -/
def touches (c : Instr) : List Part := touched c ++ background

/-! ## Verbs -/

/-- What precedes a verb's own checks is passed: it has its turn (R101), neither a handover (R416) nor throttling (R475)
holds it, and checks 2 to 4 of R310 pass. -/
def Accepts (s : State) (h : Hdr) (op : Nat) (c : Instr) : Prop :=
  s.turn h op = true ∧ s.verbsWait = false ∧ s.verbStays op = false ∧ s.gate h.src op c = none

/-- Between `s` and `t` the verb of header `h` ended with a status and RESULT bytes, and no other verb did (R304). -/
def VerbEnds (s t : State) (h : Hdr) (op status result : Nat) : Prop :=
  t.host.issues = (s.complete h op status result).host.issues

/-- Between `s` and `t` the block gave out `l`, in this order, before anything that follows the command. -/
def Gives (s t : State) (l : List Output) : Prop := s.out ++ l <+: t.out

/-- A report made now becomes a record of its own: the main side runs, its source is not fenced (R426), no record of the
latest millisecond takes it in (R424). -/
def Reportable (s : State) (code source d0 : Nat) : Prop :=
  s.chip.mainRun = true ∧ s.fencedSource { code, source, detail0 := d0 } = false ∧
    findMerge (s.faults.log ++ s.faults.spill) { code, source, detail0 := d0 } s.dt = none

/-- Between `s` and `t` the collector wrote a record of this report, with the next SEQ, the time and the severity of its
code (R422). -/
def NewRecord (s t : State) (code source d0 : Nat) : Prop :=
  ∃ f ∈ t.faults.log, f.seq = some s.faults.nextSeq ∧ f.code = code ∧ f.source = source ∧ f.detail0 = d0 ∧
    f.severity = severityOf code ∧ f.time = s.dt

/-- The byte at `x` of the banks and the DRAM reads in `t` as in `s`, wherever `p` does not hold. -/
def SameBytesBut (p : Nat → Prop) (s t : State) : Prop := ∀ x, ¬ p x → t.mem.get x = s.mem.get x

/-- A token may be issued and leaves a tile to wait for: none of the bars of R67, R69, R182 holds, its serial is that of no launch
that is out, some clause of it still acts (R75), some tile of its footprint can be reached. -/
def TokenReady (s : State) (tk : CommitToken) : Prop :=
  s.tokensBarred = false ∧ s.tokenRoom = true ∧ (∀ l ∈ s.store.launches, l.serial ≠ s.store.nextSerial) ∧
    (((s.tokenLaunch tk s.store.nextSerial).1.reasons.take tk.clauses.length).any (fun r => r == rsApplied || r == rsAbsent) ||
      !tk.revActs.isEmpty || (tk.clauses.isEmpty && !tk.moves.isEmpty)) = true ∧
    ∃ k ∈ s.tokenTiles tk, s.tileReach k = true

/-- Between `s` and `t` the token was issued (R67): the next serial is taken, the table stands as the token leaves it, the launch is
out with its acts, every tile of its footprint that can be reached has been sent COMMIT with serial and launch time. -/
def TokenIssued (s t : State) (tk : CommitToken) : Prop :=
  t.store.nextSerial = s.store.nextSerial + 1 ∧ t.store.table = (s.tokenLaunch tk s.store.nextSerial).2.table ∧
    (∃ l ∈ t.store.launches, l.serial = s.store.nextSerial ∧ l.tick = tk.tick ∧ l.handle = tk.handle ∧ l.trigger = tk.trigger ∧
      l.boundLost = tk.boundLost ∧ l.acts = (s.tokenLaunch tk s.store.nextSerial).1.acts ∧
      l.reasons = (s.tokenLaunch tk s.store.nextSerial).1.reasons) ∧
    ∀ k ∈ s.tokenTiles tk, s.tileReach k = true →
      ∃ slot, .downFrame k "COMMIT" [s.store.nextSerial.toNat, slot, tk.tick % 65536] ∈ t.out

/-- The one launch of a serial. -/
def TheLaunch (s : State) (serial : Serial) (l : Launch) : Prop :=
  s.store.launches.filter (fun x => x.serial = serial) = [l]

/-- An encrypted frame is taken as one of peer `p` (R332, R336): its session is up, the form and the tag are right, its number
is new. -/
def Accepted (s : State) (h : DvHead) (p : Nat) : Prop :=
  s.peerOf h.srcId = some p ∧ (s.peer p).state = .up ∧ (s.peer p).port = h.port ∧ (s.peer p).session = h.session ∧
    h.version = 1 ∧ h.lengthOk = true ∧ h.tagOk = true ∧ (s.peer p).rxSeq.getD 0 < h.seq ∧ h.seq < 2 ^ 32

/-- A link block as it leaves one end of a tile link (Table 9-1). -/
def linkBlock (s : State) (e : LinkEnd) (name : String) (fields : List Nat) : Output :=
  match e with
  | .controller k => .downFrame k name fields
  | .tile k => .upFrame k (s.link k).portB name fields

/-- The header and the opcode of a verb (Table 11-7); none for any other command. -/
def verbOf : Instr → Option (Hdr × Nat)
  | .nop h => some (h, 0x00)
  | .resumeRegion h _ _ => some (h, 0x01)
  | .selfTest h _ _ _ => some (h, 0x02)
  | .getDigest h _ _ _ => some (h, 0x03)
  | .getCert h _ _ _ => some (h, 0x04)
  | .handover h _ _ => some (h, 0x05)
  | .dalovoSend h _ _ _ _ _ _ _ => some (h, 0x06)
  | .stage h _ _ _ => some (h, 0x10)
  | .stageList h _ _ _ _ _ => some (h, 0x11)
  | .commit h _ _ => some (h, 0x12)
  | .schedule h _ _ _ _ => some (h, 0x13)
  | .arm h _ _ _ _ _ => some (h, 0x14)
  | .disarm h _ => some (h, 0x15)
  | .fire h _ => some (h, 0x16)
  | .cancel h _ => some (h, 0x17)
  | .freeSentence h _ => some (h, 0x18)
  | .paraDefine h _ _ _ _ _ _ _ => some (h, 0x19)
  | .paraStart h _ _ _ => some (h, 0x1A)
  | .paraStop h _ _ => some (h, 0x1B)
  | .pin h _ _ _ _ => some (h, 0x20)
  | .unpin h _ _ _ => some (h, 0x21)
  | .retireElement h _ => some (h, 0x22)
  | .restoreElement h _ => some (h, 0x23)
  | .classLoad h _ _ _ => some (h, 0x28)
  | .classSwap h _ => some (h, 0x29)
  | .elementTrim h _ _ _ _ => some (h, 0x2A)
  | .journalCopy h _ _ _ _ _ => some (h, 0x2B)
  | .sweepLoad h _ _ _ _ => some (h, 0x30)
  | .sweepRun h _ _ _ _ _ _ _ => some (h, 0x31)
  | .sweepStop h _ => some (h, 0x32)
  | .sweepFree h _ => some (h, 0x33)
  | .calRun h _ _ _ _ => some (h, 0x38)
  | .saveCalibration h _ _ _ => some (h, 0x39)
  | .exportCalibration h _ _ _ => some (h, 0x3A)
  | _ => none

end Sys2Proof.Safety
end

