-- ==== Sys2Proof/Certificates/Slice0/Obligations.lean ====
section
/-! DEFINITION. What is claimed of the block: statements for the provers. -/

open Sys2Proof Sys2Proof.Machine Sys2Proof.Safety

/-! ## The block as a whole -/

/-- A step takes the command at the front of the queue and runs it on the state with the queue's rest. -/
def Obligations.StepRunsFrontCommand : Prop :=
  ∀ (c : Instr) (s : State) (rest : List Instr),
    step { s with pending := c :: rest } = exec c { s with pending := rest }

/-- R30, R272: on an empty queue one tick of device time passes while the time PLL is locked; at the end of every 1,250th
tick the comma's work is done. The tick on an empty queue is the model's own choice (assumption log 1). -/
def Obligations.EmptyQueueTicks : Prop :=
  ∀ s : State, s.pending = [] →
    (s.time.pllLocked = false → step s = .next s) ∧
    (s.time.pllLocked = true → (s.dt + 1) % 1250 ≠ 0 → step s = .next { s with dt := s.dt + 1 }) ∧
    (s.time.pllLocked = true → (s.dt + 1) % 1250 = 0 → ∃ t, step s = .next t ∧ t.dt = s.dt + 1)

/-- No command changes the queue: its rest is what it was (frame). -/
def Obligations.CommandsLeaveQueue : Prop :=
  ∀ (c : Instr) (s t : State), exec c s = .next t → t.pending = s.pending

/-- R272, R446: no command writes device time but COMMA_BOUNDARY, at which it passes, and the two that hold everything in
reset. -/
def Obligations.OnlyTimeMovesDeviceTime : Prop :=
  ∀ (c : Instr) (s t : State), c ≠ .commaBoundary → c ≠ .porNAssert → c ≠ .aonSupplyLow →
    exec c s = .next t → t.dt = s.dt

/-- R464: no step writes OTP. -/
def Obligations.OtpIsNeverWritten : Prop := ∀ s t : State, step s = .next t → t.chip.otp = s.chip.otp

/-- The reset values that the spec states (R8, R272, R443 and the Reset columns): POR_N has been released, the main side is still in
reset with no image, device time stands at 0 with the PLL unlocked, ERR_LEVEL is 2, the fault log is empty, network time is FREERUN
with RATE 0, MSI-X is off, no connection stands, every word of the banks is poisoned, every element UNCAL, every sentence FREE.
That the queue is empty is the model's own. -/
def Obligations.ResetLeavesStatedValues : Prop :=
  State.reset.pending = [] ∧ State.reset.dt = 0 ∧ State.reset.time.pllLocked = false ∧
  State.reset.time.state = .free ∧ State.reset.time.rate = 0 ∧
  State.reset.chip.por = false ∧ State.reset.chip.mainRun = false ∧ State.reset.chip.imageApplied = false ∧
  State.reset.faults.errLevel = 2 ∧ State.reset.faults.log = [] ∧ State.reset.faults.safeState = false ∧
  State.reset.host.msixEn = false ∧ State.reset.store.table = [] ∧ State.reset.mate.takeovers = 0 ∧
  (∀ w, State.reset.mem.wordClean w = false) ∧
  (∀ e, (State.reset.elem e).st = .uncal) ∧ (∀ h, (State.reset.sent h).state = .free)

/-- The banks' and the DRAM's bytes stand in their canonical form after reset. -/
def Obligations.ResetMemoryCanonical : Prop := MemForm State.reset

/-- Every step keeps the canonical form of the banks' and the DRAM's bytes. -/
def Obligations.StepKeepsMemoryCanonical : Prop := ∀ s t : State, MemForm s → step s = .next t → MemForm t

/-- R9, R435: ERR_LEVEL stays a severity, 1 to 3; after reset it is one. -/
def Obligations.StepKeepsErrLevelSeverity : Prop :=
  ErrLevelOk State.reset ∧ ∀ s t : State, ErrLevelOk s → step s = .next t → ErrLevelOk t

/-! ## Verbs: what precedes their own checks -/

/-- R310: a verb in its turn that fails a check of the gate ends with the status of the first check that fails (Table 11-6):
BAD_OPCODE, then NOT_READY, then BAD_FIELD, and has no effect. -/
def Obligations.VerbEndsWithFirstFailingCheck : Prop :=
  ∀ (c : Instr) (h : Hdr) (op : Nat) (s : State), verbOf c = some (h, op) → Quiet s →
    s.turn h op = true → s.verbsWait = false → s.verbStays op = false →
    (s.permitted h.src op = false → ∃ t, exec c s = .next t ∧ VerbEnds s t h op 0x0E (noResult op) ∧ Only (.issues :: background) s t) ∧
    (s.permitted h.src op = true → s.verbReady op = false →
      ∃ t, exec c s = .next t ∧ VerbEnds s t h op 0x0F (noResult op) ∧ Only (.issues :: background) s t) ∧
    (s.permitted h.src op = true → s.verbReady op = true → fieldsOk c = false →
      ∃ t, exec c s = .next t ∧ VerbEnds s t h op 0x07 (noResult op) ∧ Only (.issues :: background) s t)

/-- R101, R416, R475: a verb whose earlier verb of the same source has not ended, one held by a handover, and one held by
throttling wait: nothing happens. -/
def Obligations.VerbOutOfTurnWaits : Prop :=
  ∀ (c : Instr) (h : Hdr) (op : Nat) (s : State), verbOf c = some (h, op) →
    (s.turn h op = false ∨ s.verbsWait = true ∨ s.verbStays op = true) → exec c s = .next s

/-! ## The clause store, sentences and launches asked for -/

/-- NOP, STAGE, STAGE_LIST and FREE_SENTENCE complete (R71 to R73, R308). -/
def Obligations.StagingVerbsComplete : Prop :=
  (∀ (h : Hdr) (s : State), Quiet s → Accepts s h 0x00 (.nop h) →
    ∃ t, exec (.nop h) s = .next t ∧ VerbEnds s t h 0x00 0 0 ∧ Only (.issues :: background) s t) ∧
  (∀ (h : Hdr) (openF : Bool) (hd : Nat) (cl : List Rec128) (s : State), Quiet s →
    Accepts s h 0x10 (.stage h openF hd cl) → cl.all s.img.clauseOk = true → s.locked hd = false →
    ((s.sent hd).idle = true ∨ ((s.sent hd).state = .free ∧ openF = true)) →
    let new := if openF then cl else (s.sent hd).clauses ++ cl
    new.length ≤ 1024 → s.clauseCount - (s.sent hd).clauses.length + new.length ≤ 1048576 →
    ∃ t, exec (.stage h openF hd cl) s = .next t ∧ t.sent hd = { s.sent hd with state := .stored, clauses := new } ∧
      (∀ k, k ≠ hd → t.sent k = s.sent k) ∧ VerbEnds s t h 0x10 0 0 ∧ Only ([.issues, .store] ++ background) s t) ∧
  (∀ (h : Hdr) (openF ns : Bool) (hd n addr : Nat) (s : State), Quiet s →
    Accepts s h 0x11 (.stageList h openF ns hd n addr) →
    ∃ t, exec (.stageList h openF ns hd n addr) s = .next t ∧ Gives s t [.hostRead addr (16 * n) ns] ∧
      t.hostOps = s.hostOps ++ [{ hdr := h, verb := .stageList h openF ns hd n addr }] ∧
      Only (.hostOps :: background) s t) ∧
  (∀ (h : Hdr) (hd : Nat) (s : State), Quiet s → Accepts s h 0x18 (.freeSentence h hd) →
    (s.sent hd).idle = true → s.locked hd = false →
    ∃ t, exec (.freeSentence h hd) s = .next t ∧ t.sent hd = { s.sent hd with state := .free, clauses := [] } ∧
      (∀ k, k ≠ hd → t.sent k = s.sent k) ∧ VerbEnds s t h 0x18 0 0 ∧ Only ([.issues, .store] ++ background) s t)

/-- R70 to R72: staging that finds a clause with a bad field, a sentence in another state, or no room has no effect but its
status: BAD_FIELD, BAD_STATE, STORE_FULL, in this order. -/
def Obligations.StageRefusedHasNoEffect : Prop :=
  ∀ (h : Hdr) (openF : Bool) (hd : Nat) (cl : List Rec128) (s : State), Quiet s →
    Accepts s h 0x10 (.stage h openF hd cl) →
    let new := if openF then cl else (s.sent hd).clauses ++ cl
    let bad := !cl.all s.img.clauseOk
    let wrong := s.locked hd || !((s.sent hd).idle || ((s.sent hd).state == .free && openF))
    let full := decide (1024 < new.length) || decide (1048576 < s.clauseCount - (s.sent hd).clauses.length + new.length)
    (bad || wrong || full) = true →
    ∃ t, exec (.stage h openF hd cl) s = .next t ∧
      VerbEnds s t h 0x10 (if bad then 0x07 else if wrong then 0x06 else 0x08) 0 ∧ Only (.issues :: background) s t

/-- COMMIT, SCHEDULE and CANCEL complete (R74, R77, R81, R85). COMMIT begins the preparation; its completion comes with the
launch. -/
def Obligations.LaunchVerbsComplete : Prop :=
  (∀ (h : Hdr) (hd : Nat) (o : LaunchOpts) (s : State), Quiet s → Accepts s h 0x12 (.commit h hd o) →
    (s.sent hd).idle = true → s.faults.safeState = false →
    ∃ t, exec (.commit h hd o) s = .next t ∧ t.sent hd = { s.sent hd with state := .launching } ∧
      (∀ k, k ≠ hd → t.sent k = s.sent k) ∧
      t.store.preps = s.store.preps ++ [{ id := s.store.nextPrep, handle := hd, trigger := .commit h, opts := o }] ∧
      t.host.issues = s.host.issues ∧ Only (.store :: background) s t) ∧
  (∀ (h : Hdr) (hd : Nat) (o : LaunchOpts) (nt : NetTime) (late : Nat) (s : State), Quiet s →
    Accepts s h 0x13 (.schedule h hd o nt late) → (s.sent hd).idle = true → s.locked hd = false →
    s.time.locked = true → s.schedCount < 448 →
    ∃ t, exec (.schedule h hd o nt late) s = .next t ∧ t.sent hd = { s.sent hd with state := .scheduled } ∧
      (∀ k, k ≠ hd → t.sent k = s.sent k) ∧
      t.store.scheds = s.store.scheds ++
        [{ handle := hd, opts := o, t := nt.units, late := late, src := h.src, tag := h.tag, since := s.dt }] ∧
      VerbEnds s t h 0x13 0 0 ∧ Only ([.issues, .store] ++ background) s t) ∧
  (∀ (h : Hdr) (hd : Nat) (x : Sched) (s : State), Quiet s → Accepts s h 0x17 (.cancel h hd) →
    s.store.scheds.find? (fun y => y.handle = hd) = some x → (s.sent hd).state = .scheduled →
    ∃ t e, exec (.cancel h hd) s = .next t ∧ t.sent hd = { s.sent hd with state := .stored, lastStatus := 0x04 } ∧
      t.store.scheds = s.store.scheds.filter (· ≠ x) ∧ t.store.launches = s.store.launches ∧
      t.host.owed = s.host.owed ++ [(x.src, e)] ∧ e.kind = 1 ∧ e.tag = x.tag ∧ e.handle = hd ∧ e.status = 0x04 ∧
      VerbEnds s t h 0x17 0 0 ∧ Only ([.issues, .owed, .store] ++ background) s t) ∧
  (∀ (h : Hdr) (hd : Nat) (s : State), Quiet s → Accepts s h 0x17 (.cancel h hd) →
    (s.store.scheds.find? (fun y => y.handle = hd) = none ∨ (s.sent hd).state ≠ .scheduled) →
    ∃ t, exec (.cancel h hd) s = .next t ∧ VerbEnds s t h 0x17 0x06 (noResult 0x17) ∧ Only (.issues :: background) s t)

/-- ARM, DISARM and FIRE complete (R86, R88, R89, R93). ARM's own completion comes with the end of its preparation, FIRE's
with its launch. -/
def Obligations.ArmedVerbsComplete : Prop :=
  (∀ (h : Hdr) (hd : Nat) (o : LaunchOpts) (rearm : Bool) (pg k : Nat) (ps : List PortRef) (s : State), Quiet s →
    Accepts s h 0x14 (.arm h hd o rearm pg ps) → (s.sent hd).idle = true → s.locked hd = false →
    (∀ r ∈ ps, ((s.img.portRef r).bind (·.monitor)).isSome = true) → (∀ r ∈ ps, s.boundElsewhere hd r = false) →
    s.armConflict hd = false → s.freeArmSlot = some k → s.armedClauses + (s.sent hd).clauses.length ≤ 65536 →
    ∃ t, exec (.arm h hd o rearm pg ps) s = .next t ∧ (t.sent hd).slot = some k ∧ (t.sent hd).ports = ps ∧
      (t.sent hd).pgroup = pg ∧ (t.sent hd).rearm = rearm ∧ (t.sent hd).state = .stored ∧
      (∀ j, j ≠ hd → t.sent j = s.sent j) ∧
      t.store.preps = s.store.preps ++ [{ id := s.store.nextPrep, handle := hd, trigger := .arming h, opts := o }] ∧
      Only (.store :: background) s t) ∧
  (∀ (h : Hdr) (hd : Nat) (s : State), Quiet s → Accepts s h 0x15 (.disarm h hd) →
    ((s.sent hd).state = .armed ∨ (s.sent hd).state = .stale) →
    ∃ t, exec (.disarm h hd) s = .next t ∧ (t.sent hd).state = .stored ∧ (t.sent hd).slot = none ∧
      (t.sent hd).ports = [] ∧ (t.sent hd).clauses = (s.sent hd).clauses ∧ (∀ j, j ≠ hd → t.sent j = s.sent j) ∧
      VerbEnds s t h 0x15 0 0 ∧ Only ([.issues, .store] ++ background) s t) ∧
  (∀ (h : Hdr) (hd : Nat) (s : State), Quiet s → Accepts s h 0x16 (.fire h hd) → s.faults.safeState = false →
    (s.sent hd).state = .armed →
    ∃ t, exec (.fire h hd) s = .next t ∧ t.sent hd = { s.sent hd with state := .launching } ∧
      (∀ j, j ≠ hd → t.sent j = s.sent j) ∧
      t.store.p0Queue = s.store.p0Queue ++
        [{ handle := hd, trigger := .fire h, yellow := decide ((s.issueOf h 0x16).1 = 1), arrival := (s.issueOf h 0x16).2 }] ∧
      t.host.issues = s.host.issues ∧ Only (.store :: background) s t) ∧
  (∀ (h : Hdr) (hd : Nat) (s : State), Quiet s → Accepts s h 0x16 (.fire h hd) → s.faults.safeState = false →
    (s.sent hd).state = .stale →
    ∃ t, exec (.fire h hd) s = .next t ∧ t.sent hd = { s.sent hd with state := .launching } ∧
      t.store.p0Queue = s.store.p0Queue ∧ t.store.staleFires = satInc s.store.staleFires 0xFF ∧
      (∃ p ∈ t.store.preps, p.handle = hd ∧ p.trigger = .fire h ∧ p.opts = (s.sent hd).opts) ∧
      Only (.store :: background) s t)

/-- PARA_DEFINE, PARA_START and PARA_STOP complete (R94, R95, R98). PARA_DEFINE reads its steps from host memory. -/
def Obligations.ParagraphVerbsComplete : Prop :=
  (∀ (h : Hdr) (halt : Bool) (p n addr per rep late : Nat) (s : State), Quiet s →
    Accepts s h 0x19 (.paraDefine h halt p n addr per rep late) →
    ((s.para p).state = .idle ∨ (s.para p).state = .defined) →
    ∃ t, exec (.paraDefine h halt p n addr per rep late) s = .next t ∧ Gives s t [.hostRead addr (16 * n) false] ∧
      t.hostOps = s.hostOps ++ [{ hdr := h, verb := .paraDefine h halt p n addr per rep late }] ∧
      Only (.hostOps :: background) s t) ∧
  (∀ (h : Hdr) (all : Bool) (p : Nat) (nt : NetTime) (s : State), Quiet s → Accepts s h 0x1A (.paraStart h all p nt) →
    ((s.para p).state = .defined ∨ (s.para p).state = .halted) →
    ∃ t, exec (.paraStart h all p nt) s = .next t ∧ (t.para p).state = .running ∧ (t.para p).start = nt.units ∧
      (t.para p).step = 0 ∧ (t.para p).iter = 0 ∧ (t.para p).steps = (s.para p).steps ∧
      (∀ j, j ≠ p → t.para j = s.para j) ∧ VerbEnds s t h 0x1A 0 0 ∧ Only ([.issues, .store] ++ background) s t) ∧
  (∀ (h : Hdr) (p : Nat) (s : State), Quiet s → Accepts s h 0x1B (.paraStop h true p) → (s.para p).state = .running →
    ∃ t, exec (.paraStop h true p) s = .next t ∧ (t.para p).state = .defined ∧ (∀ j, j ≠ p → t.para j = s.para j) ∧
      t.host.owed.length = s.host.owed.length + 1 ∧ VerbEnds s t h 0x1B 0 0 ∧
      Only ([.issues, .owed, .store] ++ background) s t) ∧
  (∀ (h : Hdr) (p : Nat) (s : State), Quiet s → Accepts s h 0x1B (.paraStop h false p) → (s.para p).state = .running →
    (s.para p).step ≠ 0 →
    ∃ t, exec (.paraStop h false p) s = .next t ∧ t.para p = { s.para p with stopAtEnd := true } ∧
      (∀ j, j ≠ p → t.para j = s.para j) ∧ VerbEnds s t h 0x1B 0 0 ∧ Only ([.issues, .store] ++ background) s t)

/-! ## Elements, classes, pins, the journal -/

/-- R121, R176, Table 5-6: RETIRE_ELEMENT, RESTORE_ELEMENT and ELEMENT_TRIM of a placed element wait for its next sample
boundary with what they ask for there; their completions come with it. -/
def Obligations.ElementVerbsWaitForBoundary : Prop :=
  ∀ (h : Hdr) (e : Nat) (s : State), Quiet s → s.img.placedEid e = true →
    (Accepts s h 0x22 (.retireElement h e) → (s.elem e).st ≠ .retired →
      ∃ t, exec (.retireElement h e) s = .next t ∧
        t.elem e = { s.elem e with events := (s.elem e).events ++ [.retire] } ∧ (∀ k, k ≠ e → t.elem k = s.elem k) ∧
        t.loops.waits = s.loops.waits ++ [(e, h, 0x22)] ∧ t.host.issues = s.host.issues) ∧
    (Accepts s h 0x23 (.restoreElement h e) →
      ∃ t, exec (.restoreElement h e) s = .next t ∧
        t.elem e = { s.elem e with events := (s.elem e).events ++ [.restore] } ∧ (∀ k, k ≠ e → t.elem k = s.elem k) ∧
        t.loops.waits = s.loops.waits ++ [(e, h, 0x23)] ∧ t.host.issues = s.host.issues) ∧
    (∀ (reset : Bool) (on off : Int), Accepts s h 0x2A (.elementTrim h reset e on off) →
      ∃ t, exec (.elementTrim h reset e on off) s = .next t ∧
        t.elem e = { s.elem e with newTrims := some (on, off, reset || (s.elem e).newTrims.any (·.2.2)) } ∧ (∀ k, k ≠ e → t.elem k = s.elem k) ∧
        t.loops.waits = s.loops.waits ++ [(e, h, 0x2A)] ∧ t.host.issues = s.host.issues)

/-- R150, R176: CLASS_LOAD reads 128 bytes from host memory; CLASS_SWAP sets SWAP_PENDING and waits for the comma boundary;
JOURNAL_COPY writes 2,112 bytes a millisecond to host memory and ends. -/
def Obligations.ClassAndJournalVerbsComplete : Prop :=
  (∀ (h : Hdr) (k b a : Nat) (s : State), Quiet s → Accepts s h 0x28 (.classLoad h k b a) →
    (s.cls k).activeB ≠ (b == 1) → (s.cls k).swapPending = false →
    ∃ t, exec (.classLoad h k b a) s = .next t ∧ Gives s t [.hostRead a 128 false] ∧
      t.hostOps = s.hostOps ++ [{ hdr := h, verb := .classLoad h k b a }] ∧ t.host.issues = s.host.issues) ∧
  (∀ (h : Hdr) (k : Nat) (s : State), Quiet s → Accepts s h 0x29 (.classSwap h k) → (s.cls k).swapPending = false →
    ∃ t, exec (.classSwap h k) s = .next t ∧
      t.cls k = { s.cls k with swapPending := true, swapDue := true, swapper := some h } ∧
      (∀ j, j ≠ k → t.cls j = s.cls j) ∧ t.host.issues = s.host.issues) ∧
  (∀ (h : Hdr) (release : Bool) (tile ms n a : Nat) (s : State), Quiet s →
    Accepts s h 0x2B (.journalCopy h release tile ms n a) → s.img.placed tile = true → s.canMaster = true →
    ∃ t, exec (.journalCopy h release tile ms n a) s = .next t ∧
      Gives s t [.hostWrite a (2112 * n)
        ((List.range n).foldr (fun k m => s.journalEntry tile (ms + k) + 2 ^ 16896 * m) 0)] ∧
      t.loops.journal.frames = s.loops.journal.frames ∧
      (release = false → t.loops.journal.frozen = s.loops.journal.frozen) ∧ VerbEnds s t h 0x2B 0 0)

/-- R128, R131: PIN gives every element of its range a HOST pin that stands at least LIFETIME ms; UNPIN takes it away. -/
def Obligations.PinVerbsComplete : Prop :=
  (∀ (h : Hdr) (first n ms : Nat) (s : State), Quiet s → Accepts s h 0x20 (.pin h false first n ms) →
    (∀ e ∈ pinRange first n, s.img.placedEid e = true) →
    (s.hostPinned.filter fun e => !(pinRange first n).contains e).length + (pinRange first n).length ≤ 16384 →
    s.pinsFit (pinRange first n) = true →
    ∃ t, exec (.pin h false first n ms) s = .next t ∧
      (∀ e, e ∉ pinRange first n → t.elem e = s.elem e) ∧
      (∀ e ∈ pinRange first n, t.elem e =
        { s.elem e with hostPin := some (max (s.dt + ms * msTicks) ((s.elem e).hostPin.getD 0)) }) ∧
      VerbEnds s t h 0x20 0 0) ∧
  (∀ (h : Hdr) (first n : Nat) (s : State), Quiet s → Accepts s h 0x21 (.unpin h false first n) →
    (∀ e ∈ pinRange first n, s.img.placedEid e = true) →
    ∃ t, exec (.unpin h false first n) s = .next t ∧ (∀ e, e ∉ pinRange first n → t.elem e = s.elem e) ∧
      (∀ e ∈ pinRange first n, t.elem e = { s.elem e with hostPin := none }) ∧ VerbEnds s t h 0x21 0 0) ∧
  (∀ (h : Hdr) (hd n ms : Nat) (s : State), Quiet s → Accepts s h 0x20 (.pin h true hd n ms) →
    (s.sent hd).state ≠ .free → s.pinsFit (s.pinnedOf hd) = true →
    ∃ t, exec (.pin h true hd n ms) s = .next t ∧
      t.sent hd = { s.sent hd with pinExpiry := some (max (s.dt + ms * msTicks) ((s.sent hd).pinExpiry.getD 0)) } ∧
      (∀ k, k ≠ hd → t.sent k = s.sent k) ∧ (∀ e, e ∉ s.pinnedOf hd → t.elem e = s.elem e) ∧ VerbEnds s t h 0x20 0 0)

/-- Tables 4-4 and 1-4, R33, R125, R129, R173, R174, R258, R429: the events of placement and of the journal, the writes of
the comma shares and the tile's schedule mismatch have their effects. -/
def Obligations.PlacementAndJournalEventsComplete : Prop :=
  (∀ (e u : Nat) (s : State), Quiet s → (s.elem e).hostPin = some u → u ≤ s.dt →
    ∃ t, exec (.pinExpire e true) s = .next t ∧ t.elem e = { s.elem e with hostPin := none } ∧
      ∀ k, k ≠ e → t.elem k = s.elem k) ∧
  (∀ (e u : Nat) (s : State), Quiet s → (s.elem e).overrunPin = some u → u ≤ s.dt →
    ∃ t, exec (.pinExpire e false) s = .next t ∧ t.elem e = { s.elem e with overrunPin := none } ∧
      (∀ k, k ≠ e → t.elem k = s.elem k) ∧ t.store = s.store) ∧
  (∀ (e : Nat) (p : Nat × Nat) (s : State), Quiet s → s.loops.throttled = false → s.img.placedEid e = true →
    s.moveTo e = some p →
    ∃ t, exec (.placementMove e false) s = .next t ∧ t.elem e = { s.elem e with moving := some p } ∧
      ∀ k, k ≠ e → t.elem k = s.elem k) ∧
  (∀ (ms tile : Nat) (l : List (Option Int)) (w : Nat × Nat × List (Option Int)) (s : State),
    s.loops.journal.waiting.find? (fun w => w.1 == ms && w.2.1 == tile) = some w → w.2.2 = l →
    s.loops.throttled = false → inRanges s.loops.journal.frozen (s.journalSlot ms) = false →
    ∃ t, exec (.journalFrameWrite ms tile) s = .next t ∧
      tabGet (t.loops.journal.frames.map fun f => (f.1, some f.2)) none (256 * ms + tile) = some l ∧
      t.loops.journal.lost = s.loops.journal.lost) ∧
  (∀ (ms tile : Nat) (s : State), (∃ l, (ms, tile, l) ∈ s.loops.journal.waiting) →
    ((ms + 1) * 1000 + 1000) * usTicks ≤ s.dt →
    ∃ t, exec (.journalFrameExpire ms tile) s = .next t ∧ t.loops.journal.lost = (s.loops.journal.lost + 1) % 2 ^ 32 ∧
      t.loops.journal.frames = s.loops.journal.frames ∧ ∀ l, (ms, tile, l) ∉ t.loops.journal.waiting) ∧
  (∀ (v : Word32) (s : State), s.chip.mainRun = true →
    ∃ t, exec (.commaLinkShareWrite v) s = .next t ∧
      t.comma = { s.comma with
        pendingLink := some (limitShares s.comma.linkShare v).1
        shareErr := s.comma.shareErr || (limitShares s.comma.linkShare v).2 }) ∧
  (∀ (v : Word32) (s : State), s.chip.mainRun = true →
    ∃ t, exec (.commaLoopShareWrite v) s = .next t ∧
      t.comma = { s.comma with
        pendingLoop := some (limitShares s.comma.loopShare v).1
        shareErr := s.comma.shareErr || (limitShares s.comma.loopShare v).2 }) ∧
  (∀ (e : Nat) (s : State), Quiet s → (s.elem e).rebuilding = true →
    ∃ t, exec (.contextRebuild e) s = .next t ∧ (t.elem e).rebuilding = false ∧ (t.elem e).trimOn = 0 ∧
      (t.elem e).trimOff = 0 ∧ (t.elem e).outerTrim = 0 ∧ (t.elem e).handoverDue = true ∧
      (t.elem e).drive = (s.tile (eidTile e)).heldCode (e % 1024) ∧ (∀ k, k ≠ e → t.elem k = s.elem k) ∧
      (Reportable s 0x0045 srcPlace e → NewRecord s t 0x0045 srcPlace e)) ∧
  (∀ (tile : Nat) (s : State), Quiet s → Reportable s 0x0032 (srcTile tile) tile → s.working = true →
    (s.link tile).up = true → (∀ e ∈ s.placedElems, eidTile e = tile → (s.elem e).law = .none) →
    ∃ t, exec (.scheduleMismatchReceive tile) s = .next t ∧ NewRecord s t 0x0032 (srcTile tile) tile ∧
      ∀ j, j < 1024 → (t.elem (1024 * tile + j)).fast = (s.elem (1024 * tile + j)).bright ∧
        .downFrame tile "SET_FAST" [j, b2n (s.elem (1024 * tile + j)).bright, (s.commaNo + 2) % 8] ∈ t.out)

/-! ## Source-measure engine -/

/-- R218: SWEEP_LOAD reads its records from host memory; SWEEP_RUN queues a run on its unit; SWEEP_STOP ends it STOPPED and
stops its point with ABORT, its completion comes with the run's end; SWEEP_FREE empties the list. -/
def Obligations.SweepVerbsComplete : Prop :=
  (∀ (h : Hdr) (ns : Bool) (l n a : Nat) (s : State), Quiet s → Accepts s h 0x30 (.sweepLoad h ns l n a) →
    s.run l = none →
    ∃ t, exec (.sweepLoad h ns l n a) s = .next t ∧ Gives s t [.hostRead a (16 * n) ns] ∧
      t.hostOps = s.hostOps ++ [{ hdr := h, verb := .sweepLoad h ns l n a }] ∧ t.host.issues = s.host.issues) ∧
  (∀ (h : Hdr) (compEnd act : Bool) (l u dc ms a : Nat) (s : State), Quiet s →
    Accepts s h 0x31 (.sweepRun h compEnd act l u dc ms a) → s.targetPlaced act u = true →
    s.listFits act u (s.list l) = true → s.list l ≠ [] → s.run l = none → (∀ x ∈ s.allRuns, x.2.unit ≠ (if act then eidTile u else u, act)) →
    (s.region (tileRegion (if act then eidTile u else u / 8))).fenced = false →
    ∃ t, exec (.sweepRun h compEnd act l u dc ms a) s = .next t ∧
      t.run l = some { target := u, actuator := act, compEnd, downCount := if dc = 0 then 16 else dc, timeout := ms,
                       resultAddr := a, src := h.src, tag := h.tag, readySince := s.dt } ∧
      (∀ k, k ≠ l → t.run k = s.run k) ∧ VerbEnds s t h 0x31 0 0) ∧
  (∀ (h : Hdr) (l : Nat) (r : Run) (s : State), Quiet s → Accepts s h 0x32 (.sweepStop h l) → s.run l = some r →
    r.ended = none →
    ∃ t, exec (.sweepStop h l) s = .next t ∧
      t.run l = some { r with ended := some 1, aborted := r.aborted || r.active, stopper := some h } ∧
      (∀ k, k ≠ l → t.run k = s.run k) ∧ t.host.issues = s.host.issues ∧
      (r.active = true → Gives s t [.downFrame r.tile "ABORT" [if r.actuator then r.target % 1024 else r.target % 8]])) ∧
  (∀ (h : Hdr) (l : Nat) (s : State), Quiet s → Accepts s h 0x33 (.sweepFree h l) → s.run l = none →
    ∃ t, exec (.sweepFree h l) s = .next t ∧ t.list l = [] ∧ (∀ k, k ≠ l → t.list k = s.list k) ∧
      VerbEnds s t h 0x33 0 0)

/-- R214 to R217, Table 7-6: the points and runs of lists. A point of a monitor channel begins with its record and POINT_GO
at the tile; its readings form its result and bring the run on; a run that began too late ends DEFERRED; a run that has
ended leaves its list free and falls due as SWEEP_DONE, with the verb that stopped it. -/
def Obligations.SweepRowsComplete : Prop :=
  (∀ (l k : Nat) (r : Run) (s : State), Quiet s → l < 256 → s.run l = some r → r.active = false → r.ended = none →
    s.working = true → s.loops.throttled = false → s.tileReach r.tile = true →
    (∀ x ∈ s.allRuns, x.1 ≠ l → x.2.unit = r.unit → x.2.seqr = none) → r.seqr = none →
    s.freeSequencer (tileRegion r.tile) = some k → r.actuator = false → s.portTarget r = false →
    ∃ t, exec (.sweepPointStart l) s = .next t ∧ t.run l = some { r with seqr := some k, active := true, words := [] } ∧
      (∀ j, j ≠ l → t.run j = s.run j) ∧
      Gives s t ((List.range 4).map (fun j => Output.downFrame r.tile "POINT_WORD"
          [j, (pointWordsOf ((s.list l).getD r.point {})).getD j 0]) ++
        [.downFrame r.tile "POINT_GO" [r.target % 8, 0, r.downCount]])) ∧
  (∀ (l : Nat) (r : Run) (s : State), Quiet s → l < 256 → s.run l = some r → r.active = false → r.ended = none →
    s.working = true → s.loops.throttled = false → s.tileReach r.tile = true →
    (∀ x ∈ s.allRuns, x.1 ≠ l → x.2.unit = r.unit → x.2.seqr = none) → r.seqr.isSome = true → r.actuator = true →
    s.actAdmitted r.target ((s.list l).getD r.point {}) = false →
    ∃ t r', exec (.sweepPointStart l) s = .next t ∧ t.run l = some r' ∧ r'.active = false ∧ r'.point = r.point + 1 ∧
      r'.completed = r.completed + 1 ∧ r'.nBlocked = r.nBlocked + 1 ∧ r'.lastUsed = 0 ∧ r'.lastFlags = 32) ∧
  (∀ (l : Nat) (rs : List Reading) (rb : Int) (w : Bool) (r : Run) (s : State), Quiet s → l < 256 → s.run l = some r →
    r.active = true →
    let k := takeReadings ((s.list l).getD r.point {}) r.downCount rs
    (r.aborted = true ∨ k.full ((s.list l).getD r.point {}).samples = true) →
    ∃ t r', exec (.sweepPointEnd l rs rb w) s = .next t ∧ t.run l = some r' ∧ r'.active = false ∧ r'.words = [] ∧
      r'.point = r.point + 1 ∧ r'.completed = r.completed + 1 ∧ r'.lastUsed = k.kept.length ∧
      (k.kept ≠ [] → r'.lastValue =
        openDiv (keptSum ((s.list l).getD r.point {}).mode k.kept) (30000 * k.kept.length)) ∧
      (∀ j, j ≠ l → t.run j = s.run j)) ∧
  (∀ (l : Nat) (r : Run) (s : State), Quiet s → l < 256 → s.run l = some r → r.active = false → r.ended = none →
    r.readySince + r.timeout * msTicks ≤ s.dt →
    ∃ t, exec (.sweepTimeout l) s = .next t ∧ t.run l = some { r with ended := some 3 } ∧
      ∀ j, j ≠ l → t.run j = s.run j) ∧
  (∀ (l code : Nat) (r : Run) (s : State), Quiet s → l < 256 → s.run l = some r → r.ended = some code →
    (r.active = false ∨ code ≠ 1 ∨ s.tileReach r.tile = false) →
    ∃ t, exec (.sweepRunEnd l) s = .next t ∧ t.run l = none ∧ (∀ j, j ≠ l → t.run j = s.run j) ∧
      (∃ e, t.host.owed = s.host.owed ++ [(r.src, e)] ∧ e.kind = 5 ∧ e.tag = r.tag ∧ e.status = code) ∧
      (∀ h, r.stopper = some h → VerbEnds s t h 0x32 0 0) ∧ (r.stopper = none → t.host.issues = s.host.issues)) ∧
  (∀ (tile c w l : Nat) (v : Word32) (r : Run) (s : State), Quiet s → l < 256 →
    s.allRuns.find? (fun x => x.2.active && x.2.tile == tile &&
      (if x.2.actuator then c == 8 else c == x.2.target % 8)) = some (l, r) →
    ∃ t, exec (.pointResultReceive tile c w v) s = .next t ∧
      t.run l = some { r with words := (r.words.filter fun x => x.1 ≠ w) ++ [(w, v)] } ∧ ∀ j, j ≠ l → t.run j = s.run j) ∧
  (∀ (tile c d l : Nat) (r : Run) (s : State), Quiet s → l < 256 →
    s.clampedRun tile c = some (l, r) →
    ∃ t, exec (.complianceEventReceive tile c d) s = .next t ∧
      t.run l = some { r with compliance := true, compSampling := r.compSampling || decide (d ≠ 0) } ∧
      ∀ j, j ≠ l → t.run j = s.run j)

/-- R200 to R203, R219, R221: single-shot points, port samples and reference conversions. A trigger makes the result
pending, the end of the measurement completes it, a read of its first word answers it and clears NEW. -/
def Obligations.SingleShotRowsComplete : Prop :=
  (∀ s : State, Quiet s → s.chip.mainRun = true → s.smu.ssRun = none → pointOk (pointOf s.smu.ssPoint) = true →
    s.targetPlaced s.smu.ssActuator s.smu.ssTarget = true →
    s.listFits s.smu.ssActuator s.smu.ssTarget [pointOf s.smu.ssPoint] = true →
    ∃ t, exec .ssCtrlGo s = .next t ∧
      t.smu.ssRun = some ({ target := s.smu.ssTarget, actuator := s.smu.ssActuator, single := true, readySince := s.dt },
        pointOf s.smu.ssPoint) ∧ t.smu.ssResult = s.smu.ssResult.trigger) ∧
  (∀ s : State, Quiet s → s.chip.mainRun = true →
    ∃ t, exec .ssResultRead s = .next t ∧ Gives s t [.readData [s.smu.ssResult.word]] ∧
      t.smu.ssResult = s.smu.ssResult.read) ∧
  (∀ (v : Word32) (s : State), s.chip.mainRun = true →
    ∃ t, exec (.portSelWrite v) s = .next t ∧ t.smu.portSel = bits v.toNat 0 10 ∧ t.smu.portSelIn = bit v.toNat 10 ∧
      t.smu.portResult = s.smu.portResult.trigger) ∧
  (∀ s : State, Quiet s → s.chip.mainRun = true →
    ∃ t, exec .portResultRead s = .next t ∧
      Gives s t [.readData [if s.portSelMonitor.isSome then s.smu.portResult.word else 0]] ∧
      t.smu.portResult = s.smu.portResult.read) ∧
  (∀ (tile c range : Nat) (flag los : Bool) (code : Int) (x : Bool × PortRec) (s : State),
    s.img.portOfMonitor (8 * tile + c) = some x →
    let old := s.monitor (8 * tile + c)
    let cur := portCurrent code range
    ∃ t, exec (.portSampleReceive tile c range flag code los) s = .next t ∧
      t.monitor (8 * tile + c) = { old with range, flag := flag || old.onBus, current := cur, sampled := true } ∧
      (∀ m, m ≠ 8 * tile + c → t.monitor m = s.monitor m) ∧
      (s.portSelMonitor = some (8 * tile + c) →
        t.smu.portResult = s.smu.portResult.complete (s.portWords (8 * tile + c) range (flag || old.onBus) los cur)) ∧
      (s.portSelMonitor ≠ some (8 * tile + c) → t.smu.portResult = s.smu.portResult)) ∧
  (∀ (v : Word32) (s : State), s.chip.mainRun = true → bit v.toNat 6 = false →
    let one := bit v.toNat 0
    (bit v.toNat 1 = false ∨ ((s.smu.ref (!one)).forceEn = false ∧ (bit v.toNat 5 = false ∨ s.dacOnBus = false))) →
    ∃ t, exec (.refCtrlWrite v) s = .next t ∧
      t.smu.ref one = { s.smu.ref one with
        forceEn := bit v.toNat 1, measureCurrent := bit v.toNat 2, range := min 2 (bits v.toNat 3 2), connect := bit v.toNat 5 } ∧
      t.smu.ref (!one) = s.smu.ref (!one) ∧ t.smu.refSel1 = one ∧ t.smu.refConflict = s.smu.refConflict) ∧
  (∀ s : State, s.chip.mainRun = true → s.smu.refBusy = none →
    ∃ t, exec .refConversionGo s = .next t ∧ t.smu.refBusy = some (s.smu.refSel1, s.dt) ∧
      t.smu.refResult = s.smu.refResult.trigger ∧ t.smu.refTrigLost = s.smu.refTrigLost) ∧
  (∀ (v : Int) (isOver one : Bool) (a : Nat) (s : State), s.smu.refBusy = some (one, a) → a + 50 * usTicks ≤ s.dt →
    ∃ t, exec (.refConversionDone v isOver) s = .next t ∧ t.smu.refBusy = none ∧
      t.smu.refResult = s.smu.refResult.complete
        [BitVec.ofNat 32 (2 ^ 10 * b2n one + 2 ^ 11 * b2n isOver), BitVec.ofInt 32 v]) ∧
  (∀ s : State, Quiet s → s.chip.mainRun = true →
    ∃ t, exec .refResultRead s = .next t ∧ t.smu.refResult = s.smu.refResult.read ∧
      Gives s t [.readData [s.smu.refResult.word |||
        BitVec.ofNat 32 (2 ^ 12 * b2n s.smu.refConflict + 2 ^ 13 * b2n s.smu.refTrigLost)]])

/-- R197, R199, R205, R220: the comparators at a tile send EVENT once; a write of BUS_CTRL with the bus free is granted and
connects the channel with SMU_BUS; the bus whose tile's link is lost for 100 ms is given up with code 0x0046. -/
def Obligations.ComparatorAndBusRowsComplete : Prop :=
  (∀ (m : Nat) (i : Int) (s : State), Quiet s → (s.img.portOfMonitor m).isSome = true → (s.monitor m).tileLos = false →
    i < ((s.img.losOf m).thresh : Int) →
    ∃ t, exec (.losComparatorRaise m i) s = .next t ∧ t.monitor m = { s.monitor m with tileLos := true } ∧
      (∀ k, k ≠ m → t.monitor k = s.monitor k) ∧
      ∃ portB, .upFrame (m / 8) portB "EVENT" [1, m % 8, 0] ∈ t.out) ∧
  (∀ (m : Nat) (i : Int) (s : State), Quiet s → (s.monitor m).tileLos = true →
    ((s.img.losOf m).thresh : Int) * (16 + (s.img.losOf m).hyst) < 16 * i →
    ∃ t, exec (.losComparatorClear m i) s = .next t ∧ t.monitor m = { s.monitor m with tileLos := false } ∧
      (∀ k, k ≠ m → t.monitor k = s.monitor k) ∧
      ∃ portB, .upFrame (m / 8) portB "EVENT" [2, m % 8, 0] ∈ t.out) ∧
  (∀ (tile c : Nat) (sampling : Bool) (s : State), Quiet s → c < 8 →
    ∃ t, exec (.complianceClamp tile c sampling) s = .next t ∧
      t.monitor (8 * tile + c) = { s.monitor (8 * tile + c) with clamped := true } ∧
      ∃ portB, .upFrame tile portB "EVENT" [3, c, b2n sampling] ∈ t.out) ∧
  (∀ (v : Word32) (s : State), Quiet s → s.chip.mainRun = true → s.smu.bus = .nobody → s.smu.busFault = false →
    bit v.toNat 12 = true → s.tileReach (bits v.toNat 0 8) = true →
    s.litChannel (bits v.toNat 0 8) (min 8 (bits v.toNat 8 4)) = false →
    ∃ t, exec (.busCtrlRequest v) s = .next t ∧ t.smu.bus = .request (bits v.toNat 0 8) (min 8 (bits v.toNat 8 4)) ∧
      t.smu.busRequest = true ∧ Gives s t [.downFrame (bits v.toNat 0 8) "SMU_BUS" [min 8 (bits v.toNat 8 4), 1]]) ∧
  (∀ (a : Nat) (s : State), s.smu.busLostAt = some a → s.smu.bus ≠ .nobody → a + 100 * msTicks ≤ s.dt →
    ∃ t, exec .calBusTimeout s = .next t ∧ t.smu.bus = .nobody ∧ t.smu.busFault = true ∧ t.smu.busLostAt = none)

/-! ## Calibration -/

/-- R226, R227, R237 to R240: the verbs of the calibration manager and the ends of what they began. -/
def Obligations.CalibrationVerbsComplete : Prop :=
  (∀ (h : Hdr) (kind scope u ms : Nat) (es : List Nat) (s : State), Quiet s →
    Accepts s h 0x38 (.calRun h kind scope u ms) → s.calElems scope u = some es →
    ∃ t, exec (.calRun h kind scope u ms) s = .next t ∧ t.calib.nextBatch = s.calib.nextBatch + 1 ∧
      (∃ b ∈ t.calib.batches, b.id = s.calib.nextBatch ∧ b.src = h.src ∧ b.tag = h.tag) ∧ VerbEnds s t h 0x38 0 0) ∧
  (∀ (h : Hdr) (e ms : Nat) (s : State), Quiet s → Accepts s h 0x38 (.calRun h 0 0 e ms) → s.img.placedEid e = true →
    (s.elem e).st ≠ .lit → (s.elem e).st ≠ .uncal → (∀ r ∈ s.calib.runs, r.target ≠ e) →
    ∃ t, exec (.calRun h 0 0 e ms) s = .next t ∧
      t.calib.runs = s.calib.runs ++
        [{ kind := .micro, target := e, batches := [s.calib.nextBatch], queued := s.dt, timeout := some ms }]) ∧
  (∀ (h : Hdr) (s : State), Quiet s → Accepts s h 0x39 (.saveCalibration h false false 0) → s.calib.saveBusy = none →
    (s.img.mateEnable = false ∨ s.mate.role = .active ∨ s.mate.role = .alone) →
    ∃ t, exec (.saveCalibration h false false 0) s = .next t ∧ t.calib.saveBusy = some h ∧
      t.calib.saving = some { s.serviceSet with version := s.calib.version + 1 } ∧ t.calib.stored = s.calib.stored ∧
      t.host.issues = s.host.issues) ∧
  (∀ (h : Hdr) (ns : Bool) (a : Nat) (s : State), Quiet s → Accepts s h 0x39 (.saveCalibration h true ns a) →
    s.calib.saveBusy = none → (s.img.mateEnable = false ∨ s.mate.role = .active ∨ s.mate.role = .alone) →
    ∃ t, exec (.saveCalibration h true ns a) s = .next t ∧ t.calib.saveBusy = some h ∧
      Gives s t [.hostRead a 4337664 ns] ∧ t.host.issues = s.host.issues) ∧
  (∀ (h : Hdr) (inService : Bool) (a n : Nat) (s : State), Quiet s → Accepts s h 0x3A (.exportCalibration h inService a n) →
    setLength ≤ n →
    ∃ t, exec (.exportCalibration h inService a n) s = .next t ∧ t.calib.exportBusy = some h ∧
      Gives s t [.hostWrite a setLength (Config.setBytes (if inService then s.serviceSet else s.calib.stored))] ∧
      t.hostOps = s.hostOps ++ [{ hdr := h, verb := .exportCalibration h inService a n }]) ∧
  (∀ (h : Hdr) (set : CalSet) (good : Bool) (s : State), Quiet s → s.calib.saveBusy = some h →
    s.calib.saving = some set →
    ∃ t, exec (.calSaveFlashDone good) s = .next t ∧ t.calib.saveBusy = none ∧ t.calib.saving = none ∧
      (good = true → t.calib.stored = set ∧ t.calib.version = set.version ∧ VerbEnds s t h 0x39 0 0) ∧
      (good = false → t.calib.version = s.calib.version ∧ VerbEnds s t h 0x39 0x02 0)) ∧
  (∀ (b : Nat) (s : State), Quiet s → (∃ r ∈ s.calib.runs, r.timedOut s.dt = true ∧ r.batches.contains b = true) →
    ∃ t, exec (.calTimeout b) s = .next t ∧
      t.calib.runs = s.calib.runs.filter (fun r => !(r.timedOut s.dt && r.batches.contains b)) ∧
      s.calib.deferred ≤ t.calib.deferred) ∧
  (∀ (n : Nat) (b : CalBatch) (s : State), Quiet s → s.calib.batches.find? (fun b => b.id = n) = some b →
    (∀ r ∈ s.calib.runs, r.batches.contains n = false) →
    ∃ t, exec (.calDonePost n) s = .next t ∧ (∀ x ∈ t.calib.batches, x.id ≠ n) ∧ t.calib.runs = s.calib.runs ∧
      ∃ e, t.host.owed = s.host.owed ++ [(b.src, e)] ∧ e.kind = 6 ∧ e.tag = b.tag ∧ e.status = b.code) ∧
  (∀ (set : CalSet) (s : State), s.chip.imageApplied = true → s.ddrReady = true → s.chip.setChecked = false →
    ∃ t, exec (.calSetRead set) s = .next t ∧ t.chip.setChecked = true ∧ t.calib.stored = set ∧
      t.calib.version = set.version ∧
      t.calib.setValid = (set.headerOk && set.fabricHash == s.img.fabricHash && set.badBlocks.isEmpty))

/-- R228 to R236: the runs. A micro or full run that comes on pauses its element's loop and sends its first trial drive; a
mean that arrives brings the next; a micro run whose senses do not rise with the drives fails with code 3; a channel run
whose pairs all pass takes them; PATH_LOSS_UPDATE gives every element of the path its new loss. -/
def Obligations.CalibrationRunsComplete : Prop :=
  (∀ (e d : Nat) (ds : List Nat) (r : CalRun) (s : State), Quiet s → s.queuedRun .micro e = some r →
    s.runsNext r = true → s.microDrives e (s.elem e).drive = d :: ds →
    ∃ t, exec (.calMicroRun e) s = .next t ∧ t.elem e = { s.elem e with paused := true } ∧
      (∀ k, k ≠ e → t.elem k = s.elem k) ∧ Gives s t [.downFrame (eidTile e) "CAL_POINT" [e % 1024, d]] ∧
      ∃ q ∈ t.calib.runs, q.target = e ∧ q.running = true ∧ q.hold = (s.elem e).drive ∧ q.todo = d :: ds) ∧
  (∀ (e : Nat) (r : CalRun) (s : State), Quiet s → s.queuedRun .full e = some r → s.runsNext r = true →
    ∃ t, exec (.calFullRun e) s = .next t ∧ t.elem e = { s.elem e with paused := true } ∧
      (∀ k, k ≠ e → t.elem k = s.elem k) ∧
      Gives s t [.downFrame (eidTile e) "CAL_POINT" [e % 1024, (s.cls (s.elemClass e)).driveMin]]) ∧
  (∀ (tile j v d d2 : Nat) (ds : List Nat) (r : CalRun) (s : State), Quiet s → j < 1024 →
    s.calib.runs.find? (fun r => r.running && r.kind != .channel && r.target == 1024 * tile + j) = some r →
    r.kind = .micro → r.todo = d :: d2 :: ds →
    ∃ t, exec (.calSenseReceive tile j v) s = .next t ∧ Gives s t [.downFrame tile "CAL_POINT" [j, d2]] ∧
      { r with measured := r.measured ++ [(d, v)], todo := d2 :: ds } ∈ t.calib.runs) ∧
  (∀ (tile j v d : Nat) (r : CalRun) (s : State), Quiet s → j < 1024 →
    s.calib.runs.find? (fun r => r.running && r.kind != .channel && r.target == 1024 * tile + j) = some r →
    r.kind = .micro → r.todo = [d] → monotonic (r.measured ++ [(d, v)]) = false →
    ∃ t, exec (.calSenseReceive tile j v) s = .next t ∧ t.calib.failed = satInc s.calib.failed 0xFFFF ∧
      (t.elem (1024 * tile + j)).calLast = 3 ∧ (t.elem (1024 * tile + j)).paused = false ∧
      (Reportable s 0x0044 srcSmu (1024 * tile + j) → NewRecord s t 0x0044 srcSmu (1024 * tile + j))) ∧
  (∀ (tile : Nat) (fits : List (Nat × Int × Int)) (r : CalRun) (s : State), Quiet s →
    s.queuedRun .channel tile = some r → s.working = true → s.loops.throttled = false → s.tileReach tile = true →
    s.smu.bus = .nobody → s.smu.busFault = false → (∀ c, c < 9 → s.litChannel tile c = false) →
    (∀ f ∈ fits, pairOk (tilePair (s.tileRec tile) f.1) f.2 = true) →
    ∃ t, exec (.calChannelRun tile fits) s = .next t ∧ t.calib.runs = s.calib.runs.filter (· ≠ r) ∧
      t.calib.passed = satInc s.calib.passed 0xFFFF ∧ (t.tileRec tile).lastTemp = (s.link tile).temp ∧
      ∀ k, k ≠ tile → t.tileRec k = s.tileRec k) ∧
  (∀ (ip mi mo : Nat) (k : Conn) (s : State), Quiet s → s.conn ip = some k → (clauseOf k.clause).lit = true →
    s.working = true → (s.img.inPort ip).bind (·.monitor) = some mi →
    (s.img.outPort (clauseOf k.clause).outPort).bind (·.monitor) = some mo →
    let es := (clauseOf k.clause).eids s.img.stages
    let power := fun m => Config.dbm (s.monitor m).current (s.img.losOf m).respMil
    ∃ t, exec (.pathLossUpdate ip) s = .next t ∧ (∀ e, e ∉ es → t.elem e = s.elem e) ∧
      ∀ e ∈ es, t.elem e = { s.elem e with
        ilEst := some (Config.pathLoss (s.ilEst e) (s.pathCost es) (power mi) (power mo)) })

/-! ## Verbs of recovery, identity and redundancy; host data -/

/-- R416, R440, R442, R468: RESUME_REGION of a fenced tile claims it again and of a region clears its fences, or ends REFUSED
where the handshake test fails (whose outcome the model draws freely, assumption log 4); SELF_TEST counts its units; GET_DIGEST
and GET_CERT write their record; HANDOVER waits for the launches that are out. -/
def Obligations.RecoveryAndIdentityVerbsComplete : Prop :=
  (∀ (h : Hdr) (tile : Nat) (s : State), Quiet s → Accepts s h 0x01 (.resumeRegion h true tile) →
    s.faults.tileFences.contains tile = true → (s.link tile).up = true →
    ∃ t, exec (.resumeRegion h true tile) s = .next t ∧ t.faults.tileFences = s.faults.tileFences.filter (· ≠ tile) ∧
      (t.link tile).tile = .adopting ∧ t.faults.resumes = [{ hdr := h, tiles := [tile] }] ∧
      Gives s t [.downFrame tile "CLAIM" []] ∧ t.host.issues = s.host.issues) ∧
  (∀ (h : Hdr) (n k : Nat) (s : State), Quiet s → Accepts s h 0x01 (.resumeRegion h false n) → s.anyFence n = true →
    k ∈ regionTiles s.img n → (s.link k).up = true →
    ∃ t, exec (.resumeRegion h false n) s = .next t ∧
      (VerbEnds s t h 0x01 0x02 0 ∨
        (t.region n = (s.region n).clearFences ∧ (t.link k).tile = .adopting ∧ t.host.issues = s.host.issues))) ∧
  (∀ (h : Hdr) (targets ms : Nat) (s : State), Quiet s → Accepts s h 0x02 (.selfTest h targets ms []) →
    (bit targets 7 = false ∨ h.src = .sideband) →
    ∃ t, exec (.selfTest h targets ms []) s = .next t ∧ t.faults.safeState = s.faults.safeState ∧ VerbEnds s t h 0x02 0
      (((List.range 8).filter fun k => bit targets k).flatMap s.testUnits).length) ∧
  (∀ (h : Hdr) (wait : Bool) (a : Nat) (n : BitVec 256) (s : State), Quiet s → Accepts s h 0x03 (.getDigest h wait a n) →
    (wait = false ∨ s.chip.digestCurrent = true) →
    ∃ t, exec (.getDigest h wait a n) s = .next t ∧ (a ≠ 0 → Gives s t [.hostWrite a 200 (s.digestRecord n)]) ∧
      (a = 0 → t.chip.digestRec = s.digestRecord n) ∧
      VerbEnds s t h 0x03 0 (s.chip.digestSerial + 2 ^ 32 * bits s.chip.digest.toNat 0 32)) ∧
  (∀ (h : Hdr) (a : Nat) (n : BitVec 256) (s : State), Quiet s → Accepts s h 0x03 (.getDigest h true a n) →
    s.chip.digestCurrent = false →
    ∃ t, exec (.getDigest h true a n) s = .next t ∧ t.chip.digestWaits = s.chip.digestWaits ++ [(h, a, n)] ∧
      t.host.issues = s.host.issues) ∧
  (∀ (h : Hdr) (a n : Nat) (s : State), Quiet s → Accepts s h 0x04 (.getCert h 0 a n) → a ≠ 0 →
    s.chip.otp.deviceCert.length ≤ n →
    ∃ t, exec (.getCert h 0 a n) s = .next t ∧ VerbEnds s t h 0x04 0 s.chip.otp.deviceCert.length ∧
      Gives s t [.hostWrite a s.chip.otp.deviceCert.length (bytesNat (s.chip.otp.deviceCert.map (·.toNat)))]) ∧
  (∀ (h : Hdr) (ret : Bool) (ms : Nat) (s : State), Quiet s → Accepts s h 0x05 (.handover h ret ms) →
    s.mate.role = .active → s.mate.synced = true → s.store.launches ≠ [] →
    ∃ t, exec (.handover h ret ms) s = .next t ∧
      t.mate.handover = .waiting h ret (if ms = 0 then s.img.drillMs else ms) ∧ t.host.issues = s.host.issues) ∧
  (∀ (h : Hdr) (ret : Bool) (ms : Nat) (s : State), Quiet s → Accepts s h 0x05 (.handover h ret ms) →
    s.mate.role = .active → s.mate.synced = true → s.store.launches = [] →
    ∃ t, exec (.handover h ret ms) s = .next t ∧
      t.mate.handover = .released h ret (if ms = 0 then s.img.drillMs else ms) ∧ t.host.issues = s.host.issues ∧
      .mateFrame "ROLE" [3, b2n ret] ∈ t.out)

/-- R73, R176, R218, R239, R313, R440, R466, R468: data that a verb has asked for carries it out, and a failed access ends it
HOST_READ_ERROR; the digest that is done answers the verbs that waited; a SELF_TEST not begun in time ends DEFERRED. -/
def Obligations.DeferredVerbsComplete : Prop :=
  (∀ (h : Hdr) (o ns : Bool) (hd n a : Nat) (op : HostOp) (d : HostData) (s : State), Quiet s →
    s.hostOps.find? (fun x => x.hdr == h) = some op → op.verb = .stageList h o ns hd n a → d.clauses.length = n →
    d.clauses.all s.img.clauseOk = true → (s.sent hd).idle = true → s.locked hd = false → o = true → n ≤ 1024 →
    s.clauseCount - (s.sent hd).clauses.length + n ≤ 1048576 →
    ∃ t, exec (.verbHostDataDone h (some d)) s = .next t ∧ t.hostOps = s.hostOps.erase op ∧
      t.sent hd = { s.sent hd with state := .stored, clauses := d.clauses } ∧ (∀ k, k ≠ hd → t.sent k = s.sent k) ∧
      VerbEnds s t h 0x11 0 0) ∧
  (∀ (h : Hdr) (ns : Bool) (l n a : Nat) (op : HostOp) (d : HostData) (s : State), Quiet s →
    s.hostOps.find? (fun x => x.hdr == h) = some op → op.verb = .sweepLoad h ns l n a → d.points.length = n →
    d.points.all pointOk = true → s.run l = none →
    ∃ t, exec (.verbHostDataDone h (some d)) s = .next t ∧ t.list l = d.points ∧ (∀ k, k ≠ l → t.list k = s.list k) ∧
      VerbEnds s t h 0x30 0 0) ∧
  (∀ (h : Hdr) (timed ns : Bool) (p n a late : Nat) (nt : NetTime) (op : HostOp) (d : HostData) (s : State), Quiet s →
    s.hostOps.find? (fun x => x.hdr == h) = some op → op.verb = .dalovoSend h timed ns p n a nt late →
    d.payload.length = n → (s.peer p).state = .up →
    ∃ t f, exec (.verbHostDataDone h (some d)) s = .next t ∧ t.adm.queue = s.adm.queue ++ [f] ∧ f.peer = p ∧
      f.timed = (if timed then some (nt.units, late) else none) ∧ f.seq = (s.peer p).txSeq ∧
      (t.peer p).txSeq = (s.peer p).txSeq + 1 ∧ VerbEnds s t h 0x06 0 0) ∧
  (∀ (h : Hdr) (op : HostOp) (o ns : Bool) (hd n a : Nat) (s : State), Quiet s →
    s.hostOps.find? (fun x => x.hdr == h) = some op → op.verb = .stageList h o ns hd n a →
    ∃ t, exec (.verbHostDataDone h none) s = .next t ∧ VerbEnds s t h 0x11 0x0D 0 ∧ t.hostOps = s.hostOps.erase op ∧
      t.store = s.store) ∧
  (∀ s : State, Quiet s → s.chip.digestBusy = true → s.chip.digestAgain = false → s.img.mateEnable = false →
    ∃ t, exec .digestRecomputeDone s = .next t ∧ t.chip.digest = sha256 s.digestBytes ∧
      t.chip.digestSerial = (s.chip.digestSerial + 1) % 2 ^ 31 ∧ t.chip.digestBusy = false ∧
      t.chip.digestCurrent = true ∧ t.chip.digestWaits = [] ∧
      ∀ h a n, s.chip.digestWaits = [(h, a, n)] → VerbEnds s t h 0x03 0
        ((s.chip.digestSerial + 1) % 2 ^ 31 + 2 ^ 32 * bits (sha256 s.digestBytes).toNat 0 32)) ∧
  (∀ (h : Hdr) (i : Issue) (s : State), Quiet s → i ∈ s.host.issues → i.src = h.src → i.tag = h.tag → i.opcode = 0x02 →
    i.done = none → (∃ l, i.limit = some l ∧ l ≤ s.dt) →
    ∃ t, exec (.selfTestTimeout h) s = .next t ∧ VerbEnds s t h 0x02 0x10 0) ∧
  (∀ (h : Hdr) (timed ns : Bool) (p n a late : Nat) (nt : NetTime) (s : State), Quiet s →
    Accepts s h 0x06 (.dalovoSend h timed ns p n a nt late) → (s.peer p).state = .up → bit (s.perm p) 4 = true →
    (timed = true → s.timedFrames.length < 64 ∧ s.time.locked = true) →
    ∃ t, exec (.dalovoSend h timed ns p n a nt late) s = .next t ∧ Gives s t [.hostRead a n ns] ∧
      t.hostOps = s.hostOps ++ [{ hdr := h, verb := .dalovoSend h timed ns p n a nt late }] ∧ t.host.issues = s.host.issues)

/-! ## Dalovo -/

/-- R333 to R336: discovery, key agreement, sessions and their ends. -/
def Obligations.DalovoSessionsComplete : Prop :=
  (∀ (port : Nat) (s : State), Quiet s → port < 2 → s.sitePortUp port = true → s.chip.imageApplied = true →
    (∀ x ∈ s.adm.announced, x.1 ≠ port) →
    ∃ t l, exec (.dalovoAnnounceSend port) s = .next t ∧ tabGet t.adm.announced 0 port = s.dt ∧
      Gives s t [.siteFrame port "ANNOUNCE" l]) ∧
  (∀ (port src p : Nat) (o : Bool) (s : State), Quiet s → s.sitePortUp port = true → s.chip.imageApplied = true →
    s.peerOf src = some p → ((s.peer p).state = .absent ∨ (s.peer p).state = .seen) → s.chip.otp.identity < src →
    ∃ t, exec (.dalovoAnnounceReceive port src o) s = .next t ∧ (t.peer p).state = .handshake ∧
      (t.peer p).initiator = true ∧ (t.peer p).deadline = s.dt + 100 * msTicks ∧ (∀ k, k ≠ p → t.peer k = s.peer k) ∧
      Gives s t [.siteFrame port "HELLO" [s.chip.otp.identity, src]]) ∧
  (∀ (f : HelloFrame) (p : Nat) (s : State), Quiet s → s.takesHello f = true → s.peerOf f.srcId = some p →
    s.helloOk p f = true → (s.peer p).state ≠ .up →
    ∃ t, exec (.dalovoHello f) s = .next t ∧ (t.peer p).state = .handshake ∧ (t.peer p).initiator = false ∧
      (t.peer p).port = f.port ∧ (∀ k, k ≠ p → t.peer k = s.peer k) ∧
      Gives s t [.siteFrame f.port "HELLO_REPLY" [s.chip.otp.identity, f.srcId]]) ∧
  (∀ (f : HelloFrame) (p : Nat) (s : State), Quiet s → s.takesHello f = true → s.peerOf f.srcId = some p →
    s.helloOk p f = true → (s.peer p).state = .handshake → (s.peer p).initiator = true → (s.peer p).port = f.port →
    ∃ t b, exec (.dalovoHelloReply f) s = .next t ∧ (t.peer p).session = s.adm.nextSession ∧
      t.adm.nextSession = s.adm.nextSession % (2 ^ 32 - 1) + 1 ∧ (∀ k, k ≠ p → t.peer k = s.peer k) ∧
      Gives s t [.siteFrame f.port "FINISH" [s.adm.nextSession, 0, b]]) ∧
  (∀ (h : DvHead) (p : Nat) (s : State), Quiet s → s.peerOf h.srcId = some p → (s.peer p).state = .handshake →
    (s.peer p).port = h.port → s.sitePortUp h.port = true → (s.peer p).initiator = false → h.version = 1 →
    h.lengthOk = true → h.tagOk = true → h.seq = 0 →
    ∃ t, exec (.dalovoFinish h true) s = .next t ∧ (t.peer p).state = .up ∧ (t.peer p).session = h.session ∧
      (t.peer p).upSince = s.dt ∧ (∀ k, k ≠ p → t.peer k = s.peer k) ∧
      Gives s t [.siteFrame h.port "FINISH" [h.session, 0]]) ∧
  (∀ (p : Nat) (s : State), Quiet s → (s.peer p).state = .handshake → (s.peer p).deadline ≤ s.dt →
    ∃ t, exec (.dalovoHandshakeTimeout p) s = .next t ∧ t.peer p = { s.peer p with state := .seen } ∧
      ∀ k, k ≠ p → t.peer k = s.peer k) ∧
  (∀ (p reason : Nat) (s : State), Quiet s → (s.peer p).state = .up →
    ∃ t, exec (.dalovoClose p reason) s = .next t ∧ (t.peer p).state = .absent ∧ (∀ k, k ≠ p → t.peer k = s.peer k) ∧
      ∀ f ∈ t.adm.queue, f.peer = p → f.timed = none) ∧
  (∀ (p : Nat) (s : State), Quiet s → (s.peer p).state = .up → (s.peer p).lastRx + 3500 * msTicks ≤ s.dt →
    ∃ t b, exec (.dalovoIdleTimeout p) s = .next t ∧ (t.peer p).state = .absent ∧ (∀ k, k ≠ p → t.peer k = s.peer k) ∧
      Gives s t [.siteFrame (s.peer p).port "CLOSE" [(s.peer p).session, (s.peer p).txSeq, b]]) ∧
  (∀ (port : Nat) (s : State), Quiet s → port < 2 → s.chip.mainRun = true → s.sitePortUp port = false →
    ∃ t, exec (.sitePortLinkChange port true) s = .next t ∧ t.sitePortUp port = true ∧ ∀ k, t.peer k = s.peer k) ∧
  (∀ (port : Nat) (s : State), Quiet s → port < 2 → s.chip.mainRun = true → s.sitePortUp port = true →
    Reportable s 0x00A1 srcSite port →
    ∃ t, exec (.sitePortLinkChange port false) s = .next t ∧ t.sitePortUp port = false ∧
      NewRecord s t 0x00A1 srcSite port ∧
      ∀ k, k < 16 → (s.peer k).port = port → (s.peer k).state = .up → (t.peer k).state = .absent)

/-- R288, R337 to R341, R389 to R391: VERB, USER and SAFETY frames of a session that is up, and the frames that leave. -/
def Obligations.DalovoFramesComplete : Prop :=
  (∀ (h : DvHead) (e : Entry) (p : Nat) (s : State), Quiet s → Accepted s h p →
    ∃ t i, exec (.dalovoVerbFrame h e) s = .next t ∧ t.host.issues = s.host.issues ++ [i] ∧ i.src = .peer p ∧
      i.opcode = ebytes e 0 1 ∧ i.tag = ebytes e 2 2 ∧ i.at_ = s.dt ∧ (t.peer p).rxSeq = some h.seq) ∧
  (∀ (h : DvHead) (body : List Byte) (tick p k : Nat) (s : State), Quiet s → Accepted s h p → bit (s.perm p) 4 = true →
    (List.range 16).find? (fun k => (tabGet s.adm.rxSlots none k).isNone) = some k →
    ∃ t, exec (.dalovoUserFrame h body tick) s = .next t ∧
      tabGet t.adm.rxSlots none k = some (p, s.time.nt tick, body) ∧
      ∀ j, j ≠ k → tabGet t.adm.rxSlots none j = tabGet s.adm.rxSlots none j) ∧
  (∀ (v : Word32) (s : State), s.chip.mainRun = true →
    ∃ t, exec (.dvRxSlotFree v) s = .next t ∧ ∀ k, tabGet t.adm.rxSlots none k =
      if bit v.toNat k then none else tabGet s.adm.rxSlots none k) ∧
  (∀ (port : Nat) (f : UserFrame) (s : State), Quiet s →
    s.adm.queue.find? (fun f => f.port == port && f.timed.isNone) = some f → s.sitePortUp port = true →
    ∃ t e, exec (.dalovoFrameSent port) s = .next t ∧ t.adm.queue = s.adm.queue.erase f ∧
      Gives s t [.siteFrame port "USER" [f.session, f.seq, bytesNat (f.body.map (·.toNat))]] ∧
      t.host.owed = s.host.owed ++ [(f.src, e)] ∧ e.kind = 7 ∧ e.tag = f.tag ∧ e.status = 0) ∧
  (∀ (port late : Nat) (f : UserFrame) (T : Int) (s : State), Quiet s → s.nextTimed port = some (f, T, late) →
    T ≤ s.now → s.now ≤ T + late * ntNs → s.sitePortUp port = true →
    ∃ t e, exec (.timedDalovoDue port) s = .next t ∧ t.adm.queue = s.adm.queue.erase f ∧
      Gives s t [.siteFrame f.port "USER" [f.session, f.seq, bytesNat (f.body.map (·.toNat))]] ∧
      t.host.owed = s.host.owed ++ [(f.src, e)] ∧ e.status = 0 ∧ t.time = s.time) ∧
  (∀ (port late : Nat) (f : UserFrame) (T : Int) (s : State), Quiet s → s.nextTimed port = some (f, T, late) →
    T + late * ntNs < s.now →
    ∃ t e, exec (.timedDalovoDue port) s = .next t ∧ t.adm.queue = s.adm.queue.erase f ∧
      t.time.dalovoLate = satInc s.time.dalovoLate 0xFFFF ∧ t.host.owed = s.host.owed ++ [(f.src, e)] ∧ e.status = 3) ∧
  (∀ (h : DvHead) (b : BitVec 160) (p j : Nat) (s : State), Quiet s → Accepted s h p → bit (s.perm p) 3 = true →
    let f := fun (lo len : Nat) => bits b.toNat (8 * lo) (8 * len)
    f 16 4 = (crc32c ((List.range 16).map (safetyByte b))).toNat → (safetyByte b 10 = 1 ∨ safetyByte b 10 = 2) →
    s.rcOfPeer (f 2 4) = some j → f 6 4 = s.chip.otp.identity → f 12 2 = s.lsu.rcWatchdog j →
    (s.rc j).lastSeq = none → (s.rc j).state ≠ .expired →
    ∃ t, exec (.safetyFrameReceive h b) s = .next t ∧
      t.rc j = { s.rc j with state := if safetyByte b 10 = 1 then .permit else .shutdown, lastSeq := some (f 0 2),
                             lastAt := s.dt, primed := true } ∧ ∀ k, k ≠ j → t.rc k = s.rc k) ∧
  (∀ (j p : Nat) (s : State), Quiet s → j < 8 → s.lsu.rcSends j = true → s.chip.mainRun = true →
    s.peerOf (s.lsu.rcPeer j) = some p → (s.peer p).state = .up → s.sitePortUp (s.peer p).port = true →
    (s.rc j).sentAt + s.lsu.rcWatchdog j / 4 * msTicks ≤ s.dt →
    ∃ t b, exec (.safetyFrameSend j) s = .next t ∧ (t.rc j).txSeq = ((s.rc j).txSeq + 1) % 65536 ∧
      (t.rc j).sentAt = s.dt ∧ (t.rc j).state = (s.rc j).state ∧ (∀ k, k ≠ j → t.rc k = s.rc k) ∧
      Gives s t [.siteFrame (s.peer p).port "SAFETY" [(s.peer p).session, (s.peer p).txSeq, b]])

/-! ## Light safety -/

/-- R371 to R378: the interlock inputs and the light-enable outputs. -/
def Obligations.LightSafetyInputsAndOutputsComplete : Prop :=
  (∀ (i : Nat) (b closed : Bool) (s : State), Quiet s → s.chip.por = false → i < 8 →
    ((s.ilk i).state = .ok ∨ (s.ilk i).state = .demand) →
    let y : Ilk := if b then { s.ilk i with rawB := closed, filtB := closed } else { s.ilk i with rawA := closed, filtA := closed }
    let p := permissive (s.lsu.ilkMode i) y.filtA y.filtB
    ∃ t, exec (.ilkContactChange i b closed) s = .next t ∧
      t.ilk i = { y with state := if p.1 && p.2 then .ok else .demand } ∧ ∀ k, k ≠ i → t.ilk k = s.ilk k) ∧
  (∀ (i : Nat) (s : State), Quiet s → s.chip.por = false → i < 8 → (s.ilk i).state = .demand →
    (permissive (s.lsu.ilkMode i) (s.ilk i).filtA (s.ilk i).filtB).1 ≠
      (permissive (s.lsu.ilkMode i) (s.ilk i).filtA (s.ilk i).filtB).2 → Reportable s 0x0071 srcLsu i →
    ∃ t, exec (.ilkDiscrepancy i) s = .next t ∧ (t.ilk i).state = .discrepancy ∧ (t.ilk i).seenPerm = false ∧
      (∀ k, k ≠ i → t.ilk k = s.ilk k) ∧ NewRecord s t 0x0071 srcLsu i) ∧
  (∀ (k : Nat) (s : State), Quiet s → s.chip.por = false → k < 4 → (∀ j, (s.len j).inPulse = false) →
    ∃ t, exec .lenEvaluate s = .next t ∧
      (s.lenAllowed k = false → (t.len k).on = false) ∧
      (s.lenAllowed k = true → (s.len k).on = false → (s.lsu.fbkEn k = false ∨ (s.len k).fbkOpen = true) →
        (s.lsu.manual k = false ∨ ((s.len k).ackWait = false ∧ (s.len k).everOn = true)) →
        (t.len k).on = true ∧ (t.len k).changed = s.dt) ∧
      (s.lenAllowed k = true → (s.len k).on = true → t.len k = s.len k)) ∧
  (∀ (k : Nat) (o : Bool) (s : State), Quiet s → s.chip.por = false → k < 4 → s.lsu.used k = true → s.lsu.fbkEn k = true →
    s.fbkLive k = true → (s.len k).on = o → (s.len k).changed + s.lsu.fbkTime k * msTicks ≤ s.dt →
    (s.len k).cause = .none →
    ∃ t, exec (.fbkTimeout k o) s = .next t ∧ (t.len k).cause = .fbkTimeout ∧ (t.len k).on = false ∧
      (t.len k).fbkOpen = o ∧ ∀ j, j ≠ k → t.len j = s.len j) ∧
  (∀ (k : Nat) (s : State), Quiet s → s.chip.por = false → k < 4 → (s.len k).on = false → (s.len k).inPulse = false →
    (s.len k).cause = .none → Reportable s 0x0072 srcLsu k →
    ∃ t, exec (.stuckOnDetect k) s = .next t ∧ (t.len k).cause = .stuckOn ∧ NewRecord s t 0x0072 srcLsu k ∧
      (s.faults.safeState = false → t.faults.safeState = true ∧ ∀ j, j < 4 → (t.len j).on = false)) ∧
  (∀ (k due : Nat) (s : State), Quiet s → s.chip.por = false → k < 4 → s.lsu.tpEn k = true → (s.len k).on = true →
    (s.len k).inPulse = false → (s.len k).tpDue = some due → due ≤ s.dt → s.pulseFree k due = true →
    ∃ t, exec (.testPulseStart k) s = .next t ∧
      t.len k = { s.len k with inPulse := true, check1 := none, pulseAt := s.dt, demandInPulse := false, tpDue := none } ∧
      ∀ j, j ≠ k → t.len j = s.len j) ∧
  (∀ (k : Nat) (s : State), Quiet s → s.chip.por = false → k < 4 → (s.len k).inPulse = true →
    ((s.len k).check1 = none →
      (∃ t, exec (.testPulseCheck k false) s = .next t ∧ t.len k = { s.len k with check1 := some true }) ∧
      ((s.len k).cause = .none →
        ∃ t, exec (.testPulseCheck k true) s = .next t ∧ (t.len k).cause = .testFail ∧ (t.len k).last = .failed ∧
          (t.len k).on = false)) ∧
    ((s.len k).check1 = some true → (s.len k).demandInPulse = false →
      ∃ t, exec (.testPulseCheck k true) s = .next t ∧ (t.len k).last = .passed ∧ (t.len k).inPulse = false ∧
        (t.len k).tpDue = some ((s.len k).pulseAt + s.lsu.tpPeriod k * secTicks) ∧
        t.lsu.passed = satInc s.lsu.passed 0xFFFF))

/-- R373, R375, R382, R384 to R388, R391: commissioning, acknowledgement, the parameter block, the unit's own checks. -/
def Obligations.LightSafetyCommissioningComplete : Prop :=
  (∀ s : State, s.chip.por = false →
    (∃ t, exec (.safeKeyWrite 0x5A1E) s = .next t ∧ t.lsu = { s.lsu with keyPhase := 1 }) ∧
    (s.lsu.keyPhase = 1 →
      ∃ t, exec (.safeKeyWrite 0xA5E1) s = .next t ∧ t.lsu = { s.lsu with keyPhase := 2, keyAt := s.dt }) ∧
    (s.lsu.keyPhase = 2 → s.lsu.keyAt + secTicks ≤ s.dt →
      ∃ t, exec .safeKeyTimeout s = .next t ∧ t.lsu = { s.lsu with keyPhase := 0 })) ∧
  (∀ s : State, s.chip.por = false → s.lsu.keyPhase = 2 → s.dt ≤ s.lsu.keyAt + secTicks →
    (s.lsu.check ≠ 0 →
      ∃ t, exec (.safeCommitWrite s.lsu.check) s = .next t ∧ t.lsu = { s.lsu with
        keyPhase := 0, commissioned := true, committed := s.lsu.check, recordPending := some s.lsu.check }) ∧
    (∃ t, exec (.safeCommitWrite 0) s = .next t ∧ t.lsu.commissioned = false ∧ t.lsu.recordPending = some 0 ∧
      t.lsu.keyPhase = 0 ∧ ∀ k, k < 4 → (t.len k).on = false)) ∧
  (∀ (v : Word32) (s : State), s.chip.por = false → s.lsu.keyPhase ≠ 2 →
    ∃ t, exec (.safeCommitWrite v) s = .next t ∧ t.lsu = { s.lsu with keyPhase := 0, commitErr := true }) ∧
  (∀ (v : Word32) (k a : Nat) (s : State), Quiet s → s.chip.por = false → k < 4 → bit v.toNat (8 + k) = true →
    (s.len k).cause = .stuckOn → (s.len k).agreeSince = some a → a + 10 * msTicks ≤ s.dt →
    ∃ t, exec (.safeAckWrite v) s = .next t ∧ (t.len k).cause = .none ∧
      ∀ j, j < 4 → bit v.toNat (8 + j) = false → t.len j = s.len j) ∧
  (∀ (v : Word32) (i : Nat) (s : State), Quiet s → s.chip.por = false → i < 8 → bit v.toNat i = true →
    (s.ilk i).state = .discrepancy → (s.ilk i).seenPerm = true →
    let p := permissive (s.lsu.ilkMode i) (s.ilk i).filtA (s.ilk i).filtB
    ∃ t, exec (.safeAckWrite v) s = .next t ∧ (t.ilk i).state = if p.1 && p.2 then .ok else .demand) ∧
  (∀ (v : Word32) (s : State), s.chip.por = false →
    ∃ t, exec (.lenForceOffWrite v) s = .next t ∧ t.lsu.keyPhase = 0 ∧
      ∀ k, k < 4 → (t.len k).forceOff = bit v.toNat k ∧ (bit v.toNat k = true → (t.len k).on = false) ∧
        (bit v.toNat k = false → (t.len k).on = (s.len k).on)) ∧
  (∀ (b : SafetyBlock) (s : State), s.chip.por = false → b.words.length = 28 →
    (s.lsu.words = [] ∨ safeCheck b.words ≠ s.lsu.check) →
    ∃ t, exec (.safetyBlockDeliver b) s = .next t ∧ t.lsu.words = b.words ∧ t.lsu.check = safeCheck b.words ∧
      (t.lsu.paramOk = true ↔ safeCheck b.words = b.expected) ∧ ∀ k, k < 4 → (t.len k).on = false) ∧
  (∀ (v : Word32) (s : State), s.chip.por = false → s.chip.mainRun = true → s.lsu.recordPending = some v →
    (∃ t, exec (.safetyRecordWrite true) s = .next t ∧
      t.lsu = { s.lsu with record := some (v, true), recordPending := none }) ∧
    (∃ t, exec (.safetyRecordWrite false) s = .next t ∧
      t.lsu = { s.lsu with recordErr := true, recordPending := none })) ∧
  (∀ (crc parity clock supply : Bool) (s : State), Quiet s → s.chip.por = false → s.lsu.fault = false →
    (crc && parity && clock && supply) = false →
    let d := if !crc then 0 else if !parity then 1 else if !clock then 2 else 3
    Reportable s 0x0073 srcLsu d →
    ∃ t, exec (.lsuSelfCheck crc parity clock supply) s = .next t ∧ t.lsu.fault = true ∧
      NewRecord s t 0x0073 srcLsu d ∧ ∀ k, k < 4 → (t.len k).on = false ∧ (t.len k).cause = .lsuFault) ∧
  (∀ (j : Nat) (s : State), s.chip.por = false → j < 8 → s.lsu.rcReceives j = true →
    (s.rc j).lastAt + s.lsu.rcWatchdog j * msTicks ≤ s.dt →
    ∃ t, exec (.bindingWatchdogExpire j) s = .next t ∧
      t.rc j = { s.rc j with state := .expired, primed := false, lastSeq := none } ∧ ∀ k, k ≠ j → t.rc k = s.rc k)

/-! ## Host queues, sideband, PCIe function -/

/-- R300 to R303, R310: a verb that arrives takes its place in the issue order, one that its checks refuse with its status; a
SQ tail brings the next read of entries, whose arrival passes the verbs on in index order; an index outside its ring and a
failed read stop the queue in ERROR with its code. -/
def Obligations.QueueRowsComplete : Prop :=
  (∀ (src : Source) (e : Entry) (s : State), Quiet s → s.chip.por = false → s.chip.mainRun = true →
    (s.colour src ((verbClass (ebytes e 0 1)).getD 3)).1 ≠ 2 →
    ∃ t i, exec (.verbArrival src e) s = .next t ∧ t.host.issues = s.host.issues ++ [i] ∧ i.src = src ∧
      i.tag = ebytes e 2 2 ∧ i.opcode = ebytes e 0 1 ∧ i.at_ = s.dt ∧
      i.colour = (s.colour src ((verbClass (ebytes e 0 1)).getD 3)).1 ∧
      (s.entryGate src e = none → i.done = none) ∧
      (∀ st, s.entryGate src e = some st → i.done = some (st, noResult (ebytes e 0 1)))) ∧
  (∀ (q v : Nat) (s : State), Quiet s → s.chip.mainRun = true → (s.queue q).state = .running → v < 2 ^ (s.queue q).size →
    (s.queue q).reading = 0 → s.canMaster = true →
    let n := (s.setQueue q { s.queue q with sqTail := v }).fetchCount q
    0 < n →
    ∃ t, exec (.sqTailWrite q v) s = .next t ∧ t.queue q = { s.queue q with sqTail := v, reading := n } ∧
      (∀ k, k ≠ q → t.queue k = s.queue k) ∧
      Gives s t [.hostRead ((s.queue q).sqBase + 64 * (s.queue q).sqHead) (64 * n) false]) ∧
  (∀ (q v : Nat) (s : State), s.chip.mainRun = true → (s.queue q).state = .running →
    (2 ^ (s.queue q).size ≤ v →
      ∃ t, exec (.sqTailWrite q v) s = .next t ∧ t.queue q = (s.queue q).stop .error 1) ∧
    (v < 2 ^ (s.queue q).size → ringLen (2 ^ (s.queue q).size) (s.queue q).cqHead v ≤
        ringLen (2 ^ (s.queue q).size) (s.queue q).cqHead (s.queue q).cqTail → (s.queue q).reading ≠ 0 →
      ∃ t, exec (.cqHeadWrite q v) s = .next t ∧ t.queue q = { s.queue q with cqHead := v } ∧
        ∀ k, k ≠ q → t.queue k = s.queue k) ∧
    (v < 2 ^ (s.queue q).eqSize → ringLen (2 ^ (s.queue q).eqSize) (s.queue q).eqHead v ≤
        ringLen (2 ^ (s.queue q).eqSize) (s.queue q).eqHead (s.queue q).eqTail → (s.queue q).held = [] →
        (s.queue q).droppedSince = 0 →
      ∃ t, exec (.eqHeadWrite q v) s = .next t ∧ t.queue q = { s.queue q with eqHead := v } ∧
        ∀ k, k ≠ q → t.queue k = s.queue k) ∧
    (2 ^ (s.queue q).eqSize ≤ v →
      ∃ t, exec (.eqHeadWrite q v) s = .next t ∧ t.queue q = (s.queue q).stop .error 2)) ∧
  (∀ (q : Nat) (es : List Entry) (s : State), Quiet s → (s.queue q).state = .running → 0 < (s.queue q).reading →
    es.length = (s.queue q).reading →
    ∃ t l, exec (.sqEntryFetch q es) s = .next t ∧ t.host.issues = s.host.issues ++ l ∧
      l.map (fun i => (i.src, i.tag, i.opcode)) = es.map (fun e => (.host q, ebytes e 2 2, ebytes e 0 1)) ∧
      (t.queue q).sqHead = ((s.queue q).sqHead + (s.queue q).reading) % 2 ^ (s.queue q).size ∧
      ∀ k, k ≠ q → t.queue k = s.queue k) ∧
  (∀ (q : Nat) (s : State), (s.queue q).state = .running → 0 < (s.queue q).reading →
    ∃ t, exec (.sqReadFail q) s = .next t ∧ t.queue q = (s.queue q).stop .error 3 ∧
      ∀ k, k ≠ q → t.queue k = s.queue k) ∧
  (∀ (q : Nat) (event : Bool) (s : State), (s.queue q).posts = true →
    ∃ t, exec (.cqEqWriteFail q event) s = .next t ∧ (t.queue q).state = .error ∧
      (t.queue q).errCode = (if event then 5 else 4) ∧ (t.queue q).held = [] ∧
      (t.queue q).lost = satInc (satAdd (s.queue q).lost (s.queue q).held.length 0xFFFF) 0xFFFF ∧
      ∀ k, k ≠ q → t.queue k = s.queue k)

/-- R299, R300: ENABLE starts a DISABLED queue with its indexes at 0 and its phases at 1; ENABLE = 0 drains it, and once
every fetched verb has posted its completion it is DISABLED. While ENABLE is 1 bases and sizes do not change: CFG_ERR. -/
def Obligations.QueueControlRowsComplete : Prop :=
  (∀ (q : Nat) (s : State), s.chip.mainRun = true → (s.queue q).enable = false → (s.queue q).state = .disabled →
    ∃ t, exec (.queueEnable q) s = .next t ∧ (t.queue q).enable = true ∧ (t.queue q).state = .running ∧
      (t.queue q).sqHead = 0 ∧ (t.queue q).sqTail = 0 ∧ (t.queue q).cqTail = 0 ∧ (t.queue q).eqTail = 0 ∧
      (t.queue q).cqPhase = true ∧ (t.queue q).eqPhase = true ∧ (t.queue q).errCode = 0 ∧
      (∀ c, c < 4 → (t.meter q c).tc = (s.meter q c).profile.cbs * tokenUnit ∧
        (t.meter q c).tp = (s.meter q c).profile.pbs * tokenUnit) ∧
      ∀ k, k ≠ q → t.queue k = s.queue k) ∧
  (∀ (q : Nat) (s : State), s.chip.mainRun = true →
    ((s.queue q).state = .running ∨ (s.queue q).state = .error) →
    ∃ t, exec (.queueDisable q) s = .next t ∧ (t.queue q).enable = false ∧ (t.queue q).state = .draining ∧
      (t.queue q).held = (s.queue q).held ∧ ∀ k, k ≠ q → t.queue k = s.queue k) ∧
  (∀ (q : Nat) (s : State), (s.queue q).state = .draining → s.inflight q = 0 → (s.queue q).enable = false →
    ∃ t, exec (.queueDrained q) s = .next t ∧ t.queue q = (s.queue q).stop .disabled (s.queue q).errCode ∧
      ∀ k, k ≠ q → t.queue k = s.queue k) ∧
  (∀ (q r : Nat) (v : Word32) (s : State), s.chip.mainRun = true → (s.queue q).enable = true → r ≤ 6 →
    ∃ t, exec (.queueConfigWrite q r v) s = .next t ∧ t.queue q = { s.queue q with cfgErr := true } ∧
      ∀ k, k ≠ q → t.queue k = s.queue k) ∧
  (∀ (q : Nat) (v : Word32) (s : State), s.chip.mainRun = true → (s.queue q).enable = false →
    ∃ t, exec (.queueConfigWrite q 0 v) s = .next t ∧ t.queue q = { s.queue q with
      sqBase := (s.queue q).sqBase / 2 ^ 32 * 2 ^ 32 + v.toNat / 4096 * 4096 })

/-- R304 to R307, R297, R317, R102, R178: what falls due to a source is posted in order: completions in issue order, events
oldest first; held entries wait. A vector whose oldest entry has waited its time is sent. The fire doorbell fires an ARMED
sentence through the dispatcher and answers for any other state with its report. -/
def Obligations.PostingRowsComplete : Prop :=
  (∀ (q st res : Nat) (i : Issue) (rest : List Issue) (s : State), takeIssue (.host q) s.host.issues = some (i, rest) →
    i.done = some (st, res) → s.heldBack (.host q) i.tag = false → (s.queue q).posts = true → i.orphan = false →
    s.canMaster = true → Quiet s →
    ∃ t, exec (.completionPost (.host q)) s = .next t ∧ t.host.issues = rest ∧
      Gives s t [.hostWrite ((s.queue q).cqBase + 16 * (s.queue q).cqTail) 16
        (completionEntry (s.queue q).cqPhase (s.queue q).sqHead i st res)] ∧
      (t.queue q).cqTail = ((s.queue q).cqTail + 1) % 2 ^ (s.queue q).size ∧
      (t.queue q).cqPhase = (if (t.queue q).cqTail = 0 then !(s.queue q).cqPhase else (s.queue q).cqPhase) ∧
      ∀ k, k ≠ q → t.queue k = s.queue k) ∧
  (∀ (st res : Nat) (i : Issue) (rest : List Issue) (s : State), takeIssue .sideband s.host.issues = some (i, rest) →
    i.done = some (st, res) → s.heldBack .sideband i.tag = false → Quiet s →
    ∃ t, exec (.completionPost .sideband) s = .next t ∧ t.host.issues = rest ∧
      t.host.sbCompletions = s.host.sbCompletions ++ [completionEntry true 0 i st res]) ∧
  (∀ (q : Nat) (e : Event) (rest : List (Source × Event)) (s : State), Quiet s →
    s.nextEvent s.host.owed = some ((.host q, e), rest) → (s.queue q).posts = true → s.canMaster = true →
    (s.queue q).eqFull = false → (s.queue q).held = [] → (s.queue q).droppedSince = 0 →
    ∃ t, exec .eventPost s = .next t ∧ t.host.owed = rest ∧
      Gives s t [.hostWrite ((s.queue q).eqBase + 64 * (s.queue q).eqTail) 64 (eventEntry (s.queue q).eqPhase e)] ∧
      (t.queue q).eqTail = ((s.queue q).eqTail + 1) % 2 ^ (s.queue q).eqSize) ∧
  (∀ (q : Nat) (e : Event) (rest : List (Source × Event)) (s : State), Quiet s →
    s.nextEvent s.host.owed = some ((.host q, e), rest) → (s.queue q).posts = true → (s.queue q).eqFull = true →
    (s.queue q).held = [] → (s.queue q).droppedSince = 0 →
    ∃ t, exec .eventPost s = .next t ∧ t.host.owed = rest ∧ (t.queue q).held = [e] ∧
      (t.queue q).eqTail = (s.queue q).eqTail) ∧
  (∀ (q : Nat) (s : State), (s.queue q).time ≠ 0 → (s.queue q).cqUnsignalled ≠ 0 →
    (s.queue q).cqOldest + (s.queue q).time * usTicks ≤ s.dt → s.canMaster = true → s.host.msixEn = true →
    tabGet s.host.msixUnmasked false q = true → Quiet s →
    ∃ t, exec (.msixInterruptTimer q false) s = .next t ∧ Gives s t [.msix q] ∧
      t.queue q = { s.queue q with cqUnsignalled := 0 } ∧ ∀ k, k ≠ q → t.queue k = s.queue k) ∧
  (∀ (v : Word32) (s : State), Quiet s → s.chip.mainRun = true →
    let h := bits v.toNat 0 12
    let q := bits v.toNat 12 3
    (s.colour (.host q) 0).1 ≠ 2 → s.verbReady 0x16 = true → s.faults.safeState = false →
    ((s.sent h).state = .armed →
      ∃ t, exec (.fireDoorbell v) s = .next t ∧ t.sent h = { s.sent h with state := .launching } ∧
        (∀ j, j ≠ h → t.sent j = s.sent j) ∧
        t.store.p0Queue = s.store.p0Queue ++ [
          { handle := h, trigger := .doorbell q (bits v.toNat 16 16), yellow := decide ((s.colour (.host q) 0).1 = 1), arrival := s.dt }]) ∧
    ((s.sent h).state = .stored →
      ∃ t, exec (.fireDoorbell v) s = .next t ∧ t.store = s.store ∧
        ∃ e, t.host.owed = s.host.owed ++ [(.host q, e)] ∧ e.kind = 1 ∧ e.tag = bits v.toNat 16 16 ∧ e.handle = h ∧
          e.status = 0x06))

/-- R291, R293, R316, R317, R320, R469, R504: the sideband takes a verb whose packet is right and answers a fifth with NACK;
its reads take the oldest entry; an offset of its window is a multiple of 4. Function Level Reset takes every queue to its
reset values, discards what is owed to the host, drops the DMA channels and is counted; PERST low holds the function as well,
and after it the link trains; D3hot stands as commanded; a request of more than one DWORD is answered Unsupported Request. -/
def Obligations.SidebandAndFunctionRowsComplete : Prop :=
  (∀ (e : Entry) (s : State), s.chip.por = false → s.sbPending < 4 → s.sbPending + s.host.sbCompletions.length < 16 → Quiet s →
    ∃ t i, exec (.sbVerbWrite e 64 true) s = .next t ∧ t.host.issues = s.host.issues ++ [i] ∧ i.src = .sideband ∧
      i.tag = ebytes e 2 2 ∧ i.opcode = ebytes e 0 1) ∧
  (∀ (e : Entry) (n : Nat) (pec : Bool) (s : State), s.chip.por = false → 4 ≤ s.sbPending →
    exec (.sbVerbWrite e n pec) s = .next (s.emit .smbusNack)) ∧
  (∀ (c : Nat) (r : List Nat) (s : State), s.chip.por = false → s.host.sbCompletions = c :: r →
    ∃ t, exec .sbCompletionRead s = .next t ∧ t.host.sbCompletions = r ∧ t.out = s.out ++ [.smbusData (byteList 16 c)]) ∧
  (∀ (c : Nat) (r : List Nat) (s : State), s.chip.por = false → s.host.sbEvents = c :: r → s.host.sbEventDropped = 0 →
    ∃ t, exec .sbEventRead s = .next t ∧ t.host.sbEvents = r ∧ t.out = s.out ++ [.smbusData (byteList 64 c)]) ∧
  (∀ (v : Nat) (s : State), s.chip.por = false → v % 4 = 0 → v < 2 ^ 16 →
    exec (.sbWindowOffset v true) s = .next { s with host := { s.host with sbOffset := v } }) ∧
  (∀ s : State, s.chip.mainRun = true →
    ∃ t, exec .pcieFunctionReset s = .next t ∧ t.host.queues = [] ∧ t.host.flrCount = satInc s.host.flrCount 0xFF ∧
      (∀ c, c < 16 → (t.chan c).state = .dropped) ∧ t.store = s.store) ∧
  (∀ s : State, Quiet s → s.host.perst = false → s.chip.mainRun = true →
    ∃ t, exec (.pciePerst true) s = .next t ∧ t.host.perst = true ∧ t.host.bme = false ∧ t.host.queues = [] ∧
      t.host.speed = 0 ∧ (∀ q e, (Source.host q, e) ∉ t.host.owed)) ∧
  (∀ s : State, s.host.perst = true → s.chip.mainRun = true →
    ∃ t, exec (.pciePerst false) s = .next t ∧ t.host = { s.host with perst := false }.trained ∧
      t.host.queues = s.host.queues) ∧
  (∀ (d : Bool) (s : State),
    ∃ t, exec (.pciePowerStateChange d) s = .next t ∧ t.host.d3hot = d ∧
      (d = true → t.host.queues = s.host.queues)) ∧
  (∀ (w : Bool) (o n : Nat) (s : State), o < 2 ^ 24 →
    exec (.bar0AccessError w o n) s = .next (s.emit .unsupportedRequest))

/-! ## Banks, DDR, DMA; registers and windows; meters -/

/-- R292, R294, R344, R348 to R350, R353, R355: a BAR2 write to banks of the HOST owner stores the bytes it enables and no
other, a read answers the stored word, or poison; a bank of another owner denies it, and is counted. Owner, power and
initialisation change as accepted; OFF loses a bank's bytes, INIT leaves it zero and clean, other banks keep theirs. -/
def Obligations.MemoryRowsComplete : Prop :=
  (∀ (a : Nat) (data : List (Option Byte)) (s : State), MemForm s → s.chip.mainRun = true → data ≠ [] →
    a + data.length ≤ banksSize → (∀ i, i < data.length → (s.bank ((a + i) / bankSize)).hostReach = true) →
    ∃ t, exec (.bar2Access true a 0 data) s = .next t ∧
      (∀ i b, data.getD i none = some b → t.mem.get (a + i) = b) ∧
      SameBytesBut (fun x => ∃ i b, data.getD i none = some b ∧ x = a + i) s t) ∧
  (∀ (a : Nat) (s : State), Quiet s → s.chip.mainRun = true → a % 4 = 0 → a + 4 ≤ banksSize →
    ((s.bank (a / bankSize)).hostReach = true → (∀ x ∈ s.mem.bad, x.1 ≠ a / 8) →
      ∃ t, exec (.bar2Access false a 4 []) s = .next t ∧ t.mem = s.mem ∧
        (s.mem.wordClean (a / 8) = true → Gives s t [.readData [BitVec.ofNat 32
          (bytesNat ((List.range 4).map fun i => (s.mem.get (a + i)).toNat))]]) ∧
        (s.mem.wordClean (a / 8) = false → Gives s t [.poisonedCompletion])) ∧
    ((s.bank (a / bankSize)).hostReach = false →
      ∃ t, exec (.bar2Access false a 4 []) s = .next t ∧ Gives s t [.readData [0xFFFFFFFF]] ∧
        t.host.apertureDenied = satInc s.host.apertureDenied 0xFFFF)) ∧
  (∀ (w : Bool) (a n : Nat) (d : List (Option Byte)) (s : State), banksSize < a + (if w then d.length else n) →
    exec (.bar2Access w a n d) s = .fault (.noSuchAddress a)) ∧
  (∀ (b w : Nat) (x y : BitVec 64) (s : State), MemForm s → b < 32 → w < 131072 → (s.bank b).awake = true →
    ∃ t, exec (.bankAccessCollide b w x y) s = .next t ∧
      (t.bank b).collides = satInc (s.bank b).collides 0xFFFF ∧
      (∀ i, i < 8 → t.mem.get (b * bankSize + 8 * w + i) = BitVec.ofNat 8 (x.toNat / 2 ^ (8 * i))) ∧
      SameBytesBut (fun k => b * bankSize + 8 * w ≤ k ∧ k < b * bankSize + 8 * w + 8) s t) ∧
  (∀ (b : Nat) (v : Word32) (s : State), s.chip.mainRun = true → b < 32 → (s.bank b).soft = true →
    bits v.toNat 0 3 ≤ ownDma → (s.bank b).pendingOwner = none →
    ∃ t, exec (.bankOwnerWrite b v) s = .next t ∧ t.bank b = { s.bank b with pendingOwner := some (bits v.toNat 0 3) } ∧
      t.mem.bytes = s.mem.bytes ∧ ∀ k, k ≠ b → t.bank k = s.bank k) ∧
  (∀ (b o : Nat) (s : State), (s.bank b).pendingOwner = some o →
    ∃ t, exec (.bankOwnerChanged b) s = .next t ∧ t.bank b = { s.bank b with owner := o, pendingOwner := none } ∧
      t.mem.bytes = s.mem.bytes ∧ ∀ k, k ≠ b → t.bank k = s.bank k) ∧
  (∀ (b : Nat) (v : Word32) (s : State), s.chip.mainRun = true → b < 32 → (s.bank b).soft = true →
    bits v.toNat 0 2 < 3 → bit v.toNat 3 = false → powerOf (bits v.toNat 0 2) ≠ (s.bank b).pendingPower.getD (s.bank b).power →
    ∃ t, exec (.bankPowerWrite b v) s = .next t ∧
      t.bank b = { s.bank b with rotate := bit v.toNat 2, pendingPower := some (powerOf (bits v.toNat 0 2)) } ∧
      t.mem.bytes = s.mem.bytes ∧ ∀ k, k ≠ b → t.bank k = s.bank k) ∧
  (∀ (b : Nat) (p : Power) (s : State), MemForm s → b < 32 → (s.bank b).pendingPower = some p →
    ∃ t, exec (.bankPowerReached b) s = .next t ∧ t.bank b = { s.bank b with power := p, pendingPower := none } ∧
      (p ≠ .off → t.mem.bytes = s.mem.bytes ∧ t.mem.clean = s.mem.clean) ∧
      (p = .off → (∀ w, w / 2 ^ 17 = b → t.mem.wordClean w = false) ∧ (∀ x, x / bankSize = b → t.mem.get x = 0) ∧
        SameBytesBut (fun x => x / bankSize = b) s t)) ∧
  (∀ (b : Nat) (s : State), s.chip.mainRun = true → b < 32 → (s.bank b).soft = true → (s.bank b).awake = true →
    ∃ t, exec (.bankInit b) s = .next t ∧ t.bank b = { s.bank b with initEnd := some (s.dt + 204800) } ∧
      ∀ k, k ≠ b → t.bank k = s.bank k) ∧
  (∀ (b e : Nat) (s : State), MemForm s → b < 32 → (s.bank b).initEnd = some e → e ≤ s.dt →
    ∃ t, exec (.bankInitDone b) s = .next t ∧ t.bank b = { s.bank b with initEnd := none } ∧
      (∀ w, w / 2 ^ 17 = b → t.mem.wordClean w = true) ∧ (∀ x, x / bankSize = b → t.mem.get x = 0) ∧
      SameBytesBut (fun x => x / bankSize = b) s t) ∧
  (∀ s : State, s.chip.mainRun = true → s.chip.imageApplied = true → s.ddrReady = false →
    (∃ t, exec (.ddrTrainingDone true true) s = .next t ∧ t.mem.ddr0.trained = true ∧ t.mem.ddr1.trained = true ∧
      t.mem.ddr0.capacity = channelGib s.img) ∧
    (Reportable s 0x00C1 11 0 → ∃ t, exec (.ddrTrainingDone true false) s = .next t ∧ t.chip.heldFabric = true ∧
      t.mem.ddr0.trained = true ∧ t.mem.ddr1.trained = false ∧ NewRecord s t 0x00C1 11 0))

/-- R362 to R369: GO starts an enabled channel, RESUME a halted one; a transfer whose accesses are all served moves its
elements in loop order and ends DONE with its vector, one whose access fails halts at that element with the cause; a
transfer of one element between banks moves its bytes and no other; a channel disabled is dropped. -/
def Obligations.DmaRowsComplete : Prop :=
  (∀ (c : Nat) (s : State), s.chip.mainRun = true → c < 16 → (s.chan c).enable = true → s.mem.dmaDisable = false →
    (s.chan c).state = .idle →
    ∃ t, exec (.dmaGo c) s = .next t ∧ (∀ k, k ≠ c → t.chan k = s.chan k) ∧ t.mem.bytes = s.mem.bytes ∧
      (((s.chan c).srcSpace ≠ 0 ∧ (s.chan c).dstSpace ≠ 0 ∨ s.host.bme = true) →
        (t.chan c).state = .running ∧ (t.chan c).moved = 0 ∧ (t.chan c).errCause = 0) ∧
      (((s.chan c).srcSpace = 0 ∨ (s.chan c).dstSpace = 0) → s.host.bme = false →
        (t.chan c).state = .halted ∧ (t.chan c).errCause = 7)) ∧
  (∀ (c : Nat) (s : State), s.chip.mainRun = true → (s.chan c).state = .halted →
    ∃ t, exec (.dmaResume c) s = .next t ∧ t.chan c = { s.chan c with state := .running, errCause := 0 } ∧
      t.mem.bytes = s.mem.bytes ∧ ∀ k, k ≠ c → t.chan k = s.chan k) ∧
  (∀ (c : Nat) (s : State), s.chip.mainRun = true → c < 16 →
    ∃ t, exec (.dmaEnableClear c) s = .next t ∧ (t.chan c).state = .dropped ∧ (t.chan c).enable = false ∧
      ∀ k, k ≠ c → t.chan k = s.chan k) ∧
  (∀ s : State, s.chip.mainRun = true →
    ∃ t, exec .dmaGlobalDisable s = .next t ∧ t.mem.dmaDisable = true ∧ ∀ c, c < 16 → (t.chan c).state = .dropped) ∧
  (∀ (c : Nat) (data : List Byte) (s s1 : State), (s.chan c).state = .running → (s.chan c).supplied (s.chan c).total data = true →
    moveElems (s.chan c) (s.overlaps (s.chan c)) s data (s.chan c).moved ((s.chan c).total - (s.chan c).moved) = (s1, none) →
    (s.chan c).dstSpace ≠ 1 →
    ∃ t, exec (.dmaReadbackDone c true data) s = .next t ∧ (t.chan c).state = .idle ∧ (t.chan c).done = true ∧
      (t.chan c).moved = 0 ∧ t.mem.bytes = s1.mem.bytes ∧ ∀ k, k ≠ c → t.chan k = s.chan k) ∧
  (∀ (c : Nat) (s : State), Quiet s → MemForm s → let x := s.chan c
    x.state = .running → x.moved = 0 → x.total = 1 → x.srcSpace = 1 → x.dstSpace = 1 → x.steps = [0, 0, 0, 0, 0, 0] →
    x.src + x.width ≤ banksSize → x.dst + x.width ≤ banksSize → (x.src + x.width ≤ x.dst ∨ x.dst + x.width ≤ x.src) →
    (∀ i, i < x.width → s.mem.wordClean ((x.src + i) / 8) = true ∧ s.mem.wordClean ((x.dst + i) / 8) = true ∧
      (s.bank ((x.src + i) / bankSize)).owner ≤ ownDma ∧ (s.bank ((x.src + i) / bankSize)).awake = true ∧
      (s.bank ((x.dst + i) / bankSize)).owner ≤ ownDma ∧ (s.bank ((x.dst + i) / bankSize)).awake = true) →
    s.mem.bad = [] → s.mem.poisonNext = none →
    ∃ t, exec (.dmaReadbackDone c true []) s = .next t ∧ (t.chan c).state = .idle ∧ (t.chan c).done = true ∧
      (∀ i, i < x.width → t.mem.get (x.dst + i) = s.mem.get (x.src + i)) ∧
      SameBytesBut (fun k => x.dst ≤ k ∧ k < x.dst + x.width) s t) ∧
  (∀ (c cause k0 k1 k2 : Nat) (w : Bool) (s : State), let x := s.chan c
    x.state = .running → k0 < x.count0 → k1 < x.count1 → k2 < x.count2 → x.moved = k0 + x.count0 * (k1 + x.count1 * k2) →
    1 ≤ cause → cause ≤ 7 →
    ∃ t, exec (.dmaErrorHalt c w cause k0 k1 k2 []) s = .next t ∧ (t.chan c).state = .halted ∧
      (t.chan c).errCause = cause ∧ (t.chan c).errWrite = w ∧ (t.chan c).moved = x.moved ∧ t.mem.bytes = s.mem.bytes ∧
      ∀ k, k ≠ c → t.chan k = s.chan k)

/-- R7, R9, R41, R42, R190, R293, R325, R342, R470: a register write acts by the register's access code, one with fewer than
four byte enables not at all; the sideband's window reads and writes word by word; meters take a profile at the next comma;
telemetry samples every source at its instant, and its maxima are cleared by command. -/
def Obligations.RegisterAndMeterRowsComplete : Prop :=
  (∀ (v : Word32) (s : State), Quiet s → s.chip.mainRun = true → s.host.perst = false →
    (∃ t, exec (.registerWrite 0xA0208 v true) s = .next t ∧ t.mem.mxAge = max 16 (bits v.toNat 0 16) ∧
      t.mem.ownErr = (s.mem.ownErr || decide (bits v.toNat 0 16 < 16)) ∧ t.mem.bytes = s.mem.bytes) ∧
    (∃ t, exec (.registerWrite 0x10000 v true) s = .next t ∧ t.faults.errLevel = max 1 (bits v.toNat 0 2)) ∧
    (∃ t, exec (.registerWrite 0xD0004 v true) s = .next t ∧ t.mate.pathAlarm = (s.mate.pathAlarm && !bit v.toNat 8) ∧
      t.mate.role = s.mate.role) ∧
    (∀ n, n < 16 → (s.region n).fenced = false → ∃ t, exec (.registerWrite (0x100000 + n * 0x10000 + 0x4100) v true) s =
      .next t ∧ (t.region n).elemSel = bits v.toNat 0 18) ∧
    (∀ o, o < 2 ^ 24 → exec (.registerWrite o v false) s = .next s)) ∧
  (∀ (o : Nat) (v : Word32) (b : Bool) (s : State), 2 ^ 24 ≤ o → exec (.registerWrite o v b) s = .fault (.noSuchAddress o)) ∧
  (∀ (s : State), s.chip.por = false → s.host.sbOffset = 0 →
    ∃ t, exec (.sbWindowAccess false 4 [] true) s = .next t ∧ t.out = s.out ++ [.smbusData (byteList 4 0x4B012620)] ∧
      t.host.sbOffset = 4) ∧
  (∀ (v : Word32) (s : State), s.chip.por = false → s.host.sbOffset = 0x8000 →
    ∃ t, exec (.sbWindowAccess true 4 [v] true) s = .next t ∧ t.chip.sbMainAddr = v.toNat % 2 ^ 24 / 4 * 4 ∧
      t.host.sbOffset = 0x8004) ∧
  (∀ (v : Word32) (s : State), s.chip.por = false → s.host.sbOffset = 0x8004 → s.chip.mainRun = true → s.chip.sbMainAddr = 0xA0208 →
    ∃ t, exec (.sbWindowAccess true 4 [v] true) s = .next t ∧ t.mem.mxAge = max 16 (bits v.toNat 0 16)) ∧
  (∀ (w : Bool) (n : Nat) (d : List Word32) (s : State), s.chip.por = false → (n < 4 ∨ 32 < n ∨ n % 4 ≠ 0) →
    exec (.sbWindowAccess w n d true) s = .next (s.emit .smbusNack)) ∧
  (∀ (v : Word32) (s : State), s.chip.mainRun = true → s.adm.selClass ≠ 0 → s.adm.selSource < 25 →
    let key := 4 * s.adm.selSource + s.adm.selClass
    let p := s.standing key
    ∃ t, exec (.admMeterWrite 0 v) s = .next t ∧ t.standing key = { p with cir := min (bits v.toNat 0 24) p.pir } ∧
      t.adm.meterErr = (s.adm.meterErr || decide (p.pir < bits v.toNat 0 24)) ∧ t.adm.meters = s.adm.meters ∧
      ∀ k, k ≠ key → t.standing k = s.standing k) ∧
  (∀ s : State, s.chip.mainRun = true → s.dt % 12500 = 0 →
    ∃ t, exec .queueTelemetrySample s = .next t ∧ ∀ k, k < 26 →
      let a := tabGet s.adm.tel {} k
      let b := tabGet t.adm.tel {} k
      b.depth = min (s.waiting k).1 8191 ∧ b.maxDepth = max a.maxDepth b.depth ∧ b.maxDelay = max a.maxDelay b.delay) ∧
  (∀ s : State, s.chip.mainRun = true →
    (∃ t, exec .p0LatencyClearMax s = .next t ∧ t.store = { s.store with p0Max := 0 }) ∧
    (∃ t, exec .mateGapClearMax s = .next t ∧ t.mate.gapMax = 0 ∧ t.mate.gapLast = s.mate.gapLast) ∧
    (∃ t, exec .admTelClearMax s = .next t ∧ ∀ k, tabGet t.adm.tel {} k =
      { tabGet s.adm.tel {} k with maxDepth := 0, maxDelay := 0 }))

/-! ## Launches -/

/-- R74, R75, R87, R115, R184: the oldest preparation that can be served is routed; its clauses and moves are kept for the
token, or for an arming in the armed sentence; where no clause can be placed the launch ends REFUSED with no token.
Preparations begin within PREP_LEAD of a launch's time, and again for a STALE sentence. -/
def Obligations.PreparationRowsComplete : Prop :=
  (∀ (p : Prep) (s : State), s.store.preps.find? s.servable = some p → p.arms = false →
    let r := s.routeSentence p.handle p.opts.rearrangeOk
    r.1.any placedClause = true → (p.opts.allOrNone = false ∨ r.1.all placedClause = true) →
    ∃ t, exec .sentencePrepare s = .next t ∧
      t.store.preps = s.store.preps.map (fun q => if q.id = p.id then { p with done := some r.1, moves := r.2.moves } else q) ∧
      t.store.ptr = r.2.ptr ∧ t.store.table = s.store.table ∧ t.store.sentences = s.store.sentences ∧
      t.store.nextSerial = s.store.nextSerial) ∧
  (∀ (p : Prep) (h : Hdr) (s : State), Quiet s → s.store.preps.find? s.servable = some p → p.arms = false →
    p.trigger = .commit h → p.opts.resultAddr = 0 →
    let r := s.routeSentence p.handle p.opts.rearrangeOk
    r.1 ≠ [] → r.1.any placedClause = false → p.opts.allOrNone = false →
    (∀ x ∈ r.1, x.2 ≠ rsAbsent) →
    ∃ t f, exec .sentencePrepare s = .next t ∧ VerbEnds s t h 0x12 0x02 f ∧ (t.sent p.handle).state = .stored ∧
      (t.sent p.handle).lastSerial = (s.sent p.handle).lastSerial ∧ t.store.table = s.store.table ∧
      t.store.nextSerial = s.store.nextSerial ∧ t.store.preps = s.store.preps.filter (fun q => !(q.id == p.id))) ∧
  (∀ (p : Prep) (h : Hdr) (s : State), s.store.preps.find? s.servable = some p → p.trigger = .arming h →
    let r := s.routeSentence p.handle p.opts.rearrangeOk
    (p.opts.allOrNone = false ∨ r.1.all placedClause = true) →
    let ms := movingEids (s.tableChange p.handle 0 (r.1.map (·.1)) (r.1.map (·.2)) r.2.moves).acts
    s.pinsFit (dedup (s.armedElems ++ ms ++ ms.flatMap s.img.neighbours)) = true →
    ∃ t, exec .sentencePrepare s = .next t ∧ (t.sent p.handle).armedList = r.1 ∧ (t.sent p.handle).armedMoves = r.2.moves ∧
      (t.sent p.handle).armedMoved = ms ∧ (t.sent p.handle).slot = (s.sent p.handle).slot ∧ t.store.table = s.store.table) ∧
  (∀ (hd : Nat) (x : Sched) (s : State), s.store.scheds.find? (fun y => y.handle = hd) = some x →
    x.t - (s.img.prepLead : Int) * 1000 * ntNs ≤ s.now → s.preparing (Prep.isSched · hd) = false →
    ∃ t, exec (.prepLeadDue false hd) s = .next t ∧ t.store = { s.store with
      preps := s.store.preps ++ [{ id := s.store.nextPrep, handle := hd, trigger := .schedule x.src x.tag x.t x.late, opts := x.opts }]
      nextPrep := s.store.nextPrep + 1 }) ∧
  (∀ (n : Nat) (s : State), let p := s.para n
    p.state = .running → p.time p.step p.iter - (s.img.prepLead : Int) * 1000 * ntNs ≤ s.now → (s.sent p.handle).idle = true →
    s.preparing (Prep.isPara · n) = false →
    ∃ t, exec (.prepLeadDue true n) s = .next t ∧ ∃ q, t.store.preps = s.store.preps ++ [q] ∧ q.handle = p.handle ∧
      q.trigger = .paraStep n p.step p.iter p.src p.tag (p.time p.step p.iter) p.late) ∧
  (∀ (hd : Nat) (s : State), (s.sent hd).state = .stale → s.armFenced (s.sent hd) = false →
    s.preparing (fun p => p.arms && p.handle == hd) = false →
    ∃ t, exec (.staleReprepare hd) s = .next t ∧ t.store = { s.store with
      preps := s.store.preps ++ [{ id := s.store.nextPrep, handle := hd, trigger := .restale, opts := (s.sent hd).opts }]
      nextPrep := s.store.nextPrep + 1 })

/-- R67, R69, R77, R78, R82, R83, R89, R95 to R97, R182, R186, R190: whatever may be issued is: the token of a preparation, a P0
request with the lead of its footprint, a scheduled launch or paragraph step at the tick of its time, a reversal; a launch
that is too late ends LATE_CANCELLED instead. -/
def Obligations.TokenRowsComplete : Prop :=
  (∀ (n : Nat) (p : Prep) (s : State),
    s.store.preps.find? (fun p => p.id = n && p.done.isSome && !p.arms) = some p →
    (∀ a b c d, p.trigger ≠ .schedule a b c d) → (∀ a b c d e f g, p.trigger ≠ .paraStep a b c d e f g) →
    let tk := s.tokenOf p (s.dt + s.leadP1)
    TokenReady s tk → s.p0First = false → s.launchHeld p.trigger = false → s.slotsFree (s.tokenTiles tk) = true →
    ∃ t, exec (.tokenIssue n) s = .next t ∧ TokenIssued s t tk ∧
      ∀ q ∈ t.store.preps, q.id ≠ p.id) ∧
  (∀ (r : P0Req) (s : State), s.nextP0 = some r → s.launchHeld r.trigger = false →
    (∀ m a, r.trigger ≠ .deferredLos m a) →
    let x := s.sent r.handle
    let c := s.p0Causes r.yellow (tilesOf x.armedMoved)
    let tick := s.dt + nsTicks (s.leadP0 (tilesOf x.armedMoved))
    let tk : CommitToken := { handle := r.handle, trigger := r.trigger, opts := x.opts, tick := tick, clauses := x.armedList, moves := x.armedMoves, armSlot := x.slot, boundLost := c.1 || c.2.1 || c.2.2 }
    x.slot ≠ none → TokenReady s tk →
    ∃ t, exec .p0Dispatch s = .next t ∧ TokenIssued s t tk ∧ t.store.p0Queue = dropReq r s.store.p0Queue ∧
      t.store.p0Fires = satInc s.store.p0Fires 0xFFFF ∧ t.store.p0Last = min 4095 (ticksNsUp (tick - r.arrival)) ∧
      t.store.p0BoundLost = (if tk.boundLost then satInc s.store.p0BoundLost 0xFFFF else s.store.p0BoundLost)) ∧
  (∀ (hd tick : Nat) (x : Sched) (p : Prep) (s : State), s.issuesTokens = true →
    s.store.scheds.find? (fun y => y.handle = hd && s.issuesTokens) = some x → s.dueNow x.t x.late = .due tick →
    s.store.preps.find? (fun p => p.isSched hd && p.done.isSome) = some p → s.priorLaunch x = false →
    s.time.tokensStopped = false → TokenReady s (s.tokenOf p tick) → s.p0First = false → s.slotsFree (s.tokenTiles (s.tokenOf p tick)) = true →
    ∃ t, exec (.scheduledLaunchDue hd) s = .next t ∧ TokenIssued s t (s.tokenOf p tick) ∧
      t.store.scheds = s.store.scheds.filter (· ≠ x) ∧ (t.sent hd).state = .launching) ∧
  (∀ (hd : Nat) (x : Sched) (s : State), Quiet s → s.issuesTokens = true →
    s.store.scheds.find? (fun y => y.handle = hd && s.issuesTokens) = some x → s.dueNow x.t x.late = .late →
    ∃ t e, exec (.scheduledLaunchDue hd) s = .next t ∧ t.host.owed = s.host.owed ++ [(x.src, e)] ∧ e.status = 0x03 ∧ e.tag = x.tag ∧
      (t.sent x.handle).state = .stored ∧ t.store.table = s.store.table ∧
      t.store.lateCancels = satInc s.store.lateCancels 0xFFFF) ∧
  (∀ (n tick : Nat) (q : Prep) (s : State), let p := s.para n
    p.state = .running → s.issuesTokens = true → s.dueNow (p.time p.step p.iter) p.late = .due tick →
    s.store.preps.find? (fun q => q.isPara n && q.done.isSome) = some q → p.inFlight = false → (s.sent q.handle).idle = true →
    s.time.tokensStopped = false → TokenReady s (s.tokenOf q tick) → s.p0First = false → s.slotsFree (s.tokenTiles (s.tokenOf q tick)) = true →
    ∃ t, exec (.paragraphStepDue n) s = .next t ∧ TokenIssued s t (s.tokenOf q tick) ∧
      t.para n = { p.advance with inFlight := true } ∧ ∀ k, k ≠ n → t.para k = s.para k) ∧
  (∀ (n : Nat) (s : State), let p := s.para n
    Quiet s → p.state = .running → s.issuesTokens = true → s.dueNow (p.time p.step p.iter) p.late = .late →
    ∃ t e, exec (.paragraphStepDue n) s = .next t ∧ t.host.owed = s.host.owed ++ [(p.src, e)] ∧ e.status = 0x03 ∧
      t.para n = (if p.halt then { p with state := .halted } else p.advance) ∧ t.store.table = s.store.table) ∧
  (∀ (n : Serial) (l : Launch) (s : State),
    s.store.launches.find? (fun l => l.serial = n && l.settled && l.reversal.isNone && !l.revActs.isEmpty) = some l →
    s.revWaits l = false → s.issuesTokens = true →
    let tk : CommitToken := { handle := l.handle, trigger := .reversal n, tick := s.dt + s.leadP1, clauses := [], revActs := l.revActs }
    TokenReady s tk → s.p0First = false → s.slotsFree (s.tokenTiles tk) = true →
    ∃ t, exec (.reversalLaunch n) s = .next t ∧ TokenIssued s t tk ∧ t.store.table = s.store.table)

/-- R38, R60, R77 to R80, R103, R106, R432: a latch report, a missed report, 20 µs without one, or the safe state settles a
tile's part of a launch; the elements of a latched tile play their shapes from the launch time; with its last tile latched
and every clause applied a COMMIT ends SUCCESS with its counts, and its sentence is STORED. -/
def Obligations.LaunchResultRowsComplete : Prop :=
  (∀ (k : Nat) (n : Serial) (l : Launch) (s : State), Quiet s → TheLaunch s n l → l.settled = false → (∃ j, (k, j, TileResult.waiting) ∈ l.tiles) →
    (∃ x ∈ l.tiles, x.1 ≠ k ∧ x.2.2 = .waiting) →
    (∃ t l', exec (.latchReportReceive k n true) s = .next t ∧ TheLaunch t n l' ∧ l'.settled = false ∧
      l'.tiles = l.tiles.map (fun x => if x.1 = k && x.2.2 = .waiting then (x.1, x.2.1, .latched) else x) ∧
      l'.unusable = l.unusable ++ s.unusableClauses l k ∧ t.store.table = s.store.table ∧
      ∀ e ∈ movingEids l.acts, eidTile e = k → actsOver l.serial l.tick (s.elem e).lastLaunch = true →
        (t.elem e).lastLaunch = some (l.serial, l.tick) ∧ (t.elem e).shaping = true ∧ (t.elem e).shapeEnd = l.tick + 2000) ∧
    (s.faults.safeState = false → ∃ t l', exec (.latchReportReceive k n false) s = .next t ∧ TheLaunch t n l' ∧
      l'.tiles = l.tiles.map (fun x => if x.1 = k && x.2.2 = .waiting then (x.1, x.2.1, .missed) else x) ∧
      t.loops.elems = s.loops.elems) ∧
    (s.faults.safeState = false → l.tick + 20 * usTicks ≤ s.dt → s.mate.role ≠ .standby →
      ∃ t l', exec (.launchResultTimeout k n) s = .next t ∧ TheLaunch t n l' ∧
        l'.tiles = l.tiles.map (fun x => if x.1 = k && x.2.2 = .waiting then (x.1, x.2.1, .lost) else x)))  ∧
  (∀ (k j : Nat) (n : Serial) (l : Launch) (h : Hdr) (s : State), Quiet s → TheLaunch s n l → l.settled = false →
    (k, j, TileResult.waiting) ∈ l.tiles → (∀ x ∈ l.tiles, x.1 ≠ k → x.2.2 = .latched) →
    (∀ x ∈ l.tiles, x.1 = k → x.2.2 = .waiting) → l.trigger = .commit h →
    l.reasons = List.replicate l.own rsApplied → l.clauses.length = l.own → l.unusable = [] → s.unusableClauses l k = [] →
    l.opts.resultAddr = 0 → l.boundLost = false → l.reversed = false →
    ∃ t, exec (.latchReportReceive k n true) s = .next t ∧
      VerbEnds s t h 0x12 0x00 (resultFields l.own 0 0xFFFF 0 0) ∧ (t.sent l.handle).state = .stored ∧
      (t.sent l.handle).lastSerial = n ∧ t.store.launches.filter (fun x => x.serial = n) = [] ∧ t.store.table = s.store.table) ∧
  (∀ (n : Serial) (l : Launch) (h : Hdr) (s : State), Quiet s → TheLaunch s n l → l.settled = false → s.faults.safeState = true →
    l.tick + 20 * usTicks ≤ s.dt → l.trigger = .commit h → l.opts.resultAddr = 0 →
    (∀ x ∈ l.tiles, x.2.2 = .waiting) → (∀ k, k < l.own → ∃ a ∈ l.acts, a.clause = k ∧ ∃ x ∈ l.tiles, x.1 = eidTile a.eid) →
    l.reasons = List.replicate l.own rsApplied → l.clauses.length = l.own → 0 < l.own →
    ∃ t f, exec (.safeStateTokenResolve n) s = .next t ∧ VerbEnds s t h 0x12 0x02 f ∧
      t.store.launches.filter (fun x => x.serial = n) = [])

/-! ## Faults, fences, loss of light -/

/-- R421 to R424, R426, R430, R433, R435, R436, R439: a report leaves a record, or is merged with one of the latest millisecond;
one of severity S3 brings the safe state, light off; a collector that fails brings it too. FAULT_CLEAR marks every record up
to its SEQ; a CHECK injection is recorded at S0 and INJECTED, without a reaction; a REACT injection enters its path. -/
def Obligations.CollectorRowsComplete : Prop :=
  (∀ (r : Report) (s : State), s.chip.por = false → Reportable s r.code r.source r.detail0 → r.code ≠ 0x0001 →
    r.code ≠ 0x0011 → r.code ≠ 0x0012 → r.code ≠ 0x0022 → r.code ≠ 0x0031 →
    ∃ t, exec (.faultReport [r]) s = .next t ∧ NewRecord s t r.code r.source r.detail0 ∧
      (severityOf r.code = 3 → s.faults.safeState = false → t.faults.safeState = true ∧ t.lsu.safeState = true ∧
        ∀ k, k < 4 → (t.len k).on = false)) ∧
  (∀ (n : Nat) (s : State), s.chip.por = false → Reportable s 0x0011 (srcRegion n) 0 → n < 16 → Quiet s →
    ∃ t, exec (.faultReport [{ code := 0x0011, source := srcRegion n }]) s = .next t ∧
      NewRecord s t 0x0011 (srcRegion n) 0 ∧ (t.region n).fenced = true) ∧
  (∀ (r : Report) (f : FaultRec) (s : State), s.chip.por = false → s.chip.mainRun = true → s.fencedSource r = false → r.code ≠ 0x0001 →
    r.code ≠ 0x0011 → r.code ≠ 0x0012 → r.code ≠ 0x0022 → r.code ≠ 0x0031 →
    findMerge (s.faults.log ++ s.faults.spill) r s.dt = some f →
    ∃ t, exec (.faultReport [r]) s = .next t ∧ t.faults.nextSeq = s.faults.nextSeq ∧
      t.faults.log = s.faults.log.map (fun g => if g.seq = f.seq then
        { g with count := satInc g.count 0xFFFF, timeLast := s.dt % 2 ^ 32 } else g)) ∧
  (∀ s : State, s.chip.mainRun = true → s.faults.safeState = false →
    ∃ t, exec .collectorSelfFault s = .next t ∧ t.faults.safeState = true ∧ (∃ f ∈ t.faults.aonCopy, f.code = 0x0001 ∧ f.severity = 3) ∧
      ∀ k, k < 4 → (t.len k).on = false) ∧
  (∀ (ddr : Bool) (src : Nat) (s : State), Reportable s (if ddr then 0x0052 else 0x0053) src 0 → s.faults.safeState = false →
    ∃ t, exec (.centralEngineError ddr src) s = .next t ∧ NewRecord s t (if ddr then 0x0052 else 0x0053) src 0 ∧
      t.faults.safeState = true) ∧
  (∀ s : State, Reportable s 0x0054 srcMgmt 0 →
    ∃ t, exec .mgmtWatchdog s = .next t ∧ NewRecord s t 0x0054 srcMgmt 0 ∧ (∀ p, p < 16 → (t.peer p).state = .absent) ∧
      t.time.state = (if s.time.state = .locked then .holdover else s.time.state)) ∧
  (∀ (v : Word32) (s : State), s.chip.mainRun = true →
    ∃ t, exec (.faultClear v) s = .next t ∧ t.faults.log = s.faults.log.map (fun f =>
        if seqUpTo v.toNat f.seq then { f with cleared := true } else f) ∧
      t.faults.nextSeq = s.faults.nextSeq ∧ t.faults.safeState = s.faults.safeState) ∧
  (∀ s : State, s.chip.mainRun = true →
    ∃ t, exec .faultFirstClear s = .next t ∧ t.faults.firstValid = false ∧ t.faults.log = s.faults.log) ∧
  (∀ (k u c : Nat) (dbl side : Bool) (s : State), Quiet s → s.chip.mainRun = true → s.faults.injBusy = none → k < 7 → u ≤ unitTop k →
    checkerCode k u = some c → findMerge (s.faults.log ++ s.faults.spill) { code := c, source := checkerSource k u, detail0 := u } s.dt = none →
    ∃ t, exec (.faultInjectCheck k u dbl side) s = .next t ∧ t.faults.safeState = s.faults.safeState ∧ t.regions = s.regions ∧
      ∃ f ∈ t.faults.log, f.seq = some s.faults.nextSeq ∧ f.code = c ∧ f.injected = true ∧ f.severity = 0) ∧
  (∀ (dbl side : Bool) (s : State), Quiet s → s.chip.mainRun = true → s.faults.injBusy = none →
    (∃ t, exec (.faultInjectReact 0 0 dbl side) s = .next t ∧
      t.mem.poisonNext = some (s.faults.injAddr / 8, dbl) ∧ t.mem.bytes = s.mem.bytes) ∧
    ∀ n, n < 16 → (s.region n).fenced = false → ∃ t, exec (.faultInjectReact 4 n dbl side) s = .next t ∧
      (t.region n).fenced = true)

/-- R13, R14, R21, R22, R28, R88 to R90, R117, R118, R206, R269, R427: a watchdog, too many short commas or a tile's own fault fences
what it names, a second failure of a cell its cell; a lost token is claimed again. Loss of light at the port that an ARMED
sentence is bound to fires it; a connection through a RETIRED element is given a new path, or the event that there is none. -/
def Obligations.FenceAndLossRowsComplete : Prop :=
  (∀ s : State, Reportable s 0x0010 srcAon 0 →
    ∃ t, exec (.handshakeWatchdog .centralAon) s = .next t ∧ NewRecord s t 0x0010 srcAon 0) ∧
  (∀ (n : Nat) (s : State), Quiet s → n < 16 → (s.region n).fenced = false →
    (Reportable s 0x0011 (srcRegion n) 0 → ∃ t, exec (.handshakeWatchdog (.regionCentral n)) s = .next t ∧
      NewRecord s t 0x0011 (srcRegion n) 0 ∧ (t.region n).fenced = true) ∧
    (∀ b, s.chip.mainRun = true → (s.region n).blockFenced b = false →
      ∃ t, exec (.handshakeWatchdog (.regionBlock n b)) s = .next t ∧ (t.region n).blockFenced b = true ∧
        ((b = .link ∨ b = .loop) → (t.region n).fenced = true)) ∧
    (16 ≤ (s.region n).shortRun → Reportable s 0x0022 (srcRegion n) 0 → ∃ t, exec (.regionEscalate n) s = .next t ∧
      NewRecord s t 0x0022 (srcRegion n) 0 ∧ (t.region n).fenced = true)) ∧
  (∀ (n c : Nat) (b : Block) (s : State), Quiet s → s.chip.mainRun = true → n < 16 → c < 16 → (s.region n).fenced = false →
    b ≠ .cache → ((s.region n).fencedCells b).contains c = false → (s.region n).blockFenced b = false →
    let again := (s.region n).failures.any fun f => f.1 == b && f.2.1 == c && decide (s.commaNo < f.2.2 + 1024)
    ∃ t, exec (.cellOperationError n b c none) s = .next t ∧
      (again = false → t.region n = { s.region n with
        failures := (b, c, s.commaNo) :: (s.region n).failures.filter fun f => decide (s.commaNo < f.2.2 + 1024) }) ∧
      (again = true → ((t.region n).fencedCells b).contains c = true)) ∧
  (∀ (k d : Nat) (s : State), Reportable s 0x0031 (srcTile k) k →
    ∃ t, exec (.tileFaultReceive k d) s = .next t ∧ NewRecord s t 0x0031 (srcTile k) k ∧ t.faults.tileFences.contains k = true) ∧
  (∀ (k : Nat) (s : State), Quiet s → Reportable s 0x0033 (srcTile k) k →
    ∃ t, exec (.tokenLostReceive k) s = .next t ∧ NewRecord s t 0x0033 (srcTile k) k ∧ (t.link k).owner = false ∧
      ((s.mate.role = .active ∨ s.mate.role = .alone) → .downFrame k "CLAIM" [] ∈ t.out)) ∧
  (∀ (m hd : Nat) (x : Bool × PortRec) (e : Sentence) (s : State), (s.mate.role = .active ∨ s.mate.role = .alone) →
    s.img.portOfMonitor m = some x → s.boundTo { input := x.1, port := x.2.port } = some (hd, e) →
    s.losMatches e { input := x.1, port := x.2.port } = true → (s.colour .lossOfLight 0).1 ≠ 2 → s.faults.safeState = false →
    e.state = .armed → (s.sent hd).state = .armed →
    ∃ t, exec (.losEventReceive [m]) s = .next t ∧ (t.monitor m).los = true ∧ (t.sent hd).state = .launching ∧
      t.store.p0Queue = s.store.p0Queue ++ [{ handle := hd, trigger := .lossOfLight m e.armSrc e.armTag, yellow := decide ((s.colour .lossOfLight 0).1 = 1), arrival := s.dt }]) ∧
  (∀ (m : Nat) (s : State), ∃ t, exec (.losClearReceive m) s = .next t ∧ (t.monitor m).los = false ∧
    ∀ k, k ≠ m → t.monitor k = s.monitor k) ∧
  (∀ (ip : Nat) (k : Conn) (s : State), Quiet s → s.conn ip = some k → s.throughRetired k = true →
    (s.store.preps.any fun p => p.trigger == .reroute ip) = false → (s.store.launches.any fun l => l.trigger == .reroute ip) = false →
    let path := s.choosePath s.store.ptr (s.usedLines (tabSet s.store.table ip none) ++ s.armedLines none)
      (candidates s.img ip (clauseOf k.clause).outPort)
    (∀ p, path = some p → ∃ t q, exec (.elementReroute ip) s = .next t ∧ t.store.preps = s.store.preps ++ [q] ∧
      q.trigger = .reroute ip ∧ q.handle = k.handle ∧ q.moves = [(ip, ((clauseOf k.clause).routed p.es).toRec)] ∧
      t.store.table = s.store.table) ∧
    (path = none → s.store.failedReroutes.contains ip = false → ∃ t e, exec (.elementReroute ip) s = .next t ∧
      (Source.sideband, e) ∈ t.host.owed ∧ e.kind = 4 ∧ e.status = rsNoRoute ∧ t.store.table = s.store.table ∧
      t.store.reroutesFailed = satInc s.store.reroutesFailed 0xFFFF))

/-! ## Commas and element loops -/

/-- R30, R33, R139, R156, R165, R171, R259, R325: at a comma boundary device time stands at the comma's start, the tiles take up
what waited for it, written shares and profiles are in force; the samples of a SENSE frame are stored, and the updates that
waited for them are served with them by their law; a dwell that has passed settles its element, a blanking its supervision.
That an update is served when its SENSE frame arrives is the model's choice (logs 42 and 43). -/
def Obligations.LoopRowsComplete : Prop :=
  (∀ s : State, s.time.pllLocked = true →
    ∃ t, exec .commaBoundary s = .next t ∧ t.dt = (s.dt / 1250 + 1) * 1250 ∧
      (s.chip.mainRun = false → t.paost.tiles = s.paost.tiles.map fun p => (p.1, p.2.comma (s.dt / 1250 + 1))) ∧
      (s.chip.mainRun = true → t.adm.pending = [] ∧ t.comma = { s.comma with
        linkShare := s.comma.pendingLink.getD s.comma.linkShare
        loopShare := s.comma.pendingLoop.getD s.comma.loopShare
        pendingLink := none
        pendingLoop := none })) ∧
  (∀ (v w : Word32) (s : State), s.chip.mainRun = true → s.time.pllLocked = true →
    ∃ t u x, exec (.commaLinkShareWrite v) s = .next t ∧ exec (.commaLinkShareWrite w) t = .next u ∧ exec .commaBoundary u = .next x ∧
      t.comma.pendingLink.isSome = true ∧ t.comma.linkShare = s.comma.linkShare ∧ u.comma.linkShare = s.comma.linkShare ∧
      x.comma.linkShare = (limitShares s.comma.linkShare w).1 ∧ x.comma.pendingLink = none) ∧
  (∀ (v w : Word32) (s : State), s.chip.mainRun = true → s.time.pllLocked = true →
    ∃ t u x, exec (.commaLoopShareWrite v) s = .next t ∧ exec (.commaLoopShareWrite w) t = .next u ∧ exec .commaBoundary u = .next x ∧
      t.comma.pendingLoop.isSome = true ∧ t.comma.loopShare = s.comma.loopShare ∧ u.comma.loopShare = s.comma.loopShare ∧
      x.comma.loopShare = (limitShares s.comma.loopShare w).1 ∧ x.comma.pendingLoop = none) ∧
  (∀ s : State, (readGlobal s 0x108).toNat / 2 ^ 17 % 2 = b2n (s.comma.pendingLink.isSome || s.comma.pendingLoop.isSome)) ∧
  (∀ (k : Nat) (vs : List Nat) (s : State), Quiet s → (s.link k).tile = .adopted →
    let es := (tileEids k).filter fun e => (s.elem e).fastNext ||
      (s.commaNo + 1 + e) % max 1 ((s.cls (s.elemClass e)).holdDiv * (if s.house.throttle then 2 else 1)) == 0
    es.length = vs.length →
    ∃ t, exec (.senseFrameReceive k s.commaNo vs) s = .next t ∧
      (∀ e v, (e, v) ∈ es.zip vs → t.elem e = { s.elem e with sample := some (s.commaNo, v) }) ∧
      ∀ e, e ∉ es → t.elem e = s.elem e) ∧
  (∀ (k c : Nat) (vs : List Nat) (s : State), Quiet s → c + 1 = s.commaNo → (s.link k).tile = .adopted → s.loopsOn k = true →
    s.drives k = true →
    let es := (tileEids k).filter fun e => s.inFrame e s.commaNo
    es.length = vs.length →
    ∃ t, exec (.senseFrameReceive k c vs) s = .next t ∧
      (∀ e v, (e, v) ∈ es.zip vs → (s.elem e).due = true → (t.elem e).due = false ∧ (t.elem e).drive =
        ((if (s.elem e).handoverDue then (s.elem e).takeOver else s.elem e).update (s.cls (s.elemClass e)) (s.bankOf e)
          s.commaNo v).drive) ∧
      ((∃ e ∈ es, (s.elem e).due = true) → ∃ fields, .downFrame k "DRIVE" ((s.commaNo + 1) :: fields) ∈ t.out)) ∧
  (∀ (e d : Nat) (s : State), Quiet s → (s.elem e).dwellEnd = some d → d ≤ s.dt → (s.elem e).events = [] →
    (s.elem e).st = .switching →
    ∃ t, exec (.settlingDwellEnd e) s = .next t ∧ t.elem e = { s.elem e with dwellEnd := none, st := (s.elem e).settled } ∧
      ∀ k, k ≠ e → t.elem k = s.elem k) ∧
  (∀ (e d : Nat) (s : State), Quiet s → (s.elem e).blankEnd = some d → d ≤ s.dt →
    ∃ t, exec (.feBlankEnd e) s = .next t ∧
      t.elem e = { s.elem e with blankEnd := none, supervised := (s.elem e).st != .uncal, feTimer := 0 } ∧
      ∀ k, k ≠ e → t.elem k = s.elem k)

/-! ## The tile ends of the links -/

/-- R269: a frame that only the owner may send has no effect at a tile from the other port. -/
def Obligations.TileObeysItsOwner : Prop :=
  ∀ (k : Nat) (b : Bool) (s : State), (s.tile k).obeys b = false →
    (∀ n j v, exec (.tileCommitReceive k b n j v) s = .next s) ∧ (∀ j n, exec (.slotOpen k b j n) s = .next s) ∧
    (∀ e0 d0 e1 d1, exec (.driveSlotFrame k b e0 d0 e1 d1) s = .next s) ∧ (∀ c l, exec (.tileDriveFrame k b c l) s = .next s) ∧
    (∀ e c a, exec (.setClass k b e c a) s = .next s) ∧ (∀ e f c, exec (.setFast k b e f c) s = .next s) ∧
    (∀ c d m, exec (.classDiv k b c d m) s = .next s) ∧ (∀ c o p v, exec (.shapeLoad k b c o p v) s = .next s) ∧
    (∀ n, exec (.setEpoch k b n) s = .next s) ∧ (∀ x, exec (.setShare k b x) s = .next s) ∧
    (∀ e, exec (.tileAbort k b e) s = .next s) ∧ exec (.release k b) s = .next s ∧ (∀ o n, exec (.bulkPull k b o n) s = .next s) ∧
    (∀ w v, exec (.pointWord k b w v) s = .next s) ∧ (∀ c e n, exec (.pointGo k b c e n) s = .next s) ∧
    (∀ e d, exec (.calPoint k b e d) s = .next s) ∧ (∀ c y, exec (.smuBus k b c y) s = .next s) ∧
    (∀ v, exec (.tbeaconReceive k b v) s = .next s)

/-- R153, R253 to R255, R258: at a tile a COMMIT waits for its time, the first tick that ends in TIME; at that time each newer
entry of its slot starts its shape from the drive that the tile holds, and the latch report leaves; 2,000 ticks later the shape
has ended at drive(31). A slot is replaced by its last entry; codes of a comma that has begun or in a wrong number are
discarded with a schedule mismatch. That a TIME equal to the tile's time on receipt counts as not passed is the model's choice
(log 32). -/
def Obligations.TileLaunchRowsComplete : Prop :=
  (∀ (k j v : Nat) (b : Bool) (n : Serial) (s : State), (s.tile k).obeys b = true →
    let d := (v + 65536 - s.tileTime k % 65536) % 65536
    (s.tileTimed k = true → d ≤ 32768 → ∃ t, exec (.tileCommitReceive k b n j v) s = .next t ∧
      t.tile k = { s.tile k with launches := (s.tile k).launches ++ [(n, j, s.dt + d)] } ∧
      (s.tileTime k + d) % 65536 = v % 65536 ∧ (∀ u, u < d → (s.tileTime k + u) % 65536 ≠ v % 65536) ∧
      ∀ m, m ≠ k → t.tile m = s.tile m) ∧
    ((s.tileTimed k = false ∨ 32768 < d) → ∃ t, exec (.tileCommitReceive k b n j v) s = .next t ∧
      (t.tile k).launches = (s.tile k).launches ∧ (t.tile k).held = (s.tile k).held ∧
      .upFrame k b "COMMIT" [n.toNat, 0] ∈ t.out)) ∧
  (∀ (k j e0 d0 e1 d1 tick : Nat) (n : Serial) (s : State), (s.tile k).launches.find? (fun l => l.1 = n && l.2.2 ≤ s.dt) = some (n, j, tick) →
    tabGet (s.tile k).slots [] j = [(e0, d0), (e1, d1)] → e0 ≠ e1 → (s.tile k).playing = [] →
    actsOver n tick (tabGet (s.tile k).serials none e0) = true → actsOver n tick (tabGet (s.tile k).serials none e1) = false →
    ∃ t, exec (.tileLatch k n) s = .next t ∧ (t.tile k).playing = [{ elem := e0, start := tick, d0 := (s.tile k).heldCode e0, d1 := 64 * d0, off := decide (64 * d0 < (s.tile k).heldCode e0), cls := tabGet (s.tile k).classes 0 e0 }] ∧
      tabGet (t.tile k).serials none e0 = some (n, tick) ∧ tabGet (t.tile k).serials none e1 = tabGet (s.tile k).serials none e1 ∧
      .upFrame k (s.tile k).ownerPort "COMMIT" [n.toNat, 1] ∈ t.out ∧ (t.tile k).held = (s.tile k).held ∧
      ∀ m, m ≠ k → t.tile m = s.tile m) ∧
  (∀ (k e : Nat) (p : Playing) (s : State), Quiet s → (s.tile k).playing.find? (fun p => p.elem = e) = some p → p.start + 2000 ≤ s.dt →
    ∃ t, exec (.driveShapeEnd k e) s = .next t ∧ (t.tile k).heldCode e = s.shapeDrive (s.tile k) p 31 ∧
      (∀ q ∈ (t.tile k).playing, q.elem ≠ e) ∧ (∀ f, f ≠ e → (t.tile k).heldCode f = (s.tile k).heldCode f) ∧
      t.elem (1024 * k + e) = { s.elem (1024 * k + e) with
        drive := s.shapeDrive (s.tile k) p 31, shaping := false, handoverDue := true }) ∧
  (∀ (k j n : Nat) (b : Bool) (s : State), (s.tile k).obeys b = true →
    ∃ t, exec (.slotOpen k b j n) s = .next t ∧ t.tile k = { s.tile k with filling := some (j, n, []) }) ∧
  (∀ (k j e0 d0 e1 d1 : Nat) (b : Bool) (s : State), (s.tile k).obeys b = true → (s.tile k).filling = some (j, 2, []) →
    ∃ t, exec (.driveSlotFrame k b e0 d0 e1 d1) s = .next t ∧ (t.tile k).filling = none ∧
      tabGet (t.tile k).slots [] j = [(e0, d0), (e1, d1)] ∧ (∀ i, i ≠ j → tabGet (t.tile k).slots [] i = tabGet (s.tile k).slots [] i) ∧
      .upFrame k b "CMD_ACK" [0x01, 1, j] ∈ t.out) ∧
  (∀ (k c : Nat) (codes : List Nat) (b : Bool) (s : State), (s.tile k).obeys b = true →
    ((((s.tile k).dueIn k (c - 1)).length = codes.length ∧ s.dt < c * usTicks) →
      ∃ t, exec (.tileDriveFrame k b c codes) s = .next t ∧ (t.tile k).codesDue = some (c, ((s.tile k).dueIn k (c - 1)).zip codes) ∧
        (t.tile k).held = (s.tile k).held) ∧
    (¬ (((s.tile k).dueIn k (c - 1)).length = codes.length ∧ s.dt < c * usTicks) →
      ∃ t, exec (.tileDriveFrame k b c codes) s = .next t ∧ (t.tile k).codesDue = (s.tile k).codesDue ∧
        .upFrame k (!(s.link k).portB) "EVENT" [4, 0, 0] ∈ t.out))

/-- R47, R153, R207, R210, R213, R220, R228, R247, R256, R258, R260, R264, R265, R269 to R271: what the owner commands a tile is held
there and answered; a claim changes the token when it is granted; a tile's codes are read back from either port; a heartbeat is
relayed to the other. -/
def Obligations.TileCommandRowsComplete : Prop :=
  (∀ (k e c : Nat) (b : Bool) (s : State), (s.tile k).obeys b = true →
    ∃ t, exec (.setClass k b e c false) s = .next t ∧ tabGet (t.tile k).classes 0 e = c ∧
      (∀ f, f ≠ e → tabGet (t.tile k).classes 0 f = tabGet (s.tile k).classes 0 f) ∧ .upFrame k b "CMD_ACK" [0x03, 1, 0] ∈ t.out) ∧
  (∀ (k e c : Nat) (f b : Bool) (s : State), (s.tile k).obeys b = true →
    ∃ t, exec (.setFast k b e f c) s = .next t ∧ (t.tile k).mirrorDue = (s.tile k).mirrorDue ++ [(false, e, b2n f, c)] ∧
      (t.tile k).fast = (s.tile k).fast) ∧
  (∀ (k c d m : Nat) (b : Bool) (s : State), (s.tile k).obeys b = true →
    ∃ t, exec (.classDiv k b c d m) s = .next t ∧ (t.tile k).mirrorDue = (s.tile k).mirrorDue ++ [(true, c, d, m)] ∧
      (t.tile k).divs = (s.tile k).divs) ∧
  (∀ (k c p : Nat) (o b : Bool) (v : Int) (s : State), (s.tile k).obeys b = true → p < 32 →
    ∃ t, exec (.shapeLoad k b c o p v) s = .next t ∧ (t.tile k).shapePoint c o p = v) ∧
  (∀ (k n : Nat) (b : Bool) (s : State), (s.tile k).obeys b = true →
    ∃ t, exec (.setEpoch k b n) s = .next t ∧ (t.tile k).epoch = n ∧ .upFrame k b "CMD_ACK" [0x07, 1, 0] ∈ t.out) ∧
  (∀ (k : Nat) (x : Shares) (b : Bool) (s : State), (s.tile k).obeys b = true →
    ∃ t, exec (.setShare k b x) s = .next t ∧ (t.tile k).sharesDue = some x ∧ (t.tile k).shares = (s.tile k).shares) ∧
  (∀ (k e : Nat) (b : Bool) (s : State), (s.tile k).obeys b = true →
    ∃ t, exec (.tileAbort k b e) s = .next t ∧ (t.tile k).trial.map (·.1) ≠ some e ∧ (t.tile k).actuator ≠ some e ∧
      (t.tile k).pointOn ≠ some (8, e) ∧ (t.tile k).held = (s.tile k).held) ∧
  (∀ (k : Nat) (b : Bool) (s : State), s.grants (s.tile k) b = true →
    ∃ t, exec (.claim k b) s = .next t ∧ (t.tile k).token = portToken b ∧ .upFrame k b "CMD_ACK" [0x0A, 1, 0] ∈ t.out ∧
      (t.tile k).held = (s.tile k).held) ∧
  (∀ (k : Nat) (b : Bool) (s : State), s.grants (s.tile k) b = false →
    ∃ t, exec (.claim k b) s = .next t ∧ (t.tile k).token = (s.tile k).token ∧ .upFrame k b "CMD_ACK" [0x0A, 0, 0] ∈ t.out) ∧
  (∀ (k : Nat) (b : Bool) (s : State), (s.tile k).obeys b = true →
    ∃ t, exec (.release k b) s = .next t ∧ t.tile k = { s.tile k with token := .none }) ∧
  (∀ (k o n : Nat) (b : Bool) (s : State), (s.tile k).obeys b = true →
    ∃ t, exec (.bulkPull k b o n) s = .next t ∧ t.free = s.free + n ∧
      ∀ j, j < n → .upFrame k b "BULK" [j, Config.freeValue (s.free + j) % 2 ^ 32, b2n (s.tile k).withdrawn, o + j] ∈ t.out) ∧
  (∀ (k w : Nat) (v : Word32) (b : Bool) (s : State), (s.tile k).obeys b = true →
    ∃ t, exec (.pointWord k b w v) s = .next t ∧
      (t.tile k).pointWords = ((s.tile k).pointWords.filter fun p => p.1 ≠ w) ++ [(w, v)]) ∧
  (∀ (k c e n : Nat) (b : Bool) (s : State), (s.tile k).obeys b = true →
    ∃ t, exec (.pointGo k b c e n) s = .next t ∧ (t.tile k).pointOn = some (c, e) ∧ (c = 8 → (t.tile k).actuator = some e)) ∧
  (∀ (k e d : Nat) (b : Bool) (s : State), (s.tile k).obeys b = true →
    ∃ t, exec (.calPoint k b e d) s = .next t ∧ (t.tile k).trial = some (e, d) ∧ (t.tile k).held = (s.tile k).held) ∧
  (∀ (k c : Nat) (b : Bool) (s : State), (s.tile k).obeys b = true →
    (∃ t, exec (.smuBus k b c true) s = .next t ∧ (t.tile k).busChannel = some c) ∧
    ∃ t, exec (.smuBus k b c false) s = .next t ∧ (t.tile k).busChannel ≠ some c) ∧
  (∀ (k : Nat) (b : Bool) (s : State), ∃ t, exec (.readbackReq k b) s = .next t ∧
    ∀ i, i < 16 → .upFrame k b "READBACK" (i :: (List.range 64).map fun j => (s.tile k).heldCode (64 * i + j)) ∈ t.out) ∧
  (∀ (k v : Nat) (b : Bool) (s : State), (s.tile k).obeys b = true → v < 2 ^ 41 →
    ∃ t, exec (.tbeaconReceive k b v) s = .next t ∧ t.tileTime k = v ∧ t.tileTimed k = true) ∧
  (∀ (k : Nat) (s : State), s.tileTimed k = false →
    ∃ t, exec (.tbeaconLoss k) s = .next t ∧ t.tile k = { s.tile k with beaconAt := none }) ∧
  (∀ (k : Nat) (b : Bool) (w : Word32) (s : State), (s.link k).state = .active →
    ∃ t, exec (.hbeatTileRelay k b w) s = .next t ∧ .upFrame k (!b) "HBEAT" [1, b2n b, w.toNat] ∈ t.out ∧
      (if b then (t.tile k).hbeatB else (t.tile k).hbeatA) = some s.dt) ∧
  (∀ (k : Nat) (s : State), (s.tile k).token ≠ .none → s.ownerSilent (s.tile k) = true →
    ∃ t, exec (.ownerHbeatExpire k) s = .next t ∧ t.tile k = (s.tile k).beat (s.tile k).ownerPort none ∧
      (∀ b, t.grants (t.tile k) b = true) ∧ (t.tile k).token = (s.tile k).token)

/-! ## Links -/

/-- R246, R249 to R252, R439: a frame in order with its CRC right counts and acknowledges what its header names; the first one that is
wrong is counted and answered by NAK, a NAK by REPLAY or, the fourth time, by DOWN; acknowledgements are sent after 2 commas and
missed after 4. -/
def Obligations.LinkProtocolRowsComplete : Prop :=
  (∀ (e : LinkEnd) (w : BitVec 64) (data : List (BitVec 64)) (s : State), Quiet s → 3 ≤ bits w.toNat 0 4 → bits w.toNat 0 4 < 14 →
    (frameOk true (s.port e).expectM w data = true → ∃ t, exec (.linkFrameReceive e true w data) s = .next t ∧
      t.port e = { s.port e with
        expectM := ((s.port e).expectM + 1) % 4096, missingM := false, ackAt := s.dt
        unacked1 := ackThrough (s.port e).unacked1 (bits w.toNat 24 12), unackedM := ackThrough (s.port e).unackedM (bits w.toNat 36 12) }) ∧
    (frameOk false (s.port e).expect1 w data = true → ¬ (bits w.toNat 0 4 = 7 ∧ bit w.toNat 22 = true) →
      ∃ t, exec (.linkFrameReceive e false w data) s = .next t ∧
        t.port e = { s.port e with expect1 := ((s.port e).expect1 + 1) % 4096, missing1 := false }) ∧
    ∀ m, frameOk m (if m then (s.port e).expectM else (s.port e).expect1) w data = false →
      (if m then (s.port e).missingM else (s.port e).missing1) = false →
      ∃ t, exec (.linkFrameReceive e m w data) s = .next t ∧
        (if m then (t.port e).missingM else (t.port e).missing1) = true ∧
        (if m then (t.port e).expectM else (t.port e).expect1) = (if m then (s.port e).expectM else (s.port e).expect1) ∧
        linkBlock s e "LINKCTL" [1, b2n m, if m then (s.port e).expectM else (s.port e).expect1] ∈ t.out ∧
        ∀ k, e = .controller k → (t.link k).crcErr = satInc (s.link k).crcErr 0xFFFF) ∧
  (∀ (e : LinkEnd) (m : Bool) (n : Nat) (s : State), Quiet s →
    ∃ t, exec (.linkctlAckReceive e m n) s = .next t ∧ t.port e = if m
      then { s.port e with unackedM := ackThrough (s.port e).unackedM n, ackAt := s.dt }
      else { s.port e with unacked1 := ackThrough (s.port e).unacked1 n, ackAt := s.dt }) ∧
  (∀ (e : LinkEnd) (n : Nat) (m : Bool) (s : State), Quiet s →
    let again := if m then (s.port e).nakNumM == n && decide (3 ≤ (s.port e).nakCountM)
      else (s.port e).nakNum1 == n && decide (3 ≤ (s.port e).nakCount1)
    (again = false → ∃ t, exec (.linkctlNakReceive e m n) s = .next t ∧ linkBlock s e "REPLAY" [b2n m, n] ∈ t.out ∧
      (t.link e.num).state = (s.link e.num).state ∧
      ∀ k, e = .controller k → (t.link k).replays = satInc (s.link k).replays 0xFFFF) ∧
    (again = true → (s.link e.num).state ≠ .down → Reportable s 0x0030 (srcTile e.num) e.num →
      ∃ t, exec (.linkctlNakReceive e m n) s = .next t ∧ (t.link e.num).state = .down ∧
        NewRecord s t 0x0030 (srcTile e.num) e.num)) ∧
  (∀ (e : LinkEnd) (m : Bool) (s : State), Quiet s →
    ((if m then (s.port e).missingM else (s.port e).missing1) = true →
      8 * (if m then (s.port e).nakAtM else (s.port e).nakAt1) + 4 * (s.link e.num).delay + 1000 ≤ 8 * s.dt →
      ∃ t, exec (.nakRepeatTimeout e m) s = .next t ∧ (if m then (t.port e).nakAtM else (t.port e).nakAt1) = s.dt ∧
        linkBlock s e "LINKCTL" [1, b2n m, if m then (s.port e).expectM else (s.port e).expect1] ∈ t.out) ∧
    ((s.link e.num).up = true → (if m then (s.port e).ackSentM else (s.port e).ackSent1) + 2 * usTicks ≤ s.dt →
      ∃ t, exec (.ackIdleTimeout e m) s = .next t ∧ (if m then (t.port e).ackSentM else (t.port e).ackSent1) = s.dt ∧
        linkBlock s e "LINKCTL" [0, b2n m, ((if m then (s.port e).expectM else (s.port e).expect1) + 4095) % 4096] ∈ t.out)) ∧
  (∀ (k : Nat) (s : State), Quiet s → (s.link k).up = true → Reportable s 0x0030 (srcTile k) k →
    (((s.link k).near.unacked1 ≠ [] ∨ (s.link k).near.unackedM ≠ []) → (s.link k).near.ackAt + 4 * usTicks ≤ s.dt →
      ∃ t, exec (.ackMissingTimeout k) s = .next t ∧ (t.link k).state = .down ∧ (t.link k).near = {} ∧ (t.link k).tile = .absent ∧
        (t.tile k).held = (s.tile k).held ∧ NewRecord s t 0x0030 (srcTile k) k) ∧
    (∃ t, exec (.blockLockLoss k) s = .next t ∧ (t.link k).state = .down ∧ (t.link k).blockLock = false ∧
      (t.link k).syncErr = min 0xFFFF ((s.link k).syncErr + 16) ∧ NewRecord s t 0x0030 (srcTile k) k) ∧
    (∃ t, exec (.linkRetrain k) s = .next t ∧ (t.link k).state = .down ∧ (t.link k).downs = satInc (s.link k).downs 0xFF ∧
      NewRecord s t 0x0030 (srcTile k) k)) ∧
  (∀ (k : Nat) (s : State), Quiet s → s.chip.mainRun = true →
    ∃ t, exec (.linkInjectCrc k) s = .next t ∧ t.link k = { s.link k with injectCrc := true } ∧ ∀ j, j ≠ k → t.link j = s.link j)

/-- R243, R261 to R264, R269: TRAIN blocks take a link from DETECT through CAPS and its speed steps to ACTIVE, where adoption begins
with a claim; a step that times out three times leaves the last speed that locked, or DETECT; idle lines go electrically idle and
come back. -/
def Obligations.TrainingRowsComplete : Prop :=
  (∀ (k : Nat) (b : TrainBlock) (s : State), Quiet s → s.mayTrain k = true →
    ((s.link k).state = .down → b.phase = 0 → ∃ t, exec (.trainBlockReceive k b) s = .next t ∧
      t.link k = { s.link k with state := .caps, blockLock := true, speed := 0 } ∧ .downFrame k "TRAIN" [1, 0, (s.link k).maxSpeed, 0] ∈ t.out) ∧
    ((s.link k).state = .caps → b.phase = 1 → ∃ t, exec (.trainBlockReceive k b) s = .next t ∧
      t.link k = { s.link k with farMax := b.maxSpeed, portB := b.portB, farVersion := b.version }) ∧
    ((s.link k).state = .caps → b.phase = 5 → ∃ t, exec (.trainBlockReceive k b) s = .next t ∧
      (t.link k).state = .step ∧ (t.link k).stepSpeed = 0 ∧ (t.link k).delay = min 1023 (b.roundTripTenthNs / 2) ∧
      ((t.link k).tapPre, (t.link k).tapMain, (t.link k).tapPost) = s.preset k 0 ∧ .downFrame k "TRAIN" [2, 0, 0, 0] ∈ t.out) ∧
    ((s.link k).state = .step → (b.phase = 2 ∧ b.lock = true ∨ b.phase = 3) → ∃ t, exec (.trainBlockReceive k b) s = .next t ∧
      t.link k = s.link k ∧ .downFrame k "TRAIN" [4, (s.link k).stepSpeed, 0, 1] ∈ t.out) ∧
    ((s.link k).state = .step → b.phase = 2 → b.lock = false → b.reqPre = 0 → b.reqMain = 1 → b.reqPost = 0 →
      ∃ t, exec (.trainBlockReceive k b) s = .next t ∧ (t.link k).tapPre = (s.link k).tapPre ∧ (t.link k).tapPost = (s.link k).tapPost ∧
        (t.link k).tapMain = (if (s.link k).tapMain < 63 ∧ (s.link k).tapPre + (s.link k).tapMain + (s.link k).tapPost < 63
          then (s.link k).tapMain + 1 else (s.link k).tapMain)) ∧
    ((s.link k).state = .step → b.phase = 5 → (s.link k).stepSpeed < s.speedLimit k → ∃ t, exec (.trainBlockReceive k b) s = .next t ∧
      (t.link k).state = .step ∧ (t.link k).speed = (s.link k).stepSpeed ∧ (t.link k).stepSpeed = (s.link k).stepSpeed + 1) ∧
    ((s.link k).state = .step → b.phase = 5 → s.speedLimit k ≤ (s.link k).stepSpeed → ∃ t, exec (.trainBlockReceive k b) s = .next t ∧
      (t.link k).state = .active ∧ (t.link k).tile = .adopting ∧ (t.link k).speed = (s.link k).stepSpeed ∧ (t.link k).limited = false ∧
      ((s.link k).owner = false → .downFrame k "CLAIM" [] ∈ t.out))) ∧
  (∀ (k : Nat) (s : State), Quiet s → (s.link k).state = .step →
    ((s.link k).stepFails < 2 → ∃ t, exec (.trainStepTimeout k) s = .next t ∧ (t.link k).stepFails = (s.link k).stepFails + 1 ∧
      (t.link k).state = .step ∧ (t.link k).stepSpeed = (s.link k).stepSpeed) ∧
    (2 ≤ (s.link k).stepFails → (s.link k).stepSpeed = 0 → ∃ t, exec (.trainStepTimeout k) s = .next t ∧
      t.link k = { s.link k with state := .down, stepFails := 0 }) ∧
    (2 ≤ (s.link k).stepFails → (s.link k).stepSpeed ≠ 0 → ∃ t, exec (.trainStepTimeout k) s = .next t ∧
      (t.link k).state = .active ∧ (t.link k).limited = true ∧ (t.link k).speed = (s.link k).speed)) ∧
  (∀ (e : LinkEnd) (s : State), Quiet s →
    ((s.link e.num).idleEn = true → (s.link e.num).up = true → (s.port e).eidle = false →
      ∃ t, exec (.eidleEnter e) s = .next t ∧ (t.port e).eidle = true ∧ linkBlock s e "LINKCTL" [2, 0, 0] ∈ t.out ∧
        (t.link e.num).state = if e.here then .idle else (s.link e.num).state) ∧
    ((s.port e).eidle = true →
      ∃ t, exec (.eidleExit e) s = .next t ∧ (t.port e).eidle = false ∧ linkBlock s e "TRAIN" [6, 64] ∈ t.out ∧
        (t.link e.num).state = if e.here then .active else (s.link e.num).state))

/-! ## Tiles as the controller sees them -/

/-- R264, R265, R269, R408: acknowledgements. A granted claim makes this controller the owner, a refused one does not; in a takeover it
stops the takeover for 1 ms. The last open write brings SET_EPOCH; the last tile of an arm slot ends the verb ARM. -/
def Obligations.TileAnswersComplete : Prop :=
  (∀ (k n : Nat) (s : State), Quiet s → s.mate.takeover ≠ .claiming →
    (∃ t, exec (.cmdAckReceive k 0x0A true n) s = .next t ∧ (t.link k).owner = true ∧ (t.link k).claimed = some true) ∧
    ∃ t, exec (.cmdAckReceive k 0x0A false n) s = .next t ∧ (t.link k).owner = false ∧ (t.link k).claimed = some false) ∧
  (∀ (k n : Nat) (s : State), Quiet s → s.mate.takeover = .claiming → k ∈ s.mate.claims → s.mate.incoming = none →
    Reportable s 0x0081 srcMate 0 →
    ∃ t, exec (.cmdAckReceive k 0x0A false n) s = .next t ∧ t.mate.takeover = .none ∧ t.mate.retryAt = some (s.dt + msTicks) ∧
      t.mate.splitAverted = true ∧ NewRecord s t 0x0081 srcMate 0 ∧
      ∀ j ∈ s.mate.granted, .downFrame j "RELEASE" [] ∈ t.out) ∧
  (∀ (k op n : Nat) (s : State), Quiet s → op ∈ [0x03, 0x05, 0x06, 0x08] →
    ((s.link k).acksOpen = 1 → (s.link k).tile = .adopted → (s.link k).epochDirty = true →
      ∃ t, exec (.cmdAckReceive k op true n) s = .next t ∧ (t.link k).acksOpen = 0 ∧ (t.link k).epochDirty = false ∧
        .downFrame k "SET_EPOCH" [(s.link k).epoch] ∈ t.out) ∧
    (1 < (s.link k).acksOpen → ∃ t, exec (.cmdAckReceive k op true n) s = .next t ∧
      t.link k = { s.link k with acksOpen := (s.link k).acksOpen - 1 })) ∧
  (∀ (k n hd : Nat) (x : Sentence) (s : State), Quiet s → n < 256 → s.store.sentences.find? (fun p => p.2.slot = some n) = some (hd, x) →
    s.sent hd = x →
    (s.store.preps.find? (fun p => p.arms && p.handle = hd && p.done.isSome) = none →
      ∃ t, exec (.cmdAckReceive k 0x01 true n) s = .next t ∧ t.sent hd = { x with slotAcked := x.slotAcked ++ [k] }) ∧
    ∀ p h, s.store.preps.find? (fun p => p.arms && p.handle = hd && p.done.isSome) = some p → p.trigger = .arming h →
      (tilesOf x.armedMoved).all (x.slotAcked ++ [k]).contains = true →
      ∃ t, exec (.cmdAckReceive k 0x01 true n) s = .next t ∧ (t.sent hd).state = .armed ∧ VerbEnds s t h 0x14 stSuccess 0)

/-- R226, R264 to R267, R270, R271, R398, R402, R460: IDENT words, readback and temperature are kept; the answer that completes a
current tile adopts it, a stale one is quarantined with its corrections and rejoins after them with its epoch set. Logs are
pulled in bursts; heartbeats go out every 10 µs and are relayed; the standby polls IDENT. -/
def Obligations.AdoptionRowsComplete : Prop :=
  (∀ (k p : Nat) (l : List Nat) (s : State), Quiet s → s.mate.takeover ≠ .adopting →
    let s1 := s.modLink k fun x => { x with readback := (x.readback.filter fun q => q.1 ≠ p) ++ [(p, l)] }
    ∃ t, exec (.readbackReceive k p l) s = .next t ∧ (t.link k).readback = (s1.link k).readback ∧
      (s1.adoptReady k = true → (s.link k).current = true → (t.link k).tile = .adopted ∧ (t.link k).stale = false ∧
        (t.link k).corrected = 0) ∧
      (s1.adoptReady k = true → (s.link k).current = false → (t.link k).tile = .quarantined ∧ (t.link k).stale = true ∧
        (t.link k).corrections = s1.correctionsOf k)) ∧
  (∀ (k w : Nat) (v : Word32) (s : State), Quiet s → s.mate.takeover ≠ .adopting →
    (w ≠ 3 → ∃ t, exec (.identReceive k w v) s = .next t ∧
      (t.link k).ident = ((s.link k).ident.filter fun q => q.1 ≠ w) ++ [(w, v)]) ∧
    (bits v.toNat 16 2 = 0 → (s.link k).owner = true → (s.mate.role = .active ∨ s.mate.role = .alone) → s.tokensBarred = false →
      ∃ t, exec (.identReceive k 3 v) s = .next t ∧ (t.link k).owner = false ∧ .downFrame k "CLAIM" [] ∈ t.out)) ∧
  (∀ (k : Nat) (v : Int) (s : State), Quiet s → s.mate.takeover ≠ .adopting →
    ∃ t, exec (.tempReceive k v) s = .next t ∧ (t.link k).temp = v ∧ (t.link k).tempSeen = true) ∧
  (∀ (k : Nat) (s : State), Quiet s → s.mate.takeover ≠ .adopting → (s.link k).tile = .quarantined → (s.link k).corrections = [] →
    (s.link k).acksOpen = 0 →
    ∃ t, exec (.adoptCorrectionEnd k) s = .next t ∧ (t.link k).tile = .adopted ∧ .downFrame k "SET_EPOCH" [(s.link k).epoch] ∈ t.out ∧
      ∀ e ∈ tileEids k, (s.elem e).drive ≠ (s.link k).held (e % 1024) →
        ((s.elem e).st = .darkOff ∨ (s.elem e).st = .darkOn ∨ (s.elem e).st = .lit) → (t.elem e).st = .switching) ∧
  (∀ s : State, Quiet s → s.beats = true → s.mate.hbAt + 10 * usTicks ≤ s.dt →
    ∃ t, exec .hbeatSend s = .next t ∧ t.mate.hbSeq = (s.mate.hbSeq + 1) % 2 ^ 16 ∧ t.mate.hbAt = s.dt ∧
      (∀ k ∈ s.upTiles, .downFrame k "HBEAT" [0, b2n (s.link k).portB, s.hbWord] ∈ t.out) ∧
      (s.img.mateEnable = true → .mateFrame "HEARTBEAT" [s.hbWord] ∈ t.out)) ∧
  (∀ (k : Nat) (w : Word32) (s : State), s.img.mateEnable = true →
    ∃ t, exec (.relayedHbeatReceive k w) s = .next t ∧ t.mate.relayAt = some s.dt) ∧
  (∀ s : State, s.mate.role = .standby →
    ∃ t, exec .standbyIdentPoll s = .next t ∧ ∀ k ∈ s.upTiles, .upFrame k (s.link k).portB "IDENT" [2, (s.tile k).epoch] ∈ t.out ∧
      .upFrame k (s.link k).portB "IDENT" [3, (s.tile k).lastSerial.toNat + 2 ^ 16 * (match (s.tile k).token with
        | .none => 0
        | .a => 1
        | .b => 2) + 2 ^ 18 * b2n (s.link k).portB] ∈ t.out) ∧
  (∀ (k n : Nat) (s : State), Quiet s →
    (∃ t, exec (.logInfoReceive k n true) s = .next t ∧ t.link k = { s.link k with logOpen := false }) ∧
    (0 < n → ∃ t, exec (.logInfoReceive k n false) s = .next t ∧ (t.link k).logOpen = true ∧ (t.link k).logLen = n ∧
      (t.link k).logBurst = some (min 256 n) ∧ .downFrame k "BULK_PULL" [0, min 256 n - 1] ∈ t.out)) ∧
  (∀ (k i n : Nat) (v : Word32) (s : State), Quiet s → (s.link k).logBurst = some n → (s.link k).logOpen = true →
    (i + 1 < n → ∃ t, exec (.bulkReceive k i v false) s = .next t ∧
      t.link k = { s.link k with logWords := (s.link k).logWords ++ [v] }) ∧
    (n ≤ i + 1 → ∃ t, exec (.bulkReceive k i v false) s = .next t ∧ (t.link k).logWords = (s.link k).logWords ++ [v] ∧
      (t.link k).logOffset = (s.link k).logOffset + n) ∧
    (n ≤ i + 1 → ∃ t, exec (.bulkReceive k i v true) s = .next t ∧ (t.link k).logOpen = false ∧
      (t.link k).logWords = ((s.link k).logWords ++ [v]).take (s.link k).logOffset ∧
      (t.link k).bulkDiscard = satInc (s.link k).bulkDiscard 0xFF))

/-! ## The mate -/

/-- R396, R397, R401, R402, R407, R408, R411, R414, R416, R417: a heartbeat of the mate decides the role of a starting controller, and
none within MATE_WAIT leaves it ALONE; a takeover and a handover claim every tile; the tokens that are out are resolved from the
tiles' serials; a deferred loss of light fires; a drill ends by giving the tiles back. -/
def Obligations.RoleRowsComplete : Prop :=
  (∀ (w : Word32) (id pr : Nat) (s : State), Quiet s → s.img.mateEnable = true → s.chip.imageApplied = true → s.chip.mainRun = true →
    ∃ t, exec (.mateHeartbeatReceive w id pr s.img.hash) s = .next t ∧ t.mate.mateAt = some s.dt ∧ t.mate.link = true ∧
      (s.mate.role = .starting → (bits w.toNat 16 2 = 1 ∨ bits w.toNat 16 2 = 3) →
        t.mate.role = .standby ∧ t.mate.synced = false ∧ .mateFrame "SYNC_REQ" [] ∈ t.out) ∧
      (s.mate.role = .starting → bits w.toNat 16 2 = 0 → t.mate.role =
        if pr < s.img.matePrio ∨ (pr = s.img.matePrio ∧ s.chip.otp.identity < id) then .active else .standby) ∧
      (s.mate.role = .alone → (bits w.toNat 16 2 = 0 ∨ bits w.toNat 16 2 = 2) → t.mate.role = .active) ∧
      (s.mate.role = .standby → t.mate.role = .standby)) ∧
  (∀ (w : Word32) (id pr : Nat) (hash : BitVec 256) (s : State), Quiet s → s.img.mateEnable = true → s.chip.imageApplied = true →
    hash ≠ s.img.hash → s.mate.digestMismatch = false → Reportable s 0x0083 srcMate 0 → s.mate.role = .standby →
    ∃ t, exec (.mateHeartbeatReceive w id pr hash) s = .next t ∧ t.mate.digestMismatch = true ∧ t.mate.synced = false ∧
      NewRecord s t 0x0083 srcMate 0) ∧
  (∀ s : State, s.img.mateEnable = true → s.chip.imageApplied = true → s.mate.role = .starting → s.mate.mateAt = none →
    s.mate.waitFrom + s.img.mateWait * msTicks ≤ s.dt → ∃ t, exec .mateWaitExpire s = .next t ∧ t.mate.role = .alone) ∧
  (∀ (t0 : Nat) (s : State), Quiet s → s.mate.retryAt = some t0 → t0 ≤ s.dt →
    (s.bothDead = false → ∃ t, exec .splitRetry s = .next t ∧ t.mate.retryAt = none ∧ t.mate.takeover = s.mate.takeover) ∧
    (s.bothDead = true → s.mate.role = .standby → s.mate.takeover = .none → s.upTiles ≠ [] →
      ∃ t, exec .splitRetry s = .next t ∧ t.mate.takeover = .claiming ∧ t.mate.claims = s.upTiles ∧
        ∀ k ∈ s.upTiles, .downFrame k "CLAIM" [] ∈ t.out)) ∧
  (∀ (ret : Bool) (s : State), Quiet s → s.mate.role = .standby → s.upTiles ≠ [] →
    ∃ t, exec (.roleFrameReceive 3 ret) s = .next t ∧ t.mate.takeover = .claiming ∧ t.mate.incoming = some ret ∧
      ∀ k ∈ s.upTiles, .downFrame k "CLAIM" [] ∈ t.out) ∧
  (∀ (h : Hdr) (ms : Nat) (ret b : Bool) (s : State), s.faults.resumes = [] → s.mate.role = .active →
    s.mate.handover = .released h ret ms →
    ∃ t, exec (.roleFrameReceive 1 b) s = .next t ∧ t.mate.handover = .none ∧ t.mate.role = .active ∧
      VerbEnds s t h 0x05 stRefused (2 ^ 16 * s.placedTiles.length + 2 ^ 32 * b2n ret)) ∧
  (∀ (h : Hdr) (ms : Nat) (b : Bool) (s : State), s.faults.resumes = [] → s.mate.role = .active →
    s.mate.handover = .released h false ms →
    ∃ t, exec (.roleFrameReceive 0 b) s = .next t ∧ t.mate.handover = .none ∧ t.mate.role = .standby) ∧
  (∀ (n : Serial) (l : Launch) (s : State), Quiet s → s.mate.takeover = .resolving → TheLaunch s n l → l.allIn = false →
    l.tick + 20 * usTicks ≤ s.dt →
    ∃ t, exec (.takeoverTokenResolve n) s = .next t ∧ ∀ x ∈ t.store.launches, x.serial = n → x.allIn = true) ∧
  (∀ (hd m : Nat) (x : Bool × PortRec) (s : State), Quiet s → s.mate.deferred = [m] → (s.monitor m).los = true →
    s.img.portOfMonitor m = some x → { input := x.1, port := x.2.port } ∈ (s.sent hd).ports →
    s.losMatches (s.sent hd) { input := x.1, port := x.2.port } = true → (s.sent hd).state = .armed → s.issuesTokens = true →
    ((tilesOf (s.sent hd).armedMoved).all fun k => (s.link k).owner) = true → s.faults.safeState = false →
    ∃ t, exec (.deferredLosFire hd) s = .next t ∧ t.mate.deferred = [] ∧ (t.sent hd).state = .launching ∧
      t.mate.deferredFires = satInc s.mate.deferredFires 0xFFFF) ∧
  (∀ (t0 n : Nat) (s : State), s.faults.resumes = [] → s.mate.handover = .drilling t0 → s.store.launches = [] →
    (t0 ≤ s.dt → ∃ t, exec (.drillEnd 0 n) s = .next t ∧ t.mate.handover = .handingBack true ∧ t.mate.drillFails = s.mate.drillFails ∧
      .mateFrame "ROLE" [3, 0] ∈ t.out ∧ ∀ k ∈ s.linked, .downFrame k "RELEASE" [] ∈ t.out) ∧
    ∀ c, c ≠ 0 → Reportable s 0x0082 srcMate c → ∃ t, exec (.drillEnd c n) s = .next t ∧ t.mate.handover = .handingBack true ∧
      t.mate.drillFails = satInc s.mate.drillFails 0xFF ∧ NewRecord s t 0x0082 srcMate c)

/-- R404 to R406, R419: a mirror record in turn is applied and acknowledged, a gap asks for a snapshot; the active is SYNCED when every
record is acknowledged in time, and not when one is late; digests that differ for more than 1 ms are a mismatch. -/
def Obligations.MirrorRowsComplete : Prop :=
  (∀ (n : Nat) (r : MirrorRec) (s : State), Quiet s → s.mate.role = .standby →
    ((s.mate.snapshotWanted = true ∨ n % 2 ^ 22 = (s.mate.applied + 1) % 2 ^ 22) →
      ∃ t, exec (.mirrorReceive n r) s = .next t ∧ t.mate.applied = n ∧ .mateFrame "MIRROR_ACK" [n % 2 ^ 22] ∈ t.out ∧
        (r.kind = 2 → ∀ v hd sn w, r.value = [v, hd, sn, w] → t.conn r.key = if v = 0 then none else
          some { clause := BitVec.ofNat 128 w, handle := hd, serial := BitVec.ofNat 16 sn })) ∧
    (s.mate.snapshotWanted = false → n % 2 ^ 22 ≠ (s.mate.applied + 1) % 2 ^ 22 →
      ∃ t, exec (.mirrorReceive n r) s = .next t ∧ t.mate.snapshotWanted = true ∧ t.mate.applied = s.mate.applied ∧
        .mateFrame "SYNC_REQ" [] ∈ t.out)) ∧
  (∀ (n m t0 : Nat) (s : State), Quiet s → s.mate.unacked.find? (fun p => p.1 % 2 ^ 22 = n % 2 ^ 22) = some (m, t0) →
    ∃ t, exec (.mirrorAckReceive n) s = .next t ∧ t.mate.acked = m ∧ t.mate.unacked = s.mate.unacked.filter (fun p => m < p.1) ∧
      t.mate.synced = (s.mate.synced || ((s.mate.unacked.filter fun p => m < p.1).isEmpty && decide (s.dt ≤ t0 + 100 * usTicks) &&
        !s.mate.digestMismatch))) ∧
  (∀ (n t0 : Nat) (l : List (Nat × Nat)) (s : State), s.mate.unacked = (n, t0) :: l → t0 + 100 * usTicks ≤ s.dt → s.mate.role = .active →
    Quiet s → ∃ t, exec .mirrorAckTimeout s = .next t ∧ t.mate.synced = false ∧ t.mate.waits = []) ∧
  (∀ s : State, Quiet s →
    (s.mate.role = .standby → ∃ t, exec .syncReq s = .next t ∧ t.mate.snapshotWanted = true ∧ t.mate.synced = false ∧
      .mateFrame "SYNC_REQ" [] ∈ t.out) ∧
    (s.mate.role = .active → ∃ t, exec .syncReq s = .next t ∧ t.mate.synced = false ∧ t.mate.waits = [] ∧
      t.mate.sent = s.mate.sent + (State.mirrorDiff {} s).length)) ∧
  (∀ (n : Nat) (s : State), Quiet s → s.mate.role = .standby → s.mate.snapshotWanted = true →
    ∃ t, exec (.snapshotApplied n) s = .next t ∧ t.mate.synced = !s.mate.digestMismatch ∧ t.mate.applied = n ∧
      t.mate.snapshotWanted = false ∧ .mateFrame "MIRROR_ACK" [n % 2 ^ 22] ∈ t.out) ∧
  (∀ (d : BitVec 256) (s : State), ∃ t, exec (.digestFrameReceive d) s = .next t ∧ t.mate.mateDigest = d ∧
    t.mate.differAt = if d = s.chip.digest then none else some (s.mate.differAt.getD s.dt)) ∧
  (∀ (t0 : Nat) (s : State), Quiet s → s.mate.differAt = some t0 → t0 + msTicks < s.dt →
    ∃ t, exec .digestMismatchExpire s = .next t ∧ t.mate.digestMismatch = true ∧ t.mate.synced = false ∧
      (s.mate.digestMismatch = false → Reportable s 0x0083 srcMate 0 → NewRecord s t 0x0083 srcMate 0))

/-! ## Network time -/

/-- R272, R274, R276 to R279, R425: the first measurement sets network time; one beyond JUMP_LIMIT is refused and alarmed, one beyond
STEP_THRESH steps it, a smaller one slews it by the PI law, from the same network time on; while a scheduled token is out a
measurement waits. A lock that gets no measurement becomes HOLDOVER, and that expires. -/
def Obligations.ServoRowsComplete : Prop :=
  (∀ (x : Int) (s : State), s.chip.mainRun = true → s.tokenOut = false → s.time.held = none →
    ∃ t, exec (.timeMeasurement x) s = .next t ∧
      (s.time.needInitial = true → t.now = s.now - x ∧ t.time.state = .acquiring ∧ t.time.needInitial = false ∧
        t.time.timeJump = false ∧ t.time.rate = s.time.rate) ∧
      (s.time.needInitial = false → withinSlew x (1000 * s.img.jumpLimit) = false →
        t.now = s.now ∧ t.time.rate = s.time.rate ∧ t.time.state = .jump ∧ t.time.timeJump = true ∧
        t.time.jumps = satInc s.time.jumps 0xFFFF ∧
        (s.time.timeJump = false → Reportable s 0x0090 srcTime 0 → NewRecord s t 0x0090 srcTime 0)) ∧
      (s.time.needInitial = false → withinSlew x (1000 * s.img.jumpLimit) = true → withinSlew x (1000 * s.img.stepThresh) = false →
        t.now = s.now - x ∧ t.time.rate = s.time.rate ∧ t.time.steps = satInc s.time.steps 0xFFFF ∧ t.time.afresh = true) ∧
      (s.time.needInitial = false → withinSlew x (1000 * s.img.jumpLimit) = true → withinSlew x (1000 * s.img.stepThresh) = true →
        t.now = s.now ∧ t.time.lastAccepted = some s.dt ∧ t.time.afresh = false ∧
        (s.time.afresh = true → t.time.rate = s.time.rate ∧ t.time.integ = s.time.integ) ∧
        (s.time.afresh = false → ∀ a, s.time.lastAccepted = some a →
          let n := max 1 (min (s.dt - a) (16 * secTicks))
          let m := rateLimit s.img
          t.time.integ = clampInt (-m) m (piTerm s.time.integ s.img.ki x n) ∧
          t.time.rate = clampInt (-m) m (piTerm t.time.integ s.img.kp x n)))) ∧
  (∀ (x : Int) (s : State), s.chip.mainRun = true → s.tokenOut = true →
    ∃ t, exec (.timeMeasurement x) s = .next t ∧ t.time.held = some (x, s.dt) ∧ t.now = s.now ∧
      t.time.firstHeld = some (s.time.firstHeld.getD s.dt) ∧ t.time.heldCount = satInc s.time.heldCount 0xFFFF) ∧
  (∀ (v : Word32) (s : State), s.chip.mainRun = true →
    (s.img.hostTime = true → ∃ t, exec (.servoFeedWrite v) s = .next t ∧ exec (.timeMeasurement (v.toInt * ntNs)) s = .next t) ∧
    (s.img.hostTime = false → ∃ t, exec (.servoFeedWrite v) s = .next t ∧ t.time = s.time)) ∧
  (∀ (x : Int × Nat) (s : State), s.time.held = some x → s.tokenOut = false →
    ∃ t, exec .heldChangeApply s = .next t ∧ t.time.held = none ∧ t.time.firstHeld = none ∧ t.time.tokensStopped = false ∧
      (s.time.needInitial = true → t.now = s.now - x.1)) ∧
  (∀ (a : Nat) (s : State), s.time.firstHeld = some a → a + msTicks ≤ s.dt →
    ∃ t, exec .heldChangeLimit s = .next t ∧ t.time = { s.time with tokensStopped := true }) ∧
  (∀ (a : Nat) (s : State), s.time.state = .locked → s.time.lastMeasured = some a → a + s.img.syncTimeout * secTicks ≤ s.dt →
    ∃ t, exec .syncTimeout s = .next t ∧ t.time.state = .holdover ∧ t.time.rate = s.time.rate ∧ t.now = s.now) ∧
  (∀ (a : Nat) (s : State), (s.time.state = .holdover ∨ s.time.state = .jump) → s.time.holdoverOver = false →
    s.time.lastAccepted = some a → a + s.img.holdoverMax * secTicks ≤ s.dt →
    ∃ t, exec .holdoverExpire s = .next t ∧ t.time.holdoverOver = true ∧ t.time.state = s.time.state) ∧
  (∀ s : State, s.chip.mainRun = true → ∃ t, exec .acceptJump s = .next t ∧ t.time = { s.time with needInitial := true }) ∧
  (∀ s : State, s.chip.mainRun = true →
    (∃ t, exec .timeSnap s = .next t ∧
      t.time = { s.time with snap := timeWords s.now ++ [BitVec.ofNat 32 s.dt, BitVec.ofNat 32 (s.dt / 2 ^ 32)] }) ∧
    (∃ t, exec .dtLoRead s = .next t ∧ .readData [BitVec.ofNat 32 s.dt] ∈ t.out ∧
      t.time = { s.time with dtHi := BitVec.ofNat 32 (s.dt / 2 ^ 32) }) ∧
    ∃ t, exec .rateLoRead s = .next t ∧ .readData [BitVec.ofNat 32 (unsign s.time.rate 40)] ∈ t.out ∧
      t.time = { s.time with rateHi := BitVec.ofNat 32 (unsign s.time.rate 40 / 2 ^ 32) }) ∧
  (∀ s : State, s.chip.por = false → ∃ t, exec .timePllLock s = .next t ∧ t.time = { s.time with pllLocked := true } ∧ t.dt = s.dt) ∧
  (∀ s : State, s.time.pllLocked = true → Reportable s 0x0055 srcTime 0 → s.faults.safeState = false →
    ∃ t, exec .timePllLossOfLock s = .next t ∧ t.time.pllLocked = false ∧ NewRecord s t 0x0055 srcTime 0 ∧ t.faults.safeState = true)

/-- R281 to R285, R289, R290: the best master of a port is kept and followed, Sync and Follow_Up give t1 and t2, Delay_Req t3, its
answer the offset; messages of another domain are counted; a silent master is left. PPS_OUT rises at each second and falls
after WIDTH; an edge of PPS_IN is stamped. -/
def Obligations.PtpAndPpsRowsComplete : Prop :=
  (∀ (k : Nat) (a : Announce) (s : State), s.ptpRuns = true → k < 2 →
    ((a.domain ≠ s.img.domain ∨ a.version ≠ 2) → ∃ t, exec (.ptpAnnounceReceive k a) s = .next t ∧
      t.time = { s.time with ptp := { s.time.ptp with discarded := satInc s.time.ptp.discarded 0xFFFF } }) ∧
    (a.domain = s.img.domain → a.version = 2 → s.time.ptp.master k = none → ∃ t, exec (.ptpAnnounceReceive k a) s = .next t ∧
      t.time.ptp.master k = some (a, s.dt) ∧
      (k = s.time.ptp.port → t.time.ptp.gmId = a.gmId ∧ 8 ≤ t.time.ptp.portState ∧ t.time.ptp.utcOffset = a.utcOffset)) ∧
    ∀ b u, a.domain = s.img.domain → a.version = 2 → s.time.ptp.masters = [(k, (b, u))] → b.gmId ≠ a.gmId →
      betterMaster a.dataset b.dataset = false → exec (.ptpAnnounceReceive k a) s = .next s) ∧
  (∀ (k d tick : Nat) (o : NetTime) (c : Int) (s : State), s.ptpRuns = true → k = s.time.ptp.port → (s.time.ptp.master k).isSome = true →
    d = s.img.domain → timeOk o = true →
    (∃ t, exec (.ptpSyncReceive k false false d o c tick) s = .next t ∧ t.time.ptp.t1 = some (o.units + c) ∧
      t.time.ptp.t2 = some (s.ingress k tick) ∧ t.time.ptp.awaitsFollowUp = false) ∧
    (∃ t, exec (.ptpSyncReceive k false true d o c tick) s = .next t ∧ t.time.ptp.t1 = none ∧
      t.time.ptp.t2 = some (s.ingress k tick) ∧ t.time.ptp.awaitsFollowUp = true) ∧
    (s.time.ptp.awaitsFollowUp = true → ∃ t, exec (.ptpSyncReceive k true false d o c tick) s = .next t ∧
      t.time.ptp.t1 = some (o.units + c) ∧ t.time.ptp.t2 = s.time.ptp.t2 ∧ t.time.ptp.awaitsFollowUp = false)) ∧
  (∀ (k tick : Nat) (s : State), s.ptpRuns = true → k = s.time.ptp.port → (s.time.ptp.master k).isSome = true →
    s.time.ptp.t1.isSome = true → s.time.ptp.t2.isSome = true →
    (∀ a, s.time.ptp.asked = some a → a + logTicks (max (-7) s.time.ptp.delayInterval) ≤ s.dt) →
    ∃ t, exec (.ptpDelayReqSend k tick) s = .next t ∧ t.time.ptp.t3 = some (s.egress tick) ∧ t.time.ptp.asked = some s.dt ∧
      .siteFrame k "DELAY_REQ" [s.img.domain] ∈ t.out) ∧
  (∀ (k d : Nat) (o : NetTime) (c l t1 t2 t3 : Int) (s : State), s.ptpRuns = true → k = s.time.ptp.port → d = s.img.domain →
    timeOk o = true → s.time.ptp.t1 = some t1 → s.time.ptp.t2 = some t2 → s.time.ptp.t3 = some t3 →
    let path := ((t2 - t1) + (o.units - c - t3)) / 2
    let gated := s.time.ptp.paths.any fun x => decide (x + 1000 * ntNs < path)
    ∃ t, exec (.ptpDelayRespReceive k d o c l) s = .next t ∧ t.time.ptp.paths = (path :: s.time.ptp.paths).take 16 ∧
      t.time.ptp.t3 = none ∧ t.time.ptp.delayInterval = l ∧
      (gated = true → t.time.ptp.gated = satInc s.time.ptp.gated 0xFFFF ∧ t.now = s.now) ∧
      (gated = false → t.time.ptp.portState = 9 ∧ (s.img.hostTime = true → t.now = s.now) ∧
        (s.img.hostTime = false → s.tokenOut = false → s.time.held = none → s.time.needInitial = true →
          t.now = s.now - ((t2 - t1) - (o.units - c - t3)) / 2))) ∧
  (∀ (a : Announce) (u : Nat) (s : State), s.ptpRuns = true → s.time.ptp.master s.time.ptp.port = some (a, u) →
    u + 3 * logTicks a.logAnnounce ≤ s.dt →
    (s.img.portMode ≠ 2 → ∃ t, exec .ptpAnnounceTimeout s = .next t ∧ t.time.ptp.portState = 4 ∧
      t.time.ptp.port = s.time.ptp.port ∧ t.time.ptp.master s.time.ptp.port = none ∧ t.time.ptp.t1 = none) ∧
    ∀ b v, s.img.portMode = 2 → s.time.ptp.master (1 - s.time.ptp.port) = some (b, v) →
      ∃ t, exec .ptpAnnounceTimeout s = .next t ∧ t.time.ptp.port = 1 - s.time.ptp.port ∧ t.time.ptp.gmId = b.gmId ∧
        8 ≤ t.time.ptp.portState) ∧
  (∀ s : State, s.chip.mainRun = true → s.time.ppsAllowed = true → s.time.ntAt ((s.dt : Int) - 1) < s.time.ppsTime (s.time.ppsSecond s.now) →
    (∀ m, s.time.ppsMarked = some m → m < s.time.ppsSecond s.now) →
    ∃ t, exec .ppsOutEdge s = .next t ∧ t.time = { s.time with ppsOut := true, ppsMarked := some (s.time.ppsSecond s.now), ppsFall := s.time.ppsTime (s.time.ppsSecond s.now) + s.time.ppsWidth * 1000000 * ntNs }) ∧
  (∀ s : State, s.time.ppsOut = true → s.time.ppsFall ≤ s.now →
    ∃ t, exec .ppsOutFall s = .next t ∧ t.time = { s.time with ppsOut := false }) ∧
  (∀ s : State, s.chip.mainRun = true →
    (∃ t, exec .ppsInEdge s = .next t ∧ t.time.ppsIn = s.time.ppsIn.complete [0, (timeWords s.now).getD 0 0,
        (timeWords s.now).getD 2 0, (timeWords s.now).getD 3 0, BitVec.ofNat 32 s.dt] ∧ t.now = s.now) ∧
    ∃ t, exec .ppsInResultRead s = .next t ∧ .readData [s.time.ppsIn.word] ∈ t.out ∧ t.time = { s.time with ppsIn := s.time.ppsIn.read })

/-! ## Housekeeping -/

/-- R471 to R477, R480 to R487, R221: a round gives every sensor its trimmed reading and the conditions of Table 18-1 follow the hottest
valid one; conversions give codes, windows and alarms; an urgent conversion goes first; a DAC output drives its code, or its CLEAR
code while it is cleared, and its switch to the calibration bus opens. -/
def Obligations.HousekeepingRowsComplete : Prop :=
  (∀ (l : List Int) (s : State), s.chip.mainRun = true → s.dt % 2500000 = 50000 →
    let now := fun n => (tabGet s.house.temps {} n).round (l.getD n 0 + tabGet s.chip.otp.tempTrims 0 n)
    ∃ t, exec (.hkRound l) s = .next t ∧ (∀ n, n < 17 → tabGet t.house.temps {} n = now n) ∧
      ∀ n r, hottestSensor ((List.range 17).map fun n => (n, now n)) = some (n, r) →
        t.house.hottest = r ∧ t.house.hotSrc = n ∧
        t.house.warn = (if s.house.warn then decide (496 ≤ r) else decide (520 ≤ r)) ∧
        t.house.throttle = (if s.house.throttle then decide (544 ≤ r) else decide (568 ≤ r)) ∧
        t.house.shutdown = (if s.house.shutdown then decide (584 ≤ r) else decide (608 ≤ r)) ∧
        (s.house.shutdown = false → 608 ≤ r → Reportable s 0x0062 srcHouse 0 → t.faults.safeState = true)) ∧
  (∀ (c : Nat) (s : State), s.chip.mainRun = true → s.house.converting = true → c < 4096 →
    let k := s.house.adcEntry
    let e := s.adcEntry k
    let out := decide (c < e.low) || decide (e.high < c)
    ∃ t, exec (.adcConversionDone c) s = .next t ∧ (t.adcEntry k).code = c ∧ (t.adcEntry k).settling = s.settling e.ref ∧
      (t.adcEntry k).alarm = (e.alarm || (!s.settling e.ref && out)) ∧
      (t.adcEntry k).window = (if s.settling e.ref then e.window else out) ∧
      t.house.adcEntry = (if s.house.adcStopping || decide (s.house.adcLast ≤ k) then 0 else k + 1) ∧
      t.house.lastRef = some (e.ref, s.dt) ∧ ∀ j, j ≠ k → t.adcEntry j = s.adcEntry j) ∧
  (∀ (v : Word32) (s : State), s.chip.mainRun = true →
    (∃ t, exec (.adcCtrlWrite v) s = .next t ∧ t.house.adcRun = bit v.toNat 0 ∧ t.house.adcLast = bits v.toNat 1 5 ∧
      t.house.adc = s.house.adc) ∧
    (s.house.urgBusy = false → bit v.toNat 8 = true → ∃ t, exec (.adcUrgentGo v) s = .next t ∧ t.house.urgBusy = true ∧
      t.house.urgInput = min 47 (bits v.toNat 0 6) ∧ t.house.urgRef = min 2 (bits v.toNat 6 2) ∧ t.house.urgAt = s.dt ∧
      t.house.urgResult = { s.house.urgResult with ready := false }) ∧
    (s.house.urgBusy = true → bit v.toNat 8 = true → ∃ t, exec (.adcUrgentGo v) s = .next t ∧
      t.house = { s.house with urgTrigLost := true }) ∧
    ∃ t, exec .adcUrgentResultRead s = .next t ∧ .readData [s.house.urgResult.word] ∈ t.out ∧
      t.house = { s.house with urgResult := s.house.urgResult.read }) ∧
  (∀ (c : Nat) (s : State), s.chip.mainRun = true → s.house.urgBusy = true → c < 4096 → s.house.urgAt + 1250 ≤ s.dt →
    ∃ t, exec (.adcUrgentConversionDone c) s = .next t ∧ t.house.urgBusy = false ∧
      t.house.urgResult = s.house.urgResult.complete [BitVec.ofNat 32 (2 ^ 10 * c + 2 ^ 22 * b2n (s.settling s.house.urgRef))] ∧
      t.house.adcEntry = s.house.adcEntry) ∧
  (∀ (k : Nat) (v : Word32) (s : State), s.chip.mainRun = true → k < 4 →
    ∃ t, exec (.dacCtrlWrite k v) s = .next t ∧ (t.dac k).code = bits v.toNat 16 16 ∧ (t.dac k).gain2 = bit v.toNat 1 ∧
      (t.dac k).written = true ∧ (∀ j, j ≠ k → t.dac j = s.dac j) ∧
      (s.house.dacClrLow = false → s.faults.safeState = false → bit v.toNat 0 = false → t.dacOut k = bits v.toNat 16 16) ∧
      (s.house.dacClrLow = true ∨ s.faults.safeState = true → t.dacOut k = (s.dac k).clear ∧ (t.dac k).toCal = false) ∧
      (s.house.dacClrLow = false → s.faults.safeState = false → k < 2 → bit v.toNat 3 = true → s.busTaken = false → (t.dac k).toCal = true) ∧
      (k < 2 → bit v.toNat 3 = true → s.busTaken = true → (s.dac k).toCal = false →
        (t.dac k).toCal = false ∧ (t.dac k).busConflict = true)) ∧
  (∀ s : State, (∃ t, exec (.dacClrNChange true) s = .next t ∧ ∀ k, k < 4 → (t.dac k).toCal = false ∧ t.dacOut k = (s.dac k).clear) ∧
    ∃ t, exec (.dacClrNChange false) s = .next t ∧ t.house = { s.house with dacClrLow := false })

/-! ## Start-up -/

/-- R443 to R446, R496, R497: POR_N and the always-on supply hold everything in reset, light off and device time 0; a warm reset stops
the main side and keeps what Table 17-1 keeps; a pulse on RESET_N shorter than 500 ns does nothing, one between is either. -/
def Obligations.ResetRowsComplete : Prop :=
  (∀ (c : Instr) (s : State), c = .porNAssert ∨ c = .aonSupplyLow →
    ∃ t, exec c s = .next t ∧ t.chip.por = true ∧ t.chip.mainRun = false ∧ t.dt = 0 ∧ t.time.pllLocked = false ∧
      (∀ k, (t.len k).on = false) ∧ t.chip.otp = s.chip.otp ∧ t.calib.stored = s.calib.stored ∧ t.lsu.record = s.lsu.record ∧
      ∀ k, t.tile k = s.tile k) ∧
  (∀ s : State, ∃ t, exec .porNAssert s = .next t ∧ exec .aonSupplyLow s = .next t) ∧
  (∀ s : State, s.chip.por = true → ∃ t, exec .porNRelease s = .next t ∧ t = { s with chip := { s.chip with por := false } }) ∧
  (∀ (n : Nat) (s : State), s.chip.por = false →
    (n < 500 → exec (.warmReset n) s = .next s) ∧
    (1000 ≤ n → ∃ t, exec (.warmReset n) s = .next t ∧ t.chip.resetHeld = true ∧ t.chip.resetHigh = false ∧ t.chip.resetCause = 1 ∧
      t.chip.resetCount = satInc s.chip.resetCount 0xFFFF ∧ t.chip.mainRun = false ∧ t.chip.imageApplied = false ∧ t.dt = s.dt ∧
      t.time.pllLocked = s.time.pllLocked ∧ t.faults.unclear3 = s.faults.unclear3 ∧ t.faults.safeState = false ∧
      t.faults.errLevel = s.faults.errLevel ∧ t.lsu = { s.lsu with safeState := false } ∧ t.store.table = [] ∧
      (∀ k, t.tile k = s.tile k) ∧ (∀ x, x < 2 ^ 25 → MemForm s → t.mem.get x = s.mem.get x)) ∧
    (500 ≤ n → n < 1000 → ∃ t u, exec (.warmReset n) s = .next t ∧ exec (.warmReset 1000) s = .next u ∧
      (t = { s with free := s.free + 1 } ∨ t = { u with free := s.free + 1 })) ∧
    (∃ t u, exec (.resetCtrlWrite 0x5EE7#32) s = .next t ∧ exec (.warmReset 1000) s = .next u ∧ t.chip.resetCause = 2 ∧
      u = { t with chip := { t.chip with resetCause := 1, resetHigh := false } }) ∧
    (∀ v, v ≠ 0x5EE7#32 → exec (.resetCtrlWrite v) s = .next s)) ∧
  (∀ s : State, s.chip.mainRun = false → s.chip.resetHeld = true → s.chip.heldReported = false → s.chip.heldSince + secTicks ≤ s.dt →
    findMerge s.faults.aonPending { code := 0x00C2, source := srcAon } s.dt = none →
    ∃ t, exec .resetHeldExpire s = .next t ∧ t.chip.heldReported = true ∧ ∃ f ∈ t.faults.aonPending, f.code = 0x00C2 ∧ f.time = s.dt) ∧
  (∀ (m : Nat) (s : State), s.chip.por = false →
    findMerge s.faults.aonPending { code := 0x00C3, source := srcAon, detail0 := m } s.dt = none →
    ∃ t, exec (.mainSupplyFault m) s = .next t ∧ t.chip.mainPower = false ∧ t.chip.resetCause = 3 ∧ t.chip.mainRun = false ∧
      ∃ f ∈ t.faults.aonPending, f.code = 0x00C3 ∧ f.detail0 = m) ∧
  (∀ s : State, s.chip.por = false → ∃ t, exec .mainSupplyGood s = .next t ∧ t = { s with chip := { s.chip with mainPower := true } })

/-- R437, R443, R452, R453, R455, R456, R459 to R463: the main side starts by reading its image; a read error is retried once, the first
check that fails holds the fabric, an image that passes is applied. Surfaces are expanded tile by tile; the restart record, or
the held drives, give the table; READY's changes set their bits. -/
def Obligations.StartUpRowsComplete : Prop :=
  (∀ s : State, s.chip.por = false → s.chip.mainRun = false → s.chip.mainPower = true →
    ∃ t, exec .mainStart s = .next t ∧ t.chip.mainRun = true ∧ t.chip.imageReading = true ∧ t.chip.resetHeld = false ∧
      t.faults.aonPending = [] ∧ (s.host.perst = false → t.host.bme = true) ∧
      ∀ f, s.faults.aonPending = [f] → ∃ g ∈ t.faults.log, g.seq = some s.faults.nextSeq ∧ g.code = f.code ∧ g.time = f.time) ∧
  (∀ (i : FlashImage) (s : State), s.chip.mainRun = true → s.chip.imageReading = true →
    (i.sfdpOk = true → i.readOk = false → s.chip.readRetried = false → ∃ t, exec (.flashImageReadDone i) s = .next t ∧
      t = { s with chip := { s.chip with readRetried := true } }) ∧
    (∀ c, firstFail s.chip.otp i = some c → (i.readOk = true ∨ s.chip.readRetried = true ∨ i.sfdpOk = false) →
      ∃ t, exec (.flashImageReadDone i) s = .next t ∧ t.chip.heldFabric = true ∧ t.chip.imageApplied = s.chip.imageApplied ∧
        t.chip.imageResult = c.code ∧ t.chip.imageSection = c.section_ ∧ t.chip.imageRecord = c.record ∧
        (Reportable s 0x00C0 srcMgmt c.code → NewRecord s t 0x00C0 srcMgmt c.code)) ∧
    (firstFail s.chip.otp i = none → i.readOk = true → ∃ t, exec (.flashImageReadDone i) s = .next t ∧ t.chip.imageApplied = true ∧
      t.chip.image = i.content ∧ t.chip.imageReading = false ∧ t.comma.linkShare = i.content.linkShare ∧
      t.comma.loopShare = i.content.loopShare ∧ t.mate.role = (if i.content.mateEnable then .starting else .alone) ∧
      (∀ n, n < 16 → t.region n = { clockOk := true }))) ∧
  (∀ (k : Nat) (s : State), Quiet s → s.mate.takeover ≠ .adopting → s.chip.setChecked = true →
    (s.expandOrder.filter fun t => !s.chip.expanded.contains t).head? = some k →
    ∃ t, exec (.surfaceExpandDone k) s = .next t ∧ t.chip.expanded = s.chip.expanded ++ [k] ∧
      ((s.link k).tile ≠ .adopting → ∀ e ∈ tileEids k, (t.elem e).st = (if (s.calEntry e).isSome then .darkOff else .uncal) ∧
        (t.elem e).entryValid = (s.calEntry e).isSome)) ∧
  (∀ s : State, Quiet s → s.mate.takeover ≠ .adopting → s.chip.imageApplied = true → s.ddrReady = true → s.chip.setChecked = true →
    s.chip.resolved = false → s.issuesTokens = true →
    (s.chip.ddrAt + s.img.restartWait * msTicks ≤ s.dt ∨ s.restartTiles.all s.restartAnswered = true) →
    ∃ t, exec .restartResolve s = .next t ∧ t.chip.resolved = true ∧ t.chip.restartMode = (if s.recordUsable then 1 else 2) ∧
      (s.recordUsable = true → s.chip.restart.tokens = [] → s.chip.strays = [] →
        t.store.table = s.chip.restart.table.map fun x => (x.1, x.2.map fun c => { c with handle := 0xFFF }))) ∧
  (∀ s : State, BitVec.ofNat 32 s.readyNow ≠ s.chip.ready →
    ∃ t, exec .readyChange s = .next t ∧ t.chip.ready = BitVec.ofNat 32 s.readyNow ∧
      (s.chip.mainRun = true → t.chip.readyEvent = s.chip.readyEvent ||| (BitVec.ofNat 32 s.readyNow ^^^ s.chip.ready)))

/-! ## What each command leaves alone -/

/-- A command that runs while no HANDOVER and no RESUME_REGION is in progress changes only the parts of the state that
`Safety.touched` lists for it, and the background of every command (frame, for all 286 commands). -/
def Obligations.EachCommandTouchesOnlyItsParts : Prop :=
  ∀ (c : Instr) (s t : State), Quiet s → exec c s = .next t → Only (touches c) s t
end

