-- ==== Sys2Proof/Laws/Only.lean ====
section
/-! SUPPORT. The relation `Only`: it is a preorder for a fixed list of parts, it grows with the list, and a record update
stays within the parts that it writes. -/

set_option Elab.async false

namespace Sys2Proof.Safety

open Sys2Proof.Machine

theorem Part.same_refl (p : Part) (s : State) : p.same s s := by cases p <;> simp [Part.same]

theorem Part.same_trans {p : Part} {s t u : State} (h : p.same s t) (h' : p.same t u) : p.same s u := by
  cases p <;> simp only [Part.same] at * <;> simp only [h', h, and_self]

theorem Only.refl (P : List Part) (s : State) : Only P s s := fun p _ => p.same_refl s

theorem Only.trans {P : List Part} {s t u : State} (h : Only P s t) (h' : Only P t u) : Only P s u :=
  fun p hp => Part.same_trans (h p hp) (h' p hp)

theorem Only.mono {P Q : List Part} {s t : State} (h : Only P s t) (hq : P ⊆ Q) : Only Q s t :=
  fun p hp => h p fun hm => hp (hq hm)

/-- A record update of `b`: what it writes lies in `P`. -/
theorem Only.mk {P : List Part} {s0 b : State} {f2 f3 f4 f5 f6 f7 f8 f9 f10 f11 f12 f13 f14 f15 f16 f17 f18 f19 f20 f21 f22}
    (h : Only P s0 b)
    (hs : ∀ p, p ∉ P → p.same b
      (State.mk b.pending f2 f3 f4 f5 f6 f7 f8 f9 f10 f11 f12 f13 f14 f15 f16 f17 f18 f19 f20 f21 f22)) :
    Only P s0 (State.mk b.pending f2 f3 f4 f5 f6 f7 f8 f9 f10 f11 f12 f13 f14 f15 f16 f17 f18 f19 f20 f21 f22) :=
  h.trans hs

theorem Only.foldl {α : Type} {P : List Part} {s0 s : State} {f : State → α → State} {l : List α} (h : Only P s0 s)
    (hf : ∀ s x, Only P s0 s → Only P s0 (f s x)) : Only P s0 (l.foldl f s) := by
  induction l generalizing s with
  | nil => exact h
  | cons x l ih => exact ih (hf s x h)

theorem Only.ite {P : List Part} {o x y : State} {c : Prop} [Decidable c] (h1 : Only P o x) (h2 : Only P o y) :
    Only P o (if c then x else y) := by split <;> assumption

theorem Only.ite_fst {α : Type} {P : List Part} {o : State} {x y : State × α} {c : Prop} [Decidable c]
    (h1 : Only P o x.1) (h2 : Only P o y.1) : Only P o (if c then x else y).1 := by split <;> assumption

theorem Only.ite_snd {α : Type} {P : List Part} {o : State} {x y : α × State} {c : Prop} [Decidable c]
    (h1 : Only P o x.2) (h2 : Only P o y.2) : Only P o (if c then x else y).2 := by split <;> assumption

theorem Only.foldl_fst {α β : Type} {P : List Part} {o : State} {f : State × β → α → State × β} {l : List α}
    {a : State × β} (h : Only P o a.1) (hf : ∀ a x, Only P o a.1 → Only P o (f a x).1) : Only P o (l.foldl f a).1 := by
  induction l generalizing a with
  | nil => exact h
  | cons x l ih => exact ih (hf a x h)

/-! An update of one field stays within the parts that the field makes up. -/

theorem Only.set_pending {P : List Part} {o b : State} {v : List Instr} (hm : .pending ∈ P) (h : Only P o b) :
    Only P o { b with pending := v } :=
  h.trans fun p hn => by cases p <;> first | rfl | exact absurd hm hn | exact ⟨rfl, rfl⟩ | exact ⟨rfl, rfl, rfl⟩ | exact ⟨rfl, rfl, rfl, rfl⟩

theorem Only.set_out {P : List Part} {o b : State} {v : List Output} (hm : .out ∈ P) (h : Only P o b) :
    Only P o { b with out := v } :=
  h.trans fun p hn => by cases p <;> first | rfl | exact absurd hm hn | exact ⟨rfl, rfl⟩ | exact ⟨rfl, rfl, rfl⟩ | exact ⟨rfl, rfl, rfl, rfl⟩

theorem Only.set_free {P : List Part} {o b : State} {v : Nat} (hm : .free ∈ P) (h : Only P o b) :
    Only P o { b with free := v } :=
  h.trans fun p hn => by cases p <;> first | rfl | exact absurd hm hn | exact ⟨rfl, rfl⟩ | exact ⟨rfl, rfl, rfl⟩ | exact ⟨rfl, rfl, rfl, rfl⟩

theorem Only.set_dt {P : List Part} {o b : State} {v : Nat} (hm : .dt ∈ P) (h : Only P o b) :
    Only P o { b with dt := v } :=
  h.trans fun p hn => by cases p <;> first | rfl | exact absurd hm hn | exact ⟨rfl, rfl⟩ | exact ⟨rfl, rfl, rfl⟩ | exact ⟨rfl, rfl, rfl, rfl⟩

theorem Only.set_time {P : List Part} {o b : State} {v : TimeUnit} (hm : .time ∈ P) (h : Only P o b) :
    Only P o { b with time := v } :=
  h.trans fun p hn => by cases p <;> first | rfl | exact absurd hm hn | exact ⟨rfl, rfl⟩ | exact ⟨rfl, rfl, rfl⟩ | exact ⟨rfl, rfl, rfl, rfl⟩

theorem Only.set_comma {P : List Part} {o b : State} {v : Comma} (hm : .comma ∈ P) (h : Only P o b) :
    Only P o { b with comma := v } :=
  h.trans fun p hn => by cases p <;> first | rfl | exact absurd hm hn | exact ⟨rfl, rfl⟩ | exact ⟨rfl, rfl, rfl⟩ | exact ⟨rfl, rfl, rfl, rfl⟩

theorem Only.set_regions {P : List Part} {o b : State} {v : Tab Region} (hm : .regions ∈ P) (h : Only P o b) :
    Only P o { b with regions := v } :=
  h.trans fun p hn => by cases p <;> first | rfl | exact absurd hm hn | exact ⟨rfl, rfl⟩ | exact ⟨rfl, rfl, rfl⟩ | exact ⟨rfl, rfl, rfl, rfl⟩

theorem Only.set_store {P : List Part} {o b : State} {v : Store} (hm : .store ∈ P) (h : Only P o b) :
    Only P o { b with store := v } :=
  h.trans fun p hn => by cases p <;> first | rfl | exact absurd hm hn | exact ⟨rfl, rfl⟩ | exact ⟨rfl, rfl, rfl⟩ | exact ⟨rfl, rfl, rfl, rfl⟩

theorem Only.set_adm {P : List Part} {o b : State} {v : Admission} (hm : .adm ∈ P) (h : Only P o b) :
    Only P o { b with adm := v } :=
  h.trans fun p hn => by cases p <;> first | rfl | exact absurd hm hn | exact ⟨rfl, rfl⟩ | exact ⟨rfl, rfl, rfl⟩ | exact ⟨rfl, rfl, rfl, rfl⟩

theorem Only.set_mem {P : List Part} {o b : State} {v : Memory} (hm : .mem ∈ P) (h : Only P o b) :
    Only P o { b with mem := v } :=
  h.trans fun p hn => by cases p <;> first | rfl | exact absurd hm hn | exact ⟨rfl, rfl⟩ | exact ⟨rfl, rfl, rfl⟩ | exact ⟨rfl, rfl, rfl, rfl⟩

theorem Only.set_matrix {P : List Part} {o b : State} {v : Matrix} (hm : .matrix ∈ P) (h : Only P o b) :
    Only P o { b with matrix := v } :=
  h.trans fun p hn => by cases p <;> first | rfl | exact absurd hm hn | exact ⟨rfl, rfl⟩ | exact ⟨rfl, rfl, rfl⟩ | exact ⟨rfl, rfl, rfl, rfl⟩

theorem Only.set_lsu {P : List Part} {o b : State} {v : LightSafety} (hm : .lsu ∈ P) (h : Only P o b) :
    Only P o { b with lsu := v } :=
  h.trans fun p hn => by cases p <;> first | rfl | exact absurd hm hn | exact ⟨rfl, rfl⟩ | exact ⟨rfl, rfl, rfl⟩ | exact ⟨rfl, rfl, rfl, rfl⟩

theorem Only.set_house {P : List Part} {o b : State} {v : House} (hm : .house ∈ P) (h : Only P o b) :
    Only P o { b with house := v } :=
  h.trans fun p hn => by cases p <;> first | rfl | exact absurd hm hn | exact ⟨rfl, rfl⟩ | exact ⟨rfl, rfl, rfl⟩ | exact ⟨rfl, rfl, rfl, rfl⟩

theorem Only.set_hostOps {P : List Part} {o b : State} {v : List HostOp} (hm : .hostOps ∈ P) (h : Only P o b) :
    Only P o { b with hostOps := v } :=
  h.trans fun p hn => by cases p <;> first | rfl | exact absurd hm hn | exact ⟨rfl, rfl⟩ | exact ⟨rfl, rfl, rfl⟩ | exact ⟨rfl, rfl, rfl, rfl⟩

theorem Only.set_faults {P : List Part} {o b : State} {v : Faults}
    (h0 : .faults ∈ P ∨ { v with errLevel := 0, resumes := [] } = { b.faults with errLevel := 0, resumes := [] })
    (h1 : .errLevel ∈ P ∨ v.errLevel = b.faults.errLevel)
    (h2 : .resumes ∈ P ∨ v.resumes = b.faults.resumes)
    (h : Only P o b) :
    Only P o { b with faults := v } :=
  h.trans fun p hn => by
    cases p <;> first | rfl | exact h0.elim (absurd · hn) id | exact h1.elim (absurd · hn) id | exact h2.elim (absurd · hn) id | exact ⟨rfl, rfl⟩ | exact ⟨rfl, rfl, rfl⟩ | exact ⟨rfl, rfl, rfl, rfl⟩

theorem Only.set_host {P : List Part} {o b : State} {v : HostIf}
    (h0 : .host ∈ P ∨ { v with msixPending := [], issues := [], owed := [] } = { b.host with msixPending := [], issues := [], owed := [] })
    (h1 : .irq ∈ P ∨ v.msixPending = b.host.msixPending)
    (h2 : .issues ∈ P ∨ v.issues = b.host.issues)
    (h3 : .owed ∈ P ∨ v.owed = b.host.owed)
    (h : Only P o b) :
    Only P o { b with host := v } :=
  h.trans fun p hn => by
    cases p <;> first | rfl | exact h0.elim (absurd · hn) id | exact h1.elim (absurd · hn) id | exact h2.elim (absurd · hn) id | exact h3.elim (absurd · hn) id | exact ⟨rfl, rfl⟩ | exact ⟨rfl, rfl, rfl⟩ | exact ⟨rfl, rfl, rfl, rfl⟩

theorem Only.set_loops {P : List Part} {o b : State} {v : Loops}
    (h0 : .loops ∈ P ∨ { v with elems := [] } = { b.loops with elems := [] })
    (h1 : .elems ∈ P ∨ v.elems = b.loops.elems)
    (h : Only P o b) :
    Only P o { b with loops := v } :=
  h.trans fun p hn => by
    cases p <;> first | rfl | exact h0.elim (absurd · hn) id | exact h1.elim (absurd · hn) id | exact ⟨rfl, rfl⟩ | exact ⟨rfl, rfl, rfl⟩ | exact ⟨rfl, rfl, rfl, rfl⟩

theorem Only.set_smu {P : List Part} {o b : State} {v : Smu}
    (h0 : .smu ∈ P ∨ { v with runs := [], ssRun := none } = { b.smu with runs := [], ssRun := none })
    (h1 : .runs ∈ P ∨ v.runs = b.smu.runs ∧ v.ssRun = b.smu.ssRun)
    (h : Only P o b) :
    Only P o { b with smu := v } :=
  h.trans fun p hn => by
    cases p <;> first | rfl | exact h0.elim (absurd · hn) id | exact h1.elim (absurd · hn) id | exact ⟨rfl, rfl⟩ | exact ⟨rfl, rfl, rfl⟩ | exact ⟨rfl, rfl, rfl, rfl⟩

theorem Only.set_calib {P : List Part} {o b : State} {v : Calib}
    (h0 : .calib ∈ P ∨ { v with runs := [], batches := [] } = { b.calib with runs := [], batches := [] })
    (h1 : .calRuns ∈ P ∨ v.runs = b.calib.runs ∧ v.batches = b.calib.batches)
    (h : Only P o b) :
    Only P o { b with calib := v } :=
  h.trans fun p hn => by
    cases p <;> first | rfl | exact h0.elim (absurd · hn) id | exact h1.elim (absurd · hn) id | exact ⟨rfl, rfl⟩ | exact ⟨rfl, rfl, rfl⟩ | exact ⟨rfl, rfl, rfl, rfl⟩

theorem Only.set_paost {P : List Part} {o b : State} {v : Paost}
    (h0 : .links ∈ P ∨ v.links = b.paost.links)
    (h1 : .tiles ∈ P ∨ v.tiles = b.paost.tiles)
    (h : Only P o b) :
    Only P o { b with paost := v } :=
  h.trans fun p hn => by
    cases p <;> first | rfl | exact h0.elim (absurd · hn) id | exact h1.elim (absurd · hn) id | exact ⟨rfl, rfl⟩ | exact ⟨rfl, rfl, rfl⟩ | exact ⟨rfl, rfl, rfl, rfl⟩

theorem Only.set_mate {P : List Part} {o b : State} {v : Mate}
    (h0 : .mate ∈ P ∨ { v with handover := .none, sent := 0, unacked := [], waits := [] } =
      { b.mate with handover := .none, sent := 0, unacked := [], waits := [] })
    (h1 : .handover ∈ P ∨ v.handover = b.mate.handover)
    (h2 : .mirror ∈ P ∨ v.sent = b.mate.sent ∧ v.unacked = b.mate.unacked ∧ v.waits = b.mate.waits)
    (h : Only P o b) :
    Only P o { b with mate := v } :=
  h.trans fun p hn => by
    cases p <;> first | rfl | exact h0.elim (absurd · hn) id | exact h1.elim (absurd · hn) id | exact h2.elim (absurd · hn) id | exact ⟨rfl, rfl⟩ | exact ⟨rfl, rfl, rfl⟩ | exact ⟨rfl, rfl, rfl, rfl⟩

theorem Only.set_chip {P : List Part} {o b : State} {v : Chip}
    (h0 : .chip ∈ P ∨ { v with otp := {}, digestBusy := false, digestAgain := false, digestCurrent := false, restart := {} } = { b.chip with otp := {}, digestBusy := false, digestAgain := false, digestCurrent := false, restart := {} })
    (h1 : .otp ∈ P ∨ v.otp = b.chip.otp)
    (h2 : .digest ∈ P ∨ v.digestBusy = b.chip.digestBusy ∧ v.digestAgain = b.chip.digestAgain ∧ v.digestCurrent = b.chip.digestCurrent ∧ v.restart = b.chip.restart)
    (h : Only P o b) :
    Only P o { b with chip := v } :=
  h.trans fun p hn => by
    cases p <;> first | rfl | exact h0.elim (absurd · hn) id | exact h1.elim (absurd · hn) id | exact h2.elim (absurd · hn) id | exact ⟨rfl, rfl⟩ | exact ⟨rfl, rfl, rfl⟩ | exact ⟨rfl, rfl, rfl, rfl⟩

end Sys2Proof.Safety
end

