-- ==== Sys2Proof/Laws/OnlyOps.lean ====
section
/-! SUPPORT. What the functions of `Machine/Ops.lean` may write: one lemma each. -/

set_option Elab.async false

namespace Sys2Proof.Safety

open Sys2Proof.Machine

theorem State.setCls_only {P : List Part} {o₀ : State} {s : State} (h₀ : Only P o₀ s) (hp : [.loops] ⊆ P) (c : Nat) (v : ClassState) :
    Only P o₀ (State.setCls s c v) := by
  unfold State.setCls
  repeat' first
    | with_reducible assumption
    | with_reducible apply Only.ite
    | with_reducible apply Only.foldl
    | intro s1 x1 h1
    | dsimp only
    | ((with_reducible apply Only.set_loops); exact .inl (hp (by decide)); (with_reducible exact .inr rfl))

theorem State.setTile_only {P : List Part} {o₀ : State} {s : State} (h₀ : Only P o₀ s) (hp : [.tiles] ⊆ P) (t : Nat) (v : Tile) :
    Only P o₀ (State.setTile s t v) := by
  unfold State.setTile
  repeat' first
    | with_reducible assumption
    | with_reducible apply Only.ite
    | with_reducible apply Only.foldl
    | intro s1 x1 h1
    | dsimp only
    | ((with_reducible apply Only.set_paost); (with_reducible exact .inr rfl); exact .inl (hp (by decide)))

theorem State.emit_only {P : List Part} {o₀ : State} {s : State} (h₀ : Only P o₀ s) (hp : [.out] ⊆ P) (o : Output) :
    Only P o₀ (State.emit s o) := by
  unfold State.emit
  repeat' first
    | with_reducible assumption
    | with_reducible apply Only.ite
    | with_reducible apply Only.foldl
    | intro s1 x1 h1
    | dsimp only
    | ((with_reducible apply Only.set_out); exact hp (by decide))

theorem State.msix_only {P : List Part} {o₀ : State} {s : State} (h₀ : Only P o₀ s) (hp : [.out, .irq] ⊆ P) (v : Nat) :
    Only P o₀ (State.msix s v) := by
  unfold State.msix
  repeat' first
    | with_reducible assumption
    | ((with_reducible refine List.Subset.trans ?_ hp); decide)
    | with_reducible apply State.emit_only
    | with_reducible apply Only.ite
    | with_reducible apply Only.foldl
    | intro s1 x1 h1
    | dsimp only
    | ((with_reducible apply Only.set_host); (with_reducible exact .inr rfl); exact .inl (hp (by decide)); (with_reducible exact .inr rfl); (with_reducible exact .inr rfl))

theorem State.setLink_only {P : List Part} {o₀ : State} {s : State} (h₀ : Only P o₀ s) (hp : [.links] ⊆ P) (t : Nat) (v : Link) :
    Only P o₀ (State.setLink s t v) := by
  unfold State.setLink
  repeat' first
    | with_reducible assumption
    | with_reducible apply Only.ite
    | with_reducible apply Only.foldl
    | intro s1 x1 h1
    | dsimp only
    | ((with_reducible apply Only.set_paost); exact .inl (hp (by decide)); (with_reducible exact .inr rfl))

theorem State.modTile_only {P : List Part} {o₀ : State} {s : State} (h₀ : Only P o₀ s) (hp : [.tiles] ⊆ P) (t : Nat) (f : Tile → Tile) :
    Only P o₀ (State.modTile s t f) := by
  unfold State.modTile
  repeat' first
    | with_reducible assumption
    | with_reducible apply State.setTile_only

theorem State.event_only {P : List Part} {o₀ : State} {s : State} (h₀ : Only P o₀ s) (hp : [.owed] ⊆ P) (src : Source) (e : Event) :
    Only P o₀ (State.event s src e) := by
  unfold State.event
  repeat' first
    | with_reducible assumption
    | with_reducible apply Only.ite
    | with_reducible apply Only.foldl
    | intro s1 x1 h1
    | dsimp only
    | ((with_reducible apply Only.set_host); (with_reducible exact .inr rfl); (with_reducible exact .inr rfl); (with_reducible exact .inr rfl); exact .inl (hp (by decide)))

theorem State.setSent_only {P : List Part} {o₀ : State} {s : State} (h₀ : Only P o₀ s) (hp : [.store] ⊆ P) (h : Nat) (v : Sentence) :
    Only P o₀ (State.setSent s h v) := by
  unfold State.setSent
  repeat' first
    | with_reducible assumption
    | with_reducible apply Only.ite
    | with_reducible apply Only.foldl
    | intro s1 x1 h1
    | dsimp only
    | ((with_reducible apply Only.set_store); exact hp (by decide))

theorem State.setPara_only {P : List Part} {o₀ : State} {s : State} (h₀ : Only P o₀ s) (hp : [.store] ⊆ P) (p : Nat) (v : Para) :
    Only P o₀ (State.setPara s p v) := by
  unfold State.setPara
  repeat' first
    | with_reducible assumption
    | with_reducible apply Only.ite
    | with_reducible apply Only.foldl
    | intro s1 x1 h1
    | dsimp only
    | ((with_reducible apply Only.set_store); exact hp (by decide))

theorem State.modLink_only {P : List Part} {o₀ : State} {s : State} (h₀ : Only P o₀ s) (hp : [.links] ⊆ P) (t : Nat) (f : Link → Link) :
    Only P o₀ (State.modLink s t f) := by
  unfold State.modLink
  repeat' first
    | with_reducible assumption
    | with_reducible apply State.setLink_only

theorem State.setRun_only {P : List Part} {o₀ : State} {s : State} (h₀ : Only P o₀ s) (hp : [.runs] ⊆ P) (l : Nat) (v : Option Run) :
    Only P o₀ (State.setRun s l v) := by
  unfold State.setRun
  repeat' first
    | with_reducible assumption
    | with_reducible apply Only.ite
    | with_reducible apply Only.foldl
    | intro s1 x1 h1
    | dsimp only
    | ((with_reducible apply Only.set_smu); (with_reducible exact .inr rfl); exact .inl (hp (by decide)))

theorem State.setChan_only {P : List Part} {o₀ : State} {s : State} (h₀ : Only P o₀ s) (hp : [.mem] ⊆ P) (c : Nat) (v : DmaChan) :
    Only P o₀ (State.setChan s c v) := by
  unfold State.setChan
  repeat' first
    | with_reducible assumption
    | with_reducible apply Only.ite
    | with_reducible apply Only.foldl
    | intro s1 x1 h1
    | dsimp only
    | ((with_reducible apply Only.set_mem); exact hp (by decide))

theorem State.complete_only {P : List Part} {o₀ : State} {s : State} (h₀ : Only P o₀ s) (hp : [.issues] ⊆ P) (h : Hdr) (opcode : Nat) (status : Nat) (result : Nat) :
    Only P o₀ (State.complete s h opcode status result) := by
  unfold State.complete
  repeat' first
    | with_reducible assumption
    | with_reducible apply Only.ite
    | with_reducible apply Only.foldl
    | intro s1 x1 h1
    | dsimp only
    | split
    | ((with_reducible apply Only.set_host); (with_reducible exact .inr rfl); (with_reducible exact .inr rfl); exact .inl (hp (by decide)); (with_reducible exact .inr rfl))

theorem State.setElem_only {P : List Part} {o₀ : State} {s : State} (h₀ : Only P o₀ s) (hp : [.elems] ⊆ P) (e : Nat) (v : Elem) :
    Only P o₀ (State.setElem s e v) := by
  unfold State.setElem
  repeat' first
    | with_reducible assumption
    | with_reducible apply Only.ite
    | with_reducible apply Only.foldl
    | intro s1 x1 h1
    | dsimp only
    | ((with_reducible apply Only.set_loops); (with_reducible exact .inr rfl); exact .inl (hp (by decide)))

theorem State.modElem_only {P : List Part} {o₀ : State} {s : State} (h₀ : Only P o₀ s) (hp : [.elems] ⊆ P) (e : Nat) (f : Elem → Elem) :
    Only P o₀ (State.modElem s e f) := by
  unfold State.modElem
  repeat' first
    | with_reducible assumption
    | with_reducible apply State.setElem_only

theorem State.setIlk_only {P : List Part} {o₀ : State} {s : State} (h₀ : Only P o₀ s) (hp : [.lsu] ⊆ P) (i : Nat) (v : Ilk) :
    Only P o₀ (State.setIlk s i v) := by
  unfold State.setIlk
  repeat' first
    | with_reducible assumption
    | with_reducible apply Only.ite
    | with_reducible apply Only.foldl
    | intro s1 x1 h1
    | dsimp only
    | ((with_reducible apply Only.set_lsu); exact hp (by decide))

theorem State.setQueue_only {P : List Part} {o₀ : State} {s : State} (h₀ : Only P o₀ s) (hp : [.host] ⊆ P) (q : Nat) (v : Queue) :
    Only P o₀ (State.setQueue s q v) := by
  unfold State.setQueue
  repeat' first
    | with_reducible assumption
    | with_reducible apply Only.ite
    | with_reducible apply Only.foldl
    | intro s1 x1 h1
    | dsimp only
    | ((with_reducible apply Only.set_host); exact .inl (hp (by decide)); (with_reducible exact .inr rfl); (with_reducible exact .inr rfl); (with_reducible exact .inr rfl))

theorem State.modQueue_only {P : List Part} {o₀ : State} {s : State} (h₀ : Only P o₀ s) (hp : [.host] ⊆ P) (q : Nat) (f : Queue → Queue) :
    Only P o₀ (State.modQueue s q f) := by
  unfold State.modQueue
  repeat' first
    | with_reducible assumption
    | with_reducible apply State.setQueue_only

theorem State.setLen_only {P : List Part} {o₀ : State} {s : State} (h₀ : Only P o₀ s) (hp : [.lsu] ⊆ P) (k : Nat) (v : Len) :
    Only P o₀ (State.setLen s k v) := by
  unfold State.setLen
  repeat' first
    | with_reducible assumption
    | with_reducible apply Only.ite
    | with_reducible apply Only.foldl
    | intro s1 x1 h1
    | dsimp only
    | ((with_reducible apply Only.set_lsu); exact hp (by decide))

theorem abortBurst_only {P : List Part} {o₀ : State} {s : State} (h₀ : Only P o₀ s) (hp : [.matrix] ⊆ P) (m u : Nat) :
    Only P o₀ (abortBurst s m u) := by
  unfold abortBurst
  exact Only.set_matrix (hp (by decide)) h₀

theorem State.setBank_only {P : List Part} {o₀ : State} {s : State} (h₀ : Only P o₀ s) (hp : [.mem] ⊆ P) (b : Nat) (v : BankState) :
    Only P o₀ (State.setBank s b v) := by
  unfold State.setBank
  repeat' first
    | with_reducible assumption
    | with_reducible apply Only.ite
    | with_reducible apply Only.foldl
    | intro s1 x1 h1
    | dsimp only
    | ((with_reducible apply Only.set_mem); exact hp (by decide))

theorem State.setConn_only {P : List Part} {o₀ : State} {s : State} (h₀ : Only P o₀ s) (hp : [.store] ⊆ P) (ip : Nat) (v : Option Conn) :
    Only P o₀ (State.setConn s ip v) := by
  unfold State.setConn
  repeat' first
    | with_reducible assumption
    | with_reducible apply Only.ite
    | with_reducible apply Only.foldl
    | intro s1 x1 h1
    | dsimp only
    | ((with_reducible apply Only.set_store); exact hp (by decide))

theorem State.setMonitor_only {P : List Part} {o₀ : State} {s : State} (h₀ : Only P o₀ s) (hp : [.smu] ⊆ P) (m : Nat) (v : Monitor) :
    Only P o₀ (State.setMonitor s m v) := by
  unfold State.setMonitor
  repeat' first
    | with_reducible assumption
    | with_reducible apply Only.ite
    | with_reducible apply Only.foldl
    | intro s1 x1 h1
    | dsimp only
    | ((with_reducible apply Only.set_smu); exact .inl (hp (by decide)); (with_reducible exact .inr ⟨rfl, rfl⟩))

theorem State.setDac_only {P : List Part} {o₀ : State} {s : State} (h₀ : Only P o₀ s) (hp : [.house] ⊆ P) (k : Nat) (v : Dac) :
    Only P o₀ (State.setDac s k v) := by
  unfold State.setDac
  repeat' first
    | with_reducible assumption
    | with_reducible apply Only.ite
    | with_reducible apply Only.foldl
    | intro s1 x1 h1
    | dsimp only
    | ((with_reducible apply Only.set_house); exact hp (by decide))

theorem State.up_only {P : List Part} {o₀ : State} {s : State} (h₀ : Only P o₀ s) (hp : [.out, .tiles] ⊆ P) (t : Nat) (portB : Bool) (name : String) (fields : List Nat) :
    Only P o₀ (State.up s t portB name fields) := by
  unfold State.up
  repeat' first
    | with_reducible assumption
    | ((with_reducible refine List.Subset.trans ?_ hp); decide)
    | with_reducible apply State.emit_only
    | with_reducible apply State.modTile_only
    | with_reducible apply Only.ite

theorem State.setAdcEntry_only {P : List Part} {o₀ : State} {s : State} (h₀ : Only P o₀ s) (hp : [.house] ⊆ P) (e : Nat) (v : AdcEntry) :
    Only P o₀ (State.setAdcEntry s e v) := by
  unfold State.setAdcEntry
  repeat' first
    | with_reducible assumption
    | with_reducible apply Only.ite
    | with_reducible apply Only.foldl
    | intro s1 x1 h1
    | dsimp only
    | ((with_reducible apply Only.set_house); exact hp (by decide))

theorem State.modSent_only {P : List Part} {o₀ : State} {s : State} (h₀ : Only P o₀ s) (hp : [.store] ⊆ P) (h : Nat) (f : Sentence → Sentence) :
    Only P o₀ (State.modSent s h f) := by
  unfold State.modSent
  repeat' first
    | with_reducible assumption
    | with_reducible apply State.setSent_only

theorem State.draw_only {P : List Part} {o₀ : State} {s : State} (h₀ : Only P o₀ s) (hp : [.free] ⊆ P)  :
    Only P o₀ (State.draw s).2 := by
  unfold State.draw
  repeat' first
    | with_reducible assumption
    | with_reducible apply Only.ite
    | with_reducible apply Only.foldl
    | with_reducible apply Only.ite_fst
    | with_reducible apply Only.ite_snd
    | with_reducible apply Only.foldl_fst
    | intro s1 x1 h1
    | dsimp only
    | ((with_reducible apply Only.set_free); exact hp (by decide))

theorem State.setPeer_only {P : List Part} {o₀ : State} {s : State} (h₀ : Only P o₀ s) (hp : [.adm] ⊆ P) (p : Nat) (v : Peer) :
    Only P o₀ (State.setPeer s p v) := by
  unfold State.setPeer
  repeat' first
    | with_reducible assumption
    | with_reducible apply Only.ite
    | with_reducible apply Only.foldl
    | intro s1 x1 h1
    | dsimp only
    | ((with_reducible apply Only.set_adm); exact hp (by decide))

theorem State.down_only {P : List Part} {o₀ : State} {s : State} (h₀ : Only P o₀ s) (hp : [.out, .links] ⊆ P) (t : Nat) (name : String) (fields : List Nat) :
    Only P o₀ (State.down s t name fields) := by
  unfold State.down
  repeat' first
    | with_reducible assumption
    | ((with_reducible refine List.Subset.trans ?_ hp); decide)
    | with_reducible apply State.emit_only
    | with_reducible apply State.modLink_only
    | with_reducible apply Only.ite

theorem State.setRegion_only {P : List Part} {o₀ : State} {s : State} (h₀ : Only P o₀ s) (hp : [.regions] ⊆ P) (n : Nat) (v : Region) :
    Only P o₀ (State.setRegion s n v) := by
  unfold State.setRegion
  repeat' first
    | with_reducible assumption
    | with_reducible apply Only.ite
    | with_reducible apply Only.foldl
    | intro s1 x1 h1
    | dsimp only
    | ((with_reducible apply Only.set_regions); exact hp (by decide))

theorem State.modRegion_only {P : List Part} {o₀ : State} {s : State} (h₀ : Only P o₀ s) (hp : [.regions] ⊆ P) (n : Nat) (f : Region → Region) :
    Only P o₀ (State.modRegion s n f) := by
  unfold State.modRegion
  repeat' first
    | with_reducible assumption
    | with_reducible apply State.setRegion_only

theorem State.setRc_only {P : List Part} {o₀ : State} {s : State} (h₀ : Only P o₀ s) (hp : [.lsu] ⊆ P) (j : Nat) (v : Rc) :
    Only P o₀ (State.setRc s j v) := by
  unfold State.setRc
  repeat' first
    | with_reducible assumption
    | with_reducible apply Only.ite
    | with_reducible apply Only.foldl
    | intro s1 x1 h1
    | dsimp only
    | ((with_reducible apply Only.set_lsu); exact hp (by decide))

end Sys2Proof.Safety
end

