-- ==== Sys2Proof/Laws/OnlyStops.lean ====
section
/-! SUPPORT. What the functions of `Machine/Stops.lean` may write: one lemma each. -/

set_option Elab.async false

namespace Sys2Proof.Safety

open Sys2Proof.Machine

theorem abortPoints_only {P : List Part} {o₀ : State} {s : State} (h₀ : Only P o₀ s) (hp : [.out, .links] ⊆ P) (p : Run → Bool) :
    Only P o₀ (abortPoints s p) := by
  unfold abortPoints
  repeat' first
    | with_reducible assumption
    | with_reducible apply State.down_only
    | with_reducible apply Only.ite
    | with_reducible apply Only.foldl
    | intro s1 x1 h1

theorem loseCalRuns_only {P : List Part} {o₀ : State} {s : State} (h₀ : Only P o₀ s) (hp : [.elems, .calRuns] ⊆ P) (p : CalRun → Bool) :
    Only P o₀ (loseCalRuns s p) := by
  unfold loseCalRuns
  repeat' first
    | with_reducible assumption
    | ((with_reducible refine List.Subset.trans ?_ hp); decide)
    | with_reducible apply State.modElem_only
    | with_reducible apply Only.ite
    | with_reducible apply Only.foldl
    | intro s1 x1 h1
    | dsimp only
    | ((with_reducible apply Only.set_calib); (with_reducible exact .inr rfl); exact .inl (hp (by decide)))

theorem openToCal_only {P : List Part} {o₀ : State} {s : State} (h₀ : Only P o₀ s) (hp : [.house] ⊆ P)  :
    Only P o₀ (openToCal s) := by
  unfold openToCal
  repeat' first
    | with_reducible assumption
    | with_reducible apply State.setDac_only
    | with_reducible apply Only.ite
    | with_reducible apply Only.foldl
    | intro s1 x1 h1

theorem lenOff_only {P : List Part} {o₀ : State} {s : State} (h₀ : Only P o₀ s) (hp : [.lsu] ⊆ P) (k : Nat) :
    Only P o₀ (lenOff s k) := by
  unfold lenOff
  repeat' first
    | with_reducible assumption
    | with_reducible apply State.setLen_only

theorem State.lsuNotify_only {P : List Part} {o₀ : State} {s : State} (h₀ : Only P o₀ s) (hp : [.out, .irq] ⊆ P) (old : LightSafety) :
    Only P o₀ (State.lsuNotify s old) := by
  unfold State.lsuNotify
  repeat' first
    | with_reducible assumption
    | with_reducible apply State.msix_only
    | with_reducible apply Only.ite

theorem endRuns_only {P : List Part} {o₀ : State} {s : State} (h₀ : Only P o₀ s) (hp : [.runs] ⊆ P) (p : Run → Bool) (code : Nat) :
    Only P o₀ (endRuns s p code) := by
  unfold endRuns
  repeat' first
    | with_reducible assumption
    | with_reducible apply Only.ite
    | with_reducible apply Only.foldl
    | intro s1 x1 h1
    | dsimp only
    | ((with_reducible apply Only.set_smu); (with_reducible exact .inr rfl); exact .inl (hp (by decide)))

theorem lsuSafeState_only {P : List Part} {o₀ : State} {s : State} (h₀ : Only P o₀ s) (hp : [.lsu] ⊆ P)  :
    Only P o₀ (lsuSafeState s) := by
  unfold lsuSafeState
  repeat' first
    | with_reducible assumption
    | with_reducible apply lenOff_only
    | with_reducible apply Only.ite
    | with_reducible apply Only.foldl
    | intro s1 x1 h1
    | dsimp only
    | ((with_reducible apply Only.set_lsu); exact hp (by decide))

end Sys2Proof.Safety
end

