-- ==== Sys2Proof/Laws/OnlyAfter.lean ====
section
/-! SUPPORT. What the functions of `Machine/After.lean` may write: one lemma each. -/

set_option Elab.async false

namespace Sys2Proof.Safety

open Sys2Proof.Machine

theorem peerNotify_only {P : List Part} {o₀ : State} {s : State} (h₀ : Only P o₀ s) (hp : [.out, .irq] ⊆ P) (s0 : State) :
    Only P o₀ (peerNotify s0 s) := by
  unfold peerNotify
  repeat' first
    | with_reducible assumption
    | with_reducible apply State.msix_only
    | with_reducible apply Only.ite

theorem endResuming_only {P : List Part} {o₀ : State} {s : State} (h₀ : Only P o₀ s) (hp : [.regions] ⊆ P)  :
    Only P o₀ (endResuming s) := by
  unfold endResuming
  repeat' first
    | with_reducible assumption
    | with_reducible apply State.modRegion_only
    | with_reducible apply Only.ite
    | with_reducible apply Only.foldl
    | intro s1 x1 h1

theorem digestTouch_only {P : List Part} {o₀ : State} {s : State} (h₀ : Only P o₀ s) (hp : [.digest] ⊆ P) (s0 : State) :
    Only P o₀ (digestTouch s0 s) := by
  unfold digestTouch
  repeat' first
    | with_reducible assumption
    | with_reducible apply Only.ite
    | with_reducible apply Only.foldl
    | intro s1 x1 h1
    | dsimp only
    | ((with_reducible apply Only.set_chip); (with_reducible exact .inr rfl); (with_reducible exact .inr rfl); exact .inl (hp (by decide)))

theorem mateNotify_only {P : List Part} {o₀ : State} {s : State} (h₀ : Only P o₀ s) (hp : [.out, .irq] ⊆ P) (s0 : State) :
    Only P o₀ (mateNotify s0 s) := by
  unfold mateNotify
  repeat' first
    | with_reducible assumption
    | with_reducible apply State.msix_only
    | with_reducible apply Only.ite

theorem loseTile_only {P : List Part} {o₀ : State} {s : State} (h₀ : Only P o₀ s) (hp : [.elems, .runs, .calRuns, .links] ⊆ P) (t : Nat) :
    Only P o₀ (loseTile s t) := by
  unfold loseTile
  repeat' first
    | with_reducible assumption
    | ((with_reducible refine List.Subset.trans ?_ hp); decide)
    | with_reducible apply State.modLink_only
    | with_reducible apply loseCalRuns_only
    | with_reducible apply endRuns_only

theorem releaseTiles_only {P : List Part} {o₀ : State} {s : State} (h₀ : Only P o₀ s) (hp : [.out, .elems, .runs, .calRuns, .links] ⊆ P) (ts : List Nat) :
    Only P o₀ (releaseTiles s ts) := by
  unfold releaseTiles
  repeat' first
    | with_reducible assumption
    | ((with_reducible refine List.Subset.trans ?_ hp); decide)
    | with_reducible apply State.down_only
    | with_reducible apply loseTile_only
    | with_reducible apply Only.ite
    | with_reducible apply Only.foldl
    | intro s1 x1 h1

theorem sendRole_only {P : List Part} {o₀ : State} {s : State} (h₀ : Only P o₀ s) (hp : [.out] ⊆ P) (step : Nat) (ret : Bool) :
    Only P o₀ (sendRole s step ret) := by
  unfold sendRole
  repeat' first
    | with_reducible assumption
    | with_reducible apply State.emit_only

theorem handoverStep_only {P : List Part} {o₀ : State} {s : State} (h₀ : Only P o₀ s) (hp : [.out, .elems, .runs, .calRuns, .links, .handover] ⊆ P)  :
    Only P o₀ (handoverStep s) := by
  unfold handoverStep
  repeat' first
    | with_reducible assumption
    | ((with_reducible refine List.Subset.trans ?_ hp); decide)
    | with_reducible apply releaseTiles_only
    | with_reducible apply sendRole_only
    | with_reducible apply Only.ite
    | with_reducible apply Only.foldl
    | intro s1 x1 h1
    | dsimp only
    | split
    | ((with_reducible apply Only.set_mate); (with_reducible exact .inr rfl); exact .inl (hp (by decide)); (with_reducible exact .inr ⟨rfl, rfl, rfl⟩))

theorem recordTouch_only {P : List Part} {o₀ : State} {s : State} (h₀ : Only P o₀ s) (hp : [.digest] ⊆ P)  :
    Only P o₀ (recordTouch s) := by
  unfold recordTouch
  repeat' first
    | with_reducible assumption
    | with_reducible apply Only.ite
    | with_reducible apply Only.foldl
    | intro s1 x1 h1
    | dsimp only
    | ((with_reducible apply Only.set_chip); (with_reducible exact .inr rfl); (with_reducible exact .inr rfl); exact .inl (hp (by decide)))

theorem sendMirror_only {P : List Part} {o₀ : State} {s : State} (h₀ : Only P o₀ s) (hp : [.out, .mirror] ⊆ P) (r : List Nat) :
    Only P o₀ (sendMirror s r) := by
  unfold sendMirror
  repeat' first
    | with_reducible assumption
    | ((with_reducible refine List.Subset.trans ?_ hp); decide)
    | with_reducible apply State.emit_only
    | with_reducible apply Only.ite
    | with_reducible apply Only.foldl
    | intro s1 x1 h1
    | dsimp only
    | ((with_reducible apply Only.set_mate); (with_reducible exact .inr rfl); (with_reducible exact .inr rfl); exact .inl (hp (by decide)))

theorem mirrorTouch_only {P : List Part} {o₀ : State} {s : State} (h₀ : Only P o₀ s) (hp : [.out, .mirror] ⊆ P) (s0 : State) :
    Only P o₀ (mirrorTouch s0 s) := by
  unfold mirrorTouch
  repeat' first
    | with_reducible assumption
    | with_reducible apply sendMirror_only
    | with_reducible apply Only.ite
    | with_reducible apply Only.foldl
    | intro s1 x1 h1
    | dsimp only
    | ((with_reducible apply Only.set_mate); (with_reducible exact .inr rfl); (with_reducible exact .inr rfl); exact .inl (hp (by decide)))

theorem regionNotify_only {P : List Part} {o₀ : State} {s : State} (h₀ : Only P o₀ s) (hp : [.out, .irq] ⊆ P) (s0 : State) :
    Only P o₀ (regionNotify s0 s) := by
  unfold regionNotify
  repeat' first
    | with_reducible assumption
    | with_reducible apply State.msix_only
    | with_reducible apply Only.ite
    | with_reducible apply Only.foldl
    | intro s1 x1 h1

theorem resumeStep_only {P : List Part} {o₀ : State} {s : State} (h₀ : Only P o₀ s) (hp : [.resumes, .issues, .regions] ⊆ P)  :
    Only P o₀ (resumeStep s) := by
  unfold resumeStep
  repeat' first
    | with_reducible assumption
    | ((with_reducible refine List.Subset.trans ?_ hp); decide)
    | with_reducible apply endResuming_only
    | with_reducible apply State.complete_only
    | with_reducible apply Only.ite
    | with_reducible apply Only.foldl
    | intro s1 x1 h1
    | dsimp only
    | ((with_reducible apply Only.set_faults); (with_reducible exact .inr rfl); (with_reducible exact .inr rfl); exact .inl (hp (by decide)))

theorem timeNotify_only {P : List Part} {o₀ : State} {s : State} (h₀ : Only P o₀ s) (hp : [.out, .irq] ⊆ P) (s0 : State) :
    Only P o₀ (timeNotify s0 s) := by
  unfold timeNotify
  repeat' first
    | with_reducible assumption
    | with_reducible apply State.msix_only
    | with_reducible apply Only.ite

theorem after_only {P : List Part} {o₀ : State} {s : State} (h₀ : Only P o₀ s) (hp : [.out, .resumes, .irq, .issues, .regions, .elems, .runs, .calRuns, .links, .handover, .mirror, .digest] ⊆ P) (s0 : State) :
    Only P o₀ (after s0 s) := by
  unfold after
  repeat' first
    | with_reducible assumption
    | ((with_reducible refine List.Subset.trans ?_ hp); decide)
    | with_reducible apply mirrorTouch_only
    | with_reducible apply digestTouch_only
    | with_reducible apply recordTouch_only
    | with_reducible apply resumeStep_only
    | with_reducible apply handoverStep_only
    | with_reducible apply State.lsuNotify_only
    | with_reducible apply regionNotify_only
    | with_reducible apply mateNotify_only
    | with_reducible apply peerNotify_only
    | with_reducible apply timeNotify_only

end Sys2Proof.Safety
end

