-- ==== Sys2Proof/Laws/After.lean ====
section
/-! SUPPORT. What follows a command (`after`): the fields that it never writes, and, with no HANDOVER and no RESUME_REGION
in progress, that it writes the background alone. -/

set_option Elab.async false

namespace Sys2Proof.Safety

open Sys2Proof.Machine

theorem ok_next (s0 s : State) : ok s0 s = .next (after s0 s) := rfl

theorem mainRow_run {s : State} (h : s.chip.mainRun = true) (f : State → State) :
    mainRow s f = .next (after s (f s)) := by simp only [mainRow, h, if_pos, ok_next]

theorem mainRow_down {s : State} (h : s.chip.mainRun = false) (f : State → State) : mainRow s f = .next s := by
  simp only [mainRow, h, Bool.false_eq_true, if_neg, not_false_eq_true]

theorem handoverStep_idle {s : State} (h : s.mate.handover = .none) : handoverStep s = s := by
  unfold handoverStep
  rw [h]
  split <;> rfl

theorem resumeStep_idle {s : State} (h : s.faults.resumes = []) : resumeStep s = s := by
  unfold resumeStep
  rw [h]
  rfl

/-- With no step of HANDOVER or RESUME_REGION, what follows a command stays in the background. -/
theorem after_quiet {P : List Part} {o s : State} (h : Only P o s) (hp : background ⊆ P) (hh : s.mate.handover = .none)
    (hr : s.faults.resumes = []) (s0 : State) : Only P o (after s0 s) := by
  unfold after
  rw [handoverStep_idle hh, resumeStep_idle hr]
  have sub : ∀ {l : List Part}, l ⊆ background → l ⊆ P := fun hl => List.Subset.trans hl hp
  refine State.lsuNotify_only (regionNotify_only (mateNotify_only (peerNotify_only (timeNotify_only (mirrorTouch_only
    (digestTouch_only (recordTouch_only h (sub (by decide))) (sub (by decide)) s0) (sub (by decide)) s0) (sub (by decide)) s0)
    (sub (by decide)) s0) (sub (by decide)) s0) (sub (by decide)) s0) (sub (by decide)) _

/-- The frame of a command that touches neither the progress of a HANDOVER nor RESUME_REGION verbs. -/
theorem after_frame {P : List Part} {o s : State} (h : Only P o s) (hq : Quiet o) (hh : .handover ∉ P) (hr : .resumes ∉ P)
    (s0 : State) : Only (P ++ background) o (after s0 s) :=
  after_quiet (h.mono (List.subset_append_left ..)) (List.subset_append_right ..) ((h .handover hh).trans hq.1)
    ((h .resumes hr).trans hq.2) s0

/-- The frame of any other command. -/
theorem after_frame_all {P : List Part} {o s : State} (h : Only P o s)
    (hp : [.out, .resumes, .irq, .issues, .regions, .elems, .runs, .calRuns, .links, .handover, .mirror, .digest] ⊆ P)
    (s0 : State) : Only (P ++ background) o (after s0 s) :=
  (after_only h hp s0).mono (List.subset_append_left ..)

/-- What follows a command never writes these parts. -/
theorem after_same (s0 s : State) {p : Part}
    (hp : p ∈ [Part.pending, .faults, .free, .dt, .time, .errLevel, .owed, .comma, .store, .adm, .mem, .matrix, .lsu, .house, .hostOps,
      .loops, .smu, .calib, .tiles, .chip, .otp, .host]) : p.same s (after s0 s) :=
  after_only (P := [.out, .resumes, .irq, .issues, .regions, .elems, .runs, .calRuns, .links,
    .handover, .mirror, .digest]) (Only.refl _ s) (by decide) s0 p (by revert p; decide)

@[simp] theorem after_pending (s0 s : State) : (after s0 s).pending = s.pending := after_same s0 s (p := .pending) (by decide)
@[simp] theorem after_free (s0 s : State) : (after s0 s).free = s.free := after_same s0 s (p := .free) (by decide)
@[simp] theorem after_dt (s0 s : State) : (after s0 s).dt = s.dt := after_same s0 s (p := .dt) (by decide)
@[simp] theorem after_time (s0 s : State) : (after s0 s).time = s.time := after_same s0 s (p := .time) (by decide)
@[simp] theorem after_comma (s0 s : State) : (after s0 s).comma = s.comma := after_same s0 s (p := .comma) (by decide)
@[simp] theorem after_store (s0 s : State) : (after s0 s).store = s.store := after_same s0 s (p := .store) (by decide)
@[simp] theorem after_adm (s0 s : State) : (after s0 s).adm = s.adm := after_same s0 s (p := .adm) (by decide)
@[simp] theorem after_mem (s0 s : State) : (after s0 s).mem = s.mem := after_same s0 s (p := .mem) (by decide)
@[simp] theorem after_matrix (s0 s : State) : (after s0 s).matrix = s.matrix := after_same s0 s (p := .matrix) (by decide)
@[simp] theorem after_lsu (s0 s : State) : (after s0 s).lsu = s.lsu := after_same s0 s (p := .lsu) (by decide)
@[simp] theorem after_house (s0 s : State) : (after s0 s).house = s.house := after_same s0 s (p := .house) (by decide)
@[simp] theorem after_hostOps (s0 s : State) : (after s0 s).hostOps = s.hostOps := after_same s0 s (p := .hostOps) (by decide)
@[simp] theorem after_tiles (s0 s : State) : (after s0 s).paost.tiles = s.paost.tiles := after_same s0 s (p := .tiles) (by decide)
@[simp] theorem after_otp (s0 s : State) : (after s0 s).chip.otp = s.chip.otp := after_same s0 s (p := .otp) (by decide)
@[simp] theorem after_errLevel (s0 s : State) : (after s0 s).faults.errLevel = s.faults.errLevel := after_same s0 s (p := .errLevel) (by decide)
@[simp] theorem after_owed (s0 s : State) : (after s0 s).host.owed = s.host.owed := after_same s0 s (p := .owed) (by decide)

/-- Beside runs of its lists, what follows a command leaves the SMU engine as it was. -/
theorem after_smu (s0 s : State) : { (after s0 s).smu with runs := [], ssRun := none } = { s.smu with runs := [], ssRun := none } :=
  after_same s0 s (p := .smu) (by decide)

theorem after_calib (s0 s : State) : { (after s0 s).calib with runs := [], batches := [] } = { s.calib with runs := [], batches := [] } :=
  after_same s0 s (p := .calib) (by decide)

theorem after_loops (s0 s : State) : { (after s0 s).loops with elems := [] } = { s.loops with elems := [] } :=
  after_same s0 s (p := .loops) (by decide)

theorem after_host (s0 s : State) : { (after s0 s).host with msixPending := [], issues := [], owed := [] } =
    { s.host with msixPending := [], issues := [], owed := [] } := after_same s0 s (p := .host) (by decide)

end Sys2Proof.Safety
end

