-- ==== Sys2Proof/Laws/OnlyMeters.lean ====
section
/-! SUPPORT. What the functions of `Machine/Meters.lean` may write: one lemma each. -/

set_option Elab.async false

namespace Sys2Proof.Safety

open Sys2Proof.Machine

theorem State.setMeter_only {P : List Part} {o₀ : State} {s : State} (h₀ : Only P o₀ s) (hp : [.adm] ⊆ P) (src : Nat) (cls : Nat) (m : Meter) :
    Only P o₀ (State.setMeter s src cls m) := by
  unfold State.setMeter
  repeat' first
    | with_reducible assumption
    | with_reducible apply Only.ite
    | with_reducible apply Only.foldl
    | intro s1 x1 h1
    | dsimp only
    | ((with_reducible apply Only.set_adm); exact hp (by decide))

theorem State.colour_only {P : List Part} {o₀ : State} {s : State} (h₀ : Only P o₀ s) (hp : [.adm] ⊆ P) (src : Source) (cls : Nat) :
    Only P o₀ (State.colour s src cls).2 := by
  unfold State.colour
  repeat' first
    | with_reducible assumption
    | with_reducible apply State.setMeter_only

end Sys2Proof.Safety
end

