-- ==== Sys2Proof/Laws/OnlyAdmission.lean ====
section
/-! SUPPORT. What the functions of `Machine/Admission.lean` may write: one lemma each. -/

set_option Elab.async false

namespace Sys2Proof.Safety

open Sys2Proof.Machine

theorem applyMeters_only {P : List Part} {o₀ : State} {s : State} (h₀ : Only P o₀ s) (hp : [.adm] ⊆ P)  :
    Only P o₀ (applyMeters s) := by
  unfold applyMeters
  repeat' first
    | with_reducible assumption
    | with_reducible apply State.setMeter_only
    | with_reducible apply Only.ite
    | with_reducible apply Only.foldl
    | intro s1 x1 h1
    | dsimp only
    | ((with_reducible apply Only.set_adm); exact hp (by decide))

theorem clearTelMax_only {P : List Part} {o₀ : State} {s : State} (h₀ : Only P o₀ s) (hp : [.adm] ⊆ P)  :
    Only P o₀ (clearTelMax s) := by
  unfold clearTelMax
  repeat' first
    | with_reducible assumption
    | with_reducible apply Only.ite
    | with_reducible apply Only.foldl
    | intro s1 x1 h1
    | dsimp only
    | ((with_reducible apply Only.set_adm); exact hp (by decide))

theorem sampleSource_only {P : List Part} {o₀ : State} {s : State} (h₀ : Only P o₀ s) (hp : [.out, .irq, .adm] ⊆ P) (k : Nat) :
    Only P o₀ (sampleSource s k) := by
  unfold sampleSource
  repeat' first
    | with_reducible assumption
    | ((with_reducible refine List.Subset.trans ?_ hp); decide)
    | with_reducible apply State.msix_only
    | with_reducible apply Only.ite
    | with_reducible apply Only.foldl
    | intro s1 x1 h1
    | dsimp only
    | ((with_reducible apply Only.set_adm); exact hp (by decide))

theorem meterWrite_only {P : List Part} {o₀ : State} {s : State} (h₀ : Only P o₀ s) (hp : [.adm] ⊆ P) (reg : Nat) (value : Word32) :
    Only P o₀ (meterWrite s reg value) := by
  unfold meterWrite
  repeat' first
    | with_reducible assumption
    | with_reducible apply Only.ite
    | with_reducible apply Only.foldl
    | intro s1 x1 h1
    | dsimp only
    | ((with_reducible apply Only.set_adm); exact hp (by decide))

theorem arrive_only {P : List Part} {o₀ : State} {s : State} (h₀ : Only P o₀ s) (hp : [.issues, .adm] ⊆ P) (src : Source) (e : Entry) :
    Only P o₀ (arrive s src e) := by
  unfold arrive
  repeat' first
    | with_reducible assumption
    | ((with_reducible refine List.Subset.trans ?_ hp); decide)
    | with_reducible apply State.colour_only
    | with_reducible apply Only.ite
    | with_reducible apply Only.foldl
    | intro s1 x1 h1
    | dsimp only
    | split
    | ((with_reducible apply Only.set_host); (with_reducible exact .inr rfl); (with_reducible exact .inr rfl); exact .inl (hp (by decide)); (with_reducible exact .inr rfl))

theorem fillMeters_only {P : List Part} {o₀ : State} {s : State} (h₀ : Only P o₀ s) (hp : [.adm] ⊆ P) (src : Nat) :
    Only P o₀ (fillMeters s src) := by
  unfold fillMeters
  repeat' first
    | with_reducible assumption
    | with_reducible apply State.setMeter_only
    | with_reducible apply Only.ite
    | with_reducible apply Only.foldl
    | intro s1 x1 h1

end Sys2Proof.Safety
end

