-- ==== Sys2Proof/Laws/OnlyOperands.lean ====
section
/-! SUPPORT. What the functions of `Machine/Operands.lean` may write: one lemma each. -/

set_option Elab.async false

namespace Sys2Proof.Safety

open Sys2Proof.Machine

theorem State.fail_only {P : List Part} {o₀ : State} {s : State} (h₀ : Only P o₀ s) (hp : [.issues] ⊆ P) (h : Hdr) (op : Nat) (status : Nat) :
    Only P o₀ (State.fail s h op status) := by
  unfold State.fail
  repeat' first
    | with_reducible assumption
    | with_reducible apply State.complete_only

end Sys2Proof.Safety
end

