-- ==== Sys2Proof/Laws/OnlyDalovo.lean ====
section
/-! SUPPORT. What the functions of `Machine/Dalovo.lean` may write: one lemma each. -/

set_option Elab.async false

namespace Sys2Proof.Safety

open Sys2Proof.Machine

theorem peerLost_only {P : List Part} {o₀ : State} {s : State} (h₀ : Only P o₀ s) (hp : [.adm] ⊆ P) (p : Nat) :
    Only P o₀ (peerLost s p) := by
  unfold peerLost
  repeat' first
    | with_reducible assumption
    | with_reducible apply State.setPeer_only

theorem frameReport_only {P : List Part} {o₀ : State} {s : State} (h₀ : Only P o₀ s) (hp : [.owed] ⊆ P) (f : UserFrame) (status : Nat) (t : Int) :
    Only P o₀ (frameReport s f status t) := by
  unfold frameReport
  repeat' first
    | with_reducible assumption
    | with_reducible apply State.event_only

theorem closeSession_only {P : List Part} {o₀ : State} {s : State} (h₀ : Only P o₀ s) (hp : [.out, .owed, .adm] ⊆ P) (p : Nat) (reason : Nat) (tell : Bool) :
    Only P o₀ (closeSession s p reason tell) := by
  unfold closeSession
  repeat' first
    | with_reducible assumption
    | ((with_reducible refine List.Subset.trans ?_ hp); decide)
    | with_reducible apply State.emit_only
    | with_reducible apply frameReport_only
    | with_reducible apply State.setPeer_only
    | with_reducible apply Only.ite
    | with_reducible apply Only.foldl
    | intro s1 x1 h1
    | dsimp only
    | ((with_reducible apply Only.set_adm); exact hp (by decide))

theorem tagFailed_only {P : List Part} {o₀ : State} {s : State} (h₀ : Only P o₀ s) (hp : [.out, .owed, .adm] ⊆ P) (p : Nat) (b : Bool) :
    Only P o₀ (tagFailed s p b) := by
  unfold tagFailed
  repeat' first
    | with_reducible assumption
    | ((with_reducible refine List.Subset.trans ?_ hp); decide)
    | with_reducible apply State.setPeer_only
    | with_reducible apply closeSession_only
    | with_reducible apply Only.ite

theorem acceptFrame_only {P : List Part} {o₀ : State} {s : State} (h₀ : Only P o₀ s) (hp : [.out, .owed, .adm] ⊆ P) (h : DvHead) :
    Only P o₀ (acceptFrame s h).2 := by
  unfold acceptFrame
  repeat' first
    | with_reducible assumption
    | ((with_reducible refine List.Subset.trans ?_ hp); decide)
    | with_reducible apply peerLost_only
    | with_reducible apply tagFailed_only
    | with_reducible apply State.setPeer_only
    | with_reducible apply closeSession_only
    | with_reducible apply Only.ite
    | with_reducible apply Only.foldl
    | with_reducible apply Only.ite_fst
    | with_reducible apply Only.ite_snd
    | with_reducible apply Only.foldl_fst
    | intro s1 x1 h1
    | dsimp only
    | split
    | ((with_reducible apply Only.set_adm); exact hp (by decide))

theorem handshake_only {P : List Part} {o₀ : State} {s : State} (h₀ : Only P o₀ s) (hp : [.adm] ⊆ P) (p : Nat) (port : Nat) (init : Bool) (f : Peer → Peer) :
    Only P o₀ (handshake s p port init f) := by
  unfold handshake
  repeat' first
    | with_reducible assumption
    | with_reducible apply State.setPeer_only

theorem queueFrame_only {P : List Part} {o₀ : State} {s : State} (h₀ : Only P o₀ s) (hp : [.issues, .adm] ⊆ P) (h : Hdr) (peer : Nat) (timed : Option (Int × Nat)) (payload : List Byte) :
    Only P o₀ (queueFrame s h peer timed payload) := by
  unfold queueFrame
  repeat' first
    | with_reducible assumption
    | ((with_reducible refine List.Subset.trans ?_ hp); decide)
    | with_reducible apply State.fail_only
    | with_reducible apply State.setPeer_only
    | with_reducible apply State.complete_only
    | with_reducible apply Only.ite
    | with_reducible apply Only.foldl
    | intro s1 x1 h1
    | dsimp only
    | ((with_reducible apply Only.set_adm); exact hp (by decide))

theorem sessionUp_only {P : List Part} {o₀ : State} {s : State} (h₀ : Only P o₀ s) (hp : [.adm] ⊆ P) (p : Nat) :
    Only P o₀ (sessionUp s p) := by
  unfold sessionUp
  repeat' first
    | with_reducible assumption
    | with_reducible apply fillMeters_only
    | with_reducible apply State.setPeer_only

theorem freeSlots_only {P : List Part} {o₀ : State} {s : State} (h₀ : Only P o₀ s) (hp : [.adm] ⊆ P) (value : Word32) :
    Only P o₀ (freeSlots s value) := by
  unfold freeSlots
  repeat' first
    | with_reducible assumption
    | with_reducible apply Only.ite
    | with_reducible apply Only.foldl
    | intro s1 x1 h1
    | dsimp only
    | ((with_reducible apply Only.set_adm); exact hp (by decide))

theorem authFailed_only {P : List Part} {o₀ : State} {s : State} (h₀ : Only P o₀ s) (hp : [.adm] ⊆ P) (p : Nat) :
    Only P o₀ (authFailed s p) := by
  unfold authFailed
  repeat' first
    | with_reducible assumption
    | with_reducible apply State.setPeer_only

theorem dropFrame_only {P : List Part} {o₀ : State} {s : State} (h₀ : Only P o₀ s) (hp : [.adm] ⊆ P) (f : UserFrame) :
    Only P o₀ (dropFrame s f) := by
  unfold dropFrame
  repeat' first
    | with_reducible assumption
    | with_reducible apply Only.ite
    | with_reducible apply Only.foldl
    | intro s1 x1 h1
    | dsimp only
    | ((with_reducible apply Only.set_adm); exact hp (by decide))

theorem takeSafety_only {P : List Part} {o₀ : State} {s : State} (h₀ : Only P o₀ s) (hp : [.lsu] ⊆ P) (b : BitVec 160) :
    Only P o₀ (takeSafety s b) := by
  unfold takeSafety
  repeat' first
    | with_reducible assumption
    | with_reducible apply State.setRc_only
    | with_reducible apply Only.ite
    | with_reducible apply Only.foldl
    | intro s1 x1 h1
    | dsimp only
    | split
    | ((with_reducible apply Only.set_lsu); exact hp (by decide))

theorem sendSealed_only {P : List Part} {o₀ : State} {s : State} (h₀ : Only P o₀ s) (hp : [.out, .owed, .adm] ⊆ P) (p : Nat) (name : String) (body : List Byte) :
    Only P o₀ (sendSealed s p name body) := by
  unfold sendSealed
  repeat' first
    | with_reducible assumption
    | ((with_reducible refine List.Subset.trans ?_ hp); decide)
    | with_reducible apply peerLost_only
    | with_reducible apply State.emit_only
    | with_reducible apply State.setPeer_only
    | with_reducible apply closeSession_only
    | with_reducible apply Only.ite

theorem sendFrame_only {P : List Part} {o₀ : State} {s : State} (h₀ : Only P o₀ s) (hp : [.out, .adm] ⊆ P) (f : UserFrame) :
    Only P o₀ (sendFrame s f) := by
  unfold sendFrame
  repeat' first
    | with_reducible assumption
    | ((with_reducible refine List.Subset.trans ?_ hp); decide)
    | with_reducible apply State.emit_only
    | with_reducible apply dropFrame_only

end Sys2Proof.Safety
end

