-- ==== Sys2Proof/Laws/OnlyCollector.lean ====
section
/-! SUPPORT. What the functions of `Machine/Collector.lean` may write: one lemma each. -/

set_option Elab.async false

namespace Sys2Proof.Safety

open Sys2Proof.Machine

theorem countUncleared_errLevel (u : Faults) (v : Nat) : (countUncleared u v).errLevel = u.errLevel := by
  unfold countUncleared; split <;> rfl

theorem countUncleared_resumes (u : Faults) (v : Nat) : (countUncleared u v).resumes = u.resumes := by
  unfold countUncleared; split <;> rfl

theorem uncountCleared_errLevel (u : Faults) (v : Nat) : (uncountCleared u v).errLevel = u.errLevel := by
  unfold uncountCleared; split <;> rfl

theorem uncountCleared_resumes (u : Faults) (v : Nat) : (uncountCleared u v).resumes = u.resumes := by
  unfold uncountCleared; split <;> rfl

theorem uncountAll_errLevel (l : List Nat) (u : Faults) : (l.foldl uncountCleared u).errLevel = u.errLevel := by
  induction l generalizing u with
  | nil => rfl
  | cons v l ih => exact (ih _).trans (uncountCleared_errLevel u v)

theorem uncountAll_resumes (l : List Nat) (u : Faults) : (l.foldl uncountCleared u).resumes = u.resumes := by
  induction l generalizing u with
  | nil => rfl
  | cons v l ih => exact (ih _).trans (uncountCleared_resumes u v)

theorem loseRecord_errLevel (u : Faults) (f : FaultRec) : (loseRecord u f).errLevel = u.errLevel := by
  unfold loseRecord; split <;> rfl

theorem loseRecord_resumes (u : Faults) (f : FaultRec) : (loseRecord u f).resumes = u.resumes := by
  unfold loseRecord; split <;> rfl

theorem makeRoom_errLevel (u : Faults) (b : Bool) : (makeRoom u b).errLevel = u.errLevel := by
  unfold makeRoom; repeat' (first | rfl | (rw [loseRecord_errLevel]) | split)

theorem makeRoom_resumes (u : Faults) (b : Bool) : (makeRoom u b).resumes = u.resumes := by
  unfold makeRoom; repeat' (first | rfl | (rw [loseRecord_resumes]) | split)

theorem writeRecord_errLevel (u : Faults) (b : Bool) (f : FaultRec) : (writeRecord u b f).errLevel = u.errLevel :=
  makeRoom_errLevel u b

theorem writeRecord_resumes (u : Faults) (b : Bool) (f : FaultRec) : (writeRecord u b f).resumes = u.resumes :=
  makeRoom_resumes u b

theorem recordAon_only {P : List Part} {o₀ s : State} (h₀ : Only P o₀ s) (hp : [.faults] ⊆ P) (r : Report) (sev : Nat)
    (simul : Bool) : Only P o₀ (recordAon s r sev simul) :=
  Only.set_faults (.inl (hp (by decide))) (.inr (countUncleared_errLevel ..)) (.inr (countUncleared_resumes ..)) h₀

theorem recordNew_only {P : List Part} {o₀ s : State} (h₀ : Only P o₀ s) (hp : [.out, .faults, .irq, .loops] ⊆ P)
    (r : Report) (sev : Nat) (simul inj : Bool) : Only P o₀ (recordNew s r sev simul inj) := by
  have hf : ∀ (f : FaultRec) (a : List FaultRec), Only P o₀ { s with faults := { writeRecord (countUncleared s.faults sev) (s.ddrReady && !s.loops.throttled) f with
      aonCopy := a } } := fun f a =>
    Only.set_faults (v := { writeRecord (countUncleared s.faults sev) (s.ddrReady && !s.loops.throttled) f with
      aonCopy := a }) (.inl (hp (by decide))) (.inr ((writeRecord_errLevel _ _ f).trans (countUncleared_errLevel _ sev)))
      (.inr ((writeRecord_resumes _ _ f).trans (countUncleared_resumes _ sev))) h₀
  have hj : ∀ (f : FaultRec) (a : List FaultRec) (j : Journal), Only P o₀ { s with
      faults := { writeRecord (countUncleared s.faults sev) (s.ddrReady && !s.loops.throttled) f with aonCopy := a }
      loops := { s.loops with journal := j } } := fun f a j =>
    Only.set_loops (v := { s.loops with journal := j })
      (b := { s with faults := { writeRecord (countUncleared s.faults sev) (s.ddrReady && !s.loops.throttled) f with aonCopy := a } })
      (.inl (hp (by decide))) (.inr rfl) (hf f a)
  unfold recordNew
  dsimp only
  with_reducible apply Only.ite
  · exact State.msix_only (hj _ _ _) (List.Subset.trans (by decide) hp) _
  · exact hj _ _ _

theorem enterSafeState_only {P : List Part} {o₀ : State} {s : State} (h₀ : Only P o₀ s) (hp : [.out, .faults, .irq, .elems, .runs, .calRuns, .links, .lsu, .house] ⊆ P) (q : Nat) :
    Only P o₀ (enterSafeState s q) := by
  unfold enterSafeState
  repeat' first
    | with_reducible assumption
    | ((with_reducible refine List.Subset.trans ?_ hp); decide)
    | with_reducible apply lsuSafeState_only
    | with_reducible apply abortPoints_only
    | with_reducible apply State.down_only
    | with_reducible apply loseCalRuns_only
    | with_reducible apply endRuns_only
    | with_reducible apply State.msix_only
    | with_reducible apply openToCal_only
    | with_reducible apply Only.ite
    | with_reducible apply Only.foldl
    | intro s1 x1 h1
    | dsimp only
    | ((with_reducible apply Only.set_faults); exact .inl (hp (by decide)); (with_reducible exact .inr rfl); (with_reducible exact .inr rfl))

theorem recordOne_only {P : List Part} {o₀ : State} {s : State} (h₀ : Only P o₀ s) (hp : [.out, .faults, .irq, .loops, .elems, .runs, .calRuns, .links, .lsu, .house] ⊆ P) (simul : Bool) (inj : Bool) (check : Bool) (r : Report) :
    Only P o₀ (recordOne s simul inj check r) := by
  unfold recordOne
  repeat' first
    | with_reducible assumption
    | ((with_reducible refine List.Subset.trans ?_ hp); decide)
    | with_reducible apply recordNew_only
    | with_reducible apply enterSafeState_only
    | with_reducible apply recordAon_only
    | with_reducible apply Only.ite
    | with_reducible apply Only.foldl
    | intro s1 x1 h1
    | dsimp only
    | split
    | ((with_reducible apply Only.set_faults); exact .inl (hp (by decide)); (with_reducible exact .inr rfl); (with_reducible exact .inr rfl))

theorem recordReports_only {P : List Part} {o₀ : State} {s : State} (h₀ : Only P o₀ s) (hp : [.out, .faults, .irq, .loops, .elems, .runs, .calRuns, .links, .lsu, .house] ⊆ P) (rs : List Report) :
    Only P o₀ (recordReports s rs) := by
  unfold recordReports
  repeat' first
    | with_reducible assumption
    | with_reducible apply recordOne_only
    | with_reducible apply Only.ite
    | with_reducible apply Only.foldl
    | intro s1 x1 h1

theorem State.report_only {P : List Part} {o₀ : State} {s : State} (h₀ : Only P o₀ s) (hp : [.out, .faults, .irq, .loops, .elems, .runs, .calRuns, .links, .lsu, .house] ⊆ P) (code : Nat) (source : Nat) (d0 : optParam Nat 0) (d1 : optParam Nat 0) :
    Only P o₀ (State.report s code source d0 d1) := by
  unfold State.report
  repeat' first
    | with_reducible assumption
    | with_reducible apply recordReports_only

end Sys2Proof.Safety
end

