-- ==== Sys2Proof/Laws/OnlyMemory.lean ====
section
/-! SUPPORT. What the functions of `Machine/Memory.lean` may write: one lemma each. -/

set_option Elab.async false

namespace Sys2Proof.Safety

open Sys2Proof.Machine

theorem haltChan_only {P : List Part} {o₀ : State} {s : State} (h₀ : Only P o₀ s) (hp : [.out, .irq, .mem] ⊆ P) (ch : Nat) (i : Nat) (write : Bool) (cause : Nat) :
    Only P o₀ (haltChan s ch i write cause) := by
  unfold haltChan
  repeat' first
    | with_reducible assumption
    | ((with_reducible refine List.Subset.trans ?_ hp); decide)
    | with_reducible apply State.msix_only
    | with_reducible apply State.setChan_only

theorem dmaGo_only {P : List Part} {o₀ : State} {s : State} (h₀ : Only P o₀ s) (hp : [.out, .irq, .mem] ⊆ P) (ch : Nat) :
    Only P o₀ (dmaGo s ch) := by
  unfold dmaGo
  repeat' first
    | with_reducible assumption
    | ((with_reducible refine List.Subset.trans ?_ hp); decide)
    | with_reducible apply State.setChan_only
    | with_reducible apply haltChan_only
    | with_reducible apply Only.ite

theorem readDram_only {P : List Part} {o₀ : State} {s : State} (h₀ : Only P o₀ s) (hp : [.out, .faults, .irq, .loops, .elems, .runs, .calRuns, .links, .mem, .lsu, .house] ⊆ P) (u : Nat) :
    Only P o₀ (readDram s u) := by
  unfold readDram
  repeat' first
    | with_reducible assumption
    | ((with_reducible refine List.Subset.trans ?_ hp); decide)
    | with_reducible apply recordOne_only
    | with_reducible apply Only.ite
    | with_reducible apply Only.foldl
    | intro s1 x1 h1
    | dsimp only
    | split
    | ((with_reducible apply Only.set_mem); exact hp (by decide))

theorem dropChan_only {P : List Part} {o₀ : State} {s : State} (h₀ : Only P o₀ s) (hp : [.free, .mem, .matrix] ⊆ P) (ch : Nat) :
    Only P o₀ (dropChan s ch) := by
  unfold dropChan
  repeat' first
    | with_reducible assumption
    | with_reducible apply abortBurst_only
    | ((with_reducible refine List.Subset.trans ?_ hp); decide)
    | with_reducible apply State.draw_only
    | with_reducible apply State.setChan_only
    | with_reducible apply Only.ite
    | with_reducible apply Only.foldl
    | intro s1 x1 h1
    | dsimp only
    | ((with_reducible apply Only.set_mem); exact hp (by decide))

theorem dmaDisable_only {P : List Part} {o₀ : State} {s : State} (h₀ : Only P o₀ s) (hp : [.free, .mem, .matrix] ⊆ P) (ch : Nat) :
    Only P o₀ (dmaDisable s ch) := by
  unfold dmaDisable
  repeat' first
    | with_reducible assumption
    | ((with_reducible refine List.Subset.trans ?_ hp); decide)
    | with_reducible apply dropChan_only
    | with_reducible apply State.setChan_only

theorem dmaResume_only {P : List Part} {o₀ : State} {s : State} (h₀ : Only P o₀ s) (hp : [.mem] ⊆ P) (ch : Nat) :
    Only P o₀ (dmaResume s ch) := by
  unfold dmaResume
  repeat' first
    | with_reducible assumption
    | with_reducible apply State.setChan_only
    | with_reducible apply Only.ite

theorem dmaCtrl_only {P : List Part} {o₀ : State} {s : State} (h₀ : Only P o₀ s) (hp : [.out, .free, .irq, .mem, .matrix] ⊆ P) (ch : Nat) (value : Word32) :
    Only P o₀ (dmaCtrl s ch value) := by
  unfold dmaCtrl
  repeat' first
    | with_reducible assumption
    | ((with_reducible refine List.Subset.trans ?_ hp); decide)
    | with_reducible apply dmaDisable_only
    | with_reducible apply dmaResume_only
    | with_reducible apply State.setChan_only
    | with_reducible apply dmaGo_only
    | with_reducible apply Only.ite

theorem ownError_only {P : List Part} {o₀ : State} {s : State} (h₀ : Only P o₀ s) (hp : [.mem] ⊆ P)  :
    Only P o₀ (ownError s) := by
  unfold ownError
  repeat' first
    | with_reducible assumption
    | with_reducible apply Only.ite
    | with_reducible apply Only.foldl
    | intro s1 x1 h1
    | dsimp only
    | ((with_reducible apply Only.set_mem); exact hp (by decide))

theorem bankOwner_only {P : List Part} {o₀ : State} {s : State} (h₀ : Only P o₀ s) (hp : [.mem] ⊆ P) (b : Nat) (value : Word32) :
    Only P o₀ (bankOwner s b value) := by
  unfold bankOwner
  repeat' first
    | with_reducible assumption
    | with_reducible apply State.setBank_only
    | with_reducible apply ownError_only
    | with_reducible apply Only.ite

theorem dmaReg_only {P : List Part} {o₀ : State} {s : State} (h₀ : Only P o₀ s) (hp : [.mem] ⊆ P) (ch : Nat) (r : Nat) (value : Word32) :
    Only P o₀ (dmaReg s ch r value) := by
  unfold dmaReg
  repeat' first
    | with_reducible assumption
    | with_reducible apply State.setChan_only
    | with_reducible apply Only.ite

theorem powerError_only {P : List Part} {o₀ : State} {s : State} (h₀ : Only P o₀ s) (hp : [.mem] ⊆ P)  :
    Only P o₀ (powerError s) := by
  unfold powerError
  repeat' first
    | with_reducible assumption
    | with_reducible apply Only.ite
    | with_reducible apply Only.foldl
    | intro s1 x1 h1
    | dsimp only
    | ((with_reducible apply Only.set_mem); exact hp (by decide))

theorem readWord_only {P : List Part} {o₀ : State} {s : State} (h₀ : Only P o₀ s) (hp : [.out, .faults, .irq, .loops, .elems, .runs, .calRuns, .links, .mem, .lsu, .house] ⊆ P) (w : Nat) :
    Only P o₀ (readWord s w) := by
  unfold readWord
  repeat' first
    | with_reducible assumption
    | ((with_reducible refine List.Subset.trans ?_ hp); decide)
    | with_reducible apply State.setBank_only
    | with_reducible apply recordOne_only
    | with_reducible apply Only.ite
    | with_reducible apply Only.foldl
    | intro s1 x1 h1
    | dsimp only
    | split
    | ((with_reducible apply Only.set_mem); exact hp (by decide))

theorem wroteUnits_only {P : List Part} {o₀ : State} {s : State} (h₀ : Only P o₀ s) (hp : [.faults, .mem] ⊆ P) (us : List Nat) :
    Only P o₀ (wroteUnits s us) := by
  unfold wroteUnits
  repeat' first
    | with_reducible assumption
    | with_reducible apply Only.ite
    | with_reducible apply Only.foldl
    | intro s1 x1 h1
    | dsimp only
    | split
    | ((with_reducible apply Only.set_faults); exact .inl (hp (by decide)); (with_reducible exact .inr rfl); (with_reducible exact .inr rfl))
    | ((with_reducible apply Only.set_mem); exact hp (by decide))
    | ((with_reducible apply Only.mk); rotate_left; (intro p hn; cases p <;> (first | (with_reducible rfl) | exact absurd (hp (by decide)) hn | (with_reducible exact ⟨rfl, rfl⟩) | (with_reducible exact ⟨rfl, rfl, rfl⟩) | (with_reducible exact ⟨rfl, rfl, rfl, rfl⟩))))

theorem writeBanks_only {P : List Part} {o₀ : State} {s : State} (h₀ : Only P o₀ s) (hp : [.out, .faults, .irq, .loops, .elems, .runs, .calRuns, .links, .mem, .lsu, .house] ⊆ P) (a : Nat) (bs : List (Option Byte)) :
    Only P o₀ (writeBanks s a bs) := by
  unfold writeBanks
  repeat' first
    | with_reducible assumption
    | ((with_reducible refine List.Subset.trans ?_ hp); decide)
    | with_reducible apply readWord_only
    | with_reducible apply wroteUnits_only
    | with_reducible apply Only.ite
    | with_reducible apply Only.foldl
    | intro s1 x1 h1
    | dsimp only
    | ((with_reducible apply Only.set_mem); exact hp (by decide))

theorem dropAll_only {P : List Part} {o₀ : State} {s : State} (h₀ : Only P o₀ s) (hp : [.free, .mem, .matrix] ⊆ P)  :
    Only P o₀ (dropAll s) := by
  unfold dropAll
  repeat' first
    | with_reducible assumption
    | with_reducible apply dropChan_only
    | with_reducible apply Only.ite
    | with_reducible apply Only.foldl
    | intro s1 x1 h1

theorem dmaGlobal_only {P : List Part} {o₀ : State} {s : State} (h₀ : Only P o₀ s) (hp : [.free, .mem, .matrix] ⊆ P)  :
    Only P o₀ (dmaGlobal s) := by
  unfold dmaGlobal
  repeat' first
    | with_reducible assumption
    | with_reducible apply dropAll_only
    | with_reducible apply Only.ite
    | with_reducible apply Only.foldl
    | intro s1 x1 h1
    | dsimp only
    | ((with_reducible apply Only.set_mem); exact hp (by decide))

theorem bankInit_only {P : List Part} {o₀ : State} {s : State} (h₀ : Only P o₀ s) (hp : [.mem] ⊆ P) (b : Nat) :
    Only P o₀ (bankInit s b) := by
  unfold bankInit
  repeat' first
    | with_reducible assumption
    | with_reducible apply powerError_only
    | with_reducible apply State.setBank_only
    | with_reducible apply Only.ite

theorem bankCfg_only {P : List Part} {o₀ : State} {s0 : State} (h₀ : Only P o₀ s0) (hp : [.mem] ⊆ P) (b : Nat) (value : Word32) :
    Only P o₀ (bankCfg s0 b value) := by
  unfold bankCfg
  repeat' first
    | with_reducible assumption
    | with_reducible apply State.setBank_only
    | with_reducible apply powerError_only
    | with_reducible apply bankInit_only
    | with_reducible apply Only.ite

theorem drawBytes_only {P : List Part} {o₀ : State} (hp : [.free] ⊆ P) :
    ∀ {s : State} (_ : Only P o₀ s) (n : Nat), Only P o₀ (drawBytes s n).2
  | _, h₀, 0 => h₀
  | _, h₀, n + 1 => drawBytes_only hp (State.draw_only h₀ hp) n

theorem readElem_only {P : List Part} {o₀ : State} {s : State} (h₀ : Only P o₀ s) (hp : [.out, .faults, .irq, .loops, .elems, .runs, .calRuns, .links, .mem, .lsu, .house] ⊆ P) (c : DmaChan) (i : Nat) :
    Only P o₀ (readElem s c i) := by
  unfold readElem
  repeat' first
    | with_reducible assumption
    | with_reducible apply readWord_only
    | with_reducible apply readDram_only
    | with_reducible apply Only.ite
    | with_reducible apply Only.foldl
    | intro s1 x1 h1

theorem denied_only {P : List Part} {o₀ : State} {s : State} (h₀ : Only P o₀ s) (hp : [.host] ⊆ P)  :
    Only P o₀ (denied s) := by
  unfold denied
  repeat' first
    | with_reducible assumption
    | with_reducible apply Only.ite
    | with_reducible apply Only.foldl
    | intro s1 x1 h1
    | dsimp only
    | ((with_reducible apply Only.set_host); exact .inl (hp (by decide)); (with_reducible exact .inr rfl); (with_reducible exact .inr rfl); (with_reducible exact .inr rfl))

theorem moveElem_only {P : List Part} {o₀ : State} {s : State} (h₀ : Only P o₀ s) (hp : [.out, .free, .faults, .mem] ⊆ P) (c : DmaChan) (free : Bool) (host : List Byte) (i : Nat) :
    Only P o₀ (moveElem s c free host i) := by
  unfold moveElem
  repeat' first
    | with_reducible assumption
    | ((with_reducible refine List.Subset.trans ?_ hp); decide)
    | with_reducible apply State.emit_only
    | with_reducible apply drawBytes_only
    | with_reducible apply wroteUnits_only
    | with_reducible apply Only.ite
    | with_reducible apply Only.foldl
    | intro s1 x1 h1
    | dsimp only
    | split
    | ((with_reducible apply Only.set_mem); exact hp (by decide))

theorem noteHolds_only {P : List Part} {o₀ : State} {s : State} (h₀ : Only P o₀ s) (hp : [.matrix] ⊆ P) (ch : Nat) :
    Only P o₀ (noteHolds s ch) := by
  unfold noteHolds
  exact Only.set_matrix (hp (by decide)) h₀

theorem moveElems_only {P : List Part} {o₀ : State} (c : DmaChan) (free : Bool)
    (hp : [.out, .free, .faults, .irq, .loops, .elems, .runs, .calRuns, .links, .mem, .lsu, .house] ⊆ P) :
    ∀ {s : State} (_ : Only P o₀ s) (host : List Byte) (i n : Nat), Only P o₀ (moveElems c free s host i n).1
  | _, h₀, _, _, 0 => h₀
  | s, h₀, host, i, n + 1 => by
    have hr : Only P o₀ (if (decide (s.accessCause c false i = 0) && decide (s.accessCause c true i = 0)) = true then
        readElem s c i else s) := Only.ite (readElem_only h₀ (List.Subset.trans (by decide) hp) c i) h₀
    unfold moveElems
    dsimp only
    with_reducible apply Only.ite_fst
    · exact hr
    · with_reducible apply Only.ite_fst
      · exact hr
      · exact moveElems_only c free hp (moveElem_only hr (List.Subset.trans (by decide) hp) _ _ _ _) _ _ _

end Sys2Proof.Safety
end

