-- ==== Sys2Proof/Laws/OnlyLightSafety.lean ====
section
/-! SUPPORT. What the functions of `Machine/LightSafety.lean` may write: one lemma each. -/

set_option Elab.async false

namespace Sys2Proof.Safety

open Sys2Proof.Machine

theorem startBlock_only {P : List Part} {o₀ : State} {s : State} (h₀ : Only P o₀ s) (hp : [.lsu] ⊆ P)  :
    Only P o₀ (startBlock s) := by
  unfold startBlock
  repeat' first
    | with_reducible assumption
    | with_reducible apply State.setIlk_only
    | with_reducible apply State.setRc_only
    | with_reducible apply lenOff_only
    | with_reducible apply Only.ite
    | with_reducible apply Only.foldl
    | intro s1 x1 h1

theorem deliverBlock_only {P : List Part} {o₀ : State} {s : State} (h₀ : Only P o₀ s) (hp : [.lsu] ⊆ P) (b : SafetyBlock) :
    Only P o₀ (deliverBlock s b) := by
  unfold deliverBlock
  repeat' first
    | with_reducible assumption
    | with_reducible apply startBlock_only
    | with_reducible apply Only.ite
    | with_reducible apply Only.foldl
    | intro s1 x1 h1
    | dsimp only
    | ((with_reducible apply Only.set_lsu); exact hp (by decide))

theorem ilkTo_only {P : List Part} {o₀ : State} {s : State} (h₀ : Only P o₀ s) (hp : [.out, .faults, .irq, .loops, .elems, .runs, .calRuns, .links, .lsu, .house] ⊆ P) (i : Nat) (x : Ilk) (new : IlkState) :
    Only P o₀ (ilkTo s i x new) := by
  unfold ilkTo
  repeat' first
    | with_reducible assumption
    | ((with_reducible refine List.Subset.trans ?_ hp); decide)
    | with_reducible apply State.setIlk_only
    | with_reducible apply State.report_only
    | with_reducible apply Only.ite

theorem ackIlk_only {P : List Part} {o₀ : State} {s : State} (h₀ : Only P o₀ s) (hp : [.out, .faults, .irq, .loops, .elems, .runs, .calRuns, .links, .lsu, .house] ⊆ P) (i : Nat) :
    Only P o₀ (ackIlk s i) := by
  unfold ackIlk
  repeat' first
    | with_reducible assumption
    | with_reducible apply ilkTo_only
    | with_reducible apply Only.ite

theorem safeKey_only {P : List Part} {o₀ : State} {s : State} (h₀ : Only P o₀ s) (hp : [.lsu] ⊆ P) (value : Word32) :
    Only P o₀ (safeKey s value) := by
  unfold safeKey
  repeat' first
    | with_reducible assumption
    | with_reducible apply Only.ite
    | with_reducible apply Only.foldl
    | intro s1 x1 h1
    | dsimp only
    | ((with_reducible apply Only.set_lsu); exact hp (by decide))

theorem ackLen_only {P : List Part} {o₀ : State} {s : State} (h₀ : Only P o₀ s) (hp : [.lsu] ⊆ P) (s0 : State) (k : Nat) :
    Only P o₀ (ackLen s0 s k) := by
  unfold ackLen
  repeat' first
    | with_reducible assumption
    | with_reducible apply State.setLen_only

theorem latchCause_only {P : List Part} {o₀ : State} {s : State} (h₀ : Only P o₀ s) (hp : [.out, .faults, .irq, .loops, .elems, .runs, .calRuns, .links, .lsu, .house] ⊆ P) (k : Nat) (c : LenCause) (code : Nat) :
    Only P o₀ (latchCause s k c code) := by
  unfold latchCause
  repeat' first
    | with_reducible assumption
    | ((with_reducible refine List.Subset.trans ?_ hp); decide)
    | with_reducible apply State.setLen_only
    | with_reducible apply State.report_only
    | with_reducible apply lenOff_only
    | with_reducible apply Only.ite

theorem dropKey_only {P : List Part} {o₀ : State} {s : State} (h₀ : Only P o₀ s) (hp : [.lsu] ⊆ P)  :
    Only P o₀ (dropKey s) := by
  unfold dropKey
  repeat' first
    | with_reducible assumption
    | with_reducible apply Only.ite
    | with_reducible apply Only.foldl
    | intro s1 x1 h1
    | dsimp only
    | ((with_reducible apply Only.set_lsu); exact hp (by decide))

theorem lenForceOff_only {P : List Part} {o₀ : State} {s : State} (h₀ : Only P o₀ s) (hp : [.lsu] ⊆ P) (value : Word32) :
    Only P o₀ (lenForceOff s value) := by
  unfold lenForceOff
  repeat' first
    | with_reducible assumption
    | with_reducible apply State.setLen_only
    | with_reducible apply lenOff_only
    | with_reducible apply dropKey_only
    | with_reducible apply Only.ite
    | with_reducible apply Only.foldl
    | intro s1 x1 h1

theorem endPulse_only {P : List Part} {o₀ : State} {s : State} (h₀ : Only P o₀ s) (hp : [.out, .faults, .irq, .loops, .elems, .runs, .calRuns, .links, .lsu, .house] ⊆ P) (k : Nat) :
    Only P o₀ (endPulse s k) := by
  unfold endPulse
  repeat' first
    | with_reducible assumption
    | ((with_reducible refine List.Subset.trans ?_ hp); decide)
    | with_reducible apply State.setLen_only
    | with_reducible apply State.report_only
    | with_reducible apply Only.ite
    | with_reducible apply Only.foldl
    | intro s1 x1 h1
    | dsimp only
    | ((with_reducible apply Only.set_lsu); exact hp (by decide))

theorem safeCommit_only {P : List Part} {o₀ : State} {s : State} (h₀ : Only P o₀ s) (hp : [.lsu] ⊆ P) (value : Word32) :
    Only P o₀ (safeCommit s value) := by
  unfold safeCommit
  repeat' first
    | with_reducible assumption
    | with_reducible apply dropKey_only
    | with_reducible apply lenOff_only
    | with_reducible apply Only.ite
    | with_reducible apply Only.foldl
    | intro s1 x1 h1
    | dsimp only
    | ((with_reducible apply Only.set_lsu); exact hp (by decide))

theorem safeAck_only {P : List Part} {o₀ : State} {s : State} (h₀ : Only P o₀ s) (hp : [.out, .faults, .irq, .loops, .elems, .runs, .calRuns, .links, .lsu, .house] ⊆ P) (value : Word32) :
    Only P o₀ (safeAck s value) := by
  unfold safeAck
  repeat' first
    | with_reducible assumption
    | ((with_reducible refine List.Subset.trans ?_ hp); decide)
    | with_reducible apply ackIlk_only
    | with_reducible apply dropKey_only
    | with_reducible apply ackLen_only
    | with_reducible apply Only.ite
    | with_reducible apply Only.foldl
    | intro s1 x1 h1

theorem lsuFault_only {P : List Part} {o₀ : State} {s : State} (h₀ : Only P o₀ s) (hp : [.out, .faults, .irq, .loops, .elems, .runs, .calRuns, .links, .lsu, .house] ⊆ P) (detail : Nat) :
    Only P o₀ (lsuFault s detail) := by
  unfold lsuFault
  repeat' first
    | with_reducible assumption
    | ((with_reducible refine List.Subset.trans ?_ hp); decide)
    | with_reducible apply lenOff_only
    | with_reducible apply State.setLen_only
    | with_reducible apply State.report_only
    | with_reducible apply Only.ite
    | with_reducible apply Only.foldl
    | intro s1 x1 h1
    | dsimp only
    | ((with_reducible apply Only.set_lsu); exact hp (by decide))

theorem ilkFollow_only {P : List Part} {o₀ : State} {s : State} (h₀ : Only P o₀ s) (hp : [.out, .faults, .irq, .loops, .elems, .runs, .calRuns, .links, .lsu, .house] ⊆ P) (i : Nat) :
    Only P o₀ (ilkFollow s i) := by
  unfold ilkFollow
  repeat' first
    | with_reducible assumption
    | ((with_reducible refine List.Subset.trans ?_ hp); decide)
    | with_reducible apply State.setIlk_only
    | with_reducible apply ilkTo_only
    | with_reducible apply Only.ite
    | with_reducible apply Only.foldl
    | intro s1 x1 h1
    | dsimp only
    | split

theorem lenOn_only {P : List Part} {o₀ : State} {s : State} (h₀ : Only P o₀ s) (hp : [.lsu] ⊆ P) (k : Nat) :
    Only P o₀ (lenOn s k) := by
  unfold lenOn
  repeat' first
    | with_reducible assumption
    | with_reducible apply State.setLen_only

theorem lenStep_only {P : List Part} {o₀ : State} {s0 : State} (h₀ : Only P o₀ s0) (hp : [.out, .faults, .irq, .loops, .elems, .runs, .calRuns, .links, .lsu, .house] ⊆ P) (k : Nat) :
    Only P o₀ (lenStep s0 k) := by
  unfold lenStep
  repeat' first
    | with_reducible assumption
    | ((with_reducible refine List.Subset.trans ?_ hp); decide)
    | with_reducible apply endPulse_only
    | with_reducible apply lenOff_only
    | with_reducible apply lenOn_only
    | with_reducible apply latchCause_only
    | with_reducible apply Only.ite

end Sys2Proof.Safety
end

