-- ==== Sys2Proof/Laws/OnlyLaunching.lean ====
section
/-! SUPPORT. What the functions of `Machine/Launching.lean` may write: one lemma each. -/

set_option Elab.async false

namespace Sys2Proof.Safety

open Sys2Proof.Machine

theorem markStale_only {P : List Part} {o₀ : State} {s : State} (h₀ : Only P o₀ s) (hp : [.store] ⊆ P) (p : Nat → Sentence → Bool) :
    Only P o₀ (markStale s p) := by
  unfold markStale
  repeat' first
    | with_reducible assumption
    | with_reducible apply Only.ite
    | with_reducible apply Only.foldl
    | intro s1 x1 h1
    | dsimp only
    | ((with_reducible apply Only.set_store); exact hp (by decide))

theorem staleByElem_only {P : List Part} {o₀ : State} {s : State} (h₀ : Only P o₀ s) (hp : [.store] ⊆ P) (q : Nat → Bool) :
    Only P o₀ (staleByElem s q) := by
  unfold staleByElem
  repeat' first
    | with_reducible assumption
    | with_reducible apply markStale_only

theorem bumpEpoch_only {P : List Part} {o₀ : State} {s : State} (h₀ : Only P o₀ s) (hp : [.links] ⊆ P) (t : Nat) :
    Only P o₀ (bumpEpoch s t) := by
  unfold bumpEpoch
  repeat' first
    | with_reducible assumption
    | with_reducible apply State.modLink_only

theorem writeBlock_only {P : List Part} {o₀ : State} {s : State} (h₀ : Only P o₀ s) (hp : [.out] ⊆ P) (l : Launch) :
    Only P o₀ (writeBlock s l).1 := by
  unfold writeBlock
  repeat' first
    | with_reducible assumption
    | with_reducible apply State.emit_only
    | with_reducible apply Only.ite
    | with_reducible apply Only.foldl
    | with_reducible apply Only.ite_fst

theorem staleByToken_only {P : List Part} {o₀ : State} {s : State} (h₀ : Only P o₀ s) (hp : [.store] ⊆ P) (but : Nat) (t0 : Tab (Option Conn)) (t1 : Tab (Option Conn)) (acts : List Act) :
    Only P o₀ (staleByToken s but t0 t1 acts) := by
  unfold staleByToken
  repeat' first
    | with_reducible assumption
    | with_reducible apply markStale_only

theorem slotFrames_only {P : List Part} {o₀ : State} (hp : [.out, .links] ⊆ P) (t : Nat) :
    ∀ {s : State} (_ : Only P o₀ s) (l : List (Nat × Nat)), Only P o₀ (slotFrames s t l)
  | _, h₀, [] => h₀
  | _, h₀, [_] => State.down_only h₀ (List.Subset.trans (by decide) hp) _ _ _
  | _, h₀, _ :: _ :: r => slotFrames_only hp t (State.down_only h₀ (List.Subset.trans (by decide) hp) _ _ _) r

theorem dropLaunch_only {P : List Part} {o₀ : State} {s : State} (h₀ : Only P o₀ s) (hp : [.store] ⊆ P) (serial : Serial) :
    Only P o₀ (dropLaunch s serial) := by
  unfold dropLaunch
  repeat' first
    | with_reducible assumption
    | with_reducible apply Only.ite
    | with_reducible apply Only.foldl
    | intro s1 x1 h1
    | dsimp only
    | ((with_reducible apply Only.set_store); exact hp (by decide))

theorem State.addPrep_only {P : List Part} {o₀ : State} {s : State} (h₀ : Only P o₀ s) (hp : [.store] ⊆ P) (handle : Nat) (trigger : Trigger) (opts : LaunchOpts) :
    Only P o₀ (State.addPrep s handle trigger opts) := by
  unfold State.addPrep
  repeat' first
    | with_reducible assumption
    | with_reducible apply Only.ite
    | with_reducible apply Only.foldl
    | intro s1 x1 h1
    | dsimp only
    | ((with_reducible apply Only.set_store); exact hp (by decide))

theorem finishSentence_only {P : List Part} {o₀ : State} {s : State} (h₀ : Only P o₀ s) (hp : [.store] ⊆ P) (l : Launch) (fire : Bool) :
    Only P o₀ (finishSentence s l fire) := by
  unfold finishSentence
  repeat' first
    | with_reducible assumption
    | with_reducible apply State.addPrep_only
    | with_reducible apply State.setSent_only
    | with_reducible apply Only.ite

theorem moveEvents_only {P : List Part} {o₀ : State} {s : State} (h₀ : Only P o₀ s) (hp : [.owed] ⊆ P) (l : Launch) (src : Source) :
    Only P o₀ (moveEvents s l src) := by
  unfold moveEvents
  repeat' first
    | with_reducible assumption
    | with_reducible apply State.event_only
    | with_reducible apply Only.ite
    | with_reducible apply Only.foldl
    | intro s1 x1 h1

theorem State.sysEvent_only {P : List Part} {o₀ : State} {s : State} (h₀ : Only P o₀ s) (hp : [.owed] ⊆ P) (e : Event) :
    Only P o₀ (State.sysEvent s e) := by
  unfold State.sysEvent
  repeat' first
    | with_reducible assumption
    | with_reducible apply State.event_only
    | with_reducible apply Only.ite
    | with_reducible apply Only.foldl
    | intro s1 x1 h1

theorem reportLaunch_only {P : List Part} {o₀ : State} {s : State} (h₀ : Only P o₀ s) (hp : [.issues, .owed, .store] ⊆ P) (l : Launch) (written : Bool) :
    Only P o₀ (reportLaunch s l written) := by
  unfold reportLaunch
  repeat' first
    | with_reducible assumption
    | ((with_reducible refine List.Subset.trans ?_ hp); decide)
    | with_reducible apply State.event_only
    | with_reducible apply finishSentence_only
    | with_reducible apply State.complete_only
    | with_reducible apply moveEvents_only
    | with_reducible apply State.setPara_only
    | with_reducible apply State.sysEvent_only
    | with_reducible apply Only.ite
    | with_reducible apply Only.foldl
    | intro s1 x1 h1
    | dsimp only
    | split
    | ((with_reducible apply Only.set_store); exact hp (by decide))

theorem completeLaunch_only {P : List Part} {o₀ : State} {s : State} (h₀ : Only P o₀ s) (hp : [.out, .issues, .owed, .store] ⊆ P) (l : Launch) :
    Only P o₀ (completeLaunch s l) := by
  unfold completeLaunch
  repeat' first
    | with_reducible assumption
    | ((with_reducible refine List.Subset.trans ?_ hp); decide)
    | with_reducible apply writeBlock_only
    | with_reducible apply dropLaunch_only
    | with_reducible apply reportLaunch_only

theorem settleLaunch_only {P : List Part} {o₀ : State} {s : State} (h₀ : Only P o₀ s) (hp : [.out, .issues, .owed, .store, .elems, .links] ⊆ P) (l : Launch) :
    Only P o₀ (settleLaunch s l) := by
  unfold settleLaunch
  repeat' first
    | with_reducible assumption
    | ((with_reducible refine List.Subset.trans ?_ hp); decide)
    | with_reducible apply dropLaunch_only
    | with_reducible apply completeLaunch_only
    | with_reducible apply bumpEpoch_only
    | with_reducible apply Only.ite
    | with_reducible apply Only.foldl
    | intro s1 x1 h1
    | dsimp only
    | split
    | ((with_reducible apply Only.set_store); exact hp (by decide))

theorem checkSettle_only {P : List Part} {o₀ : State} {s : State} (h₀ : Only P o₀ s) (hp : [.out, .issues, .owed, .store, .elems, .links] ⊆ P) (serial : Serial) :
    Only P o₀ (checkSettle s serial) := by
  unfold checkSettle
  repeat' first
    | with_reducible assumption
    | with_reducible apply settleLaunch_only
    | with_reducible apply Only.ite
    | with_reducible apply Only.foldl
    | intro s1 x1 h1
    | dsimp only
    | split

theorem settleAll_only {P : List Part} {o₀ : State} {s : State} (h₀ : Only P o₀ s) (hp : [.out, .issues, .owed, .store, .elems, .links] ⊆ P)  :
    Only P o₀ (settleAll s) := by
  unfold settleAll
  repeat' first
    | with_reducible assumption
    | with_reducible apply checkSettle_only
    | with_reducible apply Only.ite
    | with_reducible apply Only.foldl
    | intro s1 x1 h1

theorem setTileResult_only {P : List Part} {o₀ : State} {s : State} (h₀ : Only P o₀ s) (hp : [.store] ⊆ P) (serial : Serial) (t : Nat) (r : TileResult) :
    Only P o₀ (setTileResult s serial t r) := by
  unfold setTileResult
  repeat' first
    | with_reducible assumption
    | with_reducible apply Only.ite
    | with_reducible apply Only.foldl
    | intro s1 x1 h1
    | dsimp only
    | ((with_reducible apply Only.set_store); exact hp (by decide))

theorem enterToken_only {P : List Part} {o₀ : State} {s : State} (h₀ : Only P o₀ s) (hp : [.store] ⊆ P) (l : Launch) (ch : Change) :
    Only P o₀ (enterToken s l ch) := by
  unfold enterToken
  repeat' first
    | with_reducible assumption
    | with_reducible apply Only.ite
    | with_reducible apply Only.foldl
    | intro s1 x1 h1
    | dsimp only
    | ((with_reducible apply Only.set_store); exact hp (by decide))

theorem noteIntents_only {P : List Part} {o₀ : State} {s : State} (h₀ : Only P o₀ s) (hp : [.elems] ⊆ P) (l : Launch) :
    Only P o₀ (noteIntents s l) := by
  unfold noteIntents
  repeat' first
    | with_reducible assumption
    | with_reducible apply State.modElem_only
    | with_reducible apply Only.ite
    | with_reducible apply Only.foldl
    | intro s1 x1 h1

theorem mirrorToken_only {P : List Part} {o₀ : State} {s : State} (h₀ : Only P o₀ s) (hp : [.out, .mirror] ⊆ P) (tk : CommitToken) (serial : Serial) (ts : List Nat) :
    Only P o₀ (mirrorToken s tk serial ts) := by
  unfold mirrorToken
  repeat' first
    | with_reducible assumption
    | ((with_reducible refine List.Subset.trans ?_ hp); decide)
    | with_reducible apply State.emit_only
    | with_reducible apply Only.ite
    | with_reducible apply Only.foldl
    | intro s1 x1 h1
    | dsimp only
    | ((with_reducible apply Only.set_mate); (with_reducible exact .inr rfl); (with_reducible exact .inr rfl); exact .inl (hp (by decide)))

theorem abortCalByToken_only {P : List Part} {o₀ : State} {s : State} (h₀ : Only P o₀ s) (hp : [.out, .elems, .calib, .calRuns, .links] ⊆ P) (acts : List Act) (ts : List Nat) :
    Only P o₀ (abortCalByToken s acts ts) := by
  unfold abortCalByToken
  repeat' first
    | with_reducible assumption
    | ((with_reducible refine List.Subset.trans ?_ hp); decide)
    | with_reducible apply State.modElem_only
    | with_reducible apply State.down_only
    | with_reducible apply Only.ite
    | with_reducible apply Only.foldl
    | intro s1 x1 h1
    | dsimp only
    | ((with_reducible apply Only.set_calib); exact .inl (hp (by decide)); exact .inl (hp (by decide)))

theorem abortByToken_only {P : List Part} {o₀ : State} {s : State} (h₀ : Only P o₀ s) (hp : [.out, .runs, .links] ⊆ P) (acts : List Act) (ts : List Nat) :
    Only P o₀ (abortByToken s acts ts) := by
  unfold abortByToken
  repeat' first
    | with_reducible assumption
    | ((with_reducible refine List.Subset.trans ?_ hp); decide)
    | with_reducible apply State.down_only
    | with_reducible apply Only.ite
    | with_reducible apply Only.foldl
    | intro s1 x1 h1
    | dsimp only
    | ((with_reducible apply Only.set_smu); (with_reducible exact .inr rfl); exact .inl (hp (by decide)))

theorem fillSlot_only {P : List Part} {o₀ : State} {s : State} (h₀ : Only P o₀ s) (hp : [.out, .links] ⊆ P) (t : Nat) (slot : Nat) (es : List (Nat × Nat)) :
    Only P o₀ (fillSlot s t slot es) := by
  unfold fillSlot
  repeat' first
    | with_reducible assumption
    | with_reducible apply slotFrames_only
    | with_reducible apply State.down_only

theorem commitTile_only {P : List Part} {o₀ : State} {acc : State × List (Nat × Nat × TileResult)} (h₀ : Only P o₀ acc.1) (hp : [.out, .links] ⊆ P) (armSlot : Option Nat) (serial : Serial) (tick : Nat) (acts : List Act) (t : Nat) :
    Only P o₀ (commitTile armSlot serial tick acts acc t).1 := by
  obtain ⟨sb, ub⟩ := acc
  dsimp only at h₀
  unfold commitTile
  repeat' first
    | with_reducible assumption
    | ((with_reducible refine List.Subset.trans ?_ hp); decide)
    | with_reducible apply State.down_only
    | with_reducible apply State.modLink_only
    | with_reducible apply fillSlot_only
    | with_reducible apply Only.ite
    | with_reducible apply Only.foldl
    | with_reducible apply Only.ite_fst
    | with_reducible apply Only.ite_snd
    | with_reducible apply Only.foldl_fst
    | intro s1 x1 h1
    | dsimp only
    | split

theorem issueToken_only {P : List Part} {o₀ : State} {s : State} (h₀ : Only P o₀ s) (hp : [.out, .store, .elems, .runs, .calib, .calRuns, .links, .mirror, .digest] ⊆ P) (tk : CommitToken) :
    Only P o₀ (issueToken s tk) := by
  unfold issueToken
  repeat' first
    | with_reducible assumption
    | ((with_reducible refine List.Subset.trans ?_ hp); decide)
    | with_reducible apply noteIntents_only
    | with_reducible apply enterToken_only
    | with_reducible apply staleByToken_only
    | with_reducible apply mirrorToken_only
    | with_reducible apply abortCalByToken_only
    | with_reducible apply abortByToken_only
    | with_reducible apply commitTile_only
    | with_reducible apply Only.ite
    | with_reducible apply Only.foldl
    | with_reducible apply Only.ite_fst
    | with_reducible apply Only.ite_snd
    | with_reducible apply Only.foldl_fst
    | intro s1 x1 h1
    | dsimp only
    | ((with_reducible apply Only.set_chip); (with_reducible exact .inr rfl); (with_reducible exact .inr rfl); exact .inl (hp (by decide)))
    | ((with_reducible apply Only.set_store); exact hp (by decide))

theorem freeLaunchSlot_only {P : List Part} {o₀ : State} {s : State} (h₀ : Only P o₀ s) (hp : [.links] ⊆ P) (serial : Serial) (t : Nat) :
    Only P o₀ (freeLaunchSlot s serial t) := by
  unfold freeLaunchSlot
  repeat' first
    | with_reducible assumption
    | with_reducible apply State.modLink_only
    | with_reducible apply Only.ite
    | with_reducible apply Only.foldl
    | intro s1 x1 h1
    | dsimp only
    | split

end Sys2Proof.Safety
end

