-- ==== Sys2Proof/Laws/OnlyCalOps.lean ====
section
/-! SUPPORT. What the functions of `Machine/CalOps.lean` may write: one lemma each. -/

set_option Elab.async false

namespace Sys2Proof.Safety

open Sys2Proof.Machine

theorem rewriteSlots_only {P : List Part} {o₀ : State} {s : State} (h₀ : Only P o₀ s) (hp : [.out, .links] ⊆ P) (e : Nat) :
    Only P o₀ (rewriteSlots s e) := by
  unfold rewriteSlots
  repeat' first
    | with_reducible assumption
    | with_reducible apply fillSlot_only
    | with_reducible apply Only.ite
    | with_reducible apply Only.foldl
    | intro s1 x1 h1
    | dsimp only
    | split

theorem takeSurface_only {P : List Part} {o₀ : State} {s : State} (h₀ : Only P o₀ s) (hp : [.out, .elems, .links] ⊆ P) (e : Nat) (u : Surface) :
    Only P o₀ (takeSurface s e u) := by
  unfold takeSurface
  repeat' first
    | with_reducible assumption
    | ((with_reducible refine List.Subset.trans ?_ hp); decide)
    | with_reducible apply State.setElem_only
    | with_reducible apply rewriteSlots_only
    | with_reducible apply Only.ite

theorem queueRun_only {P : List Part} {o₀ : State} {s : State} (h₀ : Only P o₀ s) (hp : [.calRuns] ⊆ P) (batch : Option Nat) (timeout : Option Nat) (r : RunKind × Nat) :
    Only P o₀ (queueRun batch timeout s r) := by
  unfold queueRun
  repeat' first
    | with_reducible assumption
    | with_reducible apply Only.ite
    | with_reducible apply Only.foldl
    | intro s1 x1 h1
    | dsimp only
    | ((with_reducible apply Only.set_calib); (with_reducible exact .inr rfl); exact .inl (hp (by decide)))

theorem setRow_only {P : List Part} {o₀ : State} {s : State} (h₀ : Only P o₀ s) (hp : [.calib] ⊆ P) (e : Nat) (row : Nat) (which : Nat) (v : Nat) :
    Only P o₀ (setRow s e row which v) := by
  unfold setRow
  repeat' first
    | with_reducible assumption
    | with_reducible apply Only.ite
    | with_reducible apply Only.foldl
    | intro s1 x1 h1
    | dsimp only
    | ((with_reducible apply Only.set_calib); exact .inl (hp (by decide)); (with_reducible exact .inr ⟨rfl, rfl⟩))

theorem shiftRows_only {P : List Part} {o₀ : State} {s : State} (h₀ : Only P o₀ s) (hp : [.calib] ⊆ P) (e : Nat) (temp : Int) (which : Nat) (d : Int) :
    Only P o₀ (shiftRows s e temp which d) := by
  unfold shiftRows
  repeat' first
    | with_reducible assumption
    | with_reducible apply setRow_only
    | with_reducible apply Only.ite

theorem fold_some_only {P : List Part} {o₀ s s1 : State} (h₀ : Only P o₀ s) (hp : [.elems, .calib] ⊆ P) {e : Nat}
    (h : fold s e = some s1) : Only P o₀ s1 := by
  unfold fold at h
  dsimp only at h
  split at h
  · cases h
  · cases h
    exact State.setElem_only (shiftRows_only h₀ (List.Subset.trans (by decide) hp) _ _ _ _) (List.Subset.trans (by decide) hp) _ _

theorem foldAll_only {P : List Part} {o₀ s : State} (h₀ : Only P o₀ s) (hp : [.elems, .calib] ⊆ P) (es : List Nat) :
    Only P o₀ (foldAll s es).1 := by
  unfold foldAll
  refine Only.foldl_fst h₀ fun a e h => ?_
  split
  · exact fold_some_only h hp ‹_›
  · exact h

theorem calTempTrigger_only {P : List Part} {o₀ : State} {s : State} (h₀ : Only P o₀ s) (hp : [.elems, .calib, .calRuns] ⊆ P) (t : Nat) :
    Only P o₀ (calTempTrigger s t) := by
  unfold calTempTrigger
  repeat' first
    | with_reducible assumption
    | ((with_reducible refine List.Subset.trans ?_ hp); decide)
    | with_reducible apply queueRun_only
    | with_reducible apply foldAll_only
    | with_reducible apply Only.ite
    | with_reducible apply Only.foldl
    | intro s1 x1 h1

theorem settleSurfaces_only {P : List Part} {o₀ : State} {s : State} (h₀ : Only P o₀ s) (hp : [.elems] ⊆ P) (t : Nat) :
    Only P o₀ (settleSurfaces s t) := by
  unfold settleSurfaces
  repeat' first
    | with_reducible assumption
    | with_reducible apply State.modElem_only
    | with_reducible apply Only.ite
    | with_reducible apply Only.foldl
    | intro s1 x1 h1

theorem retune_only {P : List Part} {o₀ : State} {s : State} (h₀ : Only P o₀ s) (hp : [.out, .elems, .links] ⊆ P) (t : Nat) :
    Only P o₀ (retune s t) := by
  unfold retune
  repeat' first
    | with_reducible assumption
    | with_reducible apply takeSurface_only
    | with_reducible apply Only.ite
    | with_reducible apply Only.foldl
    | intro s1 x1 h1

theorem setRows_only {P : List Part} {o₀ : State} {s : State} (h₀ : Only P o₀ s) (hp : [.calib] ⊆ P) (e : Nat) (temp : Int) (which : Nat) (v : Nat) :
    Only P o₀ (setRows s e temp which v) := by
  unfold setRows
  repeat' first
    | with_reducible assumption
    | with_reducible apply setRow_only

end Sys2Proof.Safety
end

