-- ==== Sys2Proof/Laws/OnlySourceMeasure.lean ====
section
/-! SUPPORT. What the functions of `Machine/SourceMeasure.lean` may write: one lemma each. -/

set_option Elab.async false

namespace Sys2Proof.Safety

open Sys2Proof.Machine

theorem State.setAnyRun_only {P : List Part} {o₀ : State} {s : State} (h₀ : Only P o₀ s) (hp : [.runs] ⊆ P) (l : Nat) (r : Run) :
    Only P o₀ (State.setAnyRun s l r) := by
  unfold State.setAnyRun
  repeat' first
    | with_reducible assumption
    | with_reducible apply State.setRun_only
    | with_reducible apply Only.ite
    | with_reducible apply Only.foldl
    | intro s1 x1 h1
    | dsimp only
    | ((with_reducible apply Only.set_smu); (with_reducible exact .inr rfl); exact .inl (hp (by decide)))

theorem formResult_only {P : List Part} {o₀ : State} {s : State} (h₀ : Only P o₀ s) (hp : [.free] ⊆ P) (p : PointRec) (k : Taking) (compliance : Bool) (sampling : Bool) (aborted : Bool) :
    Only P o₀ (formResult s p k compliance sampling aborted).2 := by
  unfold formResult
  repeat' first
    | with_reducible assumption
    | with_reducible apply State.draw_only
    | with_reducible apply Only.ite
    | with_reducible apply Only.foldl
    | with_reducible apply Only.ite_fst
    | with_reducible apply Only.ite_snd

theorem refGo_only {P : List Part} {o₀ : State} {s : State} (h₀ : Only P o₀ s) (hp : [.smu] ⊆ P)  :
    Only P o₀ (refGo s) := by
  unfold refGo
  repeat' first
    | with_reducible assumption
    | with_reducible apply Only.ite
    | with_reducible apply Only.foldl
    | intro s1 x1 h1
    | dsimp only
    | ((with_reducible apply Only.set_smu); exact .inl (hp (by decide)); (with_reducible exact .inr ⟨rfl, rfl⟩))

theorem postPoint_only {P : List Part} {o₀ : State} {s : State} (h₀ : Only P o₀ s) (hp : [.out, .smu, .runs] ⊆ P) (l : Nat) (r : Run) (res : PointResult) (forceRb : Int) (writeOk : Bool) :
    Only P o₀ (postPoint s l r res forceRb writeOk) := by
  unfold postPoint
  repeat' first
    | with_reducible assumption
    | ((with_reducible refine List.Subset.trans ?_ hp); decide)
    | with_reducible apply State.emit_only
    | with_reducible apply State.setAnyRun_only
    | with_reducible apply Only.ite
    | with_reducible apply Only.foldl
    | intro s1 x1 h1
    | dsimp only
    | ((with_reducible apply Only.set_smu); exact .inl (hp (by decide)); exact .inl (hp (by decide)))

theorem busSwitch_only {P : List Part} {o₀ : State} {s : State} (h₀ : Only P o₀ s) (hp : [.out, .smu, .links] ⊆ P) (t : Nat) (c : Nat) (on : Bool) :
    Only P o₀ (busSwitch s t c on) := by
  unfold busSwitch
  repeat' first
    | with_reducible assumption
    | ((with_reducible refine List.Subset.trans ?_ hp); decide)
    | with_reducible apply State.down_only
    | with_reducible apply State.setMonitor_only
    | with_reducible apply Only.ite

theorem actuatorOn_only {P : List Part} {o₀ : State} {s : State} (h₀ : Only P o₀ s) (hp : [.elems] ⊆ P) (e : Nat) :
    Only P o₀ (actuatorOn s e) := by
  unfold actuatorOn
  repeat' first
    | with_reducible assumption
    | with_reducible apply State.modElem_only

theorem ssGo_only {P : List Part} {o₀ : State} {s : State} (h₀ : Only P o₀ s) (hp : [.smu, .runs] ⊆ P)  :
    Only P o₀ (ssGo s) := by
  unfold ssGo
  repeat' first
    | with_reducible assumption
    | with_reducible apply Only.ite
    | with_reducible apply Only.foldl
    | intro s1 x1 h1
    | dsimp only
    | ((with_reducible apply Only.set_smu); exact .inl (hp (by decide)); exact .inl (hp (by decide)))

theorem blockPoint_only {P : List Part} {o₀ : State} {s : State} (h₀ : Only P o₀ s) (hp : [.out, .free, .smu, .runs] ⊆ P) (l : Nat) (r : Run) (p : PointRec) :
    Only P o₀ (blockPoint s l r p) := by
  unfold blockPoint
  repeat' first
    | with_reducible assumption
    | ((with_reducible refine List.Subset.trans ?_ hp); decide)
    | with_reducible apply State.draw_only
    | with_reducible apply postPoint_only

theorem freeBus_only {P : List Part} {o₀ : State} {s : State} (h₀ : Only P o₀ s) (hp : [.out, .smu, .links] ⊆ P)  :
    Only P o₀ (freeBus s) := by
  unfold freeBus
  repeat' first
    | with_reducible assumption
    | with_reducible apply busSwitch_only
    | with_reducible apply Only.ite
    | with_reducible apply Only.foldl
    | intro s1 x1 h1
    | dsimp only
    | split
    | ((with_reducible apply Only.set_smu); exact .inl (hp (by decide)); (with_reducible exact .inr ⟨rfl, rfl⟩))

theorem grantBus_only {P : List Part} {o₀ : State} {s : State} (h₀ : Only P o₀ s) (hp : [.out, .smu, .links] ⊆ P)  :
    Only P o₀ (grantBus s) := by
  unfold grantBus
  repeat' first
    | with_reducible assumption
    | with_reducible apply busSwitch_only
    | with_reducible apply Only.ite
    | with_reducible apply Only.foldl
    | intro s1 x1 h1
    | dsimp only
    | ((with_reducible apply Only.set_smu); exact .inl (hp (by decide)); (with_reducible exact .inr ⟨rfl, rfl⟩))

theorem busCtrl_only {P : List Part} {o₀ : State} {s : State} (h₀ : Only P o₀ s) (hp : [.out, .smu, .links] ⊆ P) (value : Word32) :
    Only P o₀ (busCtrl s value) := by
  unfold busCtrl
  repeat' first
    | with_reducible assumption
    | with_reducible apply freeBus_only
    | with_reducible apply grantBus_only
    | with_reducible apply Only.ite
    | with_reducible apply Only.foldl
    | intro s1 x1 h1
    | dsimp only
    | ((with_reducible apply Only.set_smu); exact .inl (hp (by decide)); (with_reducible exact .inr ⟨rfl, rfl⟩))

theorem refCtrl_only {P : List Part} {o₀ : State} {s : State} (h₀ : Only P o₀ s) (hp : [.smu] ⊆ P) (value : Word32) :
    Only P o₀ (refCtrl s value) := by
  unfold refCtrl
  repeat' first
    | with_reducible assumption
    | with_reducible apply refGo_only
    | with_reducible apply Only.ite
    | with_reducible apply Only.foldl
    | intro s1 x1 h1
    | dsimp only
    | ((with_reducible apply Only.set_smu); exact .inl (hp (by decide)); (with_reducible exact .inr ⟨rfl, rfl⟩))

theorem actuatorOff_only {P : List Part} {o₀ : State} {s : State} (h₀ : Only P o₀ s) (hp : [.elems] ⊆ P) (e : Nat) :
    Only P o₀ (actuatorOff s e) := by
  unfold actuatorOff
  repeat' first
    | with_reducible assumption
    | with_reducible apply State.modElem_only
    | with_reducible apply Only.ite

theorem readSsResult_only {P : List Part} {o₀ : State} {s : State} (h₀ : Only P o₀ s) (hp : [.smu] ⊆ P)  :
    Only P o₀ (readSsResult s).2 := by
  unfold readSsResult
  repeat' first
    | with_reducible assumption
    | with_reducible apply Only.ite
    | with_reducible apply Only.foldl
    | with_reducible apply Only.ite_fst
    | with_reducible apply Only.ite_snd
    | with_reducible apply Only.foldl_fst
    | intro s1 x1 h1
    | dsimp only
    | ((with_reducible apply Only.set_smu); exact .inl (hp (by decide)); (with_reducible exact .inr ⟨rfl, rfl⟩))

theorem loadList_only {P : List Part} {o₀ : State} {s : State} (h₀ : Only P o₀ s) (hp : [.issues, .smu] ⊆ P) (h : Hdr) (list : Nat) (ps : List PointRec) :
    Only P o₀ (loadList s h list ps) := by
  unfold loadList
  repeat' first
    | with_reducible assumption
    | ((with_reducible refine List.Subset.trans ?_ hp); decide)
    | with_reducible apply State.fail_only
    | with_reducible apply State.complete_only
    | with_reducible apply Only.ite
    | with_reducible apply Only.foldl
    | intro s1 x1 h1
    | dsimp only
    | ((with_reducible apply Only.set_smu); exact .inl (hp (by decide)); (with_reducible exact .inr ⟨rfl, rfl⟩))

theorem readPortResult_only {P : List Part} {o₀ : State} {s : State} (h₀ : Only P o₀ s) (hp : [.smu] ⊆ P)  :
    Only P o₀ (readPortResult s).2 := by
  unfold readPortResult
  repeat' first
    | with_reducible assumption
    | with_reducible apply Only.ite
    | with_reducible apply Only.foldl
    | with_reducible apply Only.ite_fst
    | with_reducible apply Only.ite_snd
    | with_reducible apply Only.foldl_fst
    | intro s1 x1 h1
    | dsimp only
    | ((with_reducible apply Only.set_smu); exact .inl (hp (by decide)); (with_reducible exact .inr ⟨rfl, rfl⟩))

theorem readRefResult_only {P : List Part} {o₀ : State} {s : State} (h₀ : Only P o₀ s) (hp : [.smu] ⊆ P)  :
    Only P o₀ (readRefResult s).2 := by
  unfold readRefResult
  repeat' first
    | with_reducible assumption
    | with_reducible apply Only.ite
    | with_reducible apply Only.foldl
    | with_reducible apply Only.ite_fst
    | with_reducible apply Only.ite_snd
    | with_reducible apply Only.foldl_fst
    | intro s1 x1 h1
    | dsimp only
    | ((with_reducible apply Only.set_smu); exact .inl (hp (by decide)); (with_reducible exact .inr ⟨rfl, rfl⟩))

theorem selectPort_only {P : List Part} {o₀ : State} {s : State} (h₀ : Only P o₀ s) (hp : [.smu] ⊆ P) (value : Word32) :
    Only P o₀ (selectPort s value) := by
  unfold selectPort
  repeat' first
    | with_reducible assumption
    | with_reducible apply Only.ite
    | with_reducible apply Only.foldl
    | intro s1 x1 h1
    | dsimp only
    | ((with_reducible apply Only.set_smu); exact .inl (hp (by decide)); (with_reducible exact .inr ⟨rfl, rfl⟩))

end Sys2Proof.Safety
end

