-- ==== Sys2Proof/Laws/OnlyAdoption.lean ====
section
/-! SUPPORT. What the functions of `Machine/Adoption.lean` may write: one lemma each. -/

set_option Elab.async false

namespace Sys2Proof.Safety

open Sys2Proof.Machine

theorem sendClassList_only {P : List Part} {o₀ : State} {s : State} (h₀ : Only P o₀ s) (hp : [.out, .links] ⊆ P) (t : Nat) (ks : List Nat) (es : List Nat) :
    Only P o₀ (sendClassList s t ks es) := by
  unfold sendClassList
  repeat' first
    | with_reducible assumption
    | with_reducible apply State.down_only
    | with_reducible apply Only.ite
    | with_reducible apply Only.foldl
    | intro s1 x1 h1
    | dsimp only
    | split

theorem sendClasses_only {P : List Part} {o₀ : State} {s : State} (h₀ : Only P o₀ s) (hp : [.out, .links] ⊆ P) (t : Nat) :
    Only P o₀ (sendClasses s t) := by
  unfold sendClasses
  repeat' first
    | with_reducible assumption
    | with_reducible apply sendClassList_only

theorem sendDivs_only {P : List Part} {o₀ : State} {s : State} (h₀ : Only P o₀ s) (hp : [.out, .links] ⊆ P) (t : Nat) (c : Nat) :
    Only P o₀ (sendDivs s t c) := by
  unfold sendDivs
  repeat' first
    | with_reducible assumption
    | with_reducible apply State.down_only
    | with_reducible apply Only.ite
    | with_reducible apply Only.foldl
    | intro s1 x1 h1

theorem sendFast_only {P : List Part} {o₀ : State} {s : State} (h₀ : Only P o₀ s) (hp : [.out, .links] ⊆ P) (t : Nat) (c : Nat) (es : List Nat) :
    Only P o₀ (sendFast s t c es) := by
  unfold sendFast
  repeat' first
    | with_reducible assumption
    | with_reducible apply State.down_only
    | with_reducible apply Only.ite
    | with_reducible apply Only.foldl
    | intro s1 x1 h1

theorem sendMirrorOf_only {P : List Part} {o₀ : State} {s : State} (h₀ : Only P o₀ s) (hp : [.out, .elems, .links] ⊆ P) (t : Nat) (more : List Nat) :
    Only P o₀ (sendMirrorOf s t more) := by
  unfold sendMirrorOf
  repeat' first
    | with_reducible assumption
    | ((with_reducible refine List.Subset.trans ?_ hp); decide)
    | with_reducible apply sendFast_only
    | with_reducible apply sendDivs_only
    | with_reducible apply sendClasses_only
    | with_reducible apply State.modElem_only
    | with_reducible apply Only.ite
    | with_reducible apply Only.foldl
    | intro s1 x1 h1

theorem prepareMirrored_only {P : List Part} {o₀ : State} {s : State} (h₀ : Only P o₀ s) (hp : [.store] ⊆ P) (h : Nat) :
    Only P o₀ (prepareMirrored s h) := by
  unfold prepareMirrored
  repeat' first
    | with_reducible assumption
    | with_reducible apply State.setSent_only
    | with_reducible apply Only.ite

theorem repairSentence_only {P : List Part} {o₀ : State} {s : State} (h₀ : Only P o₀ s) (hp : [.store] ⊆ P) (h : Nat) :
    Only P o₀ (repairSentence s h) := by
  unfold repairSentence
  repeat' first
    | with_reducible assumption
    | with_reducible apply State.setSent_only
    | with_reducible apply Only.ite

theorem becomeActive_only {P : List Part} {o₀ : State} {s : State} (h₀ : Only P o₀ s) (hp : [.out, .store, .tiles, .mate, .handover] ⊆ P)  :
    Only P o₀ (becomeActive s) := by
  unfold becomeActive
  repeat' first
    | with_reducible assumption
    | ((with_reducible refine List.Subset.trans ?_ hp); decide)
    | with_reducible apply State.modTile_only
    | with_reducible apply sendRole_only
    | with_reducible apply prepareMirrored_only
    | with_reducible apply repairSentence_only
    | with_reducible apply Only.ite
    | with_reducible apply Only.foldl
    | intro s1 x1 h1
    | dsimp only
    | ((with_reducible apply Only.set_mate); exact .inl (hp (by decide)); exact .inl (hp (by decide)); (with_reducible exact .inr ⟨rfl, rfl, rfl⟩))

theorem sendArmSlots_only {P : List Part} {o₀ : State} {s : State} (h₀ : Only P o₀ s) (hp : [.out, .links] ⊆ P) (t : Nat) :
    Only P o₀ (sendArmSlots s t) := by
  unfold sendArmSlots
  repeat' first
    | with_reducible assumption
    | with_reducible apply fillSlot_only
    | with_reducible apply Only.ite
    | with_reducible apply Only.foldl
    | intro s1 x1 h1
    | dsimp only
    | split

theorem sendShares_only {P : List Part} {o₀ : State} {s : State} (h₀ : Only P o₀ s) (hp : [.out, .links] ⊆ P) (t : Nat) :
    Only P o₀ (sendShares s t) := by
  unfold sendShares
  repeat' first
    | with_reducible assumption
    | with_reducible apply State.down_only

theorem sendShapes_only {P : List Part} {o₀ : State} {s : State} (h₀ : Only P o₀ s) (hp : [.out, .links] ⊆ P) (t : Nat) :
    Only P o₀ (sendShapes s t) := by
  unfold sendShapes
  repeat' first
    | with_reducible assumption
    | with_reducible apply State.down_only
    | with_reducible apply Only.ite
    | with_reducible apply Only.foldl
    | intro s1 x1 h1

theorem quarantine_only {P : List Part} {o₀ : State} {s : State} (h₀ : Only P o₀ s) (hp : [.out, .elems, .links] ⊆ P) (t : Nat) :
    Only P o₀ (quarantine s t) := by
  unfold quarantine
  repeat' first
    | with_reducible assumption
    | ((with_reducible refine List.Subset.trans ?_ hp); decide)
    | with_reducible apply State.modLink_only
    | with_reducible apply State.modElem_only
    | with_reducible apply sendArmSlots_only
    | with_reducible apply sendShares_only
    | with_reducible apply sendMirrorOf_only
    | with_reducible apply sendShapes_only
    | with_reducible apply Only.ite
    | with_reducible apply Only.foldl
    | intro s1 x1 h1

theorem reconstruct_only {P : List Part} {o₀ : State} {s : State} (h₀ : Only P o₀ s) (hp : [.store, .chip] ⊆ P)  :
    Only P o₀ (reconstruct s) := by
  unfold reconstruct
  repeat' first
    | with_reducible assumption
    | with_reducible apply Only.ite
    | with_reducible apply Only.foldl
    | intro s1 x1 h1
    | dsimp only
    | ((with_reducible apply Only.set_chip); exact .inl (hp (by decide)); (with_reducible exact .inr rfl); (with_reducible exact .inr ⟨rfl, rfl, rfl, rfl⟩))
    | ((with_reducible apply Only.set_store); exact hp (by decide))
    | ((with_reducible apply Only.mk); rotate_left; (intro p hn; cases p <;> (first | (with_reducible rfl) | exact absurd (hp (by decide)) hn | (with_reducible exact ⟨rfl, rfl⟩) | (with_reducible exact ⟨rfl, rfl, rfl⟩) | (with_reducible exact ⟨rfl, rfl, rfl, rfl⟩))))

theorem endHandover_only {P : List Part} {o₀ : State} {s : State} (h₀ : Only P o₀ s) (hp : [.issues, .handover] ⊆ P) (h : Hdr) (status : Nat) (taken : Nat) (lost : Nat) (cause : Nat) :
    Only P o₀ (endHandover s h status taken lost cause) := by
  unfold endHandover
  repeat' first
    | with_reducible assumption
    | ((with_reducible refine List.Subset.trans ?_ hp); decide)
    | with_reducible apply State.complete_only
    | with_reducible apply Only.ite
    | with_reducible apply Only.foldl
    | intro s1 x1 h1
    | dsimp only
    | ((with_reducible apply Only.set_mate); (with_reducible exact .inr rfl); exact .inl (hp (by decide)); (with_reducible exact .inr ⟨rfl, rfl, rfl⟩))

theorem takeoverEnd_only {P : List Part} {o₀ : State} {s : State} (h₀ : Only P o₀ s) (hp : [.out, .free, .issues, .store, .tiles, .mate, .handover] ⊆ P)  :
    Only P o₀ (takeoverEnd s) := by
  unfold takeoverEnd
  repeat' first
    | with_reducible assumption
    | ((with_reducible refine List.Subset.trans ?_ hp); decide)
    | with_reducible apply becomeActive_only
    | with_reducible apply State.draw_only
    | with_reducible apply endHandover_only
    | with_reducible apply Only.ite
    | with_reducible apply Only.foldl
    | intro s1 x1 h1
    | dsimp only
    | split

theorem finishAdoption_only {P : List Part} {o₀ : State} {s : State} (h₀ : Only P o₀ s) (hp : [.out, .store, .elems, .smu, .calib, .calRuns, .links, .chip] ⊆ P) (t : Nat) (moved : List Nat) :
    Only P o₀ (finishAdoption s t moved) := by
  unfold finishAdoption
  repeat' first
    | with_reducible assumption
    | ((with_reducible refine List.Subset.trans ?_ hp); decide)
    | with_reducible apply State.setElem_only
    | with_reducible apply State.modLink_only
    | with_reducible apply State.down_only
    | with_reducible apply freeBus_only
    | with_reducible apply queueRun_only
    | with_reducible apply calTempTrigger_only
    | with_reducible apply reconstruct_only
    | with_reducible apply Only.ite
    | with_reducible apply Only.foldl
    | intro s1 x1 h1
    | dsimp only
    | ((with_reducible apply Only.set_chip); exact .inl (hp (by decide)); (with_reducible exact .inr rfl); (with_reducible exact .inr ⟨rfl, rfl, rfl, rfl⟩))

theorem tryAdopt_only {P : List Part} {o₀ : State} {s : State} (h₀ : Only P o₀ s) (hp : [.out, .free, .issues, .store, .elems, .smu, .calib, .calRuns, .links, .tiles, .mate, .handover, .chip] ⊆ P) (t : Nat) :
    Only P o₀ (tryAdopt s t) := by
  unfold tryAdopt
  repeat' first
    | with_reducible assumption
    | ((with_reducible refine List.Subset.trans ?_ hp); decide)
    | with_reducible apply takeoverEnd_only
    | with_reducible apply finishAdoption_only
    | with_reducible apply quarantine_only
    | with_reducible apply Only.ite

theorem tryAdoptAll_only {P : List Part} {o₀ : State} {s : State} (h₀ : Only P o₀ s) (hp : [.out, .free, .issues, .store, .elems, .smu, .calib, .calRuns, .links, .tiles, .mate, .handover, .chip] ⊆ P)  :
    Only P o₀ (tryAdoptAll s) := by
  unfold tryAdoptAll
  repeat' first
    | with_reducible assumption
    | with_reducible apply tryAdopt_only
    | with_reducible apply Only.ite
    | with_reducible apply Only.foldl
    | intro s1 x1 h1

end Sys2Proof.Safety
end

