-- ==== Sys2Proof/Laws/OnlyPlacement.lean ====
section
/-! SUPPORT. What the functions of `Machine/Placement.lean` may write: one lemma each. -/

set_option Elab.async false

namespace Sys2Proof.Safety

open Sys2Proof.Machine

theorem demote_only {P : List Part} {o₀ : State} {s : State} (h₀ : Only P o₀ s) (hp : [.elems] ⊆ P) (e : Nat) :
    Only P o₀ (demote s e) := by
  unfold demote
  repeat' first
    | with_reducible assumption
    | with_reducible apply State.modElem_only

theorem promote_only {P : List Part} {o₀ : State} {s : State} (h₀ : Only P o₀ s) (hp : [.elems] ⊆ P) (e : Nat) :
    Only P o₀ (promote s e) := by
  unfold promote
  repeat' first
    | with_reducible assumption
    | with_reducible apply demote_only
    | with_reducible apply State.modElem_only
    | with_reducible apply Only.ite
    | with_reducible apply Only.foldl
    | intro s1 x1 h1
    | dsimp only
    | split

theorem promoteAll_only {P : List Part} {o₀ : State} {s : State} (h₀ : Only P o₀ s) (hp : [.elems] ⊆ P) (es : List Nat) :
    Only P o₀ (promoteAll s es) := by
  unfold promoteAll
  repeat' first
    | with_reducible assumption
    | with_reducible apply promote_only
    | with_reducible apply Only.ite
    | with_reducible apply Only.foldl
    | intro s1 x1 h1

end Sys2Proof.Safety
end

