-- ==== Sys2Proof/Laws/OnlySentences.lean ====
section
/-! SUPPORT. What the functions of `Machine/Sentences.lean` may write: one lemma each. -/

set_option Elab.async false

namespace Sys2Proof.Safety

open Sys2Proof.Machine

theorem dropPreps_only {P : List Part} {o₀ : State} {s : State} (h₀ : Only P o₀ s) (hp : [.store] ⊆ P) (p : Prep → Bool) :
    Only P o₀ (dropPreps s p) := by
  unfold dropPreps
  repeat' first
    | with_reducible assumption
    | with_reducible apply Only.ite
    | with_reducible apply Only.foldl
    | intro s1 x1 h1
    | dsimp only
    | ((with_reducible apply Only.set_store); exact hp (by decide))

theorem stepReport_only {P : List Part} {o₀ : State} {s : State} (h₀ : Only P o₀ s) (hp : [.owed, .store] ⊆ P) (n : Nat) (status : Nat) :
    Only P o₀ (stepReport s n status) := by
  unfold stepReport
  repeat' first
    | with_reducible assumption
    | ((with_reducible refine List.Subset.trans ?_ hp); decide)
    | with_reducible apply State.event_only
    | with_reducible apply State.modSent_only

theorem stopPara_only {P : List Part} {o₀ : State} {s : State} (h₀ : Only P o₀ s) (hp : [.owed, .store] ⊆ P) (n : Nat) :
    Only P o₀ (stopPara s n) := by
  unfold stopPara
  repeat' first
    | with_reducible assumption
    | ((with_reducible refine List.Subset.trans ?_ hp); decide)
    | with_reducible apply stepReport_only
    | with_reducible apply dropPreps_only
    | with_reducible apply State.setPara_only

theorem endSched_only {P : List Part} {o₀ : State} {s : State} (h₀ : Only P o₀ s) (hp : [.owed, .store] ⊆ P) (x : Sched) (status : Nat) :
    Only P o₀ (endSched s x status) := by
  unfold endSched
  repeat' first
    | with_reducible assumption
    | ((with_reducible refine List.Subset.trans ?_ hp); decide)
    | with_reducible apply dropPreps_only
    | with_reducible apply State.event_only
    | with_reducible apply State.modSent_only
    | with_reducible apply Only.ite
    | with_reducible apply Only.foldl
    | intro s1 x1 h1
    | dsimp only
    | ((with_reducible apply Only.set_store); exact hp (by decide))

theorem stageClauses_only {P : List Part} {o₀ : State} {s : State} (h₀ : Only P o₀ s) (hp : [.issues, .store] ⊆ P) (h : Hdr) (op : Nat) (openF : Bool) (hd : Nat) (cl : List Rec128) :
    Only P o₀ (stageClauses s h op openF hd cl) := by
  unfold stageClauses
  repeat' first
    | with_reducible assumption
    | ((with_reducible refine List.Subset.trans ?_ hp); decide)
    | with_reducible apply State.fail_only
    | with_reducible apply State.complete_only
    | with_reducible apply State.setSent_only
    | with_reducible apply Only.ite

theorem hostRead_only {P : List Part} {o₀ : State} {s : State} (h₀ : Only P o₀ s) (hp : [.out, .hostOps] ⊆ P) (h : Hdr) (i : Instr) (addr : Nat) (len : Nat) (ns : Bool) :
    Only P o₀ (hostRead s h i addr len ns) := by
  unfold hostRead
  repeat' first
    | with_reducible assumption
    | ((with_reducible refine List.Subset.trans ?_ hp); decide)
    | with_reducible apply State.emit_only
    | with_reducible apply Only.ite
    | with_reducible apply Only.foldl
    | intro s1 x1 h1
    | dsimp only
    | ((with_reducible apply Only.set_hostOps); exact hp (by decide))

theorem refuseLaunch_only {P : List Part} {o₀ : State} {s : State} (h₀ : Only P o₀ s) (hp : [.out, .issues, .owed, .store] ⊆ P) (handle : Nat) (trigger : Trigger) (opts : LaunchOpts) (clauses : List Rec128) (reasons : List Nat) (boundLost : Bool) :
    Only P o₀ (refuseLaunch s handle trigger opts clauses reasons boundLost) := by
  unfold refuseLaunch
  repeat' first
    | with_reducible assumption
    | ((with_reducible refine List.Subset.trans ?_ hp); decide)
    | with_reducible apply writeBlock_only
    | with_reducible apply State.modSent_only
    | with_reducible apply reportLaunch_only

theorem refuseAll_only {P : List Part} {o₀ : State} {s : State} (h₀ : Only P o₀ s) (hp : [.out, .issues, .owed, .store] ⊆ P) (handle : Nat) (trigger : Trigger) (opts : LaunchOpts) (reason : Nat) (boundLost : Bool) :
    Only P o₀ (refuseAll s handle trigger opts reason boundLost) := by
  unfold refuseAll
  repeat' first
    | with_reducible assumption
    | with_reducible apply refuseLaunch_only

theorem fireSentence_only {P : List Part} {o₀ : State} {s : State} (h₀ : Only P o₀ s) (hp : [.out, .issues, .owed, .store] ⊆ P) (handle : Nat) (trigger : Trigger) (yellow : Bool) (arrival : Nat) :
    Only P o₀ (fireSentence s handle trigger yellow arrival) := by
  unfold fireSentence
  repeat' first
    | with_reducible assumption
    | ((with_reducible refine List.Subset.trans ?_ hp); decide)
    | with_reducible apply refuseAll_only
    | with_reducible apply State.setSent_only
    | with_reducible apply dropPreps_only
    | with_reducible apply Only.ite
    | with_reducible apply Only.foldl
    | intro s1 x1 h1
    | dsimp only
    | ((with_reducible apply Only.set_store); exact hp (by decide))

theorem ignoreTrigger_only {P : List Part} {o₀ : State} {s : State} (h₀ : Only P o₀ s) (hp : [.store] ⊆ P) (handle : Nat) :
    Only P o₀ (ignoreTrigger s handle) := by
  unfold ignoreTrigger
  repeat' first
    | with_reducible assumption
    | with_reducible apply Only.ite
    | with_reducible apply Only.foldl
    | intro s1 x1 h1
    | dsimp only
    | ((with_reducible apply Only.set_store); exact hp (by decide))

theorem defineSteps_only {P : List Part} {o₀ : State} {s : State} (h₀ : Only P o₀ s) (hp : [.issues, .store] ⊆ P) (h : Hdr) (halt : Bool) (para : Nat) (period : Nat) (repeats : Nat) (late : Nat) (steps : List StepRec) :
    Only P o₀ (defineSteps s h halt para period repeats late steps) := by
  unfold defineSteps
  repeat' first
    | with_reducible assumption
    | ((with_reducible refine List.Subset.trans ?_ hp); decide)
    | with_reducible apply State.fail_only
    | with_reducible apply State.complete_only
    | with_reducible apply State.setPara_only
    | with_reducible apply Only.ite

end Sys2Proof.Safety
end

