-- ==== Sys2Proof/Laws/OnlyLaunches.lean ====
section
/-! SUPPORT. What the functions of `Machine/Launches.lean` may write: one lemma each. -/

set_option Elab.async false

namespace Sys2Proof.Safety

open Sys2Proof.Machine

theorem policedReport_only {P : List Part} {o₀ : State} {s : State} (h₀ : Only P o₀ s) (hp : [.owed] ⊆ P) (m : Nat) (handle : Nat) (t : Sentence) :
    Only P o₀ (policedReport s m handle t) := by
  unfold policedReport
  repeat' first
    | with_reducible assumption
    | with_reducible apply State.event_only

theorem armWithheld_only {P : List Part} {o₀ : State} {s : State} (h₀ : Only P o₀ s) (hp : [.issues, .store] ⊆ P) (p : Prep) :
    Only P o₀ (armWithheld s p) := by
  unfold armWithheld
  repeat' first
    | with_reducible assumption
    | ((with_reducible refine List.Subset.trans ?_ hp); decide)
    | with_reducible apply State.fail_only
    | with_reducible apply dropPreps_only
    | with_reducible apply State.modSent_only
    | with_reducible apply Only.ite
    | with_reducible apply Only.foldl
    | intro s1 x1 h1
    | dsimp only
    | split

theorem afterStep_only {P : List Part} {o₀ : State} {s : State} (h₀ : Only P o₀ s) (hp : [.store] ⊆ P) (n : Nat) :
    Only P o₀ (afterStep s n) := by
  unfold afterStep
  repeat' first
    | with_reducible assumption
    | with_reducible apply State.setPara_only

theorem endTrigger_only {P : List Part} {o₀ : State} {s : State} (h₀ : Only P o₀ s) (hp : [.store] ⊆ P) (handle : Nat) (trigger : Trigger) :
    Only P o₀ (endTrigger s handle trigger) := by
  unfold endTrigger
  repeat' first
    | with_reducible assumption
    | with_reducible apply afterStep_only
    | with_reducible apply Only.ite
    | with_reducible apply Only.foldl
    | intro s1 x1 h1
    | dsimp only
    | split
    | ((with_reducible apply Only.set_store); exact hp (by decide))

theorem noteCauses_only {P : List Part} {o₀ : State} {s : State} (h₀ : Only P o₀ s) (hp : [.store] ⊆ P) (c : Bool × Bool × Bool) (lost : Bool) :
    Only P o₀ (noteCauses s c lost) := by
  unfold noteCauses
  repeat' first
    | with_reducible assumption
    | with_reducible apply Only.ite
    | with_reducible apply Only.foldl
    | intro s1 x1 h1
    | dsimp only
    | ((with_reducible apply Only.set_store); exact hp (by decide))

theorem writeArmSlots_only {P : List Part} {o₀ : State} {s : State} (h₀ : Only P o₀ s) (hp : [.out, .links] ⊆ P) (handle : Nat) (acts : List Act) :
    Only P o₀ (writeArmSlots s handle acts) := by
  unfold writeArmSlots
  repeat' first
    | with_reducible assumption
    | with_reducible apply fillSlot_only
    | with_reducible apply Only.ite
    | with_reducible apply Only.foldl
    | intro s1 x1 h1
    | dsimp only
    | split

theorem setPrep_only {P : List Part} {o₀ : State} {s : State} (h₀ : Only P o₀ s) (hp : [.store] ⊆ P) (p : Prep) :
    Only P o₀ (setPrep s p) := by
  unfold setPrep
  repeat' first
    | with_reducible assumption
    | with_reducible apply Only.ite
    | with_reducible apply Only.foldl
    | intro s1 x1 h1
    | dsimp only
    | ((with_reducible apply Only.set_store); exact hp (by decide))

theorem finishArming_only {P : List Part} {o₀ : State} {s : State} (h₀ : Only P o₀ s) (hp : [.issues, .store] ⊆ P) (handle : Nat) :
    Only P o₀ (finishArming s handle) := by
  unfold finishArming
  repeat' first
    | with_reducible assumption
    | ((with_reducible refine List.Subset.trans ?_ hp); decide)
    | with_reducible apply dropPreps_only
    | with_reducible apply State.setSent_only
    | with_reducible apply State.complete_only
    | with_reducible apply Only.ite
    | with_reducible apply Only.foldl
    | intro s1 x1 h1
    | dsimp only
    | split

theorem armPrepared_only {P : List Part} {o₀ : State} {s : State} (h₀ : Only P o₀ s) (hp : [.out, .issues, .store, .elems, .links] ⊆ P) (p : Prep) (l : List (Rec128 × Nat)) (moves : List (Nat × Rec128)) :
    Only P o₀ (armPrepared s p l moves) := by
  unfold armPrepared
  repeat' first
    | with_reducible assumption
    | ((with_reducible refine List.Subset.trans ?_ hp); decide)
    | with_reducible apply setPrep_only
    | with_reducible apply promoteAll_only
    | with_reducible apply State.modSent_only
    | with_reducible apply finishArming_only
    | with_reducible apply writeArmSlots_only
    | with_reducible apply State.fail_only
    | with_reducible apply dropPreps_only
    | with_reducible apply Only.ite
    | with_reducible apply Only.foldl
    | intro s1 x1 h1
    | dsimp only
    | split

theorem noteSerial_only {P : List Part} {o₀ : State} {s : State} (h₀ : Only P o₀ s) (hp : [.links] ⊆ P) (l : Launch) (t : Nat) :
    Only P o₀ (noteSerial s l t) := by
  unfold noteSerial
  repeat' first
    | with_reducible assumption
    | with_reducible apply State.modLink_only

theorem refusePrep_only {P : List Part} {o₀ : State} {s : State} (h₀ : Only P o₀ s) (hp : [.out, .issues, .owed, .store] ⊆ P) (p : Prep) (clauses : List Rec128) (reasons : List Nat) :
    Only P o₀ (refusePrep s p clauses reasons) := by
  unfold refusePrep
  repeat' first
    | with_reducible assumption
    | ((with_reducible refine List.Subset.trans ?_ hp); decide)
    | with_reducible apply endTrigger_only
    | with_reducible apply refuseLaunch_only
    | with_reducible apply dropPreps_only

theorem countLate_only {P : List Part} {o₀ : State} {s : State} (h₀ : Only P o₀ s) (hp : [.store] ⊆ P)  :
    Only P o₀ (countLate s) := by
  unfold countLate
  repeat' first
    | with_reducible assumption
    | with_reducible apply Only.ite
    | with_reducible apply Only.foldl
    | intro s1 x1 h1
    | dsimp only
    | ((with_reducible apply Only.set_store); exact hp (by decide))

theorem missStep_only {P : List Part} {o₀ : State} {s : State} (h₀ : Only P o₀ s) (hp : [.owed, .store] ⊆ P) (n : Nat) :
    Only P o₀ (missStep s n) := by
  unfold missStep
  repeat' first
    | with_reducible assumption
    | ((with_reducible refine List.Subset.trans ?_ hp); decide)
    | with_reducible apply stepReport_only
    | with_reducible apply dropPreps_only
    | with_reducible apply countLate_only
    | with_reducible apply State.setPara_only
    | with_reducible apply Only.ite

theorem routeCounts_only {P : List Part} {o₀ : State} {s : State} (h₀ : Only P o₀ s) (hp : [.store] ⊆ P) (w : Work) :
    Only P o₀ (routeCounts s w) := by
  unfold routeCounts
  repeat' first
    | with_reducible assumption
    | with_reducible apply Only.ite
    | with_reducible apply Only.foldl
    | intro s1 x1 h1
    | dsimp only
    | ((with_reducible apply Only.set_store); exact hp (by decide))

theorem prepareOne_only {P : List Part} {o₀ : State} {s : State} (h₀ : Only P o₀ s) (hp : [.out, .issues, .owed, .store, .elems, .links] ⊆ P) (p : Prep) :
    Only P o₀ (prepareOne s p) := by
  unfold prepareOne
  repeat' first
    | with_reducible assumption
    | ((with_reducible refine List.Subset.trans ?_ hp); decide)
    | with_reducible apply routeCounts_only
    | with_reducible apply armWithheld_only
    | with_reducible apply armPrepared_only
    | with_reducible apply refusePrep_only
    | with_reducible apply promoteAll_only
    | with_reducible apply setPrep_only
    | with_reducible apply Only.ite

theorem doorbellReport_only {P : List Part} {o₀ : State} {s : State} (h₀ : Only P o₀ s) (hp : [.owed] ⊆ P) (q : Nat) (tag : Nat) (handle : Nat) (status : Nat) :
    Only P o₀ (doorbellReport s q tag handle status) := by
  unfold doorbellReport
  repeat' first
    | with_reducible assumption
    | with_reducible apply State.event_only

theorem notReadyPrep_only {P : List Part} {o₀ : State} {s : State} (h₀ : Only P o₀ s) (hp : [.issues, .owed, .store] ⊆ P) (p : Prep) :
    Only P o₀ (notReadyPrep s p) := by
  unfold notReadyPrep
  repeat' first
    | with_reducible assumption
    | ((with_reducible refine List.Subset.trans ?_ hp); decide)
    | with_reducible apply dropPreps_only
    | with_reducible apply State.complete_only
    | with_reducible apply State.modSent_only
    | with_reducible apply doorbellReport_only
    | with_reducible apply Only.ite
    | with_reducible apply Only.foldl
    | intro s1 x1 h1
    | dsimp only
    | split

theorem sendClass_only {P : List Part} {o₀ : State} {s : State} (h₀ : Only P o₀ s) (hp : [.out, .elems, .links] ⊆ P) (e : Nat) (new : Option Nat) :
    Only P o₀ (sendClass s e new) := by
  unfold sendClass
  repeat' first
    | with_reducible assumption
    | ((with_reducible refine List.Subset.trans ?_ hp); decide)
    | with_reducible apply State.modElem_only
    | with_reducible apply State.down_only
    | with_reducible apply Only.ite

theorem latchElem_only {P : List Part} {o₀ : State} {s : State} (h₀ : Only P o₀ s) (hp : [.out, .elems, .links] ⊆ P) (l : Launch) (e : Nat) :
    Only P o₀ (latchElem l s e) := by
  unfold latchElem
  repeat' first
    | with_reducible assumption
    | ((with_reducible refine List.Subset.trans ?_ hp); decide)
    | with_reducible apply State.modElem_only
    | with_reducible apply sendClass_only
    | with_reducible apply Only.ite

theorem tileLatched_only {P : List Part} {o₀ : State} {s : State} (h₀ : Only P o₀ s) (hp : [.out, .store, .elems, .links] ⊆ P) (l : Launch) (t : Nat) :
    Only P o₀ (tileLatched s l t) := by
  unfold tileLatched
  repeat' first
    | with_reducible assumption
    | ((with_reducible refine List.Subset.trans ?_ hp); decide)
    | with_reducible apply noteSerial_only
    | with_reducible apply setTileResult_only
    | with_reducible apply latchElem_only
    | with_reducible apply Only.ite
    | with_reducible apply Only.foldl
    | intro s1 x1 h1
    | dsimp only
    | ((with_reducible apply Only.set_store); exact hp (by decide))

theorem dispatchToken_only {P : List Part} {o₀ : State} {s : State} (h₀ : Only P o₀ s) (hp : [.out, .issues, .owed, .store, .elems, .runs, .calib, .calRuns, .links, .mirror, .digest] ⊆ P) (tk : CommitToken) :
    Only P o₀ (dispatchToken s tk) := by
  unfold dispatchToken
  repeat' first
    | with_reducible assumption
    | ((with_reducible refine List.Subset.trans ?_ hp); decide)
    | with_reducible apply checkSettle_only
    | with_reducible apply issueToken_only
    | with_reducible apply endTrigger_only
    | with_reducible apply refuseLaunch_only
    | with_reducible apply Only.ite

theorem losRaise_only {P : List Part} {o₀ : State} {s0 : State} (h₀ : Only P o₀ s0) (hp : [.out, .issues, .owed, .store, .smu, .adm, .mate] ⊆ P) (m : Nat) :
    Only P o₀ (losRaise s0 m) := by
  unfold losRaise
  repeat' first
    | with_reducible assumption
    | ((with_reducible refine List.Subset.trans ?_ hp); decide)
    | with_reducible apply State.setMonitor_only
    | with_reducible apply State.colour_only
    | with_reducible apply policedReport_only
    | with_reducible apply fireSentence_only
    | with_reducible apply ignoreTrigger_only
    | with_reducible apply Only.ite
    | with_reducible apply Only.foldl
    | intro s1 x1 h1
    | dsimp only
    | split
    | ((with_reducible apply Only.set_mate); exact .inl (hp (by decide)); (with_reducible exact .inr rfl); (with_reducible exact .inr ⟨rfl, rfl, rfl⟩))

theorem tileMissed_only {P : List Part} {o₀ : State} {s : State} (h₀ : Only P o₀ s) (hp : [.store] ⊆ P) (l : Launch) (t : Nat) :
    Only P o₀ (tileMissed s l t) := by
  unfold tileMissed
  repeat' first
    | with_reducible assumption
    | with_reducible apply setTileResult_only
    | with_reducible apply Only.ite
    | with_reducible apply Only.foldl
    | intro s1 x1 h1
    | dsimp only
    | ((with_reducible apply Only.set_store); exact hp (by decide))

theorem noteLatency_only {P : List Part} {o₀ : State} {s : State} (h₀ : Only P o₀ s) (hp : [.store] ⊆ P) (arrival : Nat) (tick : Nat) :
    Only P o₀ (noteLatency s arrival tick) := by
  unfold noteLatency
  repeat' first
    | with_reducible assumption
    | with_reducible apply Only.ite
    | with_reducible apply Only.foldl
    | intro s1 x1 h1
    | dsimp only
    | ((with_reducible apply Only.set_store); exact hp (by decide))

theorem dispatchP0_only {P : List Part} {o₀ : State} {s : State} (h₀ : Only P o₀ s) (hp : [.out, .issues, .owed, .store, .elems, .runs, .calib, .calRuns, .links, .mirror, .digest] ⊆ P) (r : P0Req) :
    Only P o₀ (dispatchP0 s r) := by
  unfold dispatchP0
  repeat' first
    | with_reducible assumption
    | ((with_reducible refine List.Subset.trans ?_ hp); decide)
    | with_reducible apply refuseAll_only
    | with_reducible apply noteLatency_only
    | with_reducible apply dispatchToken_only
    | with_reducible apply noteCauses_only
    | with_reducible apply Only.ite
    | with_reducible apply Only.foldl
    | intro s1 x1 h1
    | dsimp only
    | ((with_reducible apply Only.set_store); exact hp (by decide))

end Sys2Proof.Safety
end

