-- ==== Sys2Proof/Laws/OnlyFences.lean ====
section
/-! SUPPORT. What the functions of `Machine/Fences.lean` may write: one lemma each. -/

set_option Elab.async false

namespace Sys2Proof.Safety

open Sys2Proof.Machine

theorem fenceLaunchTiles_only {P : List Part} {o₀ : State} {s : State} (h₀ : Only P o₀ s) (hp : [.store] ⊆ P) (p : Nat → Bool) :
    Only P o₀ (fenceLaunchTiles s p) := by
  unfold fenceLaunchTiles
  repeat' first
    | with_reducible assumption
    | with_reducible apply Only.ite
    | with_reducible apply Only.foldl
    | intro s1 x1 h1
    | dsimp only
    | ((with_reducible apply Only.set_store); exact hp (by decide))

theorem fenceRegion_only {P : List Part} {o₀ : State} {s : State} (h₀ : Only P o₀ s) (hp : [.out, .issues, .owed, .regions, .store, .elems, .runs, .calRuns, .links, .matrix] ⊆ P) (n : Nat) :
    Only P o₀ (fenceRegion s n) := by
  unfold fenceRegion
  repeat' first
    | with_reducible assumption
    | with_reducible apply abortBurst_only
    | ((with_reducible refine List.Subset.trans ?_ hp); decide)
    | with_reducible apply State.setRegion_only
    | with_reducible apply staleByElem_only
    | with_reducible apply loseCalRuns_only
    | with_reducible apply endRuns_only
    | with_reducible apply settleAll_only
    | with_reducible apply fenceLaunchTiles_only
    | with_reducible apply Only.ite

theorem linkDown_only {P : List Part} {o₀ : State} {s : State} (h₀ : Only P o₀ s) (hp : [.out, .faults, .irq, .loops, .elems, .smu, .runs, .calRuns, .links, .lsu, .house] ⊆ P) (t : Nat) :
    Only P o₀ (linkDown s t) := by
  unfold linkDown
  repeat' first
    | with_reducible assumption
    | ((with_reducible refine List.Subset.trans ?_ hp); decide)
    | with_reducible apply State.setLink_only
    | with_reducible apply loseCalRuns_only
    | with_reducible apply endRuns_only
    | with_reducible apply State.report_only
    | with_reducible apply Only.ite
    | with_reducible apply Only.foldl
    | intro s1 x1 h1
    | dsimp only
    | ((with_reducible apply Only.set_smu); exact .inl (hp (by decide)); exact .inl (hp (by decide)))

theorem fenceTile_only {P : List Part} {o₀ : State} {s : State} (h₀ : Only P o₀ s) (hp : [.out, .faults, .issues, .owed, .store, .elems, .runs, .calRuns, .links] ⊆ P) (t : Nat) :
    Only P o₀ (fenceTile s t) := by
  unfold fenceTile
  repeat' first
    | with_reducible assumption
    | ((with_reducible refine List.Subset.trans ?_ hp); decide)
    | with_reducible apply staleByElem_only
    | with_reducible apply loseCalRuns_only
    | with_reducible apply endRuns_only
    | with_reducible apply settleAll_only
    | with_reducible apply fenceLaunchTiles_only
    | with_reducible apply Only.ite
    | with_reducible apply Only.foldl
    | intro s1 x1 h1
    | dsimp only
    | ((with_reducible apply Only.set_faults); exact .inl (hp (by decide)); (with_reducible exact .inr rfl); (with_reducible exact .inr rfl))

end Sys2Proof.Safety
end

