-- ==== Sys2Proof/Laws/OnlyLinks.lean ====
section
/-! SUPPORT. What the functions of `Machine/Links.lean` may write: one lemma each. -/

set_option Elab.async false

namespace Sys2Proof.Safety

open Sys2Proof.Machine

theorem State.setPort_only {P : List Part} {o₀ : State} {s : State} (h₀ : Only P o₀ s) (hp : [.links, .tiles] ⊆ P) (e : LinkEnd) (p : LinkPort) :
    Only P o₀ (State.setPort s e p) := by
  unfold State.setPort
  repeat' first
    | with_reducible assumption
    | ((with_reducible refine List.Subset.trans ?_ hp); decide)
    | with_reducible apply State.modLink_only
    | with_reducible apply State.modTile_only
    | with_reducible apply Only.ite

theorem sendBlock_only {P : List Part} {o₀ : State} {s : State} (h₀ : Only P o₀ s) (hp : [.out, .links, .tiles] ⊆ P) (e : LinkEnd) (name : String) (fields : List Nat) :
    Only P o₀ (sendBlock s e name fields) := by
  unfold sendBlock
  repeat' first
    | with_reducible assumption
    | ((with_reducible refine List.Subset.trans ?_ hp); decide)
    | with_reducible apply State.down_only
    | with_reducible apply State.up_only
    | with_reducible apply Only.ite

theorem takeNak_only {P : List Part} {o₀ : State} {s : State} (h₀ : Only P o₀ s) (hp : [.out, .faults, .irq, .loops, .elems, .smu, .runs, .calRuns, .links, .tiles, .lsu, .house] ⊆ P) (e : LinkEnd) (multi : Bool) (n : Nat) :
    Only P o₀ (takeNak s e multi n) := by
  unfold takeNak
  repeat' first
    | with_reducible assumption
    | ((with_reducible refine List.Subset.trans ?_ hp); decide)
    | with_reducible apply State.setPort_only
    | with_reducible apply State.modLink_only
    | with_reducible apply linkDown_only
    | with_reducible apply sendBlock_only
    | with_reducible apply Only.ite

theorem takeHeader_only {P : List Part} {o₀ : State} {s : State} (h₀ : Only P o₀ s) (hp : [.out, .faults, .irq, .loops, .elems, .smu, .runs, .calRuns, .links, .tiles, .lsu, .house] ⊆ P) (e : LinkEnd) (multi : Bool) (control : BitVec 64) :
    Only P o₀ (takeHeader s e multi control) := by
  unfold takeHeader
  repeat' first
    | with_reducible assumption
    | ((with_reducible refine List.Subset.trans ?_ hp); decide)
    | with_reducible apply State.setPort_only
    | with_reducible apply takeNak_only
    | with_reducible apply Only.ite

theorem flushEpoch_only {P : List Part} {o₀ : State} {s : State} (h₀ : Only P o₀ s) (hp : [.out, .links] ⊆ P) (t : Nat) :
    Only P o₀ (flushEpoch s t) := by
  unfold flushEpoch
  repeat' first
    | with_reducible assumption
    | ((with_reducible refine List.Subset.trans ?_ hp); decide)
    | with_reducible apply State.down_only
    | with_reducible apply State.setLink_only
    | with_reducible apply Only.ite

theorem retrain_only {P : List Part} {o₀ : State} {s : State} (h₀ : Only P o₀ s) (hp : [.out, .faults, .irq, .loops, .elems, .smu, .runs, .calRuns, .links, .lsu, .house] ⊆ P) (t : Nat) :
    Only P o₀ (retrain s t) := by
  unfold retrain
  repeat' first
    | with_reducible assumption
    | with_reducible apply linkDown_only
    | with_reducible apply Only.ite

theorem sendNak_only {P : List Part} {o₀ : State} {s : State} (h₀ : Only P o₀ s) (hp : [.out, .links, .tiles] ⊆ P) (e : LinkEnd) (multi : Bool) :
    Only P o₀ (sendNak s e multi) := by
  unfold sendNak
  repeat' first
    | with_reducible assumption
    | ((with_reducible refine List.Subset.trans ?_ hp); decide)
    | with_reducible apply State.setPort_only
    | with_reducible apply sendBlock_only

theorem sendAck_only {P : List Part} {o₀ : State} {s : State} (h₀ : Only P o₀ s) (hp : [.out, .links, .tiles] ⊆ P) (e : LinkEnd) (multi : Bool) :
    Only P o₀ (sendAck s e multi) := by
  unfold sendAck
  repeat' first
    | with_reducible assumption
    | ((with_reducible refine List.Subset.trans ?_ hp); decide)
    | with_reducible apply State.setPort_only
    | with_reducible apply sendBlock_only

theorem askRead_only {P : List Part} {o₀ : State} {s : State} (h₀ : Only P o₀ s) (hp : [.out, .links] ⊆ P) (t : Nat) :
    Only P o₀ (askRead s t) := by
  unfold askRead
  repeat' first
    | with_reducible assumption
    | ((with_reducible refine List.Subset.trans ?_ hp); decide)
    | with_reducible apply State.down_only
    | with_reducible apply State.setLink_only
    | with_reducible apply Only.ite

theorem claimsDone_only {P : List Part} {o₀ : State} {s : State} (h₀ : Only P o₀ s) (hp : [.out, .free, .issues, .store, .elems, .smu, .calib, .calRuns, .links, .tiles, .mate, .handover, .chip] ⊆ P)  :
    Only P o₀ (claimsDone s) := by
  unfold claimsDone
  repeat' first
    | with_reducible assumption
    | ((with_reducible refine List.Subset.trans ?_ hp); decide)
    | with_reducible apply takeoverEnd_only
    | with_reducible apply tryAdoptAll_only
    | with_reducible apply Only.ite
    | with_reducible apply Only.foldl
    | intro s1 x1 h1
    | dsimp only
    | ((with_reducible apply Only.set_mate); exact .inl (hp (by decide)); exact .inl (hp (by decide)); (with_reducible exact .inr ⟨rfl, rfl, rfl⟩))

theorem claimGranted_only {P : List Part} {o₀ : State} {s : State} (h₀ : Only P o₀ s) (hp : [.out, .free, .issues, .store, .elems, .smu, .calib, .calRuns, .links, .tiles, .mate, .handover, .chip] ⊆ P) (t : Nat) :
    Only P o₀ (claimGranted s t) := by
  unfold claimGranted
  repeat' first
    | with_reducible assumption
    | ((with_reducible refine List.Subset.trans ?_ hp); decide)
    | with_reducible apply State.modLink_only
    | with_reducible apply claimsDone_only
    | with_reducible apply askRead_only
    | with_reducible apply Only.ite
    | with_reducible apply Only.foldl
    | intro s1 x1 h1
    | dsimp only
    | ((with_reducible apply Only.set_mate); exact .inl (hp (by decide)); exact .inl (hp (by decide)); (with_reducible exact .inr ⟨rfl, rfl, rfl⟩))

theorem writeAcked_only {P : List Part} {o₀ : State} {s : State} (h₀ : Only P o₀ s) (hp : [.out, .links] ⊆ P) (t : Nat) :
    Only P o₀ (writeAcked s t) := by
  unfold writeAcked
  repeat' first
    | with_reducible assumption
    | ((with_reducible refine List.Subset.trans ?_ hp); decide)
    | with_reducible apply flushEpoch_only
    | with_reducible apply State.modLink_only

theorem sendClaim_only {P : List Part} {o₀ : State} {s : State} (h₀ : Only P o₀ s) (hp : [.out, .links] ⊆ P) (t : Nat) :
    Only P o₀ (sendClaim s t) := by
  unfold sendClaim
  repeat' first
    | with_reducible assumption
    | ((with_reducible refine List.Subset.trans ?_ hp); decide)
    | with_reducible apply State.down_only
    | with_reducible apply State.modLink_only

theorem injectCrc_only {P : List Part} {o₀ : State} {s : State} (h₀ : Only P o₀ s) (hp : [.links] ⊆ P) (t : Nat) :
    Only P o₀ (injectCrc s t) := by
  unfold injectCrc
  repeat' first
    | with_reducible assumption
    | with_reducible apply State.modLink_only

theorem claimRefused_only {P : List Part} {o₀ : State} {s : State} (h₀ : Only P o₀ s) (hp : [.out, .faults, .irq, .loops, .elems, .runs, .calRuns, .links, .lsu, .mate, .house] ⊆ P) (t : Nat) :
    Only P o₀ (claimRefused s t) := by
  unfold claimRefused
  repeat' first
    | with_reducible assumption
    | ((with_reducible refine List.Subset.trans ?_ hp); decide)
    | with_reducible apply State.modLink_only
    | with_reducible apply releaseTiles_only
    | with_reducible apply sendRole_only
    | with_reducible apply State.report_only
    | with_reducible apply askRead_only
    | with_reducible apply Only.ite
    | with_reducible apply Only.foldl
    | intro s1 x1 h1
    | dsimp only
    | split
    | ((with_reducible apply Only.set_mate); exact .inl (hp (by decide)); (with_reducible exact .inr rfl); (with_reducible exact .inr ⟨rfl, rfl, rfl⟩))

theorem beginStep_only {P : List Part} {o₀ : State} {s : State} (h₀ : Only P o₀ s) (hp : [.out, .links] ⊆ P) (t : Nat) (speed : Nat) :
    Only P o₀ (beginStep s t speed) := by
  unfold beginStep
  repeat' first
    | with_reducible assumption
    | ((with_reducible refine List.Subset.trans ?_ hp); decide)
    | with_reducible apply State.down_only
    | with_reducible apply State.modLink_only

theorem takeTaps_only {P : List Part} {o₀ : State} {s : State} (h₀ : Only P o₀ s) (hp : [.out, .links] ⊆ P) (t : Nat) (b : TrainBlock) :
    Only P o₀ (takeTaps s t b) := by
  unfold takeTaps
  repeat' first
    | with_reducible assumption
    | ((with_reducible refine List.Subset.trans ?_ hp); decide)
    | with_reducible apply State.down_only
    | with_reducible apply State.setLink_only

theorem linkActive_only {P : List Part} {o₀ : State} {s : State} (h₀ : Only P o₀ s) (hp : [.out, .links, .tiles] ⊆ P) (t : Nat) (limited : Bool) :
    Only P o₀ (linkActive s t limited) := by
  unfold linkActive
  repeat' first
    | with_reducible assumption
    | ((with_reducible refine List.Subset.trans ?_ hp); decide)
    | with_reducible apply State.modLink_only
    | with_reducible apply State.modTile_only
    | with_reducible apply sendClaim_only
    | with_reducible apply Only.ite

theorem pullLog_only {P : List Part} {o₀ : State} {s : State} (h₀ : Only P o₀ s) (hp : [.out, .links] ⊆ P) (t : Nat) :
    Only P o₀ (pullLog s t) := by
  unfold pullLog
  repeat' first
    | with_reducible assumption
    | ((with_reducible refine List.Subset.trans ?_ hp); decide)
    | with_reducible apply State.down_only
    | with_reducible apply State.setLink_only
    | with_reducible apply Only.ite

end Sys2Proof.Safety
end

