-- ==== Sys2Proof/Laws/OnlyMating.lean ====
section
/-! SUPPORT. What the functions of `Machine/Mating.lean` may write: one lemma each. -/

set_option Elab.async false

namespace Sys2Proof.Safety

open Sys2Proof.Machine

theorem askSnapshot_only {P : List Part} {o₀ : State} {s : State} (h₀ : Only P o₀ s) (hp : [.out, .mate] ⊆ P)  :
    Only P o₀ (askSnapshot s) := by
  unfold askSnapshot
  repeat' first
    | with_reducible assumption
    | ((with_reducible refine List.Subset.trans ?_ hp); decide)
    | with_reducible apply State.emit_only
    | with_reducible apply Only.ite
    | with_reducible apply Only.foldl
    | intro s1 x1 h1
    | dsimp only
    | ((with_reducible apply Only.set_mate); exact .inl (hp (by decide)); (with_reducible exact .inr rfl); (with_reducible exact .inr ⟨rfl, rfl, rfl⟩))

theorem becomeStandby_only {P : List Part} {o₀ : State} {s : State} (h₀ : Only P o₀ s) (hp : [.out, .issues, .owed, .store, .elems, .runs, .calRuns, .links, .mate, .handover, .mirror, .chip, .digest] ⊆ P)  :
    Only P o₀ (becomeStandby s) := by
  unfold becomeStandby
  repeat' first
    | with_reducible assumption
    | ((with_reducible refine List.Subset.trans ?_ hp); decide)
    | with_reducible apply notReadyPrep_only
    | with_reducible apply State.complete_only
    | with_reducible apply State.modSent_only
    | with_reducible apply doorbellReport_only
    | with_reducible apply loseTile_only
    | with_reducible apply settleAll_only
    | with_reducible apply askSnapshot_only
    | with_reducible apply loseCalRuns_only
    | with_reducible apply endRuns_only
    | with_reducible apply Only.ite
    | with_reducible apply Only.foldl
    | intro s1 x1 h1
    | dsimp only
    | split
    | ((with_reducible apply Only.set_chip); exact .inl (hp (by decide)); (with_reducible exact .inr rfl); exact .inl (hp (by decide)))
    | ((with_reducible apply Only.set_mate); exact .inl (hp (by decide)); exact .inl (hp (by decide)); exact .inl (hp (by decide)))
    | ((with_reducible apply Only.set_store); exact hp (by decide))
    | ((with_reducible apply Only.mk); rotate_left; (intro p hn; cases p <;> (first | (with_reducible rfl) | exact absurd (hp (by decide)) hn | (with_reducible exact ⟨rfl, rfl⟩) | (with_reducible exact ⟨rfl, rfl, rfl⟩) | (with_reducible exact ⟨rfl, rfl, rfl, rfl⟩))))

theorem decideRole_only {P : List Part} {o₀ : State} {s : State} (h₀ : Only P o₀ s) (hp : [.out, .issues, .owed, .store, .elems, .runs, .calRuns, .links, .mate, .handover, .mirror, .chip, .digest] ⊆ P)  :
    Only P o₀ (decideRole s) := by
  unfold decideRole
  repeat' first
    | with_reducible assumption
    | with_reducible apply becomeStandby_only
    | with_reducible apply Only.ite
    | with_reducible apply Only.foldl
    | intro s1 x1 h1
    | dsimp only
    | split
    | ((with_reducible apply Only.set_mate); exact .inl (hp (by decide)); exact .inl (hp (by decide)); exact .inl (hp (by decide)))

theorem handoverRefused_only {P : List Part} {o₀ : State} {s : State} (h₀ : Only P o₀ s) (hp : [.out, .issues, .links, .handover] ⊆ P) (h : Hdr) (ret : Bool) :
    Only P o₀ (handoverRefused s h ret) := by
  unfold handoverRefused
  repeat' first
    | with_reducible assumption
    | ((with_reducible refine List.Subset.trans ?_ hp); decide)
    | with_reducible apply sendClaim_only
    | with_reducible apply endHandover_only
    | with_reducible apply Only.ite
    | with_reducible apply Only.foldl
    | intro s1 x1 h1

theorem resolveTile_only {P : List Part} {o₀ : State} {s : State} (h₀ : Only P o₀ s) (hp : [.store, .links, .chip] ⊆ P) (l : Launch) (t : Nat) :
    Only P o₀ (resolveTile l s t) := by
  unfold resolveTile
  repeat' first
    | with_reducible assumption
    | ((with_reducible refine List.Subset.trans ?_ hp); decide)
    | with_reducible apply setTileResult_only
    | with_reducible apply noteSerial_only
    | with_reducible apply State.modLink_only
    | with_reducible apply Only.ite
    | with_reducible apply Only.foldl
    | intro s1 x1 h1
    | dsimp only
    | ((with_reducible apply Only.set_chip); exact .inl (hp (by decide)); (with_reducible exact .inr rfl); (with_reducible exact .inr ⟨rfl, rfl, rfl, rfl⟩))

theorem resolveToken_only {P : List Part} {o₀ : State} {s : State} (h₀ : Only P o₀ s) (hp : [.out, .issues, .owed, .store, .elems, .links, .chip] ⊆ P) (l : Launch) :
    Only P o₀ (resolveToken s l) := by
  unfold resolveToken
  repeat' first
    | with_reducible assumption
    | ((with_reducible refine List.Subset.trans ?_ hp); decide)
    | with_reducible apply checkSettle_only
    | with_reducible apply resolveTile_only
    | with_reducible apply Only.ite
    | with_reducible apply Only.foldl
    | intro s1 x1 h1

theorem compareDigests_only {P : List Part} {o₀ : State} {s : State} (h₀ : Only P o₀ s) (hp : [.mate] ⊆ P)  :
    Only P o₀ (compareDigests s) := by
  unfold compareDigests
  repeat' first
    | with_reducible assumption
    | with_reducible apply Only.ite
    | with_reducible apply Only.foldl
    | intro s1 x1 h1
    | dsimp only
    | ((with_reducible apply Only.set_mate); exact .inl (hp (by decide)); (with_reducible exact .inr rfl); (with_reducible exact .inr ⟨rfl, rfl, rfl⟩))

theorem pathAlarm_only {P : List Part} {o₀ : State} {s : State} (h₀ : Only P o₀ s) (hp : [.out, .faults, .irq, .loops, .elems, .runs, .calRuns, .links, .lsu, .mate, .house] ⊆ P)  :
    Only P o₀ (pathAlarm s) := by
  unfold pathAlarm
  repeat' first
    | with_reducible assumption
    | ((with_reducible refine List.Subset.trans ?_ hp); decide)
    | with_reducible apply State.report_only
    | with_reducible apply Only.ite
    | with_reducible apply Only.foldl
    | intro s1 x1 h1
    | dsimp only
    | ((with_reducible apply Only.set_mate); exact .inl (hp (by decide)); (with_reducible exact .inr rfl); (with_reducible exact .inr ⟨rfl, rfl, rfl⟩))

theorem startTakeover_only {P : List Part} {o₀ : State} {s : State} (h₀ : Only P o₀ s) (hp : [.out, .free, .issues, .store, .elems, .smu, .calib, .calRuns, .links, .tiles, .mate, .handover, .chip] ⊆ P)  :
    Only P o₀ (startTakeover s) := by
  unfold startTakeover
  repeat' first
    | with_reducible assumption
    | ((with_reducible refine List.Subset.trans ?_ hp); decide)
    | with_reducible apply claimsDone_only
    | with_reducible apply sendClaim_only
    | with_reducible apply Only.ite
    | with_reducible apply Only.foldl
    | intro s1 x1 h1
    | dsimp only
    | ((with_reducible apply Only.set_mate); exact .inl (hp (by decide)); exact .inl (hp (by decide)); (with_reducible exact .inr ⟨rfl, rfl, rfl⟩))

theorem matePaths_only {P : List Part} {o₀ : State} {s : State} (h₀ : Only P o₀ s) (hp : [.out, .free, .faults, .irq, .issues, .store, .loops, .elems, .smu, .runs, .calib, .calRuns, .links, .tiles, .lsu, .mate, .handover, .chip, .house] ⊆ P)  :
    Only P o₀ (matePaths s) := by
  unfold matePaths
  repeat' first
    | with_reducible assumption
    | ((with_reducible refine List.Subset.trans ?_ hp); decide)
    | with_reducible apply pathAlarm_only
    | with_reducible apply startTakeover_only
    | with_reducible apply Only.ite
    | with_reducible apply Only.foldl
    | intro s1 x1 h1
    | dsimp only
    | ((with_reducible apply Only.set_mate); exact .inl (hp (by decide)); exact .inl (hp (by decide)); (with_reducible exact .inr ⟨rfl, rfl, rfl⟩))

theorem setMismatch_only {P : List Part} {o₀ : State} {s : State} (h₀ : Only P o₀ s) (hp : [.out, .faults, .irq, .loops, .elems, .runs, .calRuns, .links, .lsu, .mate, .house] ⊆ P)  :
    Only P o₀ (setMismatch s) := by
  unfold setMismatch
  repeat' first
    | with_reducible assumption
    | ((with_reducible refine List.Subset.trans ?_ hp); decide)
    | with_reducible apply State.report_only
    | with_reducible apply Only.ite
    | with_reducible apply Only.foldl
    | intro s1 x1 h1
    | dsimp only
    | ((with_reducible apply Only.set_mate); exact .inl (hp (by decide)); (with_reducible exact .inr rfl); (with_reducible exact .inr ⟨rfl, rfl, rfl⟩))

theorem resolvedAll_only {P : List Part} {o₀ : State} {s : State} (h₀ : Only P o₀ s) (hp : [.out, .free, .issues, .store, .elems, .smu, .calib, .calRuns, .links, .tiles, .mate, .handover, .chip] ⊆ P)  :
    Only P o₀ (resolvedAll s) := by
  unfold resolvedAll
  repeat' first
    | with_reducible assumption
    | ((with_reducible refine List.Subset.trans ?_ hp); decide)
    | with_reducible apply takeoverEnd_only
    | with_reducible apply tryAdoptAll_only
    | with_reducible apply Only.ite
    | with_reducible apply Only.foldl
    | intro s1 x1 h1
    | dsimp only
    | ((with_reducible apply Only.set_mate); exact .inl (hp (by decide)); exact .inl (hp (by decide)); (with_reducible exact .inr ⟨rfl, rfl, rfl⟩))

theorem armMirrored_only {P : List Part} {o₀ : State} {s : State} (h₀ : Only P o₀ s) (hp : [.store, .elems] ⊆ P) (h : Nat) :
    Only P o₀ (armMirrored s h) := by
  unfold armMirrored
  repeat' first
    | with_reducible assumption
    | ((with_reducible refine List.Subset.trans ?_ hp); decide)
    | with_reducible apply prepareMirrored_only
    | with_reducible apply promoteAll_only
    | with_reducible apply Only.ite

theorem clearGap_only {P : List Part} {o₀ : State} {s : State} (h₀ : Only P o₀ s) (hp : [.mate] ⊆ P)  :
    Only P o₀ (clearGap s) := by
  unfold clearGap
  repeat' first
    | with_reducible assumption
    | with_reducible apply Only.ite
    | with_reducible apply Only.foldl
    | intro s1 x1 h1
    | dsimp only
    | ((with_reducible apply Only.set_mate); exact .inl (hp (by decide)); (with_reducible exact .inr rfl); (with_reducible exact .inr ⟨rfl, rfl, rfl⟩))

theorem tileIdent_only {P : List Part} {o₀ : State} {s : State} (h₀ : Only P o₀ s) (hp : [.out, .tiles] ⊆ P) (t : Nat) :
    Only P o₀ (tileIdent s t) := by
  unfold tileIdent
  repeat' first
    | with_reducible assumption
    | with_reducible apply State.up_only
    | with_reducible apply Only.ite
    | with_reducible apply Only.foldl
    | intro s1 x1 h1

theorem applyRecord_only {P : List Part} {o₀ : State} {s : State} (h₀ : Only P o₀ s) (hp : [.out, .faults, .irq, .store, .loops, .elems, .runs, .calib, .calRuns, .links, .lsu, .mate, .house] ⊆ P) (r : MirrorRec) :
    Only P o₀ (applyRecord s r) := by
  unfold applyRecord
  repeat' first
    | with_reducible assumption
    | ((with_reducible refine List.Subset.trans ?_ hp); decide)
    | with_reducible apply enterToken_only
    | with_reducible apply State.setConn_only
    | with_reducible apply armMirrored_only
    | with_reducible apply State.setSent_only
    | with_reducible apply State.modSent_only
    | with_reducible apply State.setPara_only
    | with_reducible apply State.modElem_only
    | with_reducible apply State.modLink_only
    | with_reducible apply State.report_only
    | with_reducible apply State.setCls_only
    | with_reducible apply takeSurface_only
    | with_reducible apply dropLaunch_only
    | with_reducible apply Only.ite
    | with_reducible apply Only.foldl
    | intro s1 x1 h1
    | dsimp only
    | split
    | ((with_reducible apply Only.set_calib); exact .inl (hp (by decide)); exact .inl (hp (by decide)))
    | ((with_reducible apply Only.set_mate); exact .inl (hp (by decide)); (with_reducible exact .inr rfl); (with_reducible exact .inr ⟨rfl, rfl, rfl⟩))
    | ((with_reducible apply Only.set_store); exact hp (by decide))

theorem ackRecords_only {P : List Part} {o₀ : State} {s : State} (h₀ : Only P o₀ s) (hp : [.mate, .mirror] ⊆ P) (n : Nat) :
    Only P o₀ (ackRecords s n) := by
  unfold ackRecords
  repeat' first
    | with_reducible assumption
    | with_reducible apply Only.ite
    | with_reducible apply Only.foldl
    | intro s1 x1 h1
    | dsimp only
    | ((with_reducible apply Only.set_mate); exact .inl (hp (by decide)); (with_reducible exact .inr rfl); exact .inl (hp (by decide)))

theorem sendSnapshot_only {P : List Part} {o₀ : State} {s : State} (h₀ : Only P o₀ s) (hp : [.out, .mirror] ⊆ P)  :
    Only P o₀ (sendSnapshot s) := by
  unfold sendSnapshot
  repeat' first
    | with_reducible assumption
    | with_reducible apply sendMirror_only
    | with_reducible apply Only.ite
    | with_reducible apply Only.foldl
    | intro s1 x1 h1

end Sys2Proof.Safety
end

