-- ==== Sys2Proof/Laws/OnlyStartUp.lean ====
section
/-! SUPPORT. What the functions of `Machine/StartUp.lean` may write: one lemma each. -/

set_option Elab.async false

namespace Sys2Proof.Safety

open Sys2Proof.Machine

theorem mainReset_only {P : List Part} {o₀ s : State} (h₀ : Only P o₀ s) (hp : [.time, .faults, .errLevel, .resumes, .host, .irq, .issues, .owed, .comma, .regions, .store, .loops, .elems, .smu, .runs, .calib, .calRuns, .links, .adm, .mem, .lsu, .mate, .handover, .mirror, .chip, .digest, .house, .hostOps, .matrix] ⊆ P) :
    Only P o₀ (mainReset s) :=
  h₀.trans fun p hn => by
    cases p <;> first | exact absurd (hp (by decide)) hn | rfl

theorem warmReset_only {P : List Part} {o₀ : State} {s : State} (h₀ : Only P o₀ s) (hp : [.time, .faults, .errLevel, .resumes, .host, .irq, .issues, .owed, .comma, .regions, .store, .loops, .elems, .smu, .runs, .calib, .calRuns, .links, .adm, .mem, .lsu, .mate, .handover, .mirror, .chip, .digest, .house, .hostOps, .matrix] ⊆ P) (cause : Nat) :
    Only P o₀ (warmReset s cause) := by
  unfold warmReset
  repeat' first
    | with_reducible assumption
    | with_reducible apply mainReset_only
    | with_reducible apply Only.ite
    | with_reducible apply Only.foldl
    | intro s1 x1 h1
    | dsimp only
    | ((with_reducible apply Only.set_chip); exact .inl (hp (by decide)); (with_reducible exact .inr rfl); exact .inl (hp (by decide)))

theorem digestEvents_only {P : List Part} {o₀ : State} {s : State} (h₀ : Only P o₀ s) (hp : [.owed] ⊆ P) (h : Hdr) (r : Nat) :
    Only P o₀ (digestEvents s h r) := by
  unfold digestEvents
  repeat' first
    | with_reducible assumption
    | with_reducible apply State.event_only
    | with_reducible apply Only.ite
    | with_reducible apply Only.foldl
    | intro s1 x1 h1
    | dsimp only
    | split

theorem giveDigest_only {P : List Part} {o₀ : State} {s : State} (h₀ : Only P o₀ s) (hp : [.out, .issues, .owed, .chip] ⊆ P) (h : Hdr) (addr : Nat) (nonce : BitVec 256) :
    Only P o₀ (giveDigest s h addr nonce) := by
  unfold giveDigest
  repeat' first
    | with_reducible assumption
    | ((with_reducible refine List.Subset.trans ?_ hp); decide)
    | with_reducible apply State.emit_only
    | with_reducible apply digestEvents_only
    | with_reducible apply State.complete_only
    | with_reducible apply Only.ite
    | with_reducible apply Only.foldl
    | intro s1 x1 h1
    | dsimp only
    | ((with_reducible apply Only.set_chip); exact .inl (hp (by decide)); (with_reducible exact .inr rfl); (with_reducible exact .inr ⟨rfl, rfl, rfl, rfl⟩))

theorem refuseImage_only {P : List Part} {o₀ : State} {s : State} (h₀ : Only P o₀ s) (hp : [.out, .faults, .irq, .loops, .elems, .runs, .calRuns, .links, .lsu, .chip, .house] ⊆ P) (c : Check) :
    Only P o₀ (refuseImage s c) := by
  unfold refuseImage
  repeat' first
    | with_reducible assumption
    | ((with_reducible refine List.Subset.trans ?_ hp); decide)
    | with_reducible apply State.report_only
    | with_reducible apply Only.ite
    | with_reducible apply Only.foldl
    | intro s1 x1 h1
    | dsimp only
    | ((with_reducible apply Only.set_chip); exact .inl (hp (by decide)); (with_reducible exact .inr rfl); (with_reducible exact .inr ⟨rfl, rfl, rfl, rfl⟩))

theorem porReset_only {P : List Part} {o₀ : State} {s : State} (h₀ : Only P o₀ s) (hp : [.dt, .time, .faults, .errLevel, .resumes, .host, .irq, .issues, .owed, .comma, .regions, .store, .loops, .elems, .smu, .runs, .calib, .calRuns, .links, .adm, .mem, .lsu, .mate, .handover, .mirror, .chip, .digest, .house, .hostOps, .matrix] ⊆ P)  :
    Only P o₀ (porReset s) := by
  unfold porReset
  repeat' first
    | with_reducible assumption
    | ((with_reducible apply Only.set_matrix); exact hp (by decide))
    | with_reducible apply Only.ite
    | with_reducible apply Only.foldl
    | intro s1 x1 h1
    | dsimp only
    | ((with_reducible apply Only.set_adm); exact hp (by decide))
    | ((with_reducible apply Only.set_calib); exact .inl (hp (by decide)); exact .inl (hp (by decide)))
    | ((with_reducible apply Only.set_chip); exact .inl (hp (by decide)); (with_reducible exact .inr rfl); exact .inl (hp (by decide)))
    | ((with_reducible apply Only.set_comma); exact hp (by decide))
    | ((with_reducible apply Only.set_dt); exact hp (by decide))
    | ((with_reducible apply Only.set_faults); exact .inl (hp (by decide)); exact .inl (hp (by decide)); exact .inl (hp (by decide)))
    | ((with_reducible apply Only.set_host); exact .inl (hp (by decide)); exact .inl (hp (by decide)); exact .inl (hp (by decide)); exact .inl (hp (by decide)))
    | ((with_reducible apply Only.set_hostOps); exact hp (by decide))
    | ((with_reducible apply Only.set_house); exact hp (by decide))
    | ((with_reducible apply Only.set_loops); exact .inl (hp (by decide)); exact .inl (hp (by decide)))
    | ((with_reducible apply Only.set_lsu); exact hp (by decide))
    | ((with_reducible apply Only.set_mate); exact .inl (hp (by decide)); exact .inl (hp (by decide)); exact .inl (hp (by decide)))
    | ((with_reducible apply Only.set_mem); exact hp (by decide))
    | ((with_reducible apply Only.set_paost); exact .inl (hp (by decide)); (with_reducible exact .inr rfl))
    | ((with_reducible apply Only.set_regions); exact hp (by decide))
    | ((with_reducible apply Only.set_smu); exact .inl (hp (by decide)); exact .inl (hp (by decide)))
    | ((with_reducible apply Only.set_store); exact hp (by decide))
    | ((with_reducible apply Only.set_time); exact hp (by decide))
    | ((with_reducible apply Only.mk); rotate_left; (intro p hn; cases p <;> (first | (with_reducible rfl) | exact absurd (hp (by decide)) hn | (with_reducible exact ⟨rfl, rfl⟩) | (with_reducible exact ⟨rfl, rfl, rfl⟩) | (with_reducible exact ⟨rfl, rfl, rfl, rfl⟩))))

theorem resolveRecorded_only {P : List Part} {o₀ : State} {s : State} (h₀ : Only P o₀ s) (hp : [.out, .issues, .owed, .store, .elems, .links, .chip] ⊆ P) (l : Launch) :
    Only P o₀ (resolveRecorded s l) := by
  unfold resolveRecorded
  repeat' first
    | with_reducible assumption
    | with_reducible apply resolveToken_only
    | with_reducible apply Only.ite
    | with_reducible apply Only.foldl
    | intro s1 x1 h1
    | dsimp only
    | ((with_reducible apply Only.set_chip); exact .inl (hp (by decide)); (with_reducible exact .inr rfl); (with_reducible exact .inr ⟨rfl, rfl, rfl, rfl⟩))

theorem expandElem_only {P : List Part} {o₀ : State} {s : State} (h₀ : Only P o₀ s) (hp : [.elems] ⊆ P) (e : Nat) :
    Only P o₀ (expandElem s e) := by
  unfold expandElem
  repeat' first
    | with_reducible assumption
    | with_reducible apply State.modElem_only
    | with_reducible apply Only.ite
    | with_reducible apply Only.foldl
    | intro s1 x1 h1
    | dsimp only
    | split

theorem resetCtrl_only {P : List Part} {o₀ : State} {s : State} (h₀ : Only P o₀ s) (hp : [.time, .faults, .errLevel, .resumes, .host, .irq, .issues, .owed, .comma, .regions, .store, .loops, .elems, .smu, .runs, .calib, .calRuns, .links, .adm, .mem, .lsu, .mate, .handover, .mirror, .chip, .digest, .house, .hostOps, .matrix] ⊆ P) (value : Word32) :
    Only P o₀ (resetCtrl s value) := by
  unfold resetCtrl
  repeat' first
    | with_reducible assumption
    | with_reducible apply warmReset_only
    | with_reducible apply Only.ite

theorem useRecord_only {P : List Part} {o₀ : State} {s : State} (h₀ : Only P o₀ s) (hp : [.out, .issues, .owed, .store, .elems, .links, .chip] ⊆ P)  :
    Only P o₀ (useRecord s) := by
  unfold useRecord
  repeat' first
    | with_reducible assumption
    | ((with_reducible refine List.Subset.trans ?_ hp); decide)
    | with_reducible apply State.modLink_only
    | with_reducible apply resolveRecorded_only
    | with_reducible apply Only.ite
    | with_reducible apply Only.foldl
    | intro s1 x1 h1
    | dsimp only
    | ((with_reducible apply Only.set_chip); exact .inl (hp (by decide)); (with_reducible exact .inr rfl); (with_reducible exact .inr ⟨rfl, rfl, rfl, rfl⟩))
    | ((with_reducible apply Only.set_store); exact hp (by decide))
    | ((with_reducible apply Only.mk); rotate_left; (intro p hn; cases p <;> (first | (with_reducible rfl) | exact absurd (hp (by decide)) hn | (with_reducible exact ⟨rfl, rfl⟩) | (with_reducible exact ⟨rfl, rfl, rfl⟩) | (with_reducible exact ⟨rfl, rfl, rfl, rfl⟩))))

theorem applyImage_only {P : List Part} {o₀ : State} {s : State} (h₀ : Only P o₀ s) (hp : [.time, .comma, .regions, .loops, .elems, .smu, .adm, .mem, .lsu, .mate, .chip] ⊆ P) (i : Image) :
    Only P o₀ (applyImage s i) := by
  unfold applyImage
  repeat' first
    | with_reducible assumption
    | ((with_reducible refine List.Subset.trans ?_ hp); decide)
    | with_reducible apply State.setMeter_only
    | with_reducible apply deliverBlock_only
    | with_reducible apply Only.ite
    | with_reducible apply Only.foldl
    | intro s1 x1 h1
    | dsimp only
    | ((with_reducible apply Only.set_chip); exact .inl (hp (by decide)); (with_reducible exact .inr rfl); (with_reducible exact .inr ⟨rfl, rfl, rfl, rfl⟩))
    | ((with_reducible apply Only.set_comma); exact hp (by decide))
    | ((with_reducible apply Only.set_loops); exact .inl (hp (by decide)); exact .inl (hp (by decide)))
    | ((with_reducible apply Only.set_mate); exact .inl (hp (by decide)); (with_reducible exact .inr rfl); (with_reducible exact .inr ⟨rfl, rfl, rfl⟩))
    | ((with_reducible apply Only.set_mem); exact hp (by decide))
    | ((with_reducible apply Only.set_regions); exact hp (by decide))
    | ((with_reducible apply Only.set_smu); exact .inl (hp (by decide)); (with_reducible exact .inr ⟨rfl, rfl⟩))
    | ((with_reducible apply Only.set_time); exact hp (by decide))
    | ((with_reducible apply Only.mk); rotate_left; (intro p hn; cases p <;> (first | (with_reducible rfl) | exact absurd (hp (by decide)) hn | (with_reducible exact ⟨rfl, rfl⟩) | (with_reducible exact ⟨rfl, rfl, rfl⟩) | (with_reducible exact ⟨rfl, rfl, rfl, rfl⟩))))

end Sys2Proof.Safety
end

