-- ==== Sys2Proof/Laws/Frames.lean ====
section
/-! SUPPORT. Frames of functions that answer a pair, read off an equation, and of the records that the collector adopts. -/

set_option Elab.async false

namespace Sys2Proof.Safety

open Sys2Proof.Machine

theorem acceptFrame_eq {P : List Part} {o s s1 : State} {h : DvHead} {r : Option Nat} (e : acceptFrame s h = (r, s1))
    (h₀ : Only P o s) (hp : [.out, .owed, .adm] ⊆ P) : Only P o s1 := by
  have := acceptFrame_only h₀ hp h
  rwa [e] at this

theorem draw_eq {P : List Part} {o s s1 : State} {v : Nat} (e : s.draw = (v, s1)) (h₀ : Only P o s) (hp : [.free] ⊆ P) :
    Only P o s1 := by
  have := State.draw_only h₀ hp
  rwa [e] at this

theorem moveElems_eq {P : List Part} {o s s1 : State} {c : DmaChan} {f : Bool} {host : List Byte} {i n : Nat}
    {r : Option (Nat × Bool × Nat)} (e : moveElems c f s host i n = (s1, r)) (h₀ : Only P o s)
    (hp : [.out, .free, .faults, .irq, .loops, .elems, .runs, .calRuns, .links, .mem, .lsu, .house] ⊆ P) : Only P o s1 := by
  have := moveElems_only c f hp h₀ host i n
  rwa [e] at this

theorem adoptRecord_errLevel (u : Faults) (f : FaultRec) : (adoptRecord u f).errLevel = u.errLevel :=
  writeRecord_errLevel u false f

theorem adoptRecord_resumes (u : Faults) (f : FaultRec) : (adoptRecord u f).resumes = u.resumes :=
  writeRecord_resumes u false f

theorem adoptAll_errLevel (l : List FaultRec) (u : Faults) : (l.foldl adoptRecord u).errLevel = u.errLevel := by
  induction l generalizing u with
  | nil => rfl
  | cons f l ih => exact (ih _).trans (adoptRecord_errLevel u f)

theorem adoptAll_resumes (l : List FaultRec) (u : Faults) : (l.foldl adoptRecord u).resumes = u.resumes := by
  induction l generalizing u with
  | nil => rfl
  | cons f l ih => exact (ih _).trans (adoptRecord_resumes u f)

end Sys2Proof.Safety
end

