-- ==== Sys2Proof/Laws/Memory.lean ====
section
/-! SUPPORT. The bytes of the banks and of the DRAM: every operation keeps their canonical form, a read gives the byte last
written to its address, and a write leaves every other address alone. -/

set_option Elab.async false

namespace Sys2Proof.Machine

/-- The canonical form, by its parts. -/
theorem Memory.wf_iff (m : Memory) : m.wf = true ↔ rising m.bytes = true ∧ ∀ x ∈ m.bytes, x.2 ≠ 0 := by
  unfold Memory.wf
  rw [Bool.and_eq_true, List.all_eq_true]
  constructor
  · exact fun h => ⟨h.1, fun x hx => bne_iff_ne.1 (h.2 x hx)⟩
  · exact fun h => ⟨h.1, fun x hx => bne_iff_ne.2 (h.2 x hx)⟩

theorem rising_cons {x : Nat × Byte} {l : List (Nat × Byte)} :
    rising (x :: l) = true ↔ (∀ y ∈ l.head?, x.1 < y.1) ∧ rising l = true := by
  cases l with
  | nil => simp [rising]
  | cons y r => simp [rising]

/-- Every address of a rising list lies above its head's. -/
theorem rising_above {x : Nat × Byte} {l : List (Nat × Byte)} (h : rising (x :: l) = true) : ∀ y ∈ l, x.1 < y.1 := by
  induction l generalizing x with
  | nil => exact fun y hy => by cases hy
  | cons z r ih =>
    intro y hy
    have hz : x.1 < z.1 := (rising_cons.1 h).1 z rfl
    cases hy with
    | head => exact hz
    | tail _ hr => exact Nat.lt_trans hz (ih (rising_cons.1 h).2 y hr)

theorem rising_of_above {x : Nat × Byte} {l : List (Nat × Byte)} (ha : ∀ y ∈ l, x.1 < y.1) (h : rising l = true) :
    rising (x :: l) = true :=
  rising_cons.2 ⟨fun y hy => ha y (List.mem_of_mem_head? hy), h⟩

theorem rising_filter {l : List (Nat × Byte)} (p : Nat × Byte → Bool) (h : rising l = true) :
    rising (l.filter p) = true := by
  induction l with
  | nil => rfl
  | cons x r ih =>
    have hr := ih (rising_cons.1 h).2
    rw [List.filter_cons]
    split
    · exact rising_of_above (fun y hy => rising_above h y ((List.mem_filter.1 hy).1)) hr
    · exact hr

theorem mem_byteSet {l : List (Nat × Byte)} {a : Nat} {v : Byte} {x : Nat × Byte} (h : x ∈ byteSet l a v) :
    x ∈ l ∨ (x = (a, v) ∧ v ≠ 0) := by
  induction l with
  | nil =>
    unfold byteSet at h
    split at h
    · cases h
    · exact .inr ⟨by simpa using h, ‹_›⟩
  | cons y r ih =>
    obtain ⟨k, w⟩ := y
    unfold byteSet at h
    split at h
    · split at h
      · exact .inl h
      · cases h with
        | head => exact .inr ⟨rfl, ‹_›⟩
        | tail _ h => exact .inl h
    · split at h
      · split at h
        · exact .inl (List.mem_cons_of_mem _ h)
        · cases h with
          | head => exact .inr ⟨rfl, ‹_›⟩
          | tail _ h => exact .inl (List.mem_cons_of_mem _ h)
      · cases h with
        | head => exact .inl (List.mem_cons_self ..)
        | tail _ h => exact (ih h).imp_left (List.mem_cons_of_mem _)

theorem rising_byteSet {l : List (Nat × Byte)} (a : Nat) (v : Byte) (h : rising l = true) :
    rising (byteSet l a v) = true := by
  induction l with
  | nil =>
    unfold byteSet
    split <;> rfl
  | cons y r ih =>
    obtain ⟨k, w⟩ := y
    have hr := (rising_cons.1 h).2
    unfold byteSet
    split
    · split
      · exact h
      · exact rising_of_above (fun x hx => by
          cases hx with
          | head => assumption
          | tail _ hx => exact Nat.lt_trans ‹_› (rising_above h x hx)) h
    · split
      · split
        · exact hr
        · refine rising_of_above (fun x hx => ?_) hr
          rename_i ha _
          exact ha ▸ rising_above h x hx
      · refine rising_of_above (fun x hx => ?_) (ih hr)
        rcases mem_byteSet hx with hx | ⟨rfl, -⟩
        · exact rising_above h x hx
        · exact Nat.lt_of_le_of_ne (Nat.not_lt.1 ‹_›) fun e => absurd e.symm ‹_›

/-- A write of one byte keeps the canonical form. -/
theorem Memory.put_wf {m : Memory} (a : Nat) (v : Byte) (h : m.wf = true) : (m.put a v).wf = true := by
  rw [Memory.wf_iff] at *
  exact ⟨rising_byteSet a v h.1, fun x hx => (mem_byteSet hx).elim (h.2 x) fun e => e.1 ▸ e.2⟩

theorem Memory.wf_congr {m n : Memory} (h : m.wf = true) (e : n.bytes = m.bytes) : n.wf = true := by
  rw [Memory.wf_iff] at *
  rwa [e]

theorem Memory.filter_wf {m n : Memory} (p : Nat × Byte → Bool) (h : m.wf = true) (e : n.bytes = m.bytes.filter p) :
    n.wf = true := by
  rw [Memory.wf_iff] at *
  rw [e]
  exact ⟨rising_filter p h.1, fun x hx => h.2 x ((List.mem_filter.1 hx).1)⟩

theorem Memory.mark_wf {m : Memory} (w : Nat) (c : Bool) (h : m.wf = true) : (m.mark w c).wf = true := wf_congr h rfl

theorem Memory.wipe_wf {m : Memory} (b : Nat) (c : Bool) (h : m.wf = true) : (m.wipe b c).wf = true := filter_wf _ h rfl

theorem Memory.warm_wf {m : Memory} (h : m.wf = true) : m.warm.wf = true := filter_wf _ h rfl

theorem foldl_wf {α : Type} {f : Memory → α → Memory} {l : List α} {m : Memory} (h : m.wf = true)
    (hf : ∀ m x, m.wf = true → (f m x).wf = true) : (l.foldl f m).wf = true := by
  induction l generalizing m with
  | nil => exact h
  | cons x l ih => exact ih (hf m x h)

/-- A write of bytes with enables keeps the canonical form. -/
theorem Memory.write_wf {m : Memory} (a : Nat) (bs : List (Option Byte)) (h : m.wf = true) : (m.write a bs).wf = true := by
  unfold Memory.write
  refine foldl_wf (foldl_wf h fun m i hm => ?_) fun m w hm => mark_wf w true hm
  split
  · exact put_wf _ _ hm
  · exact hm

/-- A read after a write to the same address gives the byte written. -/
theorem byteGet_byteSet_same (l : List (Nat × Byte)) (a : Nat) (v : Byte) (h : rising l = true) :
    byteGet (byteSet l a v) a = v := by
  induction l with
  | nil =>
    unfold byteSet
    split
    · exact (‹v = 0›).symm
    · simp [byteGet]
  | cons y r ih =>
    obtain ⟨k, w⟩ := y
    unfold byteSet
    split
    · split
      · rename_i hlt hv
        simp only [byteGet, if_neg (Nat.ne_of_lt hlt), if_pos hlt, hv]
      · simp [byteGet]
    · split
      · split
        · rename_i hk hv
          cases r with
          | nil => simp only [byteGet, hv]
          | cons z r =>
            have hz : a < z.1 := hk ▸ (rising_cons.1 h).1 z rfl
            simp only [byteGet, if_neg (Nat.ne_of_lt hz), if_pos hz, hv]
        · simp [byteGet]
      · rename_i h1 h2
        simp only [byteGet, if_neg h2, if_neg h1]
        exact ih (rising_cons.1 h).2

/-- A write leaves every other address alone. -/
theorem byteGet_byteSet_other (l : List (Nat × Byte)) {a b : Nat} (v : Byte) (h : rising l = true) (hb : b ≠ a) :
    byteGet (byteSet l a v) b = byteGet l b := by
  induction l with
  | nil =>
    unfold byteSet
    split
    · rfl
    · simp [byteGet, hb]
  | cons y r ih =>
    obtain ⟨k, w⟩ := y
    unfold byteSet
    split
    · split
      · rfl
      · rename_i hlt _
        simp only [byteGet, if_neg hb]
        by_cases hba : b < a
        · have hk := Nat.lt_trans hba hlt
          simp only [if_pos hba, if_neg (Nat.ne_of_lt hk), if_pos hk]
        · simp only [if_neg hba]
    · split
      · rename_i hk
        subst hk
        split
        · cases r with
          | nil => simp only [byteGet, if_neg hb, ite_self]
          | cons z r =>
            have hz : a < z.1 := (rising_cons.1 h).1 z rfl
            simp only [byteGet, if_neg hb]
            by_cases hba : b < a
            · have hbz := Nat.lt_trans hba hz
              simp only [if_pos hba, if_neg (Nat.ne_of_lt hbz), if_pos hbz]
            · simp only [if_neg hba]
        · simp only [byteGet, if_neg hb]
      · simp only [byteGet]
        split
        · rfl
        · split
          · rfl
          · exact ih (rising_cons.1 h).2

theorem Memory.put_get_same {m : Memory} (a : Nat) (v : Byte) (h : m.wf = true) : (m.put a v).get a = v :=
  byteGet_byteSet_same _ _ _ ((wf_iff m).1 h).1

theorem Memory.put_get_other {m : Memory} {a b : Nat} (v : Byte) (h : m.wf = true) (hb : b ≠ a) :
    (m.put a v).get b = m.get b := byteGet_byteSet_other _ _ ((wf_iff m).1 h).1 hb

theorem State.reset_mem_wf : State.reset.mem.wf = true := by decide

end Sys2Proof.Machine
end

