-- ==== Sys2Proof/Laws/OnlyCalibration.lean ====
section
/-! SUPPORT. What the functions of `Machine/Calibration.lean` may write: one lemma each. -/

set_option Elab.async false

namespace Sys2Proof.Safety

open Sys2Proof.Machine

theorem fullRows_only {P : List Part} {o₀ : State} {s : State} (h₀ : Only P o₀ s) (hp : [.calib] ⊆ P) (r : CalRun) (pull : Nat) (rel : Nat) :
    Only P o₀ (fullRows r pull rel s) := by
  unfold fullRows
  repeat' first
    | with_reducible assumption
    | with_reducible apply setRows_only
    | with_reducible apply Only.ite
    | with_reducible apply Only.foldl
    | intro s1 x1 h1
    | dsimp only
    | ((with_reducible apply Only.set_calib); exact .inl (hp (by decide)); (with_reducible exact .inr ⟨rfl, rfl⟩))

theorem takePass_only {P : List Part} {o₀ : State} {s : State} (h₀ : Only P o₀ s) (hp : [.out, .elems, .links] ⊆ P) (r : CalRun) :
    Only P o₀ (takePass s r) := by
  unfold takePass
  repeat' first
    | with_reducible assumption
    | ((with_reducible refine List.Subset.trans ?_ hp); decide)
    | with_reducible apply State.modElem_only
    | with_reducible apply takeSurface_only

theorem microRows_only {P : List Part} {o₀ : State} {s : State} (h₀ : Only P o₀ s) (hp : [.calib] ⊆ P) (r : CalRun) :
    Only P o₀ (microRows r s) := by
  unfold microRows
  repeat' first
    | with_reducible assumption
    | with_reducible apply setRows_only
    | with_reducible apply shiftRows_only

theorem countBatches_only {P : List Part} {o₀ : State} {s : State} (h₀ : Only P o₀ s) (hp : [.calRuns] ⊆ P) (r : CalRun) (f : CalBatch → CalBatch) :
    Only P o₀ (countBatches s r f) := by
  unfold countBatches
  repeat' first
    | with_reducible assumption
    | with_reducible apply Only.ite
    | with_reducible apply Only.foldl
    | intro s1 x1 h1
    | dsimp only
    | ((with_reducible apply Only.set_calib); (with_reducible exact .inr rfl); exact .inl (hp (by decide)))

theorem leaveRun_only {P : List Part} {o₀ : State} {s : State} (h₀ : Only P o₀ s) (hp : [.elems, .calib, .calRuns] ⊆ P) (r : CalRun) (code : Nat) :
    Only P o₀ (leaveRun s r code) := by
  unfold leaveRun
  repeat' first
    | with_reducible assumption
    | ((with_reducible refine List.Subset.trans ?_ hp); decide)
    | with_reducible apply State.modElem_only
    | with_reducible apply Only.ite
    | with_reducible apply Only.foldl
    | intro s1 x1 h1
    | dsimp only
    | ((with_reducible apply Only.set_calib); exact .inl (hp (by decide)); exact .inl (hp (by decide)))

theorem failRun_only {P : List Part} {o₀ : State} {s : State} (h₀ : Only P o₀ s) (hp : [.out, .faults, .irq, .loops, .elems, .runs, .calib, .calRuns, .links, .lsu, .house] ⊆ P) (r : CalRun) (code : Nat) :
    Only P o₀ (failRun s r code) := by
  unfold failRun
  repeat' first
    | with_reducible assumption
    | ((with_reducible refine List.Subset.trans ?_ hp); decide)
    | with_reducible apply countBatches_only
    | with_reducible apply leaveRun_only
    | with_reducible apply State.setElem_only
    | with_reducible apply State.report_only
    | with_reducible apply Only.ite
    | with_reducible apply Only.foldl
    | intro s1 x1 h1
    | dsimp only
    | ((with_reducible apply Only.set_calib); exact .inl (hp (by decide)); exact .inl (hp (by decide)))

theorem countPass_only {P : List Part} {o₀ : State} {s : State} (h₀ : Only P o₀ s) (hp : [.elems, .calib, .calRuns] ⊆ P) (r : CalRun) :
    Only P o₀ (countPass s r) := by
  unfold countPass
  repeat' first
    | with_reducible assumption
    | ((with_reducible refine List.Subset.trans ?_ hp); decide)
    | with_reducible apply countBatches_only
    | with_reducible apply leaveRun_only
    | with_reducible apply Only.ite
    | with_reducible apply Only.foldl
    | intro s1 x1 h1
    | dsimp only
    | ((with_reducible apply Only.set_calib); exact .inl (hp (by decide)); exact .inl (hp (by decide)))

theorem endFull_only {P : List Part} {o₀ : State} {s : State} (h₀ : Only P o₀ s) (hp : [.out, .faults, .irq, .loops, .elems, .runs, .calib, .calRuns, .links, .lsu, .house] ⊆ P) (r : CalRun) (released : Bool) :
    Only P o₀ (endFull s r released) := by
  unfold endFull
  repeat' first
    | with_reducible assumption
    | ((with_reducible refine List.Subset.trans ?_ hp); decide)
    | with_reducible apply failRun_only
    | with_reducible apply takePass_only
    | with_reducible apply fullRows_only
    | with_reducible apply countPass_only
    | with_reducible apply Only.ite
    | with_reducible apply Only.foldl
    | intro s1 x1 h1
    | dsimp only
    | split

theorem endMicro_only {P : List Part} {o₀ : State} {s : State} (h₀ : Only P o₀ s) (hp : [.out, .faults, .irq, .loops, .elems, .runs, .calib, .calRuns, .links, .lsu, .house] ⊆ P) (r : CalRun) :
    Only P o₀ (endMicro s r) := by
  unfold endMicro
  repeat' first
    | with_reducible assumption
    | ((with_reducible refine List.Subset.trans ?_ hp); decide)
    | with_reducible apply failRun_only
    | with_reducible apply takePass_only
    | with_reducible apply microRows_only
    | with_reducible apply countPass_only
    | with_reducible apply Only.ite

theorem beginRun_only {P : List Part} {o₀ : State} {s : State} (h₀ : Only P o₀ s) (hp : [.out, .elems, .calRuns, .links] ⊆ P) (r : CalRun) (ds : List Nat) :
    Only P o₀ (beginRun s r ds) := by
  unfold beginRun
  repeat' first
    | with_reducible assumption
    | ((with_reducible refine List.Subset.trans ?_ hp); decide)
    | with_reducible apply State.setElem_only
    | with_reducible apply State.down_only
    | with_reducible apply Only.ite
    | with_reducible apply Only.foldl
    | intro s1 x1 h1
    | dsimp only
    | split
    | ((with_reducible apply Only.set_calib); (with_reducible exact .inr rfl); exact .inl (hp (by decide)))

theorem nextPoint_only {P : List Part} {o₀ : State} {s : State} (h₀ : Only P o₀ s) (hp : [.out, .calRuns, .links] ⊆ P) (old : CalRun) (new : CalRun) (d : Nat) :
    Only P o₀ (nextPoint s old new d) := by
  unfold nextPoint
  repeat' first
    | with_reducible assumption
    | ((with_reducible refine List.Subset.trans ?_ hp); decide)
    | with_reducible apply State.down_only
    | with_reducible apply Only.ite
    | with_reducible apply Only.foldl
    | intro s1 x1 h1
    | dsimp only
    | ((with_reducible apply Only.set_calib); (with_reducible exact .inr rfl); exact .inl (hp (by decide)))

end Sys2Proof.Safety
end

