-- ==== Sys2Proof/Laws/OnlyLoops.lean ====
section
/-! SUPPORT. What the functions of `Machine/Loops.lean` may write: one lemma each. -/

set_option Elab.async false

namespace Sys2Proof.Safety

open Sys2Proof.Machine

theorem react_only {P : List Part} {o₀ : State} {s : State} (h₀ : Only P o₀ s) (hp : [.out, .faults, .irq, .regions, .loops, .elems, .runs, .calRuns, .links, .lsu, .house] ⊆ P) (e : Nat) (b : Bank) :
    Only P o₀ (react s e b) := by
  unfold react
  repeat' first
    | with_reducible assumption
    | ((with_reducible refine List.Subset.trans ?_ hp); decide)
    | with_reducible apply State.modRegion_only
    | with_reducible apply State.report_only
    | with_reducible apply State.modElem_only
    | with_reducible apply Only.ite

theorem supervise_only {P : List Part} {o₀ : State} {s : State} (h₀ : Only P o₀ s) (hp : [.out, .faults, .irq, .regions, .loops, .elems, .runs, .calRuns, .links, .lsu, .house] ⊆ P) (e : Nat) (c : Nat) (before : Nat) (b : Bank) :
    Only P o₀ (supervise s e c before b) := by
  unfold supervise
  repeat' first
    | with_reducible assumption
    | ((with_reducible refine List.Subset.trans ?_ hp); decide)
    | with_reducible apply State.setElem_only
    | with_reducible apply react_only
    | with_reducible apply Only.ite

theorem serve_only {P : List Part} {o₀ : State} {s : State} (h₀ : Only P o₀ s) (hp : [.out, .faults, .irq, .regions, .loops, .elems, .runs, .calRuns, .links, .lsu, .house] ⊆ P) (e : Nat) (c : Nat) (sense : Nat) :
    Only P o₀ (serve s e c sense) := by
  unfold serve
  repeat' first
    | with_reducible assumption
    | ((with_reducible refine List.Subset.trans ?_ hp); decide)
    | with_reducible apply supervise_only
    | with_reducible apply State.setElem_only

theorem renewPin_only {P : List Part} {o₀ : State} {s : State} (h₀ : Only P o₀ s) (hp : [.loops, .elems] ⊆ P) (e : Nat) :
    Only P o₀ (renewPin s e) := by
  unfold renewPin
  repeat' first
    | with_reducible assumption
    | ((with_reducible refine List.Subset.trans ?_ hp); decide)
    | with_reducible apply State.modElem_only
    | with_reducible apply Only.ite
    | with_reducible apply Only.foldl
    | intro s1 x1 h1
    | dsimp only
    | ((with_reducible apply Only.set_loops); exact .inl (hp (by decide)); exact .inl (hp (by decide)))

theorem overrun_only {P : List Part} {o₀ : State} {s : State} (h₀ : Only P o₀ s) (hp : [.out, .faults, .irq, .regions, .loops, .elems, .runs, .calRuns, .links, .lsu, .house] ⊆ P) (e : Nat) (cause : Nat) :
    Only P o₀ (overrun s e cause) := by
  unfold overrun
  repeat' first
    | with_reducible assumption
    | ((with_reducible refine List.Subset.trans ?_ hp); decide)
    | with_reducible apply State.modRegion_only
    | with_reducible apply State.setElem_only
    | with_reducible apply State.report_only
    | with_reducible apply renewPin_only
    | with_reducible apply Only.ite
    | with_reducible apply Only.foldl
    | intro s1 x1 h1
    | dsimp only
    | ((with_reducible apply Only.set_loops); exact .inl (hp (by decide)); exact .inl (hp (by decide)))

theorem outerUpdate_only {P : List Part} {o₀ : State} {s : State} (h₀ : Only P o₀ s) (hp : [.out, .faults, .irq, .loops, .elems, .runs, .calRuns, .links, .lsu, .house] ⊆ P) (e : Nat) :
    Only P o₀ (outerUpdate s e) := by
  unfold outerUpdate
  repeat' first
    | with_reducible assumption
    | ((with_reducible refine List.Subset.trans ?_ hp); decide)
    | with_reducible apply State.setElem_only
    | with_reducible apply State.report_only
    | with_reducible apply Only.ite
    | with_reducible apply Only.foldl
    | intro s1 x1 h1
    | dsimp only
    | split

end Sys2Proof.Safety
end

