-- ==== Sys2Proof/Laws/OnlyTileEnds.lean ====
section
/-! SUPPORT. What the functions of `Machine/TileEnds.lean` may write: one lemma each. -/

set_option Elab.async false

namespace Sys2Proof.Safety

open Sys2Proof.Machine

theorem cmdAck_only {P : List Part} {o₀ : State} {s : State} (h₀ : Only P o₀ s) (hp : [.out, .tiles] ⊆ P) (t : Nat) (portB : Bool) (opcode : Nat) (good : Bool) (slot : Nat) :
    Only P o₀ (cmdAck s t portB opcode good slot) := by
  unfold cmdAck
  repeat' first
    | with_reducible assumption
    | with_reducible apply State.up_only

theorem tileEvent_only {P : List Part} {o₀ : State} {s : State} (h₀ : Only P o₀ s) (hp : [.out, .tiles] ⊆ P) (t : Nat) (fields : List Nat) :
    Only P o₀ (tileEvent s t fields) := by
  unfold tileEvent
  repeat' first
    | with_reducible assumption
    | with_reducible apply State.up_only
    | with_reducible apply Only.ite

theorem noteGap_only {P : List Part} {o₀ : State} {s : State} (h₀ : Only P o₀ s) (hp : [.tiles, .mate] ⊆ P) (tile : Nat) (t : Nat) :
    Only P o₀ (noteGap s tile t) := by
  unfold noteGap
  repeat' first
    | with_reducible assumption
    | ((with_reducible refine List.Subset.trans ?_ hp); decide)
    | with_reducible apply State.setTile_only
    | with_reducible apply Only.ite
    | with_reducible apply Only.foldl
    | intro s1 x1 h1
    | dsimp only
    | ((with_reducible apply Only.set_mate); exact .inl (hp (by decide)); (with_reducible exact .inr rfl); (with_reducible exact .inr ⟨rfl, rfl, rfl⟩))

theorem applyEntry_only {P : List Part} {o₀ : State} {s : State} (h₀ : Only P o₀ s) (hp : [.tiles] ⊆ P) (t : Nat) (serial : Serial) (tick : Nat) (n : SlotEntry) :
    Only P o₀ (applyEntry t serial tick s n) := by
  unfold applyEntry
  repeat' first
    | with_reducible assumption
    | with_reducible apply State.setTile_only
    | with_reducible apply Only.ite

theorem endShape_only {P : List Part} {o₀ : State} {s : State} (h₀ : Only P o₀ s) (hp : [.elems, .tiles] ⊆ P) (t : Nat) (e : Nat) :
    Only P o₀ (endShape s t e) := by
  unfold endShape
  repeat' first
    | with_reducible assumption
    | ((with_reducible refine List.Subset.trans ?_ hp); decide)
    | with_reducible apply State.setTile_only
    | with_reducible apply State.modElem_only
    | with_reducible apply Only.ite
    | with_reducible apply Only.foldl
    | intro s1 x1 h1
    | dsimp only
    | split

theorem tellLost_only {P : List Part} {o₀ : State} {s : State} (h₀ : Only P o₀ s) (hp : [.out, .tiles] ⊆ P) (t : Nat) :
    Only P o₀ (tellLost s t) := by
  unfold tellLost
  repeat' first
    | with_reducible assumption
    | ((with_reducible refine List.Subset.trans ?_ hp); decide)
    | with_reducible apply State.up_only
    | with_reducible apply State.setTile_only
    | with_reducible apply Only.ite
    | with_reducible apply Only.foldl
    | intro s1 x1 h1
    | dsimp only
    | split

end Sys2Proof.Safety
end

