-- ==== Sys2Proof/Laws/OnlyCommaWork.lean ====
section
/-! SUPPORT. What the functions of `Machine/CommaWork.lean` may write: one lemma each. -/

set_option Elab.async false

namespace Sys2Proof.Safety

open Sys2Proof.Machine

theorem runOuter_only {P : List Part} {o₀ : State} {acc : State × Budget} (h₀ : Only P o₀ acc.1) (hp : [.out, .faults, .irq, .loops, .elems, .runs, .calRuns, .links, .lsu, .house] ⊆ P) (e : Nat) (c : Nat) :
    Only P o₀ (runOuter acc e c).1 := by
  obtain ⟨sb, ub⟩ := acc
  dsimp only at h₀
  unfold runOuter
  repeat' first
    | with_reducible assumption
    | with_reducible apply outerUpdate_only
    | with_reducible apply Only.ite
    | with_reducible apply Only.foldl
    | with_reducible apply Only.ite_fst

theorem sendDrive_only {P : List Part} {o₀ : State} {s : State} (h₀ : Only P o₀ s) (hp : [.out, .links] ⊆ P) (t : Nat) (c : Nat) :
    Only P o₀ (sendDrive s t c) := by
  unfold sendDrive
  repeat' first
    | with_reducible assumption
    | with_reducible apply State.down_only

theorem sendDrives_only {P : List Part} {o₀ : State} {s : State} (h₀ : Only P o₀ s) (hp : [.out, .links] ⊆ P) (c : Nat) :
    Only P o₀ (sendDrives s c) := by
  unfold sendDrives
  repeat' first
    | with_reducible assumption
    | with_reducible apply sendDrive_only
    | with_reducible apply Only.ite
    | with_reducible apply Only.foldl
    | intro s1 x1 h1

theorem correctTile_only {P : List Part} {o₀ : State} {s : State} (h₀ : Only P o₀ s) (hp : [.elems, .links] ⊆ P) (t : Nat) :
    Only P o₀ (correctTile s t) := by
  unfold correctTile
  repeat' first
    | with_reducible assumption
    | ((with_reducible refine List.Subset.trans ?_ hp); decide)
    | with_reducible apply State.modElem_only
    | with_reducible apply State.modLink_only
    | with_reducible apply Only.ite
    | with_reducible apply Only.foldl
    | intro s1 x1 h1

theorem releaseRetired_only {P : List Part} {o₀ : State} {s : State} (h₀ : Only P o₀ s) (hp : [.store] ⊆ P)  :
    Only P o₀ (releaseRetired s) := by
  unfold releaseRetired
  repeat' first
    | with_reducible assumption
    | with_reducible apply Only.ite
    | with_reducible apply Only.foldl
    | intro s1 x1 h1
    | dsimp only
    | ((with_reducible apply Only.set_store); exact hp (by decide))

theorem endBlank_only {P : List Part} {o₀ : State} {s : State} (h₀ : Only P o₀ s) (hp : [.elems] ⊆ P) (e : Nat) :
    Only P o₀ (endBlank s e) := by
  unfold endBlank
  repeat' first
    | with_reducible assumption
    | with_reducible apply State.setElem_only
    | with_reducible apply Only.ite
    | with_reducible apply Only.foldl
    | intro s1 x1 h1
    | dsimp only
    | split

theorem endWaits_only {P : List Part} {o₀ : State} {s : State} (h₀ : Only P o₀ s) (hp : [.issues, .loops] ⊆ P) (e : Nat) :
    Only P o₀ (endWaits s e) := by
  unfold endWaits
  repeat' first
    | with_reducible assumption
    | ((with_reducible refine List.Subset.trans ?_ hp); decide)
    | with_reducible apply State.complete_only
    | with_reducible apply Only.ite
    | with_reducible apply Only.foldl
    | intro s1 x1 h1
    | dsimp only
    | ((with_reducible apply Only.set_loops); exact .inl (hp (by decide)); (with_reducible exact .inr rfl))

theorem moveGroup_only {P : List Part} {o₀ : State} {s : State} (h₀ : Only P o₀ s) (hp : [.regions] ⊆ P) (n : Nat) (key : Nat) (to_ : Nat) :
    Only P o₀ (moveGroup s n key to_) := by
  unfold moveGroup
  repeat' first
    | with_reducible assumption
    | with_reducible apply State.modRegion_only

theorem balanceRegion_only {P : List Part} {o₀ : State} {s : State} (h₀ : Only P o₀ s) (hp : [.regions] ⊆ P) (n : Nat) :
    Only P o₀ (balanceRegion s n).1 := by
  unfold balanceRegion
  repeat' first
    | with_reducible assumption
    | with_reducible apply State.modRegion_only
    | with_reducible apply moveGroup_only
    | with_reducible apply Only.ite
    | with_reducible apply Only.foldl
    | with_reducible apply Only.ite_fst
    | with_reducible apply Only.ite_snd
    | with_reducible apply Only.foldl_fst
    | intro s1 x1 h1
    | dsimp only
    | split

theorem rebalance_only {P : List Part} {o₀ : State} {s : State} (h₀ : Only P o₀ s) (hp : [.regions] ⊆ P)  :
    Only P o₀ (rebalance s) := by
  unfold rebalance
  repeat' first
    | with_reducible assumption
    | with_reducible apply balanceRegion_only
    | with_reducible apply Only.ite
    | with_reducible apply Only.foldl
    | with_reducible apply Only.ite_fst
    | with_reducible apply Only.ite_snd
    | with_reducible apply Only.foldl_fst
    | intro s1 x1 h1

theorem takeShapeEnd_only {P : List Part} {o₀ : State} {s : State} (h₀ : Only P o₀ s) (hp : [.elems, .tiles] ⊆ P) (e : Nat) :
    Only P o₀ (takeShapeEnd s e) := by
  unfold takeShapeEnd
  repeat' first
    | with_reducible assumption
    | ((with_reducible refine List.Subset.trans ?_ hp); decide)
    | with_reducible apply endShape_only
    | with_reducible apply State.setElem_only
    | with_reducible apply Only.ite

theorem fold_only {P : List Part} {o₀ s : State} (h₀ : Only P o₀ s) (hp : [.elems, .calib] ⊆ P) (e : Nat) :
    Only P o₀ ((fold s e).getD s) := by
  unfold fold
  dsimp only
  split
  · exact h₀
  · exact State.setElem_only (shiftRows_only h₀ (List.Subset.trans (by decide) hp) _ _ _ _) (List.Subset.trans (by decide) hp) _ _

theorem takeEvents_only {P : List Part} {o₀ : State} {s : State} (h₀ : Only P o₀ s) (hp : [.store, .elems, .calib] ⊆ P) (e : Nat) :
    Only P o₀ (takeEvents s e) := by
  unfold takeEvents
  repeat' first
    | with_reducible assumption
    | ((with_reducible refine List.Subset.trans ?_ hp); decide)
    | with_reducible apply fold_only
    | with_reducible apply State.setElem_only
    | with_reducible apply State.modElem_only
    | with_reducible apply staleByElem_only
    | with_reducible apply fold_only
    | with_reducible apply Only.ite

theorem takeClass_only {P : List Part} {o₀ : State} {s : State} (h₀ : Only P o₀ s) (hp : [.store, .elems] ⊆ P) (e : Nat) :
    Only P o₀ (takeClass s e) := by
  unfold takeClass
  repeat' first
    | with_reducible assumption
    | ((with_reducible refine List.Subset.trans ?_ hp); decide)
    | with_reducible apply staleByElem_only
    | with_reducible apply State.setElem_only
    | with_reducible apply State.modElem_only
    | with_reducible apply promote_only
    | with_reducible apply Only.ite
    | with_reducible apply Only.foldl
    | intro s1 x1 h1
    | dsimp only
    | split

theorem takeLaw_only {P : List Part} {o₀ : State} {s : State} (h₀ : Only P o₀ s) (hp : [.elems] ⊆ P) (e : Nat) (c : Nat) :
    Only P o₀ (takeLaw s e c) := by
  unfold takeLaw
  repeat' first
    | with_reducible assumption
    | with_reducible apply State.setElem_only

theorem runUpdate_only {P : List Part} {o₀ : State} {acc : State × Budget} (h₀ : Only P o₀ acc.1) (hp : [.out, .faults, .irq, .regions, .loops, .elems, .runs, .calRuns, .links, .lsu, .house] ⊆ P) (e : Nat) (c : Nat) :
    Only P o₀ (runUpdate acc e c).1 := by
  obtain ⟨sb, ub⟩ := acc
  dsimp only at h₀
  unfold runUpdate
  repeat' first
    | with_reducible assumption
    | ((with_reducible refine List.Subset.trans ?_ hp); decide)
    | with_reducible apply overrun_only
    | with_reducible apply serve_only
    | with_reducible apply State.setElem_only
    | with_reducible apply Only.ite
    | with_reducible apply Only.foldl
    | with_reducible apply Only.ite_fst
    | with_reducible apply Only.ite_snd
    | with_reducible apply Only.foldl_fst
    | intro s1 x1 h1
    | dsimp only
    | split

theorem takeIntents_only {P : List Part} {o₀ : State} {s : State} (h₀ : Only P o₀ s) (hp : [.out, .elems, .links] ⊆ P) (e : Nat) :
    Only P o₀ (takeIntents s e) := by
  unfold takeIntents
  repeat' first
    | with_reducible assumption
    | ((with_reducible refine List.Subset.trans ?_ hp); decide)
    | with_reducible apply sendClass_only
    | with_reducible apply State.modElem_only
    | with_reducible apply Only.ite
    | with_reducible apply Only.foldl
    | intro s1 x1 h1
    | dsimp only
    | ((with_reducible apply hp); decide)
    | exact hp (by decide)

theorem boundaryElem_only {P : List Part} {o₀ : State} {acc : State × Budget} (h₀ : Only P o₀ acc.1) (hp : [.out, .faults, .irq, .issues, .regions, .store, .loops, .elems, .runs, .calib, .calRuns, .links, .tiles, .lsu, .house] ⊆ P) (c : Nat) (e : Nat) :
    Only P o₀ (boundaryElem c acc e).1 := by
  obtain ⟨sb, ub⟩ := acc
  dsimp only at h₀
  unfold boundaryElem
  repeat' first
    | with_reducible assumption
    | ((with_reducible refine List.Subset.trans ?_ hp); decide)
    | with_reducible apply takeIntents_only
    | with_reducible apply State.modElem_only
    | with_reducible apply endBlank_only
    | with_reducible apply takeShapeEnd_only
    | with_reducible apply takeEvents_only
    | with_reducible apply endWaits_only
    | with_reducible apply takeClass_only
    | with_reducible apply takeLaw_only
    | with_reducible apply runUpdate_only
    | with_reducible apply runOuter_only
    | with_reducible apply Only.ite
    | with_reducible apply Only.foldl
    | with_reducible apply Only.ite_fst

theorem boundaryElems_only {P : List Part} {o₀ : State} {s : State} (h₀ : Only P o₀ s) (hp : [.out, .faults, .irq, .issues, .regions, .store, .loops, .elems, .runs, .calib, .calRuns, .links, .tiles, .lsu, .house] ⊆ P) (c : Nat) :
    Only P o₀ (boundaryElems s c) := by
  unfold boundaryElems
  repeat' first
    | with_reducible assumption
    | ((with_reducible refine List.Subset.trans ?_ hp); decide)
    | with_reducible apply boundaryElem_only
    | with_reducible apply State.modRegion_only
    | with_reducible apply Only.ite
    | with_reducible apply Only.foldl
    | with_reducible apply Only.ite_fst
    | with_reducible apply Only.ite_snd
    | with_reducible apply Only.foldl_fst
    | intro s1 x1 h1

theorem endSwaps_only {P : List Part} {o₀ : State} {s : State} (h₀ : Only P o₀ s) (hp : [.issues, .loops] ⊆ P)  :
    Only P o₀ (endSwaps s) := by
  unfold endSwaps
  repeat' first
    | with_reducible assumption
    | ((with_reducible refine List.Subset.trans ?_ hp); decide)
    | with_reducible apply State.setCls_only
    | with_reducible apply State.complete_only
    | with_reducible apply Only.ite
    | with_reducible apply Only.foldl
    | intro s1 x1 h1
    | dsimp only
    | split

theorem formFrames_only {P : List Part} {o₀ : State} {s : State} (h₀ : Only P o₀ s) (hp : [.loops, .elems] ⊆ P) (c : Nat) :
    Only P o₀ (formFrames s c) := by
  unfold formFrames
  repeat' first
    | with_reducible assumption
    | with_reducible apply Only.ite
    | with_reducible apply Only.foldl
    | intro s1 x1 h1
    | dsimp only
    | ((with_reducible apply Only.set_loops); exact .inl (hp (by decide)); exact .inl (hp (by decide)))

theorem tileCommas_only {P : List Part} {o₀ : State} {s : State} (h₀ : Only P o₀ s) (hp : [.tiles] ⊆ P) (c : Nat) :
    Only P o₀ (tileCommas s c) := by
  unfold tileCommas
  repeat' first
    | with_reducible assumption
    | with_reducible apply Only.ite
    | with_reducible apply Only.foldl
    | intro s1 x1 h1
    | dsimp only
    | ((with_reducible apply Only.set_paost); (with_reducible exact .inr rfl); exact .inl (hp (by decide)))

theorem throttleBegin_only {P : List Part} {o₀ : State} {s : State} (h₀ : Only P o₀ s) (hp : [.out, .loops, .elems, .runs, .calRuns, .links] ⊆ P)  :
    Only P o₀ (throttleBegin s) := by
  unfold throttleBegin
  repeat' first
    | with_reducible assumption
    | ((with_reducible refine List.Subset.trans ?_ hp); decide)
    | with_reducible apply abortPoints_only
    | with_reducible apply State.setAnyRun_only
    | with_reducible apply actuatorOff_only
    | with_reducible apply State.modElem_only
    | with_reducible apply State.down_only
    | with_reducible apply Only.ite
    | with_reducible apply Only.foldl
    | intro s1 x1 h1
    | dsimp only
    | ((with_reducible apply Only.set_calib); (with_reducible exact .inr rfl); exact .inl (hp (by decide)))
    | ((with_reducible apply Only.set_loops); exact .inl (hp (by decide)); exact .inl (hp (by decide)))
    | ((with_reducible apply Only.mk); rotate_left; (intro p hn; cases p <;> (first | (with_reducible rfl) | exact absurd (hp (by decide)) hn | (with_reducible exact ⟨rfl, rfl⟩) | (with_reducible exact ⟨rfl, rfl, rfl⟩) | (with_reducible exact ⟨rfl, rfl, rfl, rfl⟩))))

theorem throttleStep_only {P : List Part} {o₀ : State} {s : State} (h₀ : Only P o₀ s) (hp : [.out, .loops, .elems, .runs, .calRuns, .links] ⊆ P)  :
    Only P o₀ (throttleStep s) := by
  unfold throttleStep
  repeat' first
    | with_reducible assumption
    | with_reducible apply throttleBegin_only
    | with_reducible apply Only.ite
    | with_reducible apply Only.foldl
    | intro s1 x1 h1
    | dsimp only
    | ((with_reducible apply Only.set_loops); exact .inl (hp (by decide)); exact .inl (hp (by decide)))

theorem applyShares_only {P : List Part} {o₀ : State} {s : State} (h₀ : Only P o₀ s) (hp : [.out, .comma, .links] ⊆ P)  :
    Only P o₀ (applyShares s) := by
  unfold applyShares
  repeat' first
    | with_reducible assumption
    | ((with_reducible refine List.Subset.trans ?_ hp); decide)
    | with_reducible apply sendShares_only
    | with_reducible apply Only.ite
    | with_reducible apply Only.foldl
    | intro s1 x1 h1
    | dsimp only
    | ((with_reducible apply Only.set_comma); exact hp (by decide))

theorem lateSense_only {P : List Part} {o₀ : State} {s : State} (h₀ : Only P o₀ s) (hp : [.out, .faults, .irq, .regions, .loops, .elems, .runs, .calRuns, .links, .lsu, .house] ⊆ P)  :
    Only P o₀ (lateSense s) := by
  unfold lateSense
  repeat' first
    | with_reducible assumption
    | with_reducible apply overrun_only
    | with_reducible apply Only.ite
    | with_reducible apply Only.foldl
    | intro s1 x1 h1

theorem endComma_only {P : List Part} {o₀ : State} {s : State} (h₀ : Only P o₀ s) (hp : [.out, .faults, .irq, .regions, .loops, .elems, .runs, .calRuns, .links, .lsu, .house] ⊆ P)  :
    Only P o₀ (endComma s) := by
  unfold endComma
  repeat' first
    | with_reducible assumption
    | ((with_reducible refine List.Subset.trans ?_ hp); decide)
    | with_reducible apply State.modRegion_only
    | with_reducible apply lateSense_only
    | with_reducible apply Only.ite
    | with_reducible apply Only.foldl
    | intro s1 x1 h1

theorem degradeStep_only {P : List Part} {o₀ : State} {s : State} (h₀ : Only P o₀ s) (hp : [.out, .faults, .irq, .regions, .loops, .elems, .runs, .calRuns, .links, .lsu, .house] ⊆ P) (c : Nat) (n : Nat) :
    Only P o₀ (degradeStep c s n) := by
  unfold degradeStep
  repeat' first
    | with_reducible assumption
    | ((with_reducible refine List.Subset.trans ?_ hp); decide)
    | with_reducible apply State.modRegion_only
    | with_reducible apply State.report_only
    | with_reducible apply Only.ite

theorem swapBanks_only {P : List Part} {o₀ : State} {s : State} (h₀ : Only P o₀ s) (hp : [.loops, .elems] ⊆ P)  :
    Only P o₀ (swapBanks s) := by
  unfold swapBanks
  repeat' first
    | with_reducible assumption
    | ((with_reducible refine List.Subset.trans ?_ hp); decide)
    | with_reducible apply State.setCls_only
    | with_reducible apply State.modElem_only
    | with_reducible apply Only.ite
    | with_reducible apply Only.foldl
    | intro s1 x1 h1

theorem sendRates_only {P : List Part} {o₀ : State} {s : State} (h₀ : Only P o₀ s) (hp : [.out, .elems, .links] ⊆ P) (c : Nat) :
    Only P o₀ (sendRates s c) := by
  unfold sendRates
  repeat' first
    | with_reducible assumption
    | ((with_reducible refine List.Subset.trans ?_ hp); decide)
    | with_reducible apply State.modElem_only
    | with_reducible apply State.down_only
    | with_reducible apply Only.ite
    | with_reducible apply Only.foldl
    | intro s1 x1 h1

theorem dacSines_only {P : List Part} {o₀ : State} {s : State} (h₀ : Only P o₀ s) (hp : [.house] ⊆ P) (c : Nat) :
    Only P o₀ (dacSines s c) := by
  unfold dacSines
  repeat' first
    | with_reducible assumption
    | with_reducible apply State.setDac_only
    | with_reducible apply Only.ite
    | with_reducible apply Only.foldl
    | intro s1 x1 h1

theorem sendBeacons_only {P : List Part} {o₀ : State} {s : State} (h₀ : Only P o₀ s) (hp : [.out, .links] ⊆ P)  :
    Only P o₀ (sendBeacons s) := by
  unfold sendBeacons
  repeat' first
    | with_reducible assumption
    | ((with_reducible refine List.Subset.trans ?_ hp); decide)
    | with_reducible apply State.down_only
    | with_reducible apply State.modLink_only
    | with_reducible apply Only.ite
    | with_reducible apply Only.foldl
    | intro s1 x1 h1

theorem mainComma_only {P : List Part} {o₀ : State} {s : State} (h₀ : Only P o₀ s) (hp : [.out, .free, .faults, .irq, .issues, .comma, .regions, .store, .loops, .elems, .smu, .runs, .calib, .calRuns, .links, .tiles, .adm, .lsu, .mate, .handover, .chip, .house] ⊆ P) (c : Nat) :
    Only P o₀ (mainComma s c) := by
  unfold mainComma
  repeat' first
    | with_reducible assumption
    | ((with_reducible refine List.Subset.trans ?_ hp); decide)
    | with_reducible apply throttleStep_only
    | with_reducible apply applyMeters_only
    | with_reducible apply applyShares_only
    | with_reducible apply endComma_only
    | with_reducible apply rebalance_only
    | with_reducible apply degradeStep_only
    | with_reducible apply swapBanks_only
    | with_reducible apply boundaryElems_only
    | with_reducible apply endSwaps_only
    | with_reducible apply releaseRetired_only
    | with_reducible apply sendRates_only
    | with_reducible apply correctTile_only
    | with_reducible apply formFrames_only
    | with_reducible apply dacSines_only
    | with_reducible apply grantBus_only
    | with_reducible apply matePaths_only
    | with_reducible apply sendBeacons_only
    | with_reducible apply sendDrives_only
    | with_reducible apply Only.ite
    | with_reducible apply Only.foldl
    | intro s1 x1 h1

theorem commaStep_only {P : List Part} {o₀ : State} {s : State} (h₀ : Only P o₀ s) (hp : [.out, .free, .dt, .faults, .irq, .issues, .comma, .regions, .store, .loops, .elems, .smu, .runs, .calib, .calRuns, .links, .tiles, .adm, .lsu, .mate, .handover, .chip, .house] ⊆ P)  :
    Only P o₀ (commaStep s) := by
  unfold commaStep
  repeat' first
    | with_reducible assumption
    | ((with_reducible refine List.Subset.trans ?_ hp); decide)
    | with_reducible apply tileCommas_only
    | with_reducible apply mainComma_only
    | with_reducible apply dacSines_only
    | with_reducible apply matePaths_only
    | with_reducible apply throttleStep_only
    | with_reducible apply applyMeters_only
    | with_reducible apply applyShares_only
    | with_reducible apply Only.ite
    | with_reducible apply Only.foldl
    | intro s1 x1 h1
    | dsimp only
    | ((with_reducible apply Only.set_dt); exact hp (by decide))

end Sys2Proof.Safety
end

