-- ==== Sys2Proof/Laws/OnlyRegions.lean ====
section
/-! SUPPORT. What the functions of `Machine/Regions.lean` may write: one lemma each. -/

set_option Elab.async false

namespace Sys2Proof.Safety

open Sys2Proof.Machine

theorem reassignCell_only {P : List Part} {o₀ : State} {s : State} (h₀ : Only P o₀ s) (hp : [.regions] ⊆ P) (n : Nat) (k : Nat) :
    Only P o₀ (reassignCell s n k) := by
  unfold reassignCell
  repeat' first
    | with_reducible assumption
    | with_reducible apply moveGroup_only
    | with_reducible apply Only.ite
    | with_reducible apply Only.foldl
    | intro s1 x1 h1
    | dsimp only
    | split

theorem moveRuns_only {P : List Part} {o₀ : State} {s : State} (h₀ : Only P o₀ s) (hp : [.runs] ⊆ P) (n : Nat) (k : Nat) :
    Only P o₀ (moveRuns s n k) := by
  unfold moveRuns
  repeat' first
    | with_reducible assumption
    | with_reducible apply State.setAnyRun_only
    | with_reducible apply Only.ite
    | with_reducible apply Only.foldl
    | intro s1 x1 h1

theorem escalate_only {P : List Part} {o₀ : State} {s : State} (h₀ : Only P o₀ s) (hp : [.out, .faults, .irq, .issues, .owed, .regions, .store, .loops, .elems, .runs, .calRuns, .links, .lsu, .house, .matrix] ⊆ P) (n : Nat) :
    Only P o₀ (escalate s n) := by
  unfold escalate
  repeat' first
    | with_reducible assumption
    | ((with_reducible refine List.Subset.trans ?_ hp); decide)
    | with_reducible apply fenceRegion_only
    | with_reducible apply State.report_only

theorem emptyCache_only {P : List Part} {o₀ : State} {s : State} (h₀ : Only P o₀ s) (hp : [.elems] ⊆ P) (n : Nat) :
    Only P o₀ (emptyCache s n) := by
  unfold emptyCache
  repeat' first
    | with_reducible assumption
    | with_reducible apply demote_only
    | with_reducible apply Only.ite
    | with_reducible apply Only.foldl
    | intro s1 x1 h1

theorem fenceBlock_only {P : List Part} {o₀ : State} {s : State} (h₀ : Only P o₀ s) (hp : [.out, .faults, .irq, .issues, .owed, .regions, .store, .loops, .elems, .runs, .calRuns, .links, .lsu, .house, .matrix] ⊆ P) (n : Nat) (b : Block) :
    Only P o₀ (fenceBlock s n b) := by
  unfold fenceBlock
  repeat' first
    | with_reducible assumption
    | ((with_reducible refine List.Subset.trans ?_ hp); decide)
    | with_reducible apply State.modRegion_only
    | with_reducible apply State.report_only
    | with_reducible apply escalate_only
    | with_reducible apply staleByElem_only
    | with_reducible apply emptyCache_only
    | with_reducible apply endRuns_only
    | with_reducible apply Only.ite
    | with_reducible apply Only.foldl
    | intro s1 x1 h1
    | dsimp only
    | split

theorem fenceCell_only {P : List Part} {o₀ : State} {s : State} (h₀ : Only P o₀ s) (hp : [.out, .faults, .irq, .issues, .owed, .regions, .store, .loops, .elems, .smu, .runs, .calRuns, .links, .lsu, .house, .matrix] ⊆ P) (n : Nat) (b : Block) (k : Nat) :
    Only P o₀ (fenceCell s n b k) := by
  unfold fenceCell
  repeat' first
    | with_reducible assumption
    | ((with_reducible refine List.Subset.trans ?_ hp); decide)
    | with_reducible apply State.modRegion_only
    | with_reducible apply State.report_only
    | with_reducible apply linkDown_only
    | with_reducible apply reassignCell_only
    | with_reducible apply moveRuns_only
    | with_reducible apply fenceBlock_only
    | with_reducible apply Only.ite
    | with_reducible apply Only.foldl
    | intro s1 x1 h1
    | dsimp only
    | split

theorem adoptAgain_only {P : List Part} {o₀ : State} {s : State} (h₀ : Only P o₀ s) (hp : [.out, .faults, .links] ⊆ P) (ts : List Nat) :
    Only P o₀ (adoptAgain s ts) := by
  unfold adoptAgain
  repeat' first
    | with_reducible assumption
    | ((with_reducible refine List.Subset.trans ?_ hp); decide)
    | with_reducible apply sendClaim_only
    | with_reducible apply State.modLink_only
    | with_reducible apply Only.ite
    | with_reducible apply Only.foldl
    | intro s1 x1 h1
    | dsimp only
    | ((with_reducible apply Only.set_faults); exact .inl (hp (by decide)); (with_reducible exact .inr rfl); (with_reducible exact .inr rfl))

theorem dropOperation_only {P : List Part} {o₀ : State} {s : State} (h₀ : Only P o₀ s) (hp : [.out, .faults, .irq, .regions, .loops, .elems, .runs, .calRuns, .links, .lsu, .house] ⊆ P) (b : Block) (eid : Option Nat) :
    Only P o₀ (dropOperation s b eid) := by
  unfold dropOperation
  repeat' first
    | with_reducible assumption
    | ((with_reducible refine List.Subset.trans ?_ hp); decide)
    | with_reducible apply overrun_only
    | with_reducible apply State.modElem_only
    | with_reducible apply Only.ite
    | with_reducible apply Only.foldl
    | intro s1 x1 h1
    | dsimp only
    | split

end Sys2Proof.Safety
end

