-- ==== Sys2Proof/Laws/OnlyFaultCollector.lean ====
section
/-! SUPPORT. What the functions of `Machine/FaultCollector.lean` may write: one lemma each. -/

set_option Elab.async false

namespace Sys2Proof.Safety

open Sys2Proof.Machine

theorem firstClear_only {P : List Part} {o₀ : State} {s : State} (h₀ : Only P o₀ s) (hp : [.faults] ⊆ P)  :
    Only P o₀ (firstClear s) := by
  unfold firstClear
  repeat' first
    | with_reducible assumption
    | with_reducible apply Only.ite
    | with_reducible apply Only.foldl
    | intro s1 x1 h1
    | dsimp only
    | ((with_reducible apply Only.set_faults); exact .inl (hp (by decide)); (with_reducible exact .inr rfl); (with_reducible exact .inr rfl))

theorem faultClear_only {P : List Part} {o₀ s : State} (h₀ : Only P o₀ s) (hp : [.faults] ⊆ P) (v : Nat) :
    Only P o₀ (faultClear s v) :=
  Only.set_faults (.inl (hp (by decide))) (.inr (uncountAll_errLevel ..)) (.inr (uncountAll_resumes ..)) h₀

theorem collectorFault_only {P : List Part} {o₀ : State} {s : State} (h₀ : Only P o₀ s) (hp : [.out, .faults, .irq, .elems, .runs, .calRuns, .links, .lsu, .house] ⊆ P) (inj : Bool) :
    Only P o₀ (collectorFault s inj) := by
  unfold collectorFault
  repeat' first
    | with_reducible assumption
    | ((with_reducible refine List.Subset.trans ?_ hp); decide)
    | with_reducible apply recordAon_only
    | with_reducible apply enterSafeState_only
    | with_reducible apply Only.ite
    | with_reducible apply Only.foldl
    | intro s1 x1 h1
    | dsimp only
    | ((with_reducible apply Only.set_faults); exact .inl (hp (by decide)); (with_reducible exact .inr rfl); (with_reducible exact .inr rfl))

theorem injectReact_only {P : List Part} {o₀ : State} {s : State} (h₀ : Only P o₀ s) (hp : [.out, .free, .faults, .irq, .issues, .owed, .regions, .store, .loops, .elems, .runs, .calRuns, .links, .tiles, .mem, .lsu, .house, .matrix] ⊆ P) (target : Nat) (unit : Nat) (double : Bool) :
    Only P o₀ (injectReact s target unit double) := by
  unfold injectReact
  repeat' first
    | with_reducible assumption
    | ((with_reducible refine List.Subset.trans ?_ hp); decide)
    | with_reducible apply recordOne_only
    | with_reducible apply State.draw_only
    | with_reducible apply State.modElem_only
    | with_reducible apply sendNak_only
    | with_reducible apply State.modLink_only
    | with_reducible apply fenceRegion_only
    | with_reducible apply collectorFault_only
    | with_reducible apply lenOff_only
    | with_reducible apply State.setLen_only
    | with_reducible apply Only.ite
    | with_reducible apply Only.foldl
    | intro s1 x1 h1
    | dsimp only
    | split
    | ((with_reducible apply Only.set_faults); exact .inl (hp (by decide)); (with_reducible exact .inr rfl); (with_reducible exact .inr rfl))
    | ((with_reducible apply Only.set_mem); exact hp (by decide))
    | ((with_reducible apply Only.mk); rotate_left; (intro p hn; cases p <;> (first | (with_reducible rfl) | exact absurd (hp (by decide)) hn | (with_reducible exact ⟨rfl, rfl⟩) | (with_reducible exact ⟨rfl, rfl, rfl⟩) | (with_reducible exact ⟨rfl, rfl, rfl, rfl⟩))))

theorem reactTo_only {P : List Part} {o₀ : State} {s : State} (h₀ : Only P o₀ s) (hp : [.out, .faults, .irq, .issues, .owed, .regions, .store, .loops, .elems, .runs, .calRuns, .links, .lsu, .house, .matrix] ⊆ P) (r : Report) :
    Only P o₀ (reactTo s r) := by
  unfold reactTo
  repeat' first
    | with_reducible assumption
    | ((with_reducible refine List.Subset.trans ?_ hp); decide)
    | with_reducible apply fenceRegion_only
    | with_reducible apply fenceTile_only
    | with_reducible apply fenceBlock_only
    | with_reducible apply Only.ite
    | with_reducible apply Only.foldl
    | intro s1 x1 h1
    | dsimp only
    | split

theorem injectCheck_only {P : List Part} {o₀ : State} {s : State} (h₀ : Only P o₀ s) (hp : [.out, .free, .faults, .irq, .loops, .elems, .runs, .calRuns, .links, .lsu, .house] ⊆ P) (target : Nat) (unit : Nat) :
    Only P o₀ (injectCheck s target unit) := by
  unfold injectCheck
  repeat' first
    | with_reducible assumption
    | ((with_reducible refine List.Subset.trans ?_ hp); decide)
    | with_reducible apply recordOne_only
    | with_reducible apply State.draw_only
    | with_reducible apply Only.ite
    | with_reducible apply Only.foldl
    | intro s1 x1 h1
    | dsimp only
    | split

theorem inject_only {P : List Part} {o₀ : State} {s : State} (h₀ : Only P o₀ s) (hp : [.out, .free, .faults, .irq, .issues, .owed, .regions, .store, .loops, .elems, .runs, .calRuns, .links, .tiles, .mem, .lsu, .house, .matrix] ⊆ P) (target : Nat) (unit : Nat) (double : Bool) (isReact : Bool) (viaSideband : Bool) :
    Only P o₀ (inject s target unit double isReact viaSideband) := by
  unfold inject
  repeat' first
    | with_reducible assumption
    | ((with_reducible refine List.Subset.trans ?_ hp); decide)
    | with_reducible apply injectReact_only
    | with_reducible apply injectCheck_only
    | with_reducible apply Only.ite
    | with_reducible apply Only.foldl
    | intro s1 x1 h1
    | dsimp only
    | ((with_reducible apply Only.set_faults); exact .inl (hp (by decide)); (with_reducible exact .inr rfl); (with_reducible exact .inr rfl))

end Sys2Proof.Safety
end

