-- ==== Sys2Proof/Laws/OnlyLoopVerbs.lean ====
section
/-! SUPPORT. What the functions of `Machine/LoopVerbs.lean` may write: one lemma each. -/

set_option Elab.async false

namespace Sys2Proof.Safety

open Sys2Proof.Machine

theorem waitBoundary_only {P : List Part} {o₀ : State} {s : State} (h₀ : Only P o₀ s) (hp : [.loops, .elems] ⊆ P) (h : Hdr) (op : Nat) (e : Nat) (f : Elem → Elem) :
    Only P o₀ (waitBoundary s h op e f) := by
  unfold waitBoundary
  repeat' first
    | with_reducible assumption
    | ((with_reducible refine List.Subset.trans ?_ hp); decide)
    | with_reducible apply State.modElem_only
    | with_reducible apply Only.ite
    | with_reducible apply Only.foldl
    | intro s1 x1 h1
    | dsimp only
    | ((with_reducible apply Only.set_loops); exact .inl (hp (by decide)); exact .inl (hp (by decide)))

theorem loadBank_only {P : List Part} {o₀ : State} {s : State} (h₀ : Only P o₀ s) (hp : [.issues, .loops] ⊆ P) (h : Hdr) (cls : Nat) (bank : Nat) (b : Bank) :
    Only P o₀ (loadBank s h cls bank b) := by
  unfold loadBank
  repeat' first
    | with_reducible assumption
    | ((with_reducible refine List.Subset.trans ?_ hp); decide)
    | with_reducible apply State.fail_only
    | with_reducible apply State.complete_only
    | with_reducible apply State.setCls_only
    | with_reducible apply Only.ite

theorem writeLoopShare_only {P : List Part} {o₀ : State} {s : State} (h₀ : Only P o₀ s) (hp : [.comma] ⊆ P) (value : Word32) :
    Only P o₀ (writeLoopShare s value) := by
  unfold writeLoopShare
  repeat' first
    | with_reducible assumption
    | with_reducible apply Only.ite
    | with_reducible apply Only.foldl
    | intro s1 x1 h1
    | dsimp only
    | ((with_reducible apply Only.set_comma); exact hp (by decide))

theorem writeLinkShare_only {P : List Part} {o₀ : State} {s : State} (h₀ : Only P o₀ s) (hp : [.comma] ⊆ P) (value : Word32) :
    Only P o₀ (writeLinkShare s value) := by
  unfold writeLinkShare
  repeat' first
    | with_reducible assumption
    | with_reducible apply Only.ite
    | with_reducible apply Only.foldl
    | intro s1 x1 h1
    | dsimp only
    | ((with_reducible apply Only.set_comma); exact hp (by decide))

theorem hostPins_only {P : List Part} {o₀ : State} {s : State} (h₀ : Only P o₀ s) (hp : [.elems] ⊆ P) (es : List Nat) (t : Nat) :
    Only P o₀ (hostPins s es t) := by
  unfold hostPins
  repeat' first
    | with_reducible assumption
    | with_reducible apply State.modElem_only
    | with_reducible apply Only.ite
    | with_reducible apply Only.foldl
    | intro s1 x1 h1

end Sys2Proof.Safety
end

