-- ==== Sys2Proof/Laws/OnlyHostData.lean ====
section
/-! SUPPORT. What the functions of `Machine/HostData.lean` may write: one lemma each. -/

set_option Elab.async false

namespace Sys2Proof.Safety

open Sys2Proof.Machine

theorem saveHostSet_only {P : List Part} {o₀ : State} {s : State} (h₀ : Only P o₀ s) (hp : [.issues, .calib] ⊆ P) (h : Hdr) (set : CalSet) :
    Only P o₀ (saveHostSet s h set) := by
  unfold saveHostSet
  repeat' first
    | with_reducible assumption
    | ((with_reducible refine List.Subset.trans ?_ hp); decide)
    | with_reducible apply State.fail_only
    | with_reducible apply Only.ite
    | with_reducible apply Only.foldl
    | intro s1 x1 h1
    | dsimp only
    | ((with_reducible apply Only.set_calib); exact .inl (hp (by decide)); (with_reducible exact .inr ⟨rfl, rfl⟩))

theorem hostFailed_only {P : List Part} {o₀ : State} {s : State} (h₀ : Only P o₀ s) (hp : [.issues, .calib] ⊆ P) (h : Hdr) (x2 : Instr) :
    Only P o₀ (hostFailed s h x2) := by
  unfold hostFailed
  repeat' first
    | with_reducible assumption
    | ((with_reducible refine List.Subset.trans ?_ hp); decide)
    | with_reducible apply State.fail_only
    | with_reducible apply Only.ite
    | with_reducible apply Only.foldl
    | intro s1 x1 h1
    | dsimp only
    | split
    | ((with_reducible apply Only.set_calib); exact .inl (hp (by decide)); (with_reducible exact .inr ⟨rfl, rfl⟩))

theorem hostDone_only {P : List Part} {o₀ : State} {s : State} (h₀ : Only P o₀ s) (hp : [.issues, .store, .loops, .smu, .calib, .adm] ⊆ P) (h : Hdr) (d : HostData) (x3 : Instr) :
    Only P o₀ (hostDone s h d x3) := by
  unfold hostDone
  repeat' first
    | with_reducible assumption
    | ((with_reducible refine List.Subset.trans ?_ hp); decide)
    | with_reducible apply stageClauses_only
    | with_reducible apply defineSteps_only
    | with_reducible apply loadBank_only
    | with_reducible apply loadList_only
    | with_reducible apply queueFrame_only
    | with_reducible apply saveHostSet_only
    | with_reducible apply State.complete_only
    | with_reducible apply Only.ite
    | with_reducible apply Only.foldl
    | intro s1 x1 h1
    | dsimp only
    | split
    | ((with_reducible apply Only.set_calib); exact .inl (hp (by decide)); (with_reducible exact .inr ⟨rfl, rfl⟩))

end Sys2Proof.Safety
end

