-- ==== Sys2Proof/Laws/OnlyHostQueues.lean ====
section
/-! SUPPORT. What the functions of `Machine/HostQueues.lean` may write: one lemma each. -/

set_option Elab.async false

namespace Sys2Proof.Safety

open Sys2Proof.Machine

theorem queueError_only {P : List Part} {o₀ : State} {s : State} (h₀ : Only P o₀ s) (hp : [.host] ⊆ P) (q : Nat) (code : Nat) :
    Only P o₀ (queueError s q code) := by
  unfold queueError
  repeat' first
    | with_reducible assumption
    | with_reducible apply State.setQueue_only

theorem fetchMore_only {P : List Part} {o₀ : State} {s : State} (h₀ : Only P o₀ s) (hp : [.out, .host] ⊆ P) (q : Nat) :
    Only P o₀ (fetchMore s q) := by
  unfold fetchMore
  repeat' first
    | with_reducible assumption
    | ((with_reducible refine List.Subset.trans ?_ hp); decide)
    | with_reducible apply State.emit_only
    | with_reducible apply State.setQueue_only
    | with_reducible apply Only.ite

theorem cqHead_only {P : List Part} {o₀ : State} {s : State} (h₀ : Only P o₀ s) (hp : [.out, .host] ⊆ P) (q : Nat) (value : Nat) :
    Only P o₀ (cqHead s q value) := by
  unfold cqHead
  repeat' first
    | with_reducible assumption
    | ((with_reducible refine List.Subset.trans ?_ hp); decide)
    | with_reducible apply queueError_only
    | with_reducible apply fetchMore_only
    | with_reducible apply State.setQueue_only
    | with_reducible apply Only.ite

theorem startQueue_only {P : List Part} {o₀ : State} {s : State} (h₀ : Only P o₀ s) (hp : [.host, .adm] ⊆ P) (q : Nat) :
    Only P o₀ (startQueue s q) := by
  unfold startQueue
  repeat' first
    | with_reducible assumption
    | ((with_reducible refine List.Subset.trans ?_ hp); decide)
    | with_reducible apply fillMeters_only
    | with_reducible apply State.setQueue_only

theorem functionReset_only {P : List Part} {o₀ : State} {s : State} (h₀ : Only P o₀ s) (hp : [.free, .host, .issues, .owed, .mem, .matrix] ⊆ P)  :
    Only P o₀ (functionReset s) := by
  unfold functionReset
  repeat' first
    | with_reducible assumption
    | with_reducible apply abortBurst_only
    | ((with_reducible refine List.Subset.trans ?_ hp); decide)
    | with_reducible apply dropAll_only
    | with_reducible apply Only.ite
    | with_reducible apply Only.foldl
    | intro s1 x1 h1
    | dsimp only
    | ((with_reducible apply Only.set_host); exact .inl (hp (by decide)); (with_reducible exact .inr rfl); exact .inl (hp (by decide)); exact .inl (hp (by decide)))

theorem writeEvent_only {P : List Part} {o₀ : State} {s : State} (h₀ : Only P o₀ s) (hp : [.out, .host, .irq] ⊆ P) (q : Nat) (e : Event) :
    Only P o₀ (writeEvent s q e) := by
  unfold writeEvent
  repeat' first
    | with_reducible assumption
    | ((with_reducible refine List.Subset.trans ?_ hp); decide)
    | with_reducible apply State.emit_only
    | with_reducible apply State.msix_only
    | with_reducible apply State.setQueue_only
    | with_reducible apply Only.ite

theorem flushHeld_only {P : List Part} {o₀ : State} (hp : [.out, .host, .irq] ⊆ P) (q : Nat) :
    ∀ {s : State} (_ : Only P o₀ s) (n : Nat), Only P o₀ (flushHeld s q n)
  | _, h₀, 0 => h₀
  | s, h₀, n + 1 => by
    have hw : ∀ x e, Only P o₀ (writeEvent (s.setQueue q x) q e) := fun x e =>
      writeEvent_only (State.setQueue_only h₀ (List.Subset.trans (by decide) hp) _ _) (List.Subset.trans (by decide) hp) _ _
    unfold flushHeld
    dsimp only
    with_reducible apply Only.ite
    · exact h₀
    · split
      · exact flushHeld_only hp q (hw _ _) n
      · with_reducible apply Only.ite
        · exact hw _ _
        · exact h₀

theorem holdEvent_only {P : List Part} {o₀ : State} {s : State} (h₀ : Only P o₀ s) (hp : [.host] ⊆ P) (q : Nat) (e : Event) :
    Only P o₀ (holdEvent s q e) := by
  unfold holdEvent
  repeat' first
    | with_reducible assumption
    | with_reducible apply State.setQueue_only
    | with_reducible apply Only.ite

theorem postHostEvent_only {P : List Part} {o₀ : State} {s : State} (h₀ : Only P o₀ s) (hp : [.out, .host, .irq] ⊆ P) (q : Nat) (e : Event) :
    Only P o₀ (postHostEvent s q e) := by
  unfold postHostEvent
  repeat' first
    | with_reducible assumption
    | ((with_reducible refine List.Subset.trans ?_ hp); decide)
    | with_reducible apply State.setQueue_only
    | with_reducible apply flushHeld_only
    | with_reducible apply holdEvent_only
    | with_reducible apply writeEvent_only
    | with_reducible apply Only.ite

theorem queueOn_only {P : List Part} {o₀ : State} {s : State} (h₀ : Only P o₀ s) (hp : [.host, .adm] ⊆ P) (q : Nat) :
    Only P o₀ (queueOn s q) := by
  unfold queueOn
  repeat' first
    | with_reducible assumption
    | ((with_reducible refine List.Subset.trans ?_ hp); decide)
    | with_reducible apply startQueue_only
    | with_reducible apply State.setQueue_only
    | with_reducible apply Only.ite
    | with_reducible apply Only.foldl
    | intro s1 x1 h1
    | dsimp only
    | split

theorem queueOff_only {P : List Part} {o₀ : State} {s : State} (h₀ : Only P o₀ s) (hp : [.host] ⊆ P) (q : Nat) :
    Only P o₀ (queueOff s q) := by
  unfold queueOff
  repeat' first
    | with_reducible assumption
    | with_reducible apply State.setQueue_only
    | with_reducible apply Only.ite
    | with_reducible apply Only.foldl
    | intro s1 x1 h1
    | dsimp only
    | split

theorem queueConfig_only {P : List Part} {o₀ : State} {s : State} (h₀ : Only P o₀ s) (hp : [.host, .adm] ⊆ P) (q : Nat) (reg : Nat) (value : Word32) :
    Only P o₀ (queueConfig s q reg value) := by
  unfold queueConfig
  repeat' first
    | with_reducible assumption
    | ((with_reducible refine List.Subset.trans ?_ hp); decide)
    | with_reducible apply State.setQueue_only
    | with_reducible apply queueOn_only
    | with_reducible apply queueOff_only
    | with_reducible apply Only.ite
    | with_reducible apply Only.foldl
    | intro s1 x1 h1
    | dsimp only
    | split

theorem doorbell_only {P : List Part} {o₀ : State} {s : State} (h₀ : Only P o₀ s) (hp : [.out, .issues, .owed, .store, .adm] ⊆ P) (value : Word32) :
    Only P o₀ (doorbell s value) := by
  unfold doorbell
  repeat' first
    | with_reducible assumption
    | ((with_reducible refine List.Subset.trans ?_ hp); decide)
    | with_reducible apply State.colour_only
    | with_reducible apply doorbellReport_only
    | with_reducible apply fireSentence_only
    | with_reducible apply ignoreTrigger_only
    | with_reducible apply Only.ite

theorem sqTail_only {P : List Part} {o₀ : State} {s : State} (h₀ : Only P o₀ s) (hp : [.out, .host] ⊆ P) (q : Nat) (value : Nat) :
    Only P o₀ (sqTail s q value) := by
  unfold sqTail
  repeat' first
    | with_reducible assumption
    | ((with_reducible refine List.Subset.trans ?_ hp); decide)
    | with_reducible apply queueError_only
    | with_reducible apply fetchMore_only
    | with_reducible apply State.setQueue_only
    | with_reducible apply Only.ite

theorem postSbEvent_only {P : List Part} {o₀ : State} {s : State} (h₀ : Only P o₀ s) (hp : [.host] ⊆ P) (e : Event) :
    Only P o₀ (postSbEvent s e) := by
  unfold postSbEvent
  repeat' first
    | with_reducible assumption
    | with_reducible apply Only.ite
    | with_reducible apply Only.foldl
    | intro s1 x1 h1
    | dsimp only
    | ((with_reducible apply Only.set_host); exact .inl (hp (by decide)); (with_reducible exact .inr rfl); (with_reducible exact .inr rfl); (with_reducible exact .inr rfl))

theorem writeCompletion_only {P : List Part} {o₀ : State} {s : State} (h₀ : Only P o₀ s) (hp : [.out, .host, .irq] ⊆ P) (q : Nat) (i : Issue) (status : Nat) (result : Nat) :
    Only P o₀ (writeCompletion s q i status result) := by
  unfold writeCompletion
  repeat' first
    | with_reducible assumption
    | ((with_reducible refine List.Subset.trans ?_ hp); decide)
    | with_reducible apply State.emit_only
    | with_reducible apply State.msix_only
    | with_reducible apply State.setQueue_only
    | with_reducible apply Only.ite

theorem eqHead_only {P : List Part} {o₀ : State} {s : State} (h₀ : Only P o₀ s) (hp : [.out, .host, .irq] ⊆ P) (q : Nat) (value : Nat) :
    Only P o₀ (eqHead s q value) := by
  unfold eqHead
  repeat' first
    | with_reducible assumption
    | ((with_reducible refine List.Subset.trans ?_ hp); decide)
    | with_reducible apply queueError_only
    | with_reducible apply flushHeld_only
    | with_reducible apply State.setQueue_only
    | with_reducible apply Only.ite

end Sys2Proof.Safety
end

