-- ==== Sys2Proof/Laws/OnlyHousekeeping.lean ====
section
/-! SUPPORT. What the functions of `Machine/Housekeeping.lean` may write: one lemma each. -/

set_option Elab.async false

namespace Sys2Proof.Safety

open Sys2Proof.Machine

theorem adcCtrl_only {P : List Part} {o₀ : State} {s : State} (h₀ : Only P o₀ s) (hp : [.house] ⊆ P) (value : Word32) :
    Only P o₀ (adcCtrl s value) := by
  unfold adcCtrl
  repeat' first
    | with_reducible assumption
    | with_reducible apply Only.ite
    | with_reducible apply Only.foldl
    | intro s1 x1 h1
    | dsimp only
    | ((with_reducible apply Only.set_house); exact hp (by decide))

theorem adcUrgent_only {P : List Part} {o₀ : State} {s : State} (h₀ : Only P o₀ s) (hp : [.house] ⊆ P) (value : Word32) :
    Only P o₀ (adcUrgent s value) := by
  unfold adcUrgent
  repeat' first
    | with_reducible assumption
    | with_reducible apply Only.ite
    | with_reducible apply Only.foldl
    | intro s1 x1 h1
    | dsimp only
    | ((with_reducible apply Only.set_house); exact hp (by decide))

theorem sendThrottleDivs_only {P : List Part} {o₀ : State} {s : State} (h₀ : Only P o₀ s) (hp : [.out, .links] ⊆ P)  :
    Only P o₀ (sendThrottleDivs s) := by
  unfold sendThrottleDivs
  repeat' first
    | with_reducible assumption
    | with_reducible apply State.down_only
    | with_reducible apply Only.ite
    | with_reducible apply Only.foldl
    | intro s1 x1 h1

theorem evaluateRound_only {P : List Part} {o₀ : State} {s : State} (h₀ : Only P o₀ s) (hp : [.out, .faults, .irq, .loops, .elems, .runs, .calRuns, .links, .lsu, .house] ⊆ P) (readings : List Int) :
    Only P o₀ (evaluateRound s readings) := by
  unfold evaluateRound
  repeat' first
    | with_reducible assumption
    | ((with_reducible refine List.Subset.trans ?_ hp); decide)
    | with_reducible apply recordReports_only
    | with_reducible apply State.msix_only
    | with_reducible apply sendThrottleDivs_only
    | with_reducible apply Only.ite
    | with_reducible apply Only.foldl
    | intro s1 x1 h1
    | dsimp only
    | ((with_reducible apply Only.set_house); exact hp (by decide))

theorem readUrgResult_only {P : List Part} {o₀ : State} {s : State} (h₀ : Only P o₀ s) (hp : [.house] ⊆ P)  :
    Only P o₀ (readUrgResult s).2 := by
  unfold readUrgResult
  repeat' first
    | with_reducible assumption
    | with_reducible apply Only.ite
    | with_reducible apply Only.foldl
    | with_reducible apply Only.ite_fst
    | with_reducible apply Only.ite_snd
    | with_reducible apply Only.foldl_fst
    | intro s1 x1 h1
    | dsimp only
    | ((with_reducible apply Only.set_house); exact hp (by decide))

theorem dacCtrl_only {P : List Part} {o₀ : State} {s : State} (h₀ : Only P o₀ s) (hp : [.house] ⊆ P) (k : Nat) (value : Word32) :
    Only P o₀ (dacCtrl s k value) := by
  unfold dacCtrl
  repeat' first
    | with_reducible assumption
    | with_reducible apply State.setDac_only

theorem adcSeq_only {P : List Part} {o₀ : State} {s : State} (h₀ : Only P o₀ s) (hp : [.house] ⊆ P) (k : Nat) (value : Word32) :
    Only P o₀ (adcSeq s k value) := by
  unfold adcSeq
  repeat' first
    | with_reducible assumption
    | with_reducible apply State.setAdcEntry_only
    | with_reducible apply Only.ite
    | with_reducible apply Only.foldl
    | intro s1 x1 h1
    | dsimp only
    | ((with_reducible apply Only.set_house); exact hp (by decide))

end Sys2Proof.Safety
end

