-- ==== Sys2Proof/Laws/OnlyTimeUnit.lean ====
section
/-! SUPPORT. What the functions of `Machine/TimeUnit.lean` may write: one lemma each. -/

set_option Elab.async false

namespace Sys2Proof.Safety

open Sys2Proof.Machine

theorem takeMeasure_only {P : List Part} {o₀ : State} {s : State} (h₀ : Only P o₀ s) (hp : [.out, .time, .faults, .irq, .loops, .elems, .runs, .calRuns, .links, .lsu, .house] ⊆ P) (at_ : Nat) (theta : Int) :
    Only P o₀ (takeMeasure s at_ theta) := by
  unfold takeMeasure
  repeat' first
    | with_reducible assumption
    | ((with_reducible refine List.Subset.trans ?_ hp); decide)
    | with_reducible apply State.report_only
    | with_reducible apply Only.ite
    | with_reducible apply Only.foldl
    | intro s1 x1 h1
    | dsimp only
    | ((with_reducible apply Only.set_time); exact hp (by decide))

theorem applyHeld_only {P : List Part} {o₀ : State} {s : State} (h₀ : Only P o₀ s) (hp : [.out, .time, .faults, .irq, .loops, .elems, .runs, .calRuns, .links, .lsu, .house] ⊆ P)  :
    Only P o₀ (applyHeld s) := by
  unfold applyHeld
  repeat' first
    | with_reducible assumption
    | with_reducible apply takeMeasure_only
    | with_reducible apply Only.ite
    | with_reducible apply Only.foldl
    | intro s1 x1 h1
    | dsimp only
    | split
    | ((with_reducible apply Only.set_time); exact hp (by decide))

theorem measureTime_only {P : List Part} {o₀ : State} {s0 : State} (h₀ : Only P o₀ s0) (hp : [.out, .time, .faults, .irq, .loops, .elems, .runs, .calRuns, .links, .lsu, .house] ⊆ P) (theta : Int) :
    Only P o₀ (measureTime s0 theta) := by
  unfold measureTime
  repeat' first
    | with_reducible assumption
    | with_reducible apply applyHeld_only
    | with_reducible apply takeMeasure_only
    | with_reducible apply Only.ite
    | with_reducible apply Only.foldl
    | intro s1 x1 h1
    | dsimp only
    | ((with_reducible apply Only.set_time); exact hp (by decide))

theorem acceptJump_only {P : List Part} {o₀ : State} {s : State} (h₀ : Only P o₀ s) (hp : [.time] ⊆ P)  :
    Only P o₀ (acceptJump s) := by
  unfold acceptJump
  repeat' first
    | with_reducible assumption
    | with_reducible apply Only.ite
    | with_reducible apply Only.foldl
    | intro s1 x1 h1
    | dsimp only
    | ((with_reducible apply Only.set_time); exact hp (by decide))

theorem ppsConfig_only {P : List Part} {o₀ : State} {s : State} (h₀ : Only P o₀ s) (hp : [.time] ⊆ P) (value : Word32) :
    Only P o₀ (ppsConfig s value) := by
  unfold ppsConfig
  repeat' first
    | with_reducible assumption
    | with_reducible apply Only.ite
    | with_reducible apply Only.foldl
    | intro s1 x1 h1
    | dsimp only
    | ((with_reducible apply Only.set_time); exact hp (by decide))

theorem readRateLo_only {P : List Part} {o₀ : State} {s : State} (h₀ : Only P o₀ s) (hp : [.time] ⊆ P)  :
    Only P o₀ (readRateLo s).2 := by
  unfold readRateLo
  repeat' first
    | with_reducible assumption
    | with_reducible apply Only.ite
    | with_reducible apply Only.foldl
    | with_reducible apply Only.ite_fst
    | with_reducible apply Only.ite_snd
    | with_reducible apply Only.foldl_fst
    | intro s1 x1 h1
    | dsimp only
    | ((with_reducible apply Only.set_time); exact hp (by decide))

theorem State.setPtp_only {P : List Part} {o₀ : State} {s : State} (h₀ : Only P o₀ s) (hp : [.time] ⊆ P) (p : Ptp) :
    Only P o₀ (State.setPtp s p) := by
  unfold State.setPtp
  repeat' first
    | with_reducible assumption
    | with_reducible apply Only.ite
    | with_reducible apply Only.foldl
    | intro s1 x1 h1
    | dsimp only
    | ((with_reducible apply Only.set_time); exact hp (by decide))

theorem ptpDiscard_only {P : List Part} {o₀ : State} {s : State} (h₀ : Only P o₀ s) (hp : [.time] ⊆ P)  :
    Only P o₀ (ptpDiscard s) := by
  unfold ptpDiscard
  repeat' first
    | with_reducible assumption
    | with_reducible apply State.setPtp_only

theorem servoFeed_only {P : List Part} {o₀ : State} {s : State} (h₀ : Only P o₀ s) (hp : [.out, .time, .faults, .irq, .loops, .elems, .runs, .calRuns, .links, .lsu, .house] ⊆ P) (value : Word32) :
    Only P o₀ (servoFeed s value) := by
  unfold servoFeed
  repeat' first
    | with_reducible assumption
    | with_reducible apply measureTime_only
    | with_reducible apply Only.ite

theorem timeSnap_only {P : List Part} {o₀ : State} {s : State} (h₀ : Only P o₀ s) (hp : [.time] ⊆ P)  :
    Only P o₀ (timeSnap s) := by
  unfold timeSnap
  repeat' first
    | with_reducible assumption
    | with_reducible apply Only.ite
    | with_reducible apply Only.foldl
    | intro s1 x1 h1
    | dsimp only
    | ((with_reducible apply Only.set_time); exact hp (by decide))

theorem readDtLo_only {P : List Part} {o₀ : State} {s : State} (h₀ : Only P o₀ s) (hp : [.time] ⊆ P)  :
    Only P o₀ (readDtLo s).2 := by
  unfold readDtLo
  repeat' first
    | with_reducible assumption
    | with_reducible apply Only.ite
    | with_reducible apply Only.foldl
    | with_reducible apply Only.ite_fst
    | with_reducible apply Only.ite_snd
    | with_reducible apply Only.foldl_fst
    | intro s1 x1 h1
    | dsimp only
    | ((with_reducible apply Only.set_time); exact hp (by decide))

theorem exchange_only {P : List Part} {o₀ : State} {s : State} (h₀ : Only P o₀ s) (hp : [.out, .time, .faults, .irq, .loops, .elems, .runs, .calRuns, .links, .lsu, .house] ⊆ P) (t1 : Int) (t2 : Int) (t3 : Int) (t4 : Int) :
    Only P o₀ (exchange s t1 t2 t3 t4) := by
  unfold exchange
  repeat' first
    | with_reducible assumption
    | ((with_reducible refine List.Subset.trans ?_ hp); decide)
    | with_reducible apply State.setPtp_only
    | with_reducible apply measureTime_only
    | with_reducible apply Only.ite
    | with_reducible apply Only.foldl
    | intro s1 x1 h1
    | dsimp only
    | ((with_reducible apply Only.set_time); exact hp (by decide))

theorem readPpsIn_only {P : List Part} {o₀ : State} {s : State} (h₀ : Only P o₀ s) (hp : [.time] ⊆ P)  :
    Only P o₀ (readPpsIn s).2 := by
  unfold readPpsIn
  repeat' first
    | with_reducible assumption
    | with_reducible apply Only.ite
    | with_reducible apply Only.foldl
    | with_reducible apply Only.ite_fst
    | with_reducible apply Only.ite_snd
    | with_reducible apply Only.foldl_fst
    | intro s1 x1 h1
    | dsimp only
    | ((with_reducible apply Only.set_time); exact hp (by decide))

end Sys2Proof.Safety
end

