-- ==== Sys2Proof/Laws/OnlyRegisters.lean ====
section
/-! SUPPORT. What the functions of `Machine/Registers.lean` may write: one lemma each. -/

set_option Elab.async false

namespace Sys2Proof.Safety

open Sys2Proof.Machine

theorem refForce_only {P : List Part} {o₀ : State} {s : State} (h₀ : Only P o₀ s) (hp : [.smu] ⊆ P) (v : Word32) :
    Only P o₀ (refForce s v) := by
  unfold refForce
  repeat' first
    | with_reducible assumption
    | with_reducible apply Only.ite
    | with_reducible apply Only.foldl
    | intro s1 x1 h1
    | dsimp only
    | ((with_reducible apply Only.set_smu); exact .inl (hp (by decide)); (with_reducible exact .inr ⟨rfl, rfl⟩))

theorem writeSmu_only {P : List Part} {o₀ : State} {s : State} (h₀ : Only P o₀ s) (hp : [.out, .smu, .runs, .links] ⊆ P) (o : Nat) (v : Word32) :
    Only P o₀ (writeSmu s o v) := by
  unfold writeSmu
  repeat' first
    | with_reducible assumption
    | ((with_reducible refine List.Subset.trans ?_ hp); decide)
    | with_reducible apply selectPort_only
    | with_reducible apply ssGo_only
    | with_reducible apply refCtrl_only
    | with_reducible apply refForce_only
    | with_reducible apply busCtrl_only
    | with_reducible apply Only.ite
    | with_reducible apply Only.foldl
    | intro s1 x1 h1
    | dsimp only
    | ((with_reducible apply Only.set_smu); exact .inl (hp (by decide)); exact .inl (hp (by decide)))

theorem clearP0Max_only {P : List Part} {o₀ : State} {s : State} (h₀ : Only P o₀ s) (hp : [.store] ⊆ P)  :
    Only P o₀ (clearP0Max s) := by
  unfold clearP0Max
  repeat' first
    | with_reducible assumption
    | with_reducible apply Only.ite
    | with_reducible apply Only.foldl
    | intro s1 x1 h1
    | dsimp only
    | ((with_reducible apply Only.set_store); exact hp (by decide))

theorem writeClauses_only {P : List Part} {o₀ : State} {s : State} (h₀ : Only P o₀ s) (hp : [.store, .chip] ⊆ P) (o : Nat) (v : Word32) :
    Only P o₀ (writeClauses s o v) := by
  unfold writeClauses
  repeat' first
    | with_reducible assumption
    | ((with_reducible refine List.Subset.trans ?_ hp); decide)
    | with_reducible apply clearP0Max_only
    | with_reducible apply Only.ite
    | with_reducible apply Only.foldl
    | intro s1 x1 h1
    | dsimp only
    | ((with_reducible apply Only.set_chip); exact .inl (hp (by decide)); (with_reducible exact .inr rfl); (with_reducible exact .inr ⟨rfl, rfl, rfl, rfl⟩))
    | ((with_reducible apply Only.set_store); exact hp (by decide))

theorem writeMate_only {P : List Part} {o₀ : State} {s : State} (h₀ : Only P o₀ s) (hp : [.mate] ⊆ P) (o : Nat) (v : Word32) :
    Only P o₀ (writeMate s o v) := by
  unfold writeMate
  repeat' first
    | with_reducible assumption
    | with_reducible apply clearGap_only
    | with_reducible apply Only.ite
    | with_reducible apply Only.foldl
    | intro s1 x1 h1
    | dsimp only
    | ((with_reducible apply Only.set_mate); exact .inl (hp (by decide)); (with_reducible exact .inr rfl); (with_reducible exact .inr ⟨rfl, rfl, rfl⟩))

theorem writeTime_only {P : List Part} {o₀ : State} {s : State} (h₀ : Only P o₀ s) (hp : [.out, .time, .faults, .irq, .loops, .elems, .runs, .calRuns, .links, .lsu, .house] ⊆ P) (o : Nat) (v : Word32) :
    Only P o₀ (writeTime s o v) := by
  unfold writeTime
  repeat' first
    | with_reducible assumption
    | ((with_reducible refine List.Subset.trans ?_ hp); decide)
    | with_reducible apply timeSnap_only
    | with_reducible apply acceptJump_only
    | with_reducible apply servoFeed_only
    | with_reducible apply ppsConfig_only
    | with_reducible apply Only.ite
    | with_reducible apply Only.foldl
    | intro s1 x1 h1
    | dsimp only
    | ((with_reducible apply Only.set_time); exact hp (by decide))

theorem faultConfig_only {P : List Part} {o₀ : State} {s : State} (h₀ : Only P o₀ s) (hp : [.faults, .errLevel] ⊆ P) (v : Word32) :
    Only P o₀ (faultConfig s v) := by
  unfold faultConfig
  repeat' first
    | with_reducible assumption
    | with_reducible apply Only.ite
    | with_reducible apply Only.foldl
    | intro s1 x1 h1
    | dsimp only
    | ((with_reducible apply Only.set_faults); exact .inl (hp (by decide)); exact .inl (hp (by decide)); (with_reducible exact .inr rfl))

theorem writeSafety_only {P : List Part} {o₀ : State} {s : State} (h₀ : Only P o₀ s) (hp : [.out, .faults, .irq, .loops, .elems, .runs, .calRuns, .links, .lsu, .house] ⊆ P) (o : Nat) (v : Word32) :
    Only P o₀ (writeSafety s o v) := by
  unfold writeSafety
  repeat' first
    | with_reducible assumption
    | ((with_reducible refine List.Subset.trans ?_ hp); decide)
    | with_reducible apply safeCommit_only
    | with_reducible apply safeKey_only
    | with_reducible apply safeAck_only
    | with_reducible apply lenForceOff_only
    | with_reducible apply dropKey_only
    | with_reducible apply Only.ite
    | with_reducible apply Only.foldl
    | intro s1 x1 h1
    | dsimp only
    | ((with_reducible apply Only.set_lsu); exact hp (by decide))

theorem wrote_only {P : List Part} {o₀ : State} {s : State} (h₀ : Only P o₀ s) (hp : [.out, .resumes, .irq, .issues, .regions, .elems, .runs, .calRuns, .links, .handover, .mirror, .digest] ⊆ P) (s0 : State) (off : Nat) :
    Only P o₀ (wrote s0 s off) := by
  unfold wrote
  repeat' first
    | with_reducible assumption
    | with_reducible apply after_only
    | with_reducible apply Only.ite

theorem writeGlobal_only {P : List Part} {o₀ : State} {s : State} (h₀ : Only P o₀ s) (hp : [.time, .faults, .errLevel, .resumes, .host, .irq, .issues, .owed, .comma, .regions, .store, .loops, .elems, .smu, .runs, .calib, .calRuns, .links, .adm, .mem, .lsu, .mate, .handover, .mirror, .chip, .digest, .house, .hostOps, .matrix] ⊆ P) (o : Nat) (v : Word32) :
    Only P o₀ (writeGlobal s o v) := by
  unfold writeGlobal
  repeat' first
    | with_reducible assumption
    | ((with_reducible refine List.Subset.trans ?_ hp); decide)
    | with_reducible apply resetCtrl_only
    | with_reducible apply writeLinkShare_only
    | with_reducible apply writeLoopShare_only
    | with_reducible apply Only.ite
    | with_reducible apply Only.foldl
    | intro s1 x1 h1
    | dsimp only
    | ((with_reducible apply Only.set_chip); exact .inl (hp (by decide)); (with_reducible exact .inr rfl); exact .inl (hp (by decide)))
    | ((with_reducible apply Only.set_comma); exact hp (by decide))

theorem faultInject_only {P : List Part} {o₀ : State} {s : State} (h₀ : Only P o₀ s) (hp : [.out, .free, .faults, .irq, .issues, .owed, .regions, .store, .loops, .elems, .runs, .calRuns, .links, .tiles, .mem, .lsu, .house, .matrix] ⊆ P) (v : Word32) (viaSideband : Bool) :
    Only P o₀ (faultInject s v viaSideband) := by
  unfold faultInject
  repeat' first
    | with_reducible assumption
    | with_reducible apply inject_only
    | with_reducible apply Only.ite
    | with_reducible apply Only.foldl
    | intro s1 x1 h1
    | dsimp only
    | ((with_reducible apply Only.set_faults); exact .inl (hp (by decide)); (with_reducible exact .inr rfl); (with_reducible exact .inr rfl))

theorem writeFault_only {P : List Part} {o₀ : State} {s : State} (h₀ : Only P o₀ s) (hp : [.out, .free, .faults, .errLevel, .irq, .issues, .owed, .regions, .store, .loops, .elems, .runs, .calRuns, .links, .tiles, .mem, .lsu, .house, .matrix] ⊆ P) (o : Nat) (v : Word32) (viaSideband : Bool) :
    Only P o₀ (writeFault s o v viaSideband) := by
  unfold writeFault
  repeat' first
    | with_reducible assumption
    | ((with_reducible refine List.Subset.trans ?_ hp); decide)
    | with_reducible apply faultConfig_only
    | with_reducible apply firstClear_only
    | with_reducible apply faultClear_only
    | with_reducible apply faultInject_only
    | with_reducible apply Only.ite
    | with_reducible apply Only.foldl
    | intro s1 x1 h1
    | dsimp only
    | ((with_reducible apply Only.set_faults); exact .inl (hp (by decide)); exact .inl (hp (by decide)); (with_reducible exact .inr rfl))

theorem writeHouse_only {P : List Part} {o₀ : State} {s : State} (h₀ : Only P o₀ s) (hp : [.house] ⊆ P) (o : Nat) (v : Word32) :
    Only P o₀ (writeHouse s o v) := by
  unfold writeHouse
  repeat' first
    | with_reducible assumption
    | with_reducible apply adcCtrl_only
    | with_reducible apply adcSeq_only
    | with_reducible apply State.setAdcEntry_only
    | with_reducible apply adcUrgent_only
    | with_reducible apply dacCtrl_only
    | with_reducible apply State.setDac_only
    | with_reducible apply Only.ite
    | with_reducible apply Only.foldl
    | intro s1 x1 h1
    | dsimp only
    | split

theorem writeCalib_only {P : List Part} {o₀ : State} {s : State} (h₀ : Only P o₀ s) (hp : [.calib] ⊆ P) (o : Nat) (v : Word32) :
    Only P o₀ (writeCalib s o v) := by
  unfold writeCalib
  repeat' first
    | with_reducible assumption
    | with_reducible apply Only.ite
    | with_reducible apply Only.foldl
    | intro s1 x1 h1
    | dsimp only
    | ((with_reducible apply Only.set_calib); exact .inl (hp (by decide)); (with_reducible exact .inr ⟨rfl, rfl⟩))

theorem writePlace_only {P : List Part} {o₀ : State} {s : State} (h₀ : Only P o₀ s) (hp : [.loops] ⊆ P) (o : Nat) (v : Word32) :
    Only P o₀ (writePlace s o v) := by
  unfold writePlace
  repeat' first
    | with_reducible assumption
    | with_reducible apply Only.ite
    | with_reducible apply Only.foldl
    | intro s1 x1 h1
    | dsimp only
    | ((with_reducible apply Only.set_loops); exact .inl (hp (by decide)); (with_reducible exact .inr rfl))

theorem writeMsix_only {P : List Part} {o₀ : State} {s : State} (h₀ : Only P o₀ s) (hp : [.out, .host, .irq] ⊆ P) (v : Nat) (r : Nat) (w : Word32) :
    Only P o₀ (writeMsix s v r w) := by
  unfold writeMsix
  repeat' first
    | with_reducible assumption
    | ((with_reducible refine List.Subset.trans ?_ hp); decide)
    | with_reducible apply State.emit_only
    | with_reducible apply Only.ite
    | with_reducible apply Only.foldl
    | intro s1 x1 h1
    | dsimp only
    | split
    | ((with_reducible apply Only.set_host); exact .inl (hp (by decide)); exact .inl (hp (by decide)); (with_reducible exact .inr rfl); (with_reducible exact .inr rfl))

theorem writeHost_only {P : List Part} {o₀ : State} {s : State} (h₀ : Only P o₀ s) (hp : [.out, .host, .irq, .issues, .owed, .store, .adm] ⊆ P) (o : Nat) (v : Word32) :
    Only P o₀ (writeHost s o v) := by
  unfold writeHost
  repeat' first
    | with_reducible assumption
    | ((with_reducible refine List.Subset.trans ?_ hp); decide)
    | with_reducible apply sqTail_only
    | with_reducible apply cqHead_only
    | with_reducible apply eqHead_only
    | with_reducible apply doorbell_only
    | with_reducible apply queueConfig_only
    | with_reducible apply writeMsix_only
    | with_reducible apply Only.ite
    | with_reducible apply Only.foldl
    | intro s1 x1 h1
    | dsimp only
    | split

theorem writeDma_only {P : List Part} {o₀ : State} {s : State} (h₀ : Only P o₀ s) (hp : [.out, .free, .irq, .mem, .matrix] ⊆ P) (o : Nat) (v : Word32) :
    Only P o₀ (writeDma s o v) := by
  unfold writeDma
  repeat' first
    | with_reducible assumption
    | ((with_reducible refine List.Subset.trans ?_ hp); decide)
    | with_reducible apply dmaReg_only
    | with_reducible apply dmaCtrl_only
    | with_reducible apply State.setChan_only
    | with_reducible apply dmaGlobal_only
    | with_reducible apply Only.ite
    | with_reducible apply Only.foldl
    | intro s1 x1 h1
    | dsimp only
    | ((with_reducible apply Only.set_mem); exact hp (by decide))

theorem writeBanksReg_only {P : List Part} {o₀ : State} {s : State} (h₀ : Only P o₀ s) (hp : [.mem] ⊆ P) (o : Nat) (v : Word32) :
    Only P o₀ (writeBanksReg s o v) := by
  unfold writeBanksReg
  repeat' first
    | with_reducible assumption
    | with_reducible apply bankOwner_only
    | with_reducible apply bankCfg_only
    | with_reducible apply Only.ite
    | with_reducible apply Only.foldl
    | intro s1 x1 h1
    | dsimp only
    | ((with_reducible apply Only.set_mem); exact hp (by decide))

theorem writeSite_only {P : List Part} {o₀ : State} {s : State} (h₀ : Only P o₀ s) (hp : [.time, .adm] ⊆ P) (o : Nat) (v : Word32) :
    Only P o₀ (writeSite s o v) := by
  unfold writeSite
  repeat' first
    | with_reducible assumption
    | ((with_reducible refine List.Subset.trans ?_ hp); decide)
    | with_reducible apply freeSlots_only
    | with_reducible apply Only.ite
    | with_reducible apply Only.foldl
    | intro s1 x1 h1
    | dsimp only
    | ((with_reducible apply Only.set_adm); exact hp (by decide))
    | ((with_reducible apply Only.set_time); exact hp (by decide))

theorem writeAdm_only {P : List Part} {o₀ : State} {s : State} (h₀ : Only P o₀ s) (hp : [.adm] ⊆ P) (o : Nat) (v : Word32) :
    Only P o₀ (writeAdm s o v) := by
  unfold writeAdm
  repeat' first
    | with_reducible assumption
    | with_reducible apply meterWrite_only
    | with_reducible apply clearTelMax_only
    | with_reducible apply Only.ite
    | with_reducible apply Only.foldl
    | intro s1 x1 h1
    | dsimp only
    | ((with_reducible apply Only.set_adm); exact hp (by decide))

theorem writeLink_only {P : List Part} {o₀ : State} {s : State} (h₀ : Only P o₀ s) (hp : [.out, .faults, .irq, .loops, .elems, .smu, .runs, .calRuns, .links, .lsu, .house] ⊆ P) (t : Nat) (o : Nat) (v : Word32) :
    Only P o₀ (writeLink s t o v) := by
  unfold writeLink
  repeat' first
    | with_reducible assumption
    | ((with_reducible refine List.Subset.trans ?_ hp); decide)
    | with_reducible apply State.modLink_only
    | with_reducible apply injectCrc_only
    | with_reducible apply retrain_only
    | with_reducible apply Only.ite

theorem writeRegion_only {P : List Part} {o₀ : State} {s : State} (h₀ : Only P o₀ s) (hp : [.out, .faults, .irq, .regions, .loops, .elems, .smu, .runs, .calRuns, .links, .lsu, .house] ⊆ P) (n : Nat) (o : Nat) (v : Word32) :
    Only P o₀ (writeRegion s n o v) := by
  unfold writeRegion
  repeat' first
    | with_reducible assumption
    | ((with_reducible refine List.Subset.trans ?_ hp); decide)
    | with_reducible apply writeLink_only
    | with_reducible apply State.setRegion_only
    | with_reducible apply Only.ite
    | with_reducible apply Only.foldl
    | intro s1 x1 h1
    | dsimp only
    | ((with_reducible apply Only.set_loops); exact .inl (hp (by decide)); exact .inl (hp (by decide)))

theorem writeReg_only {P : List Part} {o₀ : State} {s : State} (h₀ : Only P o₀ s) (hp : [.out, .free, .time, .faults, .errLevel, .resumes, .host, .irq, .issues, .owed, .comma, .regions, .store, .loops, .elems, .smu, .runs, .calib, .calRuns, .links, .tiles, .adm, .mem, .lsu, .mate, .handover, .mirror, .chip, .digest, .house, .hostOps, .matrix] ⊆ P) (off : Nat) (v : Word32) (viaSideband : Bool) :
    Only P o₀ (writeReg s off v viaSideband) := by
  unfold writeReg
  repeat' first
    | with_reducible assumption
    | ((with_reducible refine List.Subset.trans ?_ hp); decide)
    | with_reducible apply writeGlobal_only
    | with_reducible apply writeFault_only
    | with_reducible apply writeTime_only
    | with_reducible apply writeHouse_only
    | with_reducible apply writeCalib_only
    | with_reducible apply writeSmu_only
    | with_reducible apply writePlace_only
    | with_reducible apply writeClauses_only
    | with_reducible apply writeHost_only
    | with_reducible apply writeDma_only
    | with_reducible apply writeBanksReg_only
    | with_reducible apply writeSite_only
    | with_reducible apply writeMate_only
    | with_reducible apply writeAdm_only
    | with_reducible apply writeRegion_only
    | with_reducible apply Only.ite
    | with_reducible apply Only.foldl
    | intro s1 x1 h1
    | dsimp only
    | split

theorem writeWindow_only {P : List Part} {o₀ : State} {s : State} (h₀ : Only P o₀ s) (hp : [.out, .free, .time, .faults, .errLevel, .resumes, .host, .irq, .issues, .owed, .comma, .regions, .store, .loops, .elems, .smu, .runs, .calib, .calRuns, .links, .tiles, .adm, .mem, .lsu, .mate, .handover, .mirror, .chip, .digest, .house, .hostOps, .matrix] ⊆ P) (o : Nat) (v : Word32) :
    Only P o₀ (writeWindow s o v) := by
  unfold writeWindow
  repeat' first
    | with_reducible assumption
    | ((with_reducible refine List.Subset.trans ?_ hp); decide)
    | with_reducible apply resetCtrl_only
    | with_reducible apply after_only
    | with_reducible apply faultConfig_only
    | with_reducible apply writeSafety_only
    | with_reducible apply wrote_only
    | with_reducible apply writeReg_only
    | with_reducible apply Only.ite
    | with_reducible apply Only.foldl
    | intro s1 x1 h1
    | dsimp only
    | ((with_reducible apply Only.set_chip); exact .inl (hp (by decide)); (with_reducible exact .inr rfl); exact .inl (hp (by decide)))

theorem readFull_only {P : List Part} {o₀ : State} {s : State} (h₀ : Only P o₀ s) (hp : [.time, .smu, .house] ⊆ P) (off : Nat) :
    Only P o₀ (readFull s off).2 := by
  unfold readFull
  repeat' first
    | with_reducible assumption
    | ((with_reducible refine List.Subset.trans ?_ hp); decide)
    | with_reducible apply readDtLo_only
    | with_reducible apply readRateLo_only
    | with_reducible apply readPpsIn_only
    | with_reducible apply readUrgResult_only
    | with_reducible apply readPortResult_only
    | with_reducible apply readSsResult_only
    | with_reducible apply readRefResult_only
    | with_reducible apply Only.ite
    | with_reducible apply Only.foldl
    | with_reducible apply Only.ite_fst
    | with_reducible apply Only.ite_snd
    | with_reducible apply Only.foldl_fst
    | intro s1 x1 h1
    | dsimp only
    | split

theorem readWindow_only {P : List Part} {o₀ : State} {s : State} (h₀ : Only P o₀ s) (hp : [.time, .smu, .house] ⊆ P) (o : Nat) :
    Only P o₀ (readWindow s o).2 := by
  unfold readWindow
  repeat' first
    | with_reducible assumption
    | with_reducible apply readFull_only
    | with_reducible apply Only.ite
    | with_reducible apply Only.foldl
    | with_reducible apply Only.ite_fst
    | with_reducible apply Only.ite_snd

theorem nextWord_only {P : List Part} {o₀ : State} {s : State} (h₀ : Only P o₀ s) (hp : [.host] ⊆ P)  :
    Only P o₀ (nextWord s) := by
  unfold nextWord
  repeat' first
    | with_reducible assumption
    | with_reducible apply Only.ite
    | with_reducible apply Only.foldl
    | intro s1 x1 h1
    | dsimp only
    | ((with_reducible apply Only.set_host); exact .inl (hp (by decide)); (with_reducible exact .inr rfl); (with_reducible exact .inr rfl); (with_reducible exact .inr rfl))

theorem readWords_only {P : List Part} {o₀ : State} (hp : [.time, .host, .smu, .house] ⊆ P) :
    ∀ (n : Nat) {s : State} (_ : Only P o₀ s), Only P o₀ (readWords n s).2
  | 0, _, h₀ => h₀
  | n + 1, _, h₀ => readWords_only hp n
      (nextWord_only (readWindow_only h₀ (List.Subset.trans (by decide) hp) _) (List.Subset.trans (by decide) hp))

end Sys2Proof.Safety
end

