-- ==== Sys2Proof/Laws/OnlyStep.lean ====
section
/-! SUPPORT. What the functions of `Machine/Step.lean` may write: one lemma each. -/

set_option Elab.async false

namespace Sys2Proof.Safety

open Sys2Proof.Machine

theorem State.withFetchWord_only {P : List Part} {o₀ : State} {s : State} (h₀ : Only P o₀ s) (hp : [.pending] ⊆ P) (nbits : Nat) (w : Nat) :
    Only P o₀ (State.withFetchWord s nbits w) := by
  unfold State.withFetchWord
  repeat' first
    | with_reducible assumption
    | with_reducible apply Only.ite
    | with_reducible apply Only.foldl
    | intro s1 x1 h1
    | dsimp only
    | split
    | ((with_reducible apply Only.set_pending); exact hp (by decide))

end Sys2Proof.Safety
end

