-- ==== Sys2Proof/Laws/Out.lean ====
section
/-! SUPPORT. What the block has given out stays: what follows a command only adds to it. -/

set_option Elab.async false

namespace Sys2Proof.Safety

open Sys2Proof.Machine

theorem msix_out (s : State) (v : Nat) : s.out <+: (s.msix v).out := by
  unfold State.msix
  repeat' split
  · exact List.prefix_append ..
  · exact List.prefix_refl _
  · exact List.prefix_refl _

theorem foldl_out {α : Type} {f : State → α → State} (hf : ∀ s x, s.out <+: (f s x).out) (l : List α) (s : State) :
    s.out <+: (l.foldl f s).out := by
  induction l generalizing s with
  | nil => exact List.prefix_refl _
  | cons x l ih => exact (hf s x).trans (ih _)

theorem ite_out {s x y : State} {c : Prop} [Decidable c] (hx : s.out <+: x.out) (hy : s.out <+: y.out) :
    s.out <+: (if c then x else y).out := by split <;> assumption

theorem sendMirror_out (s : State) (r : List Nat) : s.out <+: (sendMirror s r).out := List.prefix_append ..

theorem mirrorTouch_out (s0 s : State) : s.out <+: (mirrorTouch s0 s).out := by
  have h : s.out <+: ((s0.mirrorDiff s).foldl sendMirror s).out := foldl_out sendMirror_out _ s
  unfold mirrorTouch
  generalize (s0.mirrorDiff s).foldl sendMirror s = s1 at h
  dsimp only
  with_reducible apply ite_out
  · with_reducible apply ite_out
    · exact h
    · exact h
  · exact List.prefix_refl _

theorem digestTouch_out (s0 s : State) : (digestTouch s0 s).out = s.out := by
  unfold digestTouch
  split <;> rfl

theorem recordTouch_out (s : State) : (recordTouch s).out = s.out := by
  unfold recordTouch
  split <;> rfl

theorem timeNotify_out (s0 s : State) : s.out <+: (timeNotify s0 s).out := ite_out (msix_out ..) (List.prefix_refl _)
theorem peerNotify_out (s0 s : State) : s.out <+: (peerNotify s0 s).out := ite_out (msix_out ..) (List.prefix_refl _)
theorem mateNotify_out (s0 s : State) : s.out <+: (mateNotify s0 s).out := ite_out (msix_out ..) (List.prefix_refl _)
theorem regionNotify_out (s0 s : State) : s.out <+: (regionNotify s0 s).out := foldl_out (fun s _ => msix_out s _) _ s

theorem lsuNotify_out (s : State) (old : LightSafety) : s.out <+: (s.lsuNotify old).out := ite_out (List.prefix_refl _) (msix_out ..)

/-- With no step of HANDOVER or RESUME_REGION, what follows a command only adds to the output. -/
theorem after_out {s : State} (hh : s.mate.handover = .none) (hr : s.faults.resumes = []) (s0 : State) :
    s.out <+: (after s0 s).out := by
  unfold after
  rw [handoverStep_idle hh, resumeStep_idle hr]
  have h1 : s.out <+: (mirrorTouch s0 (digestTouch s0 (recordTouch s))).out := by
    refine List.IsPrefix.trans ?_ (mirrorTouch_out ..)
    rw [digestTouch_out, recordTouch_out] <;> exact List.prefix_refl _
  exact ((((h1.trans (timeNotify_out ..)).trans (peerNotify_out ..)).trans (mateNotify_out ..)).trans
    (regionNotify_out ..)).trans (lsuNotify_out ..)

/-- What a command has given out is still there after what follows it. -/
theorem after_gives {s s1 : State} {l : List Output} (h : s1.out = s.out ++ l) (hh : s1.mate.handover = .none)
    (hr : s1.faults.resumes = []) (s0 : State) : Gives s (after s0 s1) l := by
  have := after_out hh hr s0
  rwa [h] at this

end Sys2Proof.Safety
end

