-- ==== Sys2Proof/WellFormed.lean ====
section
/-! DEFINITION. Well-formed commands: every operand fits the field that carries it (the verb entries of Tables 3-7, 4-2,
5-6, 7-7, 8-4, 12-4, 15-4, 16-4 and 17-8, the frames of Tables 9-3, 9-4 and 12-5, the registers). What a verb checks of its
fields beyond that is its own meaning (R310). -/

namespace Sys2Proof

/-! ## Fields by width -/

def fits2 (n : Nat) : Bool := n < 4
def fits3 (n : Nat) : Bool := n < 8
def fits4 (n : Nat) : Bool := n < 16
def fits5 (n : Nat) : Bool := n < 32
def fits8 (n : Nat) : Bool := n < 256
def fits9 (n : Nat) : Bool := n < 512
def fits10 (n : Nat) : Bool := n < 1024
def fits11 (n : Nat) : Bool := n < 2048
def fits12 (n : Nat) : Bool := n < 4096
def fits16 (n : Nat) : Bool := n < 65536
def fits17 (n : Nat) : Bool := n < 131072
def fits22 (n : Nat) : Bool := n < 2 ^ 22
def fits24 (n : Nat) : Bool := n < 2 ^ 24
def fits32 (n : Nat) : Bool := n < 2 ^ 32
def fits41 (n : Nat) : Bool := n < 2 ^ 41
def fits48 (n : Nat) : Bool := n < 2 ^ 48
def fits64 (n : Nat) : Bool := n < 2 ^ 64
def fitsS8 (v : Int) : Bool := -128 ≤ v && v < 128
def fitsS12 (v : Int) : Bool := -2048 ≤ v && v < 2048
def fitsS16 (v : Int) : Bool := -32768 ≤ v && v < 32768
def fitsS32 (v : Int) : Bool := -2147483648 ≤ v && v < 2147483648

/-! ## Numbers of things (Table 0-1 and the chapters that number them) -/

def fitsTile (n : Nat) : Bool := n < 256
def fitsElem (n : Nat) : Bool := n < 1024
def fitsEid (n : Nat) : Bool := n < 262144
def fitsRegion (n : Nat) : Bool := n < 16
def fitsHandle (n : Nat) : Bool := n < 4096
def fitsPara (n : Nat) : Bool := n < 64
def fitsPort (n : Nat) : Bool := n < 1024
def fitsClass (n : Nat) : Bool := n < 64
def fitsBank (n : Nat) : Bool := n < 32
def fitsList (n : Nat) : Bool := n < 256

/-- A run: that of a sweep list, or 256, the single-shot point. -/
def fitsRun (n : Nat) : Bool := n ≤ 256
def fitsMonitor (n : Nat) : Bool := n < 2048

/-- A channel of a tile's SMU: 0 to 7, or 8, the actuator path. -/
def fitsSmuChannel (n : Nat) : Bool := n ≤ 8
def fitsQueue (n : Nat) : Bool := n < 8

/-- A configuration register of a queue: Q_BASE_0 to 5, Q_SIZE, Q_CTRL, Q_STATUS, Q_INT. -/
def fitsQueueReg (n : Nat) : Bool := n < 10

/-- ADM_CIR, ADM_PIR, ADM_BURST. -/
def fitsMeterReg (n : Nat) : Bool := n < 3
def fitsPeer (n : Nat) : Bool := n < 16
def fitsSitePort (n : Nat) : Bool := n < 2
def fitsOutput (n : Nat) : Bool := n < 4
def fitsInput (n : Nat) : Bool := n < 8
def fitsBinding (n : Nat) : Bool := n < 8
def fitsTarget (n : Nat) : Bool := n < 8

/-- A drive slot of a tile (Table 9-3), and its entries. -/
def fitsSlot (n : Nat) : Bool := n < 264
def fitsSlotCount (n : Nat) : Bool := 1 ≤ n && n ≤ 64
def fitsBurst (n : Nat) : Bool := 1 ≤ n && n ≤ 256

/-- A frame number (R249). -/
def fitsNum (n : Nat) : Bool := n < 4096
def fitsBar0 (n : Nat) : Bool := n < 2 ^ 24
def fitsBar2 (n : Nat) : Bool := n ≤ 2 ^ 25

/-- A BAR0 request that R293 turns away. -/
def fitsDwords (n : Nat) : Bool := 2 ≤ n && n ≤ 1024

/-! ## Operands with fields -/

def Source.fits : Source → Bool
  | .host q => fitsQueue q
  | .peer p => fitsPeer p
  | .sideband => true
  | .lossOfLight => true

/-- Loss of light issues no verb. -/
def Hdr.fits (h : Hdr) : Bool := h.src.fits && h.src != .lossOfLight && fits16 h.tag

def NetTime.fits (t : NetTime) : Bool := fits64 t.sec && t.ns < 2 ^ 30 && fits16 t.frac
def LaunchOpts.fits (o : LaunchOpts) : Bool := fits64 o.resultAddr
def PortRef.fits (p : PortRef) : Bool := fitsPort p.port
def Shares.fits (x : Shares) : Bool := fits8 x.hold && fits8 x.p0 && fits8 x.p1 && fits8 x.p2
def Report.fits (r : Report) : Bool := fits16 r.code && fits9 r.source && fits32 r.detail0 && fits32 r.detail1

def LinkEnd.fits : LinkEnd → Bool
  | .controller t => fitsTile t
  | .tile t => fitsTile t

def Channel.fits : Channel → Bool
  | .regionCentral n => fitsRegion n
  | .centralAon => true
  | .regionBlock n _ => fitsRegion n

def TrainBlock.fits (b : TrainBlock) : Bool :=
  b.phase ≤ 6 && b.speed ≤ 4 && b.reqPre ≤ 2 && b.reqMain ≤ 2 && b.reqPost ≤ 2 && fits3 b.atLimit && fits3 b.maxSpeed &&
    b.version < 128 && fits16 b.echoTag

def Announce.fits (a : Announce) : Bool :=
  fits8 a.domain && fits4 a.version && fits64 a.gmId && fitsS8 a.logSync && fitsS8 a.logAnnounce && fitsS16 a.utcOffset

def HelloFrame.fits (f : HelloFrame) : Bool :=
  fitsSitePort f.port && fits32 f.srcId && fits32 f.dstId && fits16 f.certLen && fits32 f.subjectId && fits16 f.ownerLen &&
    fits32 f.ownerId

def DvHead.fits (h : DvHead) : Bool :=
  fitsSitePort h.port && fits8 h.version && fits32 h.srcId && fits32 h.session && fits64 h.seq && fits16 h.length

/-! ## Commands -/

/-- The command is well formed. -/
def Instr.wf : Instr → Bool
  | .nop h => Hdr.fits h
  | .resumeRegion h _ target => Hdr.fits h && fits8 target
  | .selfTest h targets timeoutMs _ => Hdr.fits h && fits8 targets && fits16 timeoutMs
  | .getDigest h _ addr _ => Hdr.fits h && fits64 addr
  | .getCert h which addr length => Hdr.fits h && fits8 which && fits64 addr && fits32 length
  | .handover h _ drillMs => Hdr.fits h && fits16 drillMs
  | .dalovoSend h _ _ peer length addr t late =>
      Hdr.fits h && fitsPeer peer && fits16 length && fits64 addr && NetTime.fits t && fits32 late
  | .stage h _ handle clauses => Hdr.fits h && fitsHandle handle && 1 ≤ clauses.length && clauses.length ≤ 3
  | .stageList h _ _ handle count addr => Hdr.fits h && fitsHandle handle && fits16 count && fits64 addr
  | .commit h handle opts => Hdr.fits h && fitsHandle handle && LaunchOpts.fits opts
  | .schedule h handle opts t late =>
      Hdr.fits h && fitsHandle handle && LaunchOpts.fits opts && NetTime.fits t && fits32 late
  | .arm h handle opts _ pgroup ports =>
      Hdr.fits h && fitsHandle handle && LaunchOpts.fits opts && fits8 pgroup && ports.all PortRef.fits
  | .disarm h handle => Hdr.fits h && fitsHandle handle
  | .fire h handle => Hdr.fits h && fitsHandle handle
  | .cancel h handle => Hdr.fits h && fitsHandle handle
  | .freeSentence h handle => Hdr.fits h && fitsHandle handle
  | .paraDefine h _ para stepCount addr period repeats late =>
      Hdr.fits h && fitsPara para && fits16 stepCount && fits64 addr && fits48 period && fits16 repeats && fits32 late
  | .paraStart h _ para start => Hdr.fits h && fitsPara para && NetTime.fits start
  | .paraStop h _ para => Hdr.fits h && fitsPara para
  | .pin h _ first count lifetimeMs => Hdr.fits h && fitsEid first && fits16 count && fits32 lifetimeMs
  | .unpin h _ first count => Hdr.fits h && fitsEid first && fits16 count
  | .retireElement h eid => Hdr.fits h && fitsEid eid
  | .restoreElement h eid => Hdr.fits h && fitsEid eid
  | .classLoad h cls bank addr => Hdr.fits h && fitsClass cls && fits8 bank && fits64 addr
  | .classSwap h cls => Hdr.fits h && fitsClass cls
  | .elementTrim h _ eid trimOn trimOff => Hdr.fits h && fitsEid eid && fitsS16 trimOn && fitsS16 trimOff
  | .journalCopy h _ tile startMs count addr =>
      Hdr.fits h && fitsTile tile && fits64 startMs && fits32 count && fits64 addr
  | .sweepLoad h _ list count addr => Hdr.fits h && fitsList list && fits16 count && fits64 addr
  | .sweepRun h _ _ list target downCount timeoutMs resultAddr =>
      Hdr.fits h && fitsList list && fitsEid target && fits8 downCount && fits16 timeoutMs && fits64 resultAddr
  | .sweepStop h list => Hdr.fits h && fitsList list
  | .sweepFree h list => Hdr.fits h && fitsList list
  | .calRun h kind scope target timeoutMs =>
      Hdr.fits h && fits2 kind && fits8 scope && fitsEid target && fits16 timeoutMs
  | .saveCalibration h _ _ addr => Hdr.fits h && fits64 addr
  | .exportCalibration h _ addr length => Hdr.fits h && fits64 addr && fits32 length
  | .verbArrival src _ => Source.fits src
  | .sqTailWrite q value => fitsQueue q && fits16 value
  | .cqHeadWrite q value => fitsQueue q && fits16 value
  | .eqHeadWrite q value => fitsQueue q && fits16 value
  | .sqEntryFetch q entries => fitsQueue q && 1 ≤ entries.length && entries.length ≤ 8
  | .sqReadFail q => fitsQueue q
  | .cqEqWriteFail q _ => fitsQueue q
  | .queueEnable q => fitsQueue q
  | .queueDisable q => fitsQueue q
  | .queueDrained q => fitsQueue q
  | .queueConfigWrite q reg _ => fitsQueue q && fitsQueueReg reg
  | .completionPost src => Source.fits src
  | .eventPost => true
  | .msixInterruptTimer q _ => fitsQueue q
  | .fireDoorbell _ => true
  | .sbVerbWrite _ bytes _ => fits8 bytes
  | .sbCompletionRead => true
  | .sbEventRead => true
  | .sbWindowOffset value _ => fits16 value
  | .sbWindowAccess _ bytes data _ => fits8 bytes && data.length ≤ 8
  | .pcieFunctionReset => true
  | .pciePerst _ => true
  | .bar2Access _ addr count _ => fitsBar2 addr && fitsBar2 count
  | .bar0AccessError _ offset dwords => fitsBar0 offset && fitsDwords dwords
  | .registerWrite offset _ _ => fitsBar0 offset
  | .sentencePrepare => true
  | .prepLeadDue _ index => fitsHandle index
  | .staleReprepare handle => fitsHandle handle
  | .tokenIssue _ => true
  | .p0Dispatch => true
  | .latchReportReceive tile _ _ => fitsTile tile
  | .launchResultTimeout tile _ => fitsTile tile
  | .reversalLaunch _ => true
  | .scheduledLaunchDue handle => fitsHandle handle
  | .paragraphStepDue para => fitsPara para
  | .losEventReceive monitors => monitors.all fitsMonitor
  | .losClearReceive monitor => fitsMonitor monitor
  | .complianceEventReceive tile channel detail => fitsTile tile && fitsSmuChannel channel && fits8 detail
  | .scheduleMismatchReceive tile => fitsTile tile
  | .tileFaultReceive tile detail => fitsTile tile && fits8 detail
  | .tokenLostReceive tile => fitsTile tile
  | .commaBoundary => true
  | .regionEscalate region => fitsRegion region
  | .commaLinkShareWrite _ => true
  | .commaLoopShareWrite _ => true
  | .settlingDwellEnd eid => fitsEid eid
  | .feBlankEnd eid => fitsEid eid
  | .journalFrameWrite _ tile => fitsTile tile
  | .journalFrameExpire _ tile => fitsTile tile
  | .placementMove eid _ => fitsEid eid
  | .pinExpire eid _ => fitsEid eid
  | .contextRebuild eid => fitsEid eid
  | .elementReroute inPort => fitsPort inPort
  | .cellOperationError region _ cell eid => fitsRegion region && fits4 cell && eid.all fitsEid
  | .handshakeWatchdog channel => Channel.fits channel
  | .tileCommitReceive tile _ _ slot time => fitsTile tile && fitsSlot slot && fits16 time
  | .tileLatch tile _ => fitsTile tile
  | .driveShapeEnd tile elem => fitsTile tile && fitsElem elem
  | .tileDriveFrame tile _ _ codes => fitsTile tile && codes.length ≤ 252 && codes.all fits16
  | .slotOpen tile _ slot count => fitsTile tile && fitsSlot slot && fitsSlotCount count
  | .driveSlotFrame tile _ elem0 d0 elem1 d1 =>
      fitsTile tile && fitsElem elem0 && fits10 d0 && fitsElem elem1 && fits10 d1
  | .cmdAckReceive tile opcode _ slot => fitsTile tile && fits8 opcode && fitsSlot slot
  | .setClass tile _ elem cls _ => fitsTile tile && fitsElem elem && fitsClass cls
  | .setFast tile _ elem _ _ => fitsTile tile && fitsElem elem
  | .classDiv tile _ cls div _ => fitsTile tile && fitsClass cls && fits11 div
  | .shapeLoad tile _ cls _ point value => fitsTile tile && fitsClass cls && fits5 point && fitsS16 value
  | .setEpoch tile _ epoch => fitsTile tile && fits32 epoch
  | .setShare tile _ shares => fitsTile tile && Shares.fits shares
  | .tileAbort tile _ elem => fitsTile tile && fitsElem elem
  | .claim tile _ => fitsTile tile
  | .release tile _ => fitsTile tile
  | .bulkPull tile _ offset count => fitsTile tile && fits24 offset && fitsBurst count
  | .logInfoReceive tile length _ => fitsTile tile && fits24 length
  | .bulkReceive tile index _ _ => fitsTile tile && fits8 index
  | .pointWord tile _ word _ => fitsTile tile && fits2 word
  | .pointGo tile _ channel elem downCount =>
      fitsTile tile && fitsSmuChannel channel && fitsElem elem && fits8 downCount
  | .pointResultReceive tile channel word _ => fitsTile tile && fitsSmuChannel channel && fits2 word
  | .portSampleReceive tile channel range _ code _ => fitsTile tile && fits3 channel && fits3 range && fitsS16 code
  | .calPoint tile _ elem drive => fitsTile tile && fitsElem elem && fits16 drive
  | .calSenseReceive tile elem sense => fitsTile tile && fitsElem elem && fits16 sense
  | .smuBus tile _ channel _ => fitsTile tile && fitsSmuChannel channel
  | .readbackReq tile _ => fitsTile tile
  | .readbackReceive tile part codes => fitsTile tile && fits4 part && codes.length == 64 && codes.all fits16
  | .identReceive tile word _ => fitsTile tile && fits2 word
  | .tempReceive tile temp => fitsTile tile && fitsS12 temp
  | .senseFrameReceive tile _ samples => fitsTile tile && samples.length ≤ 252 && samples.all fits16
  | .tbeaconReceive tile _ time => fitsTile tile && fits41 time
  | .tbeaconLoss tile => fitsTile tile
  | .hbeatSend => true
  | .hbeatTileRelay tile _ _ => fitsTile tile
  | .relayedHbeatReceive tile _ => fitsTile tile
  | .ownerHbeatExpire tile => fitsTile tile
  | .linkFrameReceive at_ _ _ data => LinkEnd.fits at_ && data.length ≤ 512
  | .linkctlAckReceive at_ _ num => LinkEnd.fits at_ && fitsNum num
  | .linkctlNakReceive at_ _ num => LinkEnd.fits at_ && fitsNum num
  | .nakRepeatTimeout at_ _ => LinkEnd.fits at_
  | .ackIdleTimeout at_ _ => LinkEnd.fits at_
  | .ackMissingTimeout tile => fitsTile tile
  | .blockLockLoss tile => fitsTile tile
  | .trainBlockReceive tile block => fitsTile tile && TrainBlock.fits block
  | .trainStepTimeout tile => fitsTile tile
  | .adoptCorrectionEnd tile => fitsTile tile
  | .eidleEnter at_ => LinkEnd.fits at_
  | .eidleExit at_ => LinkEnd.fits at_
  | .linkRetrain tile => fitsTile tile
  | .linkInjectCrc tile => fitsTile tile
  | .sweepPointStart list => fitsRun list
  | .sweepPointEnd list _ _ _ => fitsRun list
  | .sweepTimeout list => fitsRun list
  | .sweepRunEnd list => fitsRun list
  | .ssCtrlGo => true
  | .ssResultRead => true
  | .portSelWrite _ => true
  | .portResultRead => true
  | .refCtrlWrite _ => true
  | .refConversionGo => true
  | .refConversionDone value _ => fitsS32 value
  | .refResultRead => true
  | .busCtrlRequest _ => true
  | .calBusTimeout => true
  | .losComparatorRaise monitor current => fitsMonitor monitor && fitsS32 current
  | .losComparatorClear monitor current => fitsMonitor monitor && fitsS32 current
  | .complianceClamp tile channel _ => fitsTile tile && fitsSmuChannel channel
  | .calMicroRun eid => fitsEid eid
  | .calFullRun eid => fitsEid eid
  | .calChannelRun tile _ => fitsTile tile
  | .calTimeout _ => true
  | .pathLossUpdate inPort => fitsPort inPort
  | .calDonePost _ => true
  | .faultReport reports => reports.all Report.fits
  | .safeStateTokenResolve _ => true
  | .collectorSelfFault => true
  | .faultClear _ => true
  | .faultFirstClear => true
  | .faultInjectCheck target unit _ _ => fitsTarget target && fits8 unit
  | .faultInjectReact target unit _ _ => fitsTarget target && fits8 unit
  | .centralEngineError _ source => fits9 source
  | .mgmtWatchdog => true
  | .timeMeasurement _ => true
  | .servoFeedWrite _ => true
  | .heldChangeApply => true
  | .heldChangeLimit => true
  | .syncTimeout => true
  | .holdoverExpire => true
  | .acceptJump => true
  | .timeSnap => true
  | .dtLoRead => true
  | .rateLoRead => true
  | .ptpAnnounceReceive port msg => fitsSitePort port && Announce.fits msg
  | .ptpSyncReceive port _ _ domain origin _ _ => fitsSitePort port && fits8 domain && NetTime.fits origin
  | .ptpDelayReqSend port _ => fitsSitePort port
  | .ptpDelayRespReceive port domain receive _ logInterval =>
      fitsSitePort port && fits8 domain && NetTime.fits receive && fitsS8 logInterval
  | .ptpAnnounceTimeout => true
  | .ppsOutEdge => true
  | .ppsOutFall => true
  | .ppsInEdge => true
  | .ppsInResultRead => true
  | .timedDalovoDue port => fitsSitePort port
  | .dalovoAnnounceSend port => fitsSitePort port
  | .dalovoAnnounceReceive port srcId _ => fitsSitePort port && fits32 srcId
  | .dalovoHello frame => HelloFrame.fits frame
  | .dalovoHelloReply frame => HelloFrame.fits frame
  | .dalovoFinish head _ => DvHead.fits head
  | .dalovoHandshakeTimeout peer => fitsPeer peer
  | .dalovoVerbFrame head _ => DvHead.fits head
  | .dalovoUserFrame head payload _ => DvHead.fits head && payload.length ≤ 992
  | .dvRxSlotFree _ => true
  | .dalovoClose peer reason => fitsPeer peer && fits8 reason
  | .dalovoIdleTimeout peer => fitsPeer peer
  | .safetyFrameReceive head _ => DvHead.fits head
  | .safetyFrameSend binding => fitsBinding binding
  | .bindingWatchdogExpire binding => fitsBinding binding
  | .ilkContactChange input _ _ => fitsInput input
  | .ilkDiscrepancy input => fitsInput input
  | .lenEvaluate => true
  | .fbkTimeout output _ => fitsOutput output
  | .stuckOnDetect output => fitsOutput output
  | .testPulseStart output => fitsOutput output
  | .testPulseCheck output _ => fitsOutput output
  | .safeKeyWrite _ => true
  | .safeCommitWrite _ => true
  | .safeKeyTimeout => true
  | .safeAckWrite _ => true
  | .lenForceOffWrite _ => true
  | .safetyBlockDeliver _ => true
  | .safetyRecordWrite _ => true
  | .lsuSelfCheck _ _ _ _ => true
  | .mateHeartbeatReceive _ mateId matePrio _ => fits32 mateId && fits3 matePrio
  | .mateWaitExpire => true
  | .mirrorReceive num _ => fits22 num
  | .mirrorAckReceive num => fits22 num
  | .mirrorAckTimeout => true
  | .syncReq => true
  | .snapshotApplied num => fits22 num
  | .digestFrameReceive _ => true
  | .digestMismatchExpire => true
  | .roleFrameReceive step _ => fits2 step
  | .takeoverTokenResolve _ => true
  | .splitRetry => true
  | .deferredLosFire handle => fitsHandle handle
  | .drillEnd cause tilesFailed => fits4 cause && fits9 tilesFailed
  | .dmaGo channel => fits4 channel
  | .dmaResume channel => fits4 channel
  | .dmaEnableClear channel => fits4 channel
  | .dmaGlobalDisable => true
  | .dmaErrorHalt channel _ cause k0 k1 k2 _ => fits4 channel && fits4 cause && fits24 k0 && fits16 k1 && fits16 k2
  | .dmaReadbackDone channel _ _ => fits4 channel
  | .bankOwnerWrite bank _ => fitsBank bank
  | .bankOwnerChanged bank => fitsBank bank
  | .bankPowerWrite bank _ => fitsBank bank
  | .bankPowerReached bank => fitsBank bank
  | .bankInit bank => fitsBank bank
  | .bankInitDone bank => fitsBank bank
  | .bankAccessCollide bank word _ _ => fitsBank bank && fits17 word
  | .ddrTrainingDone _ _ => true
  | .admMeterWrite reg _ => fitsMeterReg reg
  | .queueTelemetrySample => true
  | .p0LatencyClearMax => true
  | .mateGapClearMax => true
  | .admTelClearMax => true
  | .hkRound readings => readings.all fitsS12
  | .adcConversionDone code => fits12 code
  | .adcCtrlWrite _ => true
  | .adcUrgentGo _ => true
  | .adcUrgentResultRead => true
  | .dacCtrlWrite channel _ => fits2 channel
  | .dacClrNChange _ => true
  | .porNRelease => true
  | .porNAssert => true
  | .warmReset _ => true
  | .resetCtrlWrite _ => true
  | .resetHeldExpire => true
  | .mainStart => true
  | .calSetRead _ => true
  | .surfaceExpandDone tile => fitsTile tile
  | .restartResolve => true
  | .readyChange => true
  | .digestRecomputeDone => true
  | .mainSupplyFault monitor => fits8 monitor
  | .mainSupplyGood => true
  | .aonSupplyLow => true
  | .timePllLock => true
  | .timePllLossOfLock => true
  | .sitePortLinkChange port _ => fitsSitePort port
  | .verbHostDataDone h _ => Hdr.fits h
  | .flashImageReadDone _ => true
  | .calSaveFlashDone _ => true
  | .adcUrgentConversionDone code => fits12 code
  | .standbyIdentPoll => true
  | .selfTestTimeout h => Hdr.fits h
  | .dalovoFrameSent port => fitsSitePort port
  | .pciePowerStateChange _ => true

end Sys2Proof
end

