-- ==== Sys2Proof/Laws/PerInstr.lean ====
section
/-! SUPPORT. A fact about every command as syntax, one lemma per constructor: a well-formed verb has a header that fits and
an opcode of eight bits (Table 11-1). -/

set_option Elab.async false

namespace Sys2Proof.Laws.VerbHeader

open Sys2Proof

/-- If the command is a verb and is well formed, its header fits and its opcode is below 256. -/
def Statement (i : Instr) : Prop :=
  ∀ (h : Hdr) (op : Nat), Safety.verbOf i = some (h, op) → i.wf = true → h.fits = true ∧ op < 256

/-- A command that is no verb. -/
theorem of_none (i : Instr) (e : Safety.verbOf i = none) : Statement i := by
  intro h op e' _
  rw [e] at e'
  cases e'

/-- A verb whose header well-formedness checks. -/
theorem of_some (i : Instr) (h : Hdr) (op : Nat) (e : Safety.verbOf i = some (h, op)) (l : op < 256)
    (f : i.wf = true → h.fits = true) : Statement i := by
  intro h' op' e' w
  rw [e] at e'
  cases e'
  exact ⟨f w, l⟩

theorem nop (h : Hdr) : Statement (.nop h) :=
  of_some _ h 0x00 rfl (by decide) (fun w => w)
theorem resumeRegion (h : Hdr) (isTile : Bool) (target : Nat) : Statement (.resumeRegion h isTile target) :=
  of_some _ h 0x01 rfl (by decide) (fun w => by simp only [Instr.wf, Bool.and_eq_true] at w; simp only [w])
theorem selfTest (h : Hdr) (targets timeoutMs : Nat) (missed : List (Nat × Nat)) : Statement (.selfTest h targets timeoutMs missed) :=
  of_some _ h 0x02 rfl (by decide) (fun w => by simp only [Instr.wf, Bool.and_eq_true] at w; simp only [w])
theorem getDigest (h : Hdr) (wait : Bool) (addr : Nat) (nonce : BitVec 256) : Statement (.getDigest h wait addr nonce) :=
  of_some _ h 0x03 rfl (by decide) (fun w => by simp only [Instr.wf, Bool.and_eq_true] at w; simp only [w])
theorem getCert (h : Hdr) (which addr length : Nat) : Statement (.getCert h which addr length) :=
  of_some _ h 0x04 rfl (by decide) (fun w => by simp only [Instr.wf, Bool.and_eq_true] at w; simp only [w])
theorem handover (h : Hdr) (ret : Bool) (drillMs : Nat) : Statement (.handover h ret drillMs) :=
  of_some _ h 0x05 rfl (by decide) (fun w => by simp only [Instr.wf, Bool.and_eq_true] at w; simp only [w])
theorem dalovoSend (h : Hdr) (timed ns : Bool) (peer length addr : Nat) (t : NetTime) (late : Nat) : Statement (.dalovoSend h timed ns peer length addr t late) :=
  of_some _ h 0x06 rfl (by decide) (fun w => by simp only [Instr.wf, Bool.and_eq_true] at w; simp only [w])
theorem stage (h : Hdr) (openFlag : Bool) (handle : Nat) (clauses : List Rec128) : Statement (.stage h openFlag handle clauses) :=
  of_some _ h 0x10 rfl (by decide) (fun w => by simp only [Instr.wf, Bool.and_eq_true] at w; simp only [w])
theorem stageList (h : Hdr) (openFlag ns : Bool) (handle count addr : Nat) : Statement (.stageList h openFlag ns handle count addr) :=
  of_some _ h 0x11 rfl (by decide) (fun w => by simp only [Instr.wf, Bool.and_eq_true] at w; simp only [w])
theorem commit (h : Hdr) (handle : Nat) (opts : LaunchOpts) : Statement (.commit h handle opts) :=
  of_some _ h 0x12 rfl (by decide) (fun w => by simp only [Instr.wf, Bool.and_eq_true] at w; simp only [w])
theorem schedule (h : Hdr) (handle : Nat) (opts : LaunchOpts) (t : NetTime) (late : Nat) : Statement (.schedule h handle opts t late) :=
  of_some _ h 0x13 rfl (by decide) (fun w => by simp only [Instr.wf, Bool.and_eq_true] at w; simp only [w])
theorem arm (h : Hdr) (handle : Nat) (opts : LaunchOpts) (rearm : Bool) (pgroup : Nat) (ports : List PortRef) : Statement (.arm h handle opts rearm pgroup ports) :=
  of_some _ h 0x14 rfl (by decide) (fun w => by simp only [Instr.wf, Bool.and_eq_true] at w; simp only [w])
theorem disarm (h : Hdr) (handle : Nat) : Statement (.disarm h handle) :=
  of_some _ h 0x15 rfl (by decide) (fun w => by simp only [Instr.wf, Bool.and_eq_true] at w; simp only [w])
theorem fire (h : Hdr) (handle : Nat) : Statement (.fire h handle) :=
  of_some _ h 0x16 rfl (by decide) (fun w => by simp only [Instr.wf, Bool.and_eq_true] at w; simp only [w])
theorem cancel (h : Hdr) (handle : Nat) : Statement (.cancel h handle) :=
  of_some _ h 0x17 rfl (by decide) (fun w => by simp only [Instr.wf, Bool.and_eq_true] at w; simp only [w])
theorem freeSentence (h : Hdr) (handle : Nat) : Statement (.freeSentence h handle) :=
  of_some _ h 0x18 rfl (by decide) (fun w => by simp only [Instr.wf, Bool.and_eq_true] at w; simp only [w])
theorem paraDefine (h : Hdr) (halt : Bool) (para stepCount addr period repeats late : Nat) : Statement (.paraDefine h halt para stepCount addr period repeats late) :=
  of_some _ h 0x19 rfl (by decide) (fun w => by simp only [Instr.wf, Bool.and_eq_true] at w; simp only [w])
theorem paraStart (h : Hdr) (reportAll : Bool) (para : Nat) (start : NetTime) : Statement (.paraStart h reportAll para start) :=
  of_some _ h 0x1A rfl (by decide) (fun w => by simp only [Instr.wf, Bool.and_eq_true] at w; simp only [w])
theorem paraStop (h : Hdr) (now : Bool) (para : Nat) : Statement (.paraStop h now para) :=
  of_some _ h 0x1B rfl (by decide) (fun w => by simp only [Instr.wf, Bool.and_eq_true] at w; simp only [w])
theorem pin (h : Hdr) (scope : Bool) (first count lifetimeMs : Nat) : Statement (.pin h scope first count lifetimeMs) :=
  of_some _ h 0x20 rfl (by decide) (fun w => by simp only [Instr.wf, Bool.and_eq_true] at w; simp only [w])
theorem unpin (h : Hdr) (scope : Bool) (first count : Nat) : Statement (.unpin h scope first count) :=
  of_some _ h 0x21 rfl (by decide) (fun w => by simp only [Instr.wf, Bool.and_eq_true] at w; simp only [w])
theorem retireElement (h : Hdr) (eid : Nat) : Statement (.retireElement h eid) :=
  of_some _ h 0x22 rfl (by decide) (fun w => by simp only [Instr.wf, Bool.and_eq_true] at w; simp only [w])
theorem restoreElement (h : Hdr) (eid : Nat) : Statement (.restoreElement h eid) :=
  of_some _ h 0x23 rfl (by decide) (fun w => by simp only [Instr.wf, Bool.and_eq_true] at w; simp only [w])
theorem classLoad (h : Hdr) (cls bank addr : Nat) : Statement (.classLoad h cls bank addr) :=
  of_some _ h 0x28 rfl (by decide) (fun w => by simp only [Instr.wf, Bool.and_eq_true] at w; simp only [w])
theorem classSwap (h : Hdr) (cls : Nat) : Statement (.classSwap h cls) :=
  of_some _ h 0x29 rfl (by decide) (fun w => by simp only [Instr.wf, Bool.and_eq_true] at w; simp only [w])
theorem elementTrim (h : Hdr) (resetOuter : Bool) (eid : Nat) (trimOn trimOff : Int) : Statement (.elementTrim h resetOuter eid trimOn trimOff) :=
  of_some _ h 0x2A rfl (by decide) (fun w => by simp only [Instr.wf, Bool.and_eq_true] at w; simp only [w])
theorem journalCopy (h : Hdr) (release : Bool) (tile startMs count addr : Nat) : Statement (.journalCopy h release tile startMs count addr) :=
  of_some _ h 0x2B rfl (by decide) (fun w => by simp only [Instr.wf, Bool.and_eq_true] at w; simp only [w])
theorem sweepLoad (h : Hdr) (ns : Bool) (list count addr : Nat) : Statement (.sweepLoad h ns list count addr) :=
  of_some _ h 0x30 rfl (by decide) (fun w => by simp only [Instr.wf, Bool.and_eq_true] at w; simp only [w])
theorem sweepRun (h : Hdr) (compEnd actuator : Bool) (list target downCount timeoutMs resultAddr : Nat) : Statement (.sweepRun h compEnd actuator list target downCount timeoutMs resultAddr) :=
  of_some _ h 0x31 rfl (by decide) (fun w => by simp only [Instr.wf, Bool.and_eq_true] at w; simp only [w])
theorem sweepStop (h : Hdr) (list : Nat) : Statement (.sweepStop h list) :=
  of_some _ h 0x32 rfl (by decide) (fun w => by simp only [Instr.wf, Bool.and_eq_true] at w; simp only [w])
theorem sweepFree (h : Hdr) (list : Nat) : Statement (.sweepFree h list) :=
  of_some _ h 0x33 rfl (by decide) (fun w => by simp only [Instr.wf, Bool.and_eq_true] at w; simp only [w])
theorem calRun (h : Hdr) (kind scope target timeoutMs : Nat) : Statement (.calRun h kind scope target timeoutMs) :=
  of_some _ h 0x38 rfl (by decide) (fun w => by simp only [Instr.wf, Bool.and_eq_true] at w; simp only [w])
theorem saveCalibration (h : Hdr) (fromHost ns : Bool) (addr : Nat) : Statement (.saveCalibration h fromHost ns addr) :=
  of_some _ h 0x39 rfl (by decide) (fun w => by simp only [Instr.wf, Bool.and_eq_true] at w; simp only [w])
theorem exportCalibration (h : Hdr) (inService : Bool) (addr length : Nat) : Statement (.exportCalibration h inService addr length) :=
  of_some _ h 0x3A rfl (by decide) (fun w => by simp only [Instr.wf, Bool.and_eq_true] at w; simp only [w])
theorem verbArrival (src : Source) (entry : Entry) : Statement (.verbArrival src entry) := of_none _ rfl
theorem sqTailWrite (q value : Nat) : Statement (.sqTailWrite q value) := of_none _ rfl
theorem cqHeadWrite (q value : Nat) : Statement (.cqHeadWrite q value) := of_none _ rfl
theorem eqHeadWrite (q value : Nat) : Statement (.eqHeadWrite q value) := of_none _ rfl
theorem sqEntryFetch (q : Nat) (entries : List Entry) : Statement (.sqEntryFetch q entries) := of_none _ rfl
theorem sqReadFail (q : Nat) : Statement (.sqReadFail q) := of_none _ rfl
theorem cqEqWriteFail (q : Nat) (event : Bool) : Statement (.cqEqWriteFail q event) := of_none _ rfl
theorem queueEnable (q : Nat) : Statement (.queueEnable q) := of_none _ rfl
theorem queueDisable (q : Nat) : Statement (.queueDisable q) := of_none _ rfl
theorem queueDrained (q : Nat) : Statement (.queueDrained q) := of_none _ rfl
theorem queueConfigWrite (q reg : Nat) (value : Word32) : Statement (.queueConfigWrite q reg value) := of_none _ rfl
theorem completionPost (src : Source) : Statement (.completionPost src) := of_none _ rfl
theorem eventPost : Statement .eventPost := of_none _ rfl
theorem msixInterruptTimer (q : Nat) (event : Bool) : Statement (.msixInterruptTimer q event) := of_none _ rfl
theorem fireDoorbell (value : Word32) : Statement (.fireDoorbell value) := of_none _ rfl
theorem sbVerbWrite (entry : Entry) (bytes : Nat) (pecOk : Bool) : Statement (.sbVerbWrite entry bytes pecOk) := of_none _ rfl
theorem sbCompletionRead : Statement .sbCompletionRead := of_none _ rfl
theorem sbEventRead : Statement .sbEventRead := of_none _ rfl
theorem sbWindowOffset (value : Nat) (pecOk : Bool) : Statement (.sbWindowOffset value pecOk) := of_none _ rfl
theorem sbWindowAccess (write : Bool) (bytes : Nat) (data : List Word32) (pecOk : Bool) : Statement (.sbWindowAccess write bytes data pecOk) := of_none _ rfl
theorem pcieFunctionReset : Statement .pcieFunctionReset := of_none _ rfl
theorem pciePerst (low : Bool) : Statement (.pciePerst low) := of_none _ rfl
theorem bar2Access (write : Bool) (addr : Nat) (count : Nat) (data : List (Option Byte)) : Statement (.bar2Access write addr count data) := of_none _ rfl
theorem bar0AccessError (write : Bool) (offset dwords : Nat) : Statement (.bar0AccessError write offset dwords) := of_none _ rfl
theorem registerWrite (offset : Nat) (value : Word32) (allBytes : Bool) : Statement (.registerWrite offset value allBytes) := of_none _ rfl
theorem sentencePrepare : Statement .sentencePrepare := of_none _ rfl
theorem prepLeadDue (para : Bool) (index : Nat) : Statement (.prepLeadDue para index) := of_none _ rfl
theorem staleReprepare (handle : Nat) : Statement (.staleReprepare handle) := of_none _ rfl
theorem tokenIssue (launch : Nat) : Statement (.tokenIssue launch) := of_none _ rfl
theorem p0Dispatch : Statement .p0Dispatch := of_none _ rfl
theorem latchReportReceive (tile : Nat) (serial : Serial) (latched : Bool) : Statement (.latchReportReceive tile serial latched) := of_none _ rfl
theorem launchResultTimeout (tile : Nat) (serial : Serial) : Statement (.launchResultTimeout tile serial) := of_none _ rfl
theorem reversalLaunch (serial : Serial) : Statement (.reversalLaunch serial) := of_none _ rfl
theorem scheduledLaunchDue (handle : Nat) : Statement (.scheduledLaunchDue handle) := of_none _ rfl
theorem paragraphStepDue (para : Nat) : Statement (.paragraphStepDue para) := of_none _ rfl
theorem losEventReceive (monitors : List Nat) : Statement (.losEventReceive monitors) := of_none _ rfl
theorem losClearReceive (monitor : Nat) : Statement (.losClearReceive monitor) := of_none _ rfl
theorem complianceEventReceive (tile channel detail : Nat) : Statement (.complianceEventReceive tile channel detail) := of_none _ rfl
theorem scheduleMismatchReceive (tile : Nat) : Statement (.scheduleMismatchReceive tile) := of_none _ rfl
theorem tileFaultReceive (tile detail : Nat) : Statement (.tileFaultReceive tile detail) := of_none _ rfl
theorem tokenLostReceive (tile : Nat) : Statement (.tokenLostReceive tile) := of_none _ rfl
theorem commaBoundary : Statement .commaBoundary := of_none _ rfl
theorem regionEscalate (region : Nat) : Statement (.regionEscalate region) := of_none _ rfl
theorem commaLinkShareWrite (value : Word32) : Statement (.commaLinkShareWrite value) := of_none _ rfl
theorem commaLoopShareWrite (value : Word32) : Statement (.commaLoopShareWrite value) := of_none _ rfl
theorem settlingDwellEnd (eid : Nat) : Statement (.settlingDwellEnd eid) := of_none _ rfl
theorem feBlankEnd (eid : Nat) : Statement (.feBlankEnd eid) := of_none _ rfl
theorem journalFrameWrite (ms tile : Nat) : Statement (.journalFrameWrite ms tile) := of_none _ rfl
theorem journalFrameExpire (ms tile : Nat) : Statement (.journalFrameExpire ms tile) := of_none _ rfl
theorem placementMove (eid : Nat) (writtenDuringCopy : Bool) : Statement (.placementMove eid writtenDuringCopy) := of_none _ rfl
theorem pinExpire (eid : Nat) (host : Bool) : Statement (.pinExpire eid host) := of_none _ rfl
theorem contextRebuild (eid : Nat) : Statement (.contextRebuild eid) := of_none _ rfl
theorem elementReroute (inPort : Nat) : Statement (.elementReroute inPort) := of_none _ rfl
theorem cellOperationError (region : Nat) (block : Block) (cell : Nat) (eid : Option Nat) : Statement (.cellOperationError region block cell eid) := of_none _ rfl
theorem handshakeWatchdog (channel : Channel) : Statement (.handshakeWatchdog channel) := of_none _ rfl
theorem tileCommitReceive (tile : Nat) (portB : Bool) (serial : Serial) (slot time : Nat) : Statement (.tileCommitReceive tile portB serial slot time) := of_none _ rfl
theorem tileLatch (tile : Nat) (serial : Serial) : Statement (.tileLatch tile serial) := of_none _ rfl
theorem driveShapeEnd (tile elem : Nat) : Statement (.driveShapeEnd tile elem) := of_none _ rfl
theorem tileDriveFrame (tile : Nat) (portB : Bool) (comma : Nat) (codes : List Nat) : Statement (.tileDriveFrame tile portB comma codes) := of_none _ rfl
theorem slotOpen (tile : Nat) (portB : Bool) (slot count : Nat) : Statement (.slotOpen tile portB slot count) := of_none _ rfl
theorem driveSlotFrame (tile : Nat) (portB : Bool) (elem0 d0 elem1 d1 : Nat) : Statement (.driveSlotFrame tile portB elem0 d0 elem1 d1) := of_none _ rfl
theorem cmdAckReceive (tile opcode : Nat) (ok : Bool) (slot : Nat) : Statement (.cmdAckReceive tile opcode ok slot) := of_none _ rfl
theorem setClass (tile : Nat) (portB : Bool) (elem cls : Nat) (all : Bool) : Statement (.setClass tile portB elem cls all) := of_none _ rfl
theorem setFast (tile : Nat) (portB : Bool) (elem : Nat) (fast : Bool) (comma : Nat) : Statement (.setFast tile portB elem fast comma) := of_none _ rfl
theorem classDiv (tile : Nat) (portB : Bool) (cls div comma : Nat) : Statement (.classDiv tile portB cls div comma) := of_none _ rfl
theorem shapeLoad (tile : Nat) (portB : Bool) (cls : Nat) (off : Bool) (point : Nat) (value : Int) : Statement (.shapeLoad tile portB cls off point value) := of_none _ rfl
theorem setEpoch (tile : Nat) (portB : Bool) (epoch : Nat) : Statement (.setEpoch tile portB epoch) := of_none _ rfl
theorem setShare (tile : Nat) (portB : Bool) (shares : Shares) : Statement (.setShare tile portB shares) := of_none _ rfl
theorem tileAbort (tile : Nat) (portB : Bool) (elem : Nat) : Statement (.tileAbort tile portB elem) := of_none _ rfl
theorem claim (tile : Nat) (portB : Bool) : Statement (.claim tile portB) := of_none _ rfl
theorem release (tile : Nat) (portB : Bool) : Statement (.release tile portB) := of_none _ rfl
theorem bulkPull (tile : Nat) (portB : Bool) (offset count : Nat) : Statement (.bulkPull tile portB offset count) := of_none _ rfl
theorem logInfoReceive (tile length : Nat) (withdrawn : Bool) : Statement (.logInfoReceive tile length withdrawn) := of_none _ rfl
theorem bulkReceive (tile index : Nat) (data : Word32) (withdrawn : Bool) : Statement (.bulkReceive tile index data withdrawn) := of_none _ rfl
theorem pointWord (tile : Nat) (portB : Bool) (word : Nat) (value : Word32) : Statement (.pointWord tile portB word value) := of_none _ rfl
theorem pointGo (tile : Nat) (portB : Bool) (channel elem downCount : Nat) : Statement (.pointGo tile portB channel elem downCount) := of_none _ rfl
theorem pointResultReceive (tile channel word : Nat) (value : Word32) : Statement (.pointResultReceive tile channel word value) := of_none _ rfl
theorem portSampleReceive (tile channel range : Nat) (flag : Bool) (code : Int) (los : Bool) : Statement (.portSampleReceive tile channel range flag code los) := of_none _ rfl
theorem calPoint (tile : Nat) (portB : Bool) (elem drive : Nat) : Statement (.calPoint tile portB elem drive) := of_none _ rfl
theorem calSenseReceive (tile elem sense : Nat) : Statement (.calSenseReceive tile elem sense) := of_none _ rfl
theorem smuBus (tile : Nat) (portB : Bool) (channel : Nat) (connect : Bool) : Statement (.smuBus tile portB channel connect) := of_none _ rfl
theorem readbackReq (tile : Nat) (portB : Bool) : Statement (.readbackReq tile portB) := of_none _ rfl
theorem readbackReceive (tile part : Nat) (codes : List Nat) : Statement (.readbackReceive tile part codes) := of_none _ rfl
theorem identReceive (tile word : Nat) (value : Word32) : Statement (.identReceive tile word value) := of_none _ rfl
theorem tempReceive (tile : Nat) (temp : Int) : Statement (.tempReceive tile temp) := of_none _ rfl
theorem senseFrameReceive (tile comma : Nat) (samples : List Nat) : Statement (.senseFrameReceive tile comma samples) := of_none _ rfl
theorem tbeaconReceive (tile : Nat) (portB : Bool) (time : Nat) : Statement (.tbeaconReceive tile portB time) := of_none _ rfl
theorem tbeaconLoss (tile : Nat) : Statement (.tbeaconLoss tile) := of_none _ rfl
theorem hbeatSend : Statement .hbeatSend := of_none _ rfl
theorem hbeatTileRelay (tile : Nat) (portB : Bool) (word : Word32) : Statement (.hbeatTileRelay tile portB word) := of_none _ rfl
theorem relayedHbeatReceive (tile : Nat) (word : Word32) : Statement (.relayedHbeatReceive tile word) := of_none _ rfl
theorem ownerHbeatExpire (tile : Nat) : Statement (.ownerHbeatExpire tile) := of_none _ rfl
theorem linkFrameReceive (at_ : LinkEnd) (multi : Bool) (control : BitVec 64) (data : List (BitVec 64)) : Statement (.linkFrameReceive at_ multi control data) := of_none _ rfl
theorem linkctlAckReceive (at_ : LinkEnd) (multi : Bool) (num : Nat) : Statement (.linkctlAckReceive at_ multi num) := of_none _ rfl
theorem linkctlNakReceive (at_ : LinkEnd) (multi : Bool) (num : Nat) : Statement (.linkctlNakReceive at_ multi num) := of_none _ rfl
theorem nakRepeatTimeout (at_ : LinkEnd) (multi : Bool) : Statement (.nakRepeatTimeout at_ multi) := of_none _ rfl
theorem ackIdleTimeout (at_ : LinkEnd) (multi : Bool) : Statement (.ackIdleTimeout at_ multi) := of_none _ rfl
theorem ackMissingTimeout (tile : Nat) : Statement (.ackMissingTimeout tile) := of_none _ rfl
theorem blockLockLoss (tile : Nat) : Statement (.blockLockLoss tile) := of_none _ rfl
theorem trainBlockReceive (tile : Nat) (block : TrainBlock) : Statement (.trainBlockReceive tile block) := of_none _ rfl
theorem trainStepTimeout (tile : Nat) : Statement (.trainStepTimeout tile) := of_none _ rfl
theorem adoptCorrectionEnd (tile : Nat) : Statement (.adoptCorrectionEnd tile) := of_none _ rfl
theorem eidleEnter (at_ : LinkEnd) : Statement (.eidleEnter at_) := of_none _ rfl
theorem eidleExit (at_ : LinkEnd) : Statement (.eidleExit at_) := of_none _ rfl
theorem linkRetrain (tile : Nat) : Statement (.linkRetrain tile) := of_none _ rfl
theorem linkInjectCrc (tile : Nat) : Statement (.linkInjectCrc tile) := of_none _ rfl
theorem sweepPointStart (list : Nat) : Statement (.sweepPointStart list) := of_none _ rfl
theorem sweepPointEnd (list : Nat) (readings : List Reading) (forceRb : Int) (writeOk : Bool) : Statement (.sweepPointEnd list readings forceRb writeOk) := of_none _ rfl
theorem sweepTimeout (list : Nat) : Statement (.sweepTimeout list) := of_none _ rfl
theorem sweepRunEnd (list : Nat) : Statement (.sweepRunEnd list) := of_none _ rfl
theorem ssCtrlGo : Statement .ssCtrlGo := of_none _ rfl
theorem ssResultRead : Statement .ssResultRead := of_none _ rfl
theorem portSelWrite (value : Word32) : Statement (.portSelWrite value) := of_none _ rfl
theorem portResultRead : Statement .portResultRead := of_none _ rfl
theorem refCtrlWrite (value : Word32) : Statement (.refCtrlWrite value) := of_none _ rfl
theorem refConversionGo : Statement .refConversionGo := of_none _ rfl
theorem refConversionDone (value : Int) (isOver : Bool) : Statement (.refConversionDone value isOver) := of_none _ rfl
theorem refResultRead : Statement .refResultRead := of_none _ rfl
theorem busCtrlRequest (value : Word32) : Statement (.busCtrlRequest value) := of_none _ rfl
theorem calBusTimeout : Statement .calBusTimeout := of_none _ rfl
theorem losComparatorRaise (monitor : Nat) (current : Int) : Statement (.losComparatorRaise monitor current) := of_none _ rfl
theorem losComparatorClear (monitor : Nat) (current : Int) : Statement (.losComparatorClear monitor current) := of_none _ rfl
theorem complianceClamp (tile channel : Nat) (sampling : Bool) : Statement (.complianceClamp tile channel sampling) := of_none _ rfl
theorem calMicroRun (eid : Nat) : Statement (.calMicroRun eid) := of_none _ rfl
theorem calFullRun (eid : Nat) : Statement (.calFullRun eid) := of_none _ rfl
theorem calChannelRun (tile : Nat) (fits : List (Nat × Int × Int)) : Statement (.calChannelRun tile fits) := of_none _ rfl
theorem calTimeout (batch : Nat) : Statement (.calTimeout batch) := of_none _ rfl
theorem pathLossUpdate (inPort : Nat) : Statement (.pathLossUpdate inPort) := of_none _ rfl
theorem calDonePost (batch : Nat) : Statement (.calDonePost batch) := of_none _ rfl
theorem faultReport (reports : List Report) : Statement (.faultReport reports) := of_none _ rfl
theorem safeStateTokenResolve (serial : Serial) : Statement (.safeStateTokenResolve serial) := of_none _ rfl
theorem collectorSelfFault : Statement .collectorSelfFault := of_none _ rfl
theorem faultClear (value : Word32) : Statement (.faultClear value) := of_none _ rfl
theorem faultFirstClear : Statement .faultFirstClear := of_none _ rfl
theorem faultInjectCheck (target unit : Nat) (double viaSideband : Bool) : Statement (.faultInjectCheck target unit double viaSideband) := of_none _ rfl
theorem faultInjectReact (target unit : Nat) (double viaSideband : Bool) : Statement (.faultInjectReact target unit double viaSideband) := of_none _ rfl
theorem centralEngineError (ddr : Bool) (source : Nat) : Statement (.centralEngineError ddr source) := of_none _ rfl
theorem mgmtWatchdog : Statement .mgmtWatchdog := of_none _ rfl
theorem timeMeasurement (theta : Int) : Statement (.timeMeasurement theta) := of_none _ rfl
theorem servoFeedWrite (value : Word32) : Statement (.servoFeedWrite value) := of_none _ rfl
theorem heldChangeApply : Statement .heldChangeApply := of_none _ rfl
theorem heldChangeLimit : Statement .heldChangeLimit := of_none _ rfl
theorem syncTimeout : Statement .syncTimeout := of_none _ rfl
theorem holdoverExpire : Statement .holdoverExpire := of_none _ rfl
theorem acceptJump : Statement .acceptJump := of_none _ rfl
theorem timeSnap : Statement .timeSnap := of_none _ rfl
theorem dtLoRead : Statement .dtLoRead := of_none _ rfl
theorem rateLoRead : Statement .rateLoRead := of_none _ rfl
theorem ptpAnnounceReceive (port : Nat) (msg : Announce) : Statement (.ptpAnnounceReceive port msg) := of_none _ rfl
theorem ptpSyncReceive (port : Nat) (followUp twoStep : Bool) (domain : Nat) (origin : NetTime) (correction : Int) (ingressTick : Nat) : Statement (.ptpSyncReceive port followUp twoStep domain origin correction ingressTick) := of_none _ rfl
theorem ptpDelayReqSend (port egressTick : Nat) : Statement (.ptpDelayReqSend port egressTick) := of_none _ rfl
theorem ptpDelayRespReceive (port domain : Nat) (receive : NetTime) (correction : Int) (logInterval : Int) : Statement (.ptpDelayRespReceive port domain receive correction logInterval) := of_none _ rfl
theorem ptpAnnounceTimeout : Statement .ptpAnnounceTimeout := of_none _ rfl
theorem ppsOutEdge : Statement .ppsOutEdge := of_none _ rfl
theorem ppsOutFall : Statement .ppsOutFall := of_none _ rfl
theorem ppsInEdge : Statement .ppsInEdge := of_none _ rfl
theorem ppsInResultRead : Statement .ppsInResultRead := of_none _ rfl
theorem timedDalovoDue (port : Nat) : Statement (.timedDalovoDue port) := of_none _ rfl
theorem dalovoAnnounceSend (port : Nat) : Statement (.dalovoAnnounceSend port) := of_none _ rfl
theorem dalovoAnnounceReceive (port srcId : Nat) (ownerHeld : Bool) : Statement (.dalovoAnnounceReceive port srcId ownerHeld) := of_none _ rfl
theorem dalovoHello (frame : HelloFrame) : Statement (.dalovoHello frame) := of_none _ rfl
theorem dalovoHelloReply (frame : HelloFrame) : Statement (.dalovoHelloReply frame) := of_none _ rfl
theorem dalovoFinish (head : DvHead) (transcriptOk : Bool) : Statement (.dalovoFinish head transcriptOk) := of_none _ rfl
theorem dalovoHandshakeTimeout (peer : Nat) : Statement (.dalovoHandshakeTimeout peer) := of_none _ rfl
theorem dalovoVerbFrame (head : DvHead) (entry : Entry) : Statement (.dalovoVerbFrame head entry) := of_none _ rfl
theorem dalovoUserFrame (head : DvHead) (payload : List Byte) (ingressTick : Nat) : Statement (.dalovoUserFrame head payload ingressTick) := of_none _ rfl
theorem dvRxSlotFree (value : Word32) : Statement (.dvRxSlotFree value) := of_none _ rfl
theorem dalovoClose (peer reason : Nat) : Statement (.dalovoClose peer reason) := of_none _ rfl
theorem dalovoIdleTimeout (peer : Nat) : Statement (.dalovoIdleTimeout peer) := of_none _ rfl
theorem safetyFrameReceive (head : DvHead) (body : BitVec 160) : Statement (.safetyFrameReceive head body) := of_none _ rfl
theorem safetyFrameSend (binding : Nat) : Statement (.safetyFrameSend binding) := of_none _ rfl
theorem bindingWatchdogExpire (binding : Nat) : Statement (.bindingWatchdogExpire binding) := of_none _ rfl
theorem ilkContactChange (input : Nat) (contactB closed : Bool) : Statement (.ilkContactChange input contactB closed) := of_none _ rfl
theorem ilkDiscrepancy (input : Nat) : Statement (.ilkDiscrepancy input) := of_none _ rfl
theorem lenEvaluate : Statement .lenEvaluate := of_none _ rfl
theorem fbkTimeout (output : Nat) (fbkOpen : Bool) : Statement (.fbkTimeout output fbkOpen) := of_none _ rfl
theorem stuckOnDetect (output : Nat) : Statement (.stuckOnDetect output) := of_none _ rfl
theorem testPulseStart (output : Nat) : Statement (.testPulseStart output) := of_none _ rfl
theorem testPulseCheck (output : Nat) (readbackOn : Bool) : Statement (.testPulseCheck output readbackOn) := of_none _ rfl
theorem safeKeyWrite (value : Word32) : Statement (.safeKeyWrite value) := of_none _ rfl
theorem safeCommitWrite (value : Word32) : Statement (.safeCommitWrite value) := of_none _ rfl
theorem safeKeyTimeout : Statement .safeKeyTimeout := of_none _ rfl
theorem safeAckWrite (value : Word32) : Statement (.safeAckWrite value) := of_none _ rfl
theorem lenForceOffWrite (value : Word32) : Statement (.lenForceOffWrite value) := of_none _ rfl
theorem safetyBlockDeliver (block : SafetyBlock) : Statement (.safetyBlockDeliver block) := of_none _ rfl
theorem safetyRecordWrite (ok : Bool) : Statement (.safetyRecordWrite ok) := of_none _ rfl
theorem lsuSelfCheck (crcOk parityOk clockOk supplyOk : Bool) : Statement (.lsuSelfCheck crcOk parityOk clockOk supplyOk) := of_none _ rfl
theorem mateHeartbeatReceive (word : Word32) (mateId matePrio : Nat) (mateHash : BitVec 256) : Statement (.mateHeartbeatReceive word mateId matePrio mateHash) := of_none _ rfl
theorem mateWaitExpire : Statement .mateWaitExpire := of_none _ rfl
theorem mirrorReceive (num : Nat) (rec : MirrorRec) : Statement (.mirrorReceive num rec) := of_none _ rfl
theorem mirrorAckReceive (num : Nat) : Statement (.mirrorAckReceive num) := of_none _ rfl
theorem mirrorAckTimeout : Statement .mirrorAckTimeout := of_none _ rfl
theorem syncReq : Statement .syncReq := of_none _ rfl
theorem snapshotApplied (num : Nat) : Statement (.snapshotApplied num) := of_none _ rfl
theorem digestFrameReceive (digest : BitVec 256) : Statement (.digestFrameReceive digest) := of_none _ rfl
theorem digestMismatchExpire : Statement .digestMismatchExpire := of_none _ rfl
theorem roleFrameReceive (step : Nat) (ret : Bool) : Statement (.roleFrameReceive step ret) := of_none _ rfl
theorem takeoverTokenResolve (serial : Serial) : Statement (.takeoverTokenResolve serial) := of_none _ rfl
theorem splitRetry : Statement .splitRetry := of_none _ rfl
theorem deferredLosFire (handle : Nat) : Statement (.deferredLosFire handle) := of_none _ rfl
theorem drillEnd (cause tilesFailed : Nat) : Statement (.drillEnd cause tilesFailed) := of_none _ rfl
theorem dmaGo (channel : Nat) : Statement (.dmaGo channel) := of_none _ rfl
theorem dmaResume (channel : Nat) : Statement (.dmaResume channel) := of_none _ rfl
theorem dmaEnableClear (channel : Nat) : Statement (.dmaEnableClear channel) := of_none _ rfl
theorem dmaGlobalDisable : Statement .dmaGlobalDisable := of_none _ rfl
theorem dmaErrorHalt (channel : Nat) (write : Bool) (cause : Nat) (k0 k1 k2 : Nat) (data : List Byte) : Statement (.dmaErrorHalt channel write cause k0 k1 k2 data) := of_none _ rfl
theorem dmaReadbackDone (channel : Nat) (ok : Bool) (data : List Byte) : Statement (.dmaReadbackDone channel ok data) := of_none _ rfl
theorem bankOwnerWrite (bank : Nat) (value : Word32) : Statement (.bankOwnerWrite bank value) := of_none _ rfl
theorem bankOwnerChanged (bank : Nat) : Statement (.bankOwnerChanged bank) := of_none _ rfl
theorem bankPowerWrite (bank : Nat) (value : Word32) : Statement (.bankPowerWrite bank value) := of_none _ rfl
theorem bankPowerReached (bank : Nat) : Statement (.bankPowerReached bank) := of_none _ rfl
theorem bankInit (bank : Nat) : Statement (.bankInit bank) := of_none _ rfl
theorem bankInitDone (bank : Nat) : Statement (.bankInitDone bank) := of_none _ rfl
theorem bankAccessCollide (bank word : Nat) (dataA dataB : BitVec 64) : Statement (.bankAccessCollide bank word dataA dataB) := of_none _ rfl
theorem ddrTrainingDone (ok0 ok1 : Bool) : Statement (.ddrTrainingDone ok0 ok1) := of_none _ rfl
theorem admMeterWrite (reg : Nat) (value : Word32) : Statement (.admMeterWrite reg value) := of_none _ rfl
theorem queueTelemetrySample : Statement .queueTelemetrySample := of_none _ rfl
theorem p0LatencyClearMax : Statement .p0LatencyClearMax := of_none _ rfl
theorem mateGapClearMax : Statement .mateGapClearMax := of_none _ rfl
theorem admTelClearMax : Statement .admTelClearMax := of_none _ rfl
theorem hkRound (readings : List Int) : Statement (.hkRound readings) := of_none _ rfl
theorem adcConversionDone (code : Nat) : Statement (.adcConversionDone code) := of_none _ rfl
theorem adcCtrlWrite (value : Word32) : Statement (.adcCtrlWrite value) := of_none _ rfl
theorem adcUrgentGo (value : Word32) : Statement (.adcUrgentGo value) := of_none _ rfl
theorem adcUrgentResultRead : Statement .adcUrgentResultRead := of_none _ rfl
theorem dacCtrlWrite (channel : Nat) (value : Word32) : Statement (.dacCtrlWrite channel value) := of_none _ rfl
theorem dacClrNChange (low : Bool) : Statement (.dacClrNChange low) := of_none _ rfl
theorem porNRelease : Statement .porNRelease := of_none _ rfl
theorem porNAssert : Statement .porNAssert := of_none _ rfl
theorem warmReset (lowNs : Nat) : Statement (.warmReset lowNs) := of_none _ rfl
theorem resetCtrlWrite (value : Word32) : Statement (.resetCtrlWrite value) := of_none _ rfl
theorem resetHeldExpire : Statement .resetHeldExpire := of_none _ rfl
theorem mainStart : Statement .mainStart := of_none _ rfl
theorem calSetRead (set : CalSet) : Statement (.calSetRead set) := of_none _ rfl
theorem surfaceExpandDone (tile : Nat) : Statement (.surfaceExpandDone tile) := of_none _ rfl
theorem restartResolve : Statement .restartResolve := of_none _ rfl
theorem readyChange : Statement .readyChange := of_none _ rfl
theorem digestRecomputeDone : Statement .digestRecomputeDone := of_none _ rfl
theorem mainSupplyFault (monitor : Nat) : Statement (.mainSupplyFault monitor) := of_none _ rfl
theorem mainSupplyGood : Statement .mainSupplyGood := of_none _ rfl
theorem aonSupplyLow : Statement .aonSupplyLow := of_none _ rfl
theorem timePllLock : Statement .timePllLock := of_none _ rfl
theorem timePllLossOfLock : Statement .timePllLossOfLock := of_none _ rfl
theorem sitePortLinkChange (port : Nat) (up : Bool) : Statement (.sitePortLinkChange port up) := of_none _ rfl
theorem verbHostDataDone (h : Hdr) (data : Option HostData) : Statement (.verbHostDataDone h data) := of_none _ rfl
theorem flashImageReadDone (img : FlashImage) : Statement (.flashImageReadDone img) := of_none _ rfl
theorem calSaveFlashDone (ok : Bool) : Statement (.calSaveFlashDone ok) := of_none _ rfl
theorem adcUrgentConversionDone (code : Nat) : Statement (.adcUrgentConversionDone code) := of_none _ rfl
theorem standbyIdentPoll : Statement .standbyIdentPoll := of_none _ rfl
theorem selfTestTimeout (h : Hdr) : Statement (.selfTestTimeout h) := of_none _ rfl
theorem dalovoFrameSent (port : Nat) : Statement (.dalovoFrameSent port) := of_none _ rfl
theorem pciePowerStateChange (d3hot : Bool) : Statement (.pciePowerStateChange d3hot) := of_none _ rfl

end Sys2Proof.Laws.VerbHeader
end

