-- ==== Sys2Proof/Laws/State.lean ====
section
/-! SUPPORT. One lemma per field and per update of the state, and what a sparse table gives back: so that no proof unfolds
a record update. -/

namespace Sys2Proof.Machine

/-! ## Sparse tables -/

@[simp] theorem tabGet_tabSet_same {α : Type} (t : Tab α) (d v : α) (k : Nat) : tabGet (tabSet t k v) d k = v := by
  induction t with
  | nil => simp [tabSet, tabGet]
  | cons x r ih =>
    obtain ⟨k', w⟩ := x
    unfold tabSet
    split
    · simp [tabGet]
    · split
      · simp [tabGet]
      · rename_i h1 h2
        simp only [tabGet, if_neg h2, if_neg h1]
        exact ih

theorem tabGet_below {α : Type} (t : Tab α) (d : α) (k : Nat) (h : ∀ x ∈ t.head?, k < x.1) : tabGet t d k = d := by
  cases t with
  | nil => rfl
  | cons x r =>
    obtain ⟨k', w⟩ := x
    have hk : k < k' := h (k', w) rfl
    simp only [tabGet, if_neg (Nat.ne_of_lt hk), if_pos hk]

/-- Another key keeps its value. -/
theorem tabGet_tabSet_other {α : Type} (t : Tab α) (d v : α) {k j : Nat} (h : j ≠ k) :
    tabGet (tabSet t k v) d j = tabGet t d j := by
  induction t with
  | nil => simp [tabSet, tabGet, h]
  | cons x r ih =>
    obtain ⟨k', w⟩ := x
    unfold tabSet
    split
    · rename_i h1
      by_cases hj : j = k'
      · subst hj
        simp only [tabGet, if_neg h, if_neg (Nat.lt_asymm h1), if_true]
      · by_cases hlt : j < k
        · simp only [tabGet, if_neg h, if_pos hlt, if_neg hj, if_pos (Nat.lt_trans hlt h1)]
        · simp only [tabGet, if_neg h, if_neg hlt, if_neg hj]
    · split
      · rename_i h1 h2
        subst h2
        by_cases hlt : j < k
        · simp only [tabGet, if_neg h, if_pos hlt]
        · simp only [tabGet, if_neg h, if_neg hlt]
      · simp only [tabGet]
        split
        · rfl
        · split
          · rfl
          · exact ih

/-! ## Updates of the state -/

@[simp] theorem State.setElem_pending (s : State) (e : Nat) (v : Elem) : (s.setElem e v).pending = s.pending := rfl
@[simp] theorem State.setElem_out (s : State) (e : Nat) (v : Elem) : (s.setElem e v).out = s.out := rfl
@[simp] theorem State.setElem_free (s : State) (e : Nat) (v : Elem) : (s.setElem e v).free = s.free := rfl
@[simp] theorem State.setElem_dt (s : State) (e : Nat) (v : Elem) : (s.setElem e v).dt = s.dt := rfl
@[simp] theorem State.setElem_time (s : State) (e : Nat) (v : Elem) : (s.setElem e v).time = s.time := rfl
@[simp] theorem State.setElem_faults (s : State) (e : Nat) (v : Elem) : (s.setElem e v).faults = s.faults := rfl
@[simp] theorem State.setElem_host (s : State) (e : Nat) (v : Elem) : (s.setElem e v).host = s.host := rfl
@[simp] theorem State.setElem_comma (s : State) (e : Nat) (v : Elem) : (s.setElem e v).comma = s.comma := rfl
@[simp] theorem State.setElem_regions (s : State) (e : Nat) (v : Elem) : (s.setElem e v).regions = s.regions := rfl
@[simp] theorem State.setElem_store (s : State) (e : Nat) (v : Elem) : (s.setElem e v).store = s.store := rfl
@[simp] theorem State.setElem_smu (s : State) (e : Nat) (v : Elem) : (s.setElem e v).smu = s.smu := rfl
@[simp] theorem State.setElem_calib (s : State) (e : Nat) (v : Elem) : (s.setElem e v).calib = s.calib := rfl
@[simp] theorem State.setElem_paost (s : State) (e : Nat) (v : Elem) : (s.setElem e v).paost = s.paost := rfl
@[simp] theorem State.setElem_adm (s : State) (e : Nat) (v : Elem) : (s.setElem e v).adm = s.adm := rfl
@[simp] theorem State.setElem_mem (s : State) (e : Nat) (v : Elem) : (s.setElem e v).mem = s.mem := rfl
@[simp] theorem State.setElem_matrix (s : State) (e : Nat) (v : Elem) : (s.setElem e v).matrix = s.matrix := rfl
@[simp] theorem State.setElem_lsu (s : State) (e : Nat) (v : Elem) : (s.setElem e v).lsu = s.lsu := rfl
@[simp] theorem State.setElem_mate (s : State) (e : Nat) (v : Elem) : (s.setElem e v).mate = s.mate := rfl
@[simp] theorem State.setElem_chip (s : State) (e : Nat) (v : Elem) : (s.setElem e v).chip = s.chip := rfl
@[simp] theorem State.setElem_house (s : State) (e : Nat) (v : Elem) : (s.setElem e v).house = s.house := rfl
@[simp] theorem State.setElem_hostOps (s : State) (e : Nat) (v : Elem) : (s.setElem e v).hostOps = s.hostOps := rfl
@[simp] theorem State.setElem_loops_classes (s : State) (e : Nat) (v : Elem) : (s.setElem e v).loops.classes = s.loops.classes := rfl
@[simp] theorem State.setElem_loops_lockIns (s : State) (e : Nat) (v : Elem) : (s.setElem e v).loops.lockIns = s.loops.lockIns := rfl
@[simp] theorem State.setElem_loops_journal (s : State) (e : Nat) (v : Elem) : (s.setElem e v).loops.journal = s.loops.journal := rfl
@[simp] theorem State.setElem_loops_throttled (s : State) (e : Nat) (v : Elem) : (s.setElem e v).loops.throttled = s.loops.throttled := rfl
@[simp] theorem State.setElem_loops_waits (s : State) (e : Nat) (v : Elem) : (s.setElem e v).loops.waits = s.loops.waits := rfl
@[simp] theorem State.setElem_loops_clsSel (s : State) (e : Nat) (v : Elem) : (s.setElem e v).loops.clsSel = s.loops.clsSel := rfl
@[simp] theorem State.setElem_loops_clsSelB (s : State) (e : Nat) (v : Elem) : (s.setElem e v).loops.clsSelB = s.loops.clsSelB := rfl
@[simp] theorem State.setElem_loops_placeEid (s : State) (e : Nat) (v : Elem) : (s.setElem e v).loops.placeEid = s.loops.placeEid := rfl
@[simp] theorem State.setElem_loops_misses (s : State) (e : Nat) (v : Elem) : (s.setElem e v).loops.misses = s.loops.misses := rfl
@[simp] theorem State.setElem_loops_overrunPins (s : State) (e : Nat) (v : Elem) : (s.setElem e v).loops.overrunPins = s.loops.overrunPins := rfl
@[simp] theorem State.setElem_same (s : State) (e : Nat) (v : Elem) : (s.setElem e v).elem e = v := tabGet_tabSet_same ..
theorem State.setElem_other (s : State) (e : Nat) (v : Elem) {i : Nat} (hi : i ≠ e) : (s.setElem e v).elem i = s.elem i := tabGet_tabSet_other _ _ _ hi

@[simp] theorem State.modElem_pending (s : State) (e : Nat) (f : Elem → Elem) : (s.modElem e f).pending = s.pending := rfl
@[simp] theorem State.modElem_out (s : State) (e : Nat) (f : Elem → Elem) : (s.modElem e f).out = s.out := rfl
@[simp] theorem State.modElem_free (s : State) (e : Nat) (f : Elem → Elem) : (s.modElem e f).free = s.free := rfl
@[simp] theorem State.modElem_dt (s : State) (e : Nat) (f : Elem → Elem) : (s.modElem e f).dt = s.dt := rfl
@[simp] theorem State.modElem_time (s : State) (e : Nat) (f : Elem → Elem) : (s.modElem e f).time = s.time := rfl
@[simp] theorem State.modElem_faults (s : State) (e : Nat) (f : Elem → Elem) : (s.modElem e f).faults = s.faults := rfl
@[simp] theorem State.modElem_host (s : State) (e : Nat) (f : Elem → Elem) : (s.modElem e f).host = s.host := rfl
@[simp] theorem State.modElem_comma (s : State) (e : Nat) (f : Elem → Elem) : (s.modElem e f).comma = s.comma := rfl
@[simp] theorem State.modElem_regions (s : State) (e : Nat) (f : Elem → Elem) : (s.modElem e f).regions = s.regions := rfl
@[simp] theorem State.modElem_store (s : State) (e : Nat) (f : Elem → Elem) : (s.modElem e f).store = s.store := rfl
@[simp] theorem State.modElem_smu (s : State) (e : Nat) (f : Elem → Elem) : (s.modElem e f).smu = s.smu := rfl
@[simp] theorem State.modElem_calib (s : State) (e : Nat) (f : Elem → Elem) : (s.modElem e f).calib = s.calib := rfl
@[simp] theorem State.modElem_paost (s : State) (e : Nat) (f : Elem → Elem) : (s.modElem e f).paost = s.paost := rfl
@[simp] theorem State.modElem_adm (s : State) (e : Nat) (f : Elem → Elem) : (s.modElem e f).adm = s.adm := rfl
@[simp] theorem State.modElem_mem (s : State) (e : Nat) (f : Elem → Elem) : (s.modElem e f).mem = s.mem := rfl
@[simp] theorem State.modElem_matrix (s : State) (e : Nat) (f : Elem → Elem) : (s.modElem e f).matrix = s.matrix := rfl
@[simp] theorem State.modElem_lsu (s : State) (e : Nat) (f : Elem → Elem) : (s.modElem e f).lsu = s.lsu := rfl
@[simp] theorem State.modElem_mate (s : State) (e : Nat) (f : Elem → Elem) : (s.modElem e f).mate = s.mate := rfl
@[simp] theorem State.modElem_chip (s : State) (e : Nat) (f : Elem → Elem) : (s.modElem e f).chip = s.chip := rfl
@[simp] theorem State.modElem_house (s : State) (e : Nat) (f : Elem → Elem) : (s.modElem e f).house = s.house := rfl
@[simp] theorem State.modElem_hostOps (s : State) (e : Nat) (f : Elem → Elem) : (s.modElem e f).hostOps = s.hostOps := rfl
@[simp] theorem State.modElem_loops_classes (s : State) (e : Nat) (f : Elem → Elem) : (s.modElem e f).loops.classes = s.loops.classes := rfl
@[simp] theorem State.modElem_loops_lockIns (s : State) (e : Nat) (f : Elem → Elem) : (s.modElem e f).loops.lockIns = s.loops.lockIns := rfl
@[simp] theorem State.modElem_loops_journal (s : State) (e : Nat) (f : Elem → Elem) : (s.modElem e f).loops.journal = s.loops.journal := rfl
@[simp] theorem State.modElem_loops_throttled (s : State) (e : Nat) (f : Elem → Elem) : (s.modElem e f).loops.throttled = s.loops.throttled := rfl
@[simp] theorem State.modElem_loops_waits (s : State) (e : Nat) (f : Elem → Elem) : (s.modElem e f).loops.waits = s.loops.waits := rfl
@[simp] theorem State.modElem_loops_clsSel (s : State) (e : Nat) (f : Elem → Elem) : (s.modElem e f).loops.clsSel = s.loops.clsSel := rfl
@[simp] theorem State.modElem_loops_clsSelB (s : State) (e : Nat) (f : Elem → Elem) : (s.modElem e f).loops.clsSelB = s.loops.clsSelB := rfl
@[simp] theorem State.modElem_loops_placeEid (s : State) (e : Nat) (f : Elem → Elem) : (s.modElem e f).loops.placeEid = s.loops.placeEid := rfl
@[simp] theorem State.modElem_loops_misses (s : State) (e : Nat) (f : Elem → Elem) : (s.modElem e f).loops.misses = s.loops.misses := rfl
@[simp] theorem State.modElem_loops_overrunPins (s : State) (e : Nat) (f : Elem → Elem) : (s.modElem e f).loops.overrunPins = s.loops.overrunPins := rfl
@[simp] theorem State.modElem_same (s : State) (e : Nat) (f : Elem → Elem) : (s.modElem e f).elem e = f (s.elem e) := tabGet_tabSet_same ..
theorem State.modElem_other (s : State) (e : Nat) (f : Elem → Elem) {i : Nat} (hi : i ≠ e) : (s.modElem e f).elem i = s.elem i := tabGet_tabSet_other _ _ _ hi

@[simp] theorem State.setCls_pending (s : State) (c : Nat) (v : ClassState) : (s.setCls c v).pending = s.pending := rfl
@[simp] theorem State.setCls_out (s : State) (c : Nat) (v : ClassState) : (s.setCls c v).out = s.out := rfl
@[simp] theorem State.setCls_free (s : State) (c : Nat) (v : ClassState) : (s.setCls c v).free = s.free := rfl
@[simp] theorem State.setCls_dt (s : State) (c : Nat) (v : ClassState) : (s.setCls c v).dt = s.dt := rfl
@[simp] theorem State.setCls_time (s : State) (c : Nat) (v : ClassState) : (s.setCls c v).time = s.time := rfl
@[simp] theorem State.setCls_faults (s : State) (c : Nat) (v : ClassState) : (s.setCls c v).faults = s.faults := rfl
@[simp] theorem State.setCls_host (s : State) (c : Nat) (v : ClassState) : (s.setCls c v).host = s.host := rfl
@[simp] theorem State.setCls_comma (s : State) (c : Nat) (v : ClassState) : (s.setCls c v).comma = s.comma := rfl
@[simp] theorem State.setCls_regions (s : State) (c : Nat) (v : ClassState) : (s.setCls c v).regions = s.regions := rfl
@[simp] theorem State.setCls_store (s : State) (c : Nat) (v : ClassState) : (s.setCls c v).store = s.store := rfl
@[simp] theorem State.setCls_smu (s : State) (c : Nat) (v : ClassState) : (s.setCls c v).smu = s.smu := rfl
@[simp] theorem State.setCls_calib (s : State) (c : Nat) (v : ClassState) : (s.setCls c v).calib = s.calib := rfl
@[simp] theorem State.setCls_paost (s : State) (c : Nat) (v : ClassState) : (s.setCls c v).paost = s.paost := rfl
@[simp] theorem State.setCls_adm (s : State) (c : Nat) (v : ClassState) : (s.setCls c v).adm = s.adm := rfl
@[simp] theorem State.setCls_mem (s : State) (c : Nat) (v : ClassState) : (s.setCls c v).mem = s.mem := rfl
@[simp] theorem State.setCls_matrix (s : State) (c : Nat) (v : ClassState) : (s.setCls c v).matrix = s.matrix := rfl
@[simp] theorem State.setCls_lsu (s : State) (c : Nat) (v : ClassState) : (s.setCls c v).lsu = s.lsu := rfl
@[simp] theorem State.setCls_mate (s : State) (c : Nat) (v : ClassState) : (s.setCls c v).mate = s.mate := rfl
@[simp] theorem State.setCls_chip (s : State) (c : Nat) (v : ClassState) : (s.setCls c v).chip = s.chip := rfl
@[simp] theorem State.setCls_house (s : State) (c : Nat) (v : ClassState) : (s.setCls c v).house = s.house := rfl
@[simp] theorem State.setCls_hostOps (s : State) (c : Nat) (v : ClassState) : (s.setCls c v).hostOps = s.hostOps := rfl
@[simp] theorem State.setCls_loops_elems (s : State) (c : Nat) (v : ClassState) : (s.setCls c v).loops.elems = s.loops.elems := rfl
@[simp] theorem State.setCls_loops_lockIns (s : State) (c : Nat) (v : ClassState) : (s.setCls c v).loops.lockIns = s.loops.lockIns := rfl
@[simp] theorem State.setCls_loops_journal (s : State) (c : Nat) (v : ClassState) : (s.setCls c v).loops.journal = s.loops.journal := rfl
@[simp] theorem State.setCls_loops_throttled (s : State) (c : Nat) (v : ClassState) : (s.setCls c v).loops.throttled = s.loops.throttled := rfl
@[simp] theorem State.setCls_loops_waits (s : State) (c : Nat) (v : ClassState) : (s.setCls c v).loops.waits = s.loops.waits := rfl
@[simp] theorem State.setCls_loops_clsSel (s : State) (c : Nat) (v : ClassState) : (s.setCls c v).loops.clsSel = s.loops.clsSel := rfl
@[simp] theorem State.setCls_loops_clsSelB (s : State) (c : Nat) (v : ClassState) : (s.setCls c v).loops.clsSelB = s.loops.clsSelB := rfl
@[simp] theorem State.setCls_loops_placeEid (s : State) (c : Nat) (v : ClassState) : (s.setCls c v).loops.placeEid = s.loops.placeEid := rfl
@[simp] theorem State.setCls_loops_misses (s : State) (c : Nat) (v : ClassState) : (s.setCls c v).loops.misses = s.loops.misses := rfl
@[simp] theorem State.setCls_loops_overrunPins (s : State) (c : Nat) (v : ClassState) : (s.setCls c v).loops.overrunPins = s.loops.overrunPins := rfl
@[simp] theorem State.setCls_same (s : State) (c : Nat) (v : ClassState) : (s.setCls c v).cls c = v := tabGet_tabSet_same ..
theorem State.setCls_other (s : State) (c : Nat) (v : ClassState) {i : Nat} (hi : i ≠ c) : (s.setCls c v).cls i = s.cls i := tabGet_tabSet_other _ _ _ hi

@[simp] theorem State.setLink_pending (s : State) (t : Nat) (v : Link) : (s.setLink t v).pending = s.pending := rfl
@[simp] theorem State.setLink_out (s : State) (t : Nat) (v : Link) : (s.setLink t v).out = s.out := rfl
@[simp] theorem State.setLink_free (s : State) (t : Nat) (v : Link) : (s.setLink t v).free = s.free := rfl
@[simp] theorem State.setLink_dt (s : State) (t : Nat) (v : Link) : (s.setLink t v).dt = s.dt := rfl
@[simp] theorem State.setLink_time (s : State) (t : Nat) (v : Link) : (s.setLink t v).time = s.time := rfl
@[simp] theorem State.setLink_faults (s : State) (t : Nat) (v : Link) : (s.setLink t v).faults = s.faults := rfl
@[simp] theorem State.setLink_host (s : State) (t : Nat) (v : Link) : (s.setLink t v).host = s.host := rfl
@[simp] theorem State.setLink_comma (s : State) (t : Nat) (v : Link) : (s.setLink t v).comma = s.comma := rfl
@[simp] theorem State.setLink_regions (s : State) (t : Nat) (v : Link) : (s.setLink t v).regions = s.regions := rfl
@[simp] theorem State.setLink_store (s : State) (t : Nat) (v : Link) : (s.setLink t v).store = s.store := rfl
@[simp] theorem State.setLink_loops (s : State) (t : Nat) (v : Link) : (s.setLink t v).loops = s.loops := rfl
@[simp] theorem State.setLink_smu (s : State) (t : Nat) (v : Link) : (s.setLink t v).smu = s.smu := rfl
@[simp] theorem State.setLink_calib (s : State) (t : Nat) (v : Link) : (s.setLink t v).calib = s.calib := rfl
@[simp] theorem State.setLink_adm (s : State) (t : Nat) (v : Link) : (s.setLink t v).adm = s.adm := rfl
@[simp] theorem State.setLink_mem (s : State) (t : Nat) (v : Link) : (s.setLink t v).mem = s.mem := rfl
@[simp] theorem State.setLink_matrix (s : State) (t : Nat) (v : Link) : (s.setLink t v).matrix = s.matrix := rfl
@[simp] theorem State.setLink_lsu (s : State) (t : Nat) (v : Link) : (s.setLink t v).lsu = s.lsu := rfl
@[simp] theorem State.setLink_mate (s : State) (t : Nat) (v : Link) : (s.setLink t v).mate = s.mate := rfl
@[simp] theorem State.setLink_chip (s : State) (t : Nat) (v : Link) : (s.setLink t v).chip = s.chip := rfl
@[simp] theorem State.setLink_house (s : State) (t : Nat) (v : Link) : (s.setLink t v).house = s.house := rfl
@[simp] theorem State.setLink_hostOps (s : State) (t : Nat) (v : Link) : (s.setLink t v).hostOps = s.hostOps := rfl
@[simp] theorem State.setLink_paost_tiles (s : State) (t : Nat) (v : Link) : (s.setLink t v).paost.tiles = s.paost.tiles := rfl
@[simp] theorem State.setLink_same (s : State) (t : Nat) (v : Link) : (s.setLink t v).link t = v := tabGet_tabSet_same ..
theorem State.setLink_other (s : State) (t : Nat) (v : Link) {i : Nat} (hi : i ≠ t) : (s.setLink t v).link i = s.link i := tabGet_tabSet_other _ _ _ hi

@[simp] theorem State.modLink_pending (s : State) (t : Nat) (f : Link → Link) : (s.modLink t f).pending = s.pending := rfl
@[simp] theorem State.modLink_out (s : State) (t : Nat) (f : Link → Link) : (s.modLink t f).out = s.out := rfl
@[simp] theorem State.modLink_free (s : State) (t : Nat) (f : Link → Link) : (s.modLink t f).free = s.free := rfl
@[simp] theorem State.modLink_dt (s : State) (t : Nat) (f : Link → Link) : (s.modLink t f).dt = s.dt := rfl
@[simp] theorem State.modLink_time (s : State) (t : Nat) (f : Link → Link) : (s.modLink t f).time = s.time := rfl
@[simp] theorem State.modLink_faults (s : State) (t : Nat) (f : Link → Link) : (s.modLink t f).faults = s.faults := rfl
@[simp] theorem State.modLink_host (s : State) (t : Nat) (f : Link → Link) : (s.modLink t f).host = s.host := rfl
@[simp] theorem State.modLink_comma (s : State) (t : Nat) (f : Link → Link) : (s.modLink t f).comma = s.comma := rfl
@[simp] theorem State.modLink_regions (s : State) (t : Nat) (f : Link → Link) : (s.modLink t f).regions = s.regions := rfl
@[simp] theorem State.modLink_store (s : State) (t : Nat) (f : Link → Link) : (s.modLink t f).store = s.store := rfl
@[simp] theorem State.modLink_loops (s : State) (t : Nat) (f : Link → Link) : (s.modLink t f).loops = s.loops := rfl
@[simp] theorem State.modLink_smu (s : State) (t : Nat) (f : Link → Link) : (s.modLink t f).smu = s.smu := rfl
@[simp] theorem State.modLink_calib (s : State) (t : Nat) (f : Link → Link) : (s.modLink t f).calib = s.calib := rfl
@[simp] theorem State.modLink_adm (s : State) (t : Nat) (f : Link → Link) : (s.modLink t f).adm = s.adm := rfl
@[simp] theorem State.modLink_mem (s : State) (t : Nat) (f : Link → Link) : (s.modLink t f).mem = s.mem := rfl
@[simp] theorem State.modLink_matrix (s : State) (t : Nat) (f : Link → Link) : (s.modLink t f).matrix = s.matrix := rfl
@[simp] theorem State.modLink_lsu (s : State) (t : Nat) (f : Link → Link) : (s.modLink t f).lsu = s.lsu := rfl
@[simp] theorem State.modLink_mate (s : State) (t : Nat) (f : Link → Link) : (s.modLink t f).mate = s.mate := rfl
@[simp] theorem State.modLink_chip (s : State) (t : Nat) (f : Link → Link) : (s.modLink t f).chip = s.chip := rfl
@[simp] theorem State.modLink_house (s : State) (t : Nat) (f : Link → Link) : (s.modLink t f).house = s.house := rfl
@[simp] theorem State.modLink_hostOps (s : State) (t : Nat) (f : Link → Link) : (s.modLink t f).hostOps = s.hostOps := rfl
@[simp] theorem State.modLink_paost_tiles (s : State) (t : Nat) (f : Link → Link) : (s.modLink t f).paost.tiles = s.paost.tiles := rfl
@[simp] theorem State.modLink_same (s : State) (t : Nat) (f : Link → Link) : (s.modLink t f).link t = f (s.link t) := tabGet_tabSet_same ..
theorem State.modLink_other (s : State) (t : Nat) (f : Link → Link) {i : Nat} (hi : i ≠ t) : (s.modLink t f).link i = s.link i := tabGet_tabSet_other _ _ _ hi

@[simp] theorem State.setTile_pending (s : State) (t : Nat) (v : Tile) : (s.setTile t v).pending = s.pending := rfl
@[simp] theorem State.setTile_out (s : State) (t : Nat) (v : Tile) : (s.setTile t v).out = s.out := rfl
@[simp] theorem State.setTile_free (s : State) (t : Nat) (v : Tile) : (s.setTile t v).free = s.free := rfl
@[simp] theorem State.setTile_dt (s : State) (t : Nat) (v : Tile) : (s.setTile t v).dt = s.dt := rfl
@[simp] theorem State.setTile_time (s : State) (t : Nat) (v : Tile) : (s.setTile t v).time = s.time := rfl
@[simp] theorem State.setTile_faults (s : State) (t : Nat) (v : Tile) : (s.setTile t v).faults = s.faults := rfl
@[simp] theorem State.setTile_host (s : State) (t : Nat) (v : Tile) : (s.setTile t v).host = s.host := rfl
@[simp] theorem State.setTile_comma (s : State) (t : Nat) (v : Tile) : (s.setTile t v).comma = s.comma := rfl
@[simp] theorem State.setTile_regions (s : State) (t : Nat) (v : Tile) : (s.setTile t v).regions = s.regions := rfl
@[simp] theorem State.setTile_store (s : State) (t : Nat) (v : Tile) : (s.setTile t v).store = s.store := rfl
@[simp] theorem State.setTile_loops (s : State) (t : Nat) (v : Tile) : (s.setTile t v).loops = s.loops := rfl
@[simp] theorem State.setTile_smu (s : State) (t : Nat) (v : Tile) : (s.setTile t v).smu = s.smu := rfl
@[simp] theorem State.setTile_calib (s : State) (t : Nat) (v : Tile) : (s.setTile t v).calib = s.calib := rfl
@[simp] theorem State.setTile_adm (s : State) (t : Nat) (v : Tile) : (s.setTile t v).adm = s.adm := rfl
@[simp] theorem State.setTile_mem (s : State) (t : Nat) (v : Tile) : (s.setTile t v).mem = s.mem := rfl
@[simp] theorem State.setTile_matrix (s : State) (t : Nat) (v : Tile) : (s.setTile t v).matrix = s.matrix := rfl
@[simp] theorem State.setTile_lsu (s : State) (t : Nat) (v : Tile) : (s.setTile t v).lsu = s.lsu := rfl
@[simp] theorem State.setTile_mate (s : State) (t : Nat) (v : Tile) : (s.setTile t v).mate = s.mate := rfl
@[simp] theorem State.setTile_chip (s : State) (t : Nat) (v : Tile) : (s.setTile t v).chip = s.chip := rfl
@[simp] theorem State.setTile_house (s : State) (t : Nat) (v : Tile) : (s.setTile t v).house = s.house := rfl
@[simp] theorem State.setTile_hostOps (s : State) (t : Nat) (v : Tile) : (s.setTile t v).hostOps = s.hostOps := rfl
@[simp] theorem State.setTile_paost_links (s : State) (t : Nat) (v : Tile) : (s.setTile t v).paost.links = s.paost.links := rfl
@[simp] theorem State.setTile_same (s : State) (t : Nat) (v : Tile) : (s.setTile t v).tile t = v := tabGet_tabSet_same ..
theorem State.setTile_other (s : State) (t : Nat) (v : Tile) {i : Nat} (hi : i ≠ t) : (s.setTile t v).tile i = s.tile i := tabGet_tabSet_other _ _ _ hi

@[simp] theorem State.modTile_pending (s : State) (t : Nat) (f : Tile → Tile) : (s.modTile t f).pending = s.pending := rfl
@[simp] theorem State.modTile_out (s : State) (t : Nat) (f : Tile → Tile) : (s.modTile t f).out = s.out := rfl
@[simp] theorem State.modTile_free (s : State) (t : Nat) (f : Tile → Tile) : (s.modTile t f).free = s.free := rfl
@[simp] theorem State.modTile_dt (s : State) (t : Nat) (f : Tile → Tile) : (s.modTile t f).dt = s.dt := rfl
@[simp] theorem State.modTile_time (s : State) (t : Nat) (f : Tile → Tile) : (s.modTile t f).time = s.time := rfl
@[simp] theorem State.modTile_faults (s : State) (t : Nat) (f : Tile → Tile) : (s.modTile t f).faults = s.faults := rfl
@[simp] theorem State.modTile_host (s : State) (t : Nat) (f : Tile → Tile) : (s.modTile t f).host = s.host := rfl
@[simp] theorem State.modTile_comma (s : State) (t : Nat) (f : Tile → Tile) : (s.modTile t f).comma = s.comma := rfl
@[simp] theorem State.modTile_regions (s : State) (t : Nat) (f : Tile → Tile) : (s.modTile t f).regions = s.regions := rfl
@[simp] theorem State.modTile_store (s : State) (t : Nat) (f : Tile → Tile) : (s.modTile t f).store = s.store := rfl
@[simp] theorem State.modTile_loops (s : State) (t : Nat) (f : Tile → Tile) : (s.modTile t f).loops = s.loops := rfl
@[simp] theorem State.modTile_smu (s : State) (t : Nat) (f : Tile → Tile) : (s.modTile t f).smu = s.smu := rfl
@[simp] theorem State.modTile_calib (s : State) (t : Nat) (f : Tile → Tile) : (s.modTile t f).calib = s.calib := rfl
@[simp] theorem State.modTile_adm (s : State) (t : Nat) (f : Tile → Tile) : (s.modTile t f).adm = s.adm := rfl
@[simp] theorem State.modTile_mem (s : State) (t : Nat) (f : Tile → Tile) : (s.modTile t f).mem = s.mem := rfl
@[simp] theorem State.modTile_matrix (s : State) (t : Nat) (f : Tile → Tile) : (s.modTile t f).matrix = s.matrix := rfl
@[simp] theorem State.modTile_lsu (s : State) (t : Nat) (f : Tile → Tile) : (s.modTile t f).lsu = s.lsu := rfl
@[simp] theorem State.modTile_mate (s : State) (t : Nat) (f : Tile → Tile) : (s.modTile t f).mate = s.mate := rfl
@[simp] theorem State.modTile_chip (s : State) (t : Nat) (f : Tile → Tile) : (s.modTile t f).chip = s.chip := rfl
@[simp] theorem State.modTile_house (s : State) (t : Nat) (f : Tile → Tile) : (s.modTile t f).house = s.house := rfl
@[simp] theorem State.modTile_hostOps (s : State) (t : Nat) (f : Tile → Tile) : (s.modTile t f).hostOps = s.hostOps := rfl
@[simp] theorem State.modTile_paost_links (s : State) (t : Nat) (f : Tile → Tile) : (s.modTile t f).paost.links = s.paost.links := rfl
@[simp] theorem State.modTile_same (s : State) (t : Nat) (f : Tile → Tile) : (s.modTile t f).tile t = f (s.tile t) := tabGet_tabSet_same ..
theorem State.modTile_other (s : State) (t : Nat) (f : Tile → Tile) {i : Nat} (hi : i ≠ t) : (s.modTile t f).tile i = s.tile i := tabGet_tabSet_other _ _ _ hi

@[simp] theorem State.setRegion_pending (s : State) (n : Nat) (v : Region) : (s.setRegion n v).pending = s.pending := rfl
@[simp] theorem State.setRegion_out (s : State) (n : Nat) (v : Region) : (s.setRegion n v).out = s.out := rfl
@[simp] theorem State.setRegion_free (s : State) (n : Nat) (v : Region) : (s.setRegion n v).free = s.free := rfl
@[simp] theorem State.setRegion_dt (s : State) (n : Nat) (v : Region) : (s.setRegion n v).dt = s.dt := rfl
@[simp] theorem State.setRegion_time (s : State) (n : Nat) (v : Region) : (s.setRegion n v).time = s.time := rfl
@[simp] theorem State.setRegion_faults (s : State) (n : Nat) (v : Region) : (s.setRegion n v).faults = s.faults := rfl
@[simp] theorem State.setRegion_host (s : State) (n : Nat) (v : Region) : (s.setRegion n v).host = s.host := rfl
@[simp] theorem State.setRegion_comma (s : State) (n : Nat) (v : Region) : (s.setRegion n v).comma = s.comma := rfl
@[simp] theorem State.setRegion_store (s : State) (n : Nat) (v : Region) : (s.setRegion n v).store = s.store := rfl
@[simp] theorem State.setRegion_loops (s : State) (n : Nat) (v : Region) : (s.setRegion n v).loops = s.loops := rfl
@[simp] theorem State.setRegion_smu (s : State) (n : Nat) (v : Region) : (s.setRegion n v).smu = s.smu := rfl
@[simp] theorem State.setRegion_calib (s : State) (n : Nat) (v : Region) : (s.setRegion n v).calib = s.calib := rfl
@[simp] theorem State.setRegion_paost (s : State) (n : Nat) (v : Region) : (s.setRegion n v).paost = s.paost := rfl
@[simp] theorem State.setRegion_adm (s : State) (n : Nat) (v : Region) : (s.setRegion n v).adm = s.adm := rfl
@[simp] theorem State.setRegion_mem (s : State) (n : Nat) (v : Region) : (s.setRegion n v).mem = s.mem := rfl
@[simp] theorem State.setRegion_matrix (s : State) (n : Nat) (v : Region) : (s.setRegion n v).matrix = s.matrix := rfl
@[simp] theorem State.setRegion_lsu (s : State) (n : Nat) (v : Region) : (s.setRegion n v).lsu = s.lsu := rfl
@[simp] theorem State.setRegion_mate (s : State) (n : Nat) (v : Region) : (s.setRegion n v).mate = s.mate := rfl
@[simp] theorem State.setRegion_chip (s : State) (n : Nat) (v : Region) : (s.setRegion n v).chip = s.chip := rfl
@[simp] theorem State.setRegion_house (s : State) (n : Nat) (v : Region) : (s.setRegion n v).house = s.house := rfl
@[simp] theorem State.setRegion_hostOps (s : State) (n : Nat) (v : Region) : (s.setRegion n v).hostOps = s.hostOps := rfl
@[simp] theorem State.setRegion_same (s : State) (n : Nat) (v : Region) : (s.setRegion n v).region n = v := tabGet_tabSet_same ..
theorem State.setRegion_other (s : State) (n : Nat) (v : Region) {i : Nat} (hi : i ≠ n) : (s.setRegion n v).region i = s.region i := tabGet_tabSet_other _ _ _ hi

@[simp] theorem State.modRegion_pending (s : State) (n : Nat) (f : Region → Region) : (s.modRegion n f).pending = s.pending := rfl
@[simp] theorem State.modRegion_out (s : State) (n : Nat) (f : Region → Region) : (s.modRegion n f).out = s.out := rfl
@[simp] theorem State.modRegion_free (s : State) (n : Nat) (f : Region → Region) : (s.modRegion n f).free = s.free := rfl
@[simp] theorem State.modRegion_dt (s : State) (n : Nat) (f : Region → Region) : (s.modRegion n f).dt = s.dt := rfl
@[simp] theorem State.modRegion_time (s : State) (n : Nat) (f : Region → Region) : (s.modRegion n f).time = s.time := rfl
@[simp] theorem State.modRegion_faults (s : State) (n : Nat) (f : Region → Region) : (s.modRegion n f).faults = s.faults := rfl
@[simp] theorem State.modRegion_host (s : State) (n : Nat) (f : Region → Region) : (s.modRegion n f).host = s.host := rfl
@[simp] theorem State.modRegion_comma (s : State) (n : Nat) (f : Region → Region) : (s.modRegion n f).comma = s.comma := rfl
@[simp] theorem State.modRegion_store (s : State) (n : Nat) (f : Region → Region) : (s.modRegion n f).store = s.store := rfl
@[simp] theorem State.modRegion_loops (s : State) (n : Nat) (f : Region → Region) : (s.modRegion n f).loops = s.loops := rfl
@[simp] theorem State.modRegion_smu (s : State) (n : Nat) (f : Region → Region) : (s.modRegion n f).smu = s.smu := rfl
@[simp] theorem State.modRegion_calib (s : State) (n : Nat) (f : Region → Region) : (s.modRegion n f).calib = s.calib := rfl
@[simp] theorem State.modRegion_paost (s : State) (n : Nat) (f : Region → Region) : (s.modRegion n f).paost = s.paost := rfl
@[simp] theorem State.modRegion_adm (s : State) (n : Nat) (f : Region → Region) : (s.modRegion n f).adm = s.adm := rfl
@[simp] theorem State.modRegion_mem (s : State) (n : Nat) (f : Region → Region) : (s.modRegion n f).mem = s.mem := rfl
@[simp] theorem State.modRegion_matrix (s : State) (n : Nat) (f : Region → Region) : (s.modRegion n f).matrix = s.matrix := rfl
@[simp] theorem State.modRegion_lsu (s : State) (n : Nat) (f : Region → Region) : (s.modRegion n f).lsu = s.lsu := rfl
@[simp] theorem State.modRegion_mate (s : State) (n : Nat) (f : Region → Region) : (s.modRegion n f).mate = s.mate := rfl
@[simp] theorem State.modRegion_chip (s : State) (n : Nat) (f : Region → Region) : (s.modRegion n f).chip = s.chip := rfl
@[simp] theorem State.modRegion_house (s : State) (n : Nat) (f : Region → Region) : (s.modRegion n f).house = s.house := rfl
@[simp] theorem State.modRegion_hostOps (s : State) (n : Nat) (f : Region → Region) : (s.modRegion n f).hostOps = s.hostOps := rfl
@[simp] theorem State.modRegion_same (s : State) (n : Nat) (f : Region → Region) : (s.modRegion n f).region n = f (s.region n) := tabGet_tabSet_same ..
theorem State.modRegion_other (s : State) (n : Nat) (f : Region → Region) {i : Nat} (hi : i ≠ n) : (s.modRegion n f).region i = s.region i := tabGet_tabSet_other _ _ _ hi

@[simp] theorem State.setQueue_pending (s : State) (q : Nat) (v : Queue) : (s.setQueue q v).pending = s.pending := rfl
@[simp] theorem State.setQueue_out (s : State) (q : Nat) (v : Queue) : (s.setQueue q v).out = s.out := rfl
@[simp] theorem State.setQueue_free (s : State) (q : Nat) (v : Queue) : (s.setQueue q v).free = s.free := rfl
@[simp] theorem State.setQueue_dt (s : State) (q : Nat) (v : Queue) : (s.setQueue q v).dt = s.dt := rfl
@[simp] theorem State.setQueue_time (s : State) (q : Nat) (v : Queue) : (s.setQueue q v).time = s.time := rfl
@[simp] theorem State.setQueue_faults (s : State) (q : Nat) (v : Queue) : (s.setQueue q v).faults = s.faults := rfl
@[simp] theorem State.setQueue_comma (s : State) (q : Nat) (v : Queue) : (s.setQueue q v).comma = s.comma := rfl
@[simp] theorem State.setQueue_regions (s : State) (q : Nat) (v : Queue) : (s.setQueue q v).regions = s.regions := rfl
@[simp] theorem State.setQueue_store (s : State) (q : Nat) (v : Queue) : (s.setQueue q v).store = s.store := rfl
@[simp] theorem State.setQueue_loops (s : State) (q : Nat) (v : Queue) : (s.setQueue q v).loops = s.loops := rfl
@[simp] theorem State.setQueue_smu (s : State) (q : Nat) (v : Queue) : (s.setQueue q v).smu = s.smu := rfl
@[simp] theorem State.setQueue_calib (s : State) (q : Nat) (v : Queue) : (s.setQueue q v).calib = s.calib := rfl
@[simp] theorem State.setQueue_paost (s : State) (q : Nat) (v : Queue) : (s.setQueue q v).paost = s.paost := rfl
@[simp] theorem State.setQueue_adm (s : State) (q : Nat) (v : Queue) : (s.setQueue q v).adm = s.adm := rfl
@[simp] theorem State.setQueue_mem (s : State) (q : Nat) (v : Queue) : (s.setQueue q v).mem = s.mem := rfl
@[simp] theorem State.setQueue_matrix (s : State) (q : Nat) (v : Queue) : (s.setQueue q v).matrix = s.matrix := rfl
@[simp] theorem State.setQueue_lsu (s : State) (q : Nat) (v : Queue) : (s.setQueue q v).lsu = s.lsu := rfl
@[simp] theorem State.setQueue_mate (s : State) (q : Nat) (v : Queue) : (s.setQueue q v).mate = s.mate := rfl
@[simp] theorem State.setQueue_chip (s : State) (q : Nat) (v : Queue) : (s.setQueue q v).chip = s.chip := rfl
@[simp] theorem State.setQueue_house (s : State) (q : Nat) (v : Queue) : (s.setQueue q v).house = s.house := rfl
@[simp] theorem State.setQueue_hostOps (s : State) (q : Nat) (v : Queue) : (s.setQueue q v).hostOps = s.hostOps := rfl
@[simp] theorem State.setQueue_host_issues (s : State) (q : Nat) (v : Queue) : (s.setQueue q v).host.issues = s.host.issues := rfl
@[simp] theorem State.setQueue_host_owed (s : State) (q : Nat) (v : Queue) : (s.setQueue q v).host.owed = s.host.owed := rfl
@[simp] theorem State.setQueue_host_speed (s : State) (q : Nat) (v : Queue) : (s.setQueue q v).host.speed = s.host.speed := rfl
@[simp] theorem State.setQueue_host_width (s : State) (q : Nat) (v : Queue) : (s.setQueue q v).host.width = s.host.width := rfl
@[simp] theorem State.setQueue_host_bme (s : State) (q : Nat) (v : Queue) : (s.setQueue q v).host.bme = s.host.bme := rfl
@[simp] theorem State.setQueue_host_msixEn (s : State) (q : Nat) (v : Queue) : (s.setQueue q v).host.msixEn = s.host.msixEn := rfl
@[simp] theorem State.setQueue_host_flrCount (s : State) (q : Nat) (v : Queue) : (s.setQueue q v).host.flrCount = s.host.flrCount := rfl
@[simp] theorem State.setQueue_host_apertureDenied (s : State) (q : Nat) (v : Queue) : (s.setQueue q v).host.apertureDenied = s.host.apertureDenied := rfl
@[simp] theorem State.setQueue_host_d3hot (s : State) (q : Nat) (v : Queue) : (s.setQueue q v).host.d3hot = s.host.d3hot := rfl
@[simp] theorem State.setQueue_host_perst (s : State) (q : Nat) (v : Queue) : (s.setQueue q v).host.perst = s.host.perst := rfl
@[simp] theorem State.setQueue_host_msixAddr (s : State) (q : Nat) (v : Queue) : (s.setQueue q v).host.msixAddr = s.host.msixAddr := rfl
@[simp] theorem State.setQueue_host_msixData (s : State) (q : Nat) (v : Queue) : (s.setQueue q v).host.msixData = s.host.msixData := rfl
@[simp] theorem State.setQueue_host_msixUnmasked (s : State) (q : Nat) (v : Queue) : (s.setQueue q v).host.msixUnmasked = s.host.msixUnmasked := rfl
@[simp] theorem State.setQueue_host_msixPending (s : State) (q : Nat) (v : Queue) : (s.setQueue q v).host.msixPending = s.host.msixPending := rfl
@[simp] theorem State.setQueue_host_sbCompletions (s : State) (q : Nat) (v : Queue) : (s.setQueue q v).host.sbCompletions = s.host.sbCompletions := rfl
@[simp] theorem State.setQueue_host_sbEvents (s : State) (q : Nat) (v : Queue) : (s.setQueue q v).host.sbEvents = s.host.sbEvents := rfl
@[simp] theorem State.setQueue_host_sbEventDropped (s : State) (q : Nat) (v : Queue) : (s.setQueue q v).host.sbEventDropped = s.host.sbEventDropped := rfl
@[simp] theorem State.setQueue_host_sbDropped (s : State) (q : Nat) (v : Queue) : (s.setQueue q v).host.sbDropped = s.host.sbDropped := rfl
@[simp] theorem State.setQueue_host_sbOffset (s : State) (q : Nat) (v : Queue) : (s.setQueue q v).host.sbOffset = s.host.sbOffset := rfl
@[simp] theorem State.setQueue_same (s : State) (q : Nat) (v : Queue) : (s.setQueue q v).queue q = v := tabGet_tabSet_same ..
theorem State.setQueue_other (s : State) (q : Nat) (v : Queue) {i : Nat} (hi : i ≠ q) : (s.setQueue q v).queue i = s.queue i := tabGet_tabSet_other _ _ _ hi

@[simp] theorem State.modQueue_pending (s : State) (q : Nat) (f : Queue → Queue) : (s.modQueue q f).pending = s.pending := rfl
@[simp] theorem State.modQueue_out (s : State) (q : Nat) (f : Queue → Queue) : (s.modQueue q f).out = s.out := rfl
@[simp] theorem State.modQueue_free (s : State) (q : Nat) (f : Queue → Queue) : (s.modQueue q f).free = s.free := rfl
@[simp] theorem State.modQueue_dt (s : State) (q : Nat) (f : Queue → Queue) : (s.modQueue q f).dt = s.dt := rfl
@[simp] theorem State.modQueue_time (s : State) (q : Nat) (f : Queue → Queue) : (s.modQueue q f).time = s.time := rfl
@[simp] theorem State.modQueue_faults (s : State) (q : Nat) (f : Queue → Queue) : (s.modQueue q f).faults = s.faults := rfl
@[simp] theorem State.modQueue_comma (s : State) (q : Nat) (f : Queue → Queue) : (s.modQueue q f).comma = s.comma := rfl
@[simp] theorem State.modQueue_regions (s : State) (q : Nat) (f : Queue → Queue) : (s.modQueue q f).regions = s.regions := rfl
@[simp] theorem State.modQueue_store (s : State) (q : Nat) (f : Queue → Queue) : (s.modQueue q f).store = s.store := rfl
@[simp] theorem State.modQueue_loops (s : State) (q : Nat) (f : Queue → Queue) : (s.modQueue q f).loops = s.loops := rfl
@[simp] theorem State.modQueue_smu (s : State) (q : Nat) (f : Queue → Queue) : (s.modQueue q f).smu = s.smu := rfl
@[simp] theorem State.modQueue_calib (s : State) (q : Nat) (f : Queue → Queue) : (s.modQueue q f).calib = s.calib := rfl
@[simp] theorem State.modQueue_paost (s : State) (q : Nat) (f : Queue → Queue) : (s.modQueue q f).paost = s.paost := rfl
@[simp] theorem State.modQueue_adm (s : State) (q : Nat) (f : Queue → Queue) : (s.modQueue q f).adm = s.adm := rfl
@[simp] theorem State.modQueue_mem (s : State) (q : Nat) (f : Queue → Queue) : (s.modQueue q f).mem = s.mem := rfl
@[simp] theorem State.modQueue_matrix (s : State) (q : Nat) (f : Queue → Queue) : (s.modQueue q f).matrix = s.matrix := rfl
@[simp] theorem State.modQueue_lsu (s : State) (q : Nat) (f : Queue → Queue) : (s.modQueue q f).lsu = s.lsu := rfl
@[simp] theorem State.modQueue_mate (s : State) (q : Nat) (f : Queue → Queue) : (s.modQueue q f).mate = s.mate := rfl
@[simp] theorem State.modQueue_chip (s : State) (q : Nat) (f : Queue → Queue) : (s.modQueue q f).chip = s.chip := rfl
@[simp] theorem State.modQueue_house (s : State) (q : Nat) (f : Queue → Queue) : (s.modQueue q f).house = s.house := rfl
@[simp] theorem State.modQueue_hostOps (s : State) (q : Nat) (f : Queue → Queue) : (s.modQueue q f).hostOps = s.hostOps := rfl
@[simp] theorem State.modQueue_host_issues (s : State) (q : Nat) (f : Queue → Queue) : (s.modQueue q f).host.issues = s.host.issues := rfl
@[simp] theorem State.modQueue_host_owed (s : State) (q : Nat) (f : Queue → Queue) : (s.modQueue q f).host.owed = s.host.owed := rfl
@[simp] theorem State.modQueue_host_speed (s : State) (q : Nat) (f : Queue → Queue) : (s.modQueue q f).host.speed = s.host.speed := rfl
@[simp] theorem State.modQueue_host_width (s : State) (q : Nat) (f : Queue → Queue) : (s.modQueue q f).host.width = s.host.width := rfl
@[simp] theorem State.modQueue_host_bme (s : State) (q : Nat) (f : Queue → Queue) : (s.modQueue q f).host.bme = s.host.bme := rfl
@[simp] theorem State.modQueue_host_msixEn (s : State) (q : Nat) (f : Queue → Queue) : (s.modQueue q f).host.msixEn = s.host.msixEn := rfl
@[simp] theorem State.modQueue_host_flrCount (s : State) (q : Nat) (f : Queue → Queue) : (s.modQueue q f).host.flrCount = s.host.flrCount := rfl
@[simp] theorem State.modQueue_host_apertureDenied (s : State) (q : Nat) (f : Queue → Queue) : (s.modQueue q f).host.apertureDenied = s.host.apertureDenied := rfl
@[simp] theorem State.modQueue_host_d3hot (s : State) (q : Nat) (f : Queue → Queue) : (s.modQueue q f).host.d3hot = s.host.d3hot := rfl
@[simp] theorem State.modQueue_host_perst (s : State) (q : Nat) (f : Queue → Queue) : (s.modQueue q f).host.perst = s.host.perst := rfl
@[simp] theorem State.modQueue_host_msixAddr (s : State) (q : Nat) (f : Queue → Queue) : (s.modQueue q f).host.msixAddr = s.host.msixAddr := rfl
@[simp] theorem State.modQueue_host_msixData (s : State) (q : Nat) (f : Queue → Queue) : (s.modQueue q f).host.msixData = s.host.msixData := rfl
@[simp] theorem State.modQueue_host_msixUnmasked (s : State) (q : Nat) (f : Queue → Queue) : (s.modQueue q f).host.msixUnmasked = s.host.msixUnmasked := rfl
@[simp] theorem State.modQueue_host_msixPending (s : State) (q : Nat) (f : Queue → Queue) : (s.modQueue q f).host.msixPending = s.host.msixPending := rfl
@[simp] theorem State.modQueue_host_sbCompletions (s : State) (q : Nat) (f : Queue → Queue) : (s.modQueue q f).host.sbCompletions = s.host.sbCompletions := rfl
@[simp] theorem State.modQueue_host_sbEvents (s : State) (q : Nat) (f : Queue → Queue) : (s.modQueue q f).host.sbEvents = s.host.sbEvents := rfl
@[simp] theorem State.modQueue_host_sbEventDropped (s : State) (q : Nat) (f : Queue → Queue) : (s.modQueue q f).host.sbEventDropped = s.host.sbEventDropped := rfl
@[simp] theorem State.modQueue_host_sbDropped (s : State) (q : Nat) (f : Queue → Queue) : (s.modQueue q f).host.sbDropped = s.host.sbDropped := rfl
@[simp] theorem State.modQueue_host_sbOffset (s : State) (q : Nat) (f : Queue → Queue) : (s.modQueue q f).host.sbOffset = s.host.sbOffset := rfl
@[simp] theorem State.modQueue_same (s : State) (q : Nat) (f : Queue → Queue) : (s.modQueue q f).queue q = f (s.queue q) := tabGet_tabSet_same ..
theorem State.modQueue_other (s : State) (q : Nat) (f : Queue → Queue) {i : Nat} (hi : i ≠ q) : (s.modQueue q f).queue i = s.queue i := tabGet_tabSet_other _ _ _ hi

@[simp] theorem State.setSent_pending (s : State) (h : Nat) (v : Sentence) : (s.setSent h v).pending = s.pending := rfl
@[simp] theorem State.setSent_out (s : State) (h : Nat) (v : Sentence) : (s.setSent h v).out = s.out := rfl
@[simp] theorem State.setSent_free (s : State) (h : Nat) (v : Sentence) : (s.setSent h v).free = s.free := rfl
@[simp] theorem State.setSent_dt (s : State) (h : Nat) (v : Sentence) : (s.setSent h v).dt = s.dt := rfl
@[simp] theorem State.setSent_time (s : State) (h : Nat) (v : Sentence) : (s.setSent h v).time = s.time := rfl
@[simp] theorem State.setSent_faults (s : State) (h : Nat) (v : Sentence) : (s.setSent h v).faults = s.faults := rfl
@[simp] theorem State.setSent_host (s : State) (h : Nat) (v : Sentence) : (s.setSent h v).host = s.host := rfl
@[simp] theorem State.setSent_comma (s : State) (h : Nat) (v : Sentence) : (s.setSent h v).comma = s.comma := rfl
@[simp] theorem State.setSent_regions (s : State) (h : Nat) (v : Sentence) : (s.setSent h v).regions = s.regions := rfl
@[simp] theorem State.setSent_loops (s : State) (h : Nat) (v : Sentence) : (s.setSent h v).loops = s.loops := rfl
@[simp] theorem State.setSent_smu (s : State) (h : Nat) (v : Sentence) : (s.setSent h v).smu = s.smu := rfl
@[simp] theorem State.setSent_calib (s : State) (h : Nat) (v : Sentence) : (s.setSent h v).calib = s.calib := rfl
@[simp] theorem State.setSent_paost (s : State) (h : Nat) (v : Sentence) : (s.setSent h v).paost = s.paost := rfl
@[simp] theorem State.setSent_adm (s : State) (h : Nat) (v : Sentence) : (s.setSent h v).adm = s.adm := rfl
@[simp] theorem State.setSent_mem (s : State) (h : Nat) (v : Sentence) : (s.setSent h v).mem = s.mem := rfl
@[simp] theorem State.setSent_matrix (s : State) (h : Nat) (v : Sentence) : (s.setSent h v).matrix = s.matrix := rfl
@[simp] theorem State.setSent_lsu (s : State) (h : Nat) (v : Sentence) : (s.setSent h v).lsu = s.lsu := rfl
@[simp] theorem State.setSent_mate (s : State) (h : Nat) (v : Sentence) : (s.setSent h v).mate = s.mate := rfl
@[simp] theorem State.setSent_chip (s : State) (h : Nat) (v : Sentence) : (s.setSent h v).chip = s.chip := rfl
@[simp] theorem State.setSent_house (s : State) (h : Nat) (v : Sentence) : (s.setSent h v).house = s.house := rfl
@[simp] theorem State.setSent_hostOps (s : State) (h : Nat) (v : Sentence) : (s.setSent h v).hostOps = s.hostOps := rfl
@[simp] theorem State.setSent_store_table (s : State) (h : Nat) (v : Sentence) : (s.setSent h v).store.table = s.store.table := rfl
@[simp] theorem State.setSent_store_nextSerial (s : State) (h : Nat) (v : Sentence) : (s.setSent h v).store.nextSerial = s.store.nextSerial := rfl
@[simp] theorem State.setSent_store_tokenTicks (s : State) (h : Nat) (v : Sentence) : (s.setSent h v).store.tokenTicks = s.store.tokenTicks := rfl
@[simp] theorem State.setSent_store_preps (s : State) (h : Nat) (v : Sentence) : (s.setSent h v).store.preps = s.store.preps := rfl
@[simp] theorem State.setSent_store_nextPrep (s : State) (h : Nat) (v : Sentence) : (s.setSent h v).store.nextPrep = s.store.nextPrep := rfl
@[simp] theorem State.setSent_store_launches (s : State) (h : Nat) (v : Sentence) : (s.setSent h v).store.launches = s.store.launches := rfl
@[simp] theorem State.setSent_store_scheds (s : State) (h : Nat) (v : Sentence) : (s.setSent h v).store.scheds = s.store.scheds := rfl
@[simp] theorem State.setSent_store_paras (s : State) (h : Nat) (v : Sentence) : (s.setSent h v).store.paras = s.store.paras := rfl
@[simp] theorem State.setSent_store_p0Queue (s : State) (h : Nat) (v : Sentence) : (s.setSent h v).store.p0Queue = s.store.p0Queue := rfl
@[simp] theorem State.setSent_store_failedReroutes (s : State) (h : Nat) (v : Sentence) : (s.setSent h v).store.failedReroutes = s.store.failedReroutes := rfl
@[simp] theorem State.setSent_store_lateCancels (s : State) (h : Nat) (v : Sentence) : (s.setSent h v).store.lateCancels = s.store.lateCancels := rfl
@[simp] theorem State.setSent_store_staleFires (s : State) (h : Nat) (v : Sentence) : (s.setSent h v).store.staleFires = s.store.staleFires := rfl
@[simp] theorem State.setSent_store_ignoredTriggers (s : State) (h : Nat) (v : Sentence) : (s.setSent h v).store.ignoredTriggers = s.store.ignoredTriggers := rfl
@[simp] theorem State.setSent_store_selSentence (s : State) (h : Nat) (v : Sentence) : (s.setSent h v).store.selSentence = s.store.selSentence := rfl
@[simp] theorem State.setSent_store_selPara (s : State) (h : Nat) (v : Sentence) : (s.setSent h v).store.selPara = s.store.selPara := rfl
@[simp] theorem State.setSent_store_ptr (s : State) (h : Nat) (v : Sentence) : (s.setSent h v).store.ptr = s.store.ptr := rfl
@[simp] theorem State.setSent_store_routed (s : State) (h : Nat) (v : Sentence) : (s.setSent h v).store.routed = s.store.routed := rfl
@[simp] theorem State.setSent_store_noRoute (s : State) (h : Nat) (v : Sentence) : (s.setSent h v).store.noRoute = s.store.noRoute := rfl
@[simp] theorem State.setSent_store_needsRearrange (s : State) (h : Nat) (v : Sentence) : (s.setSent h v).store.needsRearrange = s.store.needsRearrange := rfl
@[simp] theorem State.setSent_store_moves (s : State) (h : Nat) (v : Sentence) : (s.setSent h v).store.moves = s.store.moves := rfl
@[simp] theorem State.setSent_store_reroutes (s : State) (h : Nat) (v : Sentence) : (s.setSent h v).store.reroutes = s.store.reroutes := rfl
@[simp] theorem State.setSent_store_reroutesFailed (s : State) (h : Nat) (v : Sentence) : (s.setSent h v).store.reroutesFailed = s.store.reroutesFailed := rfl
@[simp] theorem State.setSent_store_p0Fires (s : State) (h : Nat) (v : Sentence) : (s.setSent h v).store.p0Fires = s.store.p0Fires := rfl
@[simp] theorem State.setSent_store_p0BoundLost (s : State) (h : Nat) (v : Sentence) : (s.setSent h v).store.p0BoundLost = s.store.p0BoundLost := rfl
@[simp] theorem State.setSent_store_p0Last (s : State) (h : Nat) (v : Sentence) : (s.setSent h v).store.p0Last = s.store.p0Last := rfl
@[simp] theorem State.setSent_store_p0Max (s : State) (h : Nat) (v : Sentence) : (s.setSent h v).store.p0Max = s.store.p0Max := rfl
@[simp] theorem State.setSent_store_p0Cause (s : State) (h : Nat) (v : Sentence) : (s.setSent h v).store.p0Cause = s.store.p0Cause := rfl
@[simp] theorem State.setSent_same (s : State) (h : Nat) (v : Sentence) : (s.setSent h v).sent h = v := tabGet_tabSet_same ..
theorem State.setSent_other (s : State) (h : Nat) (v : Sentence) {i : Nat} (hi : i ≠ h) : (s.setSent h v).sent i = s.sent i := tabGet_tabSet_other _ _ _ hi

@[simp] theorem State.modSent_pending (s : State) (h : Nat) (f : Sentence → Sentence) : (s.modSent h f).pending = s.pending := rfl
@[simp] theorem State.modSent_out (s : State) (h : Nat) (f : Sentence → Sentence) : (s.modSent h f).out = s.out := rfl
@[simp] theorem State.modSent_free (s : State) (h : Nat) (f : Sentence → Sentence) : (s.modSent h f).free = s.free := rfl
@[simp] theorem State.modSent_dt (s : State) (h : Nat) (f : Sentence → Sentence) : (s.modSent h f).dt = s.dt := rfl
@[simp] theorem State.modSent_time (s : State) (h : Nat) (f : Sentence → Sentence) : (s.modSent h f).time = s.time := rfl
@[simp] theorem State.modSent_faults (s : State) (h : Nat) (f : Sentence → Sentence) : (s.modSent h f).faults = s.faults := rfl
@[simp] theorem State.modSent_host (s : State) (h : Nat) (f : Sentence → Sentence) : (s.modSent h f).host = s.host := rfl
@[simp] theorem State.modSent_comma (s : State) (h : Nat) (f : Sentence → Sentence) : (s.modSent h f).comma = s.comma := rfl
@[simp] theorem State.modSent_regions (s : State) (h : Nat) (f : Sentence → Sentence) : (s.modSent h f).regions = s.regions := rfl
@[simp] theorem State.modSent_loops (s : State) (h : Nat) (f : Sentence → Sentence) : (s.modSent h f).loops = s.loops := rfl
@[simp] theorem State.modSent_smu (s : State) (h : Nat) (f : Sentence → Sentence) : (s.modSent h f).smu = s.smu := rfl
@[simp] theorem State.modSent_calib (s : State) (h : Nat) (f : Sentence → Sentence) : (s.modSent h f).calib = s.calib := rfl
@[simp] theorem State.modSent_paost (s : State) (h : Nat) (f : Sentence → Sentence) : (s.modSent h f).paost = s.paost := rfl
@[simp] theorem State.modSent_adm (s : State) (h : Nat) (f : Sentence → Sentence) : (s.modSent h f).adm = s.adm := rfl
@[simp] theorem State.modSent_mem (s : State) (h : Nat) (f : Sentence → Sentence) : (s.modSent h f).mem = s.mem := rfl
@[simp] theorem State.modSent_matrix (s : State) (h : Nat) (f : Sentence → Sentence) : (s.modSent h f).matrix = s.matrix := rfl
@[simp] theorem State.modSent_lsu (s : State) (h : Nat) (f : Sentence → Sentence) : (s.modSent h f).lsu = s.lsu := rfl
@[simp] theorem State.modSent_mate (s : State) (h : Nat) (f : Sentence → Sentence) : (s.modSent h f).mate = s.mate := rfl
@[simp] theorem State.modSent_chip (s : State) (h : Nat) (f : Sentence → Sentence) : (s.modSent h f).chip = s.chip := rfl
@[simp] theorem State.modSent_house (s : State) (h : Nat) (f : Sentence → Sentence) : (s.modSent h f).house = s.house := rfl
@[simp] theorem State.modSent_hostOps (s : State) (h : Nat) (f : Sentence → Sentence) : (s.modSent h f).hostOps = s.hostOps := rfl
@[simp] theorem State.modSent_store_table (s : State) (h : Nat) (f : Sentence → Sentence) : (s.modSent h f).store.table = s.store.table := rfl
@[simp] theorem State.modSent_store_nextSerial (s : State) (h : Nat) (f : Sentence → Sentence) : (s.modSent h f).store.nextSerial = s.store.nextSerial := rfl
@[simp] theorem State.modSent_store_tokenTicks (s : State) (h : Nat) (f : Sentence → Sentence) : (s.modSent h f).store.tokenTicks = s.store.tokenTicks := rfl
@[simp] theorem State.modSent_store_preps (s : State) (h : Nat) (f : Sentence → Sentence) : (s.modSent h f).store.preps = s.store.preps := rfl
@[simp] theorem State.modSent_store_nextPrep (s : State) (h : Nat) (f : Sentence → Sentence) : (s.modSent h f).store.nextPrep = s.store.nextPrep := rfl
@[simp] theorem State.modSent_store_launches (s : State) (h : Nat) (f : Sentence → Sentence) : (s.modSent h f).store.launches = s.store.launches := rfl
@[simp] theorem State.modSent_store_scheds (s : State) (h : Nat) (f : Sentence → Sentence) : (s.modSent h f).store.scheds = s.store.scheds := rfl
@[simp] theorem State.modSent_store_paras (s : State) (h : Nat) (f : Sentence → Sentence) : (s.modSent h f).store.paras = s.store.paras := rfl
@[simp] theorem State.modSent_store_p0Queue (s : State) (h : Nat) (f : Sentence → Sentence) : (s.modSent h f).store.p0Queue = s.store.p0Queue := rfl
@[simp] theorem State.modSent_store_failedReroutes (s : State) (h : Nat) (f : Sentence → Sentence) : (s.modSent h f).store.failedReroutes = s.store.failedReroutes := rfl
@[simp] theorem State.modSent_store_lateCancels (s : State) (h : Nat) (f : Sentence → Sentence) : (s.modSent h f).store.lateCancels = s.store.lateCancels := rfl
@[simp] theorem State.modSent_store_staleFires (s : State) (h : Nat) (f : Sentence → Sentence) : (s.modSent h f).store.staleFires = s.store.staleFires := rfl
@[simp] theorem State.modSent_store_ignoredTriggers (s : State) (h : Nat) (f : Sentence → Sentence) : (s.modSent h f).store.ignoredTriggers = s.store.ignoredTriggers := rfl
@[simp] theorem State.modSent_store_selSentence (s : State) (h : Nat) (f : Sentence → Sentence) : (s.modSent h f).store.selSentence = s.store.selSentence := rfl
@[simp] theorem State.modSent_store_selPara (s : State) (h : Nat) (f : Sentence → Sentence) : (s.modSent h f).store.selPara = s.store.selPara := rfl
@[simp] theorem State.modSent_store_ptr (s : State) (h : Nat) (f : Sentence → Sentence) : (s.modSent h f).store.ptr = s.store.ptr := rfl
@[simp] theorem State.modSent_store_routed (s : State) (h : Nat) (f : Sentence → Sentence) : (s.modSent h f).store.routed = s.store.routed := rfl
@[simp] theorem State.modSent_store_noRoute (s : State) (h : Nat) (f : Sentence → Sentence) : (s.modSent h f).store.noRoute = s.store.noRoute := rfl
@[simp] theorem State.modSent_store_needsRearrange (s : State) (h : Nat) (f : Sentence → Sentence) : (s.modSent h f).store.needsRearrange = s.store.needsRearrange := rfl
@[simp] theorem State.modSent_store_moves (s : State) (h : Nat) (f : Sentence → Sentence) : (s.modSent h f).store.moves = s.store.moves := rfl
@[simp] theorem State.modSent_store_reroutes (s : State) (h : Nat) (f : Sentence → Sentence) : (s.modSent h f).store.reroutes = s.store.reroutes := rfl
@[simp] theorem State.modSent_store_reroutesFailed (s : State) (h : Nat) (f : Sentence → Sentence) : (s.modSent h f).store.reroutesFailed = s.store.reroutesFailed := rfl
@[simp] theorem State.modSent_store_p0Fires (s : State) (h : Nat) (f : Sentence → Sentence) : (s.modSent h f).store.p0Fires = s.store.p0Fires := rfl
@[simp] theorem State.modSent_store_p0BoundLost (s : State) (h : Nat) (f : Sentence → Sentence) : (s.modSent h f).store.p0BoundLost = s.store.p0BoundLost := rfl
@[simp] theorem State.modSent_store_p0Last (s : State) (h : Nat) (f : Sentence → Sentence) : (s.modSent h f).store.p0Last = s.store.p0Last := rfl
@[simp] theorem State.modSent_store_p0Max (s : State) (h : Nat) (f : Sentence → Sentence) : (s.modSent h f).store.p0Max = s.store.p0Max := rfl
@[simp] theorem State.modSent_store_p0Cause (s : State) (h : Nat) (f : Sentence → Sentence) : (s.modSent h f).store.p0Cause = s.store.p0Cause := rfl
@[simp] theorem State.modSent_same (s : State) (h : Nat) (f : Sentence → Sentence) : (s.modSent h f).sent h = f (s.sent h) := tabGet_tabSet_same ..
theorem State.modSent_other (s : State) (h : Nat) (f : Sentence → Sentence) {i : Nat} (hi : i ≠ h) : (s.modSent h f).sent i = s.sent i := tabGet_tabSet_other _ _ _ hi

@[simp] theorem State.setConn_pending (s : State) (ip : Nat) (v : Option Conn) : (s.setConn ip v).pending = s.pending := rfl
@[simp] theorem State.setConn_out (s : State) (ip : Nat) (v : Option Conn) : (s.setConn ip v).out = s.out := rfl
@[simp] theorem State.setConn_free (s : State) (ip : Nat) (v : Option Conn) : (s.setConn ip v).free = s.free := rfl
@[simp] theorem State.setConn_dt (s : State) (ip : Nat) (v : Option Conn) : (s.setConn ip v).dt = s.dt := rfl
@[simp] theorem State.setConn_time (s : State) (ip : Nat) (v : Option Conn) : (s.setConn ip v).time = s.time := rfl
@[simp] theorem State.setConn_faults (s : State) (ip : Nat) (v : Option Conn) : (s.setConn ip v).faults = s.faults := rfl
@[simp] theorem State.setConn_host (s : State) (ip : Nat) (v : Option Conn) : (s.setConn ip v).host = s.host := rfl
@[simp] theorem State.setConn_comma (s : State) (ip : Nat) (v : Option Conn) : (s.setConn ip v).comma = s.comma := rfl
@[simp] theorem State.setConn_regions (s : State) (ip : Nat) (v : Option Conn) : (s.setConn ip v).regions = s.regions := rfl
@[simp] theorem State.setConn_loops (s : State) (ip : Nat) (v : Option Conn) : (s.setConn ip v).loops = s.loops := rfl
@[simp] theorem State.setConn_smu (s : State) (ip : Nat) (v : Option Conn) : (s.setConn ip v).smu = s.smu := rfl
@[simp] theorem State.setConn_calib (s : State) (ip : Nat) (v : Option Conn) : (s.setConn ip v).calib = s.calib := rfl
@[simp] theorem State.setConn_paost (s : State) (ip : Nat) (v : Option Conn) : (s.setConn ip v).paost = s.paost := rfl
@[simp] theorem State.setConn_adm (s : State) (ip : Nat) (v : Option Conn) : (s.setConn ip v).adm = s.adm := rfl
@[simp] theorem State.setConn_mem (s : State) (ip : Nat) (v : Option Conn) : (s.setConn ip v).mem = s.mem := rfl
@[simp] theorem State.setConn_matrix (s : State) (ip : Nat) (v : Option Conn) : (s.setConn ip v).matrix = s.matrix := rfl
@[simp] theorem State.setConn_lsu (s : State) (ip : Nat) (v : Option Conn) : (s.setConn ip v).lsu = s.lsu := rfl
@[simp] theorem State.setConn_mate (s : State) (ip : Nat) (v : Option Conn) : (s.setConn ip v).mate = s.mate := rfl
@[simp] theorem State.setConn_chip (s : State) (ip : Nat) (v : Option Conn) : (s.setConn ip v).chip = s.chip := rfl
@[simp] theorem State.setConn_house (s : State) (ip : Nat) (v : Option Conn) : (s.setConn ip v).house = s.house := rfl
@[simp] theorem State.setConn_hostOps (s : State) (ip : Nat) (v : Option Conn) : (s.setConn ip v).hostOps = s.hostOps := rfl
@[simp] theorem State.setConn_store_sentences (s : State) (ip : Nat) (v : Option Conn) : (s.setConn ip v).store.sentences = s.store.sentences := rfl
@[simp] theorem State.setConn_store_nextSerial (s : State) (ip : Nat) (v : Option Conn) : (s.setConn ip v).store.nextSerial = s.store.nextSerial := rfl
@[simp] theorem State.setConn_store_tokenTicks (s : State) (ip : Nat) (v : Option Conn) : (s.setConn ip v).store.tokenTicks = s.store.tokenTicks := rfl
@[simp] theorem State.setConn_store_preps (s : State) (ip : Nat) (v : Option Conn) : (s.setConn ip v).store.preps = s.store.preps := rfl
@[simp] theorem State.setConn_store_nextPrep (s : State) (ip : Nat) (v : Option Conn) : (s.setConn ip v).store.nextPrep = s.store.nextPrep := rfl
@[simp] theorem State.setConn_store_launches (s : State) (ip : Nat) (v : Option Conn) : (s.setConn ip v).store.launches = s.store.launches := rfl
@[simp] theorem State.setConn_store_scheds (s : State) (ip : Nat) (v : Option Conn) : (s.setConn ip v).store.scheds = s.store.scheds := rfl
@[simp] theorem State.setConn_store_paras (s : State) (ip : Nat) (v : Option Conn) : (s.setConn ip v).store.paras = s.store.paras := rfl
@[simp] theorem State.setConn_store_p0Queue (s : State) (ip : Nat) (v : Option Conn) : (s.setConn ip v).store.p0Queue = s.store.p0Queue := rfl
@[simp] theorem State.setConn_store_failedReroutes (s : State) (ip : Nat) (v : Option Conn) : (s.setConn ip v).store.failedReroutes = s.store.failedReroutes := rfl
@[simp] theorem State.setConn_store_lateCancels (s : State) (ip : Nat) (v : Option Conn) : (s.setConn ip v).store.lateCancels = s.store.lateCancels := rfl
@[simp] theorem State.setConn_store_staleFires (s : State) (ip : Nat) (v : Option Conn) : (s.setConn ip v).store.staleFires = s.store.staleFires := rfl
@[simp] theorem State.setConn_store_ignoredTriggers (s : State) (ip : Nat) (v : Option Conn) : (s.setConn ip v).store.ignoredTriggers = s.store.ignoredTriggers := rfl
@[simp] theorem State.setConn_store_selSentence (s : State) (ip : Nat) (v : Option Conn) : (s.setConn ip v).store.selSentence = s.store.selSentence := rfl
@[simp] theorem State.setConn_store_selPara (s : State) (ip : Nat) (v : Option Conn) : (s.setConn ip v).store.selPara = s.store.selPara := rfl
@[simp] theorem State.setConn_store_ptr (s : State) (ip : Nat) (v : Option Conn) : (s.setConn ip v).store.ptr = s.store.ptr := rfl
@[simp] theorem State.setConn_store_routed (s : State) (ip : Nat) (v : Option Conn) : (s.setConn ip v).store.routed = s.store.routed := rfl
@[simp] theorem State.setConn_store_noRoute (s : State) (ip : Nat) (v : Option Conn) : (s.setConn ip v).store.noRoute = s.store.noRoute := rfl
@[simp] theorem State.setConn_store_needsRearrange (s : State) (ip : Nat) (v : Option Conn) : (s.setConn ip v).store.needsRearrange = s.store.needsRearrange := rfl
@[simp] theorem State.setConn_store_moves (s : State) (ip : Nat) (v : Option Conn) : (s.setConn ip v).store.moves = s.store.moves := rfl
@[simp] theorem State.setConn_store_reroutes (s : State) (ip : Nat) (v : Option Conn) : (s.setConn ip v).store.reroutes = s.store.reroutes := rfl
@[simp] theorem State.setConn_store_reroutesFailed (s : State) (ip : Nat) (v : Option Conn) : (s.setConn ip v).store.reroutesFailed = s.store.reroutesFailed := rfl
@[simp] theorem State.setConn_store_p0Fires (s : State) (ip : Nat) (v : Option Conn) : (s.setConn ip v).store.p0Fires = s.store.p0Fires := rfl
@[simp] theorem State.setConn_store_p0BoundLost (s : State) (ip : Nat) (v : Option Conn) : (s.setConn ip v).store.p0BoundLost = s.store.p0BoundLost := rfl
@[simp] theorem State.setConn_store_p0Last (s : State) (ip : Nat) (v : Option Conn) : (s.setConn ip v).store.p0Last = s.store.p0Last := rfl
@[simp] theorem State.setConn_store_p0Max (s : State) (ip : Nat) (v : Option Conn) : (s.setConn ip v).store.p0Max = s.store.p0Max := rfl
@[simp] theorem State.setConn_store_p0Cause (s : State) (ip : Nat) (v : Option Conn) : (s.setConn ip v).store.p0Cause = s.store.p0Cause := rfl
@[simp] theorem State.setConn_same (s : State) (ip : Nat) (v : Option Conn) : (s.setConn ip v).conn ip = v := tabGet_tabSet_same ..
theorem State.setConn_other (s : State) (ip : Nat) (v : Option Conn) {i : Nat} (hi : i ≠ ip) : (s.setConn ip v).conn i = s.conn i := tabGet_tabSet_other _ _ _ hi

@[simp] theorem State.setPara_pending (s : State) (p : Nat) (v : Para) : (s.setPara p v).pending = s.pending := rfl
@[simp] theorem State.setPara_out (s : State) (p : Nat) (v : Para) : (s.setPara p v).out = s.out := rfl
@[simp] theorem State.setPara_free (s : State) (p : Nat) (v : Para) : (s.setPara p v).free = s.free := rfl
@[simp] theorem State.setPara_dt (s : State) (p : Nat) (v : Para) : (s.setPara p v).dt = s.dt := rfl
@[simp] theorem State.setPara_time (s : State) (p : Nat) (v : Para) : (s.setPara p v).time = s.time := rfl
@[simp] theorem State.setPara_faults (s : State) (p : Nat) (v : Para) : (s.setPara p v).faults = s.faults := rfl
@[simp] theorem State.setPara_host (s : State) (p : Nat) (v : Para) : (s.setPara p v).host = s.host := rfl
@[simp] theorem State.setPara_comma (s : State) (p : Nat) (v : Para) : (s.setPara p v).comma = s.comma := rfl
@[simp] theorem State.setPara_regions (s : State) (p : Nat) (v : Para) : (s.setPara p v).regions = s.regions := rfl
@[simp] theorem State.setPara_loops (s : State) (p : Nat) (v : Para) : (s.setPara p v).loops = s.loops := rfl
@[simp] theorem State.setPara_smu (s : State) (p : Nat) (v : Para) : (s.setPara p v).smu = s.smu := rfl
@[simp] theorem State.setPara_calib (s : State) (p : Nat) (v : Para) : (s.setPara p v).calib = s.calib := rfl
@[simp] theorem State.setPara_paost (s : State) (p : Nat) (v : Para) : (s.setPara p v).paost = s.paost := rfl
@[simp] theorem State.setPara_adm (s : State) (p : Nat) (v : Para) : (s.setPara p v).adm = s.adm := rfl
@[simp] theorem State.setPara_mem (s : State) (p : Nat) (v : Para) : (s.setPara p v).mem = s.mem := rfl
@[simp] theorem State.setPara_matrix (s : State) (p : Nat) (v : Para) : (s.setPara p v).matrix = s.matrix := rfl
@[simp] theorem State.setPara_lsu (s : State) (p : Nat) (v : Para) : (s.setPara p v).lsu = s.lsu := rfl
@[simp] theorem State.setPara_mate (s : State) (p : Nat) (v : Para) : (s.setPara p v).mate = s.mate := rfl
@[simp] theorem State.setPara_chip (s : State) (p : Nat) (v : Para) : (s.setPara p v).chip = s.chip := rfl
@[simp] theorem State.setPara_house (s : State) (p : Nat) (v : Para) : (s.setPara p v).house = s.house := rfl
@[simp] theorem State.setPara_hostOps (s : State) (p : Nat) (v : Para) : (s.setPara p v).hostOps = s.hostOps := rfl
@[simp] theorem State.setPara_store_sentences (s : State) (p : Nat) (v : Para) : (s.setPara p v).store.sentences = s.store.sentences := rfl
@[simp] theorem State.setPara_store_table (s : State) (p : Nat) (v : Para) : (s.setPara p v).store.table = s.store.table := rfl
@[simp] theorem State.setPara_store_nextSerial (s : State) (p : Nat) (v : Para) : (s.setPara p v).store.nextSerial = s.store.nextSerial := rfl
@[simp] theorem State.setPara_store_tokenTicks (s : State) (p : Nat) (v : Para) : (s.setPara p v).store.tokenTicks = s.store.tokenTicks := rfl
@[simp] theorem State.setPara_store_preps (s : State) (p : Nat) (v : Para) : (s.setPara p v).store.preps = s.store.preps := rfl
@[simp] theorem State.setPara_store_nextPrep (s : State) (p : Nat) (v : Para) : (s.setPara p v).store.nextPrep = s.store.nextPrep := rfl
@[simp] theorem State.setPara_store_launches (s : State) (p : Nat) (v : Para) : (s.setPara p v).store.launches = s.store.launches := rfl
@[simp] theorem State.setPara_store_scheds (s : State) (p : Nat) (v : Para) : (s.setPara p v).store.scheds = s.store.scheds := rfl
@[simp] theorem State.setPara_store_p0Queue (s : State) (p : Nat) (v : Para) : (s.setPara p v).store.p0Queue = s.store.p0Queue := rfl
@[simp] theorem State.setPara_store_failedReroutes (s : State) (p : Nat) (v : Para) : (s.setPara p v).store.failedReroutes = s.store.failedReroutes := rfl
@[simp] theorem State.setPara_store_lateCancels (s : State) (p : Nat) (v : Para) : (s.setPara p v).store.lateCancels = s.store.lateCancels := rfl
@[simp] theorem State.setPara_store_staleFires (s : State) (p : Nat) (v : Para) : (s.setPara p v).store.staleFires = s.store.staleFires := rfl
@[simp] theorem State.setPara_store_ignoredTriggers (s : State) (p : Nat) (v : Para) : (s.setPara p v).store.ignoredTriggers = s.store.ignoredTriggers := rfl
@[simp] theorem State.setPara_store_selSentence (s : State) (p : Nat) (v : Para) : (s.setPara p v).store.selSentence = s.store.selSentence := rfl
@[simp] theorem State.setPara_store_selPara (s : State) (p : Nat) (v : Para) : (s.setPara p v).store.selPara = s.store.selPara := rfl
@[simp] theorem State.setPara_store_ptr (s : State) (p : Nat) (v : Para) : (s.setPara p v).store.ptr = s.store.ptr := rfl
@[simp] theorem State.setPara_store_routed (s : State) (p : Nat) (v : Para) : (s.setPara p v).store.routed = s.store.routed := rfl
@[simp] theorem State.setPara_store_noRoute (s : State) (p : Nat) (v : Para) : (s.setPara p v).store.noRoute = s.store.noRoute := rfl
@[simp] theorem State.setPara_store_needsRearrange (s : State) (p : Nat) (v : Para) : (s.setPara p v).store.needsRearrange = s.store.needsRearrange := rfl
@[simp] theorem State.setPara_store_moves (s : State) (p : Nat) (v : Para) : (s.setPara p v).store.moves = s.store.moves := rfl
@[simp] theorem State.setPara_store_reroutes (s : State) (p : Nat) (v : Para) : (s.setPara p v).store.reroutes = s.store.reroutes := rfl
@[simp] theorem State.setPara_store_reroutesFailed (s : State) (p : Nat) (v : Para) : (s.setPara p v).store.reroutesFailed = s.store.reroutesFailed := rfl
@[simp] theorem State.setPara_store_p0Fires (s : State) (p : Nat) (v : Para) : (s.setPara p v).store.p0Fires = s.store.p0Fires := rfl
@[simp] theorem State.setPara_store_p0BoundLost (s : State) (p : Nat) (v : Para) : (s.setPara p v).store.p0BoundLost = s.store.p0BoundLost := rfl
@[simp] theorem State.setPara_store_p0Last (s : State) (p : Nat) (v : Para) : (s.setPara p v).store.p0Last = s.store.p0Last := rfl
@[simp] theorem State.setPara_store_p0Max (s : State) (p : Nat) (v : Para) : (s.setPara p v).store.p0Max = s.store.p0Max := rfl
@[simp] theorem State.setPara_store_p0Cause (s : State) (p : Nat) (v : Para) : (s.setPara p v).store.p0Cause = s.store.p0Cause := rfl
@[simp] theorem State.setPara_same (s : State) (p : Nat) (v : Para) : (s.setPara p v).para p = v := tabGet_tabSet_same ..
theorem State.setPara_other (s : State) (p : Nat) (v : Para) {i : Nat} (hi : i ≠ p) : (s.setPara p v).para i = s.para i := tabGet_tabSet_other _ _ _ hi

@[simp] theorem State.setBank_pending (s : State) (b : Nat) (v : BankState) : (s.setBank b v).pending = s.pending := rfl
@[simp] theorem State.setBank_out (s : State) (b : Nat) (v : BankState) : (s.setBank b v).out = s.out := rfl
@[simp] theorem State.setBank_free (s : State) (b : Nat) (v : BankState) : (s.setBank b v).free = s.free := rfl
@[simp] theorem State.setBank_dt (s : State) (b : Nat) (v : BankState) : (s.setBank b v).dt = s.dt := rfl
@[simp] theorem State.setBank_time (s : State) (b : Nat) (v : BankState) : (s.setBank b v).time = s.time := rfl
@[simp] theorem State.setBank_faults (s : State) (b : Nat) (v : BankState) : (s.setBank b v).faults = s.faults := rfl
@[simp] theorem State.setBank_host (s : State) (b : Nat) (v : BankState) : (s.setBank b v).host = s.host := rfl
@[simp] theorem State.setBank_comma (s : State) (b : Nat) (v : BankState) : (s.setBank b v).comma = s.comma := rfl
@[simp] theorem State.setBank_regions (s : State) (b : Nat) (v : BankState) : (s.setBank b v).regions = s.regions := rfl
@[simp] theorem State.setBank_store (s : State) (b : Nat) (v : BankState) : (s.setBank b v).store = s.store := rfl
@[simp] theorem State.setBank_loops (s : State) (b : Nat) (v : BankState) : (s.setBank b v).loops = s.loops := rfl
@[simp] theorem State.setBank_smu (s : State) (b : Nat) (v : BankState) : (s.setBank b v).smu = s.smu := rfl
@[simp] theorem State.setBank_calib (s : State) (b : Nat) (v : BankState) : (s.setBank b v).calib = s.calib := rfl
@[simp] theorem State.setBank_paost (s : State) (b : Nat) (v : BankState) : (s.setBank b v).paost = s.paost := rfl
@[simp] theorem State.setBank_adm (s : State) (b : Nat) (v : BankState) : (s.setBank b v).adm = s.adm := rfl
@[simp] theorem State.setBank_matrix (s : State) (b : Nat) (v : BankState) : (s.setBank b v).matrix = s.matrix := rfl
@[simp] theorem State.setBank_lsu (s : State) (b : Nat) (v : BankState) : (s.setBank b v).lsu = s.lsu := rfl
@[simp] theorem State.setBank_mate (s : State) (b : Nat) (v : BankState) : (s.setBank b v).mate = s.mate := rfl
@[simp] theorem State.setBank_chip (s : State) (b : Nat) (v : BankState) : (s.setBank b v).chip = s.chip := rfl
@[simp] theorem State.setBank_house (s : State) (b : Nat) (v : BankState) : (s.setBank b v).house = s.house := rfl
@[simp] theorem State.setBank_hostOps (s : State) (b : Nat) (v : BankState) : (s.setBank b v).hostOps = s.hostOps := rfl
@[simp] theorem State.setBank_mem_bytes (s : State) (b : Nat) (v : BankState) : (s.setBank b v).mem.bytes = s.mem.bytes := rfl
@[simp] theorem State.setBank_mem_clean (s : State) (b : Nat) (v : BankState) : (s.setBank b v).mem.clean = s.mem.clean := rfl
@[simp] theorem State.setBank_mem_ownErr (s : State) (b : Nat) (v : BankState) : (s.setBank b v).mem.ownErr = s.mem.ownErr := rfl
@[simp] theorem State.setBank_mem_powerErr (s : State) (b : Nat) (v : BankState) : (s.setBank b v).mem.powerErr = s.mem.powerErr := rfl
@[simp] theorem State.setBank_mem_mxMaster (s : State) (b : Nat) (v : BankState) : (s.setBank b v).mem.mxMaster = s.mem.mxMaster := rfl
@[simp] theorem State.setBank_mem_mxTarget (s : State) (b : Nat) (v : BankState) : (s.setBank b v).mem.mxTarget = s.mem.mxTarget := rfl
@[simp] theorem State.setBank_mem_mxPrio (s : State) (b : Nat) (v : BankState) : (s.setBank b v).mem.mxPrio = s.mem.mxPrio := rfl
@[simp] theorem State.setBank_mem_mxAge (s : State) (b : Nat) (v : BankState) : (s.setBank b v).mem.mxAge = s.mem.mxAge := rfl
@[simp] theorem State.setBank_same (s : State) (b : Nat) (v : BankState) : (s.setBank b v).bank b = v := tabGet_tabSet_same ..
theorem State.setBank_other (s : State) (b : Nat) (v : BankState) {i : Nat} (hi : i ≠ b) : (s.setBank b v).bank i = s.bank i := tabGet_tabSet_other _ _ _ hi

@[simp] theorem State.setChan_pending (s : State) (c : Nat) (v : DmaChan) : (s.setChan c v).pending = s.pending := rfl
@[simp] theorem State.setChan_out (s : State) (c : Nat) (v : DmaChan) : (s.setChan c v).out = s.out := rfl
@[simp] theorem State.setChan_free (s : State) (c : Nat) (v : DmaChan) : (s.setChan c v).free = s.free := rfl
@[simp] theorem State.setChan_dt (s : State) (c : Nat) (v : DmaChan) : (s.setChan c v).dt = s.dt := rfl
@[simp] theorem State.setChan_time (s : State) (c : Nat) (v : DmaChan) : (s.setChan c v).time = s.time := rfl
@[simp] theorem State.setChan_faults (s : State) (c : Nat) (v : DmaChan) : (s.setChan c v).faults = s.faults := rfl
@[simp] theorem State.setChan_host (s : State) (c : Nat) (v : DmaChan) : (s.setChan c v).host = s.host := rfl
@[simp] theorem State.setChan_comma (s : State) (c : Nat) (v : DmaChan) : (s.setChan c v).comma = s.comma := rfl
@[simp] theorem State.setChan_regions (s : State) (c : Nat) (v : DmaChan) : (s.setChan c v).regions = s.regions := rfl
@[simp] theorem State.setChan_store (s : State) (c : Nat) (v : DmaChan) : (s.setChan c v).store = s.store := rfl
@[simp] theorem State.setChan_loops (s : State) (c : Nat) (v : DmaChan) : (s.setChan c v).loops = s.loops := rfl
@[simp] theorem State.setChan_smu (s : State) (c : Nat) (v : DmaChan) : (s.setChan c v).smu = s.smu := rfl
@[simp] theorem State.setChan_calib (s : State) (c : Nat) (v : DmaChan) : (s.setChan c v).calib = s.calib := rfl
@[simp] theorem State.setChan_paost (s : State) (c : Nat) (v : DmaChan) : (s.setChan c v).paost = s.paost := rfl
@[simp] theorem State.setChan_adm (s : State) (c : Nat) (v : DmaChan) : (s.setChan c v).adm = s.adm := rfl
@[simp] theorem State.setChan_matrix (s : State) (c : Nat) (v : DmaChan) : (s.setChan c v).matrix = s.matrix := rfl
@[simp] theorem State.setChan_lsu (s : State) (c : Nat) (v : DmaChan) : (s.setChan c v).lsu = s.lsu := rfl
@[simp] theorem State.setChan_mate (s : State) (c : Nat) (v : DmaChan) : (s.setChan c v).mate = s.mate := rfl
@[simp] theorem State.setChan_chip (s : State) (c : Nat) (v : DmaChan) : (s.setChan c v).chip = s.chip := rfl
@[simp] theorem State.setChan_house (s : State) (c : Nat) (v : DmaChan) : (s.setChan c v).house = s.house := rfl
@[simp] theorem State.setChan_hostOps (s : State) (c : Nat) (v : DmaChan) : (s.setChan c v).hostOps = s.hostOps := rfl
@[simp] theorem State.setChan_mem_bytes (s : State) (c : Nat) (v : DmaChan) : (s.setChan c v).mem.bytes = s.mem.bytes := rfl
@[simp] theorem State.setChan_mem_clean (s : State) (c : Nat) (v : DmaChan) : (s.setChan c v).mem.clean = s.mem.clean := rfl
@[simp] theorem State.setChan_mem_banks (s : State) (c : Nat) (v : DmaChan) : (s.setChan c v).mem.banks = s.mem.banks := rfl
@[simp] theorem State.setChan_mem_ownErr (s : State) (c : Nat) (v : DmaChan) : (s.setChan c v).mem.ownErr = s.mem.ownErr := rfl
@[simp] theorem State.setChan_mem_powerErr (s : State) (c : Nat) (v : DmaChan) : (s.setChan c v).mem.powerErr = s.mem.powerErr := rfl
@[simp] theorem State.setChan_mem_mxMaster (s : State) (c : Nat) (v : DmaChan) : (s.setChan c v).mem.mxMaster = s.mem.mxMaster := rfl
@[simp] theorem State.setChan_mem_mxTarget (s : State) (c : Nat) (v : DmaChan) : (s.setChan c v).mem.mxTarget = s.mem.mxTarget := rfl
@[simp] theorem State.setChan_mem_mxPrio (s : State) (c : Nat) (v : DmaChan) : (s.setChan c v).mem.mxPrio = s.mem.mxPrio := rfl
@[simp] theorem State.setChan_mem_mxAge (s : State) (c : Nat) (v : DmaChan) : (s.setChan c v).mem.mxAge = s.mem.mxAge := rfl
@[simp] theorem State.setChan_same (s : State) (c : Nat) (v : DmaChan) : (s.setChan c v).chan c = v := tabGet_tabSet_same ..
theorem State.setChan_other (s : State) (c : Nat) (v : DmaChan) {i : Nat} (hi : i ≠ c) : (s.setChan c v).chan i = s.chan i := tabGet_tabSet_other _ _ _ hi

@[simp] theorem State.setMonitor_pending (s : State) (m : Nat) (v : Monitor) : (s.setMonitor m v).pending = s.pending := rfl
@[simp] theorem State.setMonitor_out (s : State) (m : Nat) (v : Monitor) : (s.setMonitor m v).out = s.out := rfl
@[simp] theorem State.setMonitor_free (s : State) (m : Nat) (v : Monitor) : (s.setMonitor m v).free = s.free := rfl
@[simp] theorem State.setMonitor_dt (s : State) (m : Nat) (v : Monitor) : (s.setMonitor m v).dt = s.dt := rfl
@[simp] theorem State.setMonitor_time (s : State) (m : Nat) (v : Monitor) : (s.setMonitor m v).time = s.time := rfl
@[simp] theorem State.setMonitor_faults (s : State) (m : Nat) (v : Monitor) : (s.setMonitor m v).faults = s.faults := rfl
@[simp] theorem State.setMonitor_host (s : State) (m : Nat) (v : Monitor) : (s.setMonitor m v).host = s.host := rfl
@[simp] theorem State.setMonitor_comma (s : State) (m : Nat) (v : Monitor) : (s.setMonitor m v).comma = s.comma := rfl
@[simp] theorem State.setMonitor_regions (s : State) (m : Nat) (v : Monitor) : (s.setMonitor m v).regions = s.regions := rfl
@[simp] theorem State.setMonitor_store (s : State) (m : Nat) (v : Monitor) : (s.setMonitor m v).store = s.store := rfl
@[simp] theorem State.setMonitor_loops (s : State) (m : Nat) (v : Monitor) : (s.setMonitor m v).loops = s.loops := rfl
@[simp] theorem State.setMonitor_calib (s : State) (m : Nat) (v : Monitor) : (s.setMonitor m v).calib = s.calib := rfl
@[simp] theorem State.setMonitor_paost (s : State) (m : Nat) (v : Monitor) : (s.setMonitor m v).paost = s.paost := rfl
@[simp] theorem State.setMonitor_adm (s : State) (m : Nat) (v : Monitor) : (s.setMonitor m v).adm = s.adm := rfl
@[simp] theorem State.setMonitor_mem (s : State) (m : Nat) (v : Monitor) : (s.setMonitor m v).mem = s.mem := rfl
@[simp] theorem State.setMonitor_matrix (s : State) (m : Nat) (v : Monitor) : (s.setMonitor m v).matrix = s.matrix := rfl
@[simp] theorem State.setMonitor_lsu (s : State) (m : Nat) (v : Monitor) : (s.setMonitor m v).lsu = s.lsu := rfl
@[simp] theorem State.setMonitor_mate (s : State) (m : Nat) (v : Monitor) : (s.setMonitor m v).mate = s.mate := rfl
@[simp] theorem State.setMonitor_chip (s : State) (m : Nat) (v : Monitor) : (s.setMonitor m v).chip = s.chip := rfl
@[simp] theorem State.setMonitor_house (s : State) (m : Nat) (v : Monitor) : (s.setMonitor m v).house = s.house := rfl
@[simp] theorem State.setMonitor_hostOps (s : State) (m : Nat) (v : Monitor) : (s.setMonitor m v).hostOps = s.hostOps := rfl
@[simp] theorem State.setMonitor_smu_lists (s : State) (m : Nat) (v : Monitor) : (s.setMonitor m v).smu.lists = s.smu.lists := rfl
@[simp] theorem State.setMonitor_smu_runs (s : State) (m : Nat) (v : Monitor) : (s.setMonitor m v).smu.runs = s.smu.runs := rfl
@[simp] theorem State.setMonitor_smu_busFault (s : State) (m : Nat) (v : Monitor) : (s.setMonitor m v).smu.busFault = s.smu.busFault := rfl
@[simp] theorem State.setMonitor_smu_compliance (s : State) (m : Nat) (v : Monitor) : (s.setMonitor m v).smu.compliance = s.smu.compliance := rfl
@[simp] theorem State.setMonitor_smu_rangeChanges (s : State) (m : Nat) (v : Monitor) : (s.setMonitor m v).smu.rangeChanges = s.smu.rangeChanges := rfl
@[simp] theorem State.setMonitor_smu_portSel (s : State) (m : Nat) (v : Monitor) : (s.setMonitor m v).smu.portSel = s.smu.portSel := rfl
@[simp] theorem State.setMonitor_smu_portSelIn (s : State) (m : Nat) (v : Monitor) : (s.setMonitor m v).smu.portSelIn = s.smu.portSelIn := rfl
@[simp] theorem State.setMonitor_smu_portResult (s : State) (m : Nat) (v : Monitor) : (s.setMonitor m v).smu.portResult = s.smu.portResult := rfl
@[simp] theorem State.setMonitor_smu_ssTarget (s : State) (m : Nat) (v : Monitor) : (s.setMonitor m v).smu.ssTarget = s.smu.ssTarget := rfl
@[simp] theorem State.setMonitor_smu_ssActuator (s : State) (m : Nat) (v : Monitor) : (s.setMonitor m v).smu.ssActuator = s.smu.ssActuator := rfl
@[simp] theorem State.setMonitor_smu_ssTrigLost (s : State) (m : Nat) (v : Monitor) : (s.setMonitor m v).smu.ssTrigLost = s.smu.ssTrigLost := rfl
@[simp] theorem State.setMonitor_smu_ssPoint (s : State) (m : Nat) (v : Monitor) : (s.setMonitor m v).smu.ssPoint = s.smu.ssPoint := rfl
@[simp] theorem State.setMonitor_smu_ssRun (s : State) (m : Nat) (v : Monitor) : (s.setMonitor m v).smu.ssRun = s.smu.ssRun := rfl
@[simp] theorem State.setMonitor_smu_ssResult (s : State) (m : Nat) (v : Monitor) : (s.setMonitor m v).smu.ssResult = s.smu.ssResult := rfl
@[simp] theorem State.setMonitor_smu_ref0 (s : State) (m : Nat) (v : Monitor) : (s.setMonitor m v).smu.ref0 = s.smu.ref0 := rfl
@[simp] theorem State.setMonitor_smu_ref1 (s : State) (m : Nat) (v : Monitor) : (s.setMonitor m v).smu.ref1 = s.smu.ref1 := rfl
@[simp] theorem State.setMonitor_smu_refSel1 (s : State) (m : Nat) (v : Monitor) : (s.setMonitor m v).smu.refSel1 = s.smu.refSel1 := rfl
@[simp] theorem State.setMonitor_smu_refBusy (s : State) (m : Nat) (v : Monitor) : (s.setMonitor m v).smu.refBusy = s.smu.refBusy := rfl
@[simp] theorem State.setMonitor_smu_refResult (s : State) (m : Nat) (v : Monitor) : (s.setMonitor m v).smu.refResult = s.smu.refResult := rfl
@[simp] theorem State.setMonitor_smu_refConflict (s : State) (m : Nat) (v : Monitor) : (s.setMonitor m v).smu.refConflict = s.smu.refConflict := rfl
@[simp] theorem State.setMonitor_smu_refTrigLost (s : State) (m : Nat) (v : Monitor) : (s.setMonitor m v).smu.refTrigLost = s.smu.refTrigLost := rfl
@[simp] theorem State.setMonitor_smu_bus (s : State) (m : Nat) (v : Monitor) : (s.setMonitor m v).smu.bus = s.smu.bus := rfl
@[simp] theorem State.setMonitor_smu_busLostAt (s : State) (m : Nat) (v : Monitor) : (s.setMonitor m v).smu.busLostAt = s.smu.busLostAt := rfl
@[simp] theorem State.setMonitor_smu_busTile (s : State) (m : Nat) (v : Monitor) : (s.setMonitor m v).smu.busTile = s.smu.busTile := rfl
@[simp] theorem State.setMonitor_smu_busChannel (s : State) (m : Nat) (v : Monitor) : (s.setMonitor m v).smu.busChannel = s.smu.busChannel := rfl
@[simp] theorem State.setMonitor_smu_busRequest (s : State) (m : Nat) (v : Monitor) : (s.setMonitor m v).smu.busRequest = s.smu.busRequest := rfl
@[simp] theorem State.setMonitor_same (s : State) (m : Nat) (v : Monitor) : (s.setMonitor m v).monitor m = v := tabGet_tabSet_same ..
theorem State.setMonitor_other (s : State) (m : Nat) (v : Monitor) {i : Nat} (hi : i ≠ m) : (s.setMonitor m v).monitor i = s.monitor i := tabGet_tabSet_other _ _ _ hi

@[simp] theorem State.setRun_pending (s : State) (l : Nat) (v : Option Run) : (s.setRun l v).pending = s.pending := rfl
@[simp] theorem State.setRun_out (s : State) (l : Nat) (v : Option Run) : (s.setRun l v).out = s.out := rfl
@[simp] theorem State.setRun_free (s : State) (l : Nat) (v : Option Run) : (s.setRun l v).free = s.free := rfl
@[simp] theorem State.setRun_dt (s : State) (l : Nat) (v : Option Run) : (s.setRun l v).dt = s.dt := rfl
@[simp] theorem State.setRun_time (s : State) (l : Nat) (v : Option Run) : (s.setRun l v).time = s.time := rfl
@[simp] theorem State.setRun_faults (s : State) (l : Nat) (v : Option Run) : (s.setRun l v).faults = s.faults := rfl
@[simp] theorem State.setRun_host (s : State) (l : Nat) (v : Option Run) : (s.setRun l v).host = s.host := rfl
@[simp] theorem State.setRun_comma (s : State) (l : Nat) (v : Option Run) : (s.setRun l v).comma = s.comma := rfl
@[simp] theorem State.setRun_regions (s : State) (l : Nat) (v : Option Run) : (s.setRun l v).regions = s.regions := rfl
@[simp] theorem State.setRun_store (s : State) (l : Nat) (v : Option Run) : (s.setRun l v).store = s.store := rfl
@[simp] theorem State.setRun_loops (s : State) (l : Nat) (v : Option Run) : (s.setRun l v).loops = s.loops := rfl
@[simp] theorem State.setRun_calib (s : State) (l : Nat) (v : Option Run) : (s.setRun l v).calib = s.calib := rfl
@[simp] theorem State.setRun_paost (s : State) (l : Nat) (v : Option Run) : (s.setRun l v).paost = s.paost := rfl
@[simp] theorem State.setRun_adm (s : State) (l : Nat) (v : Option Run) : (s.setRun l v).adm = s.adm := rfl
@[simp] theorem State.setRun_mem (s : State) (l : Nat) (v : Option Run) : (s.setRun l v).mem = s.mem := rfl
@[simp] theorem State.setRun_matrix (s : State) (l : Nat) (v : Option Run) : (s.setRun l v).matrix = s.matrix := rfl
@[simp] theorem State.setRun_lsu (s : State) (l : Nat) (v : Option Run) : (s.setRun l v).lsu = s.lsu := rfl
@[simp] theorem State.setRun_mate (s : State) (l : Nat) (v : Option Run) : (s.setRun l v).mate = s.mate := rfl
@[simp] theorem State.setRun_chip (s : State) (l : Nat) (v : Option Run) : (s.setRun l v).chip = s.chip := rfl
@[simp] theorem State.setRun_house (s : State) (l : Nat) (v : Option Run) : (s.setRun l v).house = s.house := rfl
@[simp] theorem State.setRun_hostOps (s : State) (l : Nat) (v : Option Run) : (s.setRun l v).hostOps = s.hostOps := rfl
@[simp] theorem State.setRun_smu_monitors (s : State) (l : Nat) (v : Option Run) : (s.setRun l v).smu.monitors = s.smu.monitors := rfl
@[simp] theorem State.setRun_smu_lists (s : State) (l : Nat) (v : Option Run) : (s.setRun l v).smu.lists = s.smu.lists := rfl
@[simp] theorem State.setRun_smu_busFault (s : State) (l : Nat) (v : Option Run) : (s.setRun l v).smu.busFault = s.smu.busFault := rfl
@[simp] theorem State.setRun_smu_compliance (s : State) (l : Nat) (v : Option Run) : (s.setRun l v).smu.compliance = s.smu.compliance := rfl
@[simp] theorem State.setRun_smu_rangeChanges (s : State) (l : Nat) (v : Option Run) : (s.setRun l v).smu.rangeChanges = s.smu.rangeChanges := rfl
@[simp] theorem State.setRun_smu_portSel (s : State) (l : Nat) (v : Option Run) : (s.setRun l v).smu.portSel = s.smu.portSel := rfl
@[simp] theorem State.setRun_smu_portSelIn (s : State) (l : Nat) (v : Option Run) : (s.setRun l v).smu.portSelIn = s.smu.portSelIn := rfl
@[simp] theorem State.setRun_smu_portResult (s : State) (l : Nat) (v : Option Run) : (s.setRun l v).smu.portResult = s.smu.portResult := rfl
@[simp] theorem State.setRun_smu_ssTarget (s : State) (l : Nat) (v : Option Run) : (s.setRun l v).smu.ssTarget = s.smu.ssTarget := rfl
@[simp] theorem State.setRun_smu_ssActuator (s : State) (l : Nat) (v : Option Run) : (s.setRun l v).smu.ssActuator = s.smu.ssActuator := rfl
@[simp] theorem State.setRun_smu_ssTrigLost (s : State) (l : Nat) (v : Option Run) : (s.setRun l v).smu.ssTrigLost = s.smu.ssTrigLost := rfl
@[simp] theorem State.setRun_smu_ssPoint (s : State) (l : Nat) (v : Option Run) : (s.setRun l v).smu.ssPoint = s.smu.ssPoint := rfl
@[simp] theorem State.setRun_smu_ssRun (s : State) (l : Nat) (v : Option Run) : (s.setRun l v).smu.ssRun = s.smu.ssRun := rfl
@[simp] theorem State.setRun_smu_ssResult (s : State) (l : Nat) (v : Option Run) : (s.setRun l v).smu.ssResult = s.smu.ssResult := rfl
@[simp] theorem State.setRun_smu_ref0 (s : State) (l : Nat) (v : Option Run) : (s.setRun l v).smu.ref0 = s.smu.ref0 := rfl
@[simp] theorem State.setRun_smu_ref1 (s : State) (l : Nat) (v : Option Run) : (s.setRun l v).smu.ref1 = s.smu.ref1 := rfl
@[simp] theorem State.setRun_smu_refSel1 (s : State) (l : Nat) (v : Option Run) : (s.setRun l v).smu.refSel1 = s.smu.refSel1 := rfl
@[simp] theorem State.setRun_smu_refBusy (s : State) (l : Nat) (v : Option Run) : (s.setRun l v).smu.refBusy = s.smu.refBusy := rfl
@[simp] theorem State.setRun_smu_refResult (s : State) (l : Nat) (v : Option Run) : (s.setRun l v).smu.refResult = s.smu.refResult := rfl
@[simp] theorem State.setRun_smu_refConflict (s : State) (l : Nat) (v : Option Run) : (s.setRun l v).smu.refConflict = s.smu.refConflict := rfl
@[simp] theorem State.setRun_smu_refTrigLost (s : State) (l : Nat) (v : Option Run) : (s.setRun l v).smu.refTrigLost = s.smu.refTrigLost := rfl
@[simp] theorem State.setRun_smu_bus (s : State) (l : Nat) (v : Option Run) : (s.setRun l v).smu.bus = s.smu.bus := rfl
@[simp] theorem State.setRun_smu_busLostAt (s : State) (l : Nat) (v : Option Run) : (s.setRun l v).smu.busLostAt = s.smu.busLostAt := rfl
@[simp] theorem State.setRun_smu_busTile (s : State) (l : Nat) (v : Option Run) : (s.setRun l v).smu.busTile = s.smu.busTile := rfl
@[simp] theorem State.setRun_smu_busChannel (s : State) (l : Nat) (v : Option Run) : (s.setRun l v).smu.busChannel = s.smu.busChannel := rfl
@[simp] theorem State.setRun_smu_busRequest (s : State) (l : Nat) (v : Option Run) : (s.setRun l v).smu.busRequest = s.smu.busRequest := rfl
@[simp] theorem State.setRun_same (s : State) (l : Nat) (v : Option Run) : (s.setRun l v).run l = v := tabGet_tabSet_same ..
theorem State.setRun_other (s : State) (l : Nat) (v : Option Run) {i : Nat} (hi : i ≠ l) : (s.setRun l v).run i = s.run i := tabGet_tabSet_other _ _ _ hi

@[simp] theorem State.setPeer_pending (s : State) (p : Nat) (v : Peer) : (s.setPeer p v).pending = s.pending := rfl
@[simp] theorem State.setPeer_out (s : State) (p : Nat) (v : Peer) : (s.setPeer p v).out = s.out := rfl
@[simp] theorem State.setPeer_free (s : State) (p : Nat) (v : Peer) : (s.setPeer p v).free = s.free := rfl
@[simp] theorem State.setPeer_dt (s : State) (p : Nat) (v : Peer) : (s.setPeer p v).dt = s.dt := rfl
@[simp] theorem State.setPeer_time (s : State) (p : Nat) (v : Peer) : (s.setPeer p v).time = s.time := rfl
@[simp] theorem State.setPeer_faults (s : State) (p : Nat) (v : Peer) : (s.setPeer p v).faults = s.faults := rfl
@[simp] theorem State.setPeer_host (s : State) (p : Nat) (v : Peer) : (s.setPeer p v).host = s.host := rfl
@[simp] theorem State.setPeer_comma (s : State) (p : Nat) (v : Peer) : (s.setPeer p v).comma = s.comma := rfl
@[simp] theorem State.setPeer_regions (s : State) (p : Nat) (v : Peer) : (s.setPeer p v).regions = s.regions := rfl
@[simp] theorem State.setPeer_store (s : State) (p : Nat) (v : Peer) : (s.setPeer p v).store = s.store := rfl
@[simp] theorem State.setPeer_loops (s : State) (p : Nat) (v : Peer) : (s.setPeer p v).loops = s.loops := rfl
@[simp] theorem State.setPeer_smu (s : State) (p : Nat) (v : Peer) : (s.setPeer p v).smu = s.smu := rfl
@[simp] theorem State.setPeer_calib (s : State) (p : Nat) (v : Peer) : (s.setPeer p v).calib = s.calib := rfl
@[simp] theorem State.setPeer_paost (s : State) (p : Nat) (v : Peer) : (s.setPeer p v).paost = s.paost := rfl
@[simp] theorem State.setPeer_mem (s : State) (p : Nat) (v : Peer) : (s.setPeer p v).mem = s.mem := rfl
@[simp] theorem State.setPeer_matrix (s : State) (p : Nat) (v : Peer) : (s.setPeer p v).matrix = s.matrix := rfl
@[simp] theorem State.setPeer_lsu (s : State) (p : Nat) (v : Peer) : (s.setPeer p v).lsu = s.lsu := rfl
@[simp] theorem State.setPeer_mate (s : State) (p : Nat) (v : Peer) : (s.setPeer p v).mate = s.mate := rfl
@[simp] theorem State.setPeer_chip (s : State) (p : Nat) (v : Peer) : (s.setPeer p v).chip = s.chip := rfl
@[simp] theorem State.setPeer_house (s : State) (p : Nat) (v : Peer) : (s.setPeer p v).house = s.house := rfl
@[simp] theorem State.setPeer_hostOps (s : State) (p : Nat) (v : Peer) : (s.setPeer p v).hostOps = s.hostOps := rfl
@[simp] theorem State.setPeer_adm_meters (s : State) (p : Nat) (v : Peer) : (s.setPeer p v).adm.meters = s.adm.meters := rfl
@[simp] theorem State.setPeer_adm_pending (s : State) (p : Nat) (v : Peer) : (s.setPeer p v).adm.pending = s.adm.pending := rfl
@[simp] theorem State.setPeer_adm_selSource (s : State) (p : Nat) (v : Peer) : (s.setPeer p v).adm.selSource = s.adm.selSource := rfl
@[simp] theorem State.setPeer_adm_selClass (s : State) (p : Nat) (v : Peer) : (s.setPeer p v).adm.selClass = s.adm.selClass := rfl
@[simp] theorem State.setPeer_adm_meterErr (s : State) (p : Nat) (v : Peer) : (s.setPeer p v).adm.meterErr = s.adm.meterErr := rfl
@[simp] theorem State.setPeer_adm_delayAlarm (s : State) (p : Nat) (v : Peer) : (s.setPeer p v).adm.delayAlarm = s.adm.delayAlarm := rfl
@[simp] theorem State.setPeer_adm_alarms (s : State) (p : Nat) (v : Peer) : (s.setPeer p v).adm.alarms = s.adm.alarms := rfl
@[simp] theorem State.setPeer_adm_tel (s : State) (p : Nat) (v : Peer) : (s.setPeer p v).adm.tel = s.adm.tel := rfl
@[simp] theorem State.setPeer_adm_peerSel (s : State) (p : Nat) (v : Peer) : (s.setPeer p v).adm.peerSel = s.adm.peerSel := rfl
@[simp] theorem State.setPeer_adm_rxSlots (s : State) (p : Nat) (v : Peer) : (s.setPeer p v).adm.rxSlots = s.adm.rxSlots := rfl
@[simp] theorem State.setPeer_adm_sp0Up (s : State) (p : Nat) (v : Peer) : (s.setPeer p v).adm.sp0Up = s.adm.sp0Up := rfl
@[simp] theorem State.setPeer_adm_sp1Up (s : State) (p : Nat) (v : Peer) : (s.setPeer p v).adm.sp1Up = s.adm.sp1Up := rfl
@[simp] theorem State.setPeer_adm_announced (s : State) (p : Nat) (v : Peer) : (s.setPeer p v).adm.announced = s.adm.announced := rfl
@[simp] theorem State.setPeer_adm_queue (s : State) (p : Nat) (v : Peer) : (s.setPeer p v).adm.queue = s.adm.queue := rfl
@[simp] theorem State.setPeer_adm_nextSession (s : State) (p : Nat) (v : Peer) : (s.setPeer p v).adm.nextSession = s.adm.nextSession := rfl
@[simp] theorem State.setPeer_adm_unlisted (s : State) (p : Nat) (v : Peer) : (s.setPeer p v).adm.unlisted = s.adm.unlisted := rfl
@[simp] theorem State.setPeer_same (s : State) (p : Nat) (v : Peer) : (s.setPeer p v).peer p = v := tabGet_tabSet_same ..
theorem State.setPeer_other (s : State) (p : Nat) (v : Peer) {i : Nat} (hi : i ≠ p) : (s.setPeer p v).peer i = s.peer i := tabGet_tabSet_other _ _ _ hi

@[simp] theorem State.setIlk_pending (s : State) (k : Nat) (v : Ilk) : (s.setIlk k v).pending = s.pending := rfl
@[simp] theorem State.setIlk_out (s : State) (k : Nat) (v : Ilk) : (s.setIlk k v).out = s.out := rfl
@[simp] theorem State.setIlk_free (s : State) (k : Nat) (v : Ilk) : (s.setIlk k v).free = s.free := rfl
@[simp] theorem State.setIlk_dt (s : State) (k : Nat) (v : Ilk) : (s.setIlk k v).dt = s.dt := rfl
@[simp] theorem State.setIlk_time (s : State) (k : Nat) (v : Ilk) : (s.setIlk k v).time = s.time := rfl
@[simp] theorem State.setIlk_faults (s : State) (k : Nat) (v : Ilk) : (s.setIlk k v).faults = s.faults := rfl
@[simp] theorem State.setIlk_host (s : State) (k : Nat) (v : Ilk) : (s.setIlk k v).host = s.host := rfl
@[simp] theorem State.setIlk_comma (s : State) (k : Nat) (v : Ilk) : (s.setIlk k v).comma = s.comma := rfl
@[simp] theorem State.setIlk_regions (s : State) (k : Nat) (v : Ilk) : (s.setIlk k v).regions = s.regions := rfl
@[simp] theorem State.setIlk_store (s : State) (k : Nat) (v : Ilk) : (s.setIlk k v).store = s.store := rfl
@[simp] theorem State.setIlk_loops (s : State) (k : Nat) (v : Ilk) : (s.setIlk k v).loops = s.loops := rfl
@[simp] theorem State.setIlk_smu (s : State) (k : Nat) (v : Ilk) : (s.setIlk k v).smu = s.smu := rfl
@[simp] theorem State.setIlk_calib (s : State) (k : Nat) (v : Ilk) : (s.setIlk k v).calib = s.calib := rfl
@[simp] theorem State.setIlk_paost (s : State) (k : Nat) (v : Ilk) : (s.setIlk k v).paost = s.paost := rfl
@[simp] theorem State.setIlk_adm (s : State) (k : Nat) (v : Ilk) : (s.setIlk k v).adm = s.adm := rfl
@[simp] theorem State.setIlk_mem (s : State) (k : Nat) (v : Ilk) : (s.setIlk k v).mem = s.mem := rfl
@[simp] theorem State.setIlk_matrix (s : State) (k : Nat) (v : Ilk) : (s.setIlk k v).matrix = s.matrix := rfl
@[simp] theorem State.setIlk_mate (s : State) (k : Nat) (v : Ilk) : (s.setIlk k v).mate = s.mate := rfl
@[simp] theorem State.setIlk_chip (s : State) (k : Nat) (v : Ilk) : (s.setIlk k v).chip = s.chip := rfl
@[simp] theorem State.setIlk_house (s : State) (k : Nat) (v : Ilk) : (s.setIlk k v).house = s.house := rfl
@[simp] theorem State.setIlk_hostOps (s : State) (k : Nat) (v : Ilk) : (s.setIlk k v).hostOps = s.hostOps := rfl
@[simp] theorem State.setIlk_lsu_words (s : State) (k : Nat) (v : Ilk) : (s.setIlk k v).lsu.words = s.lsu.words := rfl
@[simp] theorem State.setIlk_lsu_paramOk (s : State) (k : Nat) (v : Ilk) : (s.setIlk k v).lsu.paramOk = s.lsu.paramOk := rfl
@[simp] theorem State.setIlk_lsu_commissioned (s : State) (k : Nat) (v : Ilk) : (s.setIlk k v).lsu.commissioned = s.lsu.commissioned := rfl
@[simp] theorem State.setIlk_lsu_safeState (s : State) (k : Nat) (v : Ilk) : (s.setIlk k v).lsu.safeState = s.lsu.safeState := rfl
@[simp] theorem State.setIlk_lsu_fault (s : State) (k : Nat) (v : Ilk) : (s.setIlk k v).lsu.fault = s.lsu.fault := rfl
@[simp] theorem State.setIlk_lsu_commitErr (s : State) (k : Nat) (v : Ilk) : (s.setIlk k v).lsu.commitErr = s.lsu.commitErr := rfl
@[simp] theorem State.setIlk_lsu_recordErr (s : State) (k : Nat) (v : Ilk) : (s.setIlk k v).lsu.recordErr = s.lsu.recordErr := rfl
@[simp] theorem State.setIlk_lsu_keyPhase (s : State) (k : Nat) (v : Ilk) : (s.setIlk k v).lsu.keyPhase = s.lsu.keyPhase := rfl
@[simp] theorem State.setIlk_lsu_keyAt (s : State) (k : Nat) (v : Ilk) : (s.setIlk k v).lsu.keyAt = s.lsu.keyAt := rfl
@[simp] theorem State.setIlk_lsu_check (s : State) (k : Nat) (v : Ilk) : (s.setIlk k v).lsu.check = s.lsu.check := rfl
@[simp] theorem State.setIlk_lsu_committed (s : State) (k : Nat) (v : Ilk) : (s.setIlk k v).lsu.committed = s.lsu.committed := rfl
@[simp] theorem State.setIlk_lsu_recordPending (s : State) (k : Nat) (v : Ilk) : (s.setIlk k v).lsu.recordPending = s.lsu.recordPending := rfl
@[simp] theorem State.setIlk_lsu_record (s : State) (k : Nat) (v : Ilk) : (s.setIlk k v).lsu.record = s.lsu.record := rfl
@[simp] theorem State.setIlk_lsu_lens (s : State) (k : Nat) (v : Ilk) : (s.setIlk k v).lsu.lens = s.lsu.lens := rfl
@[simp] theorem State.setIlk_lsu_rcs (s : State) (k : Nat) (v : Ilk) : (s.setIlk k v).lsu.rcs = s.lsu.rcs := rfl
@[simp] theorem State.setIlk_lsu_incomplete (s : State) (k : Nat) (v : Ilk) : (s.setIlk k v).lsu.incomplete = s.lsu.incomplete := rfl
@[simp] theorem State.setIlk_lsu_passed (s : State) (k : Nat) (v : Ilk) : (s.setIlk k v).lsu.passed = s.lsu.passed := rfl
@[simp] theorem State.setIlk_lsu_cntCrc (s : State) (k : Nat) (v : Ilk) : (s.setIlk k v).lsu.cntCrc = s.lsu.cntCrc := rfl
@[simp] theorem State.setIlk_lsu_cntSeq (s : State) (k : Nat) (v : Ilk) : (s.setIlk k v).lsu.cntSeq = s.lsu.cntSeq := rfl
@[simp] theorem State.setIlk_lsu_cntIdent (s : State) (k : Nat) (v : Ilk) : (s.setIlk k v).lsu.cntIdent = s.lsu.cntIdent := rfl
@[simp] theorem State.setIlk_lsu_cntWd (s : State) (k : Nat) (v : Ilk) : (s.setIlk k v).lsu.cntWd = s.lsu.cntWd := rfl
@[simp] theorem State.setIlk_same (s : State) (k : Nat) (v : Ilk) : (s.setIlk k v).ilk k = v := tabGet_tabSet_same ..
theorem State.setIlk_other (s : State) (k : Nat) (v : Ilk) {i : Nat} (hi : i ≠ k) : (s.setIlk k v).ilk i = s.ilk i := tabGet_tabSet_other _ _ _ hi

@[simp] theorem State.setLen_pending (s : State) (k : Nat) (v : Len) : (s.setLen k v).pending = s.pending := rfl
@[simp] theorem State.setLen_out (s : State) (k : Nat) (v : Len) : (s.setLen k v).out = s.out := rfl
@[simp] theorem State.setLen_free (s : State) (k : Nat) (v : Len) : (s.setLen k v).free = s.free := rfl
@[simp] theorem State.setLen_dt (s : State) (k : Nat) (v : Len) : (s.setLen k v).dt = s.dt := rfl
@[simp] theorem State.setLen_time (s : State) (k : Nat) (v : Len) : (s.setLen k v).time = s.time := rfl
@[simp] theorem State.setLen_faults (s : State) (k : Nat) (v : Len) : (s.setLen k v).faults = s.faults := rfl
@[simp] theorem State.setLen_host (s : State) (k : Nat) (v : Len) : (s.setLen k v).host = s.host := rfl
@[simp] theorem State.setLen_comma (s : State) (k : Nat) (v : Len) : (s.setLen k v).comma = s.comma := rfl
@[simp] theorem State.setLen_regions (s : State) (k : Nat) (v : Len) : (s.setLen k v).regions = s.regions := rfl
@[simp] theorem State.setLen_store (s : State) (k : Nat) (v : Len) : (s.setLen k v).store = s.store := rfl
@[simp] theorem State.setLen_loops (s : State) (k : Nat) (v : Len) : (s.setLen k v).loops = s.loops := rfl
@[simp] theorem State.setLen_smu (s : State) (k : Nat) (v : Len) : (s.setLen k v).smu = s.smu := rfl
@[simp] theorem State.setLen_calib (s : State) (k : Nat) (v : Len) : (s.setLen k v).calib = s.calib := rfl
@[simp] theorem State.setLen_paost (s : State) (k : Nat) (v : Len) : (s.setLen k v).paost = s.paost := rfl
@[simp] theorem State.setLen_adm (s : State) (k : Nat) (v : Len) : (s.setLen k v).adm = s.adm := rfl
@[simp] theorem State.setLen_mem (s : State) (k : Nat) (v : Len) : (s.setLen k v).mem = s.mem := rfl
@[simp] theorem State.setLen_matrix (s : State) (k : Nat) (v : Len) : (s.setLen k v).matrix = s.matrix := rfl
@[simp] theorem State.setLen_mate (s : State) (k : Nat) (v : Len) : (s.setLen k v).mate = s.mate := rfl
@[simp] theorem State.setLen_chip (s : State) (k : Nat) (v : Len) : (s.setLen k v).chip = s.chip := rfl
@[simp] theorem State.setLen_house (s : State) (k : Nat) (v : Len) : (s.setLen k v).house = s.house := rfl
@[simp] theorem State.setLen_hostOps (s : State) (k : Nat) (v : Len) : (s.setLen k v).hostOps = s.hostOps := rfl
@[simp] theorem State.setLen_lsu_words (s : State) (k : Nat) (v : Len) : (s.setLen k v).lsu.words = s.lsu.words := rfl
@[simp] theorem State.setLen_lsu_paramOk (s : State) (k : Nat) (v : Len) : (s.setLen k v).lsu.paramOk = s.lsu.paramOk := rfl
@[simp] theorem State.setLen_lsu_commissioned (s : State) (k : Nat) (v : Len) : (s.setLen k v).lsu.commissioned = s.lsu.commissioned := rfl
@[simp] theorem State.setLen_lsu_safeState (s : State) (k : Nat) (v : Len) : (s.setLen k v).lsu.safeState = s.lsu.safeState := rfl
@[simp] theorem State.setLen_lsu_fault (s : State) (k : Nat) (v : Len) : (s.setLen k v).lsu.fault = s.lsu.fault := rfl
@[simp] theorem State.setLen_lsu_commitErr (s : State) (k : Nat) (v : Len) : (s.setLen k v).lsu.commitErr = s.lsu.commitErr := rfl
@[simp] theorem State.setLen_lsu_recordErr (s : State) (k : Nat) (v : Len) : (s.setLen k v).lsu.recordErr = s.lsu.recordErr := rfl
@[simp] theorem State.setLen_lsu_keyPhase (s : State) (k : Nat) (v : Len) : (s.setLen k v).lsu.keyPhase = s.lsu.keyPhase := rfl
@[simp] theorem State.setLen_lsu_keyAt (s : State) (k : Nat) (v : Len) : (s.setLen k v).lsu.keyAt = s.lsu.keyAt := rfl
@[simp] theorem State.setLen_lsu_check (s : State) (k : Nat) (v : Len) : (s.setLen k v).lsu.check = s.lsu.check := rfl
@[simp] theorem State.setLen_lsu_committed (s : State) (k : Nat) (v : Len) : (s.setLen k v).lsu.committed = s.lsu.committed := rfl
@[simp] theorem State.setLen_lsu_recordPending (s : State) (k : Nat) (v : Len) : (s.setLen k v).lsu.recordPending = s.lsu.recordPending := rfl
@[simp] theorem State.setLen_lsu_record (s : State) (k : Nat) (v : Len) : (s.setLen k v).lsu.record = s.lsu.record := rfl
@[simp] theorem State.setLen_lsu_ilks (s : State) (k : Nat) (v : Len) : (s.setLen k v).lsu.ilks = s.lsu.ilks := rfl
@[simp] theorem State.setLen_lsu_rcs (s : State) (k : Nat) (v : Len) : (s.setLen k v).lsu.rcs = s.lsu.rcs := rfl
@[simp] theorem State.setLen_lsu_incomplete (s : State) (k : Nat) (v : Len) : (s.setLen k v).lsu.incomplete = s.lsu.incomplete := rfl
@[simp] theorem State.setLen_lsu_passed (s : State) (k : Nat) (v : Len) : (s.setLen k v).lsu.passed = s.lsu.passed := rfl
@[simp] theorem State.setLen_lsu_cntCrc (s : State) (k : Nat) (v : Len) : (s.setLen k v).lsu.cntCrc = s.lsu.cntCrc := rfl
@[simp] theorem State.setLen_lsu_cntSeq (s : State) (k : Nat) (v : Len) : (s.setLen k v).lsu.cntSeq = s.lsu.cntSeq := rfl
@[simp] theorem State.setLen_lsu_cntIdent (s : State) (k : Nat) (v : Len) : (s.setLen k v).lsu.cntIdent = s.lsu.cntIdent := rfl
@[simp] theorem State.setLen_lsu_cntWd (s : State) (k : Nat) (v : Len) : (s.setLen k v).lsu.cntWd = s.lsu.cntWd := rfl
@[simp] theorem State.setLen_same (s : State) (k : Nat) (v : Len) : (s.setLen k v).len k = v := tabGet_tabSet_same ..
theorem State.setLen_other (s : State) (k : Nat) (v : Len) {i : Nat} (hi : i ≠ k) : (s.setLen k v).len i = s.len i := tabGet_tabSet_other _ _ _ hi

@[simp] theorem State.setRc_pending (s : State) (j : Nat) (v : Rc) : (s.setRc j v).pending = s.pending := rfl
@[simp] theorem State.setRc_out (s : State) (j : Nat) (v : Rc) : (s.setRc j v).out = s.out := rfl
@[simp] theorem State.setRc_free (s : State) (j : Nat) (v : Rc) : (s.setRc j v).free = s.free := rfl
@[simp] theorem State.setRc_dt (s : State) (j : Nat) (v : Rc) : (s.setRc j v).dt = s.dt := rfl
@[simp] theorem State.setRc_time (s : State) (j : Nat) (v : Rc) : (s.setRc j v).time = s.time := rfl
@[simp] theorem State.setRc_faults (s : State) (j : Nat) (v : Rc) : (s.setRc j v).faults = s.faults := rfl
@[simp] theorem State.setRc_host (s : State) (j : Nat) (v : Rc) : (s.setRc j v).host = s.host := rfl
@[simp] theorem State.setRc_comma (s : State) (j : Nat) (v : Rc) : (s.setRc j v).comma = s.comma := rfl
@[simp] theorem State.setRc_regions (s : State) (j : Nat) (v : Rc) : (s.setRc j v).regions = s.regions := rfl
@[simp] theorem State.setRc_store (s : State) (j : Nat) (v : Rc) : (s.setRc j v).store = s.store := rfl
@[simp] theorem State.setRc_loops (s : State) (j : Nat) (v : Rc) : (s.setRc j v).loops = s.loops := rfl
@[simp] theorem State.setRc_smu (s : State) (j : Nat) (v : Rc) : (s.setRc j v).smu = s.smu := rfl
@[simp] theorem State.setRc_calib (s : State) (j : Nat) (v : Rc) : (s.setRc j v).calib = s.calib := rfl
@[simp] theorem State.setRc_paost (s : State) (j : Nat) (v : Rc) : (s.setRc j v).paost = s.paost := rfl
@[simp] theorem State.setRc_adm (s : State) (j : Nat) (v : Rc) : (s.setRc j v).adm = s.adm := rfl
@[simp] theorem State.setRc_mem (s : State) (j : Nat) (v : Rc) : (s.setRc j v).mem = s.mem := rfl
@[simp] theorem State.setRc_matrix (s : State) (j : Nat) (v : Rc) : (s.setRc j v).matrix = s.matrix := rfl
@[simp] theorem State.setRc_mate (s : State) (j : Nat) (v : Rc) : (s.setRc j v).mate = s.mate := rfl
@[simp] theorem State.setRc_chip (s : State) (j : Nat) (v : Rc) : (s.setRc j v).chip = s.chip := rfl
@[simp] theorem State.setRc_house (s : State) (j : Nat) (v : Rc) : (s.setRc j v).house = s.house := rfl
@[simp] theorem State.setRc_hostOps (s : State) (j : Nat) (v : Rc) : (s.setRc j v).hostOps = s.hostOps := rfl
@[simp] theorem State.setRc_lsu_words (s : State) (j : Nat) (v : Rc) : (s.setRc j v).lsu.words = s.lsu.words := rfl
@[simp] theorem State.setRc_lsu_paramOk (s : State) (j : Nat) (v : Rc) : (s.setRc j v).lsu.paramOk = s.lsu.paramOk := rfl
@[simp] theorem State.setRc_lsu_commissioned (s : State) (j : Nat) (v : Rc) : (s.setRc j v).lsu.commissioned = s.lsu.commissioned := rfl
@[simp] theorem State.setRc_lsu_safeState (s : State) (j : Nat) (v : Rc) : (s.setRc j v).lsu.safeState = s.lsu.safeState := rfl
@[simp] theorem State.setRc_lsu_fault (s : State) (j : Nat) (v : Rc) : (s.setRc j v).lsu.fault = s.lsu.fault := rfl
@[simp] theorem State.setRc_lsu_commitErr (s : State) (j : Nat) (v : Rc) : (s.setRc j v).lsu.commitErr = s.lsu.commitErr := rfl
@[simp] theorem State.setRc_lsu_recordErr (s : State) (j : Nat) (v : Rc) : (s.setRc j v).lsu.recordErr = s.lsu.recordErr := rfl
@[simp] theorem State.setRc_lsu_keyPhase (s : State) (j : Nat) (v : Rc) : (s.setRc j v).lsu.keyPhase = s.lsu.keyPhase := rfl
@[simp] theorem State.setRc_lsu_keyAt (s : State) (j : Nat) (v : Rc) : (s.setRc j v).lsu.keyAt = s.lsu.keyAt := rfl
@[simp] theorem State.setRc_lsu_check (s : State) (j : Nat) (v : Rc) : (s.setRc j v).lsu.check = s.lsu.check := rfl
@[simp] theorem State.setRc_lsu_committed (s : State) (j : Nat) (v : Rc) : (s.setRc j v).lsu.committed = s.lsu.committed := rfl
@[simp] theorem State.setRc_lsu_recordPending (s : State) (j : Nat) (v : Rc) : (s.setRc j v).lsu.recordPending = s.lsu.recordPending := rfl
@[simp] theorem State.setRc_lsu_record (s : State) (j : Nat) (v : Rc) : (s.setRc j v).lsu.record = s.lsu.record := rfl
@[simp] theorem State.setRc_lsu_ilks (s : State) (j : Nat) (v : Rc) : (s.setRc j v).lsu.ilks = s.lsu.ilks := rfl
@[simp] theorem State.setRc_lsu_lens (s : State) (j : Nat) (v : Rc) : (s.setRc j v).lsu.lens = s.lsu.lens := rfl
@[simp] theorem State.setRc_lsu_incomplete (s : State) (j : Nat) (v : Rc) : (s.setRc j v).lsu.incomplete = s.lsu.incomplete := rfl
@[simp] theorem State.setRc_lsu_passed (s : State) (j : Nat) (v : Rc) : (s.setRc j v).lsu.passed = s.lsu.passed := rfl
@[simp] theorem State.setRc_lsu_cntCrc (s : State) (j : Nat) (v : Rc) : (s.setRc j v).lsu.cntCrc = s.lsu.cntCrc := rfl
@[simp] theorem State.setRc_lsu_cntSeq (s : State) (j : Nat) (v : Rc) : (s.setRc j v).lsu.cntSeq = s.lsu.cntSeq := rfl
@[simp] theorem State.setRc_lsu_cntIdent (s : State) (j : Nat) (v : Rc) : (s.setRc j v).lsu.cntIdent = s.lsu.cntIdent := rfl
@[simp] theorem State.setRc_lsu_cntWd (s : State) (j : Nat) (v : Rc) : (s.setRc j v).lsu.cntWd = s.lsu.cntWd := rfl
@[simp] theorem State.setRc_same (s : State) (j : Nat) (v : Rc) : (s.setRc j v).rc j = v := tabGet_tabSet_same ..
theorem State.setRc_other (s : State) (j : Nat) (v : Rc) {i : Nat} (hi : i ≠ j) : (s.setRc j v).rc i = s.rc i := tabGet_tabSet_other _ _ _ hi

@[simp] theorem State.setDac_pending (s : State) (k : Nat) (v : Dac) : (s.setDac k v).pending = s.pending := rfl
@[simp] theorem State.setDac_out (s : State) (k : Nat) (v : Dac) : (s.setDac k v).out = s.out := rfl
@[simp] theorem State.setDac_free (s : State) (k : Nat) (v : Dac) : (s.setDac k v).free = s.free := rfl
@[simp] theorem State.setDac_dt (s : State) (k : Nat) (v : Dac) : (s.setDac k v).dt = s.dt := rfl
@[simp] theorem State.setDac_time (s : State) (k : Nat) (v : Dac) : (s.setDac k v).time = s.time := rfl
@[simp] theorem State.setDac_faults (s : State) (k : Nat) (v : Dac) : (s.setDac k v).faults = s.faults := rfl
@[simp] theorem State.setDac_host (s : State) (k : Nat) (v : Dac) : (s.setDac k v).host = s.host := rfl
@[simp] theorem State.setDac_comma (s : State) (k : Nat) (v : Dac) : (s.setDac k v).comma = s.comma := rfl
@[simp] theorem State.setDac_regions (s : State) (k : Nat) (v : Dac) : (s.setDac k v).regions = s.regions := rfl
@[simp] theorem State.setDac_store (s : State) (k : Nat) (v : Dac) : (s.setDac k v).store = s.store := rfl
@[simp] theorem State.setDac_loops (s : State) (k : Nat) (v : Dac) : (s.setDac k v).loops = s.loops := rfl
@[simp] theorem State.setDac_smu (s : State) (k : Nat) (v : Dac) : (s.setDac k v).smu = s.smu := rfl
@[simp] theorem State.setDac_calib (s : State) (k : Nat) (v : Dac) : (s.setDac k v).calib = s.calib := rfl
@[simp] theorem State.setDac_paost (s : State) (k : Nat) (v : Dac) : (s.setDac k v).paost = s.paost := rfl
@[simp] theorem State.setDac_adm (s : State) (k : Nat) (v : Dac) : (s.setDac k v).adm = s.adm := rfl
@[simp] theorem State.setDac_mem (s : State) (k : Nat) (v : Dac) : (s.setDac k v).mem = s.mem := rfl
@[simp] theorem State.setDac_matrix (s : State) (k : Nat) (v : Dac) : (s.setDac k v).matrix = s.matrix := rfl
@[simp] theorem State.setDac_lsu (s : State) (k : Nat) (v : Dac) : (s.setDac k v).lsu = s.lsu := rfl
@[simp] theorem State.setDac_mate (s : State) (k : Nat) (v : Dac) : (s.setDac k v).mate = s.mate := rfl
@[simp] theorem State.setDac_chip (s : State) (k : Nat) (v : Dac) : (s.setDac k v).chip = s.chip := rfl
@[simp] theorem State.setDac_hostOps (s : State) (k : Nat) (v : Dac) : (s.setDac k v).hostOps = s.hostOps := rfl
@[simp] theorem State.setDac_house_temps (s : State) (k : Nat) (v : Dac) : (s.setDac k v).house.temps = s.house.temps := rfl
@[simp] theorem State.setDac_house_hottest (s : State) (k : Nat) (v : Dac) : (s.setDac k v).house.hottest = s.house.hottest := rfl
@[simp] theorem State.setDac_house_hotSrc (s : State) (k : Nat) (v : Dac) : (s.setDac k v).house.hotSrc = s.house.hotSrc := rfl
@[simp] theorem State.setDac_house_warn (s : State) (k : Nat) (v : Dac) : (s.setDac k v).house.warn = s.house.warn := rfl
@[simp] theorem State.setDac_house_throttle (s : State) (k : Nat) (v : Dac) : (s.setDac k v).house.throttle = s.house.throttle := rfl
@[simp] theorem State.setDac_house_shutdown (s : State) (k : Nat) (v : Dac) : (s.setDac k v).house.shutdown = s.house.shutdown := rfl
@[simp] theorem State.setDac_house_centralBand (s : State) (k : Nat) (v : Dac) : (s.setDac k v).house.centralBand = s.house.centralBand := rfl
@[simp] theorem State.setDac_house_throttles (s : State) (k : Nat) (v : Dac) : (s.setDac k v).house.throttles = s.house.throttles := rfl
@[simp] theorem State.setDac_house_sensorFails (s : State) (k : Nat) (v : Dac) : (s.setDac k v).house.sensorFails = s.house.sensorFails := rfl
@[simp] theorem State.setDac_house_adcRun (s : State) (k : Nat) (v : Dac) : (s.setDac k v).house.adcRun = s.house.adcRun := rfl
@[simp] theorem State.setDac_house_adcLast (s : State) (k : Nat) (v : Dac) : (s.setDac k v).house.adcLast = s.house.adcLast := rfl
@[simp] theorem State.setDac_house_adc (s : State) (k : Nat) (v : Dac) : (s.setDac k v).house.adc = s.house.adc := rfl
@[simp] theorem State.setDac_house_adcEntry (s : State) (k : Nat) (v : Dac) : (s.setDac k v).house.adcEntry = s.house.adcEntry := rfl
@[simp] theorem State.setDac_house_adcStopping (s : State) (k : Nat) (v : Dac) : (s.setDac k v).house.adcStopping = s.house.adcStopping := rfl
@[simp] theorem State.setDac_house_lastRef (s : State) (k : Nat) (v : Dac) : (s.setDac k v).house.lastRef = s.house.lastRef := rfl
@[simp] theorem State.setDac_house_urgInput (s : State) (k : Nat) (v : Dac) : (s.setDac k v).house.urgInput = s.house.urgInput := rfl
@[simp] theorem State.setDac_house_urgRef (s : State) (k : Nat) (v : Dac) : (s.setDac k v).house.urgRef = s.house.urgRef := rfl
@[simp] theorem State.setDac_house_urgAt (s : State) (k : Nat) (v : Dac) : (s.setDac k v).house.urgAt = s.house.urgAt := rfl
@[simp] theorem State.setDac_house_urgBusy (s : State) (k : Nat) (v : Dac) : (s.setDac k v).house.urgBusy = s.house.urgBusy := rfl
@[simp] theorem State.setDac_house_urgTrigLost (s : State) (k : Nat) (v : Dac) : (s.setDac k v).house.urgTrigLost = s.house.urgTrigLost := rfl
@[simp] theorem State.setDac_house_urgResult (s : State) (k : Nat) (v : Dac) : (s.setDac k v).house.urgResult = s.house.urgResult := rfl
@[simp] theorem State.setDac_house_dacClrLow (s : State) (k : Nat) (v : Dac) : (s.setDac k v).house.dacClrLow = s.house.dacClrLow := rfl
@[simp] theorem State.setDac_same (s : State) (k : Nat) (v : Dac) : (s.setDac k v).dac k = v := tabGet_tabSet_same ..
theorem State.setDac_other (s : State) (k : Nat) (v : Dac) {i : Nat} (hi : i ≠ k) : (s.setDac k v).dac i = s.dac i := tabGet_tabSet_other _ _ _ hi

@[simp] theorem State.setAdcEntry_pending (s : State) (e : Nat) (v : AdcEntry) : (s.setAdcEntry e v).pending = s.pending := rfl
@[simp] theorem State.setAdcEntry_out (s : State) (e : Nat) (v : AdcEntry) : (s.setAdcEntry e v).out = s.out := rfl
@[simp] theorem State.setAdcEntry_free (s : State) (e : Nat) (v : AdcEntry) : (s.setAdcEntry e v).free = s.free := rfl
@[simp] theorem State.setAdcEntry_dt (s : State) (e : Nat) (v : AdcEntry) : (s.setAdcEntry e v).dt = s.dt := rfl
@[simp] theorem State.setAdcEntry_time (s : State) (e : Nat) (v : AdcEntry) : (s.setAdcEntry e v).time = s.time := rfl
@[simp] theorem State.setAdcEntry_faults (s : State) (e : Nat) (v : AdcEntry) : (s.setAdcEntry e v).faults = s.faults := rfl
@[simp] theorem State.setAdcEntry_host (s : State) (e : Nat) (v : AdcEntry) : (s.setAdcEntry e v).host = s.host := rfl
@[simp] theorem State.setAdcEntry_comma (s : State) (e : Nat) (v : AdcEntry) : (s.setAdcEntry e v).comma = s.comma := rfl
@[simp] theorem State.setAdcEntry_regions (s : State) (e : Nat) (v : AdcEntry) : (s.setAdcEntry e v).regions = s.regions := rfl
@[simp] theorem State.setAdcEntry_store (s : State) (e : Nat) (v : AdcEntry) : (s.setAdcEntry e v).store = s.store := rfl
@[simp] theorem State.setAdcEntry_loops (s : State) (e : Nat) (v : AdcEntry) : (s.setAdcEntry e v).loops = s.loops := rfl
@[simp] theorem State.setAdcEntry_smu (s : State) (e : Nat) (v : AdcEntry) : (s.setAdcEntry e v).smu = s.smu := rfl
@[simp] theorem State.setAdcEntry_calib (s : State) (e : Nat) (v : AdcEntry) : (s.setAdcEntry e v).calib = s.calib := rfl
@[simp] theorem State.setAdcEntry_paost (s : State) (e : Nat) (v : AdcEntry) : (s.setAdcEntry e v).paost = s.paost := rfl
@[simp] theorem State.setAdcEntry_adm (s : State) (e : Nat) (v : AdcEntry) : (s.setAdcEntry e v).adm = s.adm := rfl
@[simp] theorem State.setAdcEntry_mem (s : State) (e : Nat) (v : AdcEntry) : (s.setAdcEntry e v).mem = s.mem := rfl
@[simp] theorem State.setAdcEntry_matrix (s : State) (e : Nat) (v : AdcEntry) : (s.setAdcEntry e v).matrix = s.matrix := rfl
@[simp] theorem State.setAdcEntry_lsu (s : State) (e : Nat) (v : AdcEntry) : (s.setAdcEntry e v).lsu = s.lsu := rfl
@[simp] theorem State.setAdcEntry_mate (s : State) (e : Nat) (v : AdcEntry) : (s.setAdcEntry e v).mate = s.mate := rfl
@[simp] theorem State.setAdcEntry_chip (s : State) (e : Nat) (v : AdcEntry) : (s.setAdcEntry e v).chip = s.chip := rfl
@[simp] theorem State.setAdcEntry_hostOps (s : State) (e : Nat) (v : AdcEntry) : (s.setAdcEntry e v).hostOps = s.hostOps := rfl
@[simp] theorem State.setAdcEntry_house_temps (s : State) (e : Nat) (v : AdcEntry) : (s.setAdcEntry e v).house.temps = s.house.temps := rfl
@[simp] theorem State.setAdcEntry_house_hottest (s : State) (e : Nat) (v : AdcEntry) : (s.setAdcEntry e v).house.hottest = s.house.hottest := rfl
@[simp] theorem State.setAdcEntry_house_hotSrc (s : State) (e : Nat) (v : AdcEntry) : (s.setAdcEntry e v).house.hotSrc = s.house.hotSrc := rfl
@[simp] theorem State.setAdcEntry_house_warn (s : State) (e : Nat) (v : AdcEntry) : (s.setAdcEntry e v).house.warn = s.house.warn := rfl
@[simp] theorem State.setAdcEntry_house_throttle (s : State) (e : Nat) (v : AdcEntry) : (s.setAdcEntry e v).house.throttle = s.house.throttle := rfl
@[simp] theorem State.setAdcEntry_house_shutdown (s : State) (e : Nat) (v : AdcEntry) : (s.setAdcEntry e v).house.shutdown = s.house.shutdown := rfl
@[simp] theorem State.setAdcEntry_house_centralBand (s : State) (e : Nat) (v : AdcEntry) : (s.setAdcEntry e v).house.centralBand = s.house.centralBand := rfl
@[simp] theorem State.setAdcEntry_house_throttles (s : State) (e : Nat) (v : AdcEntry) : (s.setAdcEntry e v).house.throttles = s.house.throttles := rfl
@[simp] theorem State.setAdcEntry_house_sensorFails (s : State) (e : Nat) (v : AdcEntry) : (s.setAdcEntry e v).house.sensorFails = s.house.sensorFails := rfl
@[simp] theorem State.setAdcEntry_house_adcRun (s : State) (e : Nat) (v : AdcEntry) : (s.setAdcEntry e v).house.adcRun = s.house.adcRun := rfl
@[simp] theorem State.setAdcEntry_house_adcLast (s : State) (e : Nat) (v : AdcEntry) : (s.setAdcEntry e v).house.adcLast = s.house.adcLast := rfl
@[simp] theorem State.setAdcEntry_house_adcEntry (s : State) (e : Nat) (v : AdcEntry) : (s.setAdcEntry e v).house.adcEntry = s.house.adcEntry := rfl
@[simp] theorem State.setAdcEntry_house_adcStopping (s : State) (e : Nat) (v : AdcEntry) : (s.setAdcEntry e v).house.adcStopping = s.house.adcStopping := rfl
@[simp] theorem State.setAdcEntry_house_lastRef (s : State) (e : Nat) (v : AdcEntry) : (s.setAdcEntry e v).house.lastRef = s.house.lastRef := rfl
@[simp] theorem State.setAdcEntry_house_urgInput (s : State) (e : Nat) (v : AdcEntry) : (s.setAdcEntry e v).house.urgInput = s.house.urgInput := rfl
@[simp] theorem State.setAdcEntry_house_urgRef (s : State) (e : Nat) (v : AdcEntry) : (s.setAdcEntry e v).house.urgRef = s.house.urgRef := rfl
@[simp] theorem State.setAdcEntry_house_urgAt (s : State) (e : Nat) (v : AdcEntry) : (s.setAdcEntry e v).house.urgAt = s.house.urgAt := rfl
@[simp] theorem State.setAdcEntry_house_urgBusy (s : State) (e : Nat) (v : AdcEntry) : (s.setAdcEntry e v).house.urgBusy = s.house.urgBusy := rfl
@[simp] theorem State.setAdcEntry_house_urgTrigLost (s : State) (e : Nat) (v : AdcEntry) : (s.setAdcEntry e v).house.urgTrigLost = s.house.urgTrigLost := rfl
@[simp] theorem State.setAdcEntry_house_urgResult (s : State) (e : Nat) (v : AdcEntry) : (s.setAdcEntry e v).house.urgResult = s.house.urgResult := rfl
@[simp] theorem State.setAdcEntry_house_dacs (s : State) (e : Nat) (v : AdcEntry) : (s.setAdcEntry e v).house.dacs = s.house.dacs := rfl
@[simp] theorem State.setAdcEntry_house_dacClrLow (s : State) (e : Nat) (v : AdcEntry) : (s.setAdcEntry e v).house.dacClrLow = s.house.dacClrLow := rfl
@[simp] theorem State.setAdcEntry_same (s : State) (e : Nat) (v : AdcEntry) : (s.setAdcEntry e v).adcEntry e = v := tabGet_tabSet_same ..
theorem State.setAdcEntry_other (s : State) (e : Nat) (v : AdcEntry) {i : Nat} (hi : i ≠ e) : (s.setAdcEntry e v).adcEntry i = s.adcEntry i := tabGet_tabSet_other _ _ _ hi

@[simp] theorem State.emit_pending (s : State) (o : Output) : (s.emit o).pending = s.pending := rfl
@[simp] theorem State.emit_free (s : State) (o : Output) : (s.emit o).free = s.free := rfl
@[simp] theorem State.emit_dt (s : State) (o : Output) : (s.emit o).dt = s.dt := rfl
@[simp] theorem State.emit_time (s : State) (o : Output) : (s.emit o).time = s.time := rfl
@[simp] theorem State.emit_faults (s : State) (o : Output) : (s.emit o).faults = s.faults := rfl
@[simp] theorem State.emit_host (s : State) (o : Output) : (s.emit o).host = s.host := rfl
@[simp] theorem State.emit_comma (s : State) (o : Output) : (s.emit o).comma = s.comma := rfl
@[simp] theorem State.emit_regions (s : State) (o : Output) : (s.emit o).regions = s.regions := rfl
@[simp] theorem State.emit_store (s : State) (o : Output) : (s.emit o).store = s.store := rfl
@[simp] theorem State.emit_loops (s : State) (o : Output) : (s.emit o).loops = s.loops := rfl
@[simp] theorem State.emit_smu (s : State) (o : Output) : (s.emit o).smu = s.smu := rfl
@[simp] theorem State.emit_calib (s : State) (o : Output) : (s.emit o).calib = s.calib := rfl
@[simp] theorem State.emit_paost (s : State) (o : Output) : (s.emit o).paost = s.paost := rfl
@[simp] theorem State.emit_adm (s : State) (o : Output) : (s.emit o).adm = s.adm := rfl
@[simp] theorem State.emit_mem (s : State) (o : Output) : (s.emit o).mem = s.mem := rfl
@[simp] theorem State.emit_matrix (s : State) (o : Output) : (s.emit o).matrix = s.matrix := rfl
@[simp] theorem State.emit_lsu (s : State) (o : Output) : (s.emit o).lsu = s.lsu := rfl
@[simp] theorem State.emit_mate (s : State) (o : Output) : (s.emit o).mate = s.mate := rfl
@[simp] theorem State.emit_chip (s : State) (o : Output) : (s.emit o).chip = s.chip := rfl
@[simp] theorem State.emit_house (s : State) (o : Output) : (s.emit o).house = s.house := rfl
@[simp] theorem State.emit_hostOps (s : State) (o : Output) : (s.emit o).hostOps = s.hostOps := rfl
@[simp] theorem State.emit_out (s : State) (o : Output) : (s.emit o).out = s.out ++ [o] := rfl

@[simp] theorem State.event_pending (s : State) (src : Source) (e : Event) : (s.event src e).pending = s.pending := rfl
@[simp] theorem State.event_out (s : State) (src : Source) (e : Event) : (s.event src e).out = s.out := rfl
@[simp] theorem State.event_free (s : State) (src : Source) (e : Event) : (s.event src e).free = s.free := rfl
@[simp] theorem State.event_dt (s : State) (src : Source) (e : Event) : (s.event src e).dt = s.dt := rfl
@[simp] theorem State.event_time (s : State) (src : Source) (e : Event) : (s.event src e).time = s.time := rfl
@[simp] theorem State.event_faults (s : State) (src : Source) (e : Event) : (s.event src e).faults = s.faults := rfl
@[simp] theorem State.event_comma (s : State) (src : Source) (e : Event) : (s.event src e).comma = s.comma := rfl
@[simp] theorem State.event_regions (s : State) (src : Source) (e : Event) : (s.event src e).regions = s.regions := rfl
@[simp] theorem State.event_store (s : State) (src : Source) (e : Event) : (s.event src e).store = s.store := rfl
@[simp] theorem State.event_loops (s : State) (src : Source) (e : Event) : (s.event src e).loops = s.loops := rfl
@[simp] theorem State.event_smu (s : State) (src : Source) (e : Event) : (s.event src e).smu = s.smu := rfl
@[simp] theorem State.event_calib (s : State) (src : Source) (e : Event) : (s.event src e).calib = s.calib := rfl
@[simp] theorem State.event_paost (s : State) (src : Source) (e : Event) : (s.event src e).paost = s.paost := rfl
@[simp] theorem State.event_adm (s : State) (src : Source) (e : Event) : (s.event src e).adm = s.adm := rfl
@[simp] theorem State.event_mem (s : State) (src : Source) (e : Event) : (s.event src e).mem = s.mem := rfl
@[simp] theorem State.event_matrix (s : State) (src : Source) (e : Event) : (s.event src e).matrix = s.matrix := rfl
@[simp] theorem State.event_lsu (s : State) (src : Source) (e : Event) : (s.event src e).lsu = s.lsu := rfl
@[simp] theorem State.event_mate (s : State) (src : Source) (e : Event) : (s.event src e).mate = s.mate := rfl
@[simp] theorem State.event_chip (s : State) (src : Source) (e : Event) : (s.event src e).chip = s.chip := rfl
@[simp] theorem State.event_house (s : State) (src : Source) (e : Event) : (s.event src e).house = s.house := rfl
@[simp] theorem State.event_hostOps (s : State) (src : Source) (e : Event) : (s.event src e).hostOps = s.hostOps := rfl
@[simp] theorem State.event_host_queues (s : State) (src : Source) (e : Event) : (s.event src e).host.queues = s.host.queues := rfl
@[simp] theorem State.event_host_issues (s : State) (src : Source) (e : Event) : (s.event src e).host.issues = s.host.issues := rfl
@[simp] theorem State.event_host_speed (s : State) (src : Source) (e : Event) : (s.event src e).host.speed = s.host.speed := rfl
@[simp] theorem State.event_host_width (s : State) (src : Source) (e : Event) : (s.event src e).host.width = s.host.width := rfl
@[simp] theorem State.event_host_bme (s : State) (src : Source) (e : Event) : (s.event src e).host.bme = s.host.bme := rfl
@[simp] theorem State.event_host_msixEn (s : State) (src : Source) (e : Event) : (s.event src e).host.msixEn = s.host.msixEn := rfl
@[simp] theorem State.event_host_flrCount (s : State) (src : Source) (e : Event) : (s.event src e).host.flrCount = s.host.flrCount := rfl
@[simp] theorem State.event_host_apertureDenied (s : State) (src : Source) (e : Event) : (s.event src e).host.apertureDenied = s.host.apertureDenied := rfl
@[simp] theorem State.event_host_d3hot (s : State) (src : Source) (e : Event) : (s.event src e).host.d3hot = s.host.d3hot := rfl
@[simp] theorem State.event_host_perst (s : State) (src : Source) (e : Event) : (s.event src e).host.perst = s.host.perst := rfl
@[simp] theorem State.event_host_msixAddr (s : State) (src : Source) (e : Event) : (s.event src e).host.msixAddr = s.host.msixAddr := rfl
@[simp] theorem State.event_host_msixData (s : State) (src : Source) (e : Event) : (s.event src e).host.msixData = s.host.msixData := rfl
@[simp] theorem State.event_host_msixUnmasked (s : State) (src : Source) (e : Event) : (s.event src e).host.msixUnmasked = s.host.msixUnmasked := rfl
@[simp] theorem State.event_host_msixPending (s : State) (src : Source) (e : Event) : (s.event src e).host.msixPending = s.host.msixPending := rfl
@[simp] theorem State.event_host_sbCompletions (s : State) (src : Source) (e : Event) : (s.event src e).host.sbCompletions = s.host.sbCompletions := rfl
@[simp] theorem State.event_host_sbEvents (s : State) (src : Source) (e : Event) : (s.event src e).host.sbEvents = s.host.sbEvents := rfl
@[simp] theorem State.event_host_sbEventDropped (s : State) (src : Source) (e : Event) : (s.event src e).host.sbEventDropped = s.host.sbEventDropped := rfl
@[simp] theorem State.event_host_sbDropped (s : State) (src : Source) (e : Event) : (s.event src e).host.sbDropped = s.host.sbDropped := rfl
@[simp] theorem State.event_host_sbOffset (s : State) (src : Source) (e : Event) : (s.event src e).host.sbOffset = s.host.sbOffset := rfl
@[simp] theorem State.event_host_owed (s : State) (src : Source) (e : Event) : (s.event src e).host.owed = s.host.owed ++ [(src, e)] := rfl

@[simp] theorem State.complete_pending (s : State) (h : Hdr) (op st res : Nat) : (s.complete h op st res).pending = s.pending := by unfold State.complete; split <;> rfl
@[simp] theorem State.complete_out (s : State) (h : Hdr) (op st res : Nat) : (s.complete h op st res).out = s.out := by unfold State.complete; split <;> rfl
@[simp] theorem State.complete_free (s : State) (h : Hdr) (op st res : Nat) : (s.complete h op st res).free = s.free := by unfold State.complete; split <;> rfl
@[simp] theorem State.complete_dt (s : State) (h : Hdr) (op st res : Nat) : (s.complete h op st res).dt = s.dt := by unfold State.complete; split <;> rfl
@[simp] theorem State.complete_time (s : State) (h : Hdr) (op st res : Nat) : (s.complete h op st res).time = s.time := by unfold State.complete; split <;> rfl
@[simp] theorem State.complete_faults (s : State) (h : Hdr) (op st res : Nat) : (s.complete h op st res).faults = s.faults := by unfold State.complete; split <;> rfl
@[simp] theorem State.complete_comma (s : State) (h : Hdr) (op st res : Nat) : (s.complete h op st res).comma = s.comma := by unfold State.complete; split <;> rfl
@[simp] theorem State.complete_regions (s : State) (h : Hdr) (op st res : Nat) : (s.complete h op st res).regions = s.regions := by unfold State.complete; split <;> rfl
@[simp] theorem State.complete_store (s : State) (h : Hdr) (op st res : Nat) : (s.complete h op st res).store = s.store := by unfold State.complete; split <;> rfl
@[simp] theorem State.complete_loops (s : State) (h : Hdr) (op st res : Nat) : (s.complete h op st res).loops = s.loops := by unfold State.complete; split <;> rfl
@[simp] theorem State.complete_smu (s : State) (h : Hdr) (op st res : Nat) : (s.complete h op st res).smu = s.smu := by unfold State.complete; split <;> rfl
@[simp] theorem State.complete_calib (s : State) (h : Hdr) (op st res : Nat) : (s.complete h op st res).calib = s.calib := by unfold State.complete; split <;> rfl
@[simp] theorem State.complete_paost (s : State) (h : Hdr) (op st res : Nat) : (s.complete h op st res).paost = s.paost := by unfold State.complete; split <;> rfl
@[simp] theorem State.complete_adm (s : State) (h : Hdr) (op st res : Nat) : (s.complete h op st res).adm = s.adm := by unfold State.complete; split <;> rfl
@[simp] theorem State.complete_mem (s : State) (h : Hdr) (op st res : Nat) : (s.complete h op st res).mem = s.mem := by unfold State.complete; split <;> rfl
@[simp] theorem State.complete_matrix (s : State) (h : Hdr) (op st res : Nat) : (s.complete h op st res).matrix = s.matrix := by unfold State.complete; split <;> rfl
@[simp] theorem State.complete_lsu (s : State) (h : Hdr) (op st res : Nat) : (s.complete h op st res).lsu = s.lsu := by unfold State.complete; split <;> rfl
@[simp] theorem State.complete_mate (s : State) (h : Hdr) (op st res : Nat) : (s.complete h op st res).mate = s.mate := by unfold State.complete; split <;> rfl
@[simp] theorem State.complete_chip (s : State) (h : Hdr) (op st res : Nat) : (s.complete h op st res).chip = s.chip := by unfold State.complete; split <;> rfl
@[simp] theorem State.complete_house (s : State) (h : Hdr) (op st res : Nat) : (s.complete h op st res).house = s.house := by unfold State.complete; split <;> rfl
@[simp] theorem State.complete_hostOps (s : State) (h : Hdr) (op st res : Nat) : (s.complete h op st res).hostOps = s.hostOps := by unfold State.complete; split <;> rfl
@[simp] theorem State.complete_host_queues (s : State) (h : Hdr) (op st res : Nat) : (s.complete h op st res).host.queues = s.host.queues := by unfold State.complete; split <;> rfl
@[simp] theorem State.complete_host_owed (s : State) (h : Hdr) (op st res : Nat) : (s.complete h op st res).host.owed = s.host.owed := by unfold State.complete; split <;> rfl
@[simp] theorem State.complete_host_speed (s : State) (h : Hdr) (op st res : Nat) : (s.complete h op st res).host.speed = s.host.speed := by unfold State.complete; split <;> rfl
@[simp] theorem State.complete_host_width (s : State) (h : Hdr) (op st res : Nat) : (s.complete h op st res).host.width = s.host.width := by unfold State.complete; split <;> rfl
@[simp] theorem State.complete_host_bme (s : State) (h : Hdr) (op st res : Nat) : (s.complete h op st res).host.bme = s.host.bme := by unfold State.complete; split <;> rfl
@[simp] theorem State.complete_host_msixEn (s : State) (h : Hdr) (op st res : Nat) : (s.complete h op st res).host.msixEn = s.host.msixEn := by unfold State.complete; split <;> rfl
@[simp] theorem State.complete_host_flrCount (s : State) (h : Hdr) (op st res : Nat) : (s.complete h op st res).host.flrCount = s.host.flrCount := by unfold State.complete; split <;> rfl
@[simp] theorem State.complete_host_apertureDenied (s : State) (h : Hdr) (op st res : Nat) : (s.complete h op st res).host.apertureDenied = s.host.apertureDenied := by unfold State.complete; split <;> rfl
@[simp] theorem State.complete_host_d3hot (s : State) (h : Hdr) (op st res : Nat) : (s.complete h op st res).host.d3hot = s.host.d3hot := by unfold State.complete; split <;> rfl
@[simp] theorem State.complete_host_perst (s : State) (h : Hdr) (op st res : Nat) : (s.complete h op st res).host.perst = s.host.perst := by unfold State.complete; split <;> rfl
@[simp] theorem State.complete_host_msixAddr (s : State) (h : Hdr) (op st res : Nat) : (s.complete h op st res).host.msixAddr = s.host.msixAddr := by unfold State.complete; split <;> rfl
@[simp] theorem State.complete_host_msixData (s : State) (h : Hdr) (op st res : Nat) : (s.complete h op st res).host.msixData = s.host.msixData := by unfold State.complete; split <;> rfl
@[simp] theorem State.complete_host_msixUnmasked (s : State) (h : Hdr) (op st res : Nat) : (s.complete h op st res).host.msixUnmasked = s.host.msixUnmasked := by unfold State.complete; split <;> rfl
@[simp] theorem State.complete_host_msixPending (s : State) (h : Hdr) (op st res : Nat) : (s.complete h op st res).host.msixPending = s.host.msixPending := by unfold State.complete; split <;> rfl
@[simp] theorem State.complete_host_sbCompletions (s : State) (h : Hdr) (op st res : Nat) : (s.complete h op st res).host.sbCompletions = s.host.sbCompletions := by unfold State.complete; split <;> rfl
@[simp] theorem State.complete_host_sbEvents (s : State) (h : Hdr) (op st res : Nat) : (s.complete h op st res).host.sbEvents = s.host.sbEvents := by unfold State.complete; split <;> rfl
@[simp] theorem State.complete_host_sbEventDropped (s : State) (h : Hdr) (op st res : Nat) : (s.complete h op st res).host.sbEventDropped = s.host.sbEventDropped := by unfold State.complete; split <;> rfl
@[simp] theorem State.complete_host_sbDropped (s : State) (h : Hdr) (op st res : Nat) : (s.complete h op st res).host.sbDropped = s.host.sbDropped := by unfold State.complete; split <;> rfl
@[simp] theorem State.complete_host_sbOffset (s : State) (h : Hdr) (op st res : Nat) : (s.complete h op st res).host.sbOffset = s.host.sbOffset := by unfold State.complete; split <;> rfl

/-- The completion that a verb enters depends on the list of verbs in progress and on device time alone. -/
theorem State.complete_host_issues_congr {s s' : State} (h : Hdr) (op st res : Nat) (hi : s'.host.issues = s.host.issues)
    (hd : s'.dt = s.dt) : (s'.complete h op st res).host.issues = (s.complete h op st res).host.issues := by
  unfold State.complete
  rw [hi]
  split
  · rfl
  · simp [hd]

end Sys2Proof.Machine
end

