-- ==== Sys2Proof/Laws/Pins.lean ====
section
/-! SUPPORT. What a change of many elements does to each: pins. -/

set_option Elab.async false

namespace Sys2Proof.Safety

open Sys2Proof.Machine

/-- Changing every element of a list by a function that settles at once. -/
theorem elem_foldl_modElem (f : Elem → Elem) (hf : ∀ x, f (f x) = f x) (l : List Nat) (s : State) (e : Nat) :
    (l.foldl (fun (s : State) e => s.modElem e f) s).elem e = if e ∈ l then f (s.elem e) else s.elem e := by
  induction l generalizing s with
  | nil => simp
  | cons a l ih =>
    simp only [List.foldl_cons, ih]
    by_cases h : e = a
    · subst h; simp [State.elem, State.modElem, State.setElem, hf]
    · simp [h, State.elem, State.modElem, State.setElem, tabGet_tabSet_other]

/-- HOST pins until `t` on the elements of a list. -/
theorem hostPins_elem (s : State) (es : List Nat) (t e : Nat) : (hostPins s es t).elem e =
    if e ∈ es then { s.elem e with hostPin := some (max t ((s.elem e).hostPin.getD 0)) } else s.elem e :=
  elem_foldl_modElem (fun x => { x with hostPin := some (max t (x.hostPin.getD 0)) })
    (fun x => by simp only [Option.getD_some, ← Nat.max_assoc, Nat.max_self]) es s e

theorem modElems_only {P : List Part} {o s : State} (h : Only P o s) (hp : .elems ∈ P) (f : Elem → Elem) (l : List Nat) :
    Only P o (l.foldl (fun (s : State) e => s.modElem e f) s) :=
  h.foldl fun s1 x h1 => Only.set_loops (v := { s1.loops with elems := tabSet s1.loops.elems x (f (s1.elem x)) })
    (.inr rfl) (.inl hp) h1

end Sys2Proof.Safety
end

