-- ==== Sys2Proof/Laws/Records.lean ====
section
/-! SUPPORT. What one report does: the record it leaves, and, below severity S3, the parts it leaves alone. -/

set_option Elab.async false

namespace Sys2Proof.Safety

open Sys2Proof.Machine

theorem report_eq {s : State} {code source d0 : Nat} (h : Reportable s code source d0) (d1 : Nat) :
    s.report code source d0 d1 =
      if severityOf code = 3 then
        enterSafeState (recordNew s { code, source, detail0 := d0, detail1 := d1 } (severityOf code) false false)
          s.faults.nextSeq
      else recordNew s { code, source, detail0 := d0, detail1 := d1 } (severityOf code) false false := by
  obtain ⟨h1, h2, h3⟩ := h
  have h2' : s.fencedSource { code, source, detail0 := d0, detail1 := d1 } = false := h2
  have h3' : findMerge (s.faults.log ++ s.faults.spill) { code, source, detail0 := d0, detail1 := d1 } s.dt = none := h3
  unfold State.report recordReports
  simp only [List.filter_cons, h2', Bool.not_false, if_true, List.filter_nil, sortReports, List.foldr_cons, List.foldr_nil,
    insertReport, List.foldl_cons, List.foldl_nil, recordOne, h1, h3', Bool.false_eq_true, if_false, List.length_singleton,
    Nat.lt_irrefl, decide_false]

theorem msix_log (s : State) (v : Nat) : (s.msix v).faults.log = s.faults.log := by
  unfold State.msix; repeat' split
  all_goals rfl

theorem recordNew_log (s : State) (r : Report) (sev : Nat) (simul inj : Bool) :
    ∃ f ∈ (recordNew s r sev simul inj).faults.log, f.seq = some s.faults.nextSeq ∧ f.code = r.code ∧
      f.source = r.source ∧ f.detail0 = r.detail0 ∧ f.severity = sev ∧ f.time = s.dt := by
  have e : (countUncleared s.faults sev).nextSeq = s.faults.nextSeq := by unfold countUncleared; split <;> rfl
  let f : FaultRec := {
    time := s.dt, code := r.code, source := r.source, severity := sev, simul, injected := inj
    frozen := (freezeJournal s.img s.loops.journal s.milli).2, detail0 := r.detail0, detail1 := r.detail1
    timeLast := s.dt % 2 ^ 32 }
  have m : { f with seq := some s.faults.nextSeq } ∈
      (writeRecord (countUncleared s.faults sev) (s.ddrReady && !s.loops.throttled) f).log := by
    simp [writeRecord, e]
  refine ⟨{ f with seq := some s.faults.nextSeq }, ?_, rfl, rfl, rfl, rfl, rfl, rfl⟩
  unfold recordNew
  dsimp only
  split
  · rw [msix_log]; exact m
  · exact m

theorem enterSafeState_log (s : State) (q : Nat) : (enterSafeState s q).faults.log = s.faults.log := by
  unfold enterSafeState
  split
  · rfl
  · dsimp only
    generalize hs : { s with faults := { s.faults with safeState := true, safeSeq := q } } = s0
    have h0 : s0.faults.log = s.faults.log := by rw [← hs]
    rw [← h0]
    have all : ∀ t : State, Only [.out, .irq, .elems, .runs, .calRuns, .links, .lsu, .house] s0 t →
        t.faults.log = s0.faults.log := fun t h => by
      have e := h .faults (by decide)
      simp only [Part.same, Faults.mk.injEq] at e
      exact e.1
    apply all
    refine State.msix_only (openToCal_only (loseCalRuns_only (endRuns_only (Only.foldl (abortPoints_only
      (lsuSafeState_only (Only.refl _ _) ?_) ?_ _) fun s1 x h1 => State.down_only h1 ?_ _ _ _) ?_ _ _) ?_ _) ?_) ?_ _
    all_goals decide

/-- One report, of any severity, leaves its record. -/
theorem report_record {s : State} {code source d0 : Nat} (h : Reportable s code source d0) (d1 : Nat) :
    NewRecord s (s.report code source d0 d1) code source d0 := by
  rw [report_eq h]
  have m := recordNew_log s { code, source, detail0 := d0, detail1 := d1 } (severityOf code) false false
  unfold NewRecord
  split
  · rw [enterSafeState_log]; exact m
  · exact m

/-- Below S3 a report writes the collector, the journal's freeze, and sends a vector. -/
theorem report_minor {s : State} {code : Nat} (h : severityOf code ≠ 3) (source d0 d1 : Nat) :
    Only [.out, .faults, .irq, .loops] s (s.report code source d0 d1) := by
  have one : Only [.out, .faults, .irq, .loops] s
      (recordOne s false false false { code, source, detail0 := d0, detail1 := d1 }) := by
    unfold recordOne
    simp only [Bool.false_eq_true, if_false, h]
    split
    · split
      · exact Only.set_faults (.inl (by decide)) (.inr rfl) (.inr rfl) (Only.refl _ _)
      · exact recordNew_only (P := [.out, .faults, .irq, .loops]) (Only.refl _ _) (by decide) _ _ _ _
    · split
      · exact Only.set_faults (.inl (by decide)) (.inr rfl) (.inr rfl) (Only.refl _ _)
      · exact recordAon_only (P := [.out, .faults, .irq, .loops]) (Only.refl _ _) (by decide) _ _ _
  unfold State.report recordReports
  cases hf : s.fencedSource { code, source, detail0 := d0, detail1 := d1 } <;>
    simp only [List.filter_cons, hf, Bool.not_false, Bool.not_true, Bool.false_eq_true, if_true, if_false, List.filter_nil, sortReports,
      List.foldr_cons, List.foldr_nil, insertReport, List.foldl_cons, List.foldl_nil, List.length_singleton,
      Nat.lt_irrefl, decide_false]
  · exact one
  · exact Only.refl _ _

end Sys2Proof.Safety
end

