-- ==== Sys2Proof/Laws/Verbs.lean ====
section
/-! SUPPORT. What `verb` does: nothing out of turn, the status of the first failing check, else the verb's own function; and
the completion that it leaves. -/

set_option Elab.async false

namespace Sys2Proof.Safety

open Sys2Proof.Machine

theorem verb_accepts {s : State} {h : Hdr} {op : Nat} {c : Instr} (ha : Accepts s h op c) (f : State → State) :
    verb s h op c f = .next (after s (f s)) := by
  obtain ⟨h1, h2, h3, h4⟩ := ha
  unfold verb
  rw [h1, h2, h3, h4]
  rfl

theorem verb_fails {s : State} {h : Hdr} {op st : Nat} {c : Instr} (h1 : s.turn h op = true) (h2 : s.verbsWait = false)
    (h3 : s.verbStays op = false) (h4 : s.gate h.src op c = some st) (f : State → State) :
    verb s h op c f = .next (after s (s.fail h op st)) := by
  unfold verb
  rw [h1, h2, h3, h4]
  rfl

theorem verb_waits {s : State} {h : Hdr} {op : Nat} {c : Instr}
    (hw : s.turn h op = false ∨ s.verbsWait = true ∨ s.verbStays op = true) (f : State → State) :
    verb s h op c f = .next s := by
  unfold verb
  rcases hw with h1 | h1 | h1 <;> simp [h1]

/-- A verb that ends after a change `s1` of other parts ends as it would have without it. -/
theorem verbEnds_after {P : List Part} {s s1 : State} (h₀ : Only P s s1) (hq : Quiet s) (hh : .handover ∉ P)
    (hr : .resumes ∉ P) (hi : .issues ∉ P) (hd : .dt ∉ P) (h : Hdr) (op st r : Nat) :
    VerbEnds s (after s (s1.complete h op st r)) h op st r := by
  have hk := after_quiet (P := background) (Only.refl _ (s1.complete h op st r)) (List.Subset.refl _)
    (by rw [State.complete_mate]; exact (h₀ .handover hh).trans hq.1)
    (by rw [State.complete_faults]; exact (h₀ .resumes hr).trans hq.2) s
  exact (hk .issues (by decide)).trans (State.complete_host_issues_congr _ _ _ _ (h₀ .issues hi) (h₀ .dt hd))

/-! What follows a command, seen through the accessors. -/

@[simp] theorem after_sent (s0 s : State) (k : Nat) : (after s0 s).sent k = s.sent k := by simp [State.sent]
@[simp] theorem after_conn (s0 s : State) (k : Nat) : (after s0 s).conn k = s.conn k := by simp [State.conn]
@[simp] theorem after_para (s0 s : State) (k : Nat) : (after s0 s).para k = s.para k := by simp [State.para]
@[simp] theorem after_bank (s0 s : State) (k : Nat) : (after s0 s).bank k = s.bank k := by simp [State.bank]
@[simp] theorem after_chan (s0 s : State) (k : Nat) : (after s0 s).chan k = s.chan k := by simp [State.chan]
@[simp] theorem after_peer (s0 s : State) (k : Nat) : (after s0 s).peer k = s.peer k := by simp [State.peer]
@[simp] theorem after_ilk (s0 s : State) (k : Nat) : (after s0 s).ilk k = s.ilk k := by simp [State.ilk]
@[simp] theorem after_len (s0 s : State) (k : Nat) : (after s0 s).len k = s.len k := by simp [State.len]
@[simp] theorem after_rc (s0 s : State) (k : Nat) : (after s0 s).rc k = s.rc k := by simp [State.rc]
@[simp] theorem after_dac (s0 s : State) (k : Nat) : (after s0 s).dac k = s.dac k := by simp [State.dac]
@[simp] theorem after_adcEntry (s0 s : State) (k : Nat) : (after s0 s).adcEntry k = s.adcEntry k := by simp [State.adcEntry]
@[simp] theorem after_tile (s0 s : State) (k : Nat) : (after s0 s).tile k = s.tile k := by simp [State.tile]

/-- Any field of the host interface but MSI-X pending bits, verbs in progress and events owed. -/
theorem after_host_field {α : Type} (f : HostIf → α)
    (hf : ∀ u, f u = f { u with msixPending := [], issues := [], owed := [] }) (s0 s : State) :
    f (after s0 s).host = f s.host := by rw [hf (after s0 s).host, hf s.host, after_host]

/-- Any field of the SMU engine but its runs. -/
theorem after_smu_field {α : Type} (f : Smu → α) (hf : ∀ u, f u = f { u with runs := [], ssRun := none }) (s0 s : State) :
    f (after s0 s).smu = f s.smu := by rw [hf (after s0 s).smu, hf s.smu, after_smu]

/-- Any field of the calibration manager but its runs. -/
theorem after_calib_field {α : Type} (f : Calib → α) (hf : ∀ u, f u = f { u with runs := [], batches := [] })
    (s0 s : State) : f (after s0 s).calib = f s.calib := by rw [hf (after s0 s).calib, hf s.calib, after_calib]

/-- Any field of the loop block but the elements. -/
theorem after_loops_field {α : Type} (f : Loops → α) (hf : ∀ u, f u = f { u with elems := [] }) (s0 s : State) :
    f (after s0 s).loops = f s.loops := by rw [hf (after s0 s).loops, hf s.loops, after_loops]

theorem after_queue (s0 s : State) (k : Nat) : (after s0 s).queue k = s.queue k := by
  have : (after s0 s).host.queues = s.host.queues := after_host_field (·.queues) (fun _ => rfl) s0 s
  simp [State.queue, this]

theorem after_cls (s0 s : State) (k : Nat) : (after s0 s).cls k = s.cls k := by
  have : (after s0 s).loops.classes = s.loops.classes := after_loops_field (·.classes) (fun _ => rfl) s0 s
  simp [State.cls, this]

theorem after_monitor (s0 s : State) (k : Nat) : (after s0 s).monitor k = s.monitor k := by
  have : (after s0 s).smu.monitors = s.smu.monitors := after_smu_field (·.monitors) (fun _ => rfl) s0 s
  simp [State.monitor, this]

/-! The same with no step of HANDOVER or RESUME_REGION. -/

section quiet
variable {s : State} (hh : s.mate.handover = .none) (hr : s.faults.resumes = []) (s0 : State)
include hh hr

/-- Any part but the background. -/
theorem after_keeps {p : Part} (hp : p ∉ background) : p.same s (after s0 s) :=
  after_quiet (Only.refl _ s) (List.Subset.refl _) hh hr s0 p hp

theorem after_issues : (after s0 s).host.issues = s.host.issues := after_keeps hh hr s0 (p := .issues) (by decide)
theorem after_regions : (after s0 s).regions = s.regions := after_keeps hh hr s0 (p := .regions) (by decide)
theorem after_links : (after s0 s).paost.links = s.paost.links := after_keeps hh hr s0 (p := .links) (by decide)
theorem after_elems : (after s0 s).loops.elems = s.loops.elems := after_keeps hh hr s0 (p := .elems) (by decide)
theorem after_runs : (after s0 s).smu.runs = s.smu.runs ∧ (after s0 s).smu.ssRun = s.smu.ssRun :=
  after_keeps hh hr s0 (p := .runs) (by decide)
theorem after_calRuns : (after s0 s).calib.runs = s.calib.runs ∧ (after s0 s).calib.batches = s.calib.batches :=
  after_keeps hh hr s0 (p := .calRuns) (by decide)
theorem after_resumes : (after s0 s).faults.resumes = s.faults.resumes := after_keeps hh hr s0 (p := .resumes) (by decide)
theorem after_handover : (after s0 s).mate.handover = s.mate.handover := after_keeps hh hr s0 (p := .handover) (by decide)

theorem after_elem (k : Nat) : (after s0 s).elem k = s.elem k := by simp [State.elem, after_elems hh hr s0]
theorem after_link (k : Nat) : (after s0 s).link k = s.link k := by simp [State.link, after_links hh hr s0]
theorem after_region (k : Nat) : (after s0 s).region k = s.region k := by simp [State.region, after_regions hh hr s0]
theorem after_run (k : Nat) : (after s0 s).run k = s.run k := by simp [State.run, (after_runs hh hr s0).1]

/-- Any field of the controller's role and paths but the progress of a HANDOVER and the numbering of records. -/
theorem after_mate_field {α : Type} (f : Mate → α)
    (hf : ∀ u, f u = f { u with handover := .none, sent := 0, unacked := [], waits := [] }) :
    f (after s0 s).mate = f s.mate := by
  rw [hf (after s0 s).mate, hf s.mate, (after_keeps hh hr s0 (p := .mate) (by decide) :)]

/-- Any field of start-up and identity but OTP, the digest's progress and the restart record. -/
theorem after_chip_field {α : Type} (f : Chip → α) (hf : ∀ u, f u = f { u with
    otp := {}, digestBusy := false, digestAgain := false, digestCurrent := false, restart := {} }) :
    f (after s0 s).chip = f s.chip := by
  rw [hf (after s0 s).chip, hf s.chip, (after_keeps hh hr s0 (p := .chip) (by decide) :)]

/-- The collector as a whole: `after` writes none of it but the RESUME_REGION verbs. -/
theorem after_faults : (after s0 s).faults = s.faults := by
  have h1 := after_keeps hh hr s0 (p := .faults) (by decide)
  have h2 := after_keeps hh hr s0 (p := .errLevel) (by decide)
  have h3 := after_keeps hh hr s0 (p := .resumes) (by decide)
  simp only [Part.same] at h1 h2 h3
  generalize (after s0 s).faults = a at *
  generalize s.faults = b at *
  cases a; cases b; simp only [Faults.mk.injEq] at *; simp_all

end quiet

end Sys2Proof.Safety
end

