-- ==== Sys2Proof/Machine/OutPins.lean ====
section
/-! DEFINITION. The output pins whose level the state determines: ERR_N, SB_ALERT_N, LEN0 to LEN3, PPS_OUT; DAC_OUT0 to
DAC_OUT3 have their code in `State.dacOut` (Housekeeping). -/

namespace Sys2Proof.Machine

/-- ERR_N is low: the always-on island drives it by the uncleared counts (R435). -/
def State.errLow (s : State) : Bool := s.faults.errActive

/-- SB_ALERT_N is low: a sideband buffer holds an entry (R317), a safety fault is latched (R383), the safe state stands
(R430), or a reset has been held for 1 s (R445). -/
def State.alertLow (s : State) : Bool :=
  !s.host.sbCompletions.isEmpty || !s.host.sbEvents.isEmpty || s.lsu.faultLatched || s.faults.safeState ||
    (s.chip.resetHeld && s.chip.heldReported)

/-- LENk is high: the output is on and not in the off part of a test pulse (R374, R377). -/
def State.lenHigh (s : State) (k : Nat) : Bool := (s.lsu.lenOf k).driven s.dt

/-- PPS_OUT is high (R289). -/
def State.ppsHigh (s : State) : Bool := s.time.ppsOut

end Sys2Proof.Machine
end

