-- ==== Sys2Proof/Tests/Slice0.lean ====
section
/-! SUPPORT. Tests: steps on small states, and states that meet the hypotheses of every statement. -/

namespace Sys2Proof.Tests

open Sys2Proof Sys2Proof.Machine Sys2Proof.Safety

set_option Elab.async false

/-! ## Small states -/

/-- One array of two tiles; input port 0 enters row line 0, output port 0 leaves column line 0; each has a monitor. -/
def img : Image := {
  arrays := [{ stage := 1, index := 0, gb := 2, tiles := [0, 1] }]
  inPorts := [{ port := 0, array := 0, line := 0, monitor := some 0 }]
  outPorts := [{ port := 0, array := 0, line := 0, monitor := some 1 }, { port := 1, array := 0, line := 1 }]
  classes := [{ cls := 0 }]
  peers := [{ id := 7, perm := 31 }] }

/-- An adopted tile's link. -/
def goodLink : Link := { state := .active, tile := .adopted, owner := true, blockLock := true, tempSeen := true }

/-- The block in service: image applied, DDR trained, tile 0 adopted, not mated, on host queue 0 and PCIe. -/
def up : State := { State.reset with
  dt := 10000000
  chip := { mainPower := true, mainRun := true, resetHigh := true, imageApplied := true, image := img, setChecked := true, resolved := true }
  time := { pllLocked := true }
  host := { bme := true, msixEn := true }
  mem := { ddr0 := { trained := true }, ddr1 := { trained := true } }
  mate := { role := .alone }
  paost := { links := [(0, goodLink)], tiles := [(0, { token := .a })] } }

/-- A verb of host queue 0, and the verb issued as its source's first. -/
def hq : Hdr := { src := .host 0, tag := 5 }

/-- The command answers a next state that meets `f`. -/
def gives (c : Instr) (s : State) (f : State → Bool) : Bool :=
  match exec c s with
  | .next t => f t
  | _ => false


/-! ## The block as a whole -/

theorem witness_EmptyQueueTicks :
    up.pending = [] ∧ State.reset.time.pllLocked = false ∧ up.time.pllLocked = true ∧ (up.dt + 1) % 1250 ≠ 0 ∧
      ({ up with dt := 10001249 }.dt + 1) % 1250 = 0 := by decide +kernel
theorem witness_CommandsLeaveQueue : gives (.nop hq) { up with pending := [.commaBoundary] } fun t => t.pending == [.commaBoundary] := by
  decide +kernel
theorem witness_OnlyTimeMovesDeviceTime :
    (.nop hq : Instr) ≠ .commaBoundary ∧ (.nop hq : Instr) ≠ .porNAssert ∧ (.nop hq : Instr) ≠ .aonSupplyLow ∧
      gives (.nop hq) up (fun t => t.dt == up.dt) = true := by decide +kernel
theorem witness_OtpIsNeverWritten : (match step up with
    | .next t => t.chip.otp == up.chip.otp
    | _ => false) = true := by decide +kernel
theorem witness_StepKeepsMemoryCanonical : MemForm up ∧ (match step up with
    | .next t => t.mem.wf
    | _ => false) = true := by unfold MemForm; decide +kernel
theorem witness_StepKeepsErrLevelSeverity : ErrLevelOk up ∧ (match step up with
    | .next t => t.faults.errLevel == 2
    | _ => false) = true := by unfold ErrLevelOk; decide +kernel
theorem witness_EachCommandTouchesOnlyItsParts : Quiet up ∧ gives (.setEpoch 0 false 3) up (fun t => t.paost.links == up.paost.links) = true := by
  unfold Quiet; decide +kernel
/-! ## Verbs: staging, launches, paragraphs -/

/-- MAKE of input port 0 to output port 0, EXPLICIT by element 0. -/
def clause : Rec128 := BitVec.ofNat 128 (2 ^ 20 + 2 ^ 22)

/-- Sentence 1 holds a clause; it is armed, stale or scheduled; paragraph 2 is defined or runs. -/
def sent1 : Sentence := { state := .stored, clauses := [clause] }
def stored : State := { up with store := { sentences := [(1, sent1)] } }
def armed : State := { up with store := { sentences := [(1, { sent1 with state := .armed, slot := some 0 })] } }
def stale : State := { up with store := { sentences := [(1, { sent1 with state := .stale, slot := some 0 })] } }
def locked : State := { stored with time := { pllLocked := true, state := .locked } }
def sched1 : Sched := { handle := 1, t := 0, late := 0, src := .host 0, tag := 3 }
def scheduled : State := { up with store := { sentences := [(1, { sent1 with state := .scheduled })], scheds := [sched1] } }
def para2 : Para := { state := .defined, steps := [(1, 0)], period := 1000, repeats := 1 }
def defined : State := { stored with store := { stored.store with paras := [(2, para2)] } }
def running : State := { stored with store := { stored.store with paras := [(2, { para2 with state := .running, step := 1 })] } }

theorem witness_VerbEndsWithFirstFailingCheck :
    Quiet up ∧ up.turn hq 0x10 = true ∧ up.verbsWait = false ∧ up.verbStays 0x10 = false ∧
      up.permitted (.peer 0) 0x11 = false ∧ up.permitted (.host 0) 0x10 = true ∧
      { up with chip := { up.chip with resolved := false } }.verbReady 0x10 = false ∧ up.verbReady 0x10 = true ∧
      fieldsOk (.stage hq true 4096 [clause]) = false := by unfold Quiet; decide

theorem test_badOpcode : gives (.stageList { src := .peer 0 } true false 1 1 0) up fun t =>
    t.host.issues.map (·.done) == [some (0x0E, 0)] := by decide
theorem test_badField : gives (.stage hq true 4096 [clause]) up fun t => t.host.issues.map (·.done) == [some (7, 0)] := by decide

theorem witness_VerbOutOfTurnWaits :
    { up with host := { issues := [{ src := .host 0, tag := 4, opcode := 0x12 }, { src := .host 0, tag := 5 }] } }.turn hq 0 = false ∧
    { up with mate := { role := .active, handover := .handingBack true } }.verbsWait = true ∧
    { up with loops := { throttled := true } }.verbStays 0x30 = true := by decide

theorem witness_StagingVerbsComplete :
    Quiet up ∧ Accepts up hq 0x00 (.nop hq) ∧ Accepts up hq 0x10 (.stage hq true 1 [clause]) ∧
    [clause].all up.img.clauseOk = true ∧ up.locked 1 = false ∧ (up.sent 1).state = .free ∧ [clause].length ≤ 1024 ∧
    up.clauseCount - (up.sent 1).clauses.length + [clause].length ≤ 1048576 ∧
    Accepts up hq 0x11 (.stageList hq true false 1 1 0x1000) ∧ Quiet stored ∧
    Accepts stored hq 0x18 (.freeSentence hq 1) ∧ (stored.sent 1).idle = true ∧ stored.locked 1 = false := by
  unfold Quiet Accepts; decide

theorem test_nop : gives (.nop hq) up fun t => t.host.issues.map (·.done) == [some (0, 0)] := by decide
theorem test_stage : gives (.stage hq true 1 [clause]) up fun t => t.sent 1 == sent1 := by decide
theorem test_stageList : gives (.stageList hq true false 1 2 0x1000) up fun t => t.out == [.hostRead 0x1000 32 false] := by decide
theorem test_freeSentence : gives (.freeSentence hq 1) stored fun t => (t.sent 1).state == .free := by decide

theorem witness_StageRefusedHasNoEffect :
    Quiet armed ∧ Accepts armed hq 0x10 (.stage hq true 1 [clause]) ∧
    (armed.locked 1 || !((armed.sent 1).idle || ((armed.sent 1).state == .free && true))) = true ∧
    Accepts up hq 0x10 (.stage hq true 1 [0x80000000#128]) ∧ (!(List.all [0x80000000#128] up.img.clauseOk)) = true := by
  unfold Quiet Accepts; decide

theorem test_stageBadState : gives (.stage hq true 1 [clause]) armed fun t => t.host.issues.map (·.done) == [some (6, 0)] := by decide

theorem witness_LaunchVerbsComplete :
    (Quiet stored ∧ Accepts stored hq 0x12 (.commit hq 1 {}) ∧ (stored.sent 1).idle = true ∧ stored.faults.safeState = false) ∧
    (Quiet locked ∧ Accepts locked hq 0x13 (.schedule hq 1 {} { sec := 1 } 0) ∧ (locked.sent 1).idle = true ∧
      locked.locked 1 = false ∧ locked.time.locked = true ∧ locked.schedCount < 448) ∧
    (Quiet scheduled ∧ Accepts scheduled hq 0x17 (.cancel hq 1) ∧
      scheduled.store.scheds.find? (fun y => y.handle = 1) = some sched1 ∧ (scheduled.sent 1).state = .scheduled) ∧
    (Accepts stored hq 0x17 (.cancel hq 1) ∧ stored.store.scheds.find? (fun y => y.handle = 1) = none) := by
  unfold Quiet Accepts; decide

theorem test_commit : gives (.commit hq 1 {}) stored fun t => (t.sent 1).state == .launching && t.host.issues == [] := by decide
theorem test_schedule : gives (.schedule hq 1 {} { sec := 1 } 0) locked fun t =>
    t.store.scheds.map (·.t) == [65536 * 1000000000] := by decide
theorem test_cancel : gives (.cancel hq 1) scheduled fun t => (t.sent 1).state == .stored && t.host.owed.length == 1 := by decide

theorem witness_ArmedVerbsComplete :
    (Quiet stored ∧ Accepts stored hq 0x14 (.arm hq 1 {} false 0 [{ input := true, port := 0 }]) ∧
      (stored.sent 1).idle = true ∧ stored.locked 1 = false ∧
      ((stored.img.portRef { input := true, port := 0 }).bind (·.monitor)).isSome = true ∧
      stored.boundElsewhere 1 { input := true, port := 0 } = false ∧ stored.armConflict 1 = false ∧
      stored.freeArmSlot = some 0 ∧ stored.armedClauses + (stored.sent 1).clauses.length ≤ 65536) ∧
    (Quiet armed ∧ Accepts armed hq 0x15 (.disarm hq 1) ∧ (armed.sent 1).state = .armed ∧
      Accepts armed hq 0x16 (.fire hq 1) ∧ armed.faults.safeState = false) ∧
    (Quiet stale ∧ Accepts stale hq 0x16 (.fire hq 1) ∧ (stale.sent 1).state = .stale ∧ stale.faults.safeState = false) := by
  unfold Quiet Accepts; decide

theorem test_arm : gives (.arm hq 1 {} false 7 [{ input := true }]) stored fun t =>
    (t.sent 1).slot == some 0 && (t.sent 1).pgroup == 7 := by decide +kernel
theorem test_disarm : gives (.disarm hq 1) armed fun t => t.sent 1 == sent1 := by decide
theorem test_fire : gives (.fire hq 1) armed fun t => t.store.p0Queue.map (·.handle) == [1] := by decide
theorem test_fireStale : gives (.fire hq 1) stale fun t => t.store.staleFires == 1 && t.store.preps.length == 1 := by decide

theorem witness_ParagraphVerbsComplete :
    (Quiet up ∧ Accepts up hq 0x19 (.paraDefine hq false 2 1 0x1000 1000 1 0) ∧ (up.para 2).state = .idle) ∧
    (Quiet defined ∧ Accepts defined hq 0x1A (.paraStart hq true 2 { sec := 1 }) ∧ (defined.para 2).state = .defined) ∧
    (Quiet running ∧ Accepts running hq 0x1B (.paraStop hq true 2) ∧ Accepts running hq 0x1B (.paraStop hq false 2) ∧
      (running.para 2).state = .running ∧ (running.para 2).step ≠ 0) := by unfold Quiet Accepts; decide

theorem test_paraDefine : gives (.paraDefine hq false 2 3 0x1000 1000 1 0) up fun t => t.out == [.hostRead 0x1000 48 false] := by decide
theorem test_paraStart : gives (.paraStart hq true 2 { sec := 1 }) defined fun t => (t.para 2).state == .running := by decide
theorem test_paraStopNow : gives (.paraStop hq true 2) running fun t => (t.para 2).state == .defined := by decide
theorem test_paraStopAtEnd : gives (.paraStop hq false 2) running fun t => (t.para 2).stopAtEnd := by decide

/-! ## Elements, classes, pins, the journal -/

theorem witness_ElementVerbsWaitForBoundary :
    Quiet up ∧ up.img.placedEid 3 = true ∧ Accepts up hq 0x22 (.retireElement hq 3) ∧ (up.elem 3).st ≠ .retired ∧
    Accepts up hq 0x23 (.restoreElement hq 3) ∧ Accepts up hq 0x2A (.elementTrim hq true 3 5 (-5)) := by
  unfold Quiet Accepts; decide

theorem test_retireElement : gives (.retireElement hq 3) up fun t => (t.elem 3).events == [.retire] && t.host.issues == [] := by decide
theorem test_restoreElement : gives (.restoreElement hq 3) up fun t => (t.elem 3).events == [.restore] := by decide
theorem test_elementTrim : gives (.elementTrim hq true 3 5 (-5)) up fun t => (t.elem 3).newTrims == some (5, -5, true) := by decide

theorem witness_ClassAndJournalVerbsComplete :
    Quiet up ∧ Accepts up hq 0x28 (.classLoad hq 4 1 0x1000) ∧ (up.cls 4).activeB ≠ (1 == 1) ∧ (up.cls 4).swapPending = false ∧
    Accepts up hq 0x29 (.classSwap hq 4) ∧ Accepts up hq 0x2B (.journalCopy hq false 0 7 1 0x1000) ∧
    up.img.placed 0 = true ∧ up.canMaster = true := by unfold Quiet Accepts; decide

theorem test_classLoad : gives (.classLoad hq 4 1 0x1000) up fun t => t.out == [.hostRead 0x1000 128 false] := by decide
theorem test_classSwap : gives (.classSwap hq 4) up fun t => (t.cls 4).swapPending && t.host.issues == [] := by decide
theorem test_journalCopy : gives (.journalCopy hq false 0 7 1 0x1000) up fun t =>
    t.out == [.hostWrite 0x1000 2112 7] && t.host.issues.map (·.done) == [some (0, 0)] := by decide +kernel

/-- Element 3 has pins that are over. -/
def pinned : State := { up with loops := { elems := [(3, { hostPin := some 5, overrunPin := some 5 })] } }

theorem witness_PinVerbsComplete :
    (Quiet up ∧ Accepts up hq 0x20 (.pin hq false 3 2 10) ∧ (∀ e ∈ pinRange 3 2, up.img.placedEid e = true) ∧
      (up.hostPinned.filter fun e => !(pinRange 3 2).contains e).length + (pinRange 3 2).length ≤ 16384 ∧
      up.pinsFit (pinRange 3 2) = true) ∧
    (Quiet pinned ∧ Accepts pinned hq 0x21 (.unpin hq false 3 2)) ∧
    (Quiet stored ∧ Accepts stored hq 0x20 (.pin hq true 1 0 10) ∧ (stored.sent 1).state ≠ .free ∧
      stored.pinsFit (stored.pinnedOf 1) = true) := by unfold Quiet Accepts; decide +kernel

theorem test_pin : gives (.pin hq false 3 2 10) up fun t => (t.elem 4).hostPin == some (up.dt + 12500000) := by decide +kernel
theorem test_unpin : gives (.unpin hq false 3 2) pinned fun t => (t.elem 3).hostPin == none := by decide

/-- A tier-2 element; a frame of tile 0 formed for millisecond 1. -/
def tier2 : State := { up with loops := { elems := [(3, { tier := 2 })] } }
def waiting : State := { up with loops := { journal := { waiting := [(1, 0, [some 4])] } } }

theorem witness_PlacementAndJournalEventsComplete :
    (Quiet pinned ∧ (pinned.elem 3).hostPin = some 5 ∧ (pinned.elem 3).overrunPin = some 5 ∧ 5 ≤ pinned.dt) ∧
    (Quiet tier2 ∧ tier2.loops.throttled = false ∧ tier2.img.placedEid 3 = true ∧ tier2.moveTo 3 = some (0, 0)) ∧
    (waiting.loops.journal.waiting.find? (fun w => w.1 == 1 && w.2.1 == 0) = some (1, 0, [some 4]) ∧
      waiting.loops.throttled = false ∧ inRanges waiting.loops.journal.frozen (waiting.journalSlot 1) = false ∧
      ((1 + 1) * 1000 + 1000) * usTicks ≤ waiting.dt) ∧ up.chip.mainRun = true := by unfold Quiet; decide +kernel

theorem test_pinExpire : gives (.pinExpire 3 true) pinned fun t => (t.elem 3).hostPin == none && (t.elem 3).overrunPin == some 5 := by decide
theorem test_overrunPinExpire : gives (.pinExpire 3 false) pinned fun t => (t.elem 3).overrunPin == none := by decide
theorem test_placementMove : gives (.placementMove 3 false) tier2 fun t => (t.elem 3).moving == some (0, 0) := by decide +kernel
theorem test_journalFrameWrite : gives (.journalFrameWrite 1 0) waiting fun t => t.loops.journal.frames == [(256, [some 4])] := by decide +kernel
theorem test_journalFrameExpire : gives (.journalFrameExpire 1 0) waiting fun t =>
    t.loops.journal.lost == 1 && t.loops.journal.waiting == [] := by decide
theorem test_commaLinkShareWrite : gives (.commaLinkShareWrite 0x20400000) up fun t =>
    t.comma.pendingLink.map (fun x => (x.p1, x.p2)) == some (0x40, 0x20) && !t.comma.shareErr := by decide
theorem test_commaLoopShareWrite : gives (.commaLoopShareWrite 0xFFFF0000) up fun t => t.comma.shareErr := by decide

def broken : State := { up with loops := { elems := [(3, { rebuilding := true, trimOn := 9 })] } }

theorem witness_PlacementAndJournalEventsComplete_reports :
    (Quiet broken ∧ (broken.elem 3).rebuilding = true ∧ Reportable broken 0x0045 srcPlace 3) ∧
    (Reportable up 0x0032 (srcTile 0) 0 ∧ up.working = true ∧ (up.link 0).up = true ∧
      ∀ e ∈ up.placedElems, eidTile e = 0 → (up.elem e).law = .none) := by unfold Quiet Reportable; decide

theorem test_contextRebuild : gives (.contextRebuild 3) broken fun t =>
    !(t.elem 3).rebuilding && (t.elem 3).trimOn == 0 && t.faults.log.map (fun f => (f.code, f.source)) == [(0x45, 6)] := by decide
theorem test_scheduleMismatchReceive : gives (.scheduleMismatchReceive 1) up fun t =>
    t.faults.log.map (fun f => (f.code, f.source)) == [(0x32, 33)] := by decide

/-! ## Source-measure engine -/

/-- A point that a tile channel without port may take. -/
def point : PointRec := { mode := 0, range := 2, policy := 0, samples := 1, compliance := 1000 }

/-- List 3 holds one point. -/
def listed : State := { up with smu := { lists := [(3, [point])] } }

/-- Its run on channel 2 of tile 0 is queued; the point is in progress; it has ended. -/
def aRun : Run := { target := 2, downCount := 16, timeout := 10, src := .host 0, tag := 9 }
def queued : State := { listed with smu := { listed.smu with runs := [(3, some aRun)] } }
def begun : State := { listed with smu := { listed.smu with runs := [(3, some { aRun with active := true, seqr := some 0 })] } }
def endedRun : State := { listed with smu := { listed.smu with
  runs := [(3, some { aRun with ended := some 1, stopper := some { hq with tag := 6 } })] } }

theorem witness_SweepVerbsComplete :
    (Quiet up ∧ Accepts up hq 0x30 (.sweepLoad hq false 3 1 0x1000) ∧ up.run 3 = none) ∧
    (Quiet listed ∧ Accepts listed hq 0x31 (.sweepRun hq false false 3 2 0 10 0) ∧ listed.targetPlaced false 2 = true ∧
      listed.listFits false 2 (listed.list 3) = true ∧ listed.list 3 ≠ [] ∧ listed.run 3 = none ∧
      (∀ x ∈ listed.allRuns, x.2.unit ≠ (2, false)) ∧ (listed.region (tileRegion (2 / 8))).fenced = false) ∧
    (Quiet begun ∧ Accepts begun hq 0x32 (.sweepStop hq 3) ∧ begun.run 3 = some { aRun with active := true, seqr := some 0 } ∧
      { aRun with active := true, seqr := some 0 }.ended = none) ∧
    (Quiet listed ∧ Accepts listed hq 0x33 (.sweepFree hq 3) ∧ listed.run 3 = none) := by
  unfold Quiet Accepts; decide

theorem test_sweepRun : gives (.sweepRun hq false false 3 2 0 10 0) listed fun t =>
    t.run 3 == some { target := 2, downCount := 16, timeout := 10, src := .host 0, tag := 5, readySince := 10000000 } := by decide
theorem test_sweepStop : gives (.sweepStop hq 3) begun fun t =>
    (t.run 3).any (fun r => r.ended == some 1 && r.aborted) && t.out == [.downFrame 0 "ABORT" [2]] := by decide
theorem test_sweepFree : gives (.sweepFree hq 3) listed fun t => t.list 3 == [] := by decide
theorem test_sweepLoad : gives (.sweepLoad hq false 3 2 0x1000) up fun t => t.out == [.hostRead 0x1000 32 false] := by decide


/-- Point readings in range 2: two to settle, one that is kept. -/
def readings : List Reading := [{ code := 1 }, { code := 2 }, { code := 3 }, { code := 4 }, { code := 300 }]

/-- An actuator run without admission: the element is LIT. -/
def blocked : State := { listed with
  smu := { lists := [(3, [{ point with mode := 4 }])], runs := [(3, some { aRun with actuator := true, seqr := some 0 })] }
  loops := { elems := [(2, { st := .lit, on := true, lit := true })] } }

def late : State := { queued with dt := 10 * msTicks }

theorem witness_SweepRowsComplete :
    (Quiet queued ∧ queued.run 3 = some aRun ∧ queued.working = true ∧ queued.loops.throttled = false ∧
      queued.tileReach 0 = true ∧ (∀ x ∈ queued.allRuns, x.1 ≠ 3 → x.2.unit = aRun.unit → x.2.seqr = none) ∧
      queued.freeSequencer (tileRegion 0) = some 0 ∧ queued.portTarget aRun = false) ∧
    (Quiet blocked ∧ blocked.run 3 = some { aRun with actuator := true, seqr := some 0 } ∧ blocked.working = true ∧
      blocked.tileReach 0 = true ∧ blocked.actAdmitted 2 { point with mode := 4 } = false ∧
      (∀ x ∈ blocked.allRuns, x.1 = 3)) ∧
    (Quiet begun ∧ begun.run 3 = some { aRun with active := true, seqr := some 0 } ∧
      (takeReadings point 16 readings).full point.samples = true ∧ (takeReadings point 16 readings).kept ≠ []) ∧
    (Quiet late ∧ late.run 3 = some aRun ∧ aRun.readySince + aRun.timeout * msTicks ≤ late.dt) ∧
    (Quiet endedRun ∧ (endedRun.run 3).map (fun r => (r.ended, r.active)) = some (some 1, false)) ∧
    (begun.allRuns.find? (fun x => x.2.active && x.2.tile == 0 &&
      (if x.2.actuator then 2 == 8 else 2 == x.2.target % 8)) = some (3, { aRun with active := true, seqr := some 0 })) ∧
    (begun.clampedRun 0 2 =
      some (3, { aRun with active := true, seqr := some 0 })) := by
  unfold Quiet; decide

theorem test_sweepPointStart : gives (.sweepPointStart 3) queued fun t =>
    (t.run 3).any (fun r => r.active && r.seqr == some 0) && t.out.length == 5 &&
      t.out.getLast? == some (.downFrame 0 "POINT_GO" [2, 0, 16]) := by decide
theorem test_sweepPointBlocked : gives (.sweepPointStart 3) blocked fun t =>
    (t.run 3).any fun r => r.nBlocked == 1 && r.completed == 1 && r.lastFlags == 32 := by decide +kernel
theorem test_sweepPointEnd : gives (.sweepPointEnd 3 readings 0 true) begun fun t =>
    (t.run 3).any fun r => !r.active && r.point == 1 && r.lastUsed == 1 && r.ended == some 0 := by decide +kernel
theorem test_sweepTimeout : gives (.sweepTimeout 3) late fun t => (t.run 3).any fun r => r.ended == some 3 := by decide
theorem test_sweepRunEnd : gives (.sweepRunEnd 3) endedRun fun t =>
    t.run 3 == none && t.host.owed.map (fun e => (e.1, e.2.kind, e.2.tag, e.2.status)) == [(.host 0, 5, 9, 1)] &&
      t.host.issues.map (·.done) == [some (0, 0)] := by decide +kernel
theorem test_pointResultReceive : gives (.pointResultReceive 0 2 1 77) begun fun t =>
    (t.run 3).any fun r => r.words == [(1, 77)] := by decide
theorem test_complianceEventReceive : gives (.complianceEventReceive 0 2 1) begun fun t =>
    (t.run 3).any fun r => r.compliance && r.compSampling := by decide

/-- A single-shot point on channel 2 of tile 0; port 0 selected; a conversion at its end. -/
def single : State := { up with smu := { ssPoint := (pointWordsOf point).map (BitVec.ofNat 32), ssTarget := 2 } }
def selected : State := { up with smu := { portSelIn := true } }
def converting : State := { up with smu := { refBusy := some (true, up.dt - 50 * usTicks) } }

theorem witness_SingleShotRowsComplete :
    (Quiet single ∧ single.chip.mainRun = true ∧ single.smu.ssRun = none ∧ pointOk (pointOf single.smu.ssPoint) = true ∧
      single.targetPlaced false 2 = true ∧ single.listFits false 2 [pointOf single.smu.ssPoint] = true) ∧
    (Quiet selected ∧ selected.chip.mainRun = true ∧ (selected.img.portOfMonitor 0).isSome = true ∧
      selected.portSelMonitor = some 0 ∧ up.portSelMonitor ≠ some 0) ∧
    (bit (2#32).toNat 6 = false ∧ (up.smu.ref1).forceEn = false ∧ up.dacOnBus = false) ∧ up.smu.refBusy = none ∧
    converting.smu.refBusy = some (true, up.dt - 50 * usTicks) ∧ up.dt - 50 * usTicks + 50 * usTicks ≤ converting.dt := by
  unfold Quiet; decide

theorem test_ssCtrlGo : gives .ssCtrlGo single fun t => (t.smu.ssRun).any fun x => x.1.target == 2 && x.2 == point := by decide +kernel
theorem test_ssResultRead : gives .ssResultRead { up with smu := { ssResult := { seq := 3, fresh := true, ready := true } } } fun t =>
    t.out == [.readData [0x303]] && !t.smu.ssResult.fresh := by decide
theorem test_portSelWrite : gives (.portSelWrite 0x403) up fun t => t.smu.portSel == 3 && t.smu.portSelIn := by decide
theorem test_portResultRead : gives .portResultRead selected fun t => t.out == [.readData [0]] := by decide
theorem test_portSampleReceive : gives (.portSampleReceive 0 0 3 false 15000 true) selected fun t =>
    (t.monitor 0).current == 1000000 && t.smu.portResult.seq == 1 := by decide +kernel
theorem test_refCtrlWrite : gives (.refCtrlWrite 0x1F) up fun t =>
    t.smu.ref1.forceEn && t.smu.ref1.range == 2 && !t.smu.ref0.forceEn := by decide
theorem test_refConversionGo : gives .refConversionGo up fun t => t.smu.refBusy == some (false, up.dt) := by decide
theorem test_refConversionDone : gives (.refConversionDone (-5) true) converting fun t =>
    t.smu.refBusy == none && t.smu.refResult.words == [0xC00, 0xFFFFFFFB] := by decide
theorem test_refResultRead : gives .refResultRead { up with smu := { refTrigLost := true } } fun t =>
    t.out == [.readData [0x2000]] := by decide

/-- The bus held by a request whose tile's link has been lost. -/
def busLost : State := { up with smu := { bus := .request 0 2, busTile := 0, busChannel := 2, busLostAt := some 0 }, dt := 100 * msTicks }
def dark : State := { up with smu := { monitors := [(0, { tileLos := true })] } }

theorem witness_ComparatorAndBusRowsComplete :
    (Quiet up ∧ (up.img.portOfMonitor 0).isSome = true ∧ (up.monitor 0).tileLos = false ∧ (199999 : Int) < ((up.img.losOf 0).thresh : Int)) ∧
    (Quiet dark ∧ (dark.monitor 0).tileLos = true ∧ ((dark.img.losOf 0).thresh : Int) * (16 + (dark.img.losOf 0).hyst) < 16 * 250001) ∧
    (up.smu.bus = .nobody ∧ up.smu.busFault = false ∧ bit (0x1200#32).toNat 12 = true ∧
      up.tileReach (bits (0x1200#32).toNat 0 8) = true ∧ up.litChannel (bits (0x1200#32).toNat 0 8) (min 8 (bits (0x1200#32).toNat 8 4)) = false) ∧
    (busLost.smu.busLostAt = some 0 ∧ busLost.smu.bus ≠ .nobody ∧ 0 + 100 * msTicks ≤ busLost.dt) := by
  unfold Quiet; decide

theorem test_losComparatorRaise : gives (.losComparatorRaise 0 199999) up fun t =>
    (t.monitor 0).tileLos && t.out.contains (.upFrame 0 false "EVENT" [1, 0, 0]) := by decide
theorem test_losComparatorClear : gives (.losComparatorClear 0 250001) dark fun t => !(t.monitor 0).tileLos := by decide
theorem test_losComparatorHysteresis : gives (.losComparatorClear 0 250000) dark fun t => (t.monitor 0).tileLos := by decide
theorem test_complianceClamp : gives (.complianceClamp 0 2 true) up fun t =>
    (t.monitor 2).clamped && t.out.contains (.upFrame 0 false "EVENT" [3, 2, 1]) := by decide
theorem test_busCtrlRequest : gives (.busCtrlRequest 0x1200) up fun t =>
    t.smu.bus == .request 0 2 && t.out == [.downFrame 0 "SMU_BUS" [2, 1]] := by decide
theorem test_calBusTimeout : gives .calBusTimeout busLost fun t => t.smu.bus == .nobody && t.smu.busFault := by decide +kernel
/-! ## Calibration -/

/-- Element 3 is DARK_OFF with a micro run queued, or running at its last or last but one drive. -/
def darkElem : Elem := { st := .darkOff, drive := 1000, inUse := { pullIn := 30000 } }
def mRun : CalRun := { kind := .micro, target := 3, batches := [0], queued := 0, timeout := some 1 }
def batch0 : CalBatch := { id := 0, src := .host 0, tag := 8 }
def withRuns (rs : List CalRun) : State := { up with
  loops := { elems := [(3, darkElem)] }, calib := { runs := rs, batches := [batch0], nextBatch := 1 } }
def micro2 : State := withRuns [{ mRun with running := true, todo := [900, 1000] }]
def micro1 : State := withRuns [{ mRun with running := true, measured := [(900, 50)], todo := [1000] }]
def saving : State := { up with calib := { saveBusy := some hq, saving := some { version := 4 } } }
def unread : State := { up with chip := { up.chip with setChecked := false } }

theorem witness_CalibrationVerbsComplete :
    (Quiet (withRuns []) ∧ Accepts (withRuns []) hq 0x38 (.calRun hq 0 0 3 10) ∧ (withRuns []).calElems 0 3 = some [3] ∧
      (withRuns []).img.placedEid 3 = true ∧ ((withRuns []).elem 3).st = .darkOff ∧ ∀ r ∈ (withRuns []).calib.runs, r.target ≠ 3) ∧
    (Quiet up ∧ Accepts up hq 0x39 (.saveCalibration hq false false 0) ∧ up.calib.saveBusy = none ∧ up.mate.role = .alone ∧
      Accepts up hq 0x39 (.saveCalibration hq true false 0x1000) ∧ Accepts up hq 0x3A (.exportCalibration hq false 0x1000 4337664)) ∧
    (Quiet saving ∧ saving.calib.saveBusy = some hq ∧ saving.calib.saving = some { version := 4 }) ∧
    (∃ r ∈ (withRuns [mRun]).calib.runs, r.timedOut (withRuns [mRun]).dt = true ∧ r.batches.contains 0 = true) ∧
    ((withRuns []).calib.batches.find? (fun b => b.id = 0) = some batch0) ∧
    (unread.chip.imageApplied = true ∧ unread.ddrReady = true ∧ unread.chip.setChecked = false) := by
  unfold Quiet Accepts; decide +kernel

theorem test_calRun : gives (.calRun hq 0 0 3 10) (withRuns []) fun t =>
    t.calib.runs.map (fun r => (r.target, r.batches, r.timeout)) == [(3, [1], some 10)] &&
      t.host.issues.map (·.done) == [some (0, 0)] := by decide +kernel
theorem test_saveCalibration : gives (.saveCalibration hq false false 0) up fun t =>
    (t.calib.saving).any (fun x => x.version == 1) && t.host.issues == [] := by decide +kernel
theorem test_saveFromHost : gives (.saveCalibration hq true false 0x1000) up fun t =>
    t.out == [.hostRead 0x1000 4337664 false] := by decide +kernel
theorem test_exportCalibration : gives (.exportCalibration hq false 0x1000 4337664) up fun t =>
    t.calib.exportBusy == some hq := by decide +kernel
theorem test_calSaveFlashDone : gives (.calSaveFlashDone true) saving fun t =>
    t.calib.version == 4 && t.host.issues.map (·.done) == [some (0, 0)] := by decide +kernel
theorem test_calSaveFlashBad : gives (.calSaveFlashDone false) saving fun t =>
    t.calib.version == 0 && t.host.issues.map (·.done) == [some (2, 0)] := by decide +kernel
theorem test_calTimeout : gives (.calTimeout 0) (withRuns [mRun]) fun t => t.calib.runs == [] && t.calib.deferred == 1 := by
  decide +kernel
theorem test_calDonePost : gives (.calDonePost 0) (withRuns []) fun t =>
    t.calib.batches == [] && t.host.owed.map (fun e => (e.1, e.2.kind, e.2.tag)) == [(.host 0, 6, 8)] := by decide +kernel
theorem test_calSetRead : gives (.calSetRead { version := 6 }) unread fun t =>
    t.chip.setChecked && t.calib.version == 6 && t.calib.setValid := by decide +kernel

/-- A lit connection between two monitored ports; a full run and a channel run queued. -/
def lit : State := { up with store := { table := [(0, some { clause := clause, serial := 1, handle := 1 })] } }
def fRun : CalRun := { mRun with kind := .full, target := 32 }
def fullQ : State := { withRuns [fRun] with loops := { elems := [(32, { drive := 1000 })] } }
def chanQ : State := { up with calib := { runs := [{ kind := .channel, target := 0 }] } }

theorem witness_CalibrationRunsComplete :
    (Quiet (withRuns [mRun]) ∧ (withRuns [mRun]).queuedRun .micro 3 = some mRun ∧ (withRuns [mRun]).runsNext mRun = true ∧
      (withRuns [mRun]).microDrives 3 1000 = [488, 616, 744, 872, 1000, 1128, 1256, 1384, 1512]) ∧
    (Quiet fullQ ∧ fullQ.queuedRun .full 32 = some fRun ∧ fullQ.runsNext fRun = true) ∧
    (Quiet micro2 ∧ micro2.calib.runs.find? (fun r => r.running && r.kind != .channel && r.target == 1024 * 0 + 3) =
      some { mRun with running := true, todo := [900, 1000] }) ∧
    (Quiet micro1 ∧ micro1.calib.runs.find? (fun r => r.running && r.kind != .channel && r.target == 1024 * 0 + 3) =
      some { mRun with running := true, measured := [(900, 50)], todo := [1000] } ∧
      monotonic ([(900, 50)] ++ [(1000, 40)]) = false ∧ Reportable micro1 0x0044 srcSmu 3) ∧
    (Quiet chanQ ∧ chanQ.queuedRun .channel 0 = some { kind := .channel, target := 0 } ∧ chanQ.working = true ∧
      chanQ.tileReach 0 = true ∧ chanQ.smu.bus = .nobody ∧ chanQ.smu.busFault = false ∧
      (∀ c, c < 9 → chanQ.litChannel 0 c = false) ∧
      ∀ f ∈ [(16, (16400 : Int), (3 : Int))], pairOk (tilePair (chanQ.tileRec 0) f.1) f.2 = true) ∧
    (Quiet lit ∧ (lit.conn 0).isSome = true ∧ (clauseOf clause).lit = true ∧ lit.working = true ∧
      (lit.img.inPort 0).bind (·.monitor) = some 0 ∧ (lit.img.outPort 0).bind (·.monitor) = some 1 ∧
      (clauseOf clause).outPort = 0) := by
  unfold Quiet Reportable; decide +kernel

theorem test_calMicroRun : gives (.calMicroRun 3) (withRuns [mRun]) fun t =>
    (t.elem 3).paused && t.out == [.downFrame 0 "CAL_POINT" [3, 488]] := by decide +kernel
theorem test_calFullRun : gives (.calFullRun 32) fullQ fun t => t.out == [.downFrame 0 "CAL_POINT" [32, 0]] := by decide +kernel
theorem test_calSenseReceive : gives (.calSenseReceive 0 3 70) micro2 fun t =>
    t.out == [.downFrame 0 "CAL_POINT" [3, 1000]] && t.calib.runs.map (·.measured) == [[(900, 70)]] := by decide +kernel
theorem test_calSenseFails : gives (.calSenseReceive 0 3 40) micro1 fun t =>
    t.calib.failed == 1 && t.faults.log.map (·.code) == [0x44] && (t.elem 3).calFails == 1 := by decide +kernel
theorem test_calChannelRun : gives (.calChannelRun 0 [(16, 16400, 3)]) chanQ fun t =>
    t.calib.runs == [] && t.calib.passed == 1 && (t.tileRec 0).pairs == [(16, 16400, 3)] := by decide +kernel
theorem test_pathLossUpdate : gives (.pathLossUpdate 0) lit fun t => (t.elem 0).ilEst.isSome := by decide +kernel

/-! ## Verbs of recovery, identity and redundancy; host data -/

/-- Tile 0 fenced; a link cell of region 0 fenced; the active of a pair, a launch out or none. -/
def tileFenced : State := { up with faults := { tileFences := [0] } }
def cellFenced : State := { up with regions := [(0, { clockOk := true, linkFenced := [3] })] }
def sb : Hdr := { src := .sideband, tag := 5 }
def certified : State := { up with chip := { up.chip with otp := { deviceCert := [1, 2] }, digestSerial := 9, digestCurrent := true } }
def activeOne : State := { up with mate := { role := .active, synced := true } }
def launched : State := { activeOne with store := { launches := [{ serial := 1, tick := 0, handle := 1, trigger := .commit hq }] } }

theorem witness_RecoveryAndIdentityVerbsComplete :
    (Quiet tileFenced ∧ Accepts tileFenced hq 0x01 (.resumeRegion hq true 0) ∧ tileFenced.faults.tileFences.contains 0 = true ∧
      (tileFenced.link 0).up = true) ∧
    (Quiet cellFenced ∧ Accepts cellFenced hq 0x01 (.resumeRegion hq false 0) ∧ cellFenced.anyFence 0 = true ∧
      0 ∈ regionTiles cellFenced.img 0 ∧ (cellFenced.link 0).up = true) ∧
    (Quiet up ∧ Accepts up hq 0x02 (.selfTest hq 1 10 []) ∧ bit 1 7 = false ∧ Accepts up sb 0x02 (.selfTest sb 128 10 [])) ∧
    (Accepts up hq 0x03 (.getDigest hq true 0 0) ∧ up.chip.digestCurrent = false ∧ Quiet certified ∧
      Accepts certified hq 0x03 (.getDigest hq true 0x40 0) ∧ certified.chip.digestCurrent = true ∧
      Accepts certified hq 0x04 (.getCert hq 0 0x1000 2) ∧ certified.chip.otp.deviceCert.length ≤ 2) ∧
    (Quiet launched ∧ Accepts launched hq 0x05 (.handover hq false 0) ∧ launched.mate.role = .active ∧
      launched.mate.synced = true ∧ launched.store.launches ≠ []) ∧
    (Quiet activeOne ∧ Accepts activeOne hq 0x05 (.handover hq false 0) ∧ activeOne.store.launches = []) := by
  unfold Quiet Accepts; decide +kernel

theorem test_resumeTile : gives (.resumeRegion hq true 0) tileFenced fun t =>
    t.faults.tileFences == [] && (t.link 0).tile == .adopting && t.out == [.downFrame 0 "CLAIM" []] &&
      t.faults.resumes.length == 1 && t.host.issues == [] := by decide +kernel
theorem test_selfTest : gives (.selfTest hq 1 10 []) up fun t =>
    t.host.issues.map (·.done) == [some (0, 32)] && t.faults.log.length == 32 && !t.faults.safeState := by decide +kernel
theorem test_selfTestOutputs : gives (.selfTest hq 128 10 []) up fun t => t.host.issues.map (·.done) == [some (7, 0)] := by
  decide +kernel
theorem test_getDigestWaits : gives (.getDigest hq true 0 0) up fun t => t.chip.digestWaits == [(hq, 0, 0)] := by decide +kernel
theorem test_getCert : gives (.getCert hq 0 0x1000 2) certified fun t =>
    t.out == [.hostWrite 0x1000 2 0x201] && t.host.issues.map (·.done) == [some (0, 2)] := by decide +kernel
theorem test_handoverWaits : gives (.handover hq true 0) launched fun t => t.mate.handover == .waiting hq true 10 := by
  decide +kernel
theorem test_handover : gives (.handover hq false 7) activeOne fun t =>
    t.mate.handover == .released hq false 7 && t.out.contains (.downFrame 0 "RELEASE" []) &&
      t.out.contains (.mateFrame "ROLE" [3, 0]) := by decide +kernel

/-- Host accesses made for verbs; a digest that is being computed; a self-test that is late. -/
def reading (i : Instr) : State := { stored with hostOps := [{ hdr := hq, verb := i }], adm := { peers := [(0, { state := .up })] } }
def staging : State := reading (.stageList hq true false 1 1 0)
def loading : State := reading (.sweepLoad hq false 3 1 0)
def sending : State := reading (.dalovoSend hq false false 0 1 0 {} 0)
def withPeer : State := { up with adm := { peers := [(0, { state := .up })] } }
def digesting : State := { up with chip := { up.chip with digestBusy := true, digestWaits := [(hq, 0, 0)] } }
def testing : State := { up with host := { up.host with issues := [{ src := .host 0, tag := 5, opcode := 2, limit := some 5 }] } }

theorem witness_DeferredVerbsComplete :
    (Quiet staging ∧ staging.hostOps.find? (fun x => x.hdr == hq) = some { hdr := hq, verb := .stageList hq true false 1 1 0 } ∧
      [clause].all staging.img.clauseOk = true ∧ (staging.sent 1).idle = true ∧ staging.locked 1 = false ∧
      staging.clauseCount - (staging.sent 1).clauses.length + 1 ≤ 1048576) ∧
    (Quiet loading ∧ loading.hostOps.find? (fun x => x.hdr == hq) = some { hdr := hq, verb := .sweepLoad hq false 3 1 0 } ∧
      [point].all pointOk = true ∧ loading.run 3 = none) ∧
    (Quiet sending ∧ sending.hostOps.find? (fun x => x.hdr == hq) =
      some { hdr := hq, verb := .dalovoSend hq false false 0 1 0 {} 0 } ∧ (sending.peer 0).state = .up) ∧
    (Quiet digesting ∧ digesting.chip.digestBusy = true ∧ digesting.chip.digestAgain = false ∧
      digesting.img.mateEnable = false ∧ digesting.chip.digestWaits = [(hq, 0, 0)]) ∧
    (Quiet testing ∧ ∃ i ∈ testing.host.issues, i.src = hq.src ∧ i.tag = hq.tag ∧ i.opcode = 0x02 ∧ i.done = none ∧
      i.limit = some 5) ∧
    (Quiet withPeer ∧ Accepts withPeer hq 0x06 (.dalovoSend hq false false 0 1 0 {} 0) ∧ (withPeer.peer 0).state = .up ∧
      bit (withPeer.perm 0) 4 = true) := by
  unfold Quiet Accepts; decide +kernel

theorem test_stageListData : gives (.verbHostDataDone hq (some { clauses := [clause] })) staging fun t =>
    t.sent 1 == sent1 && t.hostOps == [] && t.host.issues.map (·.done) == [some (0, 0)] := by decide +kernel
theorem test_hostReadFails : gives (.verbHostDataDone hq none) staging fun t =>
    t.host.issues.map (·.done) == [some (0x0D, 0)] := by decide +kernel
theorem test_sweepListData : gives (.verbHostDataDone hq (some { points := [point] })) loading fun t => t.list 3 == [point] := by
  decide +kernel
theorem test_dalovoSendData : gives (.verbHostDataDone hq (some { payload := [7] })) sending fun t =>
    t.adm.queue.length == 1 && (t.peer 0).txSeq == 1 := by decide +kernel
theorem test_digestRecomputeDone : gives .digestRecomputeDone digesting fun t =>
    t.chip.digestSerial == 1 && t.chip.digestCurrent && t.host.issues.length == 1 := by decide +kernel
theorem test_selfTestTimeout : gives (.selfTestTimeout hq) testing fun t =>
    t.host.issues.map (·.done) == [some (0x10, 0)] := by decide +kernel
theorem test_dalovoSend : gives (.dalovoSend hq false false 0 9 0x1000 {} 0) withPeer fun t =>
    t.out == [.hostRead 0x1000 9 false] := by decide +kernel

/-! ## Dalovo -/

/-- Site port 0 up; the peer of identity 7 in each state. -/
def site : State := { up with adm := { sp0Up := true } }
def withState (x : Peer) : State := { up with adm := { sp0Up := true, peers := [(0, x)] } }
def helloFrame : HelloFrame := { srcId := 7, subjectId := 7 }
def shaking : State := withState { state := .handshake, initiator := true, deadline := 5 }
def answering : State := withState { state := .handshake }
def upPeer : Peer := { state := .up, session := 4, rxSeq := some 2, txSeq := 3 }
def session : State := withState upPeer
def idle : State := { session with dt := 3500 * msTicks }
def head : DvHead := { srcId := 7, session := 4, seq := 3 }

theorem witness_DalovoSessionsComplete :
    (Quiet site ∧ site.sitePortUp 0 = true ∧ site.chip.imageApplied = true ∧ site.adm.announced = [] ∧
      site.peerOf 7 = some 0 ∧ (site.peer 0).state = .absent ∧ site.chip.otp.identity < 7 ∧
      site.takesHello helloFrame = true ∧ site.helloOk 0 helloFrame = true) ∧
    (Quiet shaking ∧ shaking.takesHello helloFrame = true ∧ shaking.helloOk 0 helloFrame = true ∧
      (shaking.peer 0).state = .handshake ∧ (shaking.peer 0).initiator = true ∧ (shaking.peer 0).deadline ≤ shaking.dt) ∧
    (Quiet answering ∧ answering.peerOf head.srcId = some 0 ∧ (answering.peer 0).state = .handshake ∧
      (answering.peer 0).initiator = false ∧ (answering.peer 0).port = head.port ∧ answering.sitePortUp 0 = true) ∧
    (Quiet idle ∧ (idle.peer 0).state = .up ∧ (idle.peer 0).lastRx + 3500 * msTicks ≤ idle.dt) ∧
    (Quiet up ∧ up.sitePortUp 0 = false ∧ Reportable site 0x00A1 srcSite 0) := by
  unfold Quiet Reportable; decide +kernel

theorem test_dalovoAnnounceSend : gives (.dalovoAnnounceSend 0) site fun t => t.out.length == 1 && t.adm.announced == [(0, up.dt)] := by
  decide +kernel
theorem test_dalovoAnnounceReceive : gives (.dalovoAnnounceReceive 0 7 false) site fun t =>
    (t.peer 0).state == .handshake && t.out == [.siteFrame 0 "HELLO" [0, 7]] := by decide +kernel
theorem test_dalovoHello : gives (.dalovoHello helloFrame) site fun t => t.out == [.siteFrame 0 "HELLO_REPLY" [0, 7]] := by
  decide +kernel
theorem test_dalovoHelloReply : gives (.dalovoHelloReply helloFrame) shaking fun t =>
    (t.peer 0).session == 1 && t.adm.nextSession == 2 := by decide +kernel
theorem test_dalovoFinish : gives (.dalovoFinish { head with seq := 0 } true) answering fun t =>
    (t.peer 0).state == .up && t.out == [.siteFrame 0 "FINISH" [4, 0]] := by decide +kernel
theorem test_dalovoHandshakeTimeout : gives (.dalovoHandshakeTimeout 0) shaking fun t => (t.peer 0).state == .seen := by
  decide +kernel
theorem test_dalovoClose : gives (.dalovoClose 0 0) session fun t => (t.peer 0).state == .absent && t.out == [] := by decide +kernel
theorem test_dalovoIdleTimeout : gives (.dalovoIdleTimeout 0) idle fun t => (t.peer 0).state == .absent && t.out.length == 1 := by
  decide +kernel
theorem test_sitePortUp : gives (.sitePortLinkChange 0 true) up fun t => t.adm.sp0Up := by decide +kernel
theorem test_sitePortDown : gives (.sitePortLinkChange 0 false) session fun t =>
    (t.peer 0).state == .absent && t.faults.log.map (·.code) == [0xA1] := by decide +kernel

/-- A frame waits, untimed, timed and due, timed and too late; binding 0 receives from and sends to identity 7. -/
def frame0 : UserFrame := { peer := 0, src := .host 0, tag := 6, session := 4, seq := 3 }
def queued0 : State := { session with adm := { session.adm with queue := [frame0] } }
def timed0 : State := { session with adm := { session.adm with queue := [{ frame0 with timed := some (0, 1000000000) }] } }
def late0 : State := { session with adm := { session.adm with queue := [{ frame0 with timed := some (0, 1) }] } }
def bound : State := { session with lsu := { words := List.replicate 12 0 ++ [7, 0xC64] ++ List.replicate 14 0 } }
def sendBound : State := { bound with lsu := { bound.lsu with commissioned := true } }

/-- A SAFETY message PERMIT from identity 7 to 0 with WATCHDOG 100. -/
def permitBytes : List Nat := [1, 0, 7, 0, 0, 0, 0, 0, 0, 0, 1, 0, 100, 0, 0, 0]
def permitBody : BitVec 160 :=
  BitVec.ofNat 160 (bytesNat (permitBytes ++ leBytes 4 (crc32c permitBytes).toNat))

theorem witness_DalovoFramesComplete :
    (Quiet session ∧ Accepted session head 0 ∧ bit (session.perm 0) 4 = true ∧
      (List.range 16).find? (fun k => (tabGet session.adm.rxSlots none k).isNone) = some 0) ∧
    (Quiet queued0 ∧ queued0.adm.queue.find? (fun f => f.port == 0 && f.timed.isNone) = some frame0 ∧
      queued0.sitePortUp 0 = true) ∧
    (Quiet timed0 ∧ timed0.nextTimed 0 = some ({ frame0 with timed := some (0, 1000000000) }, 0, 1000000000) ∧
      0 ≤ timed0.now ∧ timed0.now ≤ 0 + (1000000000 : Nat) * ntNs ∧ timed0.sitePortUp 0 = true) ∧
    (Quiet late0 ∧ late0.nextTimed 0 = some ({ frame0 with timed := some (0, 1) }, 0, 1) ∧ 0 + (1 : Nat) * ntNs < late0.now) ∧
    (Quiet bound ∧ Accepted bound head 0 ∧ bit (bound.perm 0) 3 = true ∧
      bits permitBody.toNat 128 32 = (crc32c ((List.range 16).map (safetyByte permitBody))).toNat ∧
      safetyByte permitBody 10 = 1 ∧ bound.rcOfPeer (bits permitBody.toNat 16 32) = some 0 ∧
      bits permitBody.toNat 48 32 = bound.chip.otp.identity ∧ bits permitBody.toNat 96 16 = bound.lsu.rcWatchdog 0 ∧
      (bound.rc 0).lastSeq = none ∧ (bound.rc 0).state ≠ .expired) ∧
    (bound.lsu.rcSends 0 = true ∧ bound.peerOf (bound.lsu.rcPeer 0) = some 0 ∧ (bound.peer 0).state = .up ∧
      bound.sitePortUp (bound.peer 0).port = true ∧
      { bound with dt := 25 * msTicks }.chip.mainRun = true ∧ (bound.rc 0).sentAt + bound.lsu.rcWatchdog 0 / 4 * msTicks ≤ 25 * msTicks) := by
  unfold Quiet Accepted; and_intros <;> decide +kernel

theorem test_dalovoVerbFrame : gives (.dalovoVerbFrame head (BitVec.ofNat 512 0x50000)) session fun t =>
    t.host.issues.map (fun i => (i.src, i.tag, i.opcode)) == [(.peer 0, 5, 0)] && (t.peer 0).rxSeq == some 3 := by decide +kernel
theorem test_dalovoReplay : gives (.dalovoVerbFrame { head with seq := 2 } 0) session fun t =>
    t.host.issues == [] && (t.peer 0).replay == 1 := by decide +kernel
theorem test_dalovoUserFrame : gives (.dalovoUserFrame head [9] 0) session fun t =>
    (tabGet t.adm.rxSlots none 0).any (fun x => x.1 == 0 && x.2.2 == [9]) && t.host.issues == [] := by decide +kernel
theorem test_dvRxSlotFree : gives (.dvRxSlotFree 2) { up with adm := { rxSlots := [(0, some (0, 0, [])), (1, some (0, 0, []))] } } fun t =>
    tabGet t.adm.rxSlots none 1 == none && (tabGet t.adm.rxSlots none 0).isSome := by decide +kernel
theorem test_dalovoFrameSent : gives (.dalovoFrameSent 0) queued0 fun t =>
    t.adm.queue == [] && t.out == [.siteFrame 0 "USER" [4, 3, 0]] && t.host.owed.map (fun x => (x.2.kind, x.2.status)) == [(7, 0)] := by
  decide +kernel
theorem test_timedDalovoDue : gives (.timedDalovoDue 0) timed0 fun t => t.adm.queue == [] && t.out.length == 1 := by decide +kernel
theorem test_timedDalovoLate : gives (.timedDalovoDue 0) late0 fun t =>
    t.time.dalovoLate == 1 && t.out == [] && t.host.owed.map (·.2.status) == [3] := by decide +kernel
theorem test_safetyFrameReceive : gives (.safetyFrameReceive head permitBody) bound fun t =>
    (t.rc 0).state == .permit && (t.rc 0).lastSeq == some 1 := by decide +kernel
theorem test_safetyFrameSend : gives (.safetyFrameSend 0) { bound with dt := 25 * msTicks } fun t =>
    (t.rc 0).txSeq == 1 && (t.rc 0).sending && t.out.length == 1 := by decide +kernel

/-! ## Light safety -/

/-- A commissioned unit: input 0 in use with complementary contacts, output 0 automatic on it with feedback and test
pulses. -/
def unit : State := { up with lsu := {
  words := [1] ++ List.replicate 7 0 ++ [0xC1830001] ++ List.replicate 19 0
  paramOk := true, commissioned := true, check := 9
  ilks := [(0, { rawA := true, rawB := true, filtA := true, filtB := true, state := .ok })] } }
def demanded : State := { unit with lsu := { unit.lsu with ilks := [(0, { rawA := true, filtA := true, state := .demand })] } }
def litUnit : State := { unit with lsu := { unit.lsu with lens := [(0, { on := true, fbkOpen := false, tpDue := some 9 })] } }
def pulsing : State := { unit with lsu := { unit.lsu with lens := [(0, { on := true, inPulse := true, pulseAt := 7 })] } }
def checked : State := { unit with lsu := { unit.lsu with lens := [(0, { on := true, inPulse := true, pulseAt := 7, check1 := some true })] } }

theorem witness_LightSafetyInputsAndOutputsComplete :
    (Quiet demanded ∧ demanded.chip.por = false ∧ (demanded.ilk 0).state = .demand ∧
      (permissive (demanded.lsu.ilkMode 0) (demanded.ilk 0).filtA (demanded.ilk 0).filtB).1 ≠
        (permissive (demanded.lsu.ilkMode 0) (demanded.ilk 0).filtA (demanded.ilk 0).filtB).2 ∧ Reportable demanded 0x0071 srcLsu 0) ∧
    (Quiet unit ∧ unit.lenAllowed 0 = true ∧ (unit.len 0).on = false ∧ (unit.len 0).fbkOpen = true ∧
      unit.lsu.manual 0 = false ∧ demanded.lenAllowed 0 = false ∧ unit.lsu.lens = []) ∧
    (Quiet litUnit ∧ litUnit.lenAllowed 0 = true ∧ (litUnit.len 0).on = true ∧ litUnit.lsu.used 0 = true ∧
      litUnit.lsu.fbkEn 0 = true ∧ litUnit.fbkLive 0 = true ∧
      (litUnit.len 0).changed + litUnit.lsu.fbkTime 0 * msTicks ≤ litUnit.dt ∧ (litUnit.len 0).cause = .none) ∧
    ((unit.len 0).inPulse = false ∧ Reportable unit 0x0072 srcLsu 0 ∧ unit.faults.safeState = false) ∧
    (litUnit.lsu.tpEn 0 = true ∧ (litUnit.len 0).tpDue = some 9 ∧ litUnit.pulseFree 0 9 = true ∧ (litUnit.len 0).inPulse = false) ∧
    (Quiet pulsing ∧ (pulsing.len 0).inPulse = true ∧ (pulsing.len 0).check1 = none ∧ (pulsing.len 0).cause = .none ∧
      Quiet checked ∧ (checked.len 0).check1 = some true ∧ (checked.len 0).demandInPulse = false) := by
  unfold Quiet Reportable; and_intros <;> decide +kernel

theorem test_ilkContactChange : gives (.ilkContactChange 0 true true) demanded fun t => (t.ilk 0).state == .ok := by decide +kernel
theorem test_ilkDiscrepancy : gives (.ilkDiscrepancy 0) demanded fun t =>
    (t.ilk 0).state == .discrepancy && t.faults.log.map (·.code) == [0x71] := by decide +kernel
theorem test_lenEvaluate : gives .lenEvaluate unit fun t => (t.len 0).on && !(t.len 1).on := by decide +kernel
theorem test_lenEvaluateDemand : gives .lenEvaluate { litUnit with lsu := { litUnit.lsu with ilks := demanded.lsu.ilks } } fun t =>
    !(t.len 0).on := by decide +kernel
theorem test_fbkTimeout : gives (.fbkTimeout 0 true) litUnit fun t => (t.len 0).cause == .fbkTimeout && !(t.len 0).on := by decide +kernel
theorem test_stuckOnDetect : gives (.stuckOnDetect 0) unit fun t =>
    (t.len 0).cause == .stuckOn && t.faults.safeState && t.faults.log.map (·.severity) == [3] := by decide +kernel
theorem test_testPulseStart : gives (.testPulseStart 0) litUnit fun t => (t.len 0).inPulse && (t.len 0).pulseAt == up.dt := by decide +kernel
theorem test_testPulseFails : gives (.testPulseCheck 0 true) pulsing fun t => (t.len 0).cause == .testFail := by decide +kernel
theorem test_testPulseCheck : gives (.testPulseCheck 0 true) checked fun t =>
    (t.len 0).last == .passed && (t.len 0).tpDue == some (7 + secTicks) := by decide +kernel

/-- The key after its first word and open; an output stuck on that agrees; an input whose discrepancy may end. -/
def keyed : State := { unit with lsu := { unit.lsu with keyPhase := 1 } }
def opened : State := { unit with lsu := { unit.lsu with keyPhase := 2 } }
def stuck : State := { unit with dt := 10 * msTicks, lsu := { unit.lsu with
  lens := [(0, { cause := .stuckOn, agreeSince := some 0 })]
  ilks := [(0, { rawA := true, rawB := true, filtA := true, filtB := true, state := .discrepancy, seenPerm := true })] } }
def committing : State := { unit with lsu := { unit.lsu with recordPending := some 9 } }
def receiving : State := { bound with dt := 100 * msTicks }
def block : SafetyBlock := { words := List.replicate 28 0, expected := safeCheck (List.replicate 28 0) }

theorem witness_LightSafetyCommissioningComplete :
    (keyed.chip.por = false ∧ keyed.lsu.keyPhase = 1 ∧ opened.lsu.keyPhase = 2 ∧ opened.dt ≤ opened.lsu.keyAt + secTicks ∧
      opened.lsu.check ≠ 0 ∧ opened.lsu.keyAt + secTicks ≤ { opened with dt := secTicks }.dt) ∧
    (Quiet stuck ∧ bit (0x101#32).toNat (8 + 0) = true ∧ bit (0x101#32).toNat 0 = true ∧ (stuck.len 0).cause = .stuckOn ∧
      (stuck.len 0).agreeSince = some 0 ∧ 0 + 10 * msTicks ≤ stuck.dt ∧ (stuck.ilk 0).state = .discrepancy ∧
      (stuck.ilk 0).seenPerm = true) ∧
    (block.words.length = 28 ∧ up.lsu.words = []) ∧
    (committing.lsu.recordPending = some 9 ∧ committing.chip.mainRun = true) ∧
    (unit.lsu.fault = false ∧ Reportable unit 0x0073 srcLsu 1) ∧
    (receiving.lsu.rcReceives 0 = true ∧ (receiving.rc 0).lastAt + receiving.lsu.rcWatchdog 0 * msTicks ≤ receiving.dt) := by
  unfold Quiet Reportable; and_intros <;> decide +kernel

theorem test_safeKeyFirst : gives (.safeKeyWrite 0x5A1E) unit fun t => t.lsu.keyPhase == 1 := by decide +kernel
theorem test_safeKeySecond : gives (.safeKeyWrite 0xA5E1) keyed fun t => t.lsu.keyPhase == 2 := by decide +kernel
theorem test_safeCommitWrite : gives (.safeCommitWrite 9) opened fun t => t.lsu.committed == 9 && t.lsu.recordPending == some 9 := by decide +kernel
theorem test_safeCommitWithdraws : gives (.safeCommitWrite 0) { opened with lsu := { opened.lsu with lens := litUnit.lsu.lens } } fun t =>
    !t.lsu.commissioned && !(t.len 0).on := by decide +kernel
theorem test_safeKeyTimeout : gives .safeKeyTimeout { opened with dt := secTicks } fun t => t.lsu.keyPhase == 0 := by decide +kernel
theorem test_safeAckOutput : gives (.safeAckWrite 0x100) stuck fun t => (t.len 0).cause == .none && (t.ilk 0).state == .discrepancy := by decide +kernel
theorem test_safeAckInput : gives (.safeAckWrite 1) stuck fun t => (t.ilk 0).state == .ok && (t.len 0).cause == .stuckOn := by decide +kernel
theorem test_lenForceOffWrite : gives (.lenForceOffWrite 1) litUnit fun t => (t.len 0).forceOff && !(t.len 0).on := by decide +kernel
theorem test_safetyRecordWrite : gives (.safetyRecordWrite true) committing fun t => t.lsu.record == some (9, true) := by decide +kernel
theorem test_lsuSelfCheck : gives (.lsuSelfCheck true false true true) litUnit fun t =>
    t.lsu.fault && !(t.len 0).on && t.faults.log.map (fun f => (f.code, f.detail0)) == [(0x73, 1)] := by decide +kernel
theorem test_bindingWatchdogExpire : gives (.bindingWatchdogExpire 0) receiving fun t => (t.rc 0).state == .expired := by decide +kernel


/-! ## Host queues, sideband, PCIe function -/

/-- Queue 0 runs with 16 entries, two of them read out; one event and one completion are held up to be posted. -/
def q0 : Queue := { enable := true, state := .running, sqBase := 0x1000, cqBase := 0x2000, eqBase := 0x3000, reading := 2, time := 5,
                    cqTail := 1, eqTail := 1, cqUnsignalled := 1, cqCount := 4, eqCount := 4 }
def withQueue (x : Queue) : State := { up with host := { up.host with queues := [(0, x)], msixUnmasked := [(0, true)] } }
def fetching : State := withQueue q0
def between : State := withQueue { q0 with reading := 0 }
def draining : State := withQueue { q0 with enable := false, state := .draining, reading := 0 }
def anEvent : Event := { kind := 5, tag := 9 }
def owing : State := { fetching with host := { fetching.host with
  issues := [{ src := .host 0, tag := 5, opcode := 0x00, done := some (0, 0) }], owed := [(.host 0, anEvent)] } }
def brimful : State := { owing with host := { owing.host with queues := [(0, { q0 with eqTail := 15 })] } }
def sbOwing : State := { up with host := { up.host with
  issues := [{ src := .sideband, tag := 5, done := some (0, 0) }], owed := [(.sideband, anEvent)]
  sbCompletions := [7], sbEvents := [8] } }
def sbBusy : State := { up with host := { up.host with
  issues := List.replicate 4 { src := .sideband } } }
def ringing : State := { up with store := { up.store with sentences := [(1, { state := .armed, slot := some 0 })] } }
def unlit : State := { up with store := { up.store with sentences := [(1, { state := .stored })] } }

theorem witness_QueueRowsComplete :
    (Quiet up ∧ up.chip.por = false ∧ up.chip.mainRun = true ∧ (up.colour (.host 0) ((verbClass (ebytes 0 0 1)).getD 3)).1 ≠ 2 ∧
      up.entryGate (.host 0) 0 = none ∧ up.entryGate (.host 0) 0x08 = some 0x0E) ∧
    (Quiet between ∧ (between.queue 0).state = .running ∧ 3 < 2 ^ (between.queue 0).size ∧ (between.queue 0).reading = 0 ∧
      between.canMaster = true ∧ 0 < (between.setQueue 0 { between.queue 0 with sqTail := 3 }).fetchCount 0 ∧
      2 ^ (between.queue 0).size ≤ 16) ∧
    (ringLen (2 ^ (fetching.queue 0).size) (fetching.queue 0).cqHead 1 ≤
      ringLen (2 ^ (fetching.queue 0).size) (fetching.queue 0).cqHead (fetching.queue 0).cqTail ∧ (fetching.queue 0).reading = 2 ∧
      ringLen (2 ^ (fetching.queue 0).eqSize) (fetching.queue 0).eqHead 1 ≤
      ringLen (2 ^ (fetching.queue 0).eqSize) (fetching.queue 0).eqHead (fetching.queue 0).eqTail ∧ (fetching.queue 0).held = [] ∧
      (fetching.queue 0).droppedSince = 0 ∧ Quiet fetching ∧ (fetching.queue 0).state = .running ∧ (fetching.queue 0).posts = true) := by
  unfold Quiet; and_intros <;> decide +kernel

theorem test_verbArrival : gives (.verbArrival (.host 0) 0x00050000) up fun t =>
    t.host.issues == [{ src := .host 0, tag := 5, at_ := up.dt }] := by decide +kernel
theorem test_verbArrivalBad : gives (.verbArrival (.host 0) 0x00050008) up fun t =>
    t.host.issues.map (·.done) == [some (0x0E, 0)] := by decide +kernel
theorem test_sqTailWrite : gives (.sqTailWrite 0 3) between fun t =>
    t.out == [.hostRead 0x1000 192 false] && (t.queue 0).reading == 3 := by decide +kernel
theorem test_sqTailBad : gives (.sqTailWrite 0 16) between fun t => (t.queue 0).state == .error && (t.queue 0).errCode == 1 := by
  decide +kernel
theorem test_cqHeadWrite : gives (.cqHeadWrite 0 1) fetching fun t => (t.queue 0).cqHead == 1 && (t.queue 0).state == .running := by
  decide +kernel
theorem test_cqHeadBad : gives (.cqHeadWrite 0 2) fetching fun t => (t.queue 0).errCode == 2 := by decide +kernel
theorem test_eqHeadWrite : gives (.eqHeadWrite 0 1) fetching fun t => (t.queue 0).eqHead == 1 := by decide +kernel
theorem test_sqEntryFetch : gives (.sqEntryFetch 0 [0x00050000, 0x00060000]) fetching fun t =>
    t.host.issues.map (·.tag) == [5, 6] && (t.queue 0).sqHead == 2 := by decide +kernel
theorem test_sqReadFail : gives (.sqReadFail 0) fetching fun t => (t.queue 0).errCode == 3 := by decide +kernel
theorem test_cqEqWriteFail : gives (.cqEqWriteFail 0 true) fetching fun t =>
    (t.queue 0).errCode == 5 && (t.queue 0).lost == 1 := by decide +kernel

theorem witness_QueueControlRowsComplete :
    (up.chip.mainRun = true ∧ (up.queue 0).enable = false ∧ (up.queue 0).state = .disabled) ∧
    ((fetching.queue 0).state = .running ∧ (fetching.queue 0).enable = true) ∧
    ((draining.queue 0).state = .draining ∧ draining.inflight 0 = 0 ∧ (draining.queue 0).enable = false) := by decide +kernel

theorem test_queueEnable : gives (.queueEnable 0) up fun t => (t.queue 0).state == .running := by decide +kernel
theorem test_queueDisable : gives (.queueDisable 0) fetching fun t => (t.queue 0).state == .draining := by decide +kernel
theorem test_queueDrained : gives (.queueDrained 0) draining fun t => (t.queue 0).state == .disabled := by decide +kernel
theorem test_queueConfigWrite : gives (.queueConfigWrite 0 6 0xC4) up fun t =>
    (t.queue 0).size == 4 && (t.queue 0).eqSize == 12 && !(t.queue 0).cfgErr := by decide +kernel
theorem test_queueConfigBusy : gives (.queueConfigWrite 0 6 0xC4) fetching fun t =>
    (t.queue 0).eqSize == 4 && (t.queue 0).cfgErr := by decide +kernel

theorem witness_PostingRowsComplete :
    (takeIssue (.host 0) owing.host.issues = some ({ src := .host 0, tag := 5, done := some (0, 0) }, []) ∧
      owing.heldBack (.host 0) 5 = false ∧ (owing.queue 0).posts = true ∧ owing.canMaster = true ∧ Quiet owing) ∧
    (takeIssue .sideband sbOwing.host.issues = some ({ src := .sideband, tag := 5, done := some (0, 0) }, []) ∧
      sbOwing.heldBack .sideband 5 = false ∧ Quiet sbOwing) ∧
    (owing.nextEvent owing.host.owed = some ((.host 0, anEvent), []) ∧ (owing.queue 0).eqFull = false ∧ (owing.queue 0).held = [] ∧
      (owing.queue 0).droppedSince = 0 ∧ Quiet brimful ∧ brimful.nextEvent brimful.host.owed = some ((.host 0, anEvent), []) ∧
      (brimful.queue 0).posts = true ∧ (brimful.queue 0).eqFull = true) ∧
    ((fetching.queue 0).time ≠ 0 ∧ (fetching.queue 0).cqUnsignalled ≠ 0 ∧
      (fetching.queue 0).cqOldest + (fetching.queue 0).time * usTicks ≤ fetching.dt ∧ fetching.host.msixEn = true ∧
      tabGet fetching.host.msixUnmasked false 0 = true ∧ fetching.canMaster = true) ∧
    (Quiet ringing ∧ (ringing.colour (.host 0) 0).1 ≠ 2 ∧ ringing.verbReady 0x16 = true ∧ ringing.faults.safeState = false ∧
      (ringing.sent 1).state = .armed ∧ Quiet unlit ∧ (unlit.colour (.host 0) 0).1 ≠ 2 ∧ unlit.verbReady 0x16 = true ∧
      unlit.faults.safeState = false ∧ (unlit.sent 1).state = .stored) := by
  unfold Quiet; and_intros <;> decide +kernel

theorem test_completionPost : gives (.completionPost (.host 0)) owing fun t =>
    t.out == [.hostWrite 0x2010 16 (5 + 2 ^ 48)] && (t.queue 0).cqTail == 2 && t.host.issues == [] := by decide +kernel
theorem test_completionPostSideband : gives (.completionPost .sideband) sbOwing fun t =>
    t.host.sbCompletions == [7, 5 + 2 ^ 48] := by decide +kernel
theorem test_eventPost : gives .eventPost owing fun t =>
    t.out == [.hostWrite 0x3040 64 (5 + 2 ^ 8 + 2 ^ 16 * 9)] && (t.queue 0).eqTail == 2 && t.host.owed == [] := by decide +kernel
theorem test_eventPostFull : gives .eventPost brimful fun t => (t.queue 0).held == [anEvent] && t.out == [] := by decide +kernel
theorem test_msixInterruptTimer : gives (.msixInterruptTimer 0 false) fetching fun t => t.out == [.msix 0] := by decide +kernel
theorem test_fireDoorbell : gives (.fireDoorbell 0x00090001) ringing fun t =>
    (t.sent 1).state == .launching && t.store.p0Queue.map (·.trigger) == [.doorbell 0 9] := by decide +kernel
theorem test_fireDoorbellIdle : gives (.fireDoorbell 0x00090001) unlit fun t =>
    t.host.owed.map (fun e => (e.1, e.2.tag, e.2.status)) == [(.host 0, 9, 6)] := by decide +kernel

theorem witness_SidebandAndFunctionRowsComplete :
    (up.chip.por = false ∧ up.sbPending < 4 ∧ up.sbPending + up.host.sbCompletions.length < 16 ∧ Quiet up) ∧
    (sbBusy.chip.por = false ∧ 4 ≤ sbBusy.sbPending) ∧
    (sbOwing.chip.por = false ∧ sbOwing.host.sbCompletions = [7] ∧ sbOwing.host.sbEvents = [8] ∧
      sbOwing.host.sbEventDropped = 0) ∧
    (up.chip.mainRun = true ∧ up.host.perst = false ∧ { up with host := { up.host with perst := true } }.host.perst = true) := by
  unfold Quiet; and_intros <;> decide +kernel

theorem test_sbVerbWrite : gives (.sbVerbWrite 0x00050000 64 true) up fun t => t.host.issues.map (·.tag) == [5] := by decide +kernel
theorem test_sbVerbWriteFifth : gives (.sbVerbWrite 0x00050000 64 true) sbBusy fun t => t.out == [.smbusNack] := by decide +kernel
theorem test_sbVerbWritePec : gives (.sbVerbWrite 0x00050000 64 false) up fun t =>
    t.host.sbDropped == 1 && t.host.issues == [] := by decide +kernel
theorem test_sbCompletionRead : gives .sbCompletionRead sbOwing fun t =>
    t.out == [.smbusData (byteList 16 7)] && t.host.sbCompletions == [] := by decide +kernel
theorem test_sbEventRead : gives .sbEventRead sbOwing fun t => t.out == [.smbusData (byteList 64 8)] && t.host.sbEvents == [] := by
  decide +kernel
theorem test_sbWindowOffset : gives (.sbWindowOffset 8 true) up fun t => t.host.sbOffset == 8 := by decide +kernel
theorem test_sbWindowOffsetOdd : gives (.sbWindowOffset 6 true) up fun t => t.host.sbOffset == 0 && t.out == [.smbusNack] := by
  decide +kernel

theorem test_pcieFunctionReset : gives .pcieFunctionReset owing fun t =>
    t.host.queues == [] && t.host.flrCount == 1 && t.host.issues == [] && t.host.owed == [] := by decide +kernel
theorem test_pciePerst : gives (.pciePerst true) owing fun t => t.host.perst && !t.host.bme && t.host.queues == [] := by decide +kernel
theorem test_pciePerstEnd : gives (.pciePerst false) { up with host := { perst := true } } fun t =>
    t.host.bme && t.host.speed == 4 := by decide +kernel
theorem test_pciePowerStateChange : gives (.pciePowerStateChange true) owing fun t => t.host.d3hot && !t.canMaster := by
  decide +kernel
theorem test_bar0AccessError : gives (.bar0AccessError false 0x10 2) up fun t => t.out == [.unsupportedRequest] := by decide +kernel

/-! ## Banks, DDR, DMA; registers and windows; meters -/

/-- Bank 0 is the host's and holds a clean word; bank 1 is clean; each kind of change that waits on a bank of its own. -/
def banked : State := { up with mem := { up.mem with
  bytes := [(0, 0x11), (1, 0x22)], clean := [(0, true), (131072, true)]
  banks := [(0, { owner := ownHost }), (1, { owner := ownDma }), (2, { owner := ownHost, pendingOwner := some ownDma }),
            (3, { owner := ownHost, pendingPower := some .off }), (4, { owner := ownHost, initEnd := some 5 })] } }
/-- A channel that moves two bytes from bank 0 to bank 1; the same with a host source. -/
def oneElem : DmaChan := { src := 0, dst := 2 ^ 20, esize := 1, enable := true, srcSpace := 1, dstSpace := 1 }
def withChan (c : DmaChan) : State := { banked with mem := { banked.mem with chans := [(0, c)] } }
def dmaRunning : State := withChan { oneElem with state := .running }
def halted : State := withChan { oneElem with state := .halted, errCause := 5 }
def toHost : State := withChan { oneElem with state := .running, dstSpace := 0, dst := 0x5000 }
def untrained : State := { up with mem := {} }

theorem witness_MemoryRowsComplete :
    (MemForm banked ∧ banked.chip.mainRun = true ∧ 5 + 1 ≤ banksSize ∧ (banked.bank (5 / bankSize)).hostReach = true) ∧
    (Quiet banked ∧ banked.mem.bad = [] ∧ banked.mem.wordClean 0 = true ∧ banked.mem.wordClean 1 = false ∧
      (banked.bank (2 ^ 20 / bankSize)).hostReach = false ∧ banksSize < banksSize + 1) ∧
    ((banked.bank 0).awake = true ∧ (banked.bank 0).soft = true ∧ bits (1#32).toNat 0 3 ≤ ownDma ∧
      (banked.bank 0).pendingOwner = none ∧ (banked.bank 2).pendingOwner = some ownDma) ∧
    (bits (6#32).toNat 0 2 < 3 ∧ bit (6#32).toNat 3 = false ∧
      powerOf (bits (6#32).toNat 0 2) ≠ (banked.bank 0).pendingPower.getD (banked.bank 0).power ∧
      (banked.bank 3).pendingPower = some .off ∧ (banked.bank 4).initEnd = some 5 ∧ 5 ≤ banked.dt) ∧
    (untrained.chip.mainRun = true ∧ untrained.chip.imageApplied = true ∧ untrained.ddrReady = false ∧
      Reportable untrained 0x00C1 11 0) := by
  unfold Quiet Reportable MemForm; and_intros <;> decide +kernel

theorem test_bar2Write : gives (.bar2Access true 5 0 [some 0x33]) banked fun t => t.mem.bytes == [(0, 0x11), (1, 0x22), (5, 0x33)] := by
  decide +kernel
theorem test_bar2Read : gives (.bar2Access false 0 4 []) banked fun t => t.out == [.readData [0x2211]] := by decide +kernel
theorem test_bankAccessCollide : gives (.bankAccessCollide 1 2 0x44 0x55) banked fun t =>
    t.mem.get (2 ^ 20 + 16) == 0x44 && (t.bank 1).collides == 1 && t.mem.wordClean 131074 := by decide +kernel
theorem test_bankOwnerWrite : gives (.bankOwnerWrite 0 1) banked fun t => (t.bank 0).pendingOwner == some 1 := by decide +kernel
theorem test_bankOwnerChanged : gives (.bankOwnerChanged 2) banked fun t => (t.bank 2).owner == ownDma := by decide +kernel
theorem test_bankPowerWrite : gives (.bankPowerWrite 0 6) banked fun t =>
    (t.bank 0).pendingPower == some .off && (t.bank 0).rotate := by decide +kernel
theorem test_bankPowerReached : gives (.bankPowerReached 3) banked fun t =>
    (t.bank 3).power == .off && !t.mem.wordClean (3 * 131072) := by decide +kernel
theorem test_bankInit : gives (.bankInit 0) banked fun t => (t.bank 0).initEnd == some (up.dt + 204800) := by decide +kernel
theorem test_bankInitDone : gives (.bankInitDone 4) banked fun t => t.mem.wordClean (4 * 131072) := by decide +kernel
theorem test_ddrTrainingDone : gives (.ddrTrainingDone true true) untrained fun t => t.ddrReady := by decide +kernel
theorem test_ddrTrainingFails : gives (.ddrTrainingDone true false) untrained fun t =>
    t.chip.heldFabric && t.faults.log.map (·.code) == [0xC1] := by decide +kernel

theorem witness_DmaRowsComplete :
    ((withChan oneElem).chip.mainRun = true ∧ ((withChan oneElem).chan 0).enable = true ∧ (withChan oneElem).mem.dmaDisable = false ∧
      ((withChan oneElem).chan 0).state = .idle ∧ (withChan oneElem).host.bme = true ∧ (halted.chan 0).state = .halted) ∧
    ((toHost.chan 0).state = .running ∧ (toHost.chan 0).supplied (toHost.chan 0).total [] = true ∧ (toHost.chan 0).dstSpace ≠ 1 ∧
      (moveElems (toHost.chan 0) (toHost.overlaps (toHost.chan 0)) toHost [] 0 1).2 = none) ∧
    (Quiet dmaRunning ∧ MemForm dmaRunning ∧ (dmaRunning.chan 0).state = .running ∧ (dmaRunning.chan 0).moved = 0 ∧
      (dmaRunning.chan 0).total = 1 ∧ (dmaRunning.chan 0).width = 2 ∧ (dmaRunning.chan 0).steps = [0, 0, 0, 0, 0, 0] ∧
      0 + 2 ≤ banksSize ∧ 2 ^ 20 + 2 ≤ banksSize ∧ 0 + 2 ≤ 2 ^ 20 ∧
      (∀ i, i < 2 → dmaRunning.mem.wordClean ((0 + i) / 8) = true ∧ dmaRunning.mem.wordClean ((2 ^ 20 + i) / 8) = true ∧
        (dmaRunning.bank ((0 + i) / bankSize)).owner ≤ ownDma ∧ (dmaRunning.bank ((0 + i) / bankSize)).awake = true ∧
        (dmaRunning.bank ((2 ^ 20 + i) / bankSize)).owner ≤ ownDma ∧ (dmaRunning.bank ((2 ^ 20 + i) / bankSize)).awake = true) ∧
      dmaRunning.mem.bad = [] ∧ dmaRunning.mem.poisonNext = none) := by
  unfold Quiet MemForm; and_intros <;> decide +kernel

theorem test_dmaGo : gives (.dmaGo 0) (withChan oneElem) fun t => (t.chan 0).state == .running := by decide +kernel
theorem test_dmaResume : gives (.dmaResume 0) halted fun t => (t.chan 0).state == .running && (t.chan 0).errCause == 0 := by
  decide +kernel
theorem test_dmaEnableClear : gives (.dmaEnableClear 0) (withChan oneElem) fun t => (t.chan 0).state == .dropped && !(t.chan 0).enable := by
  decide +kernel
theorem test_dmaGlobalDisable : gives .dmaGlobalDisable dmaRunning fun t => t.mem.dmaDisable && (t.chan 15).state == .dropped := by
  decide +kernel
theorem test_dmaReadbackDone : gives (.dmaReadbackDone 0 true []) dmaRunning fun t =>
    t.mem.get (2 ^ 20) == 0x11 && t.mem.get (2 ^ 20 + 1) == 0x22 && (t.chan 0).done := by decide +kernel
theorem test_dmaToHost : gives (.dmaReadbackDone 0 true []) toHost fun t =>
    t.out.head? == some (.hostWrite 0x5000 2 0x2211) && (t.chan 0).done := by decide +kernel
theorem test_dmaErrorHalt : gives (.dmaErrorHalt 0 true 5 0 0 0 []) dmaRunning fun t =>
    (t.chan 0).state == .halted && (t.chan 0).errCause == 5 && (t.chan 0).errWrite := by decide +kernel

/-- The window's offset at SB_MAIN_DATA, MX_AGE behind it; the meter of host queue 0's class 1 selected; the instant of a
telemetry sample, with a verb that has waited 3 µs. -/
def windowed : State := { up with host := { up.host with sbOffset := 0x8004 }, chip := { up.chip with sbMainAddr := 0xA0208 } }
def metering : State := { up with adm := { up.adm with selClass := 1 } }
def sampling : State := { up with host := { up.host with issues := [{ src := .host 0, at_ := up.dt - 3 * usTicks }] } }

theorem witness_RegisterAndMeterRowsComplete :
    (Quiet up ∧ up.chip.mainRun = true ∧ up.host.perst = false ∧ (up.region 15).fenced = false ∧ up.chip.por = false ∧
      up.host.sbOffset = 0 ∧ { up with host := { up.host with sbOffset := 0x8000 } }.host.sbOffset = 0x8000) ∧
    (windowed.chip.por = false ∧ windowed.host.sbOffset = 0x8004 ∧ windowed.chip.mainRun = true ∧ windowed.chip.sbMainAddr = 0xA0208) ∧
    (metering.chip.mainRun = true ∧ metering.adm.selClass ≠ 0 ∧ metering.adm.selSource < 25) ∧
    (sampling.chip.mainRun = true ∧ sampling.dt % 12500 = 0) := by
  unfold Quiet; and_intros <;> decide +kernel

theorem test_registerWrite : gives (.registerWrite 0xA0208 5 true) up fun t => t.mem.mxAge == 16 && t.mem.ownErr := by decide +kernel
theorem test_registerWriteRegion : gives (.registerWrite 0x1F4100 0x7C05 true) up fun t => (t.region 15).elemSel == 0x7C05 := by
  decide +kernel
theorem test_sbWindowRead : gives (.sbWindowAccess false 4 [] true) up fun t =>
    t.out == [.smbusData [0x20, 0x26, 0x01, 0x4B]] && t.host.sbOffset == 4 := by decide +kernel
theorem test_sbWindowWrite : gives (.sbWindowAccess true 4 [0x40] true) windowed fun t => t.mem.mxAge == 0x40 := by decide +kernel
theorem test_admMeterWrite : gives (.admMeterWrite 0 0xFFFFFF) metering fun t =>
    (t.standing 1).cir == 2000000 && t.adm.meterErr := by decide +kernel
theorem test_queueTelemetrySample : gives .queueTelemetrySample sampling fun t =>
    (tabGet t.adm.tel {} 0).depth == 1 && (tabGet t.adm.tel {} 0).delay == 3 := by decide +kernel
theorem test_p0LatencyClearMax : gives .p0LatencyClearMax { up with store := { up.store with p0Max := 7 } } fun t =>
    t.store.p0Max == 0 := by decide +kernel
theorem test_mateGapClearMax : gives .mateGapClearMax { up with mate := { up.mate with gapMax := 7 } } fun t => t.mate.gapMax == 0 := by
  decide +kernel
theorem test_admTelClearMax : gives .admTelClearMax { up with adm := { up.adm with tel := [(0, { maxDepth := 7 })] } } fun t =>
    (tabGet t.adm.tel {} 0).maxDepth == 0 := by decide +kernel

/-! ## Launches -/

/-- Input port 0 to output port 0, as staged and as routed through element 0. -/
def made : Clause := { inPort := 0, outPort := 0, path := 0, lit := false, brk := false, clsOvr := 0, clsEn := false, e1 := noEid, e2 := noEid, e3 := noEid, pgroup := 0, resv := false }
def make00 : Rec128 := made.toRec
def routed00 : Rec128 := (made.routed [0]).toRec

/-- A crossbar whose elements 0 and 1 are DARK-OFF. -/
def crossbar : State := { up with
  chip := { up.chip with fabClass := fcCrossbar }
  loops := { up.loops with elems := [(0, { st := .darkOff }), (1, { st := .darkOff })] } }
def fabric (x : Store) : State := { crossbar with store := x }

/-- Sentence 1 is being committed: its preparation waits; is done; its elements are busy. -/
def hc : Hdr := { src := .host 0, tag := 7 }
def committing1 : Sentence := { state := .launching, clauses := [make00] }
def prepWaits : Prep := { id := 3, handle := 1, trigger := .commit hc }
def prepDone : Prep := { prepWaits with done := some [(routed00, rsApplied)] }
def preparing : State := fabric { sentences := [(1, committing1)], preps := [prepWaits], nextPrep := 4 }
def unplaceable : State := { preparing with loops := {} }
def prepared : State := fabric { sentences := [(1, committing1)], preps := [prepDone], nextPrep := 4 }
def arming : State := fabric { sentences := [(1, { state := .stored, clauses := [make00], slot := some 0 })], preps := [{ prepWaits with trigger := .arming hc }] }
def armed1 : Sentence := { state := .launching, clauses := [make00], slot := some 0, armedList := [(routed00, rsApplied)], armedMoved := [0] }
def fast : State := { crossbar with paost := { up.paost with links := [(0, { goodLink with speed := 4 })] } }
def firing : State := { fast with store := { sentences := [(1, armed1)], p0Queue := [{ handle := 1, trigger := .fire hc, arrival := up.dt - 100 }] } }
def staled : State := fabric { sentences := [(1, { armed1 with state := .stale })] }

/-- A launch of that sentence, scheduled for now or for an hour ago; a paragraph at its first step likewise. -/
def planned (t : Int) : Sched := { handle := 1, t, late := 0, src := .host 0, tag := 9 }
def schedTok (t : Int) : State := fabric { sentences := [(1, { committing1 with state := .scheduled })], scheds := [planned t], preps := [{ prepDone with trigger := .schedule (.host 0) 9 t 0 }], nextPrep := 4 }
def unprepared : State := fabric { sentences := [(1, { committing1 with state := .scheduled })], scheds := [planned 0] }
def soon : Int := up.now + 1000 * ntNs
def playing (t : Int) : State := fabric { sentences := [(1, { committing1 with state := .stored })]
                                          paras := [(2, { state := .running, steps := [(1, 0)], period := 5000, start := t, repeats := 0xFFFF })]
                                          preps := [{ prepDone with trigger := .paraStep 2 0 0 .sideband 0 t 0 }], nextPrep := 4 }
def unplayed : State := { playing 0 with store := { (playing 0).store with preps := [] } }

theorem witness_PreparationRowsComplete :
    (preparing.store.preps.find? preparing.servable = some prepWaits ∧ prepWaits.arms = false ∧
      (preparing.routeSentence 1 false).1.any placedClause = true) ∧
    (Quiet unplaceable ∧ unplaceable.store.preps.find? unplaceable.servable = some prepWaits ∧
      (unplaceable.routeSentence 1 false).1 ≠ [] ∧ (unplaceable.routeSentence 1 false).1.any placedClause = false ∧
      (∀ x ∈ (unplaceable.routeSentence 1 false).1, x.2 ≠ rsAbsent)) ∧
    (arming.store.preps.find? arming.servable = some { prepWaits with trigger := .arming hc } ∧
      (let ms := movingEids (arming.tableChange 1 0 ((arming.routeSentence 1 false).1.map (·.1))
          ((arming.routeSentence 1 false).1.map (·.2)) (arming.routeSentence 1 false).2.moves).acts
       arming.pinsFit (dedup (arming.armedElems ++ ms ++ ms.flatMap arming.img.neighbours)) = true)) ∧
    (unprepared.store.scheds.find? (fun y => y.handle = 1) = some (planned 0) ∧
      (planned 0).t - (unprepared.img.prepLead : Int) * 1000 * ntNs ≤ unprepared.now ∧
      unprepared.preparing (Prep.isSched · 1) = false) ∧
    ((unplayed.para 2).state = .running ∧ (unplayed.para 2).time 0 0 - (unplayed.img.prepLead : Int) * 1000 * ntNs ≤ unplayed.now ∧
      (unplayed.sent (unplayed.para 2).handle).idle = true ∧ unplayed.preparing (Prep.isPara · 2) = false) ∧
    ((staled.sent 1).state = .stale ∧ staled.armFenced (staled.sent 1) = false ∧
      staled.preparing (fun p => p.arms && p.handle == 1) = false) := by
  unfold Quiet; and_intros <;> decide +kernel

theorem test_sentencePrepare : gives .sentencePrepare preparing fun t =>
    t.store.preps.map (·.done) == [some [(routed00, rsApplied)]] := by decide +kernel
theorem test_sentencePrepareRefused : gives .sentencePrepare unplaceable fun t =>
    t.host.issues.map (fun i => (i.tag, i.done.map (·.1))) == [(7, some 2)] && (t.sent 1).state == .stored := by decide +kernel
theorem test_sentencePrepareArm : gives .sentencePrepare arming fun t =>
    (t.sent 1).armedMoved == [0] && t.out.head? == some (.downFrame 0 "SLOT_OPEN" [0, 1]) := by decide +kernel
theorem test_prepLeadDue : gives (.prepLeadDue false 1) unprepared fun t => t.store.preps.map (·.handle) == [1] := by decide +kernel
theorem test_prepLeadDuePara : gives (.prepLeadDue true 2) unplayed fun t => t.store.preps.map (·.handle) == [1] := by decide +kernel
theorem test_staleReprepare : gives (.staleReprepare 1) staled fun t => t.store.preps.map (·.trigger) == [.restale] := by decide +kernel

/-- A launch whose clauses wait to be reversed. -/
def reversing : State := fabric { launches := [{ serial := 9, tick := 0, handle := 1, trigger := .commit hc, settled := true, revActs := [{ clause := 0, eid := 0, on := false, lit := false, wasOn := true, wasLit := false }] }] }
def firedToken : CommitToken := { handle := 1, trigger := .fire hc, tick := up.dt + nsTicks 840, clauses := [(routed00, rsApplied)], armSlot := some 0 }

theorem witness_TokenRowsComplete :
    (prepared.store.preps.find? (fun p => p.id = 3 && p.done.isSome && !p.arms) = some prepDone ∧
      TokenReady prepared (prepared.tokenOf prepDone (prepared.dt + prepared.leadP1)) ∧ prepared.launchHeld prepDone.trigger = false ∧ prepared.p0First = false ∧
      prepared.slotsFree (prepared.tokenTiles (prepared.tokenOf prepDone 0)) = true) ∧
    (firing.nextP0 = some { handle := 1, trigger := .fire hc, arrival := up.dt - 100 } ∧ firing.launchHeld (.fire hc) = false ∧
      (firing.sent 1).slot ≠ none ∧ firing.p0Causes false [0] = (false, false, false) ∧ firing.leadP0 [0] = 840 ∧
      TokenReady firing firedToken) ∧
    ((schedTok soon).issuesTokens = true ∧ (schedTok soon).store.scheds.find? (fun y => y.handle = 1 && (schedTok soon).issuesTokens) =
        some (planned soon) ∧
      (schedTok soon).dueNow soon 0 = .due (up.dt + 1250) ∧ (schedTok soon).priorLaunch (planned soon) = false ∧
      (schedTok soon).time.tokensStopped = false ∧ (schedTok soon).p0First = false ∧
      TokenReady (schedTok soon) ((schedTok soon).tokenOf { prepDone with trigger := .schedule (.host 0) 9 soon 0 } (up.dt + 1250))) ∧
    (Quiet (schedTok 0) ∧ (schedTok 0).issuesTokens = true ∧ (schedTok 0).dueNow 0 0 = .late) ∧
    ((playing soon).dueNow ((playing soon).para 2 |>.time 0 0) 0 = .due (up.dt + 1250) ∧ ((playing soon).para 2).inFlight = false ∧
      ((playing soon).sent 1).idle = true ∧ (playing soon).p0First = false ∧
      TokenReady (playing soon) ((playing soon).tokenOf { prepDone with trigger := .paraStep 2 0 0 .sideband 0 soon 0 } (up.dt + 1250))) ∧
    (Quiet (playing 0) ∧ (playing 0).dueNow ((playing 0).para 2 |>.time 0 0) 0 = .late) ∧
    (∃ l ∈ reversing.store.launches, reversing.store.launches.find? (fun l => l.serial = 9 && l.settled && l.reversal.isNone &&
        !l.revActs.isEmpty) = some l ∧ reversing.revWaits l = false ∧ reversing.p0First = false ∧
      TokenReady reversing { handle := l.handle, trigger := .reversal 9, tick := 0, clauses := [], revActs := l.revActs }) := by
  unfold Quiet TokenReady; and_intros <;> decide +kernel

theorem test_tokenIssue : gives (.tokenIssue 3) prepared fun t =>
    t.conn 0 == some { clause := routed00, handle := 1, serial := 1 } && t.store.nextSerial == 2 &&
      t.out == [.downFrame 0 "SLOT_OPEN" [256, 1], .downFrame 0 "DRIVE_SLOT" [0, 0, 0, 0],
                .downFrame 0 "COMMIT" [1, 256, (up.dt + 1250) % 65536]] := by decide +kernel
theorem test_p0Dispatch : gives .p0Dispatch firing fun t =>
    t.out == [.downFrame 0 "COMMIT" [1, 0, (up.dt + 1050) % 65536]] && t.store.p0Last == 920 && t.store.p0Fires == 1 := by decide +kernel
theorem test_scheduledLaunchDue : gives (.scheduledLaunchDue 1) (schedTok soon) fun t =>
    t.store.launches.map (·.tick) == [up.dt + 1250] && t.store.scheds == [] := by decide +kernel
theorem test_scheduledLaunchLate : gives (.scheduledLaunchDue 1) (schedTok 0) fun t =>
    t.host.owed.map (fun e => (e.1, e.2.tag, e.2.status)) == [(.host 0, 9, 3)] && (t.sent 1).state == .stored := by decide +kernel
theorem test_paragraphStepDue : gives (.paragraphStepDue 2) (playing soon) fun t =>
    t.store.launches.map (·.tick) == [up.dt + 1250] && (t.para 2).iter == 1 && (t.para 2).inFlight := by decide +kernel
theorem test_paragraphStepLate : gives (.paragraphStepDue 2) (playing 0) fun t =>
    t.host.owed.map (fun e => e.2.status) == [3] && (t.para 2).iter == 1 := by decide +kernel
theorem test_reversalLaunch : gives (.reversalLaunch 9) reversing fun t =>
    t.store.launches.map (fun l => (l.serial, l.reversal)) == [(9, some 1), (1, none)] := by decide +kernel

/-- The launch is out: on tile 0 alone; on tiles 0 and 1. -/
def act0 : Act := { clause := 0, eid := 0, on := true, lit := false, wasOn := false, wasLit := false }
def out1 : Launch := { serial := 1, tick := up.dt, handle := 1, trigger := .commit hc, clauses := [routed00], reasons := [rsApplied], own := 1, acts := [act0], tiles := [(0, 256, .waiting)] }
def outBoth : Launch := { out1 with tiles := [(0, 256, .waiting), (1, 256, .waiting)] }
def launchedTok (l : Launch) : State := fabric { sentences := [(1, committing1)], launches := [l], table := [(0, some { clause := routed00, handle := 1, serial := 1 })] }
def late1 (l : Launch) : State := { launchedTok l with dt := up.dt + 20 * usTicks }
def lateSafe : State := { late1 out1 with faults := { safeState := true } }

theorem witness_LaunchResultRowsComplete :
    (Quiet (late1 outBoth) ∧ TheLaunch (late1 outBoth) 1 outBoth ∧ outBoth.settled = false ∧ (0, 256, TileResult.waiting) ∈ outBoth.tiles ∧
      (∃ x ∈ outBoth.tiles, x.1 ≠ 0 ∧ x.2.2 = .waiting) ∧ (late1 outBoth).faults.safeState = false ∧
      outBoth.tick + 20 * usTicks ≤ (late1 outBoth).dt ∧ (late1 outBoth).mate.role ≠ .standby) ∧
    (Quiet (launchedTok out1) ∧ TheLaunch (launchedTok out1) 1 out1 ∧ (∀ x ∈ out1.tiles, x.1 ≠ 0 → x.2.2 = .latched) ∧
      (∀ x ∈ out1.tiles, x.1 = 0 → x.2.2 = .waiting) ∧ out1.reasons = List.replicate out1.own rsApplied ∧
      out1.clauses.length = out1.own ∧ (launchedTok out1).unusableClauses out1 0 = []) ∧
    (Quiet lateSafe ∧ TheLaunch lateSafe 1 out1 ∧ lateSafe.faults.safeState = true ∧ out1.tick + 20 * usTicks ≤ lateSafe.dt ∧
      (∀ k, k < out1.own → ∃ a ∈ out1.acts, a.clause = k ∧ ∃ x ∈ out1.tiles, x.1 = eidTile a.eid)) := by
  unfold Quiet TheLaunch; and_intros <;> decide +kernel

theorem test_latchReportReceive : gives (.latchReportReceive 0 1 true) (launchedTok out1) fun t =>
    t.host.issues.map (fun i => (i.tag, i.done)) == [(7, some (0, 1 + 2 ^ 32 * 0xFFFF))] && (t.elem 0).shaping &&
      (t.elem 0).events == [.launch true false true] && t.store.launches == [] := by decide +kernel
theorem test_latchReportFirst : gives (.latchReportReceive 0 1 true) (launchedTok outBoth) fun t =>
    t.store.launches.map (·.tiles) == [[(0, 256, .latched), (1, 256, .waiting)]] && t.host.issues == [] := by decide +kernel
theorem test_latchReportMissed : gives (.latchReportReceive 0 1 false) (launchedTok out1) fun t =>
    t.host.issues.map (fun i => i.done.map (·.1)) == [some 2] && t.conn 0 == some { clause := routed00, handle := 1, serial := 1 } := by
  decide +kernel
theorem test_launchResultTimeout : gives (.launchResultTimeout 0 1) (late1 outBoth) fun t =>
    t.store.launches.map (·.tiles) == [[(0, 256, .lost), (1, 256, .waiting)]] := by decide +kernel
theorem test_safeStateTokenResolve : gives (.safeStateTokenResolve 1) lateSafe fun t =>
    t.host.issues.map (fun i => i.done.map (·.1)) == [some 2] && t.store.launches == [] := by decide +kernel

/-! ## Faults, fences, loss of light -/

def aReport : Report := { code := 0x0060, source := 3, detail0 := 4 }
def oldRec : FaultRec := { code := 0x0060, source := 3, detail0 := 4, seq := some 0, severity := 1, time := up.dt - 5 }
def recorded : State := { up with faults := { up.faults with log := [oldRec], nextSeq := 1, firstValid := true } }
/-- A cell of region 0 that has failed; a region with 16 short commas. -/
def failedOnce : State := { up with regions := [(0, { failures := [(.smu, 2, up.commaNo)] })] }
def short : State := { up with regions := [(0, { shortRun := 16 })] }

theorem witness_CollectorRowsComplete :
    (up.chip.por = false ∧ Reportable up 0x0060 3 4 ∧ Reportable up 0x0073 srcLsu 0 ∧ severityOf 0x0073 = 3 ∧
      up.faults.safeState = false) ∧
    (Reportable up 0x0011 (srcRegion 0) 0 ∧ Quiet up) ∧
    (recorded.chip.mainRun = true ∧ recorded.fencedSource aReport = false ∧
      findMerge (recorded.faults.log ++ recorded.faults.spill) aReport recorded.dt = some oldRec) ∧
    (Reportable up 0x0052 10 0 ∧ Reportable up 0x0053 5 0 ∧ Reportable up 0x0054 srcMgmt 0) ∧
    (up.faults.injBusy = none ∧ 5 ≤ unitTop 2 ∧ checkerCode 2 5 = some 0x0045 ∧
      findMerge (up.faults.log ++ up.faults.spill) { code := 0x0045, source := checkerSource 2 5, detail0 := 5 } up.dt = none ∧
      (up.region 3).fenced = false) := by
  unfold Quiet Reportable; and_intros <;> decide +kernel

theorem test_faultReport : gives (.faultReport [aReport]) up fun t =>
    t.faults.log.map (fun f => (f.seq, f.code, f.severity, f.detail0)) == [(some 0, 0x60, 1, 4)] && t.faults.unclear1 == 1 := by
  decide +kernel
theorem test_faultReportMerged : gives (.faultReport [aReport]) recorded fun t =>
    t.faults.log.map (·.count) == [2] && t.faults.nextSeq == 1 := by decide +kernel
theorem test_collectorSelfFault : gives .collectorSelfFault up fun t =>
    t.faults.safeState && t.faults.aonCopy.map (·.code) == [1] := by decide +kernel
theorem test_centralEngineError : gives (.centralEngineError true 10) up fun t =>
    t.faults.safeState && t.faults.log.map (·.code) == [0x52] := by decide +kernel
theorem test_mgmtWatchdog : gives .mgmtWatchdog { up with time := { up.time with state := .locked } } fun t =>
    t.faults.log.map (·.code) == [0x54] && t.time.state == .holdover := by decide +kernel
theorem test_faultClear : gives (.faultClear 0) recorded fun t => t.faults.log.map (·.cleared) == [true] := by decide +kernel
theorem test_faultFirstClear : gives .faultFirstClear recorded fun t => !t.faults.firstValid := by decide +kernel
theorem test_faultInjectCheck : gives (.faultInjectCheck 2 5 true false) up fun t =>
    t.faults.log.map (fun f => (f.code, f.injected, f.severity)) == [(0x45, true, 0)] := by decide +kernel
theorem test_faultInjectReact : gives (.faultInjectReact 4 3 false false) up fun t =>
    (t.region 3).fenced && t.faults.log.map (·.code) == [0x11] := by decide +kernel

/-- Port 0 of the crossbar bound to an ARMED sentence; a connection through a RETIRED element with no other path. -/
def boundSent : Sentence := { state := .armed, slot := some 0, ports := [{ input := true, port := 0 }], armSrc := .host 0, armTag := 4 }
def boundPort : State := fabric { sentences := [(1, boundSent)] }
def retiredPath : State := { fabric { table := [(0, some { clause := routed00, handle := 1, serial := 1 })] } with
  loops := { elems := [(0, { st := .retired, on := true })] } }

theorem witness_FenceAndLossRowsComplete :
    (Reportable up 0x0010 srcAon 0 ∧ Quiet short ∧ (short.region 0).fenced = false ∧ 16 ≤ (short.region 0).shortRun ∧
      Reportable short 0x0011 (srcRegion 0) 0 ∧ Reportable short 0x0022 (srcRegion 0) 0 ∧ (short.region 0).blockFenced .loop = false) ∧
    (Quiet failedOnce ∧ failedOnce.chip.mainRun = true ∧ ((failedOnce.region 0).fencedCells .smu).contains 2 = false ∧
      (failedOnce.region 0).blockFenced .smu = false ∧ (failedOnce.region 0).fenced = false) ∧
    (Reportable up 0x0031 (srcTile 0) 0 ∧ Reportable up 0x0033 (srcTile 0) 0 ∧ up.mate.role = .alone) ∧
    ((boundPort.img.portOfMonitor 0).map (fun x => (x.1, x.2.port)) = some (true, 0) ∧
      boundPort.boundTo { input := true, port := 0 } = some (1, boundSent) ∧
      boundPort.losMatches boundSent { input := true, port := 0 } = true ∧ (boundPort.colour .lossOfLight 0).1 ≠ 2 ∧
      (boundPort.sent 1).state = .armed) ∧
    (Quiet retiredPath ∧ retiredPath.conn 0 = some { clause := routed00, handle := 1, serial := 1 } ∧
      retiredPath.throughRetired { clause := routed00 } = true ∧
      retiredPath.choosePath 0 [] (candidates retiredPath.img 0 0) = none ∧ retiredPath.store.failedReroutes.contains 0 = false) := by
  unfold Quiet Reportable; and_intros <;> decide +kernel

theorem test_handshakeWatchdog : gives (.handshakeWatchdog (.regionBlock 0 .loop)) up fun t =>
    t.faults.log.map (·.code) == [0x12, 0x21, 0x22] && (t.region 0).fenced && (t.region 0).loopBlk := by decide +kernel
theorem test_regionEscalate : gives (.regionEscalate 0) short fun t => (t.region 0).fenced && t.faults.log.map (·.code) == [0x22] := by
  decide +kernel
theorem test_cellOperationError : gives (.cellOperationError 0 .smu 2 none) failedOnce fun t =>
    (t.region 0).smuFenced == [2] && t.faults.log.map (·.code) == [0x20] := by decide +kernel
theorem test_tileFaultReceive : gives (.tileFaultReceive 0 7) up fun t =>
    t.faults.tileFences == [0] && t.faults.log.map (fun f => (f.code, f.detail1)) == [(0x31, 7)] := by decide +kernel
theorem test_tokenLostReceive : gives (.tokenLostReceive 0) up fun t =>
    !(t.link 0).owner && t.out.contains (.downFrame 0 "CLAIM" []) := by decide +kernel
theorem test_losEventReceive : gives (.losEventReceive [0]) boundPort fun t =>
    (t.monitor 0).los && (t.sent 1).state == .launching && t.store.p0Queue.map (·.trigger) == [.lossOfLight 0 (.host 0) 4] := by
  decide +kernel
theorem test_losClearReceive : gives (.losClearReceive 0) { up with smu := { up.smu with monitors := [(0, { los := true })] } } fun t =>
    !(t.monitor 0).los := by decide +kernel
theorem test_elementReroute : gives (.elementReroute 0) retiredPath fun t =>
    t.host.owed.map (fun e => (e.2.kind, e.2.status)) == [(4, 1)] && t.store.failedReroutes == [0] := by decide +kernel

/-! ## Commas and element loops -/

/-- A comma with written shares, in a block without a fabric; one boundary before it. -/
def shares : Shares := ⟨0x40, 0x10, 0x50, 0x30⟩
def bare : State := { up with chip := { up.chip with image := {} }, comma := { pendingLink := some shares } }
/-- Element 0 is fast, calibrated to 500 and waits for its sample, with the hysteretic law; element 1 settles. -/
def waitingElem : Elem := { st := .lit, on := true, lit := true, fast := true, fastNext := true, due := true, law := .hyst, drive := 900,
                            inUse := { onBase := 500 }, target := 500, lastTarget := 500 }
def sensing : State := { crossbar with
  dt := 10000 * 1250
  loops := { elems := [(0, waitingElem), (1, { st := .switching, on := true, dwellEnd := some 5, blankEnd := some 5 })]
             classes := [(0, { defined := true, holdDiv := 1000000 })] } }

theorem witness_LoopRowsComplete :
    (bare.time.pllLocked = true ∧ bare.chip.mainRun = true ∧ { bare with chip := {} }.chip.mainRun = false) ∧
    (Quiet sensing ∧ (sensing.link 0).tile = .adopted ∧ sensing.loopsOn 0 = true ∧ sensing.drives 0 = true ∧ sensing.commaNo = 10000 ∧
      ((tileEids 0).filter fun e => sensing.inFrame e 10000) = [0] ∧ (sensing.elem 0).due = true ∧
      ((tileEids 0).filter fun e => (sensing.elem e).fastNext ||
        (10001 + e) % max 1 ((sensing.cls (sensing.elemClass e)).holdDiv * 1) == 0) = [0]) ∧
    ((sensing.elem 1).dwellEnd = some 5 ∧ 5 ≤ sensing.dt ∧ (sensing.elem 1).events = [] ∧ (sensing.elem 1).st = .switching ∧
      (sensing.elem 1).blankEnd = some 5) := by
  unfold Quiet; and_intros <;> decide +kernel

theorem test_commaBoundary : gives .commaBoundary bare fun t =>
    t.dt == 10001250 && t.comma.linkShare == shares && t.comma.pendingLink == none := by decide +kernel
theorem test_senseFrameEarly : gives (.senseFrameReceive 0 10000 [480]) sensing fun t =>
    (t.elem 0).sample == some (10000, 480) && (t.elem 0).due := by decide +kernel
/-- R143: the error of +80 lies outside the outer window of 64, so the drive steps up by 8. -/
theorem test_senseFrameReceive : gives (.senseFrameReceive 0 9999 [420]) sensing fun t =>
    (t.elem 0).drive == 908 && (t.elem 0).stepping && (t.elem 0).err == 80 && !(t.elem 0).due && t.out.length == 1 := by decide +kernel
theorem test_settlingDwellEnd : gives (.settlingDwellEnd 1) sensing fun t => (t.elem 1).st == .darkOn := by decide +kernel
theorem test_feBlankEnd : gives (.feBlankEnd 1) sensing fun t => (t.elem 1).supervised && (t.elem 1).blankEnd == none := by decide +kernel

/-! ## Tile ends -/

/-- Tile 0, which this controller owns on port A, has its time; slot 3 holds two codes; launch 5 of it is due, launch 7 past. -/
def tileUp (x : Tile) : State := { up with paost := { up.paost with tiles := [(0, { x with token := .a })] } }
def timed : State := tileUp { time := 70000, beaconAt := some (up.dt - 100) }
def launching : State := tileUp { slots := [(3, [(0, 9), (1, 4)])], launches := [(5, 3, up.dt - 10)], held := [(0, 1000)], serials := [(1, some (6, up.dt - 5))] }
def aShape : Playing := { elem := 0, start := up.dt - 2000, d0 := 1000, d1 := 4000, off := false, cls := 0 }
def shapePlaying : State := tileUp { playing := [aShape] }
def openSlot : State := tileUp { filling := some (3, 2, []) }
def dueTile : State := tileUp { fast := [(0, true)], divs := [(0, 1000000)] }

theorem witness_TileObeysItsOwner : (up.tile 0).obeys true = false := by decide +kernel

theorem witness_TileLaunchRowsComplete :
    ((timed.tile 0).obeys false = true ∧ timed.tileTimed 0 = true ∧ timed.tileTime 0 = 70100 ∧
      (4600 + 65536 - timed.tileTime 0 % 65536) % 65536 ≤ 32768 ∧ 32768 < (4500 + 65536 - timed.tileTime 0 % 65536) % 65536) ∧
    ((launching.tile 0).launches.find? (fun l => l.1 = 5 && l.2.2 ≤ launching.dt) = some (5, 3, up.dt - 10) ∧
      tabGet (launching.tile 0).slots [] 3 = [(0, 9), (1, 4)] ∧ (launching.tile 0).playing = [] ∧
      actsOver 5 (up.dt - 10) (tabGet (launching.tile 0).serials none 0) = true ∧
      actsOver 5 (up.dt - 10) (tabGet (launching.tile 0).serials none 1) = false) ∧
    (Quiet shapePlaying ∧ (shapePlaying.tile 0).playing.find? (fun p => p.elem = 0) = some aShape ∧ aShape.start + 2000 ≤ shapePlaying.dt) ∧
    ((openSlot.tile 0).obeys false = true ∧ (openSlot.tile 0).filling = some (3, 2, [])) ∧
    ((dueTile.tile 0).dueIn 0 8000 = [0] ∧ dueTile.dt < 8001 * usTicks) := by
  unfold Quiet; and_intros <;> decide +kernel

theorem test_tileCommitReceive : gives (.tileCommitReceive 0 false 9 2 4600) timed fun t =>
    (t.tile 0).launches == [(9, 2, up.dt + 36)] := by decide +kernel
theorem test_tileCommitUntimed : gives (.tileCommitReceive 0 false 9 2 4600) up fun t =>
    t.out == [.upFrame 0 false "COMMIT" [9, 0]] && (t.tile 0).launches == [] := by decide +kernel
theorem test_tileLatch : gives (.tileLatch 0 5) launching fun t =>
    (t.tile 0).playing.map (fun p => (p.elem, p.start, p.d0, p.d1, p.off)) == [(0, up.dt - 10, 1000, 576, true)] &&
      t.out == [.upFrame 0 false "COMMIT" [5, 1]] := by decide +kernel
theorem test_driveShapeEnd : gives (.driveShapeEnd 0 0) shapePlaying fun t =>
    (t.tile 0).heldCode 0 == 4000 && (t.elem 0).drive == 4000 && (t.elem 0).handoverDue := by decide +kernel
theorem test_slotOpen : gives (.slotOpen 0 false 3 2) up fun t => (t.tile 0).filling == some (3, 2, []) := by decide +kernel
theorem test_driveSlotFrame : gives (.driveSlotFrame 0 false 7 11 8 12) openSlot fun t =>
    tabGet (t.tile 0).slots [] 3 == [(7, 11), (8, 12)] && t.out == [.upFrame 0 false "CMD_ACK" [1, 1, 3]] := by decide +kernel
theorem test_tileDriveFrame : gives (.tileDriveFrame 0 false 8001 [77]) dueTile fun t => (t.tile 0).codesDue == some (8001, [(0, 77)]) := by
  decide +kernel
theorem test_tileDriveFrameLate : gives (.tileDriveFrame 0 false 8000 [77]) dueTile fun t =>
    (t.tile 0).codesDue == none && t.out.contains (.upFrame 0 false "EVENT" [4, 0, 0]) := by decide +kernel

/-- The owner of tile 0 has been silent; two words of the tile's log are the tile's own. -/
def silent : State := { up with paost := { up.paost with tiles := [(0, { token := .b, hbeatB := some 5 })] } }

theorem witness_TileCommandRowsComplete :
    ((up.tile 0).obeys false = true ∧ up.tileTimed 0 = false ∧ (up.link 0).state = .active) ∧
    (up.grants (up.tile 0) false = true ∧ up.grants (up.tile 1) true = true ∧ silent.grants (silent.tile 0) false = true ∧
      { silent with dt := 10 }.grants ({ silent with dt := 10 }.tile 0) false = false) ∧
    ((silent.tile 0).token ≠ .none ∧ silent.ownerSilent (silent.tile 0) = true) := by
  and_intros <;> decide +kernel

theorem test_setClass : gives (.setClass 0 false 5 3 true) up fun t => tabGet (t.tile 0).classes 0 1023 == 3 := by decide +kernel
theorem test_setFast : gives (.setFast 0 false 5 true 9000) up fun t => (t.tile 0).mirrorDue == [(false, 5, 1, 9000)] := by decide +kernel
theorem test_classDiv : gives (.classDiv 0 false 2 10 9000) up fun t => (t.tile 0).mirrorDue == [(true, 2, 10, 9000)] := by decide +kernel
theorem test_shapeLoad : gives (.shapeLoad 0 false 2 true 31 (-20)) up fun t => (t.tile 0).shapePoint 2 true 31 == -20 &&
    (t.tile 0).shapePoint 2 false 31 == 16384 := by decide +kernel
theorem test_setEpoch : gives (.setEpoch 0 false 12) up fun t => (t.tile 0).epoch == 12 := by decide +kernel
theorem test_setShare : gives (.setShare 0 false ⟨1, 2, 3, 4⟩) up fun t => (t.tile 0).sharesDue == some ⟨1, 2, 3, 4⟩ := by decide +kernel
theorem test_tileAbort : gives (.tileAbort 0 false 4) (tileUp { pointOn := some (8, 4), actuator := some 4, trial := some (3, 1) }) fun t =>
    (t.tile 0).pointOn == none && (t.tile 0).actuator == none && (t.tile 0).trial == some (3, 1) := by decide +kernel
theorem test_claim : gives (.claim 0 true) up fun t => (t.tile 0).token == .b &&
    t.out == [.upFrame 0 true "CMD_ACK" [0x0A, 1, 0], .upFrame 0 false "EVENT" [6, 0, 0]] := by decide +kernel
theorem test_claimHeld : gives (.claim 0 false) { silent with dt := 10 } fun t => (t.tile 0).token == .b := by decide +kernel
theorem test_release : gives (.release 0 false) up fun t => (t.tile 0).token == .none := by decide +kernel
theorem test_bulkPull : gives (.bulkPull 0 false 8 2) up fun t => t.out.length == 2 && t.free == 2 := by decide +kernel
theorem test_pointWord : gives (.pointWord 0 false 1 6) (tileUp { pointWords := [(1, 5), (0, 4)] }) fun t =>
    (t.tile 0).pointWords == [(0, 4), (1, 6)] := by decide +kernel
theorem test_pointGo : gives (.pointGo 0 false 8 4 10) up fun t => (t.tile 0).actuator == some 4 := by decide +kernel
theorem test_calPoint : gives (.calPoint 0 false 4 900) up fun t => (t.tile 0).trial == some (4, 900) := by decide +kernel
theorem test_smuBus : gives (.smuBus 0 false 3 true) up fun t => (t.tile 0).busChannel == some 3 := by decide +kernel
theorem test_readbackReq : gives (.readbackReq 0 true) up fun t => t.out.length == 16 := by decide +kernel
theorem test_tbeaconReceive : gives (.tbeaconReceive 0 false 123) up fun t => t.tileTime 0 == 123 := by decide +kernel
theorem test_tbeaconLoss : gives (.tbeaconLoss 0) (tileUp { beaconAt := some 0 }) fun t => (t.tile 0).beaconAt == none := by decide +kernel
theorem test_hbeatTileRelay : gives (.hbeatTileRelay 0 true 8) up fun t => t.out == [.upFrame 0 false "HBEAT" [1, 1, 8]] := by decide +kernel
theorem test_ownerHbeatExpire : gives (.ownerHbeatExpire 0) silent fun t => (t.tile 0).hbeatB == none := by decide +kernel

/-! ## Links -/

/-- A control block with its CRC, as frame `n` of a stream. -/
def framed (multi : Bool) (n v : Nat) : BitVec 64 :=
  BitVec.ofNat 64 (v + 16 * (n % 8)) ||| ((frameCrc (if multi then 0x1000 + n else n) (BitVec.ofNat 64 (v + 16 * (n % 8))) []).setWidth 64 <<< 48)
/-- The link of tile 0 with frames outstanding, a frame missing, three NAKs taken. -/
def busyPort : LinkPort := { unacked1 := [4, 5, 6], unackedM := [9], missing1 := true, nakNum1 := 4, nakCount1 := 3, expect1 := 2, ackAt := 5 }
def linked (l : Link) : State := { up with paost := { up.paost with links := [(0, l)] } }
def busyLink : State := linked { goodLink with near := busyPort, idleEn := true }
def train (b : LinkState) : State := linked { state := b }

theorem witness_LinkProtocolRowsComplete :
    (Quiet up ∧ frameOk true 0 (framed true 0 3) [] = true ∧ frameOk false 2 (framed false 2 5) [] = true ∧
      frameOk false 3 (framed false 2 5) [] = false ∧ bits (framed false 2 5).toNat 0 4 = 5) ∧
    (Quiet busyLink ∧ (busyLink.port (.controller 0)).nakNum1 = 4 ∧ (busyLink.link 0).state ≠ .down ∧
      Reportable busyLink 0x0030 (srcTile 0) 0 ∧ (busyLink.link 0).up = true ∧ (busyLink.link 0).near.unacked1 ≠ [] ∧
      (busyLink.link 0).near.ackAt + 4 * usTicks ≤ busyLink.dt) ∧
    ((busyLink.port (.controller 0)).missing1 = true ∧
      8 * (busyLink.port (.controller 0)).nakAt1 + 4 * (busyLink.link 0).delay + 1000 ≤ 8 * busyLink.dt ∧
      (busyLink.port (.controller 0)).ackSentM + 2 * usTicks ≤ busyLink.dt) := by
  unfold Quiet Reportable; and_intros <;> decide +kernel

theorem test_linkFrameReceive : gives (.linkFrameReceive (.controller 0) true (framed true 0 (3 + 2 ^ 24 * 5 + 2 ^ 36 * 9)) []) busyLink fun t =>
    (t.link 0).near.expectM == 1 && (t.link 0).near.unacked1 == [6] && (t.link 0).near.unackedM == [] := by decide +kernel
theorem test_linkFrameWrong : gives (.linkFrameReceive (.controller 0) true (framed true 1 3) []) busyLink fun t =>
    (t.link 0).crcErr == 1 && t.out == [.downFrame 0 "LINKCTL" [1, 1, 0]] := by decide +kernel
theorem test_linkctlAckReceive : gives (.linkctlAckReceive (.controller 0) false 4) busyLink fun t =>
    (t.link 0).near.unacked1 == [5, 6] := by decide +kernel
theorem test_linkctlNakReceive : gives (.linkctlNakReceive (.controller 0) false 5) busyLink fun t =>
    t.out == [.downFrame 0 "REPLAY" [0, 5]] && (t.link 0).replays == 1 := by decide +kernel
theorem test_linkctlNakFourth : gives (.linkctlNakReceive (.controller 0) false 4) busyLink fun t =>
    (t.link 0).state == .down && t.faults.log.map (·.code) == [0x30] := by decide +kernel
theorem test_nakRepeatTimeout : gives (.nakRepeatTimeout (.controller 0) false) busyLink fun t =>
    t.out == [.downFrame 0 "LINKCTL" [1, 0, 2]] := by decide +kernel
theorem test_ackIdleTimeout : gives (.ackIdleTimeout (.tile 0) false) busyLink fun t =>
    t.out == [.upFrame 0 false "LINKCTL" [0, 0, 4095]] := by decide +kernel
theorem test_ackMissingTimeout : gives (.ackMissingTimeout 0) busyLink fun t => (t.link 0).tile == .absent && (t.link 0).near == {} := by
  decide +kernel
theorem test_blockLockLoss : gives (.blockLockLoss 0) busyLink fun t => (t.link 0).syncErr == 16 && (t.link 0).state == .down := by
  decide +kernel
theorem test_linkRetrain : gives (.linkRetrain 0) busyLink fun t => (t.link 0).downs == 1 := by decide +kernel
theorem test_linkInjectCrc : gives (.linkInjectCrc 0) busyLink fun t => (t.link 0).injectCrc := by decide +kernel

theorem witness_TrainingRowsComplete :
    ((train .down).mayTrain 0 = true ∧ (train .caps).mayTrain 0 = true ∧ (train .step).mayTrain 0 = true ∧ Quiet (train .step) ∧
      ((train .step).link 0).stepSpeed < (train .step).speedLimit 0 ∧
      (linked { state := .step, stepSpeed := 4 }).speedLimit 0 ≤ 4 ∧ (linked { state := .step, stepSpeed := 4 }).mayTrain 0 = true) ∧
    ((train .step).link 0).stepFails < 2 ∧
    ((up.link 0).idleEn = true ∧ (up.link 0).up = true ∧ (up.port (.tile 0)).eidle = false ∧ (up.port (.controller 0)).eidle = false) := by
  unfold Quiet; and_intros <;> decide +kernel

theorem test_trainDetect : gives (.trainBlockReceive 0 {}) (train .down) fun t => (t.link 0).state == .caps &&
    t.out == [.downFrame 0 "TRAIN" [1, 0, 4, 0]] := by decide +kernel
theorem test_trainActive : gives (.trainBlockReceive 0 { phase := 5, roundTripTenthNs := 50 }) (linked { state := .step, stepSpeed := 4 }) fun t =>
    (t.link 0).state == .active && (t.link 0).delay == 25 && t.out == [.downFrame 0 "CLAIM" []] := by decide +kernel
theorem test_trainStepTimeout : gives (.trainStepTimeout 0) (linked { state := .step, stepSpeed := 2, speed := 1, stepFails := 2 }) fun t =>
    (t.link 0).limited && (t.link 0).speed == 1 := by decide +kernel
theorem test_eidleEnter : gives (.eidleEnter (.controller 0)) up fun t => (t.link 0).state == .idle := by decide +kernel
theorem test_eidleExit : gives (.eidleExit (.tile 0)) (tileUp { far := { eidle := true } }) fun t =>
    !(t.tile 0).far.eidle && (t.link 0).state == .active && t.out == [.upFrame 0 false "TRAIN" [6, 64]] := by decide +kernel

/-! ## Tiles as the controller sees them -/

/-- Tile 0 has answered everything but the last part of its readback; it is current, or it is stale. -/
def answers : List (Nat × List Nat) := (List.range 15).map fun k => (k, List.replicate 64 0)
def adopting (known : Bool) : State := { up with
  chip := { up.chip with expanded := [0] }
  paost := { up.paost with links := [(0, { state := .active, tile := .adopting, owner := true, claimed := some true, known := known, tempSeen := true, ident := [(0, 1), (1, 0), (2, 0), (3, 0x10000)], readback := answers })] } }
def quarantined : State := { up with
  loops := { elems := [(5, { st := .darkOff, drive := 300 })] }
  paost := { up.paost with links := [(0, { goodLink with tile := .quarantined, stale := true, epoch := 9, readback := answers })] } }
/-- Writes of tile 0 wait for their acknowledgement; the arm slot of sentence 1 does. -/
def writing (n : Nat) : State := linked { goodLink with acksOpen := n, epochDirty := true, epoch := 6 }
def slotSent : Sentence := { state := .launching, slot := some 2, armedMoved := [4] }
def slotArming : State := { writing 3 with store := { sentences := [(1, slotSent)], preps := [{ id := 1, handle := 1, trigger := .arming hq, done := some [] }] } }
/-- The standby of a mate that has gone silent; a takeover that has one tile. -/
def standby : State := { up with
  chip := { up.chip with image := { img with mateEnable := true, mateWait := 1, drillMs := 5 } }
  mate := { role := .standby, synced := true, mateAt := some 5 } }
def taking : State := { standby with mate := { standby.mate with takeover := .claiming, claims := [0], granted := [1] } }

theorem witness_TileAnswersComplete :
    (Quiet up ∧ up.mate.takeover ≠ .claiming) ∧
    (Quiet taking ∧ taking.mate.takeover = .claiming ∧ 0 ∈ taking.mate.claims ∧ taking.mate.incoming = none ∧ Reportable taking 0x0081 srcMate 0) ∧
    (((writing 1).link 0).acksOpen = 1 ∧ ((writing 1).link 0).tile = .adopted ∧ ((writing 1).link 0).epochDirty = true ∧
      1 < ((writing 2).link 0).acksOpen) ∧
    (slotArming.store.sentences.find? (fun p => p.2.slot = some 2) = some (1, slotSent) ∧ slotArming.sent 1 = slotSent ∧
      (slotArming.store.preps.find? fun p => p.arms && p.handle = 1 && p.done.isSome).map (·.trigger) = some (.arming hq) ∧
      (tilesOf slotSent.armedMoved).all (slotSent.slotAcked ++ [0]).contains = true) := by
  unfold Quiet Reportable; and_intros <;> decide +kernel

theorem test_claimRefused : gives (.cmdAckReceive 0 0x0A false 0) taking fun t =>
    t.mate.retryAt == some (up.dt + 1250000) && t.out.contains (.downFrame 1 "RELEASE" []) := by decide +kernel
theorem test_lastAck : gives (.cmdAckReceive 0 0x05 true 0) (writing 1) fun t => t.out == [.downFrame 0 "SET_EPOCH" [6]] := by decide +kernel
theorem test_armAcked : gives (.cmdAckReceive 0 0x01 true 2) slotArming fun t => (t.sent 1).state == .armed &&
    t.host.issues.map (fun i => (i.opcode, i.done)) == [(0x14, some (0, 0))] := by decide +kernel

theorem witness_AdoptionRowsComplete :
    let q := fun b => (adopting b).modLink 0 fun x => { x with readback := (x.readback.filter fun q => q.1 ≠ 15) ++ [(15, [])] }
    (Quiet (adopting true) ∧ (adopting true).mate.takeover ≠ .adopting ∧ (q true).adoptReady 0 = true ∧ ((adopting true).link 0).current = true ∧
      (q false).adoptReady 0 = true ∧ ((adopting false).link 0).current = false) ∧
    ((up.link 0).owner = true ∧ up.mate.role = .alone ∧ up.tokensBarred = false ∧ bits (5 : Word32).toNat 16 2 = 0) ∧
    ((quarantined.link 0).tile = .quarantined ∧ (quarantined.link 0).corrections = [] ∧ (quarantined.link 0).acksOpen = 0 ∧
      5 ∈ tileEids 0 ∧ (quarantined.elem 5).drive ≠ (quarantined.link 0).held (5 % 1024) ∧ (quarantined.elem 5).st = .darkOff) ∧
    (up.beats = true ∧ up.mate.hbAt + 10 * usTicks ≤ up.dt ∧ 0 ∈ up.upTiles ∧ standby.img.mateEnable = true ∧ standby.mate.role = .standby) := by
  unfold Quiet; and_intros <;> decide +kernel

theorem test_identReceive : gives (.identReceive 0 3 5) up fun t => !(t.link 0).owner && t.out == [.downFrame 0 "CLAIM" []] := by decide +kernel
theorem test_tempReceive : gives (.tempReceive 0 77) up fun t => (t.link 0).temp == 77 := by decide +kernel
theorem test_hbeatSend : gives .hbeatSend up fun t => t.out == [.downFrame 0 "HBEAT" [0, 0, 3 * 2 ^ 16]] := by decide +kernel
theorem test_relayedHbeatReceive : gives (.relayedHbeatReceive 0 7) standby fun t => t.mate.relayAt == some up.dt := by decide +kernel
theorem test_standbyIdentPoll : gives .standbyIdentPoll standby fun t => t.out.length == 4 := by decide +kernel
theorem test_logInfoReceive : gives (.logInfoReceive 0 300 false) up fun t => t.out == [.downFrame 0 "BULK_PULL" [0, 255]] := by decide +kernel
theorem test_bulkReceive : gives (.bulkReceive 0 1 8 true) (linked { goodLink with logBurst := some 2, logOpen := true, logWords := [7] }) fun t =>
    (t.link 0).logWords == [] && (t.link 0).bulkDiscard == 1 := by decide +kernel

/-! ## The mate -/

/-- A controller of a pair in each role; what the tests of the mate start from. -/
def mated (m : Mate) : State := { standby with mate := m }
def silentMate : State := mated { role := .standby, retryAt := some 5 }
def released : State := mated { role := .active, handover := .released hq false 5 }
def drilling : State := mated { role := .active, handover := .drilling 5 }
/-- A token that tile 0 latched before the takeover: its LAST_SERIAL shows it. -/
def outLaunch : Launch := { serial := 4, tick := 100, handle := 1, trigger := .restart, tiles := [(0, 0, .waiting)] }
def resolving : State := { mated { role := .standby, takeover := .resolving } with
  store := { launches := [outLaunch] }
  paost := { up.paost with links := [(0, { goodLink with tile := .adopting, ident := [(0, 1), (1, 0), (2, 0), (3, 0x10004)] })] } }
def deferredLos : State := { boundPort with
  mate := { role := .alone, deferred := [0] }
  smu := { up.smu with monitors := [(0, { los := true })] } }

theorem witness_RoleRowsComplete :
    (Quiet (mated {}) ∧ (mated {}).img.mateEnable = true ∧ (mated {}).chip.imageApplied = true ∧ (mated {}).chip.mainRun = true ∧
      bits (0x10000 : Word32).toNat 16 2 = 1 ∧ bits (0x30000 : Word32).toNat 16 2 = 3 ∧ bits (0x20000 : Word32).toNat 16 2 = 2) ∧
    ((1 : BitVec 256) ≠ standby.img.hash ∧ standby.mate.digestMismatch = false ∧ Reportable standby 0x0083 srcMate 0) ∧
    ((mated {}).mate.waitFrom + standby.img.mateWait * msTicks ≤ standby.dt ∧ (mated {}).mate.mateAt = none) ∧
    (Quiet silentMate ∧ silentMate.bothDead = true ∧ silentMate.upTiles ≠ [] ∧
      (mated { role := .standby, retryAt := some 5, mateAt := some up.dt }).bothDead = false) ∧
    (released.mate.handover = .released hq false 5 ∧ released.faults.resumes = [] ∧ drilling.mate.handover = .drilling 5 ∧
      drilling.store.launches = [] ∧ Reportable drilling 0x0082 srcMate 3) ∧
    (Quiet resolving ∧ TheLaunch resolving 4 outLaunch ∧ outLaunch.allIn = false ∧ outLaunch.tick + 20 * usTicks ≤ resolving.dt) ∧
    (Quiet deferredLos ∧ (deferredLos.monitor 0).los = true ∧ (deferredLos.img.portOfMonitor 0).map (fun x => (x.1, x.2.port)) = some (true, 0) ∧
      { input := true, port := 0 } ∈ (deferredLos.sent 1).ports ∧ deferredLos.losMatches (deferredLos.sent 1) { input := true, port := 0 } = true ∧
      (deferredLos.sent 1).state = .armed ∧ deferredLos.issuesTokens = true ∧ deferredLos.faults.safeState = false ∧
      ((tilesOf (deferredLos.sent 1).armedMoved).all fun k => (deferredLos.link k).owner) = true) := by
  unfold Quiet Reportable TheLaunch; and_intros <;> decide +kernel

theorem test_mateActive : gives (.mateHeartbeatReceive 0x10000 3 1 0) (mated {}) fun t =>
    t.mate.role == .standby && t.out == [.mateFrame "SYNC_REQ" []] := by decide +kernel
theorem test_mateStarting : gives (.mateHeartbeatReceive 0 3 0 0) (mated {}) fun t =>
    t.mate.role == (if 0 < standby.img.matePrio || standby.chip.otp.identity < 3 then .active else .standby) := by decide +kernel
theorem test_mateWaitExpire : gives .mateWaitExpire (mated {}) fun t => t.mate.role == .alone := by decide +kernel
theorem test_splitRetry : gives .splitRetry silentMate fun t => t.mate.takeover == .claiming && t.out == [.downFrame 0 "CLAIM" []] := by
  decide +kernel
theorem test_handoverRefused : gives (.roleFrameReceive 1 false) released fun t => t.mate.handover == .none &&
    t.host.issues.map (fun i => (i.opcode, i.done)) == [(5, some (2, 2 * 2 ^ 16))] := by decide +kernel
theorem test_handoverTaken : gives (.roleFrameReceive 0 false) released fun t => t.mate.role == .standby := by decide +kernel
theorem test_takeoverTokenResolve : gives (.takeoverTokenResolve 4) resolving fun t =>
    (t.store.launches.all fun l => l.allIn) && t.mate.role == .active := by decide +kernel
theorem test_deferredLosFire : gives (.deferredLosFire 1) deferredLos fun t => (t.sent 1).state == .launching &&
    t.mate.deferredFires == 1 := by decide +kernel
theorem test_drillEnd : gives (.drillEnd 0 0) drilling fun t =>
    t.out == [.downFrame 0 "RELEASE" [], .mateFrame "ROLE" [3, 0]] := by decide +kernel
theorem test_drillFailed : gives (.drillEnd 3 1) drilling fun t => t.mate.drillFails == 1 && t.faults.log.map (·.code) == [0x82] := by
  decide +kernel

/-- An active whose record 7 waits; digests that have differed for long. -/
def waitingAck : State := mated { role := .active, link := true, sent := 7, unacked := [(7, 5)] }
def differing : State := mated { role := .standby, differAt := some 5 }

theorem witness_MirrorRowsComplete :
    (Quiet standby ∧ standby.mate.role = .standby ∧ standby.mate.snapshotWanted = false ∧ 1 % 2 ^ 22 = (standby.mate.applied + 1) % 2 ^ 22) ∧
    (Quiet waitingAck ∧ waitingAck.mate.unacked.find? (fun p => p.1 % 2 ^ 22 = 7 % 2 ^ 22) = some (7, 5) ∧
      waitingAck.mate.unacked = [(7, 5)] ∧ 5 + 100 * usTicks ≤ waitingAck.dt) ∧
    (Quiet (mated { role := .standby, snapshotWanted := true })) ∧
    (Quiet differing ∧ 5 + msTicks < differing.dt ∧ Reportable differing 0x0083 srcMate 0 ∧ differing.mate.digestMismatch = false) := by
  unfold Quiet Reportable; and_intros <;> decide +kernel

theorem test_mirrorReceive : gives (.mirrorReceive 1 { kind := 2, key := 0, value := [1, 9, 4, 77] }) standby fun t =>
    t.conn 0 == some { clause := 77, handle := 9, serial := 4 } && t.out == [.mateFrame "MIRROR_ACK" [1]] := by decide +kernel
theorem test_mirrorGap : gives (.mirrorReceive 3 {}) standby fun t => t.mate.snapshotWanted && t.out == [.mateFrame "SYNC_REQ" []] := by
  decide +kernel
theorem test_mirrorAckReceive : gives (.mirrorAckReceive 7) waitingAck fun t => t.mate.acked == 7 && t.mate.unacked == [] && !t.mate.synced := by
  decide +kernel
theorem test_mirrorAckTimeout : gives .mirrorAckTimeout { waitingAck with mate := { waitingAck.mate with synced := true } } fun t =>
    !t.mate.synced := by decide +kernel
theorem test_syncReq : gives .syncReq waitingAck fun t => t.mate.sent == 7 + (State.mirrorDiff {} waitingAck).length && !t.mate.synced := by
  decide +kernel
theorem test_snapshotApplied : gives (.snapshotApplied 8) (mated { role := .standby, snapshotWanted := true }) fun t =>
    t.mate.synced && t.mate.applied == 8 := by decide +kernel
theorem test_digestFrameReceive : gives (.digestFrameReceive 1) standby fun t => t.mate.differAt == some up.dt := by decide +kernel
theorem test_digestMismatchExpire : gives .digestMismatchExpire differing fun t => t.mate.digestMismatch && t.faults.log.map (·.code) == [0x83] := by
  decide +kernel

/-! ## Network time -/

def tu (u : TimeUnit) : State := { up with time := { u with pllLocked := true } }
/-- A measurement has been accepted 10 ms ago and the rate is 0; a scheduled launch is out. -/
def timedUnit : State := tu { state := .acquiring, needInitial := false, afresh := false, lastAccepted := some (up.dt - 1250000) }
def scheduledOut : State := { timedUnit with store := { launches := [{ outLaunch with trigger := .schedule (.host 0) 3 0 0 }] } }
def ptpSource : State := { timedUnit with chip := { up.chip with image := { img with hostTime := false, portMode := 2 } } }
def hostSource : State := { timedUnit with chip := { up.chip with image := { img with hostTime := true } } }

theorem witness_ServoRowsComplete :
    (up.chip.mainRun = true ∧ up.tokenOut = false ∧ up.time.held = none ∧ up.time.needInitial = true ∧ timedUnit.time.needInitial = false ∧
      withinSlew (65536 * 10 ^ 12) (1000 * up.img.jumpLimit) = false ∧ Reportable timedUnit 0x0090 srcTime 0) ∧
    (withinSlew (65536 * 1000 * (up.img.stepThresh + 1)) (1000 * up.img.jumpLimit) = true ∧
      withinSlew (65536 * 1000 * (up.img.stepThresh + 1)) (1000 * up.img.stepThresh) = false ∧
      withinSlew 0 (1000 * up.img.jumpLimit) = true ∧ withinSlew 0 (1000 * up.img.stepThresh) = true ∧ timedUnit.time.afresh = false ∧
      up.time.afresh = true) ∧
    (scheduledOut.tokenOut = true ∧ hostSource.img.hostTime = true ∧ ptpSource.img.hostTime = false) ∧
    ((tu { held := some (5, 3) }).tokenOut = false ∧ (5 : Nat) + msTicks ≤ up.dt ∧ up.chip.por = false ∧ up.time.pllLocked = true ∧
      Reportable up 0x0055 srcTime 0 ∧ up.faults.safeState = false) ∧
    ({ up with dt := 10 ^ 15 }.img.syncTimeout * secTicks ≤ 10 ^ 15 ∧ up.img.holdoverMax * secTicks ≤ 10 ^ 15) := by
  unfold Reportable; and_intros <;> decide +kernel

theorem test_timeFirst : gives (.timeMeasurement 65536) up fun t => t.now == up.now - 65536 && t.time.state == .acquiring := by decide +kernel
theorem test_timeJump : gives (.timeMeasurement (65536 * 10 ^ 12)) timedUnit fun t => t.time.state == .jump && t.now == timedUnit.now &&
    t.faults.log.map (·.code) == [0x90] := by decide +kernel
theorem test_timeSlew : gives (.timeMeasurement 65536) timedUnit fun t => t.now == timedUnit.now && decide (t.time.rate < 0) := by decide +kernel
theorem test_timeHeld : gives (.timeMeasurement 65536) scheduledOut fun t => t.time.held == some (65536, up.dt) && t.time.heldCount == 1 := by
  decide +kernel
theorem test_servoFeedWrite : gives (.servoFeedWrite 0xFFFFFFFF) { hostSource with time := up.time } fun t => t.now == up.now + 65536 := by
  decide +kernel
theorem test_heldChangeApply : gives .heldChangeApply (tu { held := some (5, 3), tokensStopped := true }) fun t =>
    t.time.held == none && !t.time.tokensStopped && t.now == up.now - 5 := by decide +kernel
theorem test_heldChangeLimit : gives .heldChangeLimit (tu { firstHeld := some 5 }) fun t => t.time.tokensStopped := by decide +kernel
theorem test_syncTimeout : gives .syncTimeout { tu { state := .locked, lastMeasured := some 0 } with dt := 10 ^ 15 } fun t =>
    t.time.state == .holdover := by decide +kernel
theorem test_holdoverExpire : gives .holdoverExpire { tu { state := .holdover, lastAccepted := some 0 } with dt := 10 ^ 15 } fun t =>
    t.time.holdoverOver && !t.time.locked := by decide +kernel
theorem test_acceptJump : gives .acceptJump timedUnit fun t => t.time.needInitial := by decide +kernel
theorem test_timeSnap : gives .timeSnap up fun t => t.time.snap.drop 4 == [10000000, 0] := by decide +kernel
theorem test_dtLoRead : gives .dtLoRead { up with dt := 2 ^ 33 + 7 } fun t => t.out == [.readData [7]] && t.time.dtHi == 2 := by decide +kernel
theorem test_rateLoRead : gives .rateLoRead (tu { rate := -1 }) fun t => t.out == [.readData [0xFFFFFFFF]] && t.time.rateHi == 0xFF := by
  decide +kernel
theorem test_timePllLossOfLock : gives .timePllLossOfLock up fun t => !t.time.pllLocked && t.faults.safeState := by decide +kernel

/-- A master is known on port 0, and one on port 1; an exchange lacks its last answer. -/
def master : Announce := { gmId := 9, dataset := [2, 0] }
def withMaster : State := { ptpSource with time := { ptpSource.time with ptp := { masters := [(0, (master, 0)), (1, ({ master with gmId := 10 }, 0))], t1 := some 100, t2 := some 300, t3 := some 500 } } }
def oneMaster : State := { ptpSource with time := { ptpSource.time with ptp := { masters := [(0, (master, 0))], awaitsFollowUp := true } } }
def aTime : NetTime := { sec := 0, ns := 0, frac := 700 }
/-- A second begins with this tick; PPS_OUT is high and its width is over. -/
def atSecond : State := { tu { ppsMode := 2, ppsOut := true } with dt := 1250000000 }

theorem witness_PtpAndPpsRowsComplete :
    (withMaster.ptpRuns = true ∧ master.domain = withMaster.img.domain ∧ master.version = 2 ∧ ptpSource.time.ptp.master 0 = none ∧
      ptpSource.time.ptp.port = 0 ∧ oneMaster.time.ptp.masters = [(0, (master, 0))] ∧ betterMaster [2, 1] master.dataset = false) ∧
    ((oneMaster.time.ptp.master 0).isSome = true ∧ timeOk aTime = true ∧ oneMaster.time.ptp.awaitsFollowUp = true ∧
      (withMaster.time.ptp.master 0).isSome = true ∧ withMaster.time.ptp.t1.isSome = true ∧ withMaster.time.ptp.t2.isSome = true ∧
      withMaster.time.ptp.t3 = some 500 ∧ withMaster.img.hostTime = false ∧ withMaster.tokenOut = false ∧ withMaster.time.held = none ∧
      { withMaster with dt := 10 ^ 11 }.img.portMode = 2 ∧ 0 + 3 * logTicks master.logAnnounce ≤ 10 ^ 11 ∧
      (withMaster.time.ptp.master 1).isSome = true ∧
      { withMaster with chip := { up.chip with image := { img with portMode := 0 } } }.img.portMode ≠ 2) ∧
    (atSecond.time.ppsAllowed = true ∧ atSecond.time.ntAt ((atSecond.dt : Int) - 1) < atSecond.time.ppsTime (atSecond.time.ppsSecond atSecond.now) ∧
      atSecond.time.ppsOut = true ∧ atSecond.time.ppsFall ≤ atSecond.now) := by
  and_intros <;> decide +kernel

theorem test_ptpAnnounceReceive : gives (.ptpAnnounceReceive 0 master) ptpSource fun t => t.time.ptp.gmId == 9 && t.time.ptp.portState == 8 := by
  decide +kernel
theorem test_ptpAnnounceDomain : gives (.ptpAnnounceReceive 0 { master with domain := 77 }) ptpSource fun t => t.time.ptp.discarded == 1 := by
  decide +kernel
theorem test_ptpSyncReceive : gives (.ptpSyncReceive 0 true false 0 aTime 5 0) oneMaster fun t => t.time.ptp.t1 == some 705 := by decide +kernel
theorem test_ptpDelayReqSend : gives (.ptpDelayReqSend 0 44) withMaster fun t => t.out == [.siteFrame 0 "DELAY_REQ" [0]] &&
    t.time.ptp.t3 == some (withMaster.time.ntAt 80) := by decide +kernel
/-- t2 − t1 = 200 and t4 − t3 = 200: the path is 200, the offset 0. -/
theorem test_ptpDelayRespReceive : gives (.ptpDelayRespReceive 0 0 aTime 0 0) withMaster fun t => t.time.ptp.paths == [200] &&
    t.time.ptp.portState == 9 && t.time.servoOffset == 0 := by decide +kernel
theorem test_ptpAnnounceTimeout : gives .ptpAnnounceTimeout { withMaster with dt := 10 ^ 11 } fun t => t.time.ptp.port == 1 &&
    t.time.ptp.gmId == 10 := by decide +kernel
theorem test_ppsOutEdge : gives .ppsOutEdge atSecond fun t => t.time.ppsMarked == some 1 && t.time.ppsOut := by decide +kernel
theorem test_ppsOutFall : gives .ppsOutFall atSecond fun t => !t.time.ppsOut := by decide +kernel
theorem test_ppsInEdge : gives .ppsInEdge up fun t => t.time.ppsIn.words.getD 4 0 == 10000000 && t.time.ppsIn.seq == 1 := by decide +kernel
theorem test_ppsInResultRead : gives .ppsInResultRead (tu { ppsIn := { seq := 3, ready := true, fresh := true, words := [0] } }) fun t =>
    t.out == [.readData [0x303]] && !t.time.ppsIn.fresh := by decide +kernel

/-! ## Housekeeping -/

/-- Every sensor has had one good reading of 25 °C; a round is due. -/
def sensors (v : Int) : List Int := List.replicate 17 v
def hkDue : State := { up with dt := 2500000 * 4 + 50000, house := { temps := (List.range 17).map fun n => (n, { goodRounds := 1, prev := some 560 }) } }
/-- Entry 3 is in progress with a window, the sequence ends there; an urgent conversion is out. -/
def adcAt3 : State := { up with house := { adcEntry := 3, adcLast := 3, adc := [(3, { low := 100, high := 200 })] } }
def urgent : State := { up with house := { urgBusy := true, urgAt := up.dt - 1250 } }
def busHeld : State := { up with smu := { up.smu with bus := .manager 0 1 } }

theorem witness_HousekeepingRowsComplete :
    (hkDue.chip.mainRun = true ∧ hkDue.dt % 2500000 = 50000 ∧ Reportable hkDue 0x0062 srcHouse 0 ∧
      hottestSensor ((List.range 17).map fun n => (n, (tabGet hkDue.house.temps {} n).round (tabGet [(0, (620 : Int))] 610 n +
        tabGet hkDue.chip.otp.tempTrims 0 n))) = some (0, 620)) ∧
    (adcAt3.house.converting = true ∧ urgent.house.urgBusy = true ∧ urgent.house.urgAt + 1250 ≤ urgent.dt ∧ up.house.urgBusy = false ∧
      busHeld.busTaken = true ∧ up.busTaken = false ∧ up.house.dacClrLow = false ∧ up.faults.safeState = false ∧
      bit (8 : Word32).toNat 3 = true ∧ bit (0x100 : Word32).toNat 8 = true) := by
  unfold Reportable; and_intros <;> decide +kernel

theorem test_hkRound : gives (.hkRound (sensors 615)) hkDue fun t => t.house.warn && t.house.throttle && t.house.shutdown &&
    t.house.hotSrc == 0 && t.faults.safeState := by decide +kernel
/-- The safe state drives both alert pins (R430, R435). -/
theorem test_hkRoundPins : gives (.hkRound (sensors 615)) hkDue fun t => t.errLow && t.alertLow && !hkDue.errLow && !hkDue.alertLow := by
  decide +kernel
theorem test_hkRoundWarm : gives (.hkRound (sensors 510)) { hkDue with house := { hkDue.house with warn := true } } fun t => t.house.warn &&
    !t.house.throttle && t.faults.log == [] := by decide +kernel
theorem test_adcConversionDone : gives (.adcConversionDone 250) adcAt3 fun t => (t.adcEntry 3).alarm && (t.adcEntry 3).window &&
    t.house.adcEntry == 0 := by decide +kernel
theorem test_adcCtrlWrite : gives (.adcCtrlWrite 10) up fun t => !t.house.adcRun && t.house.adcStopping && t.house.adcLast == 5 := by
  decide +kernel
theorem test_adcUrgentGo : gives (.adcUrgentGo 0x145) up fun t => t.house.urgBusy && t.house.urgInput == 5 && t.house.urgRef == 1 := by
  decide +kernel
theorem test_adcUrgentConversionDone : gives (.adcUrgentConversionDone 77) urgent fun t => !t.house.urgBusy &&
    t.house.urgResult.words == [77 * 1024] := by decide +kernel
theorem test_adcUrgentResultRead : gives .adcUrgentResultRead urgent fun t => t.out.length == 1 && !t.house.urgResult.fresh := by decide +kernel
theorem test_dacCtrlWrite : gives (.dacCtrlWrite 1 0x12340008) up fun t => t.dacOut 1 == 0x1234 && (t.dac 1).toCal := by decide +kernel
theorem test_dacBusHeld : gives (.dacCtrlWrite 1 0x12340008) busHeld fun t => !(t.dac 1).toCal && (t.dac 1).busConflict := by decide +kernel
theorem test_dacClrNChange : gives (.dacClrNChange true) { up with house := { dacs := [(0, { toCal := true, code := 9, written := true })] } } fun t =>
    !(t.dac 0).toCal && t.dacOut 0 == (t.dac 0).clear := by decide +kernel

/-! ## Start-up -/

/-- In reset: POR_N low; released; powered; held for a second. A record waits. -/
def lowReset : State := porReset up
def aonRec : FaultRec := { code := 0x00C3, source := srcAon, detail0 := 2, severity := 2, time := 7 }
def powered : State := { State.reset with chip := { mainPower := true }, faults := { aonPending := [aonRec] } }
def heldLong : State := { State.reset with dt := 2 * secTicks, chip := { resetHeld := true } }
/-- The image is being read; a flash that holds the test image. -/
def imageRead : State := { powered with chip := { mainPower := true, mainRun := true, imageReading := true } }

/-- The least safety block that passes: every input UNUSED, the shortest times. -/
def safetyWords : List Word32 := List.replicate 8 68 ++ List.replicate 4 167903232 ++ [0, 10, 0, 10, 0, 10, 0, 10, 0, 10, 0, 10, 0, 10, 0, 10]
def goodImage : Image := { img with outPorts := img.outPorts.take 1, journalGib := 48, safety := { words := safetyWords } }
def goodFlash : FlashImage := { sections := [1, 2, 5, 9, 14].map (fun k => (k, true, 512, 64)), keyHash := imageRead.chip.otp.vendorKeyHash, content := goodImage }

theorem witness_ResetRowsComplete :
    (up.chip.por = false ∧ MemForm up ∧ lowReset.chip.por = true) ∧
    (heldLong.chip.mainRun = false ∧ heldLong.chip.heldSince + secTicks ≤ heldLong.dt ∧
      findMerge heldLong.faults.aonPending { code := 0x00C2, source := srcAon } heldLong.dt = none ∧
      findMerge up.faults.aonPending { code := 0x00C3, source := srcAon, detail0 := 4 } up.dt = none) := by
  unfold MemForm; and_intros <;> decide +kernel

theorem test_porNAssert : gives .porNAssert up fun t => t.dt == 0 && !t.chip.mainRun && t.chip.por := by decide +kernel
theorem test_aonSupplyLow : gives .aonSupplyLow up fun t => t.dt == 0 && t.chip.por := by decide +kernel
theorem test_porNRelease : gives .porNRelease lowReset fun t => !t.chip.por := by decide +kernel
theorem test_warmReset : gives (.warmReset 1000) up fun t => t.chip.resetCause == 1 && t.dt == up.dt && !t.chip.mainRun := by decide +kernel
theorem test_warmResetShort : gives (.warmReset 499) up fun t => t.chip.mainRun := by decide +kernel
theorem test_resetCtrlWrite : gives (.resetCtrlWrite 0x5EE7) up fun t => t.chip.resetCause == 2 := by decide +kernel
theorem test_resetHeldExpire : gives .resetHeldExpire heldLong fun t => t.faults.aonPending.map (·.code) == [0xC2] := by decide +kernel
theorem test_mainSupplyFault : gives (.mainSupplyFault 4) up fun t => !t.chip.mainPower && t.faults.aonPending.map (·.detail0) == [4] := by
  decide +kernel
theorem test_mainSupplyGood : gives .mainSupplyGood State.reset fun t => t.chip.mainPower := by decide +kernel

/-- Surfaces of tile 0 come next; a restart with a record of one connection. -/
def expanding : State := { up with chip := { up.chip with setChecked := true } }
def restarting : State := { up with
  chip := { up.chip with resolved := false, restart := { valid := true, table := [(0, some { clause := 5, handle := 7, serial := 2 })] } } }

theorem witness_StartUpRowsComplete :
    (powered.chip.por = false ∧ powered.chip.mainRun = false ∧ powered.faults.aonPending = [aonRec] ∧ powered.host.perst = false) ∧
    (imageRead.chip.mainRun = true ∧ imageRead.chip.imageReading = true ∧ (firstFail imageRead.chip.otp { readOk := false }).isSome = true ∧
      (firstFail imageRead.chip.otp { sfdpOk := false }).isSome = true ∧ firstFail imageRead.chip.otp goodFlash = none) ∧
    (Quiet expanding ∧ expanding.mate.takeover ≠ .adopting ∧
      (expanding.expandOrder.filter fun t => !expanding.chip.expanded.contains t).head? = some 0 ∧ (expanding.link 0).tile ≠ .adopting) ∧
    (Quiet restarting ∧ restarting.ddrReady = true ∧ restarting.chip.setChecked = true ∧ restarting.issuesTokens = true ∧
      restarting.recordUsable = true ∧ restarting.chip.restart.tokens = [] ∧ restarting.chip.strays = [] ∧
      restarting.restartTiles.all restarting.restartAnswered = true) ∧
    BitVec.ofNat 32 up.readyNow ≠ up.chip.ready := by
  unfold Quiet; and_intros <;> decide +kernel

theorem test_mainStart : gives .mainStart powered fun t => t.chip.imageReading && t.faults.log.map (fun f => (f.seq, f.code)) == [(some 0, 0xC3)] := by
  decide +kernel
theorem test_imageReadRetry : gives (.flashImageReadDone { readOk := false }) imageRead fun t => t.chip.readRetried && t.chip.imageReading := by
  decide +kernel
theorem test_imageReadFailed : gives (.flashImageReadDone { sfdpOk := false }) imageRead fun t => t.chip.heldFabric && t.chip.imageResult == 2 &&
    t.faults.log.map (fun f => (f.code, f.detail0)) == [(0xC0, 2)] := by decide +kernel
theorem test_restartResolve : gives .restartResolve restarting fun t => t.chip.resolved && t.chip.restartMode == 1 &&
    t.store.table == [(0, some { clause := 5, handle := 0xFFF, serial := 2 })] := by decide +kernel
theorem test_readyChange : gives .readyChange up fun t => t.chip.ready == BitVec.ofNat 32 up.readyNow && t.chip.readyEvent == t.chip.ready := by
  decide +kernel

/-! ## Well-formedness: each check refuses a term that breaks it alone -/

/-- A verb's header for the terms below. -/
def hd : Hdr := { src := .sideband }

theorem test_wf_accepts : ([.nop hd, .stage hd true 4095 [0], .sqTailWrite 7 65535, .bar2Access true (2 ^ 25) 1 [],
    .slotOpen 255 true 263 64, .ackIdleTimeout (.tile 255) false, .safetyFrameSend 7, .losEventReceive [2047], .commaBoundary] : List Instr).all
      (·.wf) = true := by decide +kernel
/-- Widths of fields, in verbs. -/
theorem test_wf_refuses_verb_fields : ([
    .nop { hd with src := .host 8 }, .nop { hd with src := .peer 16 }, .nop { hd with src := .lossOfLight }, .nop { hd with tag := 65536 },
    .resumeRegion hd false 256, .handover hd false 65536, .getCert hd 0 (2 ^ 64) 0, .getCert hd 0 0 (2 ^ 32),
    .stage hd true 4096 [0], .stage hd true 0 [], .stage hd true 0 [0, 0, 0, 0], .stageList hd true false 0 65536 0,
    .commit hd 0 { resultAddr := 2 ^ 64 }, .schedule hd 0 {} { sec := 2 ^ 64 } 0, .schedule hd 0 {} { ns := 2 ^ 30 } 0,
    .schedule hd 0 {} { frac := 65536 } 0, .arm hd 0 {} false 0 [{ port := 1024 }], .arm hd 0 {} false 256 [],
    .paraDefine hd false 64 1 0 0 0 0, .paraDefine hd false 0 1 0 (2 ^ 48) 0 0, .pin hd false 262144 1 0, .classSwap hd 64,
    .elementTrim hd false 0 32768 0, .elementTrim hd false 0 0 (-32769), .journalCopy hd false 256 0 1 0, .sweepFree hd 256,
    .calRun hd 4 0 0 0, .dalovoSend hd false false 16 0 0 {} 0] : List Instr).all (fun c => !c.wf) = true := by decide +kernel
/-- Operands of the rows that are no verbs. -/
theorem test_wf_refuses_row_operands : ([
    .sqEntryFetch 0 [], .sqEntryFetch 0 [0, 0, 0, 0, 0, 0, 0, 0, 0], .queueConfigWrite 0 10 0, .sbWindowAccess true 4 [0, 0, 0, 0, 0, 0, 0, 0, 0] true,
    .bar2Access false (2 ^ 25 + 1) 1 [], .bar2Access false 0 (2 ^ 25 + 1) [], .registerWrite (2 ^ 24) 0 true, .bar0AccessError false 0 1,
    .bar0AccessError false 0 1025, .complianceEventReceive 0 9 0, .regionEscalate 16, .cellOperationError 0 .loop 16 none,
    .cellOperationError 0 .loop 0 (some 262144), .losClearReceive 2048, .placementMove 262144 false, .elementReroute 1024,
    .handshakeWatchdog (.regionCentral 16), .handshakeWatchdog (.regionBlock 16 .link), .sweepTimeout 257, .safetyFrameSend 8,
    .faultReport [{ code := 65536, source := 0 }], .faultReport [{ code := 0, source := 512 }],
    .faultReport [{ code := 0, source := 0, detail0 := 2 ^ 32 }], .faultReport [{ code := 0, source := 0, detail1 := 2 ^ 32 }],
    .faultInjectCheck 8 0 false false, .admMeterWrite 3 0, .bankInit 32, .bankAccessCollide 0 131072 0 0, .adcConversionDone 4096,
    .hkRound [2048], .dmaGo 16, .dmaErrorHalt 0 false 0 (2 ^ 24) 0 0 [], .mirrorAckReceive (2 ^ 22), .mateHeartbeatReceive 0 0 8 0,
    .refConversionDone (2 ^ 31) false, .fbkTimeout 4 true, .ilkDiscrepancy 8, .dalovoAnnounceSend 2, .dalovoIdleTimeout 16,
    .dacCtrlWrite 4 0] : List Instr).all (fun c => !c.wf) = true := by decide +kernel
/-- Frames of links, Dalovo and PTP. -/
theorem test_wf_refuses_frame_fields : ([
    .tileCommitReceive 256 false 0 0 0, .tileCommitReceive 0 false 0 264 0, .tileCommitReceive 0 false 0 0 65536, .driveShapeEnd 0 1024,
    .slotOpen 0 false 0 0, .slotOpen 0 false 0 65, .driveSlotFrame 0 false 0 1024 0 0, .classDiv 0 false 0 2048 0, .shapeLoad 0 false 0 false 32 0,
    .setShare 0 false ⟨256, 0, 0, 0⟩, .setShare 0 false ⟨0, 256, 0, 0⟩, .setShare 0 false ⟨0, 0, 256, 0⟩, .setShare 0 false ⟨0, 0, 0, 256⟩,
    .bulkPull 0 false (2 ^ 24) 1, .bulkPull 0 false 0 0, .bulkPull 0 false 0 257, .pointWord 0 false 4 0, .portSampleReceive 0 8 0 false 0 false,
    .readbackReceive 0 0 [0], .tempReceive 0 2048, .senseFrameReceive 0 0 [65536], .senseFrameReceive 0 0 (List.replicate 253 0),
    .tileDriveFrame 0 false 0 [65536], .tileDriveFrame 0 false 0 (List.replicate 253 0), .readbackReceive 0 0 (List.replicate 64 65536),
    .tbeaconReceive 0 false (2 ^ 41), .linkFrameReceive (.controller 256) false 0 [], .linkFrameReceive (.tile 256) false 0 [],
    .linkFrameReceive (.tile 0) false 0 (List.replicate 513 0), .linkctlAckReceive (.tile 0) false 4096,
    .trainBlockReceive 0 { phase := 7 }, .trainBlockReceive 0 { speed := 5 }, .trainBlockReceive 0 { reqPre := 3 },
    .trainBlockReceive 0 { reqMain := 3 }, .trainBlockReceive 0 { reqPost := 3 }, .trainBlockReceive 0 { atLimit := 8 },
    .trainBlockReceive 0 { maxSpeed := 8 }, .trainBlockReceive 0 { version := 128 }, .trainBlockReceive 0 { echoTag := 65536 },
    .ptpAnnounceReceive 0 { domain := 256 }, .ptpAnnounceReceive 0 { version := 16 }, .ptpAnnounceReceive 0 { gmId := 2 ^ 64 },
    .ptpAnnounceReceive 0 { logSync := 128 }, .ptpAnnounceReceive 0 { logAnnounce := -129 }, .ptpAnnounceReceive 0 { utcOffset := 32768 },
    .dalovoHello { port := 2 }, .dalovoHello { srcId := 2 ^ 32 }, .dalovoHello { dstId := 2 ^ 32 }, .dalovoHello { certLen := 65536 },
    .dalovoHello { subjectId := 2 ^ 32 }, .dalovoHello { ownerLen := 65536 }, .dalovoHello { ownerId := 2 ^ 32 },
    .dalovoFinish { port := 2 } true, .dalovoFinish { version := 256 } true, .dalovoFinish { srcId := 2 ^ 32 } true,
    .dalovoFinish { session := 2 ^ 32 } true, .dalovoFinish { seq := 2 ^ 64 } true, .dalovoFinish { length := 65536 } true,
    .dalovoUserFrame {} (List.replicate 993 0) 0] : List Instr).all (fun c => !c.wf) = true := by decide +kernel

end Sys2Proof.Tests
end

/-! The frame of every command, in any state: `exec_writes` says that a command writes only the parts that `touched` lists
for it and the background, before what follows it (`after`). A proof of `Writes` follows the branches of the command's
definition; each leaf cites what the operation there may write (`…_only`), and each `by decide` says that these parts are
in the command's list. From it, the invariant of ERR_LEVEL. -/

namespace Sys2Proof.Safety

open Sys2Proof.Machine

/-! ## What a command writes, and the rules for it -/

/-- The parts that what follows a command may write, whatever is in progress. -/
def afterParts : List Part := [.out, .resumes, .irq, .issues, .regions, .elems, .runs, .calRuns, .links, .handover,
  .mirror, .digest]

/-- Where the outcome `o` of a command on `s` is a next state, the command itself wrote only the parts `P` of `s` and the
background; what follows any command may have come after it. -/
def Writes (P : List Part) (s : State) (o : Host.Outcome State Fault Refusal) : Prop :=
  ∀ t, o = .next t → ∃ u, Only (P ++ background) s u ∧ (t = u ∨ ∃ s0, t = after s0 u)

section
variable {P : List Part} {s s0 u : State}

theorem Writes.next (h : Only (P ++ background) s u) : Writes P s (.next u) := by
  intro t ht
  exact ⟨u, h, .inl (Host.Outcome.next.inj ht).symm⟩

theorem Writes.stay : Writes P s (.next s) := .next (.refl _ _)

theorem Writes.ok (h : Only (P ++ background) s u) : Writes P s (ok s0 u) := by
  rw [ok_next]
  intro t ht
  cases ht
  exact ⟨u, h, .inr ⟨s0, rfl⟩⟩

theorem Writes.fault (f : Fault) : Writes P s (.fault f) := by
  simp only [Writes, reduceCtorEq, false_implies, implies_true]

theorem Writes.ite {c : Prop} [Decidable c] {x y : Host.Outcome State Fault Refusal} (hx : Writes P s x)
    (hy : Writes P s y) : Writes P s (if c then x else y) := by split <;> assumption

theorem Writes.mainRow {f : State → State} (h : Only (P ++ background) s (f s)) : Writes P s (mainRow s f) := by
  unfold Machine.mainRow
  split
  · exact .ok h
  · exact .stay

theorem Writes.readRow {f : State → Word32 × State} (hp : [.out] ⊆ P ++ background)
    (h : Only (P ++ background) s (f s).2) : Writes P s (readRow s f) :=
  .mainRow (State.emit_only h hp _)

theorem Writes.lsuRow {f : State → State} (h : Only (P ++ background) s (f s)) : Writes P s (lsuRow s f) :=
  .ok (.ite h (.refl _ _))

theorem Writes.tileCmd {t : Nat} {portB : Bool} {f : State → State} (h : Only (P ++ background) s (f s)) :
    Writes P s (tileCmd s t portB f) := by
  unfold Machine.tileCmd
  split
  · exact .ok h
  · exact .stay

theorem Writes.verb {h : Hdr} {op : Nat} {i : Instr} {f : State → State} (hp : [.issues] ⊆ P ++ background)
    (hf : Only (P ++ background) s (f s)) : Writes P s (verb s h op i f) := by
  unfold Machine.verb
  split
  · exact .stay
  · split
    · exact .ok (State.fail_only (.refl _ _) hp _ _ _)
    · exact .ok hf

theorem Writes.waitToken {p : Prep} (hp : [.store, .time] ⊆ P ++ background) : Writes P s (waitToken s p) := by
  unfold Machine.waitToken
  split
  · exact .stay
  · refine .ok fun q hq => ?_
    cases q <;> simp_all [Part.same, background]

/-- A part that neither the command nor what follows it writes stays as it was. -/
theorem Writes.same {p : Part} {o : Host.Outcome State Fault Refusal} {t : State} (h : Writes P s o)
    (hp : p ∉ P ++ background) (ha : p ∉ afterParts) (ht : o = .next t) : p.same s t := by
  obtain ⟨u, hu, rfl | ⟨s0, rfl⟩⟩ := h t ht
  · exact hu p hp
  · exact Part.same_trans (hu p hp) (after_only (P := afterParts) (.refl _ u) (List.Subset.refl _) s0 p ha)

end

/-! ## More rules of `Only` -/

/-- A state updated or left alone. -/
theorem Only.update_if {P : List Part} {o b x : State} {c : Prop} [Decidable c] (h : Only P o b)
    (hx : Only P o b → Only P o x) : Only P o (if c then x else b) := .ite (hx h) h

theorem formResult_eq {P : List Part} {o s s1 : State} {p : PointRec} {k : Taking} {compliance sampling aborted : Bool}
    {r : PointResult} (e : formResult s p k compliance sampling aborted = (r, s1)) (h₀ : Only P o s) (hp : [.free] ⊆ P) :
    Only P o s1 := by
  have := formResult_only h₀ hp p k compliance sampling aborted
  rwa [e] at this

/-- A lemma of its own: its checks run over a variable state, never over the 1,024 elements of an expanded tile. -/
theorem setExpanded_only {P : List Part} {o s : State} (h₀ : Only P o s) (hp : [.chip] ⊆ P) (ts : List Nat) :
    Only P o { s with chip := { s.chip with expanded := ts } } :=
  .set_chip (.inl (hp (by decide))) (.inr rfl) (.inr ⟨rfl, rfl, rfl, rfl⟩) h₀

/-! ## Commands of `Machine/LightSafety.lean` -/

theorem execIlkContactChange_writes (input : Nat) (contactB closed : Bool) (s : State) :
    Writes recordParts s (execIlkContactChange input contactB closed s) :=
  .lsuRow <| .ite (.refl _ _) <| ilkFollow_only (State.setIlk_only (.refl _ _) (by decide) _ _) (by decide) _

theorem execIlkDiscrepancy_writes (input : Nat) (s : State) : Writes recordParts s (execIlkDiscrepancy input s) :=
  .lsuRow <| .ite (.refl _ _) <| ilkTo_only (.refl _ _) (by decide) _ _ _

theorem execLenEvaluate_writes (s : State) : Writes recordParts s (execLenEvaluate s) :=
  .lsuRow <| .foldl (.refl _ _) fun _ _ h => lenStep_only h (by decide) _

theorem execFbkTimeout_writes (output : Nat) (fbkOpen : Bool) (s : State) :
    Writes recordParts s (execFbkTimeout output fbkOpen s) :=
  .lsuRow <| .ite (.refl _ _) <|
    .ite (latchCause_only (State.setLen_only (.refl _ _) (by decide) _ _) (by decide) _ _ _) <|
    State.setLen_only (.refl _ _) (by decide) _ _

theorem execStuckOnDetect_writes (output : Nat) (s : State) : Writes recordParts s (execStuckOnDetect output s) :=
  .lsuRow <| .ite (.refl _ _) <| .ite (State.setLen_only (.refl _ _) (by decide) _ _) <|
    latchCause_only (.refl _ _) (by decide) _ _ _

theorem execTestPulseStart_writes (output : Nat) (s : State) : Writes [.lsu] s (execTestPulseStart output s) := by
  unfold execTestPulseStart
  refine .lsuRow ?_
  dsimp only
  split
  · exact .ite (State.setLen_only (.refl _ _) (by decide) _ _) (.refl _ _)
  · exact .refl _ _

theorem execTestPulseCheck_writes (output : Nat) (readbackOn : Bool) (s : State) :
    Writes recordParts s (execTestPulseCheck output readbackOn s) := by
  unfold execTestPulseCheck
  refine .lsuRow <| .ite (.refl _ _) ?_
  dsimp only
  split
  · exact .ite (latchCause_only (State.setLen_only (.refl _ _) (by decide) _ _) (by decide) _ _ _) <|
      State.setLen_only (.refl _ _) (by decide) _ _
  · exact .ite (endPulse_only (.refl _ _) (by decide) _) <|
      .ite (latchCause_only (State.setLen_only (.refl _ _) (by decide) _ _) (by decide) _ _ _) <|
      .set_lsu (by decide) <| State.setLen_only (.refl _ _) (by decide) _ _

theorem execSafeKeyWrite_writes (value : Word32) (s : State) : Writes [.lsu] s (execSafeKeyWrite value s) :=
  .lsuRow <| safeKey_only (.refl _ _) (by decide) _

theorem execSafeCommitWrite_writes (value : Word32) (s : State) : Writes [.lsu] s (execSafeCommitWrite value s) :=
  .lsuRow <| safeCommit_only (.refl _ _) (by decide) _

theorem execSafeKeyTimeout_writes (s : State) : Writes [.lsu] s (execSafeKeyTimeout s) :=
  .lsuRow <| .ite (dropKey_only (.refl _ _) (by decide)) (.refl _ _)

theorem execSafeAckWrite_writes (value : Word32) (s : State) : Writes recordParts s (execSafeAckWrite value s) :=
  .lsuRow <| safeAck_only (.refl _ _) (by decide) _

theorem execLenForceOffWrite_writes (value : Word32) (s : State) : Writes [.lsu] s (execLenForceOffWrite value s) :=
  .lsuRow <| lenForceOff_only (.refl _ _) (by decide) _

theorem execSafetyBlockDeliver_writes (block : SafetyBlock) (s : State) :
    Writes [.lsu] s (execSafetyBlockDeliver block s) :=
  .lsuRow <| .ite (deliverBlock_only (.refl _ _) (by decide) _) (.refl _ _)

theorem execSafetyRecordWrite_writes (good : Bool) (s : State) : Writes [.lsu] s (execSafetyRecordWrite good s) := by
  unfold execSafetyRecordWrite
  refine .lsuRow ?_
  split
  · exact .ite (.refl _ _) <| .ite (.set_lsu (by decide) (.refl _ _)) <| .set_lsu (by decide) (.refl _ _)
  · exact .refl _ _

theorem execLsuSelfCheck_writes (crcOk parityOk clockOk supplyOk : Bool) (s : State) :
    Writes recordParts s (execLsuSelfCheck crcOk parityOk clockOk supplyOk s) :=
  .lsuRow <| .ite (.refl _ _) <| lsuFault_only (.refl _ _) (by decide) _

/-! ## Commands of `Machine/Sentences.lean` -/

theorem execNop_writes (h : Hdr) (s : State) : Writes [.issues] s (execNop h s) :=
  .verb (by decide) <| State.complete_only (.refl _ _) (by decide) _ _ _ _

theorem execStage_writes (h : Hdr) (openFlag : Bool) (handle : Nat) (clauses : List Rec128) (s : State) :
    Writes [.issues, .store] s (execStage h openFlag handle clauses s) :=
  .verb (by decide) <| stageClauses_only (.refl _ _) (by decide) _ _ _ _ _

theorem execStageList_writes (h : Hdr) (openFlag ns : Bool) (handle count addr : Nat) (s : State) :
    Writes [.issues, .hostOps] s (execStageList h openFlag ns handle count addr s) := by
  unfold execStageList
  exact .verb (by decide) <| hostRead_only (.refl _ _) (by decide) _ _ _ _ _

theorem execCommit_writes (h : Hdr) (handle : Nat) (opts : LaunchOpts) (s : State) :
    Writes [.issues, .owed, .store] s (execCommit h handle opts s) :=
  .verb (by decide) <| .ite (State.fail_only (.refl _ _) (by decide) _ _ _) <|
    .ite (refuseAll_only (.refl _ _) (by decide) _ _ _ _ _) <|
    State.addPrep_only (State.modSent_only (.refl _ _) (by decide) _ _) (by decide) _ _ _

theorem execSchedule_writes (h : Hdr) (handle : Nat) (opts : LaunchOpts) (t : NetTime) (late : Nat) (s : State) :
    Writes [.issues, .store] s (execSchedule h handle opts t late s) :=
  .verb (by decide) <| .ite (State.fail_only (.refl _ _) (by decide) _ _ _) <|
    .ite (State.fail_only (.refl _ _) (by decide) _ _ _) <| .ite (State.fail_only (.refl _ _) (by decide) _ _ _) <|
    State.complete_only (.set_store (by decide) (State.modSent_only (.refl _ _) (by decide) _ _)) (by decide) _ _ _ _

theorem execArm_writes (h : Hdr) (handle : Nat) (opts : LaunchOpts) (rearm : Bool) (pgroup : Nat)
    (ports : List PortRef) (s : State) :
    Writes [.issues, .store] s (execArm h handle opts rearm pgroup ports s) := by
  unfold execArm
  refine .verb (by decide) <| .ite (State.fail_only (.refl _ _) (by decide) _ _ _) <|
    .ite (State.fail_only (.refl _ _) (by decide) _ _ _) <| .ite (State.fail_only (.refl _ _) (by decide) _ _ _) <|
    .ite (State.fail_only (.refl _ _) (by decide) _ _ _) ?_
  split
  · exact State.fail_only (.refl _ _) (by decide) _ _ _
  · exact .ite (State.fail_only (.refl _ _) (by decide) _ _ _) <|
      State.addPrep_only (State.setSent_only (.refl _ _) (by decide) _ _) (by decide) _ _ _

theorem execDisarm_writes (h : Hdr) (handle : Nat) (s : State) :
    Writes [.issues, .store] s (execDisarm h handle s) :=
  .verb (by decide) <| .ite (State.complete_only (State.setSent_only (dropPreps_only (.refl _ _) (by decide) _)
    (by decide) _ _) (by decide) _ _ _ _) <| State.fail_only (.refl _ _) (by decide) _ _ _

theorem execFire_writes (h : Hdr) (handle : Nat) (s : State) :
    Writes [.issues, .owed, .store] s (execFire h handle s) :=
  .verb (by decide) <| .ite (fireSentence_only (.refl _ _) (by decide) _ _ _ _) <|
    State.fail_only (ignoreTrigger_only (.refl _ _) (by decide) _) (by decide) _ _ _

theorem execCancel_writes (h : Hdr) (handle : Nat) (s : State) :
    Writes [.issues, .owed, .store] s (execCancel h handle s) := by
  unfold execCancel
  refine .verb (by decide) ?_
  split
  · exact .ite (State.complete_only (endSched_only (.refl _ _) (by decide) _ _) (by decide) _ _ _ _) <|
      State.fail_only (.refl _ _) (by decide) _ _ _
  · exact State.fail_only (.refl _ _) (by decide) _ _ _

theorem execFreeSentence_writes (h : Hdr) (handle : Nat) (s : State) :
    Writes [.issues, .store] s (execFreeSentence h handle s) :=
  .verb (by decide) <| .ite (State.fail_only (.refl _ _) (by decide) _ _ _) <|
    State.complete_only (State.modSent_only (.refl _ _) (by decide) _ _) (by decide) _ _ _ _

theorem execParaDefine_writes (h : Hdr) (halt : Bool) (para stepCount addr period repeats late : Nat) (s : State) :
    Writes [.issues, .hostOps] s (execParaDefine h halt para stepCount addr period repeats late s) := by
  unfold execParaDefine
  exact .verb (by decide) <| .ite (hostRead_only (.refl _ _) (by decide) _ _ _ _ _) <|
    State.fail_only (.refl _ _) (by decide) _ _ _

theorem execParaStart_writes (h : Hdr) (reportAll : Bool) (para : Nat) (start : NetTime) (s : State) :
    Writes [.issues, .store] s (execParaStart h reportAll para start s) :=
  .verb (by decide) <|
    .ite (State.complete_only (State.setPara_only (.refl _ _) (by decide) _ _) (by decide) _ _ _ _) <|
    State.fail_only (.refl _ _) (by decide) _ _ _

theorem execParaStop_writes (h : Hdr) (now : Bool) (para : Nat) (s : State) :
    Writes [.issues, .owed, .store] s (execParaStop h now para s) :=
  .verb (by decide) <| .ite (State.fail_only (.refl _ _) (by decide) _ _ _) <|
    .ite (State.complete_only (stopPara_only (.refl _ _) (by decide) _) (by decide) _ _ _ _) <|
    State.complete_only (State.setPara_only (.refl _ _) (by decide) _ _) (by decide) _ _ _ _

/-! ## Commands of `Machine/Launches.lean` -/

theorem execSentencePrepare_writes (s : State) :
    Writes [.issues, .owed, .store, .elems, .links] s (execSentencePrepare s) := by
  unfold execSentencePrepare
  split
  · exact .ok <| prepareOne_only (.refl _ _) (by decide) _
  · exact .stay

theorem execPrepLeadDue_writes (para : Bool) (index : Nat) (s : State) :
    Writes [.store] s (execPrepLeadDue para index s) := by
  unfold execPrepLeadDue
  refine .ite (.ite (.ok (State.addPrep_only (.refl _ _) (by decide) _ _ _)) .stay) ?_
  split
  · exact .ite (.ok (State.addPrep_only (.refl _ _) (by decide) _ _ _)) .stay
  · exact .stay

theorem execStaleReprepare_writes (handle : Nat) (s : State) : Writes [.store] s (execStaleReprepare handle s) :=
  .ite (.ok (State.addPrep_only (.refl _ _) (by decide) _ _ _)) .stay

theorem execTokenIssue_writes (launch : Nat) (s : State) : Writes launchParts s (execTokenIssue launch s) := by
  unfold execTokenIssue
  split
  · exact .stay
  · split
    · exact .stay
    · exact .stay
    · refine .ite (.ok (refusePrep_only (.refl _ _) (by decide) _ _ _)) <|
        .ite (.ok (notReadyPrep_only (.refl _ _) (by decide) _)) <| .ite .stay <| .ok ?_
      split
      · exact noteLatency_only (dispatchToken_only (dropPreps_only (.refl _ _) (by decide) _) (by decide) _)
          (by decide) _ _
      · exact dispatchToken_only (dropPreps_only (.refl _ _) (by decide) _) (by decide) _

theorem execP0Dispatch_writes (s : State) : Writes launchParts s (execP0Dispatch s) := by
  unfold execP0Dispatch
  split
  · exact .ite .stay <| .ok <| dispatchP0_only (.refl _ _) (by decide) _
  · exact .stay

theorem execLatchReportReceive_writes (tile : Nat) (serial : Serial) (latched : Bool) (s : State) :
    Writes [.issues, .owed, .store, .elems, .links] s (execLatchReportReceive tile serial latched s) := by
  unfold execLatchReportReceive
  split
  · exact .stay
  · exact .ok <| checkSettle_only (.ite (tileLatched_only (freeLaunchSlot_only (.refl _ _) (by decide) _ _)
      (by decide) _ _) (tileMissed_only (freeLaunchSlot_only (.refl _ _) (by decide) _ _) (by decide) _ _))
      (by decide) _

theorem execLaunchResultTimeout_writes (tile : Nat) (serial : Serial) (s : State) :
    Writes [.issues, .owed, .store, .elems, .links] s (execLaunchResultTimeout tile serial s) := by
  unfold execLaunchResultTimeout
  split
  · exact .stay
  · exact .ite .stay <| .ok <| checkSettle_only (setTileResult_only (freeLaunchSlot_only (.refl _ _) (by decide) _ _)
      (by decide) _ _ _) (by decide) _

theorem execReversalLaunch_writes (serial : Serial) (s : State) :
    Writes launchParts s (execReversalLaunch serial s) := by
  unfold execReversalLaunch
  split
  · exact .stay
  · exact .ite (.ok (completeLaunch_only (.foldl (.refl _ _) (fun _ _ h => bumpEpoch_only h (by decide) _))
      (by decide) _)) <| .ite .stay <| .ite (.ok (completeLaunch_only (.refl _ _) (by decide) _)) <| .ite .stay <|
      .ok <| checkSettle_only (issueToken_only (.set_store (by decide) (.refl _ _)) (by decide) _) (by decide) _

theorem execScheduledLaunchDue_writes (handle : Nat) (s : State) :
    Writes (launchParts ++ [Part.time]) s (execScheduledLaunchDue handle s) := by
  unfold execScheduledLaunchDue
  split
  · exact .stay
  · split
    · exact .stay
    · exact .ok <| endSched_only (countLate_only (.refl _ _) (by decide)) (by decide) _ _
    · split
      · exact .stay
      · exact .ite .stay <| .ite (.waitToken (by decide)) <| .ite .stay <| .ok <| dispatchToken_only
          (State.modSent_only (dropPreps_only (.set_store (by decide) (.refl _ _)) (by decide) _) (by decide) _ _)
          (by decide) _

theorem execParagraphStepDue_writes (para : Nat) (s : State) :
    Writes (launchParts ++ [Part.time]) s (execParagraphStepDue para s) := by
  unfold execParagraphStepDue
  refine .ite .stay ?_
  split
  · exact .stay
  · exact .ok <| missStep_only (.refl _ _) (by decide) _
  · split
    · exact .stay
    · exact .ite .stay <| .ite (.waitToken (by decide)) <| .ite .stay <| .ok <| dispatchToken_only (State.setPara_only
        (State.modSent_only (dropPreps_only (.refl _ _) (by decide) _) (by decide) _ _) (by decide) _ _) (by decide) _

theorem execLosEventReceive_writes (monitors : List Nat) (s : State) :
    Writes [.issues, .owed, .store, .smu, .adm, .mate] s (execLosEventReceive monitors s) :=
  .ok <| .foldl (.refl _ _) fun _ _ h => losRaise_only h (by decide) _

theorem execLosClearReceive_writes (monitor : Nat) (s : State) : Writes [.smu] s (execLosClearReceive monitor s) :=
  .ok <| State.setMonitor_only (.refl _ _) (by decide) _ _

theorem execElementReroute_writes (inPort : Nat) (s : State) :
    Writes [.owed, .store, .elems] s (execElementReroute inPort s) := by
  unfold execElementReroute
  split
  · exact .stay
  · refine .ite .stay ?_
    dsimp only
    split
    · exact .ok <| promoteAll_only (.set_store (by decide) (.refl _ _)) (by decide) _
    · exact .ite .stay <| .ok <| State.sysEvent_only (.set_store (by decide) (.refl _ _)) (by decide) _

/-! ## Commands of `Machine/Calibration.lean` -/

theorem execCalRun_writes (h : Hdr) (kind scope target timeoutMs : Nat) (s : State) :
    Writes [.issues, .elems, .calib, .calRuns] s (execCalRun h kind scope target timeoutMs s) := by
  unfold execCalRun
  refine .verb (by decide) ?_
  split
  · exact State.fail_only (.refl _ _) (by decide) _ _ _
  next es _ =>
    have h1 : Only ([.issues, .elems, .calib, .calRuns] ++ background) s
        (if kind = 2 then (s, 0, 0) else foldAll s es).1 :=
      .ite_fst (.refl _ _) (foldAll_only (.refl _ _) (by decide) _)
    refine State.complete_only ?_ (by decide) _ _ _ _
    exact .set_calib (.inl (by decide)) (.inl (by decide)) <| .foldl h1 fun _ _ h => queueRun_only h (by decide) _ _ _

theorem execSaveCalibration_writes (h : Hdr) (fromHost ns : Bool) (addr : Nat) (s : State) :
    Writes [.issues, .calib, .hostOps] s (execSaveCalibration h fromHost ns addr s) := by
  unfold execSaveCalibration
  refine .verb (by decide) <| .ite (State.fail_only (.refl _ _) (by decide) _ _ _) <| .ite ?_ (.set_calib
    (.inl (by decide)) (.inr ⟨rfl, rfl⟩) (.set_calib (.inl (by decide)) (.inr ⟨rfl, rfl⟩) (.refl _ _)))
  refine hostRead_only ?_ (by decide) _ _ _ _ _
  exact .set_calib (.inl (by decide)) (.inr ⟨rfl, rfl⟩) (.refl _ _)

theorem execCalSaveFlashDone_writes (good : Bool) (s : State) :
    Writes [.issues, .calib] s (execCalSaveFlashDone good s) := by
  unfold execCalSaveFlashDone
  split
  · refine .ok <| .ite ?_ ?_
    · refine State.complete_only ?_ (by decide) _ _ _ _
      exact .set_calib (.inl (by decide)) (.inr ⟨rfl, rfl⟩) (.refl _ _)
    · refine State.fail_only ?_ (by decide) _ _ _
      exact .set_calib (.inl (by decide)) (.inr ⟨rfl, rfl⟩) (.refl _ _)
  · exact .stay

theorem execExportCalibration_writes (h : Hdr) (inService : Bool) (addr length : Nat) (s : State) :
    Writes [.issues, .calib, .hostOps] s (execExportCalibration h inService addr length s) := by
  unfold execExportCalibration
  refine .verb (by decide) <| .ite (State.fail_only (.refl _ _) (by decide) _ _ _) fun p hp => ?_
  cases p <;> simp_all [Part.same, State.emit, background]

theorem execCalMicroRun_writes (eid : Nat) (s : State) :
    Writes [.elems, .calRuns, .links] s (execCalMicroRun eid s) := by
  unfold execCalMicroRun
  split
  · exact .ite (.ok (beginRun_only (.refl _ _) (by decide) _ _)) .stay
  · exact .stay

theorem execCalFullRun_writes (eid : Nat) (s : State) : Writes [.elems, .calRuns, .links] s (execCalFullRun eid s) := by
  unfold execCalFullRun
  split
  · exact .ite (.ok (beginRun_only (.refl _ _) (by decide) _ _)) .stay
  · exact .stay

theorem execCalSenseReceive_writes (tile elem sense : Nat) (s : State) :
    Writes (recordParts ++ [Part.calib, Part.tiles]) s (execCalSenseReceive tile elem sense s) := by
  unfold execCalSenseReceive
  dsimp only
  split
  · exact .stay
  · split
    · exact .stay
    · refine .ite ?_ ?_
      · split
        · exact .ok <| nextPoint_only (State.modTile_only (.refl _ _) (by decide) _ _) (by decide) _ _ _
        · refine .ok <| endMicro_only ?_ (by decide) _
          exact .set_calib (.inr rfl) (.inl (by decide)) <| State.modTile_only (.refl _ _) (by decide) _ _
      · split
        · exact .ok <| nextPoint_only (State.modTile_only (.refl _ _) (by decide) _ _) (by decide) _ _ _
        · refine .ok <| endFull_only ?_ (by decide) _ _
          exact .set_calib (.inr rfl) (.inl (by decide)) <| State.modTile_only (.refl _ _) (by decide) _ _

theorem execCalChannelRun_writes (tile : Nat) (fits : List (Nat × Int × Int)) (s : State) :
    Writes (recordParts ++ [Part.calib]) s (execCalChannelRun tile fits s) := by
  unfold execCalChannelRun
  split
  · exact .stay
  · refine .ite .stay <|
      .ite (.ok <| .set_calib (.inl (by decide)) (.inl (by decide)) <| countBatches_only (.refl _ _) (by decide) _ _) <|
      .ok <| .ite ?_ <| State.report_only ?_ (by decide) _ _ _ _
    all_goals
      refine .update_if ?_ fun h => queueRun_only h (by decide) _ _ _
      exact .set_calib (.inl (by decide)) (.inl (by decide)) <| countBatches_only (.foldl (.refl _ _) fun _ _ h =>
        State.down_only (State.down_only h (by decide) _ _ _) (by decide) _ _ _) (by decide) _ _

theorem execCalTimeout_writes (batch : Nat) (s : State) : Writes [.calib, .calRuns] s (execCalTimeout batch s) :=
  .ite .stay <| .ok <| .set_calib (.inl (by decide)) (.inl (by decide)) (.refl _ _)

theorem execCalDonePost_writes (batch : Nat) (s : State) : Writes [.owed, .calRuns] s (execCalDonePost batch s) := by
  unfold execCalDonePost
  split
  · exact .stay
  · refine .ite .stay <| .ok <| State.event_only ?_ (by decide) _ _
    exact .set_calib (.inr rfl) (.inl (by decide)) (.refl _ _)

theorem execPathLossUpdate_writes (inPort : Nat) (s : State) : Writes [.elems] s (execPathLossUpdate inPort s) := by
  unfold execPathLossUpdate
  split
  · exact .stay
  · dsimp only
    split
    · exact .ite .stay <| .ok <| .foldl (.refl _ _) fun _ _ h => State.modElem_only h (by decide) _ _
    · exact .stay

/-! ## Commands of `Machine/TileEnds.lean` -/

theorem execTileCommitReceive_writes (tile : Nat) (portB : Bool) (serial : Serial) (slot time : Nat) (s : State) :
    Writes [.tiles] s (execTileCommitReceive tile portB serial slot time s) :=
  .tileCmd <| .ite (State.modTile_only (.refl _ _) (by decide) _ _) <| State.up_only (.refl _ _) (by decide) _ _ _ _

theorem execTileLatch_writes (tile : Nat) (serial : Serial) (s : State) :
    Writes [.tiles] s (execTileLatch tile serial s) := by
  unfold execTileLatch
  dsimp only
  split
  · exact .stay
  · exact .ok <| State.up_only (State.modTile_only (.foldl (.refl _ _) (fun _ _ h => applyEntry_only h
      (by decide) _ _ _ _)) (by decide) _ _) (by decide) _ _ _ _

theorem execDriveShapeEnd_writes (tile elem : Nat) (s : State) :
    Writes [.elems, .tiles] s (execDriveShapeEnd tile elem s) := by
  unfold execDriveShapeEnd
  split
  · exact .ite (.ok (endShape_only (.refl _ _) (by decide) _ _)) .stay
  · exact .stay

theorem execSlotOpen_writes (tile : Nat) (portB : Bool) (slot count : Nat) (s : State) :
    Writes [.tiles] s (execSlotOpen tile portB slot count s) :=
  .tileCmd <| State.modTile_only (.refl _ _) (by decide) _ _

theorem execDriveSlotFrame_writes (tile : Nat) (portB : Bool) (elem0 d0 elem1 d1 : Nat) (s : State) :
    Writes [.tiles] s (execDriveSlotFrame tile portB elem0 d0 elem1 d1 s) := by
  unfold execDriveSlotFrame
  refine .tileCmd ?_
  split
  · exact .refl _ _
  · exact .ite (State.modTile_only (.refl _ _) (by decide) _ _) <|
      cmdAck_only (State.modTile_only (.refl _ _) (by decide) _ _) (by decide) _ _ _ _ _

theorem execTileDriveFrame_writes (tile : Nat) (portB : Bool) (comma : Nat) (codes : List Nat) (s : State) :
    Writes [.tiles, .mate] s (execTileDriveFrame tile portB comma codes s) :=
  .tileCmd <| .ite (noteGap_only (State.modTile_only (.refl _ _) (by decide) _ _) (by decide) _ _) <|
    tileEvent_only (.refl _ _) (by decide) _ _

theorem execSetClass_writes (tile : Nat) (portB : Bool) (elem cls : Nat) (all : Bool) (s : State) :
    Writes [.tiles] s (execSetClass tile portB elem cls all s) :=
  .tileCmd <| cmdAck_only (State.modTile_only (.refl _ _) (by decide) _ _) (by decide) _ _ _ _ _

theorem execSetFast_writes (tile : Nat) (portB : Bool) (elem : Nat) (fast : Bool) (comma : Nat) (s : State) :
    Writes [.tiles] s (execSetFast tile portB elem fast comma s) :=
  .tileCmd <| cmdAck_only (State.modTile_only (.refl _ _) (by decide) _ _) (by decide) _ _ _ _ _

theorem execClassDiv_writes (tile : Nat) (portB : Bool) (cls div comma : Nat) (s : State) :
    Writes [.tiles] s (execClassDiv tile portB cls div comma s) :=
  .tileCmd <| cmdAck_only (State.modTile_only (.refl _ _) (by decide) _ _) (by decide) _ _ _ _ _

theorem execShapeLoad_writes (tile : Nat) (portB : Bool) (cls : Nat) (off : Bool) (point : Nat) (value : Int)
    (s : State) :
    Writes [.tiles] s (execShapeLoad tile portB cls off point value s) :=
  .tileCmd <| cmdAck_only (State.modTile_only (.refl _ _) (by decide) _ _) (by decide) _ _ _ _ _

theorem execSetEpoch_writes (tile : Nat) (portB : Bool) (epoch : Nat) (s : State) :
    Writes [.tiles] s (execSetEpoch tile portB epoch s) :=
  .tileCmd <| cmdAck_only (State.modTile_only (.refl _ _) (by decide) _ _) (by decide) _ _ _ _ _

theorem execSetShare_writes (tile : Nat) (portB : Bool) (shares : Shares) (s : State) :
    Writes [.tiles] s (execSetShare tile portB shares s) :=
  .tileCmd <| cmdAck_only (State.modTile_only (.refl _ _) (by decide) _ _) (by decide) _ _ _ _ _

theorem execTileAbort_writes (tile : Nat) (portB : Bool) (elem : Nat) (s : State) :
    Writes [.tiles] s (execTileAbort tile portB elem s) :=
  .tileCmd <| State.modTile_only (.refl _ _) (by decide) _ _

theorem execPointWord_writes (tile : Nat) (portB : Bool) (word : Nat) (value : Word32) (s : State) :
    Writes [.tiles] s (execPointWord tile portB word value s) :=
  .tileCmd <| State.modTile_only (.refl _ _) (by decide) _ _

theorem execPointGo_writes (tile : Nat) (portB : Bool) (channel elem _downCount : Nat) (s : State) :
    Writes [.tiles] s (execPointGo tile portB channel elem _downCount s) :=
  .tileCmd <| State.modTile_only (.refl _ _) (by decide) _ _

theorem execCalPoint_writes (tile : Nat) (portB : Bool) (elem drive : Nat) (s : State) :
    Writes [.tiles] s (execCalPoint tile portB elem drive s) :=
  .tileCmd <| State.modTile_only (.refl _ _) (by decide) _ _

theorem execSmuBus_writes (tile : Nat) (portB : Bool) (channel : Nat) (connect : Bool) (s : State) :
    Writes [.tiles] s (execSmuBus tile portB channel connect s) :=
  .tileCmd <| State.modTile_only (.refl _ _) (by decide) _ _

theorem execReadbackReq_writes (tile : Nat) (portB : Bool) (s : State) :
    Writes [.tiles] s (execReadbackReq tile portB s) :=
  .ok <| .foldl (.refl _ _) fun _ _ h => State.up_only h (by decide) _ _ _ _

theorem execTbeaconReceive_writes (tile : Nat) (portB : Bool) (time : Nat) (s : State) :
    Writes [.tiles] s (execTbeaconReceive tile portB time s) :=
  .tileCmd <| State.modTile_only (.refl _ _) (by decide) _ _

theorem execTbeaconLoss_writes (tile : Nat) (s : State) : Writes [.tiles] s (execTbeaconLoss tile s) :=
  .ite .stay <| .ok <| State.modTile_only (.refl _ _) (by decide) _ _

theorem execClaim_writes (tile : Nat) (portB : Bool) (s : State) : Writes [.tiles] s (execClaim tile portB s) :=
  .ite (.ok (tellLost_only (cmdAck_only (State.setTile_only (.refl _ _) (by decide) _ _) (by decide) _ _ _ _ _)
    (by decide) _)) <| .ok <| cmdAck_only (.refl _ _) (by decide) _ _ _ _ _

theorem execRelease_writes (tile : Nat) (portB : Bool) (s : State) : Writes [.tiles] s (execRelease tile portB s) :=
  .tileCmd <| State.modTile_only (.refl _ _) (by decide) _ _

theorem execHbeatTileRelay_writes (tile : Nat) (portB : Bool) (word : Word32) (s : State) :
    Writes [.tiles] s (execHbeatTileRelay tile portB word s) :=
  .ite (.ok (State.modTile_only (.refl _ _) (by decide) _ _)) <| .ok <|
    State.up_only (State.modTile_only (.refl _ _) (by decide) _ _) (by decide) _ _ _ _

theorem execOwnerHbeatExpire_writes (tile : Nat) (s : State) : Writes [.tiles] s (execOwnerHbeatExpire tile s) :=
  .ite (.ok (State.setTile_only (.refl _ _) (by decide) _ _)) .stay

theorem execBulkPull_writes (tile : Nat) (portB : Bool) (offset count : Nat) (s : State) :
    Writes [.free, .tiles] s (execBulkPull tile portB offset count s) :=
  .tileCmd <| .foldl (.refl _ _) fun _ _ h => State.up_only (.set_free (by decide) h) (by decide) _ _ _ _

/-! ## Commands of `Machine/SourceMeasure.lean` -/

theorem execSweepLoad_writes (h : Hdr) (ns : Bool) (list count addr : Nat) (s : State) :
    Writes [.issues, .hostOps] s (execSweepLoad h ns list count addr s) := by
  unfold execSweepLoad
  exact .verb (by decide) <| .ite (State.fail_only (.refl _ _) (by decide) _ _ _) <|
    hostRead_only (.refl _ _) (by decide) _ _ _ _ _

theorem execSweepRun_writes (h : Hdr) (compEnd actuator : Bool) (list target downCount timeoutMs resultAddr : Nat)
    (s : State) :
    Writes [.issues, .runs] s (execSweepRun h compEnd actuator list target downCount timeoutMs resultAddr s) :=
  .verb (by decide) <| .ite (State.fail_only (.refl _ _) (by decide) _ _ _) <|
    .ite (State.fail_only (.refl _ _) (by decide) _ _ _) <|
    State.complete_only (State.setRun_only (.refl _ _) (by decide) _ _) (by decide) _ _ _ _

theorem execSweepStop_writes (h : Hdr) (list : Nat) (s : State) :
    Writes [.issues, .runs, .links] s (execSweepStop h list s) := by
  unfold execSweepStop
  refine .verb (by decide) ?_
  split
  · exact State.fail_only (.refl _ _) (by decide) _ _ _
  · exact .ite (State.fail_only (.refl _ _) (by decide) _ _ _) <|
      State.setRun_only (.ite (State.down_only (.refl _ _) (by decide) _ _ _) (.refl _ _)) (by decide) _ _

theorem execSweepFree_writes (h : Hdr) (list : Nat) (s : State) :
    Writes [.issues, .smu] s (execSweepFree h list s) := by
  unfold execSweepFree
  refine .verb (by decide) <| .ite (State.fail_only (.refl _ _) (by decide) _ _ _) <|
    State.complete_only ?_ (by decide) _ _ _ _
  exact .set_smu (.inl (by decide)) (.inr ⟨rfl, rfl⟩) (.refl _ _)

theorem execSweepPointStart_writes (list : Nat) (s : State) :
    Writes [.free, .elems, .smu, .runs, .links] s (execSweepPointStart list s) := by
  unfold execSweepPointStart
  split
  · exact .stay
  · refine .ite .stay ?_
    dsimp only
    split
    · exact .stay
    · refine .ite (.ok <| blockPoint_only (.refl _ _) (by decide) _ _ _) <| .ok <|
        .update_if ?_ fun h => actuatorOn_only h (by decide) _
      exact .ite (State.setAnyRun_only (.refl _ _) (by decide) _ _) <| State.down_only
        (.foldl (State.setAnyRun_only (.refl _ _) (by decide) _ _) fun _ _ h => State.down_only h (by decide) _ _ _)
        (by decide) _ _ _

theorem execPointResultReceive_writes (tile channel word : Nat) (value : Word32) (s : State) :
    Writes [.runs] s (execPointResultReceive tile channel word value s) := by
  unfold execPointResultReceive
  split
  · exact .stay
  · exact .ok <| State.setAnyRun_only (.refl _ _) (by decide) _ _

theorem execSweepPointEnd_writes (list : Nat) (readings : List Reading) (forceRb : Int) (writeOk : Bool) (s : State) :
    Writes [.free, .elems, .smu, .runs, .tiles] s (execSweepPointEnd list readings forceRb writeOk s) := by
  unfold execSweepPointEnd
  split
  · exact .stay
  · refine .ite .stay ?_
    split
    next res s1 e =>
      have h1 : Only ([.free, .elems, .smu, .runs, .tiles] ++ background) s s1 := formResult_eq e (.refl _ _) (by decide)
      refine .ok <| .ite (actuatorOff_only (postPoint_only (State.modTile_only ?_ (by decide) _ _) (by decide) _ _ _ _ _)
        (by decide) _) (postPoint_only (State.modTile_only ?_ (by decide) _ _) (by decide) _ _ _ _ _)
      all_goals exact .set_smu (.inl (by decide)) (.inr ⟨rfl, rfl⟩) h1

theorem execSweepTimeout_writes (list : Nat) (s : State) : Writes [.runs] s (execSweepTimeout list s) := by
  unfold execSweepTimeout
  split
  · exact .stay
  · exact .ite .stay <| .ok <| State.setAnyRun_only (.refl _ _) (by decide) _ _

theorem execSweepRunEnd_writes (list : Nat) (s : State) :
    Writes [.issues, .owed, .elems, .smu, .runs, .tiles] s (execSweepRunEnd list s) := by
  unfold execSweepRunEnd
  split
  · exact .stay
  next r _ =>
    split
    · exact .stay
    · refine .ite .stay ?_
      dsimp only
      generalize hs : (ite (r.actuator = true) _ _ : State) = s1
      have h1 : Only ([.issues, .owed, .elems, .smu, .runs, .tiles] ++ background) s s1 := by
        subst hs
        exact .ite (State.modTile_only (actuatorOff_only (.refl _ _) (by decide) _) (by decide) _ _) <|
          .ite (.refl _ _) (State.setMonitor_only (.refl _ _) (by decide) _ _)
      refine .ite (.ok <| .set_smu (.inl (by decide)) (.inl (by decide)) h1) <| .ok ?_
      split
      · exact State.complete_only (State.event_only (State.setRun_only h1 (by decide) _ _) (by decide) _ _)
          (by decide) _ _ _ _
      · exact State.event_only (State.setRun_only h1 (by decide) _ _) (by decide) _ _

theorem execSsCtrlGo_writes (s : State) : Writes [.smu, .runs] s (execSsCtrlGo s) :=
  .mainRow <| ssGo_only (.refl _ _) (by decide)

theorem execSsResultRead_writes (s : State) : Writes [.smu] s (execSsResultRead s) :=
  .readRow (by decide) <| readSsResult_only (.refl _ _) (by decide)

theorem execPortSampleReceive_writes (tile channel range : Nat) (flag : Bool) (code : Int) (los : Bool) (s : State) :
    Writes [.loops, .smu] s (execPortSampleReceive tile channel range flag code los s) := by
  unfold execPortSampleReceive
  dsimp only
  split
  · exact .stay
  · generalize hs : (ite (s.portSelMonitor = some (8 * tile + channel)) _ _ : State) = s3
    have h3 : Only ([.loops, .smu] ++ background) s s3 := by
      subst hs
      refine .update_if (.update_if (State.setMonitor_only (.refl _ _) (by decide) _ _) ?_) ?_
      all_goals exact .set_smu (.inl (by decide)) (.inr ⟨rfl, rfl⟩)
    refine .ite (.ok h3) ?_
    split
    · exact .ite (.ok <| .set_loops (.inl (by decide)) (.inr rfl) h3) (.ok h3)
    · exact .ok h3

theorem execPortSelWrite_writes (value : Word32) (s : State) : Writes [.smu] s (execPortSelWrite value s) :=
  .mainRow <| selectPort_only (.refl _ _) (by decide) _

theorem execPortResultRead_writes (s : State) : Writes [.smu] s (execPortResultRead s) :=
  .readRow (by decide) <| readPortResult_only (.refl _ _) (by decide)

theorem execLosComparatorRaise_writes (monitor : Nat) (current : Int) (s : State) :
    Writes [.smu, .tiles] s (execLosComparatorRaise monitor current s) :=
  .ite .stay <| .ok <| tileEvent_only (State.setMonitor_only (.refl _ _) (by decide) _ _) (by decide) _ _

theorem execLosComparatorClear_writes (monitor : Nat) (current : Int) (s : State) :
    Writes [.smu, .tiles] s (execLosComparatorClear monitor current s) :=
  .ite .stay <| .ok <| tileEvent_only (State.setMonitor_only (.refl _ _) (by decide) _ _) (by decide) _ _

theorem execComplianceClamp_writes (tile channel : Nat) (sampling : Bool) (s : State) :
    Writes [.smu, .tiles] s (execComplianceClamp tile channel sampling s) :=
  .ok <| tileEvent_only (.ite (State.setMonitor_only (.refl _ _) (by decide) _ _) (.refl _ _)) (by decide) _ _

theorem execComplianceEventReceive_writes (tile channel detail : Nat) (s : State) :
    Writes [.runs] s (execComplianceEventReceive tile channel detail s) := by
  unfold execComplianceEventReceive
  split
  · exact .stay
  · exact .ok <| State.setAnyRun_only (.refl _ _) (by decide) _ _

theorem execRefCtrlWrite_writes (value : Word32) (s : State) : Writes [.smu] s (execRefCtrlWrite value s) :=
  .mainRow <| refCtrl_only (.refl _ _) (by decide) _

theorem execRefConversionGo_writes (s : State) : Writes [.smu] s (execRefConversionGo s) :=
  .mainRow <| refGo_only (.refl _ _) (by decide)

theorem execRefConversionDone_writes (value : Int) (isOver : Bool) (s : State) :
    Writes [.smu] s (execRefConversionDone value isOver s) := by
  unfold execRefConversionDone
  split
  · exact .stay
  · exact .ite .stay <| .ok <| .set_smu (.inl (by decide)) (.inr ⟨rfl, rfl⟩) (.refl _ _)

theorem execRefResultRead_writes (s : State) : Writes [.smu] s (execRefResultRead s) :=
  .readRow (by decide) <| readRefResult_only (.refl _ _) (by decide)

theorem execBusCtrlRequest_writes (value : Word32) (s : State) :
    Writes [.smu, .links] s (execBusCtrlRequest value s) :=
  .mainRow <| busCtrl_only (.refl _ _) (by decide) _

theorem execCalBusTimeout_writes (s : State) : Writes (recordParts ++ [Part.smu]) s (execCalBusTimeout s) := by
  unfold execCalBusTimeout
  split
  · exact .stay
  · split
    · exact .stay
    · refine .ite .stay <| .ok <| State.report_only ?_ (by decide) _ _ _ _
      refine .ite ?_ (.set_smu (.inl (by decide)) (.inr ⟨rfl, rfl⟩) (.refl _ _))
      refine State.setMonitor_only ?_ (by decide) _ _
      exact .set_smu (.inl (by decide)) (.inr ⟨rfl, rfl⟩) (.refl _ _)

/-! ## Commands of `Machine/Links.lean` -/

theorem execLinkFrameReceive_writes (at_ : LinkEnd) (multi : Bool) (control : BitVec 64) (data : List (BitVec 64) )
    (s : State) :
    Writes (recordParts ++ [Part.smu, Part.tiles]) s (execLinkFrameReceive at_ multi control data s) :=
  .ite (.ite (.ok (State.modLink_only (.refl _ _) (by decide) _ _)) .stay) <| .ite .stay <|
    .ite (.ok (takeHeader_only (State.setPort_only (.refl _ _) (by decide) _ _) (by decide) _ _ _)) <| .ite .stay <|
    .ok <| sendNak_only (.ite (State.modLink_only (.refl _ _) (by decide) _ _) (.refl _ _)) (by decide) _ _

theorem execLinkctlAckReceive_writes (at_ : LinkEnd) (multi : Bool) (num : Nat) (s : State) :
    Writes [.links, .tiles] s (execLinkctlAckReceive at_ multi num s) :=
  .ok <| State.setPort_only (.refl _ _) (by decide) _ _

theorem execLinkctlNakReceive_writes (at_ : LinkEnd) (multi : Bool) (num : Nat) (s : State) :
    Writes (recordParts ++ [Part.smu, Part.tiles]) s (execLinkctlNakReceive at_ multi num s) :=
  .ok <| takeNak_only (.refl _ _) (by decide) _ _ _

theorem execNakRepeatTimeout_writes (at_ : LinkEnd) (multi : Bool) (s : State) :
    Writes [.links, .tiles] s (execNakRepeatTimeout at_ multi s) :=
  .ite (.ok (sendNak_only (.refl _ _) (by decide) _ _)) .stay

theorem execAckIdleTimeout_writes (at_ : LinkEnd) (multi : Bool) (s : State) :
    Writes [.links, .tiles] s (execAckIdleTimeout at_ multi s) :=
  .ite (.ok (sendAck_only (.refl _ _) (by decide) _ _)) .stay

theorem execAckMissingTimeout_writes (tile : Nat) (s : State) :
    Writes (recordParts ++ [Part.smu]) s (execAckMissingTimeout tile s) :=
  .ite (.ok (linkDown_only (.refl _ _) (by decide) _)) .stay

theorem execBlockLockLoss_writes (tile : Nat) (s : State) :
    Writes (recordParts ++ [Part.smu]) s (execBlockLockLoss tile s) :=
  .ok <| .ite (State.modLink_only (.refl _ _) (by decide) _ _) <|
    linkDown_only (State.modLink_only (.refl _ _) (by decide) _ _) (by decide) _

theorem execTrainBlockReceive_writes (tile : Nat) (block : TrainBlock) (s : State) :
    Writes [.links, .tiles] s (execTrainBlockReceive tile block s) := by
  unfold execTrainBlockReceive
  refine .ite .stay ?_
  split
  · exact .ok <| State.down_only (State.setLink_only (.refl _ _) (by decide) _ _) (by decide) _ _ _
  · exact .ok <| State.down_only (State.setLink_only (.refl _ _) (by decide) _ _) (by decide) _ _ _
  · exact .ok <| beginStep_only (State.setLink_only (.refl _ _) (by decide) _ _) (by decide) _ _
  · exact .ok <| .ite (State.down_only (.refl _ _) (by decide) _ _ _) <| takeTaps_only (.refl _ _) (by decide) _ _
  · exact .ok <| State.down_only (.refl _ _) (by decide) _ _ _
  · exact .ok <| .ite (beginStep_only (State.setLink_only (.refl _ _) (by decide) _ _) (by decide) _ _) <|
      linkActive_only (State.setLink_only (.refl _ _) (by decide) _ _) (by decide) _ _
  · exact .stay

theorem execTrainStepTimeout_writes (tile : Nat) (s : State) :
    Writes [.links, .tiles] s (execTrainStepTimeout tile s) :=
  .ite .stay <| .ite (.ok (beginStep_only (State.setLink_only (.refl _ _) (by decide) _ _) (by decide) _ _)) <|
    .ite (.ok (State.down_only (State.setLink_only (.refl _ _) (by decide) _ _) (by decide) _ _ _)) <| .ok <|
    linkActive_only (.refl _ _) (by decide) _ _

theorem execEidleEnter_writes (at_ : LinkEnd) (s : State) : Writes [.links, .tiles] s (execEidleEnter at_ s) :=
  .ite .stay <| .ok <| .update_if
    (State.setPort_only (sendBlock_only (.refl _ _) (by decide) _ _ _) (by decide) _ _) fun h =>
      State.modLink_only h (by decide) _ _

theorem execEidleExit_writes (at_ : LinkEnd) (s : State) : Writes [.links, .tiles] s (execEidleExit at_ s) :=
  .ite .stay <| .ok <| .update_if
    (State.setPort_only (sendBlock_only (.refl _ _) (by decide) _ _ _) (by decide) _ _) fun h =>
      State.modLink_only h (by decide) _ _

theorem execLinkRetrain_writes (tile : Nat) (s : State) :
    Writes (recordParts ++ [Part.smu]) s (execLinkRetrain tile s) :=
  .mainRow <| retrain_only (.refl _ _) (by decide) _

theorem execLinkInjectCrc_writes (tile : Nat) (s : State) : Writes [.links] s (execLinkInjectCrc tile s) :=
  .mainRow <| injectCrc_only (.refl _ _) (by decide) _

theorem execCmdAckReceive_writes (tile opcode : Nat) (good : Bool) (slot : Nat) (s : State) :
    Writes (adoptParts ++ [Part.faults, Part.loops, Part.lsu, Part.house]) s
      (execCmdAckReceive tile opcode good slot s) := by
  unfold execCmdAckReceive
  refine
    .ite (.ok (.ite (claimGranted_only (.refl _ _) (by decide) _) (claimRefused_only (.refl _ _) (by decide) _))) <|
    .ite ?_ (.ite (.ok (writeAcked_only (.refl _ _) (by decide) _)) .stay)
  dsimp only
  split
  · exact .ok <|
      finishArming_only (State.modSent_only (writeAcked_only (.refl _ _) (by decide) _) (by decide) _ _) (by decide) _
  · exact .ok <| writeAcked_only (.refl _ _) (by decide) _

theorem execIdentReceive_writes (tile word : Nat) (value : Word32) (s : State) :
    Writes adoptParts s (execIdentReceive tile word value s) :=
  .ite (.ok (sendClaim_only (loseTile_only (State.modLink_only (.refl _ _) (by decide) _ _) (by decide) _)
    (by decide) _)) <| .ok <|
    tryAdopt_only (askRead_only (State.modLink_only (.refl _ _) (by decide) _ _) (by decide) _) (by decide) _

theorem execReadbackReceive_writes (tile part : Nat) (codes : List Nat) (s : State) :
    Writes adoptParts s (execReadbackReceive tile part codes s) :=
  .ok <| tryAdopt_only (State.modLink_only (.refl _ _) (by decide) _ _) (by decide) _

theorem execTempReceive_writes (tile : Nat) (temp : Int) (s : State) :
    Writes adoptParts s (execTempReceive tile temp s) :=
  .ok <| tryAdopt_only (calTempTrigger_only (.ite (retune_only (State.modLink_only (.refl _ _) (by decide) _ _)
    (by decide) _) (settleSurfaces_only (State.modLink_only (.refl _ _) (by decide) _ _) (by decide) _))
    (by decide) _) (by decide) _

theorem execAdoptCorrectionEnd_writes (tile : Nat) (s : State) :
    Writes adoptParts s (execAdoptCorrectionEnd tile s) :=
  .ite (.ok (takeoverEnd_only (finishAdoption_only (.refl _ _) (by decide) _ _) (by decide))) .stay

theorem execTileFaultReceive_writes (tile detail : Nat) (s : State) :
    Writes (recordParts ++ [Part.issues, Part.owed, Part.store]) s (execTileFaultReceive tile detail s) :=
  .ok <| fenceTile_only (State.report_only (.refl _ _) (by decide) _ _ _ _) (by decide) _

theorem execTokenLostReceive_writes (tile : Nat) (s : State) : Writes recordParts s (execTokenLostReceive tile s) :=
  .ok <| .update_if (loseTile_only (State.report_only (.refl _ _) (by decide) _ _ _ _) (by decide) _) fun h =>
    sendClaim_only h (by decide) _

theorem execHbeatSend_writes (s : State) : Writes [.links, .mate] s (execHbeatSend s) := by
  unfold execHbeatSend
  refine .ite .stay <| .ok ?_
  dsimp only
  generalize hs1 : { s with mate := { s.mate with hbSeq := (s.mate.hbSeq + 1) % 2 ^ 16, hbAt := s.dt } } = s1
  have h1 : Only ([.links, .mate] ++ background) s s1 :=
    hs1 ▸ .set_mate (.inl (by decide)) (.inr rfl) (.inr ⟨rfl, rfl, rfl⟩) (.refl _ _)
  exact .ite (State.emit_only (.foldl h1 fun _ _ h => State.down_only h (by decide) _ _ _) (by decide) _) <|
    .foldl h1 fun _ _ h => State.down_only h (by decide) _ _ _

theorem execRelayedHbeatReceive_writes (_tile : Nat) (_word : Word32) (s : State) :
    Writes [.mate] s (execRelayedHbeatReceive _tile _word s) :=
  .ite (.ok (.set_mate (.inl (by decide)) (.inr rfl) (.inr ⟨rfl, rfl, rfl⟩) (.refl _ _))) .stay

theorem execLogInfoReceive_writes (tile length : Nat) (withdrawn : Bool) (s : State) :
    Writes [.links] s (execLogInfoReceive tile length withdrawn s) :=
  .ite (.ok (State.setLink_only (.refl _ _) (by decide) _ _)) <| .ok <|
    pullLog_only (State.setLink_only (.refl _ _) (by decide) _ _) (by decide) _

theorem execBulkReceive_writes (tile index : Nat) (data : Word32) (withdrawn : Bool) (s : State) :
    Writes [.links] s (execBulkReceive tile index data withdrawn s) := by
  unfold execBulkReceive
  dsimp only
  split
  · exact .stay
  · exact .ite (.ok (State.setLink_only (.refl _ _) (by decide) _ _)) <|
      .ite (.ok (pullLog_only (State.setLink_only (.refl _ _) (by decide) _ _) (by decide) _)) <| .ok <|
      State.setLink_only (.refl _ _) (by decide) _ _

/-! ## Commands of `Machine/Mating.lean` -/

theorem execMateHeartbeatReceive_writes (word : Word32) (mateId matePrio : Nat) (mateHash : BitVec 256) (s : State) :
    Writes (recordParts ++ [Part.resumes, Part.issues, Part.owed, Part.regions, Part.store,
      Part.mate, Part.handover, Part.chip]) s
      (execMateHeartbeatReceive word mateId matePrio mateHash s) := by
  unfold execMateHeartbeatReceive
  refine .ite .stay <| .ok <| decideRole_only ?_ (by decide)
  refine .ite ?_ (.set_mate (.inl (by decide)) (.inr rfl) (.inr ⟨rfl, rfl, rfl⟩) (.refl _ _))
  refine setMismatch_only ?_ (by decide)
  exact .set_mate (.inl (by decide)) (.inr rfl) (.inr ⟨rfl, rfl, rfl⟩) (.refl _ _)

theorem execMateWaitExpire_writes (s : State) : Writes [.mate] s (execMateWaitExpire s) :=
  .ite (.ok (.set_mate (.inl (by decide)) (.inr rfl) (.inr ⟨rfl, rfl, rfl⟩) (.refl _ _))) .stay

theorem execSplitRetry_writes (s : State) : Writes adoptParts s (execSplitRetry s) := by
  unfold execSplitRetry
  split
  · exact .stay
  · refine .ite .stay <| .ok <| .ite ?_ (.set_mate (.inl (by decide)) (.inr rfl) (.inr ⟨rfl, rfl, rfl⟩) (.refl _ _))
    refine startTakeover_only ?_ (by decide)
    exact .set_mate (.inl (by decide)) (.inr rfl) (.inr ⟨rfl, rfl, rfl⟩) (.refl _ _)

theorem execTakeoverTokenResolve_writes (serial : Serial) (s : State) :
    Writes (adoptParts ++ [Part.owed]) s (execTakeoverTokenResolve serial s) := by
  unfold execTakeoverTokenResolve
  split
  · exact .ite (.ok (resolvedAll_only (.refl _ _) (by decide))) .stay
  · exact .ite .stay <| .ok <| resolvedAll_only (resolveToken_only (.refl _ _) (by decide) _) (by decide)

theorem execDeferredLosFire_writes (handle : Nat) (s : State) :
    Writes [.issues, .owed, .store, .mate] s (execDeferredLosFire handle s) := by
  unfold execDeferredLosFire
  dsimp only
  split
  · exact .stay
  · refine .ite .stay <| .ok <| fireSentence_only ?_ (by decide) _ _ _ _
    exact .set_mate (.inl (by decide)) (.inr rfl) (.inr ⟨rfl, rfl, rfl⟩) (.refl _ _)

theorem execMirrorReceive_writes (num : Nat) (rec : MirrorRec) (s : State) :
    Writes (recordParts ++ [Part.store, Part.calib, Part.mate]) s (execMirrorReceive num rec s) := by
  unfold execMirrorReceive
  refine .ite .stay <| .ite ?_ (.ok (askSnapshot_only (.refl _ _) (by decide)))
  refine .ok <| State.emit_only ?_ (by decide) _
  exact .set_mate (.inl (by decide)) (.inr rfl) (.inr ⟨rfl, rfl, rfl⟩) <| applyRecord_only (.refl _ _) (by decide) _

theorem execMirrorAckReceive_writes (num : Nat) (s : State) : Writes [.mate] s (execMirrorAckReceive num s) := by
  unfold execMirrorAckReceive
  split
  · exact .stay
  · exact .ok <| .set_mate (.inl (by decide)) (.inr rfl) (.inr ⟨rfl, rfl, rfl⟩) <|
      ackRecords_only (.refl _ _) (by decide) _

theorem execMirrorAckTimeout_writes (s : State) : Writes [.mate] s (execMirrorAckTimeout s) := by
  unfold execMirrorAckTimeout
  split
  · exact .ite (.ok (.set_mate (.inl (by decide)) (.inr rfl) (.inl (by decide)) (.refl _ _))) .stay
  · exact .stay

theorem execSyncReq_writes (s : State) : Writes [.mate] s (execSyncReq s) := by
  unfold execSyncReq
  refine .ite (.ok (askSnapshot_only (.refl _ _) (by decide))) <| .ite ?_ .stay
  refine .ok <| sendSnapshot_only ?_ (by decide)
  exact .set_mate (.inl (by decide)) (.inr rfl) (.inl (by decide)) (.refl _ _)

theorem execSnapshotApplied_writes (num : Nat) (s : State) : Writes [.mate, .chip] s (execSnapshotApplied num s) := by
  unfold execSnapshotApplied
  refine .ite (.ok <| State.emit_only (fun p hp => ?_) (by decide) _) .stay
  cases p <;> simp_all [Part.same, background]

theorem execDigestFrameReceive_writes (digest : BitVec 256) (s : State) :
    Writes [.mate] s (execDigestFrameReceive digest s) := by
  unfold execDigestFrameReceive
  refine .ok <| compareDigests_only ?_ (by decide)
  exact .set_mate (.inl (by decide)) (.inr rfl) (.inr ⟨rfl, rfl, rfl⟩) (.refl _ _)

theorem execDigestMismatchExpire_writes (s : State) :
    Writes (recordParts ++ [Part.mate]) s (execDigestMismatchExpire s) := by
  unfold execDigestMismatchExpire
  split
  · exact .stay
  · exact .ite (.ok (setMismatch_only (.refl _ _) (by decide))) .stay

theorem execHandover_writes (h : Hdr) (ret : Bool) (drillMs : Nat) (s : State) :
    Writes [.resumes, .issues, .regions, .elems, .runs, .calRuns, .links, .handover] s
      (execHandover h ret drillMs s) :=
  .verb (by decide) <| .ite (State.fail_only (.refl _ _) (by decide) _ _ _) <|
    .set_mate (.inr rfl) (.inl (by decide)) (.inr ⟨rfl, rfl, rfl⟩) (.refl _ _)

theorem execRoleFrameReceive_writes (step : Nat) (ret : Bool) (s : State) :
    Writes (adoptParts ++ [Part.owed]) s (execRoleFrameReceive step ret s) := by
  unfold execRoleFrameReceive
  split
  · refine .ok <| startTakeover_only ?_ (by decide)
    exact .set_mate (.inl (by decide)) (.inr rfl) (.inr ⟨rfl, rfl, rfl⟩) (.refl _ _)
  · split
    · exact .ok <| handoverRefused_only (.refl _ _) (by decide) _ _
    · exact .ok <| .foldl (.set_mate (.inr rfl) (.inl (by decide)) (.inr ⟨rfl, rfl, rfl⟩) (.refl _ _)) fun _ _ h =>
        sendClaim_only h (by decide) _
    · exact .stay
  · split
    · exact .ok <| endHandover_only (becomeStandby_only (.refl _ _) (by decide)) (by decide) _ _ _ _ _
    · exact .ok <| becomeStandby_only (.refl _ _) (by decide)
    · exact .ok <| becomeStandby_only (.refl _ _) (by decide)
    · exact .stay
  · exact .stay

theorem execDrillEnd_writes (cause tilesFailed : Nat) (s : State) :
    Writes (recordParts ++ [Part.resumes, Part.issues, Part.regions, Part.mate, Part.handover]) s
      (execDrillEnd cause tilesFailed s) := by
  unfold execDrillEnd
  split
  · refine .ite .stay <|
      .ite (.ok (.set_mate (.inl (by decide)) (.inl (by decide)) (.inr ⟨rfl, rfl, rfl⟩) (.refl _ _))) <| .ok <|
      State.report_only ?_ (by decide) _ _ _ _
    exact .set_mate (.inl (by decide)) (.inl (by decide)) (.inr ⟨rfl, rfl, rfl⟩) (.refl _ _)
  · exact .stay

theorem execStandbyIdentPoll_writes (s : State) : Writes [.tiles] s (execStandbyIdentPoll s) :=
  .ite (.ok (.foldl (.refl _ _) (fun _ _ h => tileIdent_only h (by decide) _))) .stay

theorem execMateGapClearMax_writes (s : State) : Writes [.mate] s (execMateGapClearMax s) :=
  .mainRow <| clearGap_only (.refl _ _) (by decide)

/-! ## Commands of `Machine/StartUp.lean` -/

theorem execPorNAssert_writes (s : State) : Writes (resetParts ++ [Part.dt]) s (execPorNAssert s) :=
  .next <| porReset_only (.refl _ _) (by decide)

theorem execAonSupplyLow_writes (s : State) : Writes (resetParts ++ [Part.dt]) s (execAonSupplyLow s) :=
  .next <| porReset_only (.refl _ _) (by decide)

theorem execPorNRelease_writes (s : State) : Writes [.chip] s (execPorNRelease s) :=
  .next <| .ite (.set_chip (.inl (by decide)) (.inr rfl) (.inr ⟨rfl, rfl, rfl, rfl⟩) (.refl _ _)) (.refl _ _)

theorem execWarmReset_writes (lowNs : Nat) (s : State) :
    Writes (resetParts ++ [Part.free]) s (execWarmReset lowNs s) :=
  .ite .stay <| .ite (.next (.set_chip (.inl (by decide)) (.inr rfl) (.inr ⟨rfl, rfl, rfl, rfl⟩) (warmReset_only
    (.refl _ _) (by decide) _))) <| .next <| .ite (.set_free (by decide) (.refl _ _)) <|
    .set_chip (.inl (by decide)) (.inr rfl) (.inr ⟨rfl, rfl, rfl, rfl⟩) <|
    warmReset_only (.set_free (by decide) (.refl _ _)) (by decide) _

theorem execResetCtrlWrite_writes (value : Word32) (s : State) : Writes resetParts s (execResetCtrlWrite value s) :=
  .next <| resetCtrl_only (.refl _ _) (by decide) _

theorem execResetHeldExpire_writes (s : State) : Writes (recordParts ++ [Part.chip]) s (execResetHeldExpire s) := by
  unfold execResetHeldExpire
  refine .ite ?_ .stay
  refine .ok <| State.report_only ?_ (by decide) _ _ _ _
  exact .set_chip (.inl (by decide)) (.inr rfl) (.inr ⟨rfl, rfl, rfl, rfl⟩) (.refl _ _)

theorem execMainSupplyFault_writes (monitor : Nat) (s : State) :
    Writes resetParts s (execMainSupplyFault monitor s) := by
  unfold execMainSupplyFault
  refine .ite .stay <| .ok <| State.report_only ?_ (by decide) _ _ _ _
  exact .set_chip (.inl (by decide)) (.inr rfl) (.inr ⟨rfl, rfl, rfl, rfl⟩) <|
    warmReset_only (.refl _ _) (by decide) _

theorem execMainSupplyGood_writes (s : State) : Writes [.chip] s (execMainSupplyGood s) :=
  .next <| .ite (.refl _ _) <| .set_chip (.inl (by decide)) (.inr rfl) (.inr ⟨rfl, rfl, rfl, rfl⟩) (.refl _ _)

theorem execMainStart_writes (s : State) : Writes [.faults, .host, .issues, .owed, .chip] s (execMainStart s) := by
  unfold execMainStart
  refine .ite .stay <| .next fun p hp => ?_
  cases p <;> simp_all [Part.same, background, adoptAll_errLevel, adoptAll_resumes]

theorem execTimePllLock_writes (s : State) : Writes [.time] s (execTimePllLock s) :=
  .next <| .ite (.refl _ _) <| .set_time (by decide) (.refl _ _)

theorem execTimePllLossOfLock_writes (s : State) : Writes (recordParts ++ [Part.time]) s (execTimePllLossOfLock s) :=
  .ite (.ok (State.report_only (.set_time (by decide) (.refl _ _)) (by decide) _ _ _ _)) .stay

theorem execFlashImageReadDone_writes (img : FlashImage) (s : State) :
    Writes (recordParts ++ [Part.time, Part.comma, Part.regions, Part.smu, Part.adm, Part.mem,
      Part.mate, Part.chip]) s
      (execFlashImageReadDone img s) := by
  unfold execFlashImageReadDone
  refine .ite .stay <|
    .ite (.next (.set_chip (.inl (by decide)) (.inr rfl) (.inr ⟨rfl, rfl, rfl, rfl⟩) (.refl _ _))) ?_
  dsimp only
  split
  · refine .ok <| refuseImage_only ?_ (by decide) _
    exact .set_chip (.inl (by decide)) (.inr rfl) (.inr ⟨rfl, rfl, rfl, rfl⟩) (.refl _ _)
  · refine .ok <| applyImage_only ?_ (by decide) _
    exact .set_chip (.inl (by decide)) (.inr rfl) (.inr ⟨rfl, rfl, rfl, rfl⟩) (.refl _ _)

theorem execCalSetRead_writes (set : CalSet) (s : State) :
    Writes [.calib, .calRuns, .chip] s (execCalSetRead set s) := by
  unfold execCalSetRead
  refine .ite .stay <| .ok <| .foldl (fun p hp => ?_) fun _ _ h => queueRun_only h (by decide) _ _ _
  cases p <;> simp_all [Part.same, background]

theorem execSurfaceExpandDone_writes (tile : Nat) (s : State) : Writes adoptParts s (execSurfaceExpandDone tile s) :=
  .ite .stay <| .ok <| tryAdopt_only (setExpanded_only (s := (tileEids tile).foldl expandElem s)
    (.foldl (.refl _ _) fun _ _ h => expandElem_only h (by decide) _) (by decide) _) (by decide) _

theorem execRestartResolve_writes (s : State) : Writes (adoptParts ++ [Part.owed]) s (execRestartResolve s) := by
  unfold execRestartResolve
  refine .ite .stay <| .ok <| tryAdoptAll_only ?_ (by decide)
  refine .set_chip (.inl (by decide)) (.inr rfl) (.inr ⟨rfl, rfl, rfl, rfl⟩) <|
    .ite (useRecord_only (.refl _ _) (by decide)) <| reconstruct_only ?_ (by decide)
  exact .set_chip (.inl (by decide)) (.inr rfl) (.inr ⟨rfl, rfl, rfl, rfl⟩) (.refl _ _)

theorem execReadyChange_writes (s : State) : Writes [.chip] s (execReadyChange s) := by
  unfold execReadyChange
  refine .ite .stay <| .ok <| State.msix_only ?_ (by decide) _
  exact .set_chip (.inl (by decide)) (.inr rfl) (.inr ⟨rfl, rfl, rfl, rfl⟩) (.refl _ _)

theorem execGetDigest_writes (h : Hdr) (wait : Bool) (addr : Nat) (nonce : BitVec 256) (s : State) :
    Writes [.issues, .owed, .chip] s (execGetDigest h wait addr nonce s) :=
  .verb (by decide) <| .ite (.set_chip (.inl (by decide)) (.inr rfl) (.inr ⟨rfl, rfl, rfl, rfl⟩) (.refl _ _)) <|
    giveDigest_only (.refl _ _) (by decide) _ _ _

theorem execGetCert_writes (h : Hdr) (which addr length : Nat) (s : State) :
    Writes [.issues] s (execGetCert h which addr length s) :=
  .verb (by decide) <| .ite (State.fail_only (.refl _ _) (by decide) _ _ _) <|
    .ite (State.fail_only (.refl _ _) (by decide) _ _ _) <|
    State.complete_only (.ite (State.emit_only (.refl _ _) (by decide) _) (.refl _ _)) (by decide) _ _ _ _

theorem execDigestRecomputeDone_writes (s : State) :
    Writes [.issues, .owed, .mate, .chip] s (execDigestRecomputeDone s) := by
  unfold execDigestRecomputeDone
  refine .ite .stay <| .ite (.ok ?_) <| .ok <| .foldl ?_ fun _ _ h => giveDigest_only h (by decide) _ _ _
  · refine .update_if ?_ fun h => compareDigests_only (State.emit_only h (by decide) _) (by decide)
    exact .set_chip (.inl (by decide)) (.inr rfl) (.inl (by decide)) (.refl _ _)
  · refine .set_chip (.inl (by decide)) (.inr rfl) (.inr ⟨rfl, rfl, rfl, rfl⟩) <|
      .update_if ?_ fun h => compareDigests_only (State.emit_only h (by decide) _) (by decide)
    exact .set_chip (.inl (by decide)) (.inr rfl) (.inl (by decide)) (.refl _ _)

/-! ## Commands of `Machine/Memory.lean` -/

theorem execBankOwnerWrite_writes (bank : Nat) (value : Word32) (s : State) :
    Writes [.mem] s (execBankOwnerWrite bank value s) :=
  .mainRow <| .ite (bankOwner_only (.refl _ _) (by decide) _ _) (.refl _ _)

theorem execBankOwnerChanged_writes (bank : Nat) (s : State) : Writes [.mem] s (execBankOwnerChanged bank s) := by
  unfold execBankOwnerChanged
  split
  · exact .ok <| State.setBank_only (.refl _ _) (by decide) _ _
  · exact .stay

theorem execBankPowerWrite_writes (bank : Nat) (value : Word32) (s : State) :
    Writes [.mem] s (execBankPowerWrite bank value s) :=
  .mainRow <| .ite (bankCfg_only (.refl _ _) (by decide) _ _) (.refl _ _)

theorem execBankPowerReached_writes (bank : Nat) (s : State) : Writes [.mem] s (execBankPowerReached bank s) := by
  unfold execBankPowerReached
  dsimp only
  split
  · exact .ok <| .ite (.set_mem (by decide) (State.setBank_only (.refl _ _) (by decide) _ _)) <|
      State.setBank_only (.refl _ _) (by decide) _ _
  · exact .stay

theorem execBankInit_writes (bank : Nat) (s : State) : Writes [.mem] s (execBankInit bank s) :=
  .mainRow <| .ite (bankInit_only (.refl _ _) (by decide) _) (.refl _ _)

theorem execBankInitDone_writes (bank : Nat) (s : State) : Writes [.mem] s (execBankInitDone bank s) := by
  unfold execBankInitDone
  split
  · exact .ite (.ok (.set_mem (by decide) (State.setBank_only (.refl _ _) (by decide) _ _))) .stay
  · exact .stay

theorem execBankAccessCollide_writes (bank word : Nat) (dataA _dataB : BitVec 64) (s : State) :
    Writes (recordParts ++ [Part.mem]) s (execBankAccessCollide bank word dataA _dataB s) :=
  .ite .stay <| .ok <| writeBanks_only (State.setBank_only (.refl _ _) (by decide) _ _) (by decide) _ _

theorem execDdrTrainingDone_writes (ok0 ok1 : Bool) (s : State) :
    Writes (recordParts ++ [Part.mem, Part.chip]) s (execDdrTrainingDone ok0 ok1 s) := by
  unfold execDdrTrainingDone
  refine .ite .stay <| .ite (.ok (.set_chip (.inl (by decide)) (.inr rfl) (.inr ⟨rfl, rfl, rfl, rfl⟩) (.set_mem
    (by decide) (.refl _ _)))) <| .ok <| State.report_only ?_ (by decide) _ _ _ _
  exact .set_chip (.inl (by decide)) (.inr rfl) (.inr ⟨rfl, rfl, rfl, rfl⟩) <| .set_mem (by decide) (.refl _ _)

theorem execBar2Access_writes (write : Bool) (addr count : Nat) (data : List (Option Byte)) (s : State) :
    Writes (recordParts ++ [Part.host, Part.mem]) s (execBar2Access write addr count data s) :=
  .ite (.fault _) <| .ite .stay <|
    .ite (.ok (writeBanks_only (.ite (denied_only (.refl _ _) (by decide)) (.refl _ _)) (by decide) _ _)) <| .ok <|
    State.emit_only (.foldl (.ite (denied_only (.refl _ _) (by decide)) (.refl _ _)) (fun _ _ h => readWord_only h
    (by decide) _)) (by decide) _

theorem execDmaGo_writes (channel : Nat) (s : State) : Writes [.mem] s (execDmaGo channel s) :=
  .mainRow <| .ite (dmaGo_only (.refl _ _) (by decide) _) (.refl _ _)

theorem execDmaResume_writes (channel : Nat) (s : State) : Writes [.mem] s (execDmaResume channel s) :=
  .mainRow <| dmaResume_only (.refl _ _) (by decide) _

theorem execDmaEnableClear_writes (channel : Nat) (s : State) :
    Writes [.free, .mem, .matrix] s (execDmaEnableClear channel s) :=
  .mainRow <| .ite (dmaDisable_only (.refl _ _) (by decide) _) (.refl _ _)

theorem execDmaGlobalDisable_writes (s : State) : Writes [.free, .mem, .matrix] s (execDmaGlobalDisable s) :=
  .mainRow <| dmaGlobal_only (.refl _ _) (by decide)

theorem execDmaReadbackDone_writes (channel : Nat) (good : Bool) (data : List Byte) (s : State) :
    Writes (recordParts ++ [Part.free, Part.mem, Part.matrix]) s (execDmaReadbackDone channel good data s) := by
  unfold execDmaReadbackDone
  refine .ite .stay ?_
  split
  next s1 i w k e =>
    exact .ok <| haltChan_only (moveElems_eq e (noteHolds_only (.refl _ _) (by decide) _) (by decide)) (by decide) _ _ _ _
  next s1 e =>
    have h1 : Only (recordParts ++ [Part.free, Part.mem, Part.matrix] ++ background) s s1 :=
      moveElems_eq e (noteHolds_only (.refl _ _) (by decide) _) (by decide)
    exact .ite (.ok <| haltChan_only (.ite (State.emit_only h1 (by decide) _) h1) (by decide) _ _ _ _) <| .ok <|
      State.msix_only (State.setChan_only (.ite (State.emit_only h1 (by decide) _) h1) (by decide) _ _) (by decide) _

theorem execDmaErrorHalt_writes (channel : Nat) (write : Bool) (cause : Nat) (k0 k1 k2 : Nat) (data : List Byte)
    (s : State) :
    Writes (recordParts ++ [Part.free, Part.mem, Part.matrix]) s
      (execDmaErrorHalt channel write cause k0 k1 k2 data s) := by
  unfold execDmaErrorHalt
  refine .ite .stay ?_
  split
  next s1 j w k e =>
    exact .ok <| haltChan_only (moveElems_eq e (noteHolds_only (.refl _ _) (by decide) _) (by decide)) (by decide) _ _ _ _
  next s1 e =>
    exact .ok <| haltChan_only (moveElems_eq e (noteHolds_only (.refl _ _) (by decide) _) (by decide)) (by decide) _ _ _ _

/-! ## Commands of `Machine/Admission.lean` -/

theorem execVerbArrival_writes (src : Source) (entry : Entry) (s : State) :
    Writes [.issues, .adm] s (execVerbArrival src entry s) :=
  .ite .stay <| .ok <| arrive_only (.refl _ _) (by decide) _ _

theorem execAdmMeterWrite_writes (reg : Nat) (value : Word32) (s : State) :
    Writes [.adm] s (execAdmMeterWrite reg value s) :=
  .mainRow <| meterWrite_only (.refl _ _) (by decide) _ _

theorem execQueueTelemetrySample_writes (s : State) : Writes [.adm] s (execQueueTelemetrySample s) :=
  .ite (.ok (.foldl (.refl _ _) (fun _ _ h => sampleSource_only h (by decide) _))) .stay

theorem execAdmTelClearMax_writes (s : State) : Writes [.adm] s (execAdmTelClearMax s) :=
  .mainRow <| clearTelMax_only (.refl _ _) (by decide)

/-! ## Commands of `Machine/CommaWork.lean` -/

theorem execCommaBoundary_writes (s : State) :
    Writes (adoptParts ++ [Part.dt, Part.faults, Part.comma, Part.loops, Part.adm, Part.lsu, Part.house]) s
      (execCommaBoundary s) :=
  .ite (.ok (commaStep_only (.refl _ _) (by decide))) .stay

theorem execSettlingDwellEnd_writes (eid : Nat) (s : State) :
    Writes [.store, .elems, .calib] s (execSettlingDwellEnd eid s) := by
  unfold execSettlingDwellEnd
  dsimp only
  split
  · exact .ite (.ok (takeEvents_only (.refl _ _) (by decide) _)) .stay
  · exact .stay

theorem execFeBlankEnd_writes (eid : Nat) (s : State) : Writes [.elems] s (execFeBlankEnd eid s) := by
  unfold execFeBlankEnd
  split
  · exact .ite (.ok (endBlank_only (.refl _ _) (by decide) _)) .stay
  · exact .stay

theorem execSenseFrameReceive_writes (tile comma : Nat) (samples : List Nat) (s : State) :
    Writes (recordParts ++ [Part.regions]) s (execSenseFrameReceive tile comma samples s) := by
  unfold execSenseFrameReceive
  refine .ite .stay <| .ite (.ok <| .foldl (.refl _ _) fun _ _ h => State.modElem_only h (by decide) _ _) <| .ok <|
    .ite ?_ <| sendDrive_only ?_ (by decide) _ _
  all_goals
    refine .foldl (.foldl (.refl _ _) fun _ _ h => State.modElem_only h (by decide) _ _) fun _ _ h => ?_
    split
    · exact serve_only h (by decide) _ _ _
    · exact h

/-! ## Commands of `Machine/Dalovo.lean` -/

theorem execDalovoAnnounceSend_writes (port : Nat) (s : State) : Writes [.adm] s (execDalovoAnnounceSend port s) :=
  .ite .stay <| .ok <| State.emit_only (.set_adm (by decide) (.refl _ _)) (by decide) _

theorem execDalovoAnnounceReceive_writes (port srcId : Nat) (_ownerHeld : Bool) (s : State) :
    Writes [.adm] s (execDalovoAnnounceReceive port srcId _ownerHeld s) := by
  unfold execDalovoAnnounceReceive
  refine .ite .stay ?_
  split
  · exact .ok <| .set_adm (by decide) (.refl _ _)
  · exact .ite (.ok (State.setPeer_only (.refl _ _) (by decide) _ _)) <|
      .ite (.ok (State.emit_only (handshake_only (.refl _ _) (by decide) _ _ _ _) (by decide) _)) <| .ok <|
      State.setPeer_only (.refl _ _) (by decide) _ _

theorem execDalovoHello_writes (frame : HelloFrame) (s : State) : Writes [.owed, .adm] s (execDalovoHello frame s) := by
  unfold execDalovoHello
  refine .ite .stay ?_
  split
  · exact .ok <| .set_adm (by decide) (.refl _ _)
  · exact .ite (.ok (authFailed_only (.refl _ _) (by decide) _)) <| .ok <| State.emit_only (handshake_only (.ite
      (closeSession_only (.refl _ _) (by decide) _ _ _) (.refl _ _)) (by decide) _ _ _ _) (by decide) _

theorem execDalovoHelloReply_writes (frame : HelloFrame) (s : State) :
    Writes [.adm] s (execDalovoHelloReply frame s) := by
  unfold execDalovoHelloReply
  refine .ite .stay ?_
  split
  · exact .ok <| .set_adm (by decide) (.refl _ _)
  · exact .ite .stay <| .ite (.ok (authFailed_only (.refl _ _) (by decide) _)) <| .ok <|
      State.emit_only (.set_adm (by decide) (handshake_only (.refl _ _) (by decide) _ _ _ _)) (by decide) _

theorem execDalovoFinish_writes (head : DvHead) (transcriptOk : Bool) (s : State) :
    Writes [.owed, .adm] s (execDalovoFinish head transcriptOk s) := by
  unfold execDalovoFinish
  split
  · exact .ok <| .set_adm (by decide) (.refl _ _)
  · exact .ite .stay <| .ite (.ok (tagFailed_only (.refl _ _) (by decide) _ _)) <| .ite .stay <|
      .ite (.ok (authFailed_only (.refl _ _) (by decide) _)) <| .ok <| sessionUp_only (.ite (State.setPeer_only
      (.refl _ _) (by decide) _ _) (State.emit_only (State.setPeer_only (.refl _ _) (by decide) _ _) (by decide) _))
      (by decide) _

theorem execDalovoHandshakeTimeout_writes (peer : Nat) (s : State) :
    Writes [.adm] s (execDalovoHandshakeTimeout peer s) :=
  .ite (.ok (State.setPeer_only (.refl _ _) (by decide) _ _)) .stay

theorem execDalovoClose_writes (peer reason : Nat) (s : State) :
    Writes [.owed, .adm] s (execDalovoClose peer reason s) :=
  .ite (.ok (closeSession_only (.refl _ _) (by decide) _ _ _)) .stay

theorem execDalovoIdleTimeout_writes (peer : Nat) (s : State) :
    Writes [.owed, .adm] s (execDalovoIdleTimeout peer s) :=
  .ite (.ok (closeSession_only (.refl _ _) (by decide) _ _ _)) .stay

theorem execSitePortLinkChange_writes (port : Nat) (up : Bool) (s : State) :
    Writes (recordParts ++ [Part.owed, Part.adm]) s (execSitePortLinkChange port up s) :=
  .ite .stay <| .ite (.ok (.set_adm (by decide) (.refl _ _))) <| .ok <| State.report_only (.foldl (.set_adm
    (by decide) (.refl _ _)) (fun _ _ h => closeSession_only h (by decide) _ _ _)) (by decide) _ _ _ _

theorem execDalovoVerbFrame_writes (head : DvHead) (entry : Entry) (s : State) :
    Writes [.issues, .owed, .adm] s (execDalovoVerbFrame head entry s) := by
  unfold execDalovoVerbFrame
  split
  next p s1 e => exact .ok <| arrive_only (acceptFrame_eq e (.refl _ _) (by decide)) (by decide) _ _
  next s1 e => exact .ok <| acceptFrame_eq e (.refl _ _) (by decide)

theorem execDalovoUserFrame_writes (head : DvHead) (payload : List Byte) (ingressTick : Nat) (s : State) :
    Writes [.owed, .adm] s (execDalovoUserFrame head payload ingressTick s) := by
  unfold execDalovoUserFrame
  split
  next s1 e => exact .ok <| acceptFrame_eq e (.refl _ _) (by decide)
  next p s1 e =>
    have h1 : Only ([.owed, .adm] ++ background) s s1 := acceptFrame_eq e (.refl _ _) (by decide)
    refine .ite (.ok <| peerLost_only h1 (by decide) _) ?_
    split
    · exact .ok <| peerLost_only h1 (by decide) _
    · exact .ok <| State.msix_only (.set_adm (by decide) h1) (by decide) _

theorem execDvRxSlotFree_writes (value : Word32) (s : State) : Writes [.adm] s (execDvRxSlotFree value s) :=
  .mainRow <| freeSlots_only (.refl _ _) (by decide) _

theorem execDalovoSend_writes (h : Hdr) (timed ns : Bool) (peer length addr : Nat) (t : NetTime) (late : Nat)
    (s : State) :
    Writes [.issues, .hostOps] s (execDalovoSend h timed ns peer length addr t late s) := by
  unfold execDalovoSend
  exact .verb (by decide) <| .ite (State.fail_only (.refl _ _) (by decide) _ _ _) <|
    .ite (State.fail_only (.refl _ _) (by decide) _ _ _) <| .ite (State.fail_only (.refl _ _) (by decide) _ _ _) <|
    .ite (State.fail_only (.refl _ _) (by decide) _ _ _) <| hostRead_only (.refl _ _) (by decide) _ _ _ _ _

theorem execDalovoFrameSent_writes (port : Nat) (s : State) : Writes [.owed, .adm] s (execDalovoFrameSent port s) := by
  unfold execDalovoFrameSent
  split
  · exact .ite (.ok (frameReport_only (sendFrame_only (.refl _ _) (by decide) _) (by decide) _ _ _)) .stay
  · exact .stay

theorem execTimedDalovoDue_writes (port : Nat) (s : State) :
    Writes [.time, .owed, .adm] s (execTimedDalovoDue port s) := by
  unfold execTimedDalovoDue
  split
  · exact .stay
  · exact .ite .stay <| .ite (.ok (frameReport_only (sendFrame_only (.refl _ _) (by decide) _) (by decide) _ _ _)) <|
      .ite (.ok (frameReport_only (.set_time (by decide) (dropFrame_only (.refl _ _) (by decide) _))
      (by decide) _ _ _)) .stay

theorem execSafetyFrameReceive_writes (head : DvHead) (body : BitVec 160) (s : State) :
    Writes [.owed, .adm, .lsu] s (execSafetyFrameReceive head body s) := by
  unfold execSafetyFrameReceive
  split
  next s1 e => exact .ok <| acceptFrame_eq e (.refl _ _) (by decide)
  next p s1 e =>
    have h1 : Only ([.owed, .adm, .lsu] ++ background) s s1 := acceptFrame_eq e (.refl _ _) (by decide)
    exact .ite (.ok <| takeSafety_only h1 (by decide) _) (.ok <| peerLost_only h1 (by decide) _)

theorem execSafetyFrameSend_writes (binding : Nat) (s : State) :
    Writes [.owed, .adm, .lsu] s (execSafetyFrameSend binding s) := by
  unfold execSafetyFrameSend
  dsimp only
  split
  · exact .stay
  · exact .ite .stay <| .ok <| sendSealed_only (State.setRc_only (.refl _ _) (by decide) _ _) (by decide) _ _ _

theorem execBindingWatchdogExpire_writes (binding : Nat) (s : State) :
    Writes [.lsu] s (execBindingWatchdogExpire binding s) :=
  .ite (.ok (State.setRc_only (.refl _ _) (by decide) _ _)) .stay

/-! ## Commands of `Machine/LoopVerbs.lean` -/

theorem execRetireElement_writes (h : Hdr) (eid : Nat) (s : State) :
    Writes [.issues, .loops, .elems] s (execRetireElement h eid s) :=
  .verb (by decide) <| .ite (State.fail_only (.refl _ _) (by decide) _ _ _) <|
    .ite (State.complete_only (.refl _ _) (by decide) _ _ _ _) <| waitBoundary_only (.refl _ _) (by decide) _ _ _ _

theorem execRestoreElement_writes (h : Hdr) (eid : Nat) (s : State) :
    Writes [.issues, .loops, .elems] s (execRestoreElement h eid s) :=
  .verb (by decide) <| .ite (State.fail_only (.refl _ _) (by decide) _ _ _) <|
    waitBoundary_only (.refl _ _) (by decide) _ _ _ _

theorem execElementTrim_writes (h : Hdr) (resetOuter : Bool) (eid : Nat) (trimOn trimOff : Int) (s : State) :
    Writes [.issues, .loops, .elems] s (execElementTrim h resetOuter eid trimOn trimOff s) :=
  .verb (by decide) <| .ite (State.fail_only (.refl _ _) (by decide) _ _ _) <|
    waitBoundary_only (.refl _ _) (by decide) _ _ _ _

theorem execClassLoad_writes (h : Hdr) (cls bank addr : Nat) (s : State) :
    Writes [.issues, .hostOps] s (execClassLoad h cls bank addr s) := by
  unfold execClassLoad
  exact .verb (by decide) <| .ite (State.fail_only (.refl _ _) (by decide) _ _ _) <|
    hostRead_only (.refl _ _) (by decide) _ _ _ _ _

theorem execClassSwap_writes (h : Hdr) (cls : Nat) (s : State) :
    Writes [.issues, .loops] s (execClassSwap h cls s) :=
  .verb (by decide) <| .ite (State.fail_only (.refl _ _) (by decide) _ _ _) <|
    State.setCls_only (.refl _ _) (by decide) _ _

theorem execPin_writes (h : Hdr) (scope : Bool) (first count lifetimeMs : Nat) (s : State) :
    Writes [.issues, .store, .elems] s (execPin h scope first count lifetimeMs s) :=
  .verb (by decide) <| .ite (.ite (State.fail_only (.refl _ _) (by decide) _ _ _) (.ite (State.fail_only (.refl _ _)
    (by decide) _ _ _) (State.complete_only (State.setSent_only (hostPins_only (.refl _ _) (by decide) _ _)
    (by decide) _ _) (by decide) _ _ _ _))) <| .ite (State.fail_only (.refl _ _) (by decide) _ _ _) <|
    .ite (State.fail_only (.refl _ _) (by decide) _ _ _) <|
    State.complete_only (hostPins_only (.refl _ _) (by decide) _ _) (by decide) _ _ _ _

theorem execUnpin_writes (h : Hdr) (scope : Bool) (first count : Nat) (s : State) :
    Writes [.issues, .store, .elems] s (execUnpin h scope first count s) :=
  .verb (by decide) <| .ite (State.complete_only (State.modSent_only (.foldl (.refl _ _) (fun _ _ h =>
    State.modElem_only h (by decide) _ _)) (by decide) _ _) (by decide) _ _ _ _) <|
    .ite (State.fail_only (.refl _ _) (by decide) _ _ _) <|
    State.complete_only (.foldl (.refl _ _) (fun _ _ h => State.modElem_only h (by decide) _ _)) (by decide) _ _ _ _

theorem execPinExpire_writes (eid : Nat) (host : Bool) (s : State) :
    Writes [.store, .elems] s (execPinExpire eid host s) :=
  .ite (.ite (.ok (State.setElem_only (.set_store (by decide) (.refl _ _)) (by decide) _ _)) .stay) <|
    .ite (.ok (State.setElem_only (.refl _ _) (by decide) _ _)) .stay

theorem execPlacementMove_writes (eid : Nat) (writtenDuringCopy : Bool) (s : State) :
    Writes [.elems] s (execPlacementMove eid writtenDuringCopy s) := by
  unfold execPlacementMove
  refine .ite .stay ?_
  split
  · exact .stay
  · exact .ok <| State.modElem_only (.refl _ _) (by decide) _ _

theorem execContextRebuild_writes (eid : Nat) (s : State) : Writes recordParts s (execContextRebuild eid s) :=
  .ite .stay <| .ok <| State.report_only (State.setElem_only (.refl _ _) (by decide) _ _) (by decide) _ _ _ _

theorem execJournalFrameWrite_writes (ms tile : Nat) (s : State) :
    Writes [.loops] s (execJournalFrameWrite ms tile s) := by
  unfold execJournalFrameWrite
  dsimp only
  split
  · exact .stay
  · exact .ok <| .set_loops (.inl (by decide)) (.inr rfl) (.refl _ _)

theorem execJournalFrameExpire_writes (ms tile : Nat) (s : State) :
    Writes [.loops] s (execJournalFrameExpire ms tile s) :=
  .ite (.ok (.set_loops (.inl (by decide)) (.inr rfl) (.refl _ _))) .stay

theorem execJournalCopy_writes (h : Hdr) (release : Bool) (tile startMs count addr : Nat) (s : State) :
    Writes [.issues, .loops] s (execJournalCopy h release tile startMs count addr s) := by
  unfold execJournalCopy
  refine .verb (by decide) <| .ite (State.fail_only (.refl _ _) (by decide) _ _ _) <|
    .ite (State.fail_only (.refl _ _) (by decide) _ _ _) <| State.complete_only ?_ (by decide) _ _ _ _
  exact .set_loops (.inl (by decide)) (.inr rfl) <| State.emit_only (.refl _ _) (by decide) _

theorem execCommaLinkShareWrite_writes (value : Word32) (s : State) :
    Writes [.comma] s (execCommaLinkShareWrite value s) :=
  .mainRow <| writeLinkShare_only (.refl _ _) (by decide) _

theorem execCommaLoopShareWrite_writes (value : Word32) (s : State) :
    Writes [.comma] s (execCommaLoopShareWrite value s) :=
  .mainRow <| writeLoopShare_only (.refl _ _) (by decide) _

theorem execScheduleMismatchReceive_writes (tile : Nat) (s : State) :
    Writes (recordParts ++ [Part.regions]) s (execScheduleMismatchReceive tile s) :=
  .ok <| .update_if (.foldl (State.report_only (.refl _ _) (by decide) _ _ _ _) fun _ _ h =>
    overrun_only h (by decide) _ _) fun h => sendMirrorOf_only h (by decide) _ _

/-! ## Commands of `Machine/Regions.lean` -/

theorem execCellOperationError_writes (region : Nat) (block : Block) (cell : Nat) (eid : Option Nat) (s : State) :
    Writes (recordParts ++ [Part.issues, Part.owed, Part.regions, Part.store, Part.smu, Part.matrix]) s
      (execCellOperationError region block cell eid s) :=
  .ite .stay <| .ite (.ok <| dropOperation_only (.refl _ _) (by decide) _ _) <| .ok <| .update_if
    (State.modRegion_only (dropOperation_only (.refl _ _) (by decide) _ _) (by decide) _ _) fun h =>
      fenceCell_only h (by decide) _ _ _

theorem execHandshakeWatchdog_writes (channel : Channel) (s : State) :
    Writes (recordParts ++ [Part.issues, Part.owed, Part.regions, Part.store, Part.matrix]) s
      (execHandshakeWatchdog channel s) := by
  unfold execHandshakeWatchdog
  split
  · exact .ite .stay <| .ok <| fenceRegion_only (State.report_only (.refl _ _) (by decide) _ _ _ _) (by decide) _
  · exact .ok <| State.report_only (.refl _ _) (by decide) _ _ _ _
  · exact .ite .stay <| .ok <| fenceBlock_only (State.report_only (.refl _ _) (by decide) _ _ _ _) (by decide) _ _

theorem execRegionEscalate_writes (region : Nat) (s : State) :
    Writes (recordParts ++ [Part.issues, Part.owed, Part.regions, Part.store, Part.matrix]) s
      (execRegionEscalate region s) :=
  .ite (.ok (escalate_only (.refl _ _) (by decide) _)) .stay

theorem execResumeRegion_writes (h : Hdr) (isTile : Bool) (target : Nat) (s : State) :
    Writes (recordParts ++ [Part.free, Part.resumes, Part.issues, Part.regions, Part.handover]) s
      (execResumeRegion h isTile target s) :=
  .verb (by decide) <| .ite (.ite (State.fail_only (.refl _ _) (by decide) _ _ _) (.set_faults (.inr rfl) (.inr rfl)
    (.inl (by decide)) (adoptAgain_only (.refl _ _) (by decide) _))) <|
    .ite (State.fail_only (.refl _ _) (by decide) _ _ _) <| .ite (State.fail_only (recordOne_only (.set_free
    (by decide) (.refl _ _)) (by decide) _ _ _ _) (by decide) _ _ _) <|
    .set_faults (.inr rfl) (.inr rfl) (.inl (by decide)) <|
    adoptAgain_only (State.modRegion_only (.set_free (by decide) (.refl _ _)) (by decide) _ _) (by decide) _

/-! ## Commands of `Machine/FaultCollector.lean` -/

theorem execFaultReport_writes (reports : List Report) (s : State) :
    Writes (recordParts ++ [Part.issues, Part.owed, Part.regions, Part.store, Part.matrix]) s
      (execFaultReport reports s) :=
  .ite .stay <| .ok <| .update_if (.update_if (recordReports_only (.refl _ _) (by decide) _) fun h =>
    collectorFault_only h (by decide) _) fun h => .foldl h fun _ _ h => reactTo_only h (by decide) _

theorem execCollectorSelfFault_writes (s : State) :
    Writes [.faults, .elems, .runs, .calRuns, .links, .lsu, .house] s (execCollectorSelfFault s) :=
  .ite (.ok (collectorFault_only (.refl _ _) (by decide) _)) .stay

theorem execCentralEngineError_writes (ddr : Bool) (source : Nat) (s : State) :
    Writes recordParts s (execCentralEngineError ddr source s) :=
  .ite (.ok (State.report_only (.refl _ _) (by decide) _ _ _ _)) .stay

theorem execMgmtWatchdog_writes (s : State) :
    Writes (recordParts ++ [Part.time, Part.owed, Part.adm, Part.mem, Part.matrix]) s (execMgmtWatchdog s) :=
  .ite .stay <| .ok <| .set_time (by decide) <| .foldl (.foldl (abortBurst_only (State.report_only (.refl _ _)
    (by decide) _ _ _ _) (by decide) _ _) (fun _ _ h => State.setBank_only h (by decide) _ _)) fun _ _ h => .ite
    (closeSession_only h (by decide) _ _ _) <| State.setPeer_only h (by decide) _ _

theorem execSafeStateTokenResolve_writes (serial : Serial) (s : State) :
    Writes [.issues, .owed, .store, .elems, .links] s (execSafeStateTokenResolve serial s) := by
  unfold execSafeStateTokenResolve
  split
  · exact .stay
  · exact .ite .stay <| .ite (.ite (.ok (completeLaunch_only (.foldl (.refl _ _) (fun _ _ h => bumpEpoch_only h
      (by decide) _)) (by decide) _)) .stay) <| .ok <| checkSettle_only (.foldl (.refl _ _) (fun _ _ h =>
      setTileResult_only (freeLaunchSlot_only h (by decide) _ _) (by decide) _ _ _)) (by decide) _

theorem execFaultClear_writes (value : Word32) (s : State) : Writes [.faults] s (execFaultClear value s) :=
  .mainRow <| faultClear_only (.refl _ _) (by decide) _

theorem execFaultFirstClear_writes (s : State) : Writes [.faults] s (execFaultFirstClear s) :=
  .mainRow <| firstClear_only (.refl _ _) (by decide)

theorem execFaultInjectCheck_writes (target unit : Nat) (double viaSideband : Bool) (s : State) :
    Writes (recordParts ++ [Part.free, Part.issues, Part.owed, Part.regions, Part.store,
      Part.tiles, Part.mem, Part.matrix]) s
      (execFaultInjectCheck target unit double viaSideband s) :=
  .mainRow <| inject_only (.refl _ _) (by decide) _ _ _ _ _

theorem execFaultInjectReact_writes (target unit : Nat) (double viaSideband : Bool) (s : State) :
    Writes (recordParts ++ [Part.free, Part.issues, Part.owed, Part.regions, Part.store,
      Part.tiles, Part.mem, Part.matrix]) s
      (execFaultInjectReact target unit double viaSideband s) :=
  .mainRow <| inject_only (.refl _ _) (by decide) _ _ _ _ _

theorem execSelfTest_writes (h : Hdr) (targets timeoutMs : Nat) (missed : List (Nat × Nat)) (s : State) :
    Writes (recordParts ++ [Part.free, Part.issues]) s (execSelfTest h targets timeoutMs missed s) :=
  .verb (by decide) <| .ite (State.fail_only (.refl _ _) (by decide) _ _ _) <|
    State.complete_only (.foldl (.refl _ _) (fun _ _ h => .ite (State.report_only h (by decide) _ _ _ _) <|
    injectCheck_only h (by decide) _ _)) (by decide) _ _ _ _

theorem execSelfTestTimeout_writes (h : Hdr) (s : State) : Writes [.issues] s (execSelfTestTimeout h s) :=
  .ite (.ok (State.fail_only (.refl _ _) (by decide) _ _ _)) .stay

/-! ## Commands of `Machine/HostData.lean` -/

theorem execVerbHostDataDone_writes (h : Hdr) (data : Option HostData) (s : State) :
    Writes [.issues, .store, .loops, .smu, .calib, .adm, .hostOps] s (execVerbHostDataDone h data s) := by
  unfold execVerbHostDataDone
  split
  · exact .stay
  · dsimp only
    split
    · exact .ok <| hostFailed_only (.set_hostOps (by decide) (.refl _ _)) (by decide) _ _
    · exact .ite (.ok (hostDone_only (.set_hostOps (by decide) (.refl _ _)) (by decide) _ _ _)) .stay

/-! ## Commands of `Machine/HostQueues.lean` -/

theorem execSqTailWrite_writes (q value : Nat) (s : State) : Writes [.host] s (execSqTailWrite q value s) :=
  .mainRow <| sqTail_only (.refl _ _) (by decide) _ _

theorem execCqHeadWrite_writes (q value : Nat) (s : State) : Writes [.host] s (execCqHeadWrite q value s) :=
  .mainRow <| cqHead_only (.refl _ _) (by decide) _ _

theorem execEventPost_writes (s : State) : Writes [.host, .owed, .adm] s (execEventPost s) := by
  unfold execEventPost
  split
  · exact .stay
  next x rest _ =>
    have h1 : Only ([.host, .owed, .adm] ++ background) s { s with host := { s.host with owed := rest } } :=
      .set_host (.inr rfl) (.inr rfl) (.inr rfl) (.inl (by decide)) (.refl _ _)
    refine .ok ?_
    split
    · exact postHostEvent_only h1 (by decide) _ _
    · exact sendSealed_only h1 (by decide) _ _ _
    · exact postSbEvent_only h1 (by decide) _
    · exact h1

theorem execEqHeadWrite_writes (q value : Nat) (s : State) : Writes [.host] s (execEqHeadWrite q value s) :=
  .mainRow <| eqHead_only (.refl _ _) (by decide) _ _

theorem execSqEntryFetch_writes (q : Nat) (entries : List Entry) (s : State) :
    Writes [.host, .issues, .adm] s (execSqEntryFetch q entries s) :=
  .ite .stay <| .ok <| fetchMore_only (.foldl (State.setQueue_only (.refl _ _) (by decide) _ _) (fun _ _ h =>
    arrive_only h (by decide) _ _)) (by decide) _

theorem execSqReadFail_writes (q : Nat) (s : State) : Writes [.host] s (execSqReadFail q s) :=
  .ite (.ok (queueError_only (.refl _ _) (by decide) _ _)) .stay

theorem execCqEqWriteFail_writes (q : Nat) (event : Bool) (s : State) :
    Writes [.host] s (execCqEqWriteFail q event s) :=
  .ite (.ok (State.setQueue_only (queueError_only (.refl _ _) (by decide) _ _) (by decide) _ _)) .stay

theorem execCompletionPost_writes (src : Source) (s : State) :
    Writes [.host, .issues, .owed, .adm] s (execCompletionPost src s) := by
  unfold execCompletionPost
  split
  · exact .stay
  next i rest _ =>
    have h1 : Only ([.host, .issues, .owed, .adm] ++ background) s { s with host := { s.host with issues := rest } } :=
      .set_host (.inr rfl) (.inr rfl) (.inl (by decide)) (.inr rfl) (.refl _ _)
    split
    · exact .stay
    · refine .ite .stay ?_
      split
      · exact .ite (.ok <| State.setQueue_only h1 (by decide) _ _) <| .ite (.ok h1) <| .ite .stay <| .ok <|
          writeCompletion_only h1 (by decide) _ _ _ _
      · exact .ok <| sendSealed_only h1 (by decide) _ _ _
      · exact .ok <| .set_host (.inl (by decide)) (.inr rfl) (.inr rfl) (.inr rfl) h1
      · exact .ok h1

theorem execMsixInterruptTimer_writes (q : Nat) (event : Bool) (s : State) :
    Writes [.host] s (execMsixInterruptTimer q event s) :=
  .ite .stay <| .ite (.ok (State.msix_only (State.setQueue_only (.refl _ _) (by decide) _ _) (by decide) _)) <| .ok <|
    State.msix_only (State.setQueue_only (.refl _ _) (by decide) _ _) (by decide) _

theorem execQueueEnable_writes (q : Nat) (s : State) : Writes [.host, .adm] s (execQueueEnable q s) :=
  .mainRow <| queueOn_only (.refl _ _) (by decide) _

theorem execQueueDisable_writes (q : Nat) (s : State) : Writes [.host] s (execQueueDisable q s) :=
  .mainRow <| queueOff_only (.refl _ _) (by decide) _

theorem execQueueDrained_writes (q : Nat) (s : State) : Writes [.host, .adm] s (execQueueDrained q s) :=
  .ite .stay <| .ite (.ok (startQueue_only (.refl _ _) (by decide) _)) <| .ok <|
    State.setQueue_only (.refl _ _) (by decide) _ _

theorem execQueueConfigWrite_writes (q reg : Nat) (value : Word32) (s : State) :
    Writes [.host, .adm] s (execQueueConfigWrite q reg value s) :=
  .mainRow <| queueConfig_only (.refl _ _) (by decide) _ _ _

theorem execFireDoorbell_writes (value : Word32) (s : State) :
    Writes [.issues, .owed, .store, .adm] s (execFireDoorbell value s) :=
  .mainRow <| doorbell_only (.refl _ _) (by decide) _

theorem execSbVerbWrite_writes (entry : Entry) (bytes : Nat) (pecOk : Bool) (s : State) :
    Writes [.host, .issues, .adm] s (execSbVerbWrite entry bytes pecOk s) :=
  .ite .stay <| .ite (.next (State.emit_only (.refl _ _) (by decide) _)) <|
    .ite (.next (.set_host (.inl (by decide)) (.inr rfl) (.inr rfl) (.inr rfl) (.refl _ _))) <| .ok <|
    arrive_only (.refl _ _) (by decide) _ _

theorem execSbCompletionRead_writes (s : State) : Writes [.host] s (execSbCompletionRead s) := by
  unfold execSbCompletionRead
  refine .ite .stay ?_
  split
  · exact .next <| State.emit_only (.refl _ _) (by decide) _
  · refine .next <| State.emit_only ?_ (by decide) _
    exact .set_host (.inl (by decide)) (.inr rfl) (.inr rfl) (.inr rfl) (.refl _ _)

theorem execSbEventRead_writes (s : State) : Writes [.host] s (execSbEventRead s) := by
  unfold execSbEventRead
  refine .ite .stay ?_
  split
  · exact .next <| State.emit_only (.refl _ _) (by decide) _
  · refine .next <| .ite ?_ ?_
    · refine State.emit_only ?_ (by decide) _
      exact .set_host (.inl (by decide)) (.inr rfl) (.inr rfl) (.inr rfl) (.refl _ _)
    · refine postSbEvent_only ?_ (by decide) _
      refine .set_host (.inl (by decide)) (.inr rfl) (.inr rfl) (.inr rfl) <| State.emit_only ?_ (by decide) _
      exact .set_host (.inl (by decide)) (.inr rfl) (.inr rfl) (.inr rfl) (.refl _ _)

theorem execSbWindowOffset_writes (value : Nat) (pecOk : Bool) (s : State) :
    Writes [.host] s (execSbWindowOffset value pecOk s) :=
  .ite .stay <| .ite (.next (State.emit_only (.refl _ _) (by decide) _)) <| .next <|
    .set_host (.inl (by decide)) (.inr rfl) (.inr rfl) (.inr rfl) (.refl _ _)

theorem execPcieFunctionReset_writes (s : State) :
    Writes [.free, .host, .issues, .owed, .mem, .matrix] s (execPcieFunctionReset s) :=
  .ite (.ok (functionReset_only (.refl _ _) (by decide))) .stay

theorem execPciePerst_writes (low : Bool) (s : State) :
    Writes [.free, .host, .issues, .owed, .mem, .matrix] s (execPciePerst low s) := by
  unfold execPciePerst
  refine .ite (.ite .stay <| .ite (.ok <| functionReset_only ?_ (by decide)) <| .next ?_) <|
    .ite (.next <| .set_host (.inl (by decide)) (.inl (by decide)) (.inl (by decide)) (.inl (by decide)) ?_) <| .next ?_
  all_goals exact .set_host (.inl (by decide)) (.inr rfl) (.inr rfl) (.inr rfl) (.refl _ _)

theorem execPciePowerStateChange_writes (d3hot : Bool) (s : State) :
    Writes [.host] s (execPciePowerStateChange d3hot s) :=
  .ite (.ok (.set_host (.inl (by decide)) (.inr rfl) (.inr rfl) (.inr rfl) (.refl _ _))) <| .ok <| .foldl (.set_host
    (.inl (by decide)) (.inr rfl) (.inr rfl) (.inr rfl) (.refl _ _)) fun _ _ h => fetchMore_only (flushHeld_only
    (by decide) _ h _) (by decide) _

theorem execBar0AccessError_writes (_write : Bool) (offset _dwords : Nat) (s : State) :
    Writes [] s (execBar0AccessError _write offset _dwords s) :=
  .ite (.fault _) <| .next <| State.emit_only (.refl _ _) (by decide) _

/-! ## Commands of `Machine/Housekeeping.lean` -/

theorem execHkRound_writes (readings : List Int) (s : State) : Writes recordParts s (execHkRound readings s) :=
  .ite (.ok (evaluateRound_only (.refl _ _) (by decide) _)) .stay

theorem execAdcConversionDone_writes (code : Nat) (s : State) : Writes [.house] s (execAdcConversionDone code s) :=
  .ite .stay <| .ok <| .set_house (by decide) <| State.setAdcEntry_only (.refl _ _) (by decide) _ _

theorem execAdcCtrlWrite_writes (value : Word32) (s : State) : Writes [.house] s (execAdcCtrlWrite value s) :=
  .mainRow <| adcCtrl_only (.refl _ _) (by decide) _

theorem execAdcUrgentGo_writes (value : Word32) (s : State) : Writes [.house] s (execAdcUrgentGo value s) :=
  .mainRow <| adcUrgent_only (.refl _ _) (by decide) _

theorem execAdcUrgentConversionDone_writes (code : Nat) (s : State) :
    Writes [.house] s (execAdcUrgentConversionDone code s) :=
  .ite .stay <| .ok <| .set_house (by decide) (.refl _ _)

theorem execAdcUrgentResultRead_writes (s : State) : Writes [.house] s (execAdcUrgentResultRead s) :=
  .readRow (by decide) <| readUrgResult_only (.refl _ _) (by decide)

theorem execDacCtrlWrite_writes (channel : Nat) (value : Word32) (s : State) :
    Writes [.house] s (execDacCtrlWrite channel value s) :=
  .mainRow <| .ite (dacCtrl_only (.refl _ _) (by decide) _ _) (.refl _ _)

theorem execDacClrNChange_writes (low : Bool) (s : State) : Writes [.house] s (execDacClrNChange low s) :=
  .ok <| .ite (openToCal_only (.set_house (by decide) (.refl _ _)) (by decide)) <| .set_house (by decide) (.refl _ _)

/-! ## Commands of `Machine/TimeUnit.lean` -/

theorem execTimeMeasurement_writes (theta : Int) (s : State) :
    Writes (recordParts ++ [Part.time]) s (execTimeMeasurement theta s) :=
  .ite (.ok (measureTime_only (.refl _ _) (by decide) _)) .stay

theorem execServoFeedWrite_writes (value : Word32) (s : State) :
    Writes (recordParts ++ [Part.time]) s (execServoFeedWrite value s) :=
  .mainRow <| servoFeed_only (.refl _ _) (by decide) _

theorem execHeldChangeApply_writes (s : State) : Writes (recordParts ++ [Part.time]) s (execHeldChangeApply s) :=
  .ite (.ok (applyHeld_only (.refl _ _) (by decide))) .stay

theorem execHeldChangeLimit_writes (s : State) : Writes [.time] s (execHeldChangeLimit s) := by
  unfold execHeldChangeLimit
  split
  · exact .ite (.ok (.set_time (by decide) (.refl _ _))) .stay
  · exact .stay

theorem execSyncTimeout_writes (s : State) : Writes [.time] s (execSyncTimeout s) :=
  .ite (.ok (.set_time (by decide) (.refl _ _))) .stay

theorem execHoldoverExpire_writes (s : State) : Writes [.time] s (execHoldoverExpire s) :=
  .ite (.ok (.set_time (by decide) (.refl _ _))) .stay

theorem execAcceptJump_writes (s : State) : Writes [.time] s (execAcceptJump s) :=
  .mainRow <| acceptJump_only (.refl _ _) (by decide)

theorem execTimeSnap_writes (s : State) : Writes [.time] s (execTimeSnap s) :=
  .mainRow <| timeSnap_only (.refl _ _) (by decide)

theorem execDtLoRead_writes (s : State) : Writes [.time] s (execDtLoRead s) :=
  .readRow (by decide) <| readDtLo_only (.refl _ _) (by decide)

theorem execRateLoRead_writes (s : State) : Writes [.time] s (execRateLoRead s) :=
  .readRow (by decide) <| readRateLo_only (.refl _ _) (by decide)

theorem execPtpAnnounceReceive_writes (port : Nat) (msg : Announce) (s : State) :
    Writes [.time] s (execPtpAnnounceReceive port msg s) :=
  .ite .stay <| .ite (.ok (ptpDiscard_only (.refl _ _) (by decide))) <| .ite .stay <| .ok <|
    State.setPtp_only (.refl _ _) (by decide) _

theorem execPtpSyncReceive_writes (port : Nat) (followUp twoStep : Bool) (domain : Nat) (origin : NetTime)
    (correction : Int) (ingressTick : Nat) (s : State) :
    Writes [.time] s (execPtpSyncReceive port followUp twoStep domain origin correction ingressTick s) :=
  .ite .stay <| .ite (.ok (ptpDiscard_only (.refl _ _) (by decide))) <| .ite .stay <|
    .ite (.ite (.ok (State.setPtp_only (.refl _ _) (by decide) _)) (.ok (ptpDiscard_only (.refl _ _) (by decide)))) <|
    .ok <| State.setPtp_only (.refl _ _) (by decide) _

theorem execPtpDelayReqSend_writes (port egressTick : Nat) (s : State) :
    Writes [.time] s (execPtpDelayReqSend port egressTick s) :=
  .ite .stay <| .ok <| State.emit_only (State.setPtp_only (.refl _ _) (by decide) _) (by decide) _

theorem execPtpDelayRespReceive_writes (port domain : Nat) (receive : NetTime) (correction logInterval : Int)
    (s : State) :
    Writes (recordParts ++ [Part.time]) s (execPtpDelayRespReceive port domain receive correction logInterval s) := by
  unfold execPtpDelayRespReceive
  refine .ite .stay <| .ite (.ok (ptpDiscard_only (.refl _ _) (by decide))) <| .ite .stay ?_
  split
  · exact .ok <| exchange_only (State.setPtp_only (.refl _ _) (by decide) _) (by decide) _ _ _ _
  · exact .ok <| ptpDiscard_only (.refl _ _) (by decide)

theorem execPtpAnnounceTimeout_writes (s : State) : Writes [.time] s (execPtpAnnounceTimeout s) := by
  unfold execPtpAnnounceTimeout
  refine .ite .stay ?_
  dsimp only
  split
  · exact .ok <| State.setPtp_only (.refl _ _) (by decide) _
  · exact .ok <| State.setPtp_only (.refl _ _) (by decide) _

theorem execPpsOutEdge_writes (s : State) : Writes [.time] s (execPpsOutEdge s) :=
  .ite .stay <| .ok <| .set_time (by decide) (.refl _ _)

theorem execPpsOutFall_writes (s : State) : Writes [.time] s (execPpsOutFall s) :=
  .ite (.ok (.set_time (by decide) (.refl _ _))) .stay

theorem execPpsInEdge_writes (s : State) : Writes [.time] s (execPpsInEdge s) :=
  .ite .stay <| .ok <| .set_time (by decide) (.refl _ _)

theorem execPpsInResultRead_writes (s : State) : Writes [.time] s (execPpsInResultRead s) :=
  .readRow (by decide) <| readPpsIn_only (.refl _ _) (by decide)

/-! ## Commands of `Machine/Registers.lean` -/

theorem execP0LatencyClearMax_writes (s : State) : Writes [.store] s (execP0LatencyClearMax s) :=
  .mainRow <| clearP0Max_only (.refl _ _) (by decide)

theorem execRegisterWrite_writes (offset : Nat) (value : Word32) (allBytes : Bool) (s : State) :
    Writes (resetParts ++ [Part.free, Part.tiles]) s (execRegisterWrite offset value allBytes s) :=
  .ite (.fault _) <| .ite .stay <| .next <| wrote_only (writeReg_only (.refl _ _) (by decide) _ _ _) (by decide) _ _

theorem execSbWindowAccess_writes (write : Bool) (bytes : Nat) (data : List Word32) (pecOk : Bool) (s : State) :
    Writes (resetParts ++ [Part.free, Part.tiles]) s (execSbWindowAccess write bytes data pecOk s) :=
  .ite .stay <| .ite (.next (State.emit_only (.refl _ _) (by decide) _)) <|
    .ite (.next (.foldl (.refl _ _) (fun _ _ h => nextWord_only (writeWindow_only h (by decide) _ _) (by decide)))) <|
    .next <| State.emit_only (readWords_only (by decide) _ (.refl _ _)) (by decide) _

/-! ## Every command, and the tick on an empty queue -/

/-- The frame of every command, in any state. -/
theorem exec_writes (s : State) : (c : Instr) → Writes (touched c) s (exec c s)
  | .nop h => execNop_writes h s
  | .resumeRegion h isTile target => execResumeRegion_writes h isTile target s
  | .selfTest h targets timeoutMs missed => execSelfTest_writes h targets timeoutMs missed s
  | .getDigest h wait addr nonce => execGetDigest_writes h wait addr nonce s
  | .getCert h which addr length => execGetCert_writes h which addr length s
  | .handover h ret drillMs => execHandover_writes h ret drillMs s
  | .dalovoSend h timed ns peer length addr t late => execDalovoSend_writes h timed ns peer length addr t late s
  | .stage h openFlag handle clauses => execStage_writes h openFlag handle clauses s
  | .stageList h openFlag ns handle count addr => execStageList_writes h openFlag ns handle count addr s
  | .commit h handle opts => execCommit_writes h handle opts s
  | .schedule h handle opts t late => execSchedule_writes h handle opts t late s
  | .arm h handle opts rearm pgroup ports => execArm_writes h handle opts rearm pgroup ports s
  | .disarm h handle => execDisarm_writes h handle s
  | .fire h handle => execFire_writes h handle s
  | .cancel h handle => execCancel_writes h handle s
  | .freeSentence h handle => execFreeSentence_writes h handle s
  | .paraDefine h halt para stepCount addr period repeats late =>
    execParaDefine_writes h halt para stepCount addr period repeats late s
  | .paraStart h reportAll para start => execParaStart_writes h reportAll para start s
  | .paraStop h now para => execParaStop_writes h now para s
  | .pin h scope first count lifetimeMs => execPin_writes h scope first count lifetimeMs s
  | .unpin h scope first count => execUnpin_writes h scope first count s
  | .retireElement h eid => execRetireElement_writes h eid s
  | .restoreElement h eid => execRestoreElement_writes h eid s
  | .classLoad h cls bank addr => execClassLoad_writes h cls bank addr s
  | .classSwap h cls => execClassSwap_writes h cls s
  | .elementTrim h resetOuter eid trimOn trimOff => execElementTrim_writes h resetOuter eid trimOn trimOff s
  | .journalCopy h release tile startMs count addr => execJournalCopy_writes h release tile startMs count addr s
  | .sweepLoad h ns list count addr => execSweepLoad_writes h ns list count addr s
  | .sweepRun h compEnd actuator list target downCount timeoutMs resultAddr =>
    execSweepRun_writes h compEnd actuator list target downCount timeoutMs resultAddr s
  | .sweepStop h list => execSweepStop_writes h list s
  | .sweepFree h list => execSweepFree_writes h list s
  | .calRun h kind scope target timeoutMs => execCalRun_writes h kind scope target timeoutMs s
  | .saveCalibration h fromHost ns addr => execSaveCalibration_writes h fromHost ns addr s
  | .exportCalibration h inService addr length => execExportCalibration_writes h inService addr length s
  | .verbArrival src entry => execVerbArrival_writes src entry s
  | .sqTailWrite q value => execSqTailWrite_writes q value s
  | .cqHeadWrite q value => execCqHeadWrite_writes q value s
  | .eqHeadWrite q value => execEqHeadWrite_writes q value s
  | .sqEntryFetch q entries => execSqEntryFetch_writes q entries s
  | .sqReadFail q => execSqReadFail_writes q s
  | .cqEqWriteFail q event => execCqEqWriteFail_writes q event s
  | .queueEnable q => execQueueEnable_writes q s
  | .queueDisable q => execQueueDisable_writes q s
  | .queueDrained q => execQueueDrained_writes q s
  | .queueConfigWrite q reg value => execQueueConfigWrite_writes q reg value s
  | .completionPost src => execCompletionPost_writes src s
  | .eventPost => execEventPost_writes s
  | .msixInterruptTimer q event => execMsixInterruptTimer_writes q event s
  | .fireDoorbell value => execFireDoorbell_writes value s
  | .sbVerbWrite entry bytes pecOk => execSbVerbWrite_writes entry bytes pecOk s
  | .sbCompletionRead => execSbCompletionRead_writes s
  | .sbEventRead => execSbEventRead_writes s
  | .sbWindowOffset value pecOk => execSbWindowOffset_writes value pecOk s
  | .sbWindowAccess write bytes data pecOk => execSbWindowAccess_writes write bytes data pecOk s
  | .pcieFunctionReset => execPcieFunctionReset_writes s
  | .pciePerst low => execPciePerst_writes low s
  | .bar2Access write addr count data => execBar2Access_writes write addr count data s
  | .bar0AccessError write offset dwords => execBar0AccessError_writes write offset dwords s
  | .registerWrite offset value allBytes => execRegisterWrite_writes offset value allBytes s
  | .sentencePrepare => execSentencePrepare_writes s
  | .prepLeadDue para index => execPrepLeadDue_writes para index s
  | .staleReprepare handle => execStaleReprepare_writes handle s
  | .tokenIssue launch => execTokenIssue_writes launch s
  | .p0Dispatch => execP0Dispatch_writes s
  | .latchReportReceive tile serial latched => execLatchReportReceive_writes tile serial latched s
  | .launchResultTimeout tile serial => execLaunchResultTimeout_writes tile serial s
  | .reversalLaunch serial => execReversalLaunch_writes serial s
  | .scheduledLaunchDue handle => execScheduledLaunchDue_writes handle s
  | .paragraphStepDue para => execParagraphStepDue_writes para s
  | .losEventReceive monitors => execLosEventReceive_writes monitors s
  | .losClearReceive monitor => execLosClearReceive_writes monitor s
  | .complianceEventReceive tile channel detail => execComplianceEventReceive_writes tile channel detail s
  | .scheduleMismatchReceive tile => execScheduleMismatchReceive_writes tile s
  | .tileFaultReceive tile detail => execTileFaultReceive_writes tile detail s
  | .tokenLostReceive tile => execTokenLostReceive_writes tile s
  | .commaBoundary => execCommaBoundary_writes s
  | .regionEscalate region => execRegionEscalate_writes region s
  | .commaLinkShareWrite value => execCommaLinkShareWrite_writes value s
  | .commaLoopShareWrite value => execCommaLoopShareWrite_writes value s
  | .settlingDwellEnd eid => execSettlingDwellEnd_writes eid s
  | .feBlankEnd eid => execFeBlankEnd_writes eid s
  | .journalFrameWrite ms tile => execJournalFrameWrite_writes ms tile s
  | .journalFrameExpire ms tile => execJournalFrameExpire_writes ms tile s
  | .placementMove eid writtenDuringCopy => execPlacementMove_writes eid writtenDuringCopy s
  | .pinExpire eid host => execPinExpire_writes eid host s
  | .contextRebuild eid => execContextRebuild_writes eid s
  | .elementReroute inPort => execElementReroute_writes inPort s
  | .cellOperationError region block cell eid => execCellOperationError_writes region block cell eid s
  | .handshakeWatchdog channel => execHandshakeWatchdog_writes channel s
  | .tileCommitReceive tile portB serial slot time => execTileCommitReceive_writes tile portB serial slot time s
  | .tileLatch tile serial => execTileLatch_writes tile serial s
  | .driveShapeEnd tile elem => execDriveShapeEnd_writes tile elem s
  | .tileDriveFrame tile portB comma codes => execTileDriveFrame_writes tile portB comma codes s
  | .slotOpen tile portB slot count => execSlotOpen_writes tile portB slot count s
  | .driveSlotFrame tile portB elem0 d0 elem1 d1 => execDriveSlotFrame_writes tile portB elem0 d0 elem1 d1 s
  | .cmdAckReceive tile opcode ok slot => execCmdAckReceive_writes tile opcode ok slot s
  | .setClass tile portB elem cls all => execSetClass_writes tile portB elem cls all s
  | .setFast tile portB elem fast comma => execSetFast_writes tile portB elem fast comma s
  | .classDiv tile portB cls div comma => execClassDiv_writes tile portB cls div comma s
  | .shapeLoad tile portB cls off point value => execShapeLoad_writes tile portB cls off point value s
  | .setEpoch tile portB epoch => execSetEpoch_writes tile portB epoch s
  | .setShare tile portB shares => execSetShare_writes tile portB shares s
  | .tileAbort tile portB elem => execTileAbort_writes tile portB elem s
  | .claim tile portB => execClaim_writes tile portB s
  | .release tile portB => execRelease_writes tile portB s
  | .bulkPull tile portB offset count => execBulkPull_writes tile portB offset count s
  | .logInfoReceive tile length withdrawn => execLogInfoReceive_writes tile length withdrawn s
  | .bulkReceive tile index data withdrawn => execBulkReceive_writes tile index data withdrawn s
  | .pointWord tile portB word value => execPointWord_writes tile portB word value s
  | .pointGo tile portB channel elem downCount => execPointGo_writes tile portB channel elem downCount s
  | .pointResultReceive tile channel word value => execPointResultReceive_writes tile channel word value s
  | .portSampleReceive tile channel range flag code los =>
    execPortSampleReceive_writes tile channel range flag code los s
  | .calPoint tile portB elem drive => execCalPoint_writes tile portB elem drive s
  | .calSenseReceive tile elem sense => execCalSenseReceive_writes tile elem sense s
  | .smuBus tile portB channel connect => execSmuBus_writes tile portB channel connect s
  | .readbackReq tile portB => execReadbackReq_writes tile portB s
  | .readbackReceive tile part codes => execReadbackReceive_writes tile part codes s
  | .identReceive tile word value => execIdentReceive_writes tile word value s
  | .tempReceive tile temp => execTempReceive_writes tile temp s
  | .senseFrameReceive tile comma samples => execSenseFrameReceive_writes tile comma samples s
  | .tbeaconReceive tile portB time => execTbeaconReceive_writes tile portB time s
  | .tbeaconLoss tile => execTbeaconLoss_writes tile s
  | .hbeatSend => execHbeatSend_writes s
  | .hbeatTileRelay tile portB word => execHbeatTileRelay_writes tile portB word s
  | .relayedHbeatReceive tile word => execRelayedHbeatReceive_writes tile word s
  | .ownerHbeatExpire tile => execOwnerHbeatExpire_writes tile s
  | .linkFrameReceive at_ multi control data => execLinkFrameReceive_writes at_ multi control data s
  | .linkctlAckReceive at_ multi num => execLinkctlAckReceive_writes at_ multi num s
  | .linkctlNakReceive at_ multi num => execLinkctlNakReceive_writes at_ multi num s
  | .nakRepeatTimeout at_ multi => execNakRepeatTimeout_writes at_ multi s
  | .ackIdleTimeout at_ multi => execAckIdleTimeout_writes at_ multi s
  | .ackMissingTimeout tile => execAckMissingTimeout_writes tile s
  | .blockLockLoss tile => execBlockLockLoss_writes tile s
  | .trainBlockReceive tile block => execTrainBlockReceive_writes tile block s
  | .trainStepTimeout tile => execTrainStepTimeout_writes tile s
  | .adoptCorrectionEnd tile => execAdoptCorrectionEnd_writes tile s
  | .eidleEnter at_ => execEidleEnter_writes at_ s
  | .eidleExit at_ => execEidleExit_writes at_ s
  | .linkRetrain tile => execLinkRetrain_writes tile s
  | .linkInjectCrc tile => execLinkInjectCrc_writes tile s
  | .sweepPointStart list => execSweepPointStart_writes list s
  | .sweepPointEnd list readings forceRb writeOk => execSweepPointEnd_writes list readings forceRb writeOk s
  | .sweepTimeout list => execSweepTimeout_writes list s
  | .sweepRunEnd list => execSweepRunEnd_writes list s
  | .ssCtrlGo => execSsCtrlGo_writes s
  | .ssResultRead => execSsResultRead_writes s
  | .portSelWrite value => execPortSelWrite_writes value s
  | .portResultRead => execPortResultRead_writes s
  | .refCtrlWrite value => execRefCtrlWrite_writes value s
  | .refConversionGo => execRefConversionGo_writes s
  | .refConversionDone value isOver => execRefConversionDone_writes value isOver s
  | .refResultRead => execRefResultRead_writes s
  | .busCtrlRequest value => execBusCtrlRequest_writes value s
  | .calBusTimeout => execCalBusTimeout_writes s
  | .losComparatorRaise monitor current => execLosComparatorRaise_writes monitor current s
  | .losComparatorClear monitor current => execLosComparatorClear_writes monitor current s
  | .complianceClamp tile channel sampling => execComplianceClamp_writes tile channel sampling s
  | .calMicroRun eid => execCalMicroRun_writes eid s
  | .calFullRun eid => execCalFullRun_writes eid s
  | .calChannelRun tile fits => execCalChannelRun_writes tile fits s
  | .calTimeout batch => execCalTimeout_writes batch s
  | .pathLossUpdate inPort => execPathLossUpdate_writes inPort s
  | .calDonePost batch => execCalDonePost_writes batch s
  | .faultReport reports => execFaultReport_writes reports s
  | .safeStateTokenResolve serial => execSafeStateTokenResolve_writes serial s
  | .collectorSelfFault => execCollectorSelfFault_writes s
  | .faultClear value => execFaultClear_writes value s
  | .faultFirstClear => execFaultFirstClear_writes s
  | .faultInjectCheck target unit double viaSideband => execFaultInjectCheck_writes target unit double viaSideband s
  | .faultInjectReact target unit double viaSideband => execFaultInjectReact_writes target unit double viaSideband s
  | .centralEngineError ddr source => execCentralEngineError_writes ddr source s
  | .mgmtWatchdog => execMgmtWatchdog_writes s
  | .timeMeasurement theta => execTimeMeasurement_writes theta s
  | .servoFeedWrite value => execServoFeedWrite_writes value s
  | .heldChangeApply => execHeldChangeApply_writes s
  | .heldChangeLimit => execHeldChangeLimit_writes s
  | .syncTimeout => execSyncTimeout_writes s
  | .holdoverExpire => execHoldoverExpire_writes s
  | .acceptJump => execAcceptJump_writes s
  | .timeSnap => execTimeSnap_writes s
  | .dtLoRead => execDtLoRead_writes s
  | .rateLoRead => execRateLoRead_writes s
  | .ptpAnnounceReceive port msg => execPtpAnnounceReceive_writes port msg s
  | .ptpSyncReceive port followUp twoStep domain origin correction ingressTick =>
    execPtpSyncReceive_writes port followUp twoStep domain origin correction ingressTick s
  | .ptpDelayReqSend port egressTick => execPtpDelayReqSend_writes port egressTick s
  | .ptpDelayRespReceive port domain receive correction logInterval =>
    execPtpDelayRespReceive_writes port domain receive correction logInterval s
  | .ptpAnnounceTimeout => execPtpAnnounceTimeout_writes s
  | .ppsOutEdge => execPpsOutEdge_writes s
  | .ppsOutFall => execPpsOutFall_writes s
  | .ppsInEdge => execPpsInEdge_writes s
  | .ppsInResultRead => execPpsInResultRead_writes s
  | .timedDalovoDue port => execTimedDalovoDue_writes port s
  | .dalovoAnnounceSend port => execDalovoAnnounceSend_writes port s
  | .dalovoAnnounceReceive port srcId ownerHeld => execDalovoAnnounceReceive_writes port srcId ownerHeld s
  | .dalovoHello frame => execDalovoHello_writes frame s
  | .dalovoHelloReply frame => execDalovoHelloReply_writes frame s
  | .dalovoFinish head transcriptOk => execDalovoFinish_writes head transcriptOk s
  | .dalovoHandshakeTimeout peer => execDalovoHandshakeTimeout_writes peer s
  | .dalovoVerbFrame head entry => execDalovoVerbFrame_writes head entry s
  | .dalovoUserFrame head payload ingressTick => execDalovoUserFrame_writes head payload ingressTick s
  | .dvRxSlotFree value => execDvRxSlotFree_writes value s
  | .dalovoClose peer reason => execDalovoClose_writes peer reason s
  | .dalovoIdleTimeout peer => execDalovoIdleTimeout_writes peer s
  | .safetyFrameReceive head body => execSafetyFrameReceive_writes head body s
  | .safetyFrameSend binding => execSafetyFrameSend_writes binding s
  | .bindingWatchdogExpire binding => execBindingWatchdogExpire_writes binding s
  | .ilkContactChange input contactB closed => execIlkContactChange_writes input contactB closed s
  | .ilkDiscrepancy input => execIlkDiscrepancy_writes input s
  | .lenEvaluate => execLenEvaluate_writes s
  | .fbkTimeout output fbkOpen => execFbkTimeout_writes output fbkOpen s
  | .stuckOnDetect output => execStuckOnDetect_writes output s
  | .testPulseStart output => execTestPulseStart_writes output s
  | .testPulseCheck output readbackOn => execTestPulseCheck_writes output readbackOn s
  | .safeKeyWrite value => execSafeKeyWrite_writes value s
  | .safeCommitWrite value => execSafeCommitWrite_writes value s
  | .safeKeyTimeout => execSafeKeyTimeout_writes s
  | .safeAckWrite value => execSafeAckWrite_writes value s
  | .lenForceOffWrite value => execLenForceOffWrite_writes value s
  | .safetyBlockDeliver block => execSafetyBlockDeliver_writes block s
  | .safetyRecordWrite ok => execSafetyRecordWrite_writes ok s
  | .lsuSelfCheck crcOk parityOk clockOk supplyOk => execLsuSelfCheck_writes crcOk parityOk clockOk supplyOk s
  | .mateHeartbeatReceive word mateId matePrio mateHash =>
    execMateHeartbeatReceive_writes word mateId matePrio mateHash s
  | .mateWaitExpire => execMateWaitExpire_writes s
  | .mirrorReceive num rec => execMirrorReceive_writes num rec s
  | .mirrorAckReceive num => execMirrorAckReceive_writes num s
  | .mirrorAckTimeout => execMirrorAckTimeout_writes s
  | .syncReq => execSyncReq_writes s
  | .snapshotApplied num => execSnapshotApplied_writes num s
  | .digestFrameReceive digest => execDigestFrameReceive_writes digest s
  | .digestMismatchExpire => execDigestMismatchExpire_writes s
  | .roleFrameReceive step ret => execRoleFrameReceive_writes step ret s
  | .takeoverTokenResolve serial => execTakeoverTokenResolve_writes serial s
  | .splitRetry => execSplitRetry_writes s
  | .deferredLosFire handle => execDeferredLosFire_writes handle s
  | .drillEnd cause tilesFailed => execDrillEnd_writes cause tilesFailed s
  | .dmaGo channel => execDmaGo_writes channel s
  | .dmaResume channel => execDmaResume_writes channel s
  | .dmaEnableClear channel => execDmaEnableClear_writes channel s
  | .dmaGlobalDisable => execDmaGlobalDisable_writes s
  | .dmaErrorHalt channel write cause k0 k1 k2 data => execDmaErrorHalt_writes channel write cause k0 k1 k2 data s
  | .dmaReadbackDone channel ok data => execDmaReadbackDone_writes channel ok data s
  | .bankOwnerWrite bank value => execBankOwnerWrite_writes bank value s
  | .bankOwnerChanged bank => execBankOwnerChanged_writes bank s
  | .bankPowerWrite bank value => execBankPowerWrite_writes bank value s
  | .bankPowerReached bank => execBankPowerReached_writes bank s
  | .bankInit bank => execBankInit_writes bank s
  | .bankInitDone bank => execBankInitDone_writes bank s
  | .bankAccessCollide bank word dataA dataB => execBankAccessCollide_writes bank word dataA dataB s
  | .ddrTrainingDone ok0 ok1 => execDdrTrainingDone_writes ok0 ok1 s
  | .admMeterWrite reg value => execAdmMeterWrite_writes reg value s
  | .queueTelemetrySample => execQueueTelemetrySample_writes s
  | .p0LatencyClearMax => execP0LatencyClearMax_writes s
  | .mateGapClearMax => execMateGapClearMax_writes s
  | .admTelClearMax => execAdmTelClearMax_writes s
  | .hkRound readings => execHkRound_writes readings s
  | .adcConversionDone code => execAdcConversionDone_writes code s
  | .adcCtrlWrite value => execAdcCtrlWrite_writes value s
  | .adcUrgentGo value => execAdcUrgentGo_writes value s
  | .adcUrgentResultRead => execAdcUrgentResultRead_writes s
  | .dacCtrlWrite channel value => execDacCtrlWrite_writes channel value s
  | .dacClrNChange low => execDacClrNChange_writes low s
  | .porNRelease => execPorNRelease_writes s
  | .porNAssert => execPorNAssert_writes s
  | .warmReset lowNs => execWarmReset_writes lowNs s
  | .resetCtrlWrite value => execResetCtrlWrite_writes value s
  | .resetHeldExpire => execResetHeldExpire_writes s
  | .mainStart => execMainStart_writes s
  | .calSetRead set => execCalSetRead_writes set s
  | .surfaceExpandDone tile => execSurfaceExpandDone_writes tile s
  | .restartResolve => execRestartResolve_writes s
  | .readyChange => execReadyChange_writes s
  | .digestRecomputeDone => execDigestRecomputeDone_writes s
  | .mainSupplyFault monitor => execMainSupplyFault_writes monitor s
  | .mainSupplyGood => execMainSupplyGood_writes s
  | .aonSupplyLow => execAonSupplyLow_writes s
  | .timePllLock => execTimePllLock_writes s
  | .timePllLossOfLock => execTimePllLossOfLock_writes s
  | .sitePortLinkChange port up => execSitePortLinkChange_writes port up s
  | .verbHostDataDone h data => execVerbHostDataDone_writes h data s
  | .flashImageReadDone img => execFlashImageReadDone_writes img s
  | .calSaveFlashDone ok => execCalSaveFlashDone_writes ok s
  | .adcUrgentConversionDone code => execAdcUrgentConversionDone_writes code s
  | .standbyIdentPoll => execStandbyIdentPoll_writes s
  | .selfTestTimeout h => execSelfTestTimeout_writes h s
  | .dalovoFrameSent port => execDalovoFrameSent_writes port s
  | .pciePowerStateChange d3hot => execPciePowerStateChange_writes d3hot s

/-- The frame of the tick on an empty queue: that of COMMA_BOUNDARY. -/
theorem idle_writes (s : State) : Writes (touched .commaBoundary) s (idle s) :=
  .ite .stay <| .ite (.ok <| commaStep_only (.refl _ _) (by decide)) <| .next <| .set_dt (by decide) (.refl _ _)

/-! ## ERR_LEVEL -/

/-- Every part but ERR_LEVEL. -/
def notErrLevel : List Part := [.pending, .out, .free, .dt, .time, .faults, .resumes, .host, .irq, .issues, .owed, .comma,
  .regions, .store, .loops, .elems, .smu, .runs, .calib, .calRuns, .links, .tiles, .adm, .mem, .matrix, .lsu, .mate,
  .handover, .mirror, .chip, .otp, .digest, .house, .hostOps]

section
variable {s t : State}

theorem ErrLevelOk.of_eq (hs : ErrLevelOk s) (h : t.faults.errLevel = s.faults.errLevel) : ErrLevelOk t := by
  unfold ErrLevelOk
  rwa [h]

theorem ErrLevelOk.of_only (hs : ErrLevelOk s) (h : Only notErrLevel s t) : ErrLevelOk t :=
  hs.of_eq (h .errLevel (by decide))

theorem ErrLevelOk.ite {c : Prop} [Decidable c] {x y : State} (hx : ErrLevelOk x) (hy : ErrLevelOk y) :
    ErrLevelOk (if c then x else y) := by split <;> assumption

theorem ErrLevelOk.after (hs : ErrLevelOk s) (s0 : State) : ErrLevelOk (after s0 s) :=
  hs.of_eq (after_errLevel s0 s)

/-- FAULT_CONFIG: a value of 0 is taken as 1 (R9, R435). -/
theorem errLevelOk_faultConfig (s : State) (v : Word32) : ErrLevelOk (faultConfig s v) := by
  have hb : bits v.toNat 0 2 < 4 := Nat.mod_lt _ (by decide)
  exact ⟨Nat.le_max_left .., Nat.max_le.2 ⟨by decide, by omega⟩⟩

/-- ERR_LEVEL is an always-on register: a reset of the main side keeps it (R435, Table 17-1). -/
theorem warmReset_errLevel (s : State) (cause : Nat) : (warmReset s cause).faults.errLevel = s.faults.errLevel := rfl

theorem ErrLevelOk.warmReset (hs : ErrLevelOk s) (cause : Nat) : ErrLevelOk (warmReset s cause) :=
  hs.of_eq (warmReset_errLevel s cause)

theorem errLevelOk_porReset (s : State) : ErrLevelOk (porReset s) := (by decide : 1 ≤ 2 ∧ 2 ≤ 3)

theorem ErrLevelOk.resetCtrl (hs : ErrLevelOk s) (v : Word32) : ErrLevelOk (resetCtrl s v) :=
  .ite (hs.warmReset 2) hs

theorem ErrLevelOk.writeGlobal (hs : ErrLevelOk s) (o : Nat) (v : Word32) : ErrLevelOk (writeGlobal s o v) :=
  .ite hs <| .ite (hs.resetCtrl v) <| .ite (hs.of_only (writeLinkShare_only (.refl _ _) (by decide) _)) <|
    .ite (hs.of_only (writeLoopShare_only (.refl _ _) (by decide) _)) <| .ite hs hs

theorem ErrLevelOk.writeFault (hs : ErrLevelOk s) (o : Nat) (v : Word32) (viaSideband : Bool) :
    ErrLevelOk (writeFault s o v viaSideband) :=
  .ite (errLevelOk_faultConfig s v) <| .ite (.ite (hs.of_only (firstClear_only (.refl _ _) (by decide))) hs) <|
    .ite (hs.of_only (faultClear_only (.refl _ _) (by decide) _)) <| .ite hs <|
    .ite (hs.of_only (faultInject_only (.refl _ _) (by decide) _ _)) <| .ite hs <| .ite hs hs

theorem ErrLevelOk.writeReg (hs : ErrLevelOk s) (off : Nat) (v : Word32) (viaSideband : Bool) :
    ErrLevelOk (writeReg s off v viaSideband) := by
  unfold Machine.writeReg
  dsimp only
  split
  · exact hs.writeGlobal _ v
  · exact hs.writeFault _ v viaSideband
  · exact hs.of_only (writeTime_only (.refl _ _) (by decide) _ _)
  · exact hs.of_only (writeHouse_only (.refl _ _) (by decide) _ _)
  · exact hs.of_only (writeCalib_only (.refl _ _) (by decide) _ _)
  · exact hs.of_only (writeSmu_only (.refl _ _) (by decide) _ _)
  · exact hs.of_only <| .ite (.refl _ _) <| .ite (writePlace_only (.refl _ _) (by decide) _ _) <|
      writeClauses_only (.refl _ _) (by decide) _ _
  · exact hs.of_only (writeHost_only (.refl _ _) (by decide) _ _)
  · exact hs.of_only (writeDma_only (.refl _ _) (by decide) _ _)
  · exact hs.of_only (writeBanksReg_only (.refl _ _) (by decide) _ _)
  · exact hs.of_only (writeSite_only (.refl _ _) (by decide) _ _)
  · exact hs.of_only (writeMate_only (.refl _ _) (by decide) _ _)
  · exact hs.of_only (writeAdm_only (.refl _ _) (by decide) _ _)
  · exact hs.of_only <| .ite (writeRegion_only (.refl _ _) (by decide) _ _ _) (.refl _ _)

theorem ErrLevelOk.wrote (ht : ErrLevelOk t) (s0 : State) (off : Nat) : ErrLevelOk (wrote s0 t off) :=
  .ite ht (ht.after s0)

theorem ErrLevelOk.writeWindow (hs : ErrLevelOk s) (o : Nat) (v : Word32) : ErrLevelOk (writeWindow s o v) :=
  .ite (hs.resetCtrl v) <| .ite ((errLevelOk_faultConfig s v).after s) <| .ite hs <|
    .ite (ErrLevelOk.after (hs.of_only (writeSafety_only (.refl _ _) (by decide) _ _)) s) <| .ite hs <|
    .ite (.ite ((hs.writeReg _ v true).wrote s _) hs) hs

theorem ErrLevelOk.writeWords (hs : ErrLevelOk s) (l : List Word32) :
    ErrLevelOk (l.foldl (fun (s : State) v => nextWord (Machine.writeWindow s s.host.sbOffset v)) s) := by
  induction l generalizing s with
  | nil => exact hs
  | cons v l ih => exact ih (hs.writeWindow _ v)

/-- The commands that may write ERR_LEVEL: the resets and the writes of any register. -/
def mayWriteErrLevel : Instr → Bool
  | .porNAssert | .aonSupplyLow | .warmReset .. | .resetCtrlWrite .. | .mainSupplyFault .. | .registerWrite .. |
    .sbWindowAccess .. => true
  | _ => false

theorem mayWriteErrLevel_eq (c : Instr) : mayWriteErrLevel c = (touched c).contains .errLevel := by
  cases c <;> rfl

/-- Where an outcome is a next state, its ERR_LEVEL is a severity. -/
def NextErrLevelOk (o : Host.Outcome State Fault Refusal) : Prop := ∀ t, o = .next t → ErrLevelOk t

theorem NextErrLevelOk.next (h : ErrLevelOk t) : NextErrLevelOk (.next t) := by
  intro u hu
  cases hu
  exact h

theorem NextErrLevelOk.ok (h : ErrLevelOk t) : NextErrLevelOk (ok s t) := .next (h.after s)

theorem NextErrLevelOk.fault (f : Fault) : NextErrLevelOk (.fault f) := by
  simp only [NextErrLevelOk, reduceCtorEq, false_implies, implies_true]

theorem NextErrLevelOk.ite {c : Prop} [Decidable c] {x y : Host.Outcome State Fault Refusal} (hx : NextErrLevelOk x)
    (hy : NextErrLevelOk y) : NextErrLevelOk (if c then x else y) := by split <;> assumption

theorem Writes.nextErrLevelOk {P : List Part} {o : Host.Outcome State Fault Refusal} (h : Writes P s o)
    (hp : .errLevel ∉ P ++ background) (hs : ErrLevelOk s) : NextErrLevelOk o :=
  fun _ ht => hs.of_eq (h.same hp (by decide) ht)

/-- The commands that may write ERR_LEVEL leave a severity there. -/
theorem exec_nextErrLevelOk_of_mayWrite (hs : ErrLevelOk s) {c : Instr} (hc : mayWriteErrLevel c = true) :
    NextErrLevelOk (exec c s) := by
  unfold mayWriteErrLevel at hc
  split at hc
  · exact .next (errLevelOk_porReset s)
  · exact .next (errLevelOk_porReset s)
  case h_3 lowNs =>
    have hd : ErrLevelOk s.draw.2 := hs.of_only (State.draw_only (.refl _ _) (by decide))
    show NextErrLevelOk (execWarmReset lowNs s)
    unfold execWarmReset
    refine .ite (.next hs) <| .ite (.next (hs.warmReset 1)) <| .next ?_
    split
    · exact hd
    · exact hd.warmReset 1
  · exact .next (hs.resetCtrl _)
  case h_5 monitor =>
    have h1 : ErrLevelOk { warmReset s 3 with chip := { (warmReset s 3).chip with mainPower := false } } := hs.warmReset 3
    exact .ite (.next hs) <| .ok <| h1.of_only (State.report_only (.refl _ _) (by decide) _ _ _ _)
  · exact .ite (.fault _) <| .ite (.next hs) <| .next <| (hs.writeReg _ _ false).wrote s _
  · exact .ite (.next hs) <| .ite (.next hs) <| .ite (.next (hs.writeWords _)) <| .next <|
      hs.of_only (State.emit_only (readWords_only (by decide) _ (.refl _ _)) (by decide) _)
  · exact absurd hc (by decide)

theorem exec_nextErrLevelOk (hs : ErrLevelOk s) (c : Instr) : NextErrLevelOk (exec c s) := by
  cases hc : mayWriteErrLevel c with
  | true => exact exec_nextErrLevelOk_of_mayWrite hs hc
  | false =>
    have hp : .errLevel ∉ touched c := fun hm =>
      Bool.noConfusion (hc.symm.trans ((mayWriteErrLevel_eq c).trans (List.contains_iff_mem.2 hm)))
    exact (exec_writes s c).nextErrLevelOk (fun hm => (List.mem_append.1 hm).elim hp (by decide)) hs

theorem step_nextErrLevelOk (hs : ErrLevelOk s) : NextErrLevelOk (step s) := by
  unfold step
  split
  · exact (idle_writes s).nextErrLevelOk (by decide) hs
  next c rest _ =>
    have hr : ErrLevelOk { s with pending := rest } := hs
    exact exec_nextErrLevelOk hr c

end

/-! ## The obligations -/

/-- Settles O6: each start value is the field's own. -/
theorem resetLeavesStatedValues : Obligations.ResetLeavesStatedValues := by
  unfold Obligations.ResetLeavesStatedValues
  exact ⟨rfl, rfl, rfl, rfl, rfl, rfl, rfl, rfl, rfl, rfl, rfl, rfl, rfl, rfl, fun _ => rfl, fun _ => rfl, fun _ => rfl⟩

/-- Settles O9: only resets and writes of registers may write ERR_LEVEL, by the frame of every command, and they leave a
severity there. -/
theorem stepKeepsErrLevelSeverity : Obligations.StepKeepsErrLevelSeverity := by
  unfold Obligations.StepKeepsErrLevelSeverity
  exact ⟨⟨by decide, by decide⟩, fun _ t hs ht => step_nextErrLevelOk hs t ht⟩

end Sys2Proof.Safety

/-! SUPPORT. The rules of a frame that a tile sends and of a change of its owner: what they do to the tile, and what they
leave alone. -/

namespace Sys2Proof.Machine

/-! ## Frames from a tile -/

/-- The tile with another end of its link: all that a frame it sends changes of it. -/
def Tile.withFar (x : Tile) (p : LinkPort) : Tile := { x with far := p }

@[simp] theorem State.emit_tile (s : State) (o : Output) (k : Nat) : (s.emit o).tile k = s.tile k := rfl

theorem State.up_tile (s : State) (k : Nat) (b : Bool) (name : String) (fields : List Nat) :
    ∃ p, (s.up k b name fields).tile k = (s.tile k).withFar p := by
  unfold State.up
  split
  · exact ⟨(s.tile k).far, rfl⟩
  · exact ⟨_, by rw [State.emit_tile, State.modTile_same]; rfl⟩

@[simp] theorem State.up_out (s : State) (k : Nat) (b : Bool) (name : String) (fields : List Nat) :
    (s.up k b name fields).out = s.out ++ [.upFrame k b name fields] := by
  unfold State.up
  split <;> rfl

@[simp] theorem State.up_free (s : State) (k : Nat) (b : Bool) (name : String) (fields : List Nat) :
    (s.up k b name fields).free = s.free := by
  unfold State.up
  split <;> rfl

theorem State.mem_up_out (s : State) (k : Nat) (b : Bool) (name : String) (fields : List Nat) :
    .upFrame k b name fields ∈ (s.up k b name fields).out := by simp

/-! ## The owner (R269) -/

@[simp] theorem Tile.beat_held (x : Tile) (b : Bool) (t : Option Nat) : (x.beat b t).held = x.held := by
  cases b <;> rfl

@[simp] theorem Tile.beat_token (x : Tile) (b : Bool) (t : Option Nat) : (x.beat b t).token = x.token := by
  cases b <;> rfl

/-- The HBEAT time of a port, after it has been set. -/
theorem Tile.beat_read (x : Tile) (b : Bool) (t : Option Nat) :
    (if b then (x.beat b t).hbeatB else (x.beat b t).hbeatA) = t := by
  cases b <;> rfl

/-- With the owner's HBEAT time forgotten, the owner counts as silent. -/
theorem State.ownerSilent_beat_none (s : State) (x : Tile) : s.ownerSilent (x.beat x.ownerPort none) = true := by
  have h : (x.beat x.ownerPort none).ownerPort = x.ownerPort := by simp [Tile.ownerPort]
  rw [State.ownerSilent, h, Tile.beat_read]

/-- The tile after a CLAIM that it grants to a port at device time `t`: the token is the port's. -/
def Tile.granted (x : Tile) (b : Bool) (t : Nat) : Tile := { if x.obeys b then x else x.beat b (some t) with
  token := portToken b
  lostTo := if x.token = .none || x.obeys b then x.lostTo else x.token }

theorem Tile.granted_held (x : Tile) (b : Bool) (t : Nat) : (x.granted b t).held = x.held := by
  change (if x.obeys b then x else x.beat b (some t)).held = x.held
  split
  · rfl
  · exact x.beat_held b (some t)

/-- Telling the former owner changes nothing of the tile but whom it still has to tell and its end of the link. -/
theorem tellLost_tile (s : State) (k : Nat) :
    ∃ l p, (tellLost s k).tile k = { s.tile k with lostTo := l }.withFar p := by
  unfold tellLost
  dsimp only
  split
  · exact ⟨(s.tile k).lostTo, (s.tile k).far, rfl⟩
  · split
    · exact ⟨(s.tile k).lostTo, (s.tile k).far, rfl⟩
    · refine ⟨.none, ?_⟩
      have h := State.up_tile (s.setTile k { s.tile k with lostTo := .none }) k ((s.tile k).lostTo == .b) "EVENT" [6, 0, 0]
      rwa [State.setTile_same] at h

theorem tellLost_out (s : State) (k : Nat) : s.out <+: (tellLost s k).out := by
  unfold tellLost
  dsimp only
  split
  · exact List.prefix_refl _
  · split
    · exact List.prefix_refl _
    · rw [State.up_out]
      exact List.prefix_append ..

/-! ## The end of a point or a trial (R210) -/

/-- The tile after ABORT of an element (R210): what ran on the element has ended. -/
def Tile.aborted (x : Tile) (e : Nat) : Tile := { x with
  trial := if x.trial.map (·.1) = some e then none else x.trial
  actuator := if x.actuator = some e then none else x.actuator
  pointOn := match x.pointOn with
    | some (c, f) => if (c = 8 && f = e) || (c < 8 && c = e) then none else some (c, f)
    | none => none }

theorem execTileAbort_eq (k : Nat) (b : Bool) (e : Nat) (s : State) :
    execTileAbort k b e s = tileCmd s k b fun s => s.modTile k fun x => x.aborted e := rfl

theorem Tile.aborted_trial (x : Tile) (e : Nat) : (x.aborted e).trial.map (·.1) ≠ some e := by
  unfold Tile.aborted
  dsimp only
  split
  · exact nofun
  · assumption

theorem Tile.aborted_actuator (x : Tile) (e : Nat) : (x.aborted e).actuator ≠ some e := by
  unfold Tile.aborted
  dsimp only
  split
  · exact nofun
  · assumption

theorem Tile.aborted_pointOn (x : Tile) (e : Nat) : (x.aborted e).pointOn ≠ some (8, e) := by
  unfold Tile.aborted
  dsimp only
  split
  · split
    · exact nofun
    next hc =>
      intro h
      cases h
      simp at hc
  · exact nofun

/-! ## Bursts of frames -/

/-- The burst of `n` frames and the next one. -/
theorem burst_append {f : Nat → Output} {l : List Output} {n : Nat} (h : ∀ i, i < n → f i ∈ l) (i : Nat)
    (hi : i < n + 1) : f i ∈ l ++ [f n] := by
  rcases Nat.lt_succ_iff_lt_or_eq.1 hi with hi | rfl
  · exact List.mem_append_left _ (h i hi)
  · exact List.mem_append_right _ (List.mem_singleton.2 rfl)

/-- A tile sends READBACK frames: each carries the codes that the tile held before the first. -/
theorem readback_burst (s : State) (k : Nat) (b : Bool) (n : Nat) :
    ∃ u, (List.range n).foldl (fun s i => s.up k b "READBACK" (readbackPart (s.tile k) i)) s = u ∧
      (u.tile k).held = (s.tile k).held ∧
      ∀ i, i < n → .upFrame k b "READBACK" (readbackPart (s.tile k) i) ∈ u.out := by
  induction n with
  | zero => exact ⟨s, rfl, rfl, fun i hi => absurd hi (Nat.not_lt_zero i)⟩
  | succ n ih =>
    obtain ⟨u, hu, hheld, hout⟩ := ih
    have same : readbackPart (u.tile k) n = readbackPart (s.tile k) n := by
      simp only [readbackPart, Tile.heldCode, hheld]
    obtain ⟨p, hp⟩ := u.up_tile k b "READBACK" (readbackPart (u.tile k) n)
    refine ⟨_, by rw [List.range_succ, List.foldl_append, hu, List.foldl_cons, List.foldl_nil], ?_, ?_⟩
    · rw [hp]
      exact hheld
    · rw [State.up_out, same]
      exact burst_append hout

/-- Frame `j` of a burst of the tile's log (R271): its word is the next free value. -/
def bulkFrame (k : Nat) (b : Bool) (o : Nat) (s : State) (j : Nat) : State :=
  s.draw.2.up k b "BULK" [j, s.draw.1 % 2 ^ 32, b2n (s.draw.2.tile k).withdrawn, o + j]

theorem execBulkPull_eq (k : Nat) (b : Bool) (o n : Nat) (s : State) :
    execBulkPull k b o n s = tileCmd s k b fun s => (List.range n).foldl (bulkFrame k b o) s := rfl

/-- A burst of the log takes one free value per frame; the log is as withdrawn as it was before. -/
theorem bulk_burst (s : State) (k : Nat) (b : Bool) (o n : Nat) :
    ∃ u, (List.range n).foldl (bulkFrame k b o) s = u ∧ (u.tile k).withdrawn = (s.tile k).withdrawn ∧
      u.free = s.free + n ∧
      ∀ j, j < n → .upFrame k b "BULK" [j, Config.freeValue (s.free + j) % 2 ^ 32, b2n (s.tile k).withdrawn, o + j]
        ∈ u.out := by
  induction n with
  | zero => exact ⟨s, rfl, rfl, rfl, fun j hj => absurd hj (Nat.not_lt_zero j)⟩
  | succ n ih =>
    obtain ⟨u, hu, hlog, hfree, hout⟩ := ih
    have drawn : u.draw = (Config.freeValue (s.free + n), { u with free := s.free + n + 1 }) := by
      rw [State.draw, hfree]
    have same : ({ u with free := s.free + n + 1 } : State).tile k = u.tile k := rfl
    obtain ⟨p, hp⟩ := State.up_tile { u with free := s.free + n + 1 } k b "BULK"
      [n, Config.freeValue (s.free + n) % 2 ^ 32, b2n (s.tile k).withdrawn, o + n]
    refine ⟨_, by rw [List.range_succ, List.foldl_append, hu, List.foldl_cons, List.foldl_nil, bulkFrame, drawn, same, hlog],
      ?_, ?_, ?_⟩
    · rw [hp]
      exact hlog
    · rw [State.up_free, Nat.add_assoc]
    · rw [State.up_out]
      exact burst_append hout

end Sys2Proof.Machine

/-! SUPPORT. What follows a command only adds to the output, in any state: the steps of HANDOVER and RESUME_REGION that may
come with it included. -/

namespace Sys2Proof.Safety

open Sys2Proof.Machine

/-! ## Output after a command -/

theorem loseTile_out (s : State) (k : Nat) : (loseTile s k).out = s.out :=
  loseTile_only (.refl _ s) (List.Subset.refl _) k .out (by decide)

theorem resumeStep_out (s : State) : (resumeStep s).out = s.out :=
  resumeStep_only (.refl _ s) (List.Subset.refl _) .out (by decide)

theorem down_out (s : State) (k : Nat) (name : String) (fields : List Nat) : s.out <+: (s.down k name fields).out := by
  unfold State.down
  rw [State.emit_out]
  split <;> exact List.prefix_append ..

theorem releaseTiles_out (s : State) (ks : List Nat) : s.out <+: (releaseTiles s ks).out := by
  refine foldl_out (fun s k => ?_) ks s
  have h := down_out (loseTile s k) k "RELEASE" []
  rwa [loseTile_out] at h

theorem handoverStep_out (s : State) : s.out <+: (handoverStep s).out := by
  have released (u : State) (hu : u.out = (releaseTiles s s.linked).out) (ret : Bool) :
      s.out <+: (sendRole u 3 ret).out := by
    refine (releaseTiles_out s s.linked).trans ?_
    rw [← hu]
    exact List.prefix_append ..
  unfold handoverStep
  split
  · exact List.prefix_refl _
  · split
    · exact released _ rfl _
    · exact released _ rfl _
    · exact List.prefix_refl _

/-- What follows a command only adds to the output, whatever is in progress. -/
theorem after_adds_out (s0 s : State) : s.out <+: (after s0 s).out := by
  have touched : s.out <+: (mirrorTouch s0 (digestTouch s0 (recordTouch (resumeStep (handoverStep s))))).out := by
    have added := mirrorTouch_out s0 (digestTouch s0 (recordTouch (resumeStep (handoverStep s))))
    rw [digestTouch_out, recordTouch_out, resumeStep_out] at added
    exact (handoverStep_out s).trans added
  exact ((((touched.trans (timeNotify_out ..)).trans (peerNotify_out ..)).trans (mateNotify_out ..)).trans
    (regionNotify_out ..)).trans (lsuNotify_out ..)

theorem mem_after_out {s : State} {o : Output} (h : o ∈ s.out) (s0 : State) : o ∈ (after s0 s).out :=
  (after_adds_out s0 s).subset h

/-! ## Commands of a tile's owner -/

section owner
variable {k : Nat} {b : Bool} {s : State}

theorem tileCmd_obeyed (h : (s.tile k).obeys b = true) (f : State → State) :
    tileCmd s k b f = .next (after s (f s)) := by
  rw [tileCmd, if_pos h, ok_next]

/-- A command of the owner that changes the tile alone. -/
theorem tileCmd_changes (h : (s.tile k).obeys b = true) (f : State → Tile → Tile) :
    ∃ t, tileCmd s k b (fun s => s.modTile k (f s)) = .next t ∧ t.tile k = f s (s.tile k) ∧ t.dt = s.dt :=
  ⟨_, tileCmd_obeyed h _, by rw [after_tile, State.modTile_same], by rw [after_dt, State.modTile_dt]⟩

/-- A command of the owner that changes the tile and is answered by CMD_ACK. -/
theorem tileCmd_acks (h : (s.tile k).obeys b = true) (f : Tile → Tile) (opcode : Nat) :
    ∃ t p, tileCmd s k b (fun s => cmdAck (s.modTile k f) k b opcode true 0) = .next t ∧
      t.tile k = (f (s.tile k)).withFar p ∧ .upFrame k b "CMD_ACK" [opcode, 1, 0] ∈ t.out := by
  obtain ⟨p, hp⟩ := (s.modTile k f).up_tile k b "CMD_ACK" [opcode, 1, 0]
  rw [State.modTile_same] at hp
  exact ⟨_, p, tileCmd_obeyed h _, (after_tile ..).trans hp, mem_after_out (State.mem_up_out ..) s⟩

/-! ### Answered by CMD_ACK -/

theorem setClass_gives_class (h : (s.tile k).obeys b = true) (e c : Nat) :
    ∃ t, exec (.setClass k b e c false) s = .next t ∧ tabGet (t.tile k).classes 0 e = c ∧
      (∀ f, f ≠ e → tabGet (t.tile k).classes 0 f = tabGet (s.tile k).classes 0 f) ∧
      .upFrame k b "CMD_ACK" [0x03, 1, 0] ∈ t.out := by
  obtain ⟨t, p, ht, hk, ho⟩ := tileCmd_acks h (fun x => { x with classes := tabSet x.classes e c }) 0x03
  refine ⟨t, ht, ?_⟩
  rw [hk]
  exact ⟨tabGet_tabSet_same .., fun f hf => tabGet_tabSet_other _ _ _ hf, ho⟩

theorem setFast_waits (h : (s.tile k).obeys b = true) (e c : Nat) (f : Bool) :
    ∃ t, exec (.setFast k b e f c) s = .next t ∧
      (t.tile k).mirrorDue = (s.tile k).mirrorDue ++ [(false, e, b2n f, c)] ∧ (t.tile k).fast = (s.tile k).fast := by
  obtain ⟨t, p, ht, hk, -⟩ := tileCmd_acks h
    (fun x => { x with mirrorDue := x.mirrorDue ++ [(false, e, b2n f, c)] }) 0x04
  refine ⟨t, ht, ?_⟩
  rw [hk]
  exact ⟨rfl, rfl⟩

theorem classDiv_waits (h : (s.tile k).obeys b = true) (c d m : Nat) :
    ∃ t, exec (.classDiv k b c d m) s = .next t ∧
      (t.tile k).mirrorDue = (s.tile k).mirrorDue ++ [(true, c, d, m)] ∧ (t.tile k).divs = (s.tile k).divs := by
  obtain ⟨t, p, ht, hk, -⟩ := tileCmd_acks h
    (fun x => { x with mirrorDue := x.mirrorDue ++ [(true, c, d, m)] }) 0x05
  refine ⟨t, ht, ?_⟩
  rw [hk]
  exact ⟨rfl, rfl⟩

theorem shapeLoad_gives_point (h : (s.tile k).obeys b = true) (c p : Nat) (o : Bool) (v : Int) :
    ∃ t, exec (.shapeLoad k b c o p v) s = .next t ∧ (t.tile k).shapePoint c o p = v := by
  obtain ⟨t, q, ht, hk, -⟩ := tileCmd_acks h
    (fun x => { x with shapes := tabSet x.shapes (64 * c + 32 * b2n o + p) v }) 0x06
  refine ⟨t, ht, ?_⟩
  rw [hk]
  exact tabGet_tabSet_same ..

theorem setEpoch_gives_epoch (h : (s.tile k).obeys b = true) (n : Nat) :
    ∃ t, exec (.setEpoch k b n) s = .next t ∧ (t.tile k).epoch = n ∧
      .upFrame k b "CMD_ACK" [0x07, 1, 0] ∈ t.out := by
  obtain ⟨t, p, ht, hk, ho⟩ := tileCmd_acks h (fun x => { x with epoch := n }) 0x07
  refine ⟨t, ht, ?_, ho⟩
  rw [hk]
  rfl

theorem setShare_waits (h : (s.tile k).obeys b = true) (x : Shares) :
    ∃ t, exec (.setShare k b x) s = .next t ∧ (t.tile k).sharesDue = some x ∧
      (t.tile k).shares = (s.tile k).shares := by
  obtain ⟨t, p, ht, hk, -⟩ := tileCmd_acks h (fun y => { y with sharesDue := some x }) 0x08
  refine ⟨t, ht, ?_⟩
  rw [hk]
  exact ⟨rfl, rfl⟩

/-! ### Held without an answer -/

theorem tileAbort_ends (h : (s.tile k).obeys b = true) (e : Nat) :
    ∃ t, exec (.tileAbort k b e) s = .next t ∧ (t.tile k).trial.map (·.1) ≠ some e ∧ (t.tile k).actuator ≠ some e ∧
      (t.tile k).pointOn ≠ some (8, e) ∧ (t.tile k).held = (s.tile k).held := by
  obtain ⟨t, ht, hk, -⟩ := tileCmd_changes h (fun _ x => x.aborted e)
  refine ⟨t, (execTileAbort_eq k b e s).trans ht, ?_⟩
  rw [hk]
  exact ⟨Tile.aborted_trial _ e, Tile.aborted_actuator _ e, Tile.aborted_pointOn _ e, rfl⟩

theorem release_frees_token (h : (s.tile k).obeys b = true) :
    ∃ t, exec (.release k b) s = .next t ∧ t.tile k = { s.tile k with token := .none } := by
  obtain ⟨t, ht, hk, -⟩ := tileCmd_changes h (fun _ x => { x with token := .none })
  exact ⟨t, ht, hk⟩

theorem pointWord_held (h : (s.tile k).obeys b = true) (w : Nat) (v : Word32) :
    ∃ t, exec (.pointWord k b w v) s = .next t ∧
      (t.tile k).pointWords = ((s.tile k).pointWords.filter fun p => p.1 ≠ w) ++ [(w, v)] := by
  obtain ⟨t, ht, hk, -⟩ := tileCmd_changes h
    (fun _ x => { x with pointWords := (x.pointWords.filter fun p => p.1 ≠ w) ++ [(w, v)] })
  exact ⟨t, ht, by rw [hk]⟩

theorem pointGo_starts (h : (s.tile k).obeys b = true) (c e n : Nat) :
    ∃ t, exec (.pointGo k b c e n) s = .next t ∧ (t.tile k).pointOn = some (c, e) ∧
      (c = 8 → (t.tile k).actuator = some e) := by
  obtain ⟨t, ht, hk, -⟩ := tileCmd_changes h
    (fun _ x => { x with pointOn := some (c, e), actuator := if c = 8 then some e else x.actuator })
  refine ⟨t, ht, ?_⟩
  rw [hk]
  exact ⟨rfl, fun hc => if_pos hc⟩

theorem calPoint_tries (h : (s.tile k).obeys b = true) (e d : Nat) :
    ∃ t, exec (.calPoint k b e d) s = .next t ∧ (t.tile k).trial = some (e, d) ∧
      (t.tile k).held = (s.tile k).held := by
  obtain ⟨t, ht, hk, -⟩ := tileCmd_changes h (fun _ x => { x with trial := some (e, d) })
  refine ⟨t, ht, ?_⟩
  rw [hk]
  exact ⟨rfl, rfl⟩

theorem smuBus_connects (h : (s.tile k).obeys b = true) (c : Nat) :
    ∃ t, exec (.smuBus k b c true) s = .next t ∧ (t.tile k).busChannel = some c := by
  obtain ⟨t, ht, hk, -⟩ := tileCmd_changes h (fun _ x => { x with busChannel := some c })
  exact ⟨t, ht, by rw [hk]⟩

theorem smuBus_disconnects (h : (s.tile k).obeys b = true) (c : Nat) :
    ∃ t, exec (.smuBus k b c false) s = .next t ∧ (t.tile k).busChannel ≠ some c := by
  obtain ⟨t, ht, hk, -⟩ := tileCmd_changes h
    (fun _ x => { x with busChannel := if x.busChannel = some c then none else x.busChannel })
  refine ⟨t, ht, ?_⟩
  rw [hk]
  dsimp only
  split
  · exact nofun
  · assumption

theorem tbeaconReceive_sets_time (h : (s.tile k).obeys b = true) {v : Nat} (hv : v < 2 ^ 41) :
    ∃ t, exec (.tbeaconReceive k b v) s = .next t ∧ t.tileTime k = v ∧ t.tileTimed k = true := by
  obtain ⟨t, ht, hk, hdt⟩ := tileCmd_changes h (fun s x => { x with time := v % 2 ^ 41, beaconAt := some s.dt })
  refine ⟨t, ht, ?_, ?_⟩
  · simp only [State.tileTime, hk, hdt, Nat.mod_eq_of_lt hv, Nat.sub_self, Nat.add_zero]
  · simp only [State.tileTimed, hk, hdt, Nat.le_add_right, decide_true]

/-! ### The log -/

theorem bulkPull_sends (h : (s.tile k).obeys b = true) (o n : Nat) :
    ∃ t, exec (.bulkPull k b o n) s = .next t ∧ t.free = s.free + n ∧
      ∀ j, j < n → .upFrame k b "BULK" [j, Config.freeValue (s.free + j) % 2 ^ 32, b2n (s.tile k).withdrawn, o + j]
        ∈ t.out := by
  obtain ⟨u, hu, -, hfree, hout⟩ := bulk_burst s k b o n
  refine ⟨after s u, ?_, (after_free ..).trans hfree, fun j hj => mem_after_out (hout j hj) s⟩
  rw [← hu]
  exact (execBulkPull_eq ..).trans (tileCmd_obeyed h _)

end owner

/-! ## Frames that a tile acts on from either port -/

theorem execClaim_granted {k : Nat} {b : Bool} {s : State} (h : s.grants (s.tile k) b = true) :
    execClaim k b s = .next (after s
      (tellLost ((s.setTile k ((s.tile k).granted b s.dt)).up k b "CMD_ACK" [0x0A, 1, 0]) k)) := if_pos h

theorem claim_granted {k : Nat} {b : Bool} {s : State} (h : s.grants (s.tile k) b = true) :
    ∃ t, exec (.claim k b) s = .next t ∧ (t.tile k).token = portToken b ∧ .upFrame k b "CMD_ACK" [0x0A, 1, 0] ∈ t.out ∧
      (t.tile k).held = (s.tile k).held := by
  obtain ⟨p, hu⟩ := (s.setTile k ((s.tile k).granted b s.dt)).up_tile k b "CMD_ACK" [0x0A, 1, 0]
  obtain ⟨l, q, hk⟩ := tellLost_tile ((s.setTile k ((s.tile k).granted b s.dt)).up k b "CMD_ACK" [0x0A, 1, 0]) k
  rw [hu, State.setTile_same] at hk
  refine ⟨_, execClaim_granted h, ?_, mem_after_out ((tellLost_out ..).subset (State.mem_up_out ..)) s, ?_⟩
  · rw [after_tile, hk]
    rfl
  · rw [after_tile, hk]
    exact Tile.granted_held ..

theorem claim_refused {k : Nat} {b : Bool} {s : State} (h : s.grants (s.tile k) b = false) :
    ∃ t, exec (.claim k b) s = .next t ∧ (t.tile k).token = (s.tile k).token ∧
      .upFrame k b "CMD_ACK" [0x0A, 0, 0] ∈ t.out := by
  have ht : exec (.claim k b) s = .next (after s (s.up k b "CMD_ACK" [0x0A, 0, 0])) := if_neg (by simp [h])
  obtain ⟨p, hp⟩ := s.up_tile k b "CMD_ACK" [0x0A, 0, 0]
  refine ⟨_, ht, ?_, mem_after_out (State.mem_up_out ..) s⟩
  rw [after_tile, hp]
  rfl

theorem readbackReq_answers (k : Nat) (b : Bool) (s : State) :
    ∃ t, exec (.readbackReq k b) s = .next t ∧
      ∀ i, i < 16 → .upFrame k b "READBACK" (readbackPart (s.tile k) i) ∈ t.out := by
  obtain ⟨u, hu, -, hout⟩ := readback_burst s k b 16
  exact ⟨after s u, by rw [← hu]; rfl, fun i hi => mem_after_out (hout i hi) s⟩

theorem hbeatTileRelay_relays {k : Nat} {s : State} (h : (s.link k).state = .active) (b : Bool) (w : Word32) :
    ∃ t, exec (.hbeatTileRelay k b w) s = .next t ∧ .upFrame k (!b) "HBEAT" [1, b2n b, w.toNat] ∈ t.out ∧
      (if b then (t.tile k).hbeatB else (t.tile k).hbeatA) = some s.dt := by
  have ht : exec (.hbeatTileRelay k b w) s = .next (after s
      ((s.modTile k fun x => x.beat b (some s.dt)).up k (!b) "HBEAT" [1, b2n b, w.toNat])) := if_neg (by simp [h])
  obtain ⟨p, hp⟩ := (s.modTile k fun x => x.beat b (some s.dt)).up_tile k (!b) "HBEAT" [1, b2n b, w.toNat]
  refine ⟨_, ht, mem_after_out (State.mem_up_out ..) s, ?_⟩
  rw [after_tile, hp, State.modTile_same]
  exact Tile.beat_read ..

/-! ## What time brings at a tile -/

theorem tbeaconLoss_forgets {k : Nat} {s : State} (h : s.tileTimed k = false) :
    ∃ t, exec (.tbeaconLoss k) s = .next t ∧ t.tile k = { s.tile k with beaconAt := none } := by
  have ht : exec (.tbeaconLoss k) s = .next (after s (s.modTile k fun x => { x with beaconAt := none })) :=
    if_neg (by simp [h])
  exact ⟨_, ht, by rw [after_tile, State.modTile_same]⟩

theorem ownerHbeatExpire_opens {k : Nat} {s : State} (htoken : (s.tile k).token ≠ .none)
    (hsilent : s.ownerSilent (s.tile k) = true) :
    ∃ t, exec (.ownerHbeatExpire k) s = .next t ∧ t.tile k = (s.tile k).beat (s.tile k).ownerPort none ∧
      (∀ b, t.grants (t.tile k) b = true) ∧ (t.tile k).token = (s.tile k).token := by
  have ht : exec (.ownerHbeatExpire k) s =
      .next (after s (s.setTile k ((s.tile k).beat (s.tile k).ownerPort none))) := if_pos (by simp [htoken, hsilent])
  refine ⟨_, ht, ?_⟩
  rw [after_tile, State.setTile_same]
  exact ⟨rfl, fun b => by simp [State.grants, State.ownerSilent_beat_none], Tile.beat_token ..⟩

/-- Settles O48, clause by clause: an owner's command goes through `tileCmd`, and what follows it changes nothing of the
tile and takes back none of the tile's frames. -/
theorem tileCommandRowsComplete : Obligations.TileCommandRowsComplete := by
  unfold Obligations.TileCommandRowsComplete
  exact ⟨fun _ e c _ _ h => setClass_gives_class h e c,
    fun _ e c f _ _ h => setFast_waits h e c f,
    fun _ c d m _ _ h => classDiv_waits h c d m,
    fun _ c p o _ v _ h _ => shapeLoad_gives_point h c p o v,
    fun _ n _ _ h => setEpoch_gives_epoch h n,
    fun _ x _ _ h => setShare_waits h x,
    fun _ e _ _ h => tileAbort_ends h e,
    fun _ _ _ h => claim_granted h,
    fun _ _ _ h => claim_refused h,
    fun _ _ _ h => release_frees_token h,
    fun _ o n _ _ h => bulkPull_sends h o n,
    fun _ w v _ _ h => pointWord_held h w v,
    fun _ c e n _ _ h => pointGo_starts h c e n,
    fun _ e d _ _ h => calPoint_tries h e d,
    fun _ c _ _ h => ⟨smuBus_connects h c, smuBus_disconnects h c⟩,
    fun k b s => readbackReq_answers k b s,
    fun _ _ _ _ h hv => tbeaconReceive_sets_time h hv,
    fun _ _ h => tbeaconLoss_forgets h,
    fun _ b w _ h => hbeatTileRelay_relays h b w,
    fun _ _ htoken hsilent => ownerHbeatExpire_opens htoken hsilent⟩

end Sys2Proof.Safety

/-! SUPPORT. The verbs of elements and pins: what a verb leaves that waits for a sample boundary (R121, R176), and one that
ends after it changed pins (R131). -/

namespace Sys2Proof.Safety

open Sys2Proof.Machine

/-! ## Waiting for an element's sample boundary -/

theorem exec_retireElement {s : State} {h : Hdr} {e : Nat} (ha : Accepts s h 0x22 (.retireElement h e))
    (hplaced : s.img.placedEid e = true) (hst : (s.elem e).st ≠ .retired) :
    exec (.retireElement h e) s =
      .next (after s (waitBoundary s h 0x22 e fun x => { x with events := x.events ++ [.retire] })) := by
  change execRetireElement h e s = _
  rw [execRetireElement, verb_accepts ha, if_neg (by simp [hplaced]), if_neg (by simp [hst])]

theorem exec_restoreElement {s : State} {h : Hdr} {e : Nat} (ha : Accepts s h 0x23 (.restoreElement h e))
    (hplaced : s.img.placedEid e = true) :
    exec (.restoreElement h e) s =
      .next (after s (waitBoundary s h 0x23 e fun x => { x with events := x.events ++ [.restore] })) := by
  change execRestoreElement h e s = _
  rw [execRestoreElement, verb_accepts ha, if_neg (by simp [hplaced])]

theorem exec_elementTrim {s : State} {h : Hdr} {e : Nat} {reset : Bool} {on off : Int}
    (ha : Accepts s h 0x2A (.elementTrim h reset e on off)) (hplaced : s.img.placedEid e = true) :
    exec (.elementTrim h reset e on off) s = .next (after s (waitBoundary s h 0x2A e fun x =>
      { x with newTrims := some (on, off, reset || x.newTrims.any (·.2.2)) })) := by
  change execElementTrim h reset e on off s = _
  rw [execElementTrim, verb_accepts ha, if_neg (by simp [hplaced])]

/-- A verb that has begun to wait for element `e`'s boundary: the element holds what is asked for there, the verb stands
among those that wait, and none has ended. -/
theorem after_waitBoundary {s : State} (hq : Quiet s) (h : Hdr) (op e : Nat) (f : Elem → Elem) :
    (after s (waitBoundary s h op e f)).elem e = f (s.elem e) ∧
      (∀ k, k ≠ e → (after s (waitBoundary s h op e f)).elem k = s.elem k) ∧
      (after s (waitBoundary s h op e f)).loops.waits = s.loops.waits ++ [(e, h, op)] ∧
      (after s (waitBoundary s h op e f)).host.issues = s.host.issues := by
  obtain ⟨hh, hr⟩ : Quiet (waitBoundary s h op e f) := hq
  exact ⟨(after_elem hh hr s e).trans (s.modElem_same e f),
    fun k hk => (after_elem hh hr s k).trans (s.modElem_other e f hk),
    after_loops_field (·.waits) (fun _ => rfl) s _, after_issues hh hr s⟩

/-- Settles O17: each of the three verbs passes its own checks and then waits for the element's boundary. -/
theorem elementVerbsWaitForBoundary : Obligations.ElementVerbsWaitForBoundary := by
  unfold Obligations.ElementVerbsWaitForBoundary
  exact fun h e s hq hplaced =>
    ⟨fun ha hst => ⟨_, exec_retireElement ha hplaced hst, after_waitBoundary hq h 0x22 e _⟩,
      fun ha => ⟨_, exec_restoreElement ha hplaced, after_waitBoundary hq h 0x23 e _⟩,
      fun _ _ _ ha => ⟨_, exec_elementTrim ha hplaced, after_waitBoundary hq h 0x2A e _⟩⟩

/-! ## HOST pins -/

theorem hostPins_elem_mem {es : List Nat} {e : Nat} (he : e ∈ es) (s : State) (t : Nat) :
    (hostPins s es t).elem e = { s.elem e with hostPin := some (max t ((s.elem e).hostPin.getD 0)) } :=
  (hostPins_elem s es t e).trans (if_pos he)

theorem hostPins_elem_not_mem {es : List Nat} {e : Nat} (he : e ∉ es) (s : State) (t : Nat) :
    (hostPins s es t).elem e = s.elem e :=
  (hostPins_elem s es t e).trans (if_neg he)

theorem hostPins_sent (s : State) (es : List Nat) (t k : Nat) : (hostPins s es t).sent k = s.sent k := by
  have hstore : (hostPins s es t).store = s.store :=
    hostPins_only (.refl [.elems] s) (List.Subset.refl _) es t .store (by decide)
  simp only [State.sent, hstore]

/-- The elements `es` without their HOST reason. -/
def dropHostPins (s : State) (es : List Nat) : State :=
  es.foldl (fun (s : State) e => s.modElem e fun x => { x with hostPin := none }) s

theorem dropHostPins_elem (s : State) (es : List Nat) (e : Nat) :
    (dropHostPins s es).elem e = if e ∈ es then { s.elem e with hostPin := none } else s.elem e :=
  elem_foldl_modElem (fun x => { x with hostPin := none }) (fun _ => rfl) es s e

theorem dropHostPins_only (s : State) (es : List Nat) : Only [.store, .elems] s (dropHostPins s es) :=
  modElems_only (.refl _ s) (by decide) _ es

/-! ## PIN and UNPIN -/

theorem exec_pin_range {s : State} {h : Hdr} {first n ms : Nat} (ha : Accepts s h 0x20 (.pin h false first n ms))
    (hplaced : ∀ e ∈ pinRange first n, s.img.placedEid e = true)
    (htotal : (s.hostPinned.filter fun e => !(pinRange first n).contains e).length + (pinRange first n).length ≤ 16384)
    (hfit : s.pinsFit (pinRange first n) = true) :
    exec (.pin h false first n ms) s =
      .next (after s ((hostPins s (pinRange first n) (s.dt + ms * msTicks)).complete h 0x20 0 0)) := by
  have placed : ¬ (!(pinRange first n).all s.img.placedEid) = true := by simpa using hplaced
  have room : ¬ (decide (16384 < (s.hostPinned.filter fun e => !(pinRange first n).contains e).length +
      (pinRange first n).length) || !s.pinsFit (pinRange first n)) = true := by
    rw [hfit, Bool.not_true, Bool.or_false, decide_eq_true_eq]
    exact Nat.not_lt.mpr htotal
  change execPin h false first n ms s = _
  rw [execPin, verb_accepts ha, if_neg Bool.false_ne_true, if_neg placed, if_neg room, stSuccess]

theorem exec_pin_sentence {s : State} {h : Hdr} {hd n ms : Nat} (ha : Accepts s h 0x20 (.pin h true hd n ms))
    (hstate : (s.sent hd).state ≠ .free) (hfit : s.pinsFit (s.pinnedOf hd) = true) :
    exec (.pin h true hd n ms) s = .next (after s (((hostPins s (s.pinnedOf hd) (s.dt + ms * msTicks)).setSent hd
      { s.sent hd with pinExpiry := some (max (s.dt + ms * msTicks) ((s.sent hd).pinExpiry.getD 0)) }).complete
        h 0x20 0 0)) := by
  change execPin h true hd n ms s = _
  rw [execPin, verb_accepts ha, if_pos rfl, if_neg (by simp [hstate]), if_neg (by simp [hfit]), stSuccess]

theorem exec_unpin_range {s : State} {h : Hdr} {first n : Nat} (ha : Accepts s h 0x21 (.unpin h false first n))
    (hplaced : ∀ e ∈ pinRange first n, s.img.placedEid e = true) :
    exec (.unpin h false first n) s =
      .next (after s ((dropHostPins s (pinRange first n)).complete h 0x21 0 0)) := by
  have placed : ¬ (!(pinRange first n).all s.img.placedEid) = true := by simpa using hplaced
  change execUnpin h false first n s = _
  rw [execUnpin, verb_accepts ha, if_neg Bool.false_ne_true, if_neg placed, stSuccess, dropHostPins]

/-- A verb that changed only elements and sentences, to those of `s1`, and ended leaves exactly them and its
completion. -/
theorem after_complete {s s1 : State} (hq : Quiet s) (hs1 : Only [.store, .elems] s s1) (h : Hdr) (op st r : Nat) :
    (∀ e, (after s (s1.complete h op st r)).elem e = s1.elem e) ∧
      (∀ k, (after s (s1.complete h op st r)).sent k = s1.sent k) ∧
      VerbEnds s (after s (s1.complete h op st r)) h op st r := by
  have hh : (s1.complete h op st r).mate.handover = .none := by
    rw [State.complete_mate]
    exact (hs1 .handover (by decide)).trans hq.1
  have hr : (s1.complete h op st r).faults.resumes = [] := by
    rw [State.complete_faults]
    exact (hs1 .resumes (by decide)).trans hq.2
  refine ⟨fun e => ?_, fun k => ?_, verbEnds_after hs1 hq (by decide) (by decide) (by decide) (by decide) h op st r⟩
  · rw [after_elem hh hr, State.elem, State.complete_loops, State.elem]
  · rw [after_sent, State.sent, State.complete_store, State.sent]

section pins
variable {s : State} {h : Hdr} (hq : Quiet s)
include hq

theorem pin_range_pins {first n ms : Nat} (ha : Accepts s h 0x20 (.pin h false first n ms))
    (hplaced : ∀ e ∈ pinRange first n, s.img.placedEid e = true)
    (htotal : (s.hostPinned.filter fun e => !(pinRange first n).contains e).length + (pinRange first n).length ≤ 16384)
    (hfit : s.pinsFit (pinRange first n) = true) :
    ∃ t, exec (.pin h false first n ms) s = .next t ∧ (∀ e, e ∉ pinRange first n → t.elem e = s.elem e) ∧
      (∀ e ∈ pinRange first n, t.elem e =
        { s.elem e with hostPin := some (max (s.dt + ms * msTicks) ((s.elem e).hostPin.getD 0)) }) ∧
      VerbEnds s t h 0x20 0 0 := by
  obtain ⟨helem, -, hend⟩ := after_complete hq
    (hostPins_only (.refl _ s) (by decide) (pinRange first n) (s.dt + ms * msTicks)) h 0x20 0 0
  exact ⟨_, exec_pin_range ha hplaced htotal hfit, fun e he => (helem e).trans (hostPins_elem_not_mem he ..),
    fun e he => (helem e).trans (hostPins_elem_mem he ..), hend⟩

theorem unpin_range_unpins {first n : Nat} (ha : Accepts s h 0x21 (.unpin h false first n))
    (hplaced : ∀ e ∈ pinRange first n, s.img.placedEid e = true) :
    ∃ t, exec (.unpin h false first n) s = .next t ∧ (∀ e, e ∉ pinRange first n → t.elem e = s.elem e) ∧
      (∀ e ∈ pinRange first n, t.elem e = { s.elem e with hostPin := none }) ∧ VerbEnds s t h 0x21 0 0 := by
  obtain ⟨helem, -, hend⟩ := after_complete hq (dropHostPins_only s (pinRange first n)) h 0x21 0 0
  have dropped (e : Nat) := (helem e).trans (dropHostPins_elem s (pinRange first n) e)
  exact ⟨_, exec_unpin_range ha hplaced, fun e he => (dropped e).trans (if_neg he),
    fun e he => (dropped e).trans (if_pos he), hend⟩

theorem pin_sentence_pins {hd n ms : Nat} (ha : Accepts s h 0x20 (.pin h true hd n ms))
    (hstate : (s.sent hd).state ≠ .free) (hfit : s.pinsFit (s.pinnedOf hd) = true) :
    ∃ t, exec (.pin h true hd n ms) s = .next t ∧
      t.sent hd = { s.sent hd with pinExpiry := some (max (s.dt + ms * msTicks) ((s.sent hd).pinExpiry.getD 0)) } ∧
      (∀ k, k ≠ hd → t.sent k = s.sent k) ∧ (∀ e, e ∉ s.pinnedOf hd → t.elem e = s.elem e) ∧
      VerbEnds s t h 0x20 0 0 := by
  obtain ⟨helem, hsent, hend⟩ := after_complete hq (State.setSent_only
    (hostPins_only (.refl _ s) (by decide) (s.pinnedOf hd) (s.dt + ms * msTicks)) (by decide) hd _) h 0x20 0 0
  exact ⟨_, exec_pin_sentence ha hstate hfit, (hsent hd).trans (State.setSent_same ..),
    fun k hk => (hsent k).trans ((State.setSent_other _ _ _ hk).trans (hostPins_sent ..)),
    fun e he => (helem e).trans (hostPins_elem_not_mem he ..), hend⟩

end pins

/-- Settles O19, clause by clause: PIN of a range, UNPIN of a range, PIN of a sentence. -/
theorem pinVerbsComplete : Obligations.PinVerbsComplete := by
  unfold Obligations.PinVerbsComplete
  exact ⟨fun _ _ _ _ _ hq => pin_range_pins hq, fun _ _ _ _ hq => unpin_range_unpins hq,
    fun _ _ _ _ _ hq => pin_sentence_pins hq⟩

end Sys2Proof.Safety

/-! SUPPORT. The verbs of classes and of the journal (R150, R176): what a verb leaves that waits for its data from host
memory, a class whose swap is pending, and the copy of journal entries. -/

namespace Sys2Proof.Safety

open Sys2Proof.Machine

/-! ## Waiting for data from host memory -/

/-- A verb that has asked for its data from host memory: the read is out, the verb stands among those that wait for data,
and none has ended. -/
theorem after_hostRead {s : State} (hq : Quiet s) (h : Hdr) (c : Instr) (addr len : Nat) (ns : Bool) :
    Gives s (after s (hostRead s h c addr len ns)) [.hostRead addr len ns] ∧
      (after s (hostRead s h c addr len ns)).hostOps = s.hostOps ++ [{ hdr := h, verb := c }] ∧
      (after s (hostRead s h c addr len ns)).host.issues = s.host.issues := by
  obtain ⟨hh, hr⟩ : Quiet (hostRead s h c addr len ns) := hq
  exact ⟨after_adds_out s (hostRead s h c addr len ns), after_hostOps .., after_issues hh hr s⟩

theorem exec_classLoad {s : State} {h : Hdr} {k b a : Nat} (ha : Accepts s h 0x28 (.classLoad h k b a))
    (hidle : (s.cls k).activeB ≠ (b == 1)) (hswap : (s.cls k).swapPending = false) :
    exec (.classLoad h k b a) s = .next (after s (hostRead s h (.classLoad h k b a) a 128 false)) := by
  change execClassLoad h k b a s = _
  rw [execClassLoad, verb_accepts ha, if_neg (by simp [hidle, hswap])]

/-! ## A swap of a class's banks -/

theorem exec_classSwap {s : State} {h : Hdr} {k : Nat} (ha : Accepts s h 0x29 (.classSwap h k))
    (hswap : (s.cls k).swapPending = false) :
    exec (.classSwap h k) s = .next (after s
      (s.setCls k { s.cls k with swapPending := true, swapDue := true, swapper := some h })) := by
  change execClassSwap h k s = _
  rw [execClassSwap, verb_accepts ha, if_neg (by simp [hswap])]

/-- A class that has been written: the other classes stand, and no verb has ended. -/
theorem after_setCls {s : State} (hq : Quiet s) (k : Nat) (c : ClassState) :
    (after s (s.setCls k c)).cls k = c ∧ (∀ j, j ≠ k → (after s (s.setCls k c)).cls j = s.cls j) ∧
      (after s (s.setCls k c)).host.issues = s.host.issues := by
  obtain ⟨hh, hr⟩ : Quiet (s.setCls k c) := hq
  exact ⟨(after_cls s _ k).trans (s.setCls_same k c), fun j hj => (after_cls s _ j).trans (s.setCls_other k c hj),
    after_issues hh hr s⟩

/-! ## A copy of the journal -/

/-- The journal's entries of a tile for `n` milliseconds from `ms` on, in the order in which they stand in host memory. -/
def journalEntries (s : State) (tile ms n : Nat) : Nat :=
  (List.range n).foldr (fun k m => s.journalEntry tile (ms + k) + 2 ^ 16896 * m) 0

/-- The frozen ranges of the journal once the slots of `n` milliseconds from `ms` on have been copied. -/
def frozenAfterCopy (s : State) (release : Bool) (ms n : Nat) : List (Nat × Nat) :=
  if release then (List.range n).foldl (fun l k => cutRange (s.journalSlot (ms + k)) l) s.loops.journal.frozen
  else s.loops.journal.frozen

/-- The state once JOURNAL_COPY has written its entries, before it ends. -/
def journalCopied (s : State) (release : Bool) (tile ms n a : Nat) : State :=
  { s.emit (.hostWrite a (2112 * n) (journalEntries s tile ms n)) with
    loops := { s.loops with journal := { s.loops.journal with frozen := frozenAfterCopy s release ms n } } }

theorem journalCopied_only (s : State) (release : Bool) (tile ms n a : Nat) :
    Only [.out, .loops] s (journalCopied s release tile ms n a) :=
  .set_loops (.inl (by decide)) (.inr rfl) (State.emit_only (.refl _ s) (by decide) _)

theorem exec_journalCopy {s : State} {h : Hdr} {release : Bool} {tile ms n a : Nat}
    (ha : Accepts s h 0x2B (.journalCopy h release tile ms n a)) (hplaced : s.img.placed tile = true)
    (hmaster : s.canMaster = true) :
    exec (.journalCopy h release tile ms n a) s =
      .next (after s ((journalCopied s release tile ms n a).complete h 0x2B 0 0)) := by
  change execJournalCopy h release tile ms n a s = _
  rw [execJournalCopy, verb_accepts ha, if_neg (by simp [hplaced]), if_neg (by simp [hmaster])]
  rfl

/-- What a finished JOURNAL_COPY leaves: one write of its entries, every frame, and its completion. -/
theorem after_journalCopied {s : State} (hq : Quiet s) (h : Hdr) (release : Bool) (tile ms n a : Nat) :
    let t := after s ((journalCopied s release tile ms n a).complete h 0x2B 0 0)
    Gives s t [.hostWrite a (2112 * n) (journalEntries s tile ms n)] ∧
      t.loops.journal.frames = s.loops.journal.frames ∧
      t.loops.journal.frozen = frozenAfterCopy s release ms n ∧ VerbEnds s t h 0x2B 0 0 := by
  have hout := after_adds_out s ((journalCopied s release tile ms n a).complete h 0x2B 0 0)
  rw [State.complete_out] at hout
  have hjournal : (after s ((journalCopied s release tile ms n a).complete h 0x2B 0 0)).loops.journal =
      (journalCopied s release tile ms n a).loops.journal :=
    (after_loops_field (·.journal) (fun _ => rfl) s _).trans (by rw [State.complete_loops])
  exact ⟨hout, by rw [hjournal]; rfl, by rw [hjournal]; rfl,
    verbEnds_after (journalCopied_only s release tile ms n a) hq (by decide) (by decide) (by decide) (by decide) h 0x2B 0 0⟩

theorem journalCopy_writes_entries {s : State} {h : Hdr} {release : Bool} {tile ms n a : Nat} (hq : Quiet s)
    (ha : Accepts s h 0x2B (.journalCopy h release tile ms n a)) (hplaced : s.img.placed tile = true)
    (hmaster : s.canMaster = true) :
    ∃ t, exec (.journalCopy h release tile ms n a) s = .next t ∧
      Gives s t [.hostWrite a (2112 * n) (journalEntries s tile ms n)] ∧
      t.loops.journal.frames = s.loops.journal.frames ∧
      (release = false → t.loops.journal.frozen = s.loops.journal.frozen) ∧ VerbEnds s t h 0x2B 0 0 := by
  obtain ⟨hgives, hframes, hfrozen, hend⟩ := after_journalCopied hq h release tile ms n a
  exact ⟨_, exec_journalCopy ha hplaced hmaster, hgives, hframes, fun hkept => by rw [hfrozen, hkept]; rfl, hend⟩

/-- Settles O18, clause by clause: CLASS_LOAD asks for its record, CLASS_SWAP marks its class, JOURNAL_COPY writes and
ends. -/
theorem classAndJournalVerbsComplete : Obligations.ClassAndJournalVerbsComplete := by
  unfold Obligations.ClassAndJournalVerbsComplete
  exact ⟨fun h k b a _ hq ha hidle hswap => ⟨_, exec_classLoad ha hidle hswap, after_hostRead hq h _ a 128 false⟩,
    fun _ k _ hq ha hswap => ⟨_, exec_classSwap ha hswap, after_setCls hq k _⟩,
    fun _ _ _ _ _ _ _ hq ha hplaced hmaster => journalCopy_writes_entries hq ha hplaced hmaster⟩

end Sys2Proof.Safety

/-! SUPPORT. Launches, slots and codes at a tile (R153, R253 to R255, R258): the time a COMMIT names, what a slot entry and
a latch change of the tile, the end of a shape, the entries of a slot and the codes of a comma. -/

namespace Sys2Proof.Machine

/-! ## The launch time of a COMMIT (R254) -/

/-- The ticks from a tile's time `now` to the first tick that ends in `time`. -/
def ticksUntil (now time : Nat) : Nat := (time + 65536 - now % 65536) % 65536

theorem add_ticksUntil_mod (now time : Nat) : (now + ticksUntil now time) % 65536 = time % 65536 := by
  unfold ticksUntil
  omega

theorem mod_ne_of_lt_ticksUntil {now time u : Nat} (hu : u < ticksUntil now time) :
    (now + u) % 65536 ≠ time % 65536 := by
  unfold ticksUntil at hu
  omega

/-! ## The launch at the tile (R255) -/

/-- The shape that a launch starts on element `e` towards `d1`, from the code that the tile holds. -/
def Tile.shapeFromHeld (x : Tile) (tick e d1 : Nat) : Playing :=
  { elem := e, start := tick, d0 := x.heldCode e, d1, off := decide (d1 < x.heldCode e), cls := tabGet x.classes 0 e }

/-- The tile after a slot entry that acts while no shape plays: the element's serial and tick are the launch's, its shape
plays, and a trial or the actuator path on it is given up. -/
def Tile.entryActed (x : Tile) (serial : Serial) (tick e d1 : Nat) : Tile := { x with
  serials := tabSet x.serials e (some (serial, tick))
  playing := [x.shapeFromHeld tick e d1]
  trial := if (x.trial.map (·.1)) = some e then none else x.trial
  actuator := if x.actuator = some e then none else x.actuator }

theorem applyEntry_acts {s : State} {k tick e : Nat} {serial : Serial} (hidle : (s.tile k).playing = [])
    (hnew : actsOver serial tick (tabGet (s.tile k).serials none e) = true) (d : Nat) :
    applyEntry k serial tick s (e, d) = s.setTile k ((s.tile k).entryActed serial tick e (64 * d)) := by
  rw [applyEntry, if_pos hnew, hidle]
  rfl

theorem applyEntry_stale {s : State} {k tick e : Nat} {serial : Serial}
    (hold : actsOver serial tick (tabGet (s.tile k).serials none e) = false) (d : Nat) :
    applyEntry k serial tick s (e, d) = s :=
  if_neg (by simp [hold])

/-- Of two entries the newer one acts, and the other finds its element's serial as it was. -/
theorem applyEntries_first_acts {s : State} {k tick e0 e1 : Nat} {serial : Serial} (hne : e0 ≠ e1)
    (hidle : (s.tile k).playing = [])
    (hnew : actsOver serial tick (tabGet (s.tile k).serials none e0) = true)
    (hold : actsOver serial tick (tabGet (s.tile k).serials none e1) = false) (d0 d1 : Nat) :
    [(e0, d0), (e1, d1)].foldl (applyEntry k serial tick) s =
      s.setTile k ((s.tile k).entryActed serial tick e0 (64 * d0)) := by
  rw [List.foldl_cons, List.foldl_cons, List.foldl_nil, applyEntry_acts hidle hnew]
  refine applyEntry_stale ?_ d1
  rw [State.setTile_same]
  exact (congrArg _ (tabGet_tabSet_other _ _ _ hne.symm)).trans hold

/-- The tile `y` after a launch that it took as `x`: it waits for that launch no more, and LAST_SERIAL follows. -/
def Tile.launchEnded (x y : Tile) (serial : Serial) (tick : Nat) : Tile := { y with
  launches := y.launches.filter fun l => l.1 ≠ serial
  lastSerial := if actsOver serial tick (x.lastSerialAt.map fun u => (x.lastSerial, u)) then serial else x.lastSerial
  lastSerialAt := if actsOver serial tick (x.lastSerialAt.map fun u => (x.lastSerial, u)) then some tick
                  else x.lastSerialAt }

/-- The tile after the shape of element `e` has ended at drive `d` (R153). -/
def Tile.shapeEnded (x : Tile) (e d : Nat) : Tile := { x with
  held := tabSet x.held e d
  playing := x.playing.filter fun q => q.elem ≠ e }

/-- A frame from one tile changes nothing of another. -/
theorem State.up_tile_other (s : State) {k m : Nat} (hm : m ≠ k) (b : Bool) (name : String) (fields : List Nat) :
    (s.up k b name fields).tile m = s.tile m := by
  unfold State.up
  split
  · rfl
  · exact (State.emit_tile ..).trans (s.modTile_other k _ hm)

/-! ## CMD_ACK and EVENT frames (R253, R399) -/

/-- CMD_ACK changes nothing of the tile but its end of the link. -/
theorem cmdAck_tile (s : State) (k : Nat) (b : Bool) (opcode : Nat) (good : Bool) (slot : Nat) :
    ∃ p, (cmdAck s k b opcode good slot).tile k = (s.tile k).withFar p := s.up_tile ..

/-- An EVENT frame changes nothing of the tile but its end of the link. -/
theorem tileEvent_tile (s : State) (k : Nat) (fields : List Nat) :
    ∃ p, (tileEvent s k fields).tile k = (s.tile k).withFar p := by
  unfold tileEvent
  dsimp only
  split
  · obtain ⟨p, hp⟩ := s.up_tile k (s.link k).portB "EVENT" fields
    obtain ⟨q, hq⟩ := (s.up k (s.link k).portB "EVENT" fields).up_tile k (!(s.link k).portB) "EVENT" fields
    exact ⟨q, hq.trans (by rw [hp]; rfl)⟩
  · exact s.up_tile ..

theorem mem_tileEvent_out (s : State) (k : Nat) (fields : List Nat) :
    .upFrame k (!(s.link k).portB) "EVENT" fields ∈ (tileEvent s k fields).out := State.mem_up_out ..

/-! ## The gap of R410 -/

/-- The end of a gap is no matter of the codes that the tile holds or has due. -/
theorem noteGap_tile (s : State) (k t : Nat) :
    (noteGap s k t).tile k = { s.tile k with driveAt := t, gapOpen := false } := by
  unfold noteGap
  dsimp only
  split <;> exact s.setTile_same k _

end Sys2Proof.Machine

namespace Sys2Proof.Safety

open Sys2Proof.Machine

/-! ## COMMIT and latch -/

section owner
variable {k : Nat} {b : Bool} {s : State}

theorem exec_tileCommitReceive (h : (s.tile k).obeys b = true) (n : Serial) (j v : Nat) :
    exec (.tileCommitReceive k b n j v) s = .next (after s
      (if s.tileTimed k && ticksUntil (s.tileTime k) v ≤ 32768 then
        s.modTile k fun x => { x with launches := x.launches ++ [(n, j, s.dt + ticksUntil (s.tileTime k) v)] }
      else s.up k b "COMMIT" [n.toNat, 0])) := by
  change execTileCommitReceive k b n j v s = _
  rw [execTileCommitReceive, tileCmd_obeyed h]
  rfl

theorem tileCommitReceive_waits (h : (s.tile k).obeys b = true) (n : Serial) (j v : Nat)
    (htimed : s.tileTimed k = true) (hnear : ticksUntil (s.tileTime k) v ≤ 32768) :
    ∃ t, exec (.tileCommitReceive k b n j v) s = .next t ∧
      t.tile k = { s.tile k with launches := (s.tile k).launches ++
        [(n, j, s.dt + ticksUntil (s.tileTime k) v)] } ∧ ∀ m, m ≠ k → t.tile m = s.tile m := by
  refine ⟨_, exec_tileCommitReceive h n j v, ?_⟩
  rw [if_pos (by simp [htimed, hnear])]
  exact ⟨(after_tile ..).trans (State.modTile_same ..),
    fun m hm => (after_tile s _ m).trans (State.modTile_other _ _ _ hm)⟩

theorem tileCommitReceive_misses (h : (s.tile k).obeys b = true) (n : Serial) (j v : Nat)
    (hmiss : s.tileTimed k = false ∨ 32768 < ticksUntil (s.tileTime k) v) :
    ∃ t, exec (.tileCommitReceive k b n j v) s = .next t ∧ (t.tile k).launches = (s.tile k).launches ∧
      (t.tile k).held = (s.tile k).held ∧ .upFrame k b "COMMIT" [n.toNat, 0] ∈ t.out := by
  have hlate : ¬ (s.tileTimed k && decide (ticksUntil (s.tileTime k) v ≤ 32768)) = true := by
    rw [Bool.and_eq_true, decide_eq_true_eq]
    rintro ⟨htimed, hnear⟩
    rcases hmiss with hloss | hfar
    · exact Bool.false_ne_true (hloss.symm.trans htimed)
    · exact Nat.not_lt.2 hnear hfar
  obtain ⟨p, hp⟩ := s.up_tile k b "COMMIT" [n.toNat, 0]
  refine ⟨_, exec_tileCommitReceive h n j v, ?_⟩
  rw [if_neg hlate, after_tile, hp]
  exact ⟨rfl, rfl, mem_after_out (State.mem_up_out ..) s⟩

end owner

theorem exec_tileLatch {k j tick : Nat} {n : Serial} {s : State}
    (hdue : (s.tile k).launches.find? (fun l => l.1 = n && l.2.2 ≤ s.dt) = some (n, j, tick)) :
    exec (.tileLatch k n) s = .next (after s
      ((((tabGet (s.tile k).slots [] j).foldl (applyEntry k n tick) s).modTile k fun y =>
        (s.tile k).launchEnded y n tick).up k (s.tile k).ownerPort "COMMIT" [n.toNat, 1])) := by
  change execTileLatch k n s = _
  unfold execTileLatch
  dsimp only
  rw [hdue]
  rfl

/-- A latch with two entries, the first of which is newer than its element's serial. -/
theorem tileLatch_acts {k j e0 d0 e1 d1 tick : Nat} {n : Serial} {s : State}
    (hdue : (s.tile k).launches.find? (fun l => l.1 = n && l.2.2 ≤ s.dt) = some (n, j, tick))
    (hslot : tabGet (s.tile k).slots [] j = [(e0, d0), (e1, d1)]) (hne : e0 ≠ e1) (hidle : (s.tile k).playing = [])
    (hnew : actsOver n tick (tabGet (s.tile k).serials none e0) = true)
    (hold : actsOver n tick (tabGet (s.tile k).serials none e1) = false) :
    ∃ t, exec (.tileLatch k n) s = .next t ∧
      (t.tile k).playing = [(s.tile k).shapeFromHeld tick e0 (64 * d0)] ∧
      tabGet (t.tile k).serials none e0 = some (n, tick) ∧
      tabGet (t.tile k).serials none e1 = tabGet (s.tile k).serials none e1 ∧
      .upFrame k (s.tile k).ownerPort "COMMIT" [n.toNat, 1] ∈ t.out ∧ (t.tile k).held = (s.tile k).held ∧
      ∀ m, m ≠ k → t.tile m = s.tile m := by
  have ht := exec_tileLatch hdue
  rw [hslot, applyEntries_first_acts hne hidle hnew hold] at ht
  obtain ⟨p, hp⟩ := ((s.setTile k ((s.tile k).entryActed n tick e0 (64 * d0))).modTile k fun y =>
    (s.tile k).launchEnded y n tick).up_tile k (s.tile k).ownerPort "COMMIT" [n.toNat, 1]
  rw [State.modTile_same, State.setTile_same] at hp
  refine ⟨_, ht, ?_⟩
  rw [after_tile, hp]
  refine ⟨rfl, tabGet_tabSet_same .., tabGet_tabSet_other _ _ _ hne.symm, mem_after_out (State.mem_up_out ..) s, rfl,
    fun m hm => ?_⟩
  rw [after_tile, State.up_tile_other _ hm, State.modTile_other _ _ _ hm, State.setTile_other _ _ _ hm]

/-! ## The end of a shape -/

theorem endShape_eq {k e : Nat} {p : Playing} {s : State}
    (hplays : (s.tile k).playing.find? (fun p => p.elem = e) = some p) :
    endShape s k e = (s.setTile k ((s.tile k).shapeEnded e (s.shapeDrive (s.tile k) p 31))).modElem (1024 * k + e)
      fun y => { y with drive := s.shapeDrive (s.tile k) p 31, shaping := false, handoverDue := true } := by
  unfold endShape
  dsimp only
  rw [hplays]
  rfl

theorem exec_driveShapeEnd {k e : Nat} {p : Playing} {s : State}
    (hplays : (s.tile k).playing.find? (fun p => p.elem = e) = some p) (hdone : p.start + 2000 ≤ s.dt) :
    exec (.driveShapeEnd k e) s = .next (after s (endShape s k e)) := by
  change execDriveShapeEnd k e s = _
  unfold execDriveShapeEnd
  rw [hplays]
  exact if_pos hdone

theorem driveShapeEnd_holds_end {k e : Nat} {p : Playing} {s : State} (hq : Quiet s)
    (hplays : (s.tile k).playing.find? (fun p => p.elem = e) = some p) (hdone : p.start + 2000 ≤ s.dt) :
    ∃ t, exec (.driveShapeEnd k e) s = .next t ∧ (t.tile k).heldCode e = s.shapeDrive (s.tile k) p 31 ∧
      (∀ q ∈ (t.tile k).playing, q.elem ≠ e) ∧ (∀ f, f ≠ e → (t.tile k).heldCode f = (s.tile k).heldCode f) ∧
      t.elem (1024 * k + e) = { s.elem (1024 * k + e) with
        drive := s.shapeDrive (s.tile k) p 31, shaping := false, handoverDue := true } := by
  have hk : (endShape s k e).tile k = (s.tile k).shapeEnded e (s.shapeDrive (s.tile k) p 31) := by
    rw [endShape_eq hplays]
    exact s.setTile_same k _
  obtain ⟨hh, hr⟩ : Quiet (endShape s k e) := by rw [endShape_eq hplays]; exact hq
  refine ⟨_, exec_driveShapeEnd hplays hdone, ?_⟩
  rw [after_tile, hk, after_elem hh hr, endShape_eq hplays]
  exact ⟨tabGet_tabSet_same .., fun q hmem => of_decide_eq_true (List.mem_filter.1 hmem).2,
    fun f hf => tabGet_tabSet_other _ _ _ hf, State.modElem_same ..⟩

/-! ## Slots and codes -/

section owner
variable {k : Nat} {b : Bool} {s : State}

theorem slotOpen_fills (h : (s.tile k).obeys b = true) (j n : Nat) :
    ∃ t, exec (.slotOpen k b j n) s = .next t ∧ t.tile k = { s.tile k with filling := some (j, n, []) } := by
  obtain ⟨t, ht, hk, -⟩ := tileCmd_changes h (fun _ x => { x with filling := some (j, n, []) })
  exact ⟨t, ht, hk⟩

theorem exec_driveSlotFrame_last (h : (s.tile k).obeys b = true) {j : Nat}
    (hfill : (s.tile k).filling = some (j, 2, [])) (e0 d0 e1 d1 : Nat) :
    exec (.driveSlotFrame k b e0 d0 e1 d1) s = .next (after s (cmdAck (s.modTile k fun x =>
      { x with filling := none, slots := tabSet x.slots j [(e0, d0), (e1, d1)] }) k b 0x01 true j)) := by
  change execDriveSlotFrame k b e0 d0 e1 d1 s = _
  rw [execDriveSlotFrame, tileCmd_obeyed h, hfill]
  rfl

theorem driveSlotFrame_replaces_slot (h : (s.tile k).obeys b = true) {j : Nat}
    (hfill : (s.tile k).filling = some (j, 2, [])) (e0 d0 e1 d1 : Nat) :
    ∃ t, exec (.driveSlotFrame k b e0 d0 e1 d1) s = .next t ∧ (t.tile k).filling = none ∧
      tabGet (t.tile k).slots [] j = [(e0, d0), (e1, d1)] ∧
      (∀ i, i ≠ j → tabGet (t.tile k).slots [] i = tabGet (s.tile k).slots [] i) ∧
      .upFrame k b "CMD_ACK" [0x01, 1, j] ∈ t.out := by
  obtain ⟨p, hp⟩ := cmdAck_tile (s.modTile k fun x =>
    { x with filling := none, slots := tabSet x.slots j [(e0, d0), (e1, d1)] }) k b 0x01 true j
  rw [State.modTile_same] at hp
  refine ⟨_, exec_driveSlotFrame_last h hfill e0 d0 e1 d1, ?_⟩
  rw [after_tile, hp]
  exact ⟨rfl, tabGet_tabSet_same .., fun i hi => tabGet_tabSet_other _ _ _ hi, mem_after_out (State.mem_up_out ..) s⟩

theorem exec_tileDriveFrame_taken (h : (s.tile k).obeys b = true) {c : Nat} {codes : List Nat}
    (hfits : ((s.tile k).dueIn k (c - 1)).length = codes.length ∧ s.dt < c * usTicks) :
    exec (.tileDriveFrame k b c codes) s = .next (after s (noteGap (s.modTile k fun x =>
      { x with codesDue := some (c, ((s.tile k).dueIn k (c - 1)).zip codes) }) k (c * usTicks))) := by
  change execTileDriveFrame k b c codes s = _
  rw [execTileDriveFrame, tileCmd_obeyed h, if_pos (by simpa using hfits)]

theorem exec_tileDriveFrame_discarded (h : (s.tile k).obeys b = true) {c : Nat} {codes : List Nat}
    (hmisfit : ¬ (((s.tile k).dueIn k (c - 1)).length = codes.length ∧ s.dt < c * usTicks)) :
    exec (.tileDriveFrame k b c codes) s = .next (after s (tileEvent s k [4, 0, 0])) := by
  change execTileDriveFrame k b c codes s = _
  rw [execTileDriveFrame, tileCmd_obeyed h, if_neg (by simpa using hmisfit)]

/-- The codes are checked against the updates of the comma before (log entry 78). -/
theorem tileDriveFrame_takes_codes (h : (s.tile k).obeys b = true) {c : Nat} {codes : List Nat}
    (hfits : ((s.tile k).dueIn k (c - 1)).length = codes.length ∧ s.dt < c * usTicks) :
    ∃ t, exec (.tileDriveFrame k b c codes) s = .next t ∧
      (t.tile k).codesDue = some (c, ((s.tile k).dueIn k (c - 1)).zip codes) ∧ (t.tile k).held = (s.tile k).held := by
  refine ⟨_, exec_tileDriveFrame_taken h hfits, ?_⟩
  rw [after_tile, noteGap_tile, State.modTile_same]
  exact ⟨rfl, rfl⟩

theorem tileDriveFrame_discards_codes (h : (s.tile k).obeys b = true) {c : Nat} {codes : List Nat}
    (hmisfit : ¬ (((s.tile k).dueIn k (c - 1)).length = codes.length ∧ s.dt < c * usTicks)) :
    ∃ t, exec (.tileDriveFrame k b c codes) s = .next t ∧ (t.tile k).codesDue = (s.tile k).codesDue ∧
      .upFrame k (!(s.link k).portB) "EVENT" [4, 0, 0] ∈ t.out := by
  obtain ⟨p, hp⟩ := tileEvent_tile s k [4, 0, 0]
  refine ⟨_, exec_tileDriveFrame_discarded h hmisfit, ?_, mem_after_out (mem_tileEvent_out ..) s⟩
  rw [after_tile, hp]
  rfl

end owner

/-- Settles O47, clause by clause: a COMMIT, the latch with a newer and an older entry, the end of a shape, a slot opened
and replaced, the codes of a comma. -/
theorem tileLaunchRowsComplete : Obligations.TileLaunchRowsComplete := by
  unfold Obligations.TileLaunchRowsComplete
  refine ⟨fun k j v b n s h => ⟨fun htimed hnear => ?_, fun hmiss => tileCommitReceive_misses h n j v hmiss⟩,
    fun _ _ _ _ _ _ _ _ _ hdue hslot hne hidle hnew hold => tileLatch_acts hdue hslot hne hidle hnew hold,
    fun _ _ _ _ hq hplays hdone => driveShapeEnd_holds_end hq hplays hdone,
    fun _ j n _ _ h => slotOpen_fills h j n,
    fun _ _ e0 d0 e1 d1 _ _ h hfill => driveSlotFrame_replaces_slot h hfill e0 d0 e1 d1,
    fun _ _ _ _ _ h => ⟨fun hfits => tileDriveFrame_takes_codes h hfits,
      fun hmisfit => tileDriveFrame_discards_codes h hmisfit⟩⟩
  obtain ⟨t, ht, hk, hother⟩ := tileCommitReceive_waits h n j v htimed hnear
  exact ⟨t, ht, hk, add_ticksUntil_mod .., fun _ hu => mod_ne_of_lt_ticksUntil hu, hother⟩

end Sys2Proof.Safety

/-! SUPPORT. The verbs of sweep lists (R218): what each leaves of the runs, the lists and its own completion. -/

namespace Sys2Proof.Machine

/-- A frame to a tile is given out. -/
theorem State.down_out (s : State) (k : Nat) (name : String) (fields : List Nat) :
    (s.down k name fields).out = s.out ++ [.downFrame k name fields] := by
  unfold State.down
  split <;> rfl

theorem Run.unit_eq (r : Run) : r.unit = (if r.actuator then eidTile r.target else r.target, r.actuator) := by
  unfold Run.unit Run.tile
  cases r.actuator <;> rfl

/-- A run that has not ended takes the end code. -/
theorem Run.endWith_running {r : Run} (h : r.ended = none) (code : Nat) :
    r.endWith code = { r with ended := some code, aborted := r.aborted || r.active } := by
  rw [Run.endWith, h]

/-- The run that SWEEP_RUN asks for, ready to begin at `now`. -/
def askedRun (h : Hdr) (compEnd act : Bool) (u dc ms a now : Nat) : Run :=
  { target := u, actuator := act, compEnd, downCount := downCountOf dc, timeout := ms, resultAddr := a, src := h.src,
    tag := h.tag, readySince := now }

/-- A run that SWEEP_STOP `h` has ended. -/
def Run.stoppedBy (r : Run) (h : Hdr) : Run :=
  { r with ended := some 1, aborted := r.aborted || r.active, stopper := some h }

/-- The element of the actuator path, or the number of the monitor channel, that ABORT names (log entry 30). -/
def Run.abortField (r : Run) : Nat := if r.actuator then r.target % 1024 else r.target % 8

end Sys2Proof.Machine

namespace Sys2Proof.Safety

open Sys2Proof.Machine

theorem Quiet.of_only {P : List Part} {s t : State} (hq : Quiet s) (h : Only P s t) (hh : .handover ∉ P)
    (hr : .resumes ∉ P) : Quiet t :=
  ⟨(h .handover hh).trans hq.1, (h .resumes hr).trans hq.2⟩

theorem Quiet.complete {s : State} (hq : Quiet s) (h : Hdr) (op st r : Nat) : Quiet (s.complete h op st r) :=
  hq.of_only (State.complete_only (P := [.issues]) (.refl _ s) (List.Subset.refl _) h op st r) (by decide) (by decide)

/-! ## A run of a list that was written -/

/-- The run of list `l` that a command has written, and those of the other lists, once the command is over. -/
theorem after_setRun {s t : State} {l : Nat} {v : Option Run} (ht : Quiet t) (h : t.smu.runs = (s.setRun l v).smu.runs) :
    (after s t).run l = v ∧ ∀ k, k ≠ l → (after s t).run k = s.run k := by
  have hrun (k : Nat) : (after s t).run k = (s.setRun l v).run k :=
    (after_run ht.1 ht.2 s k).trans (congrArg (tabGet · none k) h)
  exact ⟨(hrun l).trans (s.setRun_same l v), fun k hk => (hrun k).trans (s.setRun_other l v hk)⟩

/-! ## The verbs -/

theorem exec_sweepLoad {s : State} {h : Hdr} {ns : Bool} {l n a : Nat} (ha : Accepts s h 0x30 (.sweepLoad h ns l n a))
    (hidle : s.run l = none) :
    exec (.sweepLoad h ns l n a) s = .next (after s (hostRead s h (.sweepLoad h ns l n a) a (16 * n) ns)) := by
  change execSweepLoad h ns l n a s = _
  rw [execSweepLoad, verb_accepts ha, if_neg (by simp [hidle])]

theorem exec_sweepRun {s : State} {h : Hdr} {compEnd act : Bool} {l u dc ms a : Nat}
    (ha : Accepts s h 0x31 (.sweepRun h compEnd act l u dc ms a)) (hplaced : s.targetPlaced act u = true)
    (hfits : s.listFits act u (s.list l) = true) (hlist : s.list l ≠ []) (hidle : s.run l = none)
    (hfree : ∀ x ∈ s.allRuns, x.2.unit ≠ (if act then eidTile u else u, act))
    (hfence : (s.region (tileRegion (if act then eidTile u else u / 8))).fenced = false) :
    exec (.sweepRun h compEnd act l u dc ms a) s =
      .next (after s ((s.setRun l (some (askedRun h compEnd act u dc ms a s.dt))).complete h 0x31 0 0)) := by
  have free : ((s.list l).isEmpty || (s.run l).isSome ||
      s.allRuns.any (fun x => x.2.unit == (askedRun h compEnd act u dc ms a s.dt).unit) ||
      (s.region (tileRegion (askedRun h compEnd act u dc ms a s.dt).tile)).fenced) = false := by
    simp only [Run.unit_eq, askedRun, ne_eq] at hfree ⊢
    simpa [Run.tile, hlist, hidle, hfence] using hfree
  change execSweepRun h compEnd act l u dc ms a s = _
  rw [execSweepRun, verb_accepts ha]
  have fits : ¬ (!s.targetPlaced act u || !s.listFits act u (s.list l)) = true := by simp [hplaced, hfits]
  exact congrArg (fun t => Host.Outcome.next (after s t)) ((if_neg fits).trans (if_neg (ne_true_of_eq_false free)))

theorem exec_sweepStop {s : State} {h : Hdr} {l : Nat} {r : Run} (ha : Accepts s h 0x32 (.sweepStop h l))
    (hrun : s.run l = some r) (hend : r.ended = none) :
    exec (.sweepStop h l) s = .next (after s
      ((if r.active then s.down r.tile "ABORT" [r.abortField] else s).setRun l (some (r.stoppedBy h)))) := by
  change execSweepStop h l s = _
  rw [execSweepStop, verb_accepts ha, hrun]
  dsimp only
  rw [if_neg (by simp [hend]), Run.endWith_running hend]
  rfl

theorem exec_sweepFree {s : State} {h : Hdr} {l : Nat} (ha : Accepts s h 0x33 (.sweepFree h l)) (hidle : s.run l = none) :
    exec (.sweepFree h l) s = .next (after s
      (State.complete { s with smu := { s.smu with lists := tabSet s.smu.lists l [] } } h 0x33 0 0)) := by
  change execSweepFree h l s = _
  rw [execSweepFree, verb_accepts ha, if_neg (by simp [hidle]), stSuccess]

/-! ## What the verbs leave -/

theorem sweepRun_queues {s : State} (hq : Quiet s) (h : Hdr) (l : Nat) (r : Run) :
    let t := after s ((s.setRun l (some r)).complete h 0x31 0 0)
    t.run l = some r ∧ (∀ k, k ≠ l → t.run k = s.run k) ∧ VerbEnds s t h 0x31 0 0 := by
  have hset : Only [.runs] s (s.setRun l (some r)) := State.setRun_only (.refl _ s) (List.Subset.refl _) l _
  have hquiet : Quiet (s.setRun l (some r)) := hq
  obtain ⟨hl, hother⟩ := after_setRun (hquiet.complete h 0x31 0 0) (congrArg Smu.runs (State.complete_smu ..))
  exact ⟨hl, hother, verbEnds_after hset hq (by decide) (by decide) (by decide) (by decide) h 0x31 0 0⟩

theorem sweepStop_ends {s : State} (hq : Quiet s) (h : Hdr) (l : Nat) (r : Run) :
    let t := after s ((if r.active then s.down r.tile "ABORT" [r.abortField] else s).setRun l (some (r.stoppedBy h)))
    t.run l = some (r.stoppedBy h) ∧ (∀ k, k ≠ l → t.run k = s.run k) ∧ t.host.issues = s.host.issues ∧
      (r.active = true → Gives s t [.downFrame r.tile "ABORT" [r.abortField]]) := by
  have hframe : Only [.out, .links] s (if r.active then s.down r.tile "ABORT" [r.abortField] else s) :=
    .ite (State.down_only (.refl _ s) (List.Subset.refl _) _ _ _) (.refl _ s)
  generalize hu : (if r.active then s.down r.tile "ABORT" [r.abortField] else s) = u at hframe
  have hquiet : Quiet (u.setRun l (some (r.stoppedBy h))) := show Quiet u from hq.of_only hframe (by decide) (by decide)
  obtain ⟨hruns, -⟩ := hframe .runs (by decide)
  obtain ⟨hl, hother⟩ := after_setRun (s := s) (l := l) (v := some (r.stoppedBy h)) hquiet
    (congrArg (tabSet · l (some (r.stoppedBy h))) hruns)
  refine ⟨hl, hother, (after_issues hquiet.1 hquiet.2 s).trans (hframe .issues (by decide)), fun hactive => ?_⟩
  refine after_gives (s := s) ?_ hquiet.1 hquiet.2 s
  rw [State.setRun_out, ← hu, if_pos hactive, State.down_out]

theorem sweepFree_empties {s : State} (hq : Quiet s) (h : Hdr) (l : Nat) :
    let t := after s (State.complete { s with smu := { s.smu with lists := tabSet s.smu.lists l [] } } h 0x33 0 0)
    t.list l = [] ∧ (∀ k, k ≠ l → t.list k = s.list k) ∧ VerbEnds s t h 0x33 0 0 := by
  have hlists : (after s (State.complete { s with smu := { s.smu with lists := tabSet s.smu.lists l [] } }
      h 0x33 0 0)).smu.lists = tabSet s.smu.lists l [] :=
    (after_smu_field (·.lists) (fun _ => rfl) s _).trans (by rw [State.complete_smu])
  have hset : Only [.smu] s { s with smu := { s.smu with lists := tabSet s.smu.lists l [] } } :=
    .set_smu (.inl (by decide)) (.inr ⟨rfl, rfl⟩) (.refl _ s)
  refine ⟨?_, fun k hk => ?_, verbEnds_after hset hq (by decide) (by decide) (by decide) (by decide) h 0x33 0 0⟩
  · rw [State.list, hlists, tabGet_tabSet_same]
  · rw [State.list, hlists, tabGet_tabSet_other _ _ _ hk, State.list]

/-- Settles O21, verb by verb: SWEEP_LOAD waits for its records (log entry 22), SWEEP_RUN, SWEEP_STOP, SWEEP_FREE. -/
theorem sweepVerbsComplete : Obligations.SweepVerbsComplete := by
  unfold Obligations.SweepVerbsComplete
  exact ⟨fun h _ _ n a _ hq ha hidle => ⟨_, exec_sweepLoad ha hidle, after_hostRead hq h _ a (16 * n) _⟩,
    fun h compEnd act l u dc ms a s hq ha hplaced hfits hlist hidle hfree hfence =>
      ⟨_, exec_sweepRun ha hplaced hfits hlist hidle hfree hfence,
        sweepRun_queues hq h l (askedRun h compEnd act u dc ms a s.dt)⟩,
    fun h l r _ hq ha hrun hend => ⟨_, exec_sweepStop ha hrun hend, sweepStop_ends hq h l r⟩,
    fun h l _ hq ha hidle => ⟨_, exec_sweepFree ha hidle, sweepFree_empties hq h l⟩⟩

end Sys2Proof.Safety

/-! SUPPORT. The points and runs of sweep lists (R214 to R217): the run that each shared operation of the engine leaves, and
what each row does with it. Lists are numbered below 256; 256 is the single-shot point. -/

namespace Sys2Proof.Machine

section list
variable {l : Nat} (hl : l < 256)
include hl

theorem State.anyRun_list (s : State) : s.anyRun l = s.run l := if_neg (Nat.ne_of_lt hl)

theorem State.setAnyRun_list (s : State) (r : Run) : s.setAnyRun l r = s.setRun l (some r) := if_neg (Nat.ne_of_lt hl)

theorem State.runPoints_list (s : State) : s.runPoints l = s.list l := if_neg (Nat.ne_of_lt hl)

end list

/-! ## A result is written -/

/-- A run with an end code and a mark ABORTED: what its end may change of it. -/
def Run.ending (r : Run) (e : Option Nat) (a : Bool) : Run := { r with ended := e, aborted := a }

theorem Run.endWith_eq (r : Run) (code : Nat) : ∃ e a, r.endWith code = r.ending e a := by
  unfold Run.endWith
  split
  · exact ⟨r.ended, r.aborted, rfl⟩
  · exact ⟨_, _, rfl⟩

/-- A run whose point has been written with result `res` at device time `now`, before it goes on or ends (R216). -/
def Run.posted (r : Run) (res : PointResult) (now : Nat) : Run := { r with
  active := false, compliance := false, compSampling := false, aborted := false, blocked := false, words := []
  point := r.point + 1, completed := r.completed + 1, readySince := now
  nCompliance := r.nCompliance + b2n (bit res.flags 0)
  nBlocked := r.nBlocked + b2n (bit res.flags 5)
  nAborted := r.nAborted + b2n (bit res.flags 6)
  lastRange := res.range, lastFlags := res.flags, lastValue := res.value, lastCode := res.code, lastUsed := res.used }

/-- That run as it goes on, or ends: with a write error, at its compliance, after its last point (R217). -/
def Run.continued (r : Run) (s : State) (l : Nat) (res : PointResult) (w : Bool) : Run :=
  if r.resultAddr ≠ 0 && !w then (r.posted res s.dt).endWith endWriteError
  else if r.compEnd && bit res.flags 0 then (r.posted res s.dt).endWith endCompliance
  else if (s.runPoints l).length ≤ r.point + 1 then (r.posted res s.dt).endWith endDone
  else r.posted res s.dt

theorem Run.continued_eq (r : Run) (s : State) (l : Nat) (res : PointResult) (w : Bool) :
    ∃ e a, r.continued s l res w = (r.posted res s.dt).ending e a := by
  unfold Run.continued
  split
  · exact Run.endWith_eq ..
  · split
    · exact Run.endWith_eq ..
    · split
      · exact Run.endWith_eq ..
      · exact ⟨_, _, rfl⟩

/-- The state once the result is written to host memory, where the run has an address for it. -/
def resultWritten (s : State) (r : Run) (res : PointResult) (rb : Int) : State :=
  if r.resultAddr = 0 then s else s.emit (.hostWrite (r.resultAddr + 16 * r.point) 16
    (res.range * 2 ^ 16 + r.point + res.flags * 2 ^ 24 + unsign res.value 32 * 2 ^ 32 + unsign res.code 16 * 2 ^ 64 +
      res.used * 2 ^ 80 + unsign rb 32 * 2 ^ 96))

/-- The state once a point at its compliance is counted. -/
def complianceCounted (s : State) (comp : Bool) : State :=
  if comp then { s with smu := { s.smu with compliance := satInc s.smu.compliance 0xFFFF } } else s

theorem postPoint_eq (s : State) (l : Nat) (r : Run) (res : PointResult) (rb : Int) (w : Bool) :
    postPoint s l r res rb w =
      complianceCounted ((resultWritten s r res rb).setAnyRun l (r.continued s l res w)) (bit res.flags 0) := rfl

theorem postPoint_runs {l : Nat} (hl : l < 256) (s : State) (r : Run) (res : PointResult) (rb : Int) (w : Bool) :
    (postPoint s l r res rb w).smu.runs = (s.setRun l (some (r.continued s l res w))).smu.runs := by
  have written : (resultWritten s r res rb).smu.runs = s.smu.runs := by
    unfold resultWritten
    split <;> rfl
  have counted (u : State) (comp : Bool) : (complianceCounted u comp).smu.runs = u.smu.runs := by
    unfold complianceCounted
    split <;> rfl
  rw [postPoint_eq, counted, State.setAnyRun_list hl]
  exact congrArg (tabSet · l (some (r.continued s l res w))) written

/-- A BLOCKED point has flag 5 alone and kept no reading (R208). -/
theorem blockPoint_eq (s : State) (l : Nat) (r : Run) (p : PointRec) :
    ∃ res rb, res.flags = 32 ∧ res.used = 0 ∧
      blockPoint s l r p = postPoint { s with free := s.free + 3 } l r res rb true :=
  ⟨_, _, rfl, rfl, rfl⟩

/-! ## The result of readings -/

section result
variable (s : State) (p : PointRec) (k : Taking) (compliance sampling aborted : Bool)

theorem formResult_state : ∃ n, (formResult s p k compliance sampling aborted).2 = { s with free := n } := by
  unfold formResult
  dsimp only
  split
  · exact ⟨_, rfl⟩
  · exact ⟨_, rfl⟩

theorem formResult_used : (formResult s p k compliance sampling aborted).1.used = k.kept.length := by
  unfold formResult
  dsimp only
  split
  next h => rw [List.isEmpty_iff.1 h]; rfl
  next => rfl

theorem formResult_value (h : k.kept ≠ []) : (formResult s p k compliance sampling aborted).1.value =
    openDiv (keptSum p.mode k.kept) (30000 * k.kept.length) := by
  unfold formResult
  dsimp only
  rw [if_neg (by simp [h])]

end result

/-- The state once the readings `k` of the point `p` of run `r` have formed its result and the result is written, with the
actuator path given up where it was aborted (R211, R213, R216). -/
def pointEnded (s : State) (l : Nat) (r : Run) (p : PointRec) (k : Taking) (rb : Int) (w : Bool) : State :=
  let f := formResult s p k (r.compliance || k.clamped) (r.compSampling || k.clamped) r.aborted
  let s1 := { f.2 with smu := { f.2.smu with rangeChanges := satAdd f.2.smu.rangeChanges k.changes 0xFFFF } }
  let s2 := postPoint (s1.modTile r.tile fun x => { x with pointOn := none, pointWords := [] }) l r f.1 rb w
  if r.actuator && r.aborted then actuatorOff s2 r.target else s2

/-! ## A point begins -/

/-- The state once the point `p` of run `r` has begun: its record and POINT_GO are out to the tile, unless the target is the
monitor channel of a port; the actuator path has its element (R211, R213, R214). -/
def pointBegun (s : State) (l : Nat) (r : Run) (p : PointRec) : State :=
  let s1 := s.setRun l (some { r with active := true, words := [] })
  let s2 := if s.portTarget r then s1 else
    State.down ((List.range 4).foldl (fun s k => s.down r.tile "POINT_WORD" [k, (pointWordsOf p).getD k 0]) s1) r.tile
      "POINT_GO" (if r.actuator then [8, r.target % 1024, r.downCount] else [r.target % 8, 0, r.downCount])
  if r.actuator then actuatorOn s2 r.target else s2

theorem foldl_down_out (k : Nat) (name : String) (fields : Nat → List Nat) (js : List Nat) (s : State) :
    (js.foldl (fun s j => s.down k name (fields j)) s).out = s.out ++ js.map fun j => .downFrame k name (fields j) := by
  induction js generalizing s with
  | nil => simp
  | cons j js ih => rw [List.foldl_cons, ih, State.down_out, List.map_cons, List.append_assoc, List.singleton_append]

theorem pointBegun_channel_out {s : State} {r : Run} (hchannel : r.actuator = false) (hport : s.portTarget r = false)
    (l : Nat) (p : PointRec) : (pointBegun s l r p).out = s.out ++
      ((List.range 4).map (fun j => Output.downFrame r.tile "POINT_WORD" [j, (pointWordsOf p).getD j 0]) ++
        [.downFrame r.tile "POINT_GO" [r.target % 8, 0, r.downCount]]) := by
  unfold pointBegun
  dsimp only
  rw [hchannel, hport, if_neg Bool.false_ne_true, if_neg Bool.false_ne_true, if_neg Bool.false_ne_true, State.down_out,
    foldl_down_out, State.setRun_out, List.append_assoc]

/-! ## A run comes to its end -/

/-- The channel or path of a run that has ended has come to rest (R217). -/
def runRested (s : State) (r : Run) : State :=
  if r.actuator then
    (actuatorOff s r.target).modTile r.tile fun x => { x with
      actuator := if x.actuator = some (r.target % 1024) then none else x.actuator, pointOn := none }
  else if s.portTarget r then s
  else s.setMonitor r.target { s.monitor r.target with range := 6, clamped := false }

/-- The event SWEEP_DONE of a run that ended with `code` (Table 7-6). -/
def sweepDone (s : State) (r : Run) (code : Nat) : Event :=
  { kind := 5, tag := r.tag, status := code, time := s.now
    body := r.completed + 2 ^ 16 * r.nCompliance + 2 ^ 32 * r.nBlocked +
      2 ^ 48 * (r.nAborted + b2n (r.active && r.aborted)) }

/-- The state once the run of list `l` is gone, with its event owed and the verb that stopped it ended (R217, R218). -/
def runClosed (s : State) (l : Nat) (r : Run) (code : Nat) : State :=
  let s1 := ((runRested s r).setRun l none).event r.src (sweepDone s r code)
  r.stopper.elim s1 fun h => s1.complete h 0x32 stSuccess 0

end Sys2Proof.Machine

namespace Sys2Proof.Safety

open Sys2Proof.Machine

/-! ## What each of these may write -/

/-- Beside the run itself, a point that begins sends frames and moves the element of the actuator path. -/
theorem pointBegun_only (s : State) (l : Nat) (r : Run) (p : PointRec) :
    Only [.out, .elems, .links] (s.setRun l (some { r with active := true, words := [] })) (pointBegun s l r p) :=
  .update_if (.ite (.refl _ _) (State.down_only (.foldl (.refl _ _) fun _ _ h => State.down_only h (by decide) _ _ _)
    (by decide) _ _ _)) fun h => actuatorOn_only h (by decide) _

theorem pointEnded_only (s : State) (l : Nat) (r : Run) (p : PointRec) (k : Taking) (rb : Int) (w : Bool) :
    Only [.out, .free, .elems, .smu, .runs, .tiles] s (pointEnded s l r p k rb w) := by
  refine .update_if (postPoint_only (State.modTile_only ?_ (by decide) _ _) (by decide) _ _ _ _ _)
    fun h => actuatorOff_only h (by decide) _
  exact .set_smu (.inl (by decide)) (.inr ⟨rfl, rfl⟩) (formResult_only (.refl _ s) (by decide) _ _ _ _ _)

theorem runRested_only (s : State) (r : Run) : Only [.elems, .smu, .tiles] s (runRested s r) :=
  .ite (State.modTile_only (actuatorOff_only (.refl _ s) (by decide) _) (by decide) _ _) <|
    .ite (.refl _ s) (State.setMonitor_only (.refl _ s) (by decide) _ _)

/-! ## Points -/

theorem pointBegun_runs (s : State) (l : Nat) (r : Run) (p : PointRec) : (pointBegun s l r p).smu.runs =
    (s.setRun l (some { r with active := true, words := [] })).smu.runs :=
  (pointBegun_only s l r p .runs (by decide)).1

theorem pointBegun_quiet {s : State} (hq : Quiet s) (l : Nat) (r : Run) (p : PointRec) : Quiet (pointBegun s l r p) :=
  Quiet.of_only (s := s.setRun l (some { r with active := true, words := [] })) hq (pointBegun_only s l r p) (by decide)
    (by decide)

theorem pointEnded_runs {l : Nat} (hl : l < 256) (s : State) (r : Run) (p : PointRec) (k : Taking) (rb : Int) (w : Bool) :
    ∃ e a, (pointEnded s l r p k rb w).smu.runs = (s.setRun l (some ((r.posted (formResult s p k
      (r.compliance || k.clamped) (r.compSampling || k.clamped) r.aborted).1 s.dt).ending e a))).smu.runs := by
  obtain ⟨n, hn⟩ := formResult_state s p k (r.compliance || k.clamped) (r.compSampling || k.clamped) r.aborted
  have given (u : State) : (if r.actuator && r.aborted then actuatorOff u r.target else u).smu.runs = u.smu.runs :=
    (Only.update_if (P := [.elems]) (.refl _ u) (fun h => actuatorOff_only h (List.Subset.refl _) _) .runs (by decide)).1
  unfold pointEnded
  dsimp only
  rw [given, postPoint_runs hl, hn]
  obtain ⟨e, a, hr⟩ := Run.continued_eq r _ l _ w
  rw [hr]
  exact ⟨e, a, rfl⟩

/-- Sequencer `k` may begin the next point of run `r` of list `l`, but for the admission of R208 (R214, R215). -/
structure PointDue (s : State) (l k : Nat) (r : Run) : Prop where
  run : s.run l = some r
  idle : r.active = false
  running : r.ended = none
  working : s.working = true
  cool : s.loops.throttled = false
  reach : s.tileReach r.tile = true
  alone : ∀ x ∈ s.allRuns, x.1 ≠ l → x.2.unit = r.unit → x.2.seqr = none
  sequencer : r.seqr = some k ∨ r.seqr = none ∧ s.freeSequencer (tileRegion r.tile) = some k

theorem exec_sweepPointStart {s : State} {l k : Nat} {r : Run} (hl : l < 256) (h : PointDue s l k r) :
    exec (.sweepPointStart l) s = .next (after s
      (if r.actuator && !s.actAdmitted r.target ((s.list l).getD r.point {}) then
        blockPoint s l { r with seqr := some k } ((s.list l).getD r.point {})
      else pointBegun s l { r with seqr := some k } ((s.list l).getD r.point {}))) := by
  have alone : s.allRuns.any (fun x => x.1 != l && x.2.unit == r.unit && x.2.seqr.isSome) = false := by
    simpa [and_imp] using fun a b hab hne hunit => h.alone (a, b) hab hne hunit
  have free : ¬ (r.active || r.ended.isSome || !s.working || s.loops.throttled || !s.tileReach r.tile ||
      s.allRuns.any (fun x => x.1 != l && x.2.unit == r.unit && x.2.seqr.isSome)) = true := by
    simp [alone, h.idle, h.running, h.working, h.cool, h.reach]
  change execSweepPointStart l s = _
  unfold execSweepPointStart
  rw [State.anyRun_list hl, h.run]
  dsimp only
  rw [State.runPoints_list hl, if_neg free]
  cases h.sequencer
  case' inl held => rw [held]
  case' inr chosen => rw [chosen.1, chosen.2]
  all_goals
    dsimp only
    split
    · rfl
    · rw [State.setAnyRun_list hl]
      rfl

theorem sweepPointStart_begins {s : State} {l k : Nat} {r : Run} (hq : Quiet s) (hl : l < 256) (h : PointDue s l k r)
    (hchannel : r.actuator = false) (hport : s.portTarget r = false) :
    ∃ t, exec (.sweepPointStart l) s = .next t ∧ t.run l = some { r with seqr := some k, active := true, words := [] } ∧
      (∀ j, j ≠ l → t.run j = s.run j) ∧
      Gives s t ((List.range 4).map (fun j => Output.downFrame r.tile "POINT_WORD"
          [j, (pointWordsOf ((s.list l).getD r.point {})).getD j 0]) ++
        [.downFrame r.tile "POINT_GO" [r.target % 8, 0, r.downCount]]) := by
  have hbegun : Quiet (pointBegun s l { r with seqr := some k } ((s.list l).getD r.point {})) :=
    pointBegun_quiet hq ..
  obtain ⟨hrun, hother⟩ := after_setRun hbegun (pointBegun_runs ..)
  have hbegin := exec_sweepPointStart hl h
  rw [if_neg (by simp [hchannel])] at hbegin
  exact ⟨_, hbegin, hrun, hother, after_gives (pointBegun_channel_out (r := { r with seqr := some k }) hchannel hport l _)
    hbegun.1 hbegun.2 s⟩

theorem blockPoint_posts {s : State} {l : Nat} (hq : Quiet s) (hl : l < 256) (r : Run) (p : PointRec) :
    ∃ r', (after s (blockPoint s l r p)).run l = some r' ∧ r'.active = false ∧ r'.point = r.point + 1 ∧
      r'.completed = r.completed + 1 ∧ r'.nBlocked = r.nBlocked + 1 ∧ r'.lastUsed = 0 ∧ r'.lastFlags = 32 := by
  obtain ⟨res, rb, hflags, hused, hblock⟩ := blockPoint_eq s l r p
  obtain ⟨e, a, hr⟩ := Run.continued_eq r { s with free := s.free + 3 } l res true
  have hquiet : Quiet (blockPoint s l r p) :=
    hq.of_only (blockPoint_only (.refl _ s) (List.Subset.refl _) _ _ _) (by decide) (by decide)
  obtain ⟨hrun, -⟩ := after_setRun (s := s) hquiet ((congrArg (·.smu.runs) hblock).trans (postPoint_runs hl ..))
  rw [hr] at hrun
  exact ⟨_, hrun, rfl, rfl, rfl, congrArg (fun n => r.nBlocked + b2n (bit n 5)) hflags, hused, hflags⟩

theorem sweepPointStart_blocks {s : State} {l k : Nat} {r : Run} (hq : Quiet s) (hl : l < 256) (h : PointDue s l k r)
    (hact : r.actuator = true) (hrefused : s.actAdmitted r.target ((s.list l).getD r.point {}) = false) :
    ∃ t r', exec (.sweepPointStart l) s = .next t ∧ t.run l = some r' ∧ r'.active = false ∧ r'.point = r.point + 1 ∧
      r'.completed = r.completed + 1 ∧ r'.nBlocked = r.nBlocked + 1 ∧ r'.lastUsed = 0 ∧ r'.lastFlags = 32 := by
  have hblock := exec_sweepPointStart hl h
  rw [if_pos (by rw [hact, hrefused]; rfl)] at hblock
  obtain ⟨r', hr'⟩ := blockPoint_posts hq hl { r with seqr := some k } ((s.list l).getD r.point {})
  exact ⟨_, r', hblock, hr'⟩

theorem exec_sweepPointEnd {s : State} {l : Nat} {rs : List Reading} {rb : Int} {w : Bool} {r : Run} (hl : l < 256)
    (hrun : s.run l = some r) (hactive : r.active = true)
    (hdone : r.aborted = true ∨ (takeReadings ((s.list l).getD r.point {}) r.downCount rs).full
      ((s.list l).getD r.point {}).samples = true) :
    exec (.sweepPointEnd l rs rb w) s = .next (after s (pointEnded s l r ((s.list l).getD r.point {})
      (takeReadings ((s.list l).getD r.point {}) r.downCount rs) rb w)) := by
  change execSweepPointEnd l rs rb w s = _
  unfold execSweepPointEnd
  rw [State.anyRun_list hl, hrun]
  dsimp only
  rw [State.runPoints_list hl, if_neg ?_]
  · rfl
  · rw [hactive]
    rcases hdone with h | h <;> rw [h] <;> simp

theorem sweepPointEnd_posts {s : State} {l : Nat} {r : Run} (hq : Quiet s) (hl : l < 256) (p : PointRec) (k : Taking)
    (rb : Int) (w : Bool) :
    ∃ r', (after s (pointEnded s l r p k rb w)).run l = some r' ∧ r'.active = false ∧ r'.words = [] ∧
      r'.point = r.point + 1 ∧ r'.completed = r.completed + 1 ∧ r'.lastUsed = k.kept.length ∧
      (k.kept ≠ [] → r'.lastValue = openDiv (keptSum p.mode k.kept) (30000 * k.kept.length)) ∧
      ∀ j, j ≠ l → (after s (pointEnded s l r p k rb w)).run j = s.run j := by
  have hended : Quiet (pointEnded s l r p k rb w) := hq.of_only (pointEnded_only _ _ _ _ _ _ _) (by decide) (by decide)
  obtain ⟨e, a, hruns⟩ := pointEnded_runs hl s r p k rb w
  obtain ⟨hrun, hother⟩ := after_setRun hended hruns
  exact ⟨_, hrun, rfl, rfl, rfl, rfl, formResult_used .., formResult_value _ _ _ _ _ _, hother⟩

/-! ## Runs -/

theorem exec_sweepTimeout {s : State} {l : Nat} {r : Run} (hl : l < 256) (hrun : s.run l = some r)
    (hidle : r.active = false) (hend : r.ended = none) (hlate : r.readySince + r.timeout * msTicks ≤ s.dt) :
    exec (.sweepTimeout l) s = .next (after s (s.setRun l (some { r with ended := some 3 }))) := by
  change execSweepTimeout l s = _
  unfold execSweepTimeout
  rw [State.anyRun_list hl, hrun]
  dsimp only
  rw [if_neg (by simpa [hidle, hend] using hlate), State.setAnyRun_list hl, Run.endWith_running hend, hidle, Bool.or_false]
  rfl

theorem exec_pointResultReceive {s : State} {tile c w l : Nat} {v : Word32} {r : Run} (hl : l < 256)
    (hfind : s.allRuns.find? (fun x => x.2.active && x.2.tile == tile &&
      (if x.2.actuator then c == 8 else c == x.2.target % 8)) = some (l, r)) :
    exec (.pointResultReceive tile c w v) s = .next (after s
      (s.setRun l (some { r with words := (r.words.filter fun x => x.1 ≠ w) ++ [(w, v)] }))) := by
  change execPointResultReceive tile c w v s = _
  unfold execPointResultReceive
  rw [hfind]
  dsimp only
  rw [State.setAnyRun_list hl, ok_next]

theorem exec_complianceEventReceive {s : State} {tile c d l : Nat} {r : Run} (hl : l < 256)
    (hfind : s.clampedRun tile c = some (l, r)) :
    exec (.complianceEventReceive tile c d) s = .next (after s
      (s.setRun l (some { r with compliance := true, compSampling := r.compSampling || decide (d ≠ 0) }))) := by
  change execComplianceEventReceive tile c d s = _
  unfold execComplianceEventReceive
  rw [hfind]
  dsimp only
  rw [State.setAnyRun_list hl, ok_next]

theorem exec_sweepRunEnd {s : State} {l code : Nat} {r : Run} (hl : l < 256) (hrun : s.run l = some r)
    (hend : r.ended = some code) (hrest : r.active = false ∨ code ≠ 1 ∨ s.tileReach r.tile = false) :
    exec (.sweepRunEnd l) s = .next (after s (runClosed s l r code)) := by
  change execSweepRunEnd l s = _
  unfold execSweepRunEnd
  rw [State.anyRun_list hl, hrun]
  dsimp only
  rw [hend]
  dsimp only
  have rests : ¬ (r.active && decide (code = endStopped) && s.tileReach r.tile) = true := by
    rcases hrest with h | h | h <;> simp [h, endStopped]
  have listed : l ≠ singleList := Nat.ne_of_lt hl
  rw [if_neg rests, if_neg listed]
  unfold runClosed
  cases r.stopper <;> rfl

/-- The verb that stopped a run ends with the run (R218). -/
theorem runClosed_issues (s : State) (l : Nat) (r : Run) (code : Nat) :
    (∀ h, r.stopper = some h → (runClosed s l r code).host.issues = (s.complete h 0x32 0 0).host.issues) ∧
      (r.stopper = none → (runClosed s l r code).host.issues = s.host.issues) := by
  have rested := runRested_only s r
  have issues := rested .issues (by decide)
  have dt := rested .dt (by decide)
  refine ⟨fun h hh => ?_, fun hh => ?_⟩
  · rw [runClosed, hh]
    exact State.complete_host_issues_congr h 0x32 0 0 issues dt
  · rw [runClosed, hh]
    exact issues

theorem runClosed_smu (s : State) (l : Nat) (r : Run) (code : Nat) :
    (runClosed s l r code).smu = ((runRested s r).setRun l none).smu := by
  unfold runClosed
  cases r.stopper with
  | none => rfl
  | some h => exact State.complete_smu ..

theorem runClosed_owed (s : State) (l : Nat) (r : Run) (code : Nat) :
    (runClosed s l r code).host.owed = s.host.owed ++ [(r.src, sweepDone s r code)] := by
  have owed := runRested_only s r .owed (by decide)
  have event : (((runRested s r).setRun l none).event r.src (sweepDone s r code)).host.owed =
      s.host.owed ++ [(r.src, sweepDone s r code)] := congrArg (· ++ _) owed
  unfold runClosed
  cases r.stopper with
  | none => exact event
  | some h => exact (State.complete_host_owed ..).trans event

theorem runClosed_quiet {s : State} (hq : Quiet s) (l : Nat) (r : Run) (code : Nat) : Quiet (runClosed s l r code) := by
  have hevent : Quiet (((runRested s r).setRun l none).event r.src (sweepDone s r code)) :=
    show Quiet (runRested s r) from hq.of_only (runRested_only s r) (by decide) (by decide)
  unfold runClosed
  cases r.stopper with
  | none => exact hevent
  | some h => exact hevent.complete h 0x32 0 0

theorem sweepRunEnd_closes {s : State} {l code : Nat} {r : Run} (hq : Quiet s) (hl : l < 256) (hrun : s.run l = some r)
    (hend : r.ended = some code) (hrest : r.active = false ∨ code ≠ 1 ∨ s.tileReach r.tile = false) :
    ∃ t, exec (.sweepRunEnd l) s = .next t ∧ t.run l = none ∧ (∀ j, j ≠ l → t.run j = s.run j) ∧
      (∃ e, t.host.owed = s.host.owed ++ [(r.src, e)] ∧ e.kind = 5 ∧ e.tag = r.tag ∧ e.status = code) ∧
      (∀ h, r.stopper = some h → VerbEnds s t h 0x32 0 0) ∧ (r.stopper = none → t.host.issues = s.host.issues) := by
  have hquiet := runClosed_quiet hq l r code
  have hissues := after_issues hquiet.1 hquiet.2 s
  obtain ⟨hstopped, hunstopped⟩ := runClosed_issues s l r code
  obtain ⟨hgone, hother⟩ := after_setRun (s := s) (l := l) (v := none) hquiet
    ((congrArg (·.runs) (runClosed_smu s l r code)).trans
      (congrArg (tabSet · l none) (runRested_only s r .runs (by decide)).1))
  exact ⟨_, exec_sweepRunEnd hl hrun hend hrest, hgone, hother,
    ⟨_, (after_owed ..).trans (runClosed_owed ..), rfl, rfl, rfl⟩,
    fun h hh => hissues.trans (hstopped h hh), fun hh => hissues.trans (hunstopped hh)⟩

/-- Settles O22, row by row: a point begins or is BLOCKED, its readings are in, a run times out, ends, and takes the words
and clamps that its tile reports (log entries 11, 60, 63, 127). -/
theorem sweepRowsComplete : Obligations.SweepRowsComplete := by
  unfold Obligations.SweepRowsComplete
  refine ⟨fun l k r s hq hl hrun hidle hend hwork hcool hreach halone hnone hfree hchannel hport =>
      sweepPointStart_begins hq hl ⟨hrun, hidle, hend, hwork, hcool, hreach, halone, .inr ⟨hnone, hfree⟩⟩ hchannel hport,
    fun l r s hq hl hrun hidle hend hwork hcool hreach halone hsome hact hrefused => ?_,
    fun l rs rb w r s hq hl hrun hactive hdone => ?_,
    fun l r s hq hl hrun hidle hend hlate => ⟨_, exec_sweepTimeout hl hrun hidle hend hlate, after_setRun hq rfl⟩,
    fun l code r s hq hl hrun hend hrest => sweepRunEnd_closes hq hl hrun hend hrest,
    fun tile c w l v r s hq hl hfind => ⟨_, exec_pointResultReceive hl hfind, after_setRun hq rfl⟩,
    fun tile c d l r s hq hl hfind => ⟨_, exec_complianceEventReceive hl hfind, after_setRun hq rfl⟩⟩
  · obtain ⟨k, hk⟩ := Option.isSome_iff_exists.1 hsome
    exact sweepPointStart_blocks hq hl ⟨hrun, hidle, hend, hwork, hcool, hreach, halone, .inl hk⟩ hact hrefused
  · obtain ⟨r', hr'⟩ := sweepPointEnd_posts (r := r) hq hl ((s.list l).getD r.point {})
      (takeReadings ((s.list l).getD r.point {}) r.downCount rs) rb w
    exact ⟨_, r', exec_sweepPointEnd hl hrun hactive hdone, hr'⟩

end Sys2Proof.Safety

/-! SUPPORT. Single-shot points, port samples, reference conversions (R200 to R203, R219, R221): what a trigger, an end and
a read leave of their result. -/

namespace Sys2Proof.Machine

/-! ## A port sample -/

/-- The state once a sample of monitor `m` is known, before the lock-in of its port (R201, R202). -/
def portSampled (s : State) (m range : Nat) (flagged los : Bool) (cur : Int) : State :=
  let x := s.monitor m
  let s1 := s.setMonitor m { x with range, flag := flagged, current := cur, sampled := true }
  let s2 := if x.sampled && x.range ≠ range then
      { s1 with smu := { s1.smu with rangeChanges := satInc s1.smu.rangeChanges 0xFFFF } } else s1
  if s.portSelMonitor = some m then
    { s2 with smu := { s2.smu with portResult := s2.smu.portResult.complete (s.portWords m range flagged los cur) } }
  else s2

section sample
variable (s : State) (m range : Nat) (flagged los : Bool) (cur : Int)

theorem portSampled_monitors : (portSampled s m range flagged los cur).smu.monitors =
    (s.setMonitor m { s.monitor m with range, flag := flagged, current := cur, sampled := true }).smu.monitors := by
  unfold portSampled
  dsimp only
  split <;> split <;> rfl

theorem portSampled_selected (h : s.portSelMonitor = some m) : (portSampled s m range flagged los cur).smu.portResult =
    s.smu.portResult.complete (s.portWords m range flagged los cur) := by
  unfold portSampled
  dsimp only
  rw [if_pos h]
  split <;> rfl

theorem portSampled_unselected (h : s.portSelMonitor ≠ some m) :
    (portSampled s m range flagged los cur).smu.portResult = s.smu.portResult := by
  unfold portSampled
  dsimp only
  rw [if_neg h]
  split <;> rfl

end sample

/-! ## Reference channels -/

theorem Smu.setRef_ref_same (m : Smu) (one : Bool) (r : RefChannel) : (m.setRef one r).ref one = r := by
  cases one <;> rfl

theorem Smu.setRef_ref_other (m : Smu) (one : Bool) (r : RefChannel) : (m.setRef one r).ref (!one) = m.ref (!one) := by
  cases one <;> rfl

/-- A reference channel as a write of REF_CTRL makes it; RANGE 3 is limited to 2 (R9, log entry 61). -/
def RefChannel.written (r : RefChannel) (v : Nat) : RefChannel :=
  { r with forceEn := bit v 1, measureCurrent := bit v 2, range := min 2 (bits v 3 2), connect := bit v 5 }

/-- A write of REF_CTRL that no conflict stops, without GO. -/
theorem refCtrl_sets {s : State} {v : Word32} (hgo : bit v.toNat 6 = false)
    (hfree : bit v.toNat 1 = false ∨ ((s.smu.ref (!bit v.toNat 0)).forceEn = false ∧
      (bit v.toNat 5 = false ∨ s.dacOnBus = false))) :
    refCtrl s v = { s with smu := { s.smu.setRef (bit v.toNat 0) ((s.smu.ref (bit v.toNat 0)).written v.toNat) with
      refSel1 := bit v.toNat 0 } } := by
  have free : ¬ (bit v.toNat 1 && ((s.smu.ref (!bit v.toNat 0)).forceEn || (bit v.toNat 5 && s.dacOnBus))) = true := by
    rcases hfree with h | ⟨h, h' | h'⟩
    · simp [h]
    · simp [h, h']
    · simp [h, h']
  unfold refCtrl
  dsimp only
  rw [if_neg free, hgo]
  rfl

/-- A trigger of a conversion while none is in progress. -/
theorem refGo_starts {s : State} (hidle : s.smu.refBusy = none) : refGo s = { s with smu := { s.smu with
    refBusy := some (s.smu.refSel1, s.dt), refResult := s.smu.refResult.trigger } } := by
  rw [refGo, if_neg (by simp [hidle])]

/-- GO of SS_CTRL for a record and a target that pass their checks, while no single-shot point is out. -/
theorem ssGo_starts {s : State} (hidle : s.smu.ssRun = none) (hpoint : pointOk (pointOf s.smu.ssPoint) = true)
    (hplaced : s.targetPlaced s.smu.ssActuator s.smu.ssTarget = true)
    (hfits : s.listFits s.smu.ssActuator s.smu.ssTarget [pointOf s.smu.ssPoint] = true) :
    ssGo s = { s with smu := { s.smu with
      ssRun := some ({ target := s.smu.ssTarget, actuator := s.smu.ssActuator, single := true, readySince := s.dt },
        pointOf s.smu.ssPoint)
      ssResult := s.smu.ssResult.trigger } } := by
  rw [ssGo, if_neg (by simp [hidle])]
  exact if_neg (by simp [hpoint, hplaced, hfits])

end Sys2Proof.Machine

namespace Sys2Proof.Safety

open Sys2Proof.Machine

/-! ## Reads -/

/-- A read of a register gives its word, and changes no more than `f` says. -/
theorem readRow_run {s : State} (h : s.chip.mainRun = true) (f : State → Word32 × State) :
    readRow s f = .next (after s ((f s).2.emit (.readData [(f s).1]))) := mainRow_run h _

theorem readRow_gives {s : State} (f : State → Word32 × State) (h : (f s).2.out = s.out) :
    Gives s (after s ((f s).2.emit (.readData [(f s).1]))) [.readData [(f s).1]] := by
  have added := after_adds_out s ((f s).2.emit (.readData [(f s).1]))
  rwa [State.emit_out, h] at added

/-! ## Single-shot points -/

theorem ssCtrlGo_triggers {s : State} (hq : Quiet s) (hmain : s.chip.mainRun = true) (hidle : s.smu.ssRun = none)
    (hpoint : pointOk (pointOf s.smu.ssPoint) = true)
    (hplaced : s.targetPlaced s.smu.ssActuator s.smu.ssTarget = true)
    (hfits : s.listFits s.smu.ssActuator s.smu.ssTarget [pointOf s.smu.ssPoint] = true) :
    ∃ t, exec .ssCtrlGo s = .next t ∧
      t.smu.ssRun = some ({ target := s.smu.ssTarget, actuator := s.smu.ssActuator, single := true, readySince := s.dt },
        pointOf s.smu.ssPoint) ∧ t.smu.ssResult = s.smu.ssResult.trigger := by
  have hgo := ssGo_starts hidle hpoint hplaced hfits
  obtain ⟨hh, hr⟩ : Quiet (ssGo s) := by rw [hgo]; exact hq
  refine ⟨_, mainRow_run hmain ssGo, ?_, ?_⟩
  · rw [(after_runs hh hr s).2, hgo]
  · rw [after_smu_field (·.ssResult) (fun _ => rfl), hgo]

theorem ssResultRead_answers {s : State} (hmain : s.chip.mainRun = true) :
    ∃ t, exec .ssResultRead s = .next t ∧ Gives s t [.readData [s.smu.ssResult.word]] ∧
      t.smu.ssResult = s.smu.ssResult.read :=
  ⟨_, readRow_run hmain readSsResult, readRow_gives readSsResult rfl, after_smu_field (·.ssResult) (fun _ => rfl) ..⟩

/-! ## Port samples -/

theorem portSelWrite_selects (v : Word32) {s : State} (hmain : s.chip.mainRun = true) :
    ∃ t, exec (.portSelWrite v) s = .next t ∧ t.smu.portSel = bits v.toNat 0 10 ∧ t.smu.portSelIn = bit v.toNat 10 ∧
      t.smu.portResult = s.smu.portResult.trigger :=
  ⟨_, mainRow_run hmain (selectPort · v), after_smu_field (·.portSel) (fun _ => rfl) ..,
    after_smu_field (·.portSelIn) (fun _ => rfl) .., after_smu_field (·.portResult) (fun _ => rfl) ..⟩

theorem portResultRead_answers {s : State} (hmain : s.chip.mainRun = true) :
    ∃ t, exec .portResultRead s = .next t ∧
      Gives s t [.readData [if s.portSelMonitor.isSome then s.smu.portResult.word else 0]] ∧
      t.smu.portResult = s.smu.portResult.read :=
  ⟨_, readRow_run hmain readPortResult, readRow_gives readPortResult rfl, after_smu_field (·.portResult) (fun _ => rfl) ..⟩

/-- The monitor that a command has written, and the others, once the command is over. -/
theorem after_setMonitor {s t : State} {m : Nat} {v : Monitor} (h : t.smu.monitors = (s.setMonitor m v).smu.monitors) :
    (after s t).monitor m = v ∧ ∀ k, k ≠ m → (after s t).monitor k = s.monitor k := by
  have hmonitor (k : Nat) : (after s t).monitor k = (s.setMonitor m v).monitor k :=
    (after_monitor s t k).trans (congrArg (fun ms : Tab Monitor => tabGet ms {} k) h)
  exact ⟨(hmonitor m).trans (s.setMonitor_same m v), fun k hk => (hmonitor k).trans (s.setMonitor_other m v hk)⟩

/-- The lock-in of the port may follow the sample; it is no matter of the SMU engine. -/
theorem exec_portSampleReceive {tile c range : Nat} {flag los : Bool} {code : Int} {x : Bool × PortRec} {s : State}
    (hport : s.img.portOfMonitor (8 * tile + c) = some x) :
    ∃ u, exec (.portSampleReceive tile c range flag code los) s = .next (after s u) ∧
      u.smu = (portSampled s (8 * tile + c) range (flag || (s.monitor (8 * tile + c)).onBus) los
        (portCurrent code range)).smu := by
  obtain ⟨input, port⟩ := x
  change ∃ u, execPortSampleReceive tile c range flag code los s = _ ∧ _
  unfold execPortSampleReceive
  dsimp only
  rw [hport]
  dsimp only
  split
  · exact ⟨_, rfl, rfl⟩
  · split
    · split
      · exact ⟨_, rfl, rfl⟩
      · exact ⟨_, rfl, rfl⟩
    · exact ⟨_, rfl, rfl⟩

theorem portSampleReceive_samples (tile c range : Nat) (flag los : Bool) (code : Int) {x : Bool × PortRec} {s : State}
    (hport : s.img.portOfMonitor (8 * tile + c) = some x) :
    let old := s.monitor (8 * tile + c)
    let cur := portCurrent code range
    ∃ t, exec (.portSampleReceive tile c range flag code los) s = .next t ∧
      t.monitor (8 * tile + c) = { old with range, flag := flag || old.onBus, current := cur, sampled := true } ∧
      (∀ m, m ≠ 8 * tile + c → t.monitor m = s.monitor m) ∧
      (s.portSelMonitor = some (8 * tile + c) →
        t.smu.portResult = s.smu.portResult.complete (s.portWords (8 * tile + c) range (flag || old.onBus) los cur)) ∧
      (s.portSelMonitor ≠ some (8 * tile + c) → t.smu.portResult = s.smu.portResult) := by
  obtain ⟨u, hexec, hu⟩ := exec_portSampleReceive (flag := flag) (los := los) (range := range) (code := code) hport
  obtain ⟨hmonitor, hother⟩ := after_setMonitor ((congrArg Smu.monitors hu).trans (portSampled_monitors ..))
  have hresult := (after_smu_field (·.portResult) (fun _ => rfl) s u).trans (congrArg Smu.portResult hu)
  exact ⟨_, hexec, hmonitor, hother,
    fun h => hresult.trans (portSampled_selected _ _ _ _ _ _ h),
    fun h => hresult.trans (portSampled_unselected _ _ _ _ _ _ h)⟩

/-! ## Reference channels -/

theorem refCtrlWrite_sets (v : Word32) {s : State} (hmain : s.chip.mainRun = true) (hgo : bit v.toNat 6 = false)
    (hfree : bit v.toNat 1 = false ∨ ((s.smu.ref (!bit v.toNat 0)).forceEn = false ∧
      (bit v.toNat 5 = false ∨ s.dacOnBus = false))) :
    ∃ t, exec (.refCtrlWrite v) s = .next t ∧
      t.smu.ref (bit v.toNat 0) = (s.smu.ref (bit v.toNat 0)).written v.toNat ∧
      t.smu.ref (!bit v.toNat 0) = s.smu.ref (!bit v.toNat 0) ∧ t.smu.refSel1 = bit v.toNat 0 ∧
      t.smu.refConflict = s.smu.refConflict := by
  have hset := refCtrl_sets hgo hfree
  refine ⟨_, mainRow_run hmain (refCtrl · v), ?_⟩
  rw [hset]
  exact ⟨(after_smu_field (·.ref (bit v.toNat 0)) (fun _ => rfl) ..).trans (Smu.setRef_ref_same ..),
    (after_smu_field (·.ref (!bit v.toNat 0)) (fun _ => rfl) ..).trans (Smu.setRef_ref_other ..),
    after_smu_field (·.refSel1) (fun _ => rfl) .., after_smu_field (·.refConflict) (fun _ => rfl) ..⟩

theorem refConversionGo_triggers {s : State} (hmain : s.chip.mainRun = true) (hidle : s.smu.refBusy = none) :
    ∃ t, exec .refConversionGo s = .next t ∧ t.smu.refBusy = some (s.smu.refSel1, s.dt) ∧
      t.smu.refResult = s.smu.refResult.trigger ∧ t.smu.refTrigLost = s.smu.refTrigLost := by
  refine ⟨_, mainRow_run hmain refGo, ?_⟩
  rw [refGo_starts hidle]
  exact ⟨after_smu_field (·.refBusy) (fun _ => rfl) .., after_smu_field (·.refResult) (fun _ => rfl) ..,
    after_smu_field (·.refTrigLost) (fun _ => rfl) ..⟩

theorem exec_refConversionDone (v : Int) (isOver : Bool) {one : Bool} {a : Nat} {s : State}
    (hbusy : s.smu.refBusy = some (one, a)) (hdue : a + 50 * usTicks ≤ s.dt) :
    exec (.refConversionDone v isOver) s = .next (after s { s with smu := { s.smu with
      refBusy := none
      refResult := s.smu.refResult.complete
        [BitVec.ofNat 32 (2 ^ 10 * b2n one + 2 ^ 11 * b2n isOver), BitVec.ofInt 32 v] } }) := by
  change execRefConversionDone v isOver s = _
  unfold execRefConversionDone
  rw [hbusy]
  exact if_neg (Nat.not_lt.2 hdue)

theorem refResultRead_answers {s : State} (hmain : s.chip.mainRun = true) :
    ∃ t, exec .refResultRead s = .next t ∧ t.smu.refResult = s.smu.refResult.read ∧
      Gives s t [.readData [s.smu.refResult.word |||
        BitVec.ofNat 32 (2 ^ 12 * b2n s.smu.refConflict + 2 ^ 13 * b2n s.smu.refTrigLost)]] :=
  ⟨_, readRow_run hmain readRefResult, after_smu_field (·.refResult) (fun _ => rfl) ..,
    readRow_gives readRefResult rfl⟩

/-- Settles O23, row by row: the trigger, the end and the read of each result, and the write of REF_CTRL (log entry 61). -/
theorem singleShotRowsComplete : Obligations.SingleShotRowsComplete := by
  unfold Obligations.SingleShotRowsComplete
  exact ⟨fun _ hq hmain hidle hpoint hplaced hfits => ssCtrlGo_triggers hq hmain hidle hpoint hplaced hfits,
    fun _ _ hmain => ssResultRead_answers hmain,
    fun v _ hmain => portSelWrite_selects v hmain,
    fun _ _ hmain => portResultRead_answers hmain,
    fun tile c range flag los code _ _ hport => portSampleReceive_samples tile c range flag los code hport,
    fun v _ hmain hgo hfree => refCtrlWrite_sets v hmain hgo hfree,
    fun _ hmain hidle => refConversionGo_triggers hmain hidle,
    fun v isOver _ _ _ hbusy hdue => ⟨_, exec_refConversionDone v isOver hbusy hdue,
      after_smu_field (·.refBusy) (fun _ => rfl) .., after_smu_field (·.refResult) (fun _ => rfl) ..⟩,
    fun _ _ hmain => refResultRead_answers hmain⟩

end Sys2Proof.Safety

/-! SUPPORT. A round of the temperature sensors (R471 to R476): the reports of a cycle in their order, what recording them
leaves of the housekeeping unit, and the safe state that a report of severity S3 brings. -/

namespace Sys2Proof.Machine

/-! ## The reports of a cycle, in order (R423) -/

theorem mem_insertReport {a b : Report} {l : List Report} (h : b ∈ insertReport a l) : b = a ∨ b ∈ l := by
  induction l with
  | nil => exact .inl (List.mem_singleton.1 h)
  | cons c l ih =>
    unfold insertReport at h
    split at h
    · exact List.mem_cons.1 h
    · rcases List.mem_cons.1 h with rfl | hb
      · exact .inr (List.mem_cons_self ..)
      · exact (ih hb).imp_right (List.mem_cons_of_mem c)

theorem mem_sortReports {b : Report} {l : List Report} (h : b ∈ sortReports l) : b ∈ l := by
  induction l with
  | nil => exact h
  | cons a l ih =>
    rcases mem_insertReport h with rfl | hb
    · exact List.mem_cons_self ..
    · exact List.mem_cons_of_mem a (ih hb)

theorem Report.before_self (a : Report) : Report.before a a = true := by simp [Report.before]

/-- A report that comes before all others of its cycle is written first. -/
theorem sortReports_first {a : Report} {l : List Report} (hmem : a ∈ l)
    (hfirst : ∀ b ∈ l, b ≠ a → Report.before a b = true ∧ Report.before b a = false) : ∃ m, sortReports l = a :: m := by
  induction l with
  | nil => cases hmem
  | cons b l ih =>
    change ∃ m, insertReport b (sortReports l) = a :: m
    by_cases hb : b = a
    · subst hb
      cases hs : sortReports l with
      | nil => exact ⟨[], rfl⟩
      | cons c m =>
        have hc : Report.before b c = true := by
          by_cases hcb : c = b
          · rw [hcb, Report.before_self]
          · have hcl : c ∈ l := mem_sortReports (hs ▸ List.mem_cons_self ..)
            exact (hfirst c (List.mem_cons_of_mem b hcl) hcb).1
        exact ⟨c :: m, if_pos hc⟩
    · have ha : a ∈ l := (List.mem_cons.1 hmem).resolve_left fun h => hb h.symm
      obtain ⟨m, hm⟩ := ih ha fun c hc => hfirst c (List.mem_cons_of_mem b hc)
      rw [hm]
      exact ⟨_, if_neg (ne_true_of_eq_false (hfirst b (List.mem_cons_self ..) hb).2)⟩

/-! ## The safe state (R430) -/

theorem countUncleared_safeState (u : Faults) (v : Nat) : (countUncleared u v).safeState = u.safeState := by
  unfold countUncleared
  split <;> rfl

theorem loseRecord_safeState (u : Faults) (f : FaultRec) : (loseRecord u f).safeState = u.safeState := by
  unfold loseRecord
  split <;> rfl

theorem makeRoom_safeState (u : Faults) (spill : Bool) : (makeRoom u spill).safeState = u.safeState := by
  unfold makeRoom
  split
  · rfl
  · split
    · split
      · rfl
      · split
        · split
          · rfl
          · exact loseRecord_safeState ..
        · rfl
    · split
      · rfl
      · split
        · rfl
        · exact loseRecord_safeState ..

theorem msix_faults (s : State) (v : Nat) : (s.msix v).faults = s.faults := by
  unfold State.msix
  split
  · split <;> rfl
  · rfl

theorem recordNew_safeState (s : State) (r : Report) (sev : Nat) (simul inj : Bool) :
    (recordNew s r sev simul inj).faults.safeState = s.faults.safeState := by
  have written : (makeRoom (countUncleared s.faults sev) (s.ddrReady && !s.loops.throttled)).safeState =
      s.faults.safeState :=
    (makeRoom_safeState ..).trans (countUncleared_safeState ..)
  unfold recordNew
  dsimp only
  split
  · exact (congrArg Faults.safeState (msix_faults ..)).trans written
  · exact written

theorem recordAon_safeState (s : State) (r : Report) (sev : Nat) (simul : Bool) :
    (recordAon s r sev simul).faults.safeState = s.faults.safeState := countUncleared_safeState ..

end Sys2Proof.Machine

namespace Sys2Proof.Safety

open Sys2Proof.Machine

/-- What entry to the safe state stops, before it opens the DAC switches (R430). -/
def lightStopped (s : State) (q : Nat) : State :=
  let s1 := lsuSafeState { s with faults := { s.faults with safeState := true, safeSeq := q } }
  let s2 := abortPoints s1 fun _ => true
  let s3 := (s2.calib.runs.filter fun r => r.running && r.kind ≠ .channel).foldl
    (fun s r => s.down r.tile "ABORT" [r.target % 1024]) s2
  loseCalRuns (endRuns s3 (fun _ => true) endLost) fun _ => true

theorem enterSafeState_eq (s : State) (q : Nat) :
    enterSafeState s q = if s.faults.safeState then s else (openToCal (lightStopped s q)).msix 16 := rfl

theorem lightStopped_only (s : State) (q : Nat) : Only [.out, .elems, .runs, .calRuns, .links, .lsu]
    { s with faults := { s.faults with safeState := true, safeSeq := q } } (lightStopped s q) :=
  loseCalRuns_only (endRuns_only (.foldl (abortPoints_only (lsuSafeState_only (.refl _ _) (by decide)) (by decide) _)
    fun _ _ h => State.down_only h (by decide) _ _ _) (by decide) _ _) (by decide) _

theorem enterSafeState_safeState (s : State) (q : Nat) : (enterSafeState s q).faults.safeState = true := by
  rw [enterSafeState_eq]
  split
  next h => exact h
  next =>
    have opened := openToCal_only (.refl [.house] (lightStopped s q)) (List.Subset.refl _) .faults (by decide)
    have stopped := lightStopped_only s q .faults (by decide)
    exact (congrArg Faults.safeState (msix_faults ..)).trans
      ((congrArg Faults.safeState opened).trans (congrArg Faults.safeState stopped))

/-- The safe state, once entered, stands through every report. -/
theorem recordOne_keeps_safeState {s : State} (h : s.faults.safeState = true) (simul inj check : Bool) (r : Report) :
    (recordOne s simul inj check r).faults.safeState = true := by
  unfold recordOne
  generalize (if check = true then 0 else severityOf r.code) = sev
  dsimp only
  split
  · split
    · exact h
    · split
      · exact enterSafeState_safeState ..
      · exact (recordNew_safeState ..).trans h
  · split
    · exact h
    · split
      · exact enterSafeState_safeState ..
      · exact (recordAon_safeState ..).trans h

theorem recordOnes_keep_safeState (simul : Bool) (l : List Report) {s : State} (h : s.faults.safeState = true) :
    (l.foldl (fun s r => recordOne s simul false false r) s).faults.safeState = true := by
  induction l generalizing s with
  | nil => exact h
  | cons r l ih => exact ih (recordOne_keeps_safeState h ..)

/-- A report of severity S3 that becomes a record brings the safe state. -/
theorem recordOne_enters_safeState {s : State} {r : Report} (hmain : s.chip.mainRun = true)
    (hnew : findMerge (s.faults.log ++ s.faults.spill) r s.dt = none) (hsev : severityOf r.code = 3)
    (simul inj : Bool) : (recordOne s simul inj false r).faults.safeState = true := by
  unfold recordOne
  dsimp only
  rw [if_pos hmain, hnew, hsev]
  exact enterSafeState_safeState ..

/-- A reportable report of severity S3 that comes before all others of its cycle brings the safe state. -/
theorem recordReports_enters_safeState {s : State} {r : Report} {rs : List Report} (hmain : s.chip.mainRun = true)
    (hfence : s.fencedSource r = false) (hnew : findMerge (s.faults.log ++ s.faults.spill) r s.dt = none)
    (hsev : severityOf r.code = 3) (hmem : r ∈ rs)
    (hfirst : ∀ b ∈ rs, b ≠ r → Report.before r b = true ∧ Report.before b r = false) :
    (recordReports s rs).faults.safeState = true := by
  obtain ⟨m, hm⟩ := sortReports_first (l := rs.filter fun b => !s.fencedSource b)
    (List.mem_filter.2 ⟨hmem, by rw [hfence]; rfl⟩) fun b hb => hfirst b (List.mem_filter.1 hb).1
  unfold recordReports
  dsimp only
  rw [hm]
  exact recordOnes_keep_safeState _ m (recordOne_enters_safeState hmain hnew hsev _ _)

/-! ## Housekeeping through the reports: only the DAC switches move (R430, R487) -/

section field
variable {α : Type} (f : House → α) (hf : ∀ u, f u = f { u with dacs := [] })
include hf

theorem openToCal_house_field (s : State) : f (openToCal s).house = f s.house := by
  have set (s : State) (k : Nat) (v : Dac) : f (s.setDac k v).house = f s.house := by
    rw [hf (s.setDac k v).house, hf s.house]
    rfl
  have opened (ks : List Nat) (s : State) :
      f (ks.foldl (fun s k => s.setDac k { s.dac k with toCal := false }) s).house = f s.house := by
    induction ks generalizing s with
    | nil => rfl
    | cons k ks ih => exact (ih _).trans (set ..)
  exact opened _ s

theorem enterSafeState_house_field (s : State) (q : Nat) : f (enterSafeState s q).house = f s.house := by
  rw [enterSafeState_eq]
  split
  · rfl
  · have sent := State.msix_only (P := [.out, .irq]) (.refl _ (openToCal (lightStopped s q))) (by decide) 16 .house
      (by decide)
    exact (congrArg f sent).trans ((openToCal_house_field f hf _).trans
      (congrArg f (lightStopped_only s q .house (by decide))))

theorem recordOne_house_field (s : State) (simul inj check : Bool) (r : Report) :
    f (recordOne s simul inj check r).house = f s.house := by
  have new (sev : Nat) := congrArg f (recordNew_only (.refl [.out, .faults, .irq, .loops] s) (List.Subset.refl _) r sev
    simul inj .house (by decide))
  unfold recordOne
  generalize (if check = true then 0 else severityOf r.code) = sev
  dsimp only
  split
  · split
    · rfl
    · split
      · exact (enterSafeState_house_field f hf ..).trans (new _)
      · exact new _
  · split
    · rfl
    · split
      · exact enterSafeState_house_field f hf ..
      · rfl

theorem recordReports_house_field (s : State) (rs : List Report) : f (recordReports s rs).house = f s.house := by
  have recorded (l : List Report) (s : State) (simul : Bool) :
      f (l.foldl (fun s r => recordOne s simul false false r) s).house = f s.house := by
    induction l generalizing s with
    | nil => rfl
    | cons r l ih => exact (ih _).trans (recordOne_house_field f hf ..)
  exact recorded _ s _

end field

end Sys2Proof.Safety

/-! SUPPORT. Housekeeping (R471 to R487): a round of the sensors, conversions of the ADC, the DAC outputs. -/

namespace Sys2Proof.Machine

/-! ## A round of the sensors -/

/-- Reading a table that lists rising keys with the values of a function. -/
theorem tabGet_map {α : Type} (f : Nat → α) (d : α) {ks : List Nat} (hrise : ks.Pairwise (· < ·)) {k : Nat}
    (hk : k ∈ ks) : tabGet (ks.map fun j => (j, f j)) d k = f k := by
  induction ks with
  | nil => cases hk
  | cons a ks ih =>
    obtain ⟨hbelow, hrest⟩ := List.pairwise_cons.1 hrise
    rw [List.map_cons, tabGet]
    rcases List.mem_cons.1 hk with rfl | hmem
    · exact if_pos rfl
    · have hlt := hbelow k hmem
      rw [if_neg (Nat.ne_of_gt hlt), if_neg (Nat.lt_asymm hlt)]
      exact ih hrest hmem

/-- Sensor `n` after a round with the readings `l` (R471). -/
def State.roundTemp (s : State) (l : List Int) (n : Nat) : TempSensor :=
  (tabGet s.house.temps {} n).round (l.getD n 0 + tabGet s.chip.otp.tempTrims 0 n)

/-- The sensors after a round. -/
def State.roundTemps (s : State) (l : List Int) : Tab TempSensor := (List.range 17).map fun n => (n, s.roundTemp l n)

theorem tabGet_roundTemps (s : State) (l : List Int) {n : Nat} (hn : n < 17) :
    tabGet (s.roundTemps l) {} n = s.roundTemp l n :=
  tabGet_map (s.roundTemp l) {} List.pairwise_lt_range (List.mem_range.2 hn)

/-- The sensors that fail in a round (R472). -/
def State.roundFails (s : State) (l : List Int) : List Nat :=
  (List.range 17).filter fun n => sensorFails (tabGet s.house.temps {} n)
    (((List.range 17).map fun n => l.getD n 0 + tabGet s.chip.otp.tempTrims 0 n).getD n 0)

/-- A condition of Table 18-1 after a round: it follows the hottest valid sensor, and stands where there is none. -/
def State.roundCondition (s : State) (l : List Int) (old : Bool) (set clear : Int) : Bool :=
  match hottestSensor (s.roundTemps l) with
  | some x => condition old set clear x.2
  | none => old

theorem roundCondition_hottest {s : State} {l : List Int} {n : Nat} {r : Int}
    (h : hottestSensor (s.roundTemps l) = some (n, r)) (old : Bool) (set clear : Int) :
    s.roundCondition l old set clear = if old then decide (clear ≤ r) else decide (set ≤ r) := by
  rw [State.roundCondition, h]
  rfl

/-- The housekeeping unit after a round, before its reports (R471 to R474). -/
def State.roundHouse (s : State) (l : List Int) : House := { s.house with
  temps := s.roundTemps l
  warn := s.roundCondition l s.house.warn 520 496
  throttle := s.roundCondition l s.house.throttle 568 544
  shutdown := s.roundCondition l s.house.shutdown 608 584
  hottest := match hottestSensor (s.roundTemps l) with
    | some x => x.2
    | none => s.house.hottest
  hotSrc := match hottestSensor (s.roundTemps l) with
    | some x => x.1
    | none => s.house.hotSrc
  centralBand := if (tabGet (s.roundTemps l) {} 16).valid then (tabGet (s.roundTemps l) {} 16).band
    else match hottestSensor (s.roundTemps l) with
      | some x => (tabGet (s.roundTemps l) {} x.1).band
      | none => s.house.centralBand
  throttles := if s.roundCondition l s.house.throttle 568 544 && !s.house.throttle then
    satInc s.house.throttles 0xFFFF else s.house.throttles
  sensorFails := satAdd s.house.sensorFails (s.roundFails l).length 0xFFFF }

/-- The reports of a round (R472, R473, R476). -/
def State.roundReports (s : State) (l : List Int) : List Report :=
  ((s.roundFails l).map fun n => ({ code := 0x0063, source := srcHouse, detail0 := n } : Report))
    ++ (if decide (((s.roundTemps l).filter (·.2.valid)).length < 9) then [{ code := 0x0064, source := srcHouse }] else [])
    ++ (if (s.roundHouse l).warn && !s.house.warn then [{ code := 0x0060, source := srcHouse }] else [])
    ++ (if (s.roundHouse l).throttle && !s.house.throttle then [{ code := 0x0061, source := srcHouse }] else [])
    ++ (if (s.roundHouse l).shutdown && !s.house.shutdown then [{ code := 0x0062, source := srcHouse }] else [])

/-- The vectors and the DIVs that follow a round's reports (R474). -/
def roundNotified (s0 : State) (u : House) (s1 : State) : State :=
  let s2 := if u.warn != s0.house.warn then s1.msix 22 else s1
  if u.throttle != s0.house.throttle then sendThrottleDivs (s2.msix 22) else s2

theorem evaluateRound_eq (s : State) (l : List Int) : evaluateRound s l =
    roundNotified s (s.roundHouse l) (recordReports { s with house := s.roundHouse l } (s.roundReports l)) := rfl

/-- The report that SHUTDOWN has been reached (R473). -/
def shutdownReport : Report := { code := 0x0062, source := srcHouse }

/-- SHUTDOWN is the gravest report of a round, with the lowest code of the gravest, so it is written first (R423). -/
theorem shutdownReport_first {s : State} {l : List Int} {b : Report} (hb : b ∈ s.roundReports l)
    (hne : b ≠ shutdownReport) : Report.before shutdownReport b = true ∧ Report.before b shutdownReport = false := by
  simp only [State.roundReports, List.mem_append, List.mem_map, List.mem_ite_nil_right, List.mem_singleton] at hb
  obtain (((⟨n, -, rfl⟩ | ⟨-, rfl⟩) | ⟨-, rfl⟩) | ⟨-, rfl⟩) | ⟨-, rfl⟩ := hb
  · exact ⟨rfl, rfl⟩
  · exact ⟨rfl, rfl⟩
  · exact ⟨rfl, rfl⟩
  · exact ⟨rfl, rfl⟩
  · exact absurd rfl hne

theorem shutdownReport_mem {s : State} {l : List Int} (hnew : (s.roundHouse l).shutdown = true)
    (hold : s.house.shutdown = false) : shutdownReport ∈ s.roundReports l := by
  refine List.mem_append_right _ ?_
  rw [hnew, hold]
  exact List.mem_singleton.2 rfl

/-! ## Conversions of the ADC -/

/-- What a conversion leaves of its entry; a write that waited for it changes none of these fields (R481, R482). -/
theorem AdcEntry.convert_fields (e : AdcEntry) (c : Nat) (flagged : Bool) :
    (e.convert c flagged).code = c ∧ (e.convert c flagged).settling = flagged ∧
      (e.convert c flagged).alarm = (e.alarm || (!flagged && (decide (c < e.low) || decide (e.high < c)))) ∧
      (e.convert c flagged).window = (if flagged then e.window else decide (c < e.low) || decide (e.high < c)) := by
  unfold AdcEntry.convert AdcEntry.settle
  dsimp only
  split
  · exact ⟨rfl, rfl, rfl, rfl⟩
  · exact ⟨rfl, rfl, rfl, rfl⟩

/-- The state once the entry in progress has its code and the sequence has gone on, or stopped (R481). -/
def adcConverted (s : State) (c : Nat) : State :=
  let k := s.house.adcEntry
  let e := s.adcEntry k
  let s1 := s.setAdcEntry k (e.convert c (s.settling e.ref))
  { s1 with house := { s1.house with
    adcEntry := if s.house.adcStopping || s.house.adcLast ≤ k then 0 else k + 1
    adcStopping := false
    lastRef := some (e.ref, s.dt) } }

/-- GO of ADC_URGENT while no request is outstanding (R483). -/
theorem adcUrgent_starts {s : State} {v : Word32} (hidle : s.house.urgBusy = false) (hgo : bit v.toNat 8 = true) :
    ∃ lost last, adcUrgent s v = { s with house := { s.house with
      urgInput := min 47 (bits v.toNat 0 6), urgRef := min 2 (bits v.toNat 6 2), urgTrigLost := lost, urgBusy := true
      urgAt := s.dt, urgResult := s.house.urgResult.trigger, lastRef := last } } := by
  unfold adcUrgent
  dsimp only
  rw [hidle, hgo]
  exact ⟨_, _, rfl⟩

/-- GO of ADC_URGENT while a request is outstanding is lost (R221). -/
theorem adcUrgent_lost {s : State} {v : Word32} (hbusy : s.house.urgBusy = true) (hgo : bit v.toNat 8 = true) :
    adcUrgent s v = { s with house := { s.house with urgTrigLost := true } } := by
  unfold adcUrgent
  dsimp only
  rw [if_pos hbusy, hgo, Bool.or_true, Bool.true_or]

/-! ## DAC outputs -/

/-- A write of DAC_CTRL_k asks for the switch to the calibration bus, which only channels 0 and 1 have (R486). -/
def dacAsked (k v : Nat) : Bool := bit v 3 && decide (k < 2)

/-- The switch is refused: it is open, and the bus is taken (R486). -/
def State.dacRefused (s : State) (k v : Nat) : Bool := dacAsked k v && !(s.dac k).toCal && s.busTaken

/-- Every channel drives its CLEAR code, whatever is written (R487). -/
def State.dacsCleared (s : State) : Bool := s.house.dacClrLow || !s.chip.mainRun || s.faults.safeState

/-- Channel `k` after a write of DAC_CTRL_k (R484, R486, R487). -/
def State.dacAsWritten (s : State) (k v : Nat) : Dac := { s.dac k with
  sine := bit v 0, gain2 := bit v 1, refPin := bit v 2, written := true, code := bits v 16 16
  busConflict := ((s.dac k).busConflict && !bit v 5) || s.dacRefused k v
  toCal := dacAsked k v && !s.dacRefused k v && !s.dacsCleared }

theorem State.dacCleared_written {s : State} {k : Nat} (h : (s.dac k).written = true) : s.dacCleared k = s.dacsCleared := by
  rw [State.dacCleared, h, Bool.not_true, Bool.or_false, State.dacsCleared]

/-- While the main side runs, the pin DAC_CLR_N and the safe state clear the channels. -/
theorem State.dacsCleared_iff {s : State} (hmain : s.chip.mainRun = true) :
    s.dacsCleared = true ↔ s.house.dacClrLow = true ∨ s.faults.safeState = true := by
  simp [State.dacsCleared, hmain]

section switch
variable {s : State} {k v : Nat}

theorem dacAsWritten_opens_cleared (h : s.dacsCleared = true) : (s.dacAsWritten k v).toCal = false := by
  simp [State.dacAsWritten, h]

theorem dacAsWritten_closes (hdriven : s.dacsCleared = false) (hk : k < 2) (hask : bit v 3 = true)
    (hbus : s.busTaken = false) : (s.dacAsWritten k v).toCal = true := by
  simp [State.dacAsWritten, State.dacRefused, dacAsked, hdriven, hk, hask, hbus]

theorem dacAsWritten_refused (hk : k < 2) (hask : bit v 3 = true) (hbus : s.busTaken = true)
    (hopen : (s.dac k).toCal = false) :
    (s.dacAsWritten k v).toCal = false ∧ (s.dacAsWritten k v).busConflict = true := by
  simp [State.dacAsWritten, State.dacRefused, dacAsked, hk, hask, hbus, hopen]

end switch

theorem dacCtrl_dac_same (s : State) (k : Nat) (v : Word32) : (dacCtrl s k v).dac k = s.dacAsWritten k v.toNat := by
  unfold dacCtrl
  dsimp only
  rw [State.setDac_same, State.setDac_same, State.dacCleared_written (by rw [State.setDac_same])]
  rfl

theorem dacCtrl_dac_other (s : State) {k j : Nat} (h : j ≠ k) (v : Word32) : (dacCtrl s k v).dac j = s.dac j := by
  unfold dacCtrl
  dsimp only
  rw [State.setDac_other _ _ _ h, State.setDac_other _ _ _ h]

/-- A written channel drives its CLEAR code while the channels are cleared, else what was written. -/
theorem dacCtrl_dacOut (s : State) (k : Nat) (v : Word32) : (dacCtrl s k v).dacOut k =
    if s.dacsCleared then (s.dac k).clear else if bit v.toNat 0 then (s.dac k).sineCode else bits v.toNat 16 16 := by
  have written : ((dacCtrl s k v).dac k).written = true := by rw [dacCtrl_dac_same]; rfl
  unfold State.dacOut
  dsimp only
  rw [State.dacCleared_written written, dacCtrl_dac_same]
  rfl

theorem openToCal_dac (s : State) {k : Nat} (hk : k < 4) : (openToCal s).dac k = { s.dac k with toCal := false } := by
  have opened (ks : List Nat) (s : State) : (ks.foldl (fun s k => s.setDac k { s.dac k with toCal := false }) s).dac k =
      if k ∈ ks then { s.dac k with toCal := false } else s.dac k := by
    induction ks generalizing s with
    | nil => rfl
    | cons j ks ih =>
      rw [List.foldl_cons, ih]
      by_cases h : k = j
      · subst h
        simp
      · rw [State.setDac_other _ _ _ h]
        simp [h]
  exact (opened _ s).trans (if_pos (List.mem_range.2 hk))

end Sys2Proof.Machine

namespace Sys2Proof.Safety

open Sys2Proof.Machine

/-! ## A round of the sensors -/

theorem roundNotified_only (s0 : State) (u : House) (s1 : State) :
    Only [.out, .irq, .links] s1 (roundNotified s0 u s1) :=
  .update_if (.update_if (.refl _ s1) fun h => State.msix_only h (by decide) _) fun h =>
    sendThrottleDivs_only (State.msix_only h (by decide) _) (by decide)

theorem evaluateRound_house_field {α : Type} (f : House → α) (hf : ∀ u, f u = f { u with dacs := [] }) (s : State)
    (l : List Int) : f (evaluateRound s l).house = f (s.roundHouse l) := by
  rw [evaluateRound_eq]
  exact (congrArg f (roundNotified_only _ _ _ .house (by decide))).trans (recordReports_house_field f hf _ _)

theorem evaluateRound_shutdown {s : State} {l : List Int} (hnew : (s.roundHouse l).shutdown = true)
    (hold : s.house.shutdown = false) (hrep : Reportable s 0x0062 srcHouse 0) :
    (evaluateRound s l).faults.safeState = true := by
  obtain ⟨hmain, hfence, hmerge⟩ := hrep
  have entered := recordReports_enters_safeState (s := { s with house := s.roundHouse l }) (r := shutdownReport) hmain
    hfence hmerge rfl (shutdownReport_mem hnew hold) fun b => shutdownReport_first
  rw [evaluateRound_eq]
  exact (congrArg Faults.safeState (roundNotified_only _ _ _ .faults (by decide))).trans entered

theorem exec_hkRound {s : State} (hmain : s.chip.mainRun = true) (hdue : s.dt % 2500000 = 50000) (l : List Int) :
    exec (.hkRound l) s = .next (after s (evaluateRound s l)) :=
  if_pos (by simp [hmain, hdue])

theorem after_safeState (s0 s : State) : (after s0 s).faults.safeState = s.faults.safeState := by
  have same := congrArg Faults.safeState (after_same s0 s (p := .faults) (by decide))
  exact same

theorem after_mainRun (s0 s : State) : (after s0 s).chip.mainRun = s.chip.mainRun := by
  have same := congrArg Chip.mainRun (after_same s0 s (p := .chip) (by decide))
  exact same

theorem hkRound_evaluates {s : State} (hmain : s.chip.mainRun = true) (hdue : s.dt % 2500000 = 50000) (l : List Int) :
    ∃ t, exec (.hkRound l) s = .next t ∧ (∀ n, n < 17 → tabGet t.house.temps {} n = s.roundTemp l n) ∧
      ∀ n r, hottestSensor (s.roundTemps l) = some (n, r) →
        t.house.hottest = r ∧ t.house.hotSrc = n ∧
        t.house.warn = (if s.house.warn then decide (496 ≤ r) else decide (520 ≤ r)) ∧
        t.house.throttle = (if s.house.throttle then decide (544 ≤ r) else decide (568 ≤ r)) ∧
        t.house.shutdown = (if s.house.shutdown then decide (584 ≤ r) else decide (608 ≤ r)) ∧
        (s.house.shutdown = false → 608 ≤ r → Reportable s 0x0062 srcHouse 0 → t.faults.safeState = true) := by
  have field {α : Type} (f : House → α) (hf : ∀ u, f u = f { u with dacs := [] }) :
      f (after s (evaluateRound s l)).house = f (s.roundHouse l) :=
    (congrArg f (after_house ..)).trans (evaluateRound_house_field f hf s l)
  refine ⟨_, exec_hkRound hmain hdue l, fun n hn => ?_, fun n r hhot => ?_⟩
  · rw [field (·.temps) fun _ => rfl]
    exact tabGet_roundTemps s l hn
  · have shutdown := roundCondition_hottest hhot s.house.shutdown 608 584
    refine ⟨?_, ?_, (field (·.warn) fun _ => rfl).trans (roundCondition_hottest hhot ..),
      (field (·.throttle) fun _ => rfl).trans (roundCondition_hottest hhot ..),
      (field (·.shutdown) fun _ => rfl).trans shutdown, fun hold hr hrep => ?_⟩
    · rw [field (·.hottest) fun _ => rfl, State.roundHouse, hhot]
    · rw [field (·.hotSrc) fun _ => rfl, State.roundHouse, hhot]
    · rw [after_safeState]
      refine evaluateRound_shutdown (shutdown.trans ?_) hold hrep
      rw [hold]
      exact decide_eq_true hr

/-! ## Conversions of the ADC -/

theorem exec_adcConversionDone {s : State} {c : Nat} (hmain : s.chip.mainRun = true) (hconv : s.house.converting = true)
    (hc : c < 4096) : exec (.adcConversionDone c) s = .next (after s (adcConverted s c)) :=
  if_neg (by simp [hmain, hconv, hc])

theorem adcConversionDone_converts {s : State} {c : Nat} (hmain : s.chip.mainRun = true)
    (hconv : s.house.converting = true) (hc : c < 4096) :
    let k := s.house.adcEntry
    let e := s.adcEntry k
    let out := decide (c < e.low) || decide (e.high < c)
    ∃ t, exec (.adcConversionDone c) s = .next t ∧ (t.adcEntry k).code = c ∧ (t.adcEntry k).settling = s.settling e.ref ∧
      (t.adcEntry k).alarm = (e.alarm || (!s.settling e.ref && out)) ∧
      (t.adcEntry k).window = (if s.settling e.ref then e.window else out) ∧
      t.house.adcEntry = (if s.house.adcStopping || decide (s.house.adcLast ≤ k) then 0 else k + 1) ∧
      t.house.lastRef = some (e.ref, s.dt) ∧ ∀ j, j ≠ k → t.adcEntry j = s.adcEntry j := by
  intro k e out
  have hentry : (after s (adcConverted s c)).adcEntry k = e.convert c (s.settling e.ref) :=
    (after_adcEntry ..).trans (State.setAdcEntry_same ..)
  obtain ⟨hcode, hsettling, halarm, hwindow⟩ := e.convert_fields c (s.settling e.ref)
  rw [← hentry] at hcode hsettling halarm hwindow
  exact ⟨_, exec_adcConversionDone hmain hconv hc, hcode, hsettling, halarm, hwindow,
    congrArg House.adcEntry (after_house ..), congrArg House.lastRef (after_house ..),
    fun j hj => (after_adcEntry ..).trans (State.setAdcEntry_other _ _ _ hj)⟩

theorem adcUrgentGo_starts {s : State} {v : Word32} (hmain : s.chip.mainRun = true) (hidle : s.house.urgBusy = false)
    (hgo : bit v.toNat 8 = true) :
    ∃ t, exec (.adcUrgentGo v) s = .next t ∧ t.house.urgBusy = true ∧ t.house.urgInput = min 47 (bits v.toNat 0 6) ∧
      t.house.urgRef = min 2 (bits v.toNat 6 2) ∧ t.house.urgAt = s.dt ∧
      t.house.urgResult = { s.house.urgResult with ready := false } := by
  obtain ⟨lost, last, hstart⟩ := adcUrgent_starts hidle hgo
  refine ⟨_, mainRow_run hmain (adcUrgent · v), ?_⟩
  rw [after_house, hstart]
  exact ⟨rfl, rfl, rfl, rfl, rfl⟩

theorem adcUrgentGo_lost {s : State} {v : Word32} (hmain : s.chip.mainRun = true) (hbusy : s.house.urgBusy = true)
    (hgo : bit v.toNat 8 = true) :
    ∃ t, exec (.adcUrgentGo v) s = .next t ∧ t.house = { s.house with urgTrigLost := true } := by
  refine ⟨_, mainRow_run hmain (adcUrgent · v), ?_⟩
  rw [after_house, adcUrgent_lost hbusy hgo]

theorem adcUrgentResultRead_answers {s : State} (hmain : s.chip.mainRun = true) :
    ∃ t, exec .adcUrgentResultRead s = .next t ∧ .readData [s.house.urgResult.word] ∈ t.out ∧
      t.house = { s.house with urgResult := s.house.urgResult.read } :=
  ⟨_, readRow_run hmain readUrgResult, (readRow_gives readUrgResult rfl).subset (by simp [readUrgResult]), after_house ..⟩

theorem exec_adcUrgentConversionDone {s : State} {c : Nat} (hmain : s.chip.mainRun = true)
    (hbusy : s.house.urgBusy = true) (hc : c < 4096) (hdue : s.house.urgAt + 1250 ≤ s.dt) :
    exec (.adcUrgentConversionDone c) s = .next (after s { s with house := { s.house with
      urgBusy := false
      urgResult := s.house.urgResult.complete
        [BitVec.ofNat 32 (2 ^ 10 * c + 2 ^ 22 * b2n (s.settling s.house.urgRef))]
      lastRef := some (s.house.urgRef, s.dt) } }) := by
  have elapsed : s.house.urgAt + adcTicks ≤ s.dt := hdue
  exact if_neg (by simp [hmain, hbusy, hc, elapsed])

/-! ## DAC outputs -/

theorem after_dacOut (s0 s : State) (k : Nat) : (after s0 s).dacOut k = s.dacOut k := by
  unfold State.dacOut State.dacCleared
  rw [after_dac, after_house, after_mainRun, after_safeState]

theorem exec_dacCtrlWrite {s : State} {k : Nat} (hmain : s.chip.mainRun = true) (hk : k < 4) (v : Word32) :
    exec (.dacCtrlWrite k v) s = .next (after s (dacCtrl s k v)) :=
  (mainRow_run hmain fun s => if k < 4 then dacCtrl s k v else s).trans (by rw [if_pos hk])

theorem dacCtrlWrite_drives {s : State} {k : Nat} (hmain : s.chip.mainRun = true) (hk : k < 4) (v : Word32) :
    ∃ t, exec (.dacCtrlWrite k v) s = .next t ∧ (t.dac k).code = bits v.toNat 16 16 ∧ (t.dac k).gain2 = bit v.toNat 1 ∧
      (t.dac k).written = true ∧ (∀ j, j ≠ k → t.dac j = s.dac j) ∧
      (s.house.dacClrLow = false → s.faults.safeState = false → bit v.toNat 0 = false →
        t.dacOut k = bits v.toNat 16 16) ∧
      (s.house.dacClrLow = true ∨ s.faults.safeState = true → t.dacOut k = (s.dac k).clear ∧ (t.dac k).toCal = false) ∧
      (s.house.dacClrLow = false → s.faults.safeState = false → k < 2 → bit v.toNat 3 = true → s.busTaken = false →
        (t.dac k).toCal = true) ∧
      (k < 2 → bit v.toNat 3 = true → s.busTaken = true → (s.dac k).toCal = false →
        (t.dac k).toCal = false ∧ (t.dac k).busConflict = true) := by
  have cleared := State.dacsCleared_iff hmain
  have driven (hpin : s.house.dacClrLow = false) (hsafe : s.faults.safeState = false) : s.dacsCleared = false :=
    Bool.eq_false_iff.2 fun h => by simpa [hpin, hsafe] using cleared.1 h
  refine ⟨_, exec_dacCtrlWrite hmain hk v, ?_⟩
  rw [after_dacOut, dacCtrl_dacOut, after_dac, dacCtrl_dac_same]
  refine ⟨rfl, rfl, rfl, fun j hj => (after_dac ..).trans (dacCtrl_dac_other s hj v), fun hpin hsafe hsine => ?_,
    fun h => ⟨if_pos (cleared.2 h), dacAsWritten_opens_cleared (cleared.2 h)⟩,
    fun hpin hsafe => dacAsWritten_closes (driven hpin hsafe), dacAsWritten_refused⟩
  rw [driven hpin hsafe, hsine]
  rfl

theorem dacClrNChange_clears (s : State) :
    ∃ t, exec (.dacClrNChange true) s = .next t ∧ ∀ k, k < 4 → (t.dac k).toCal = false ∧ t.dacOut k = (s.dac k).clear := by
  refine ⟨_, rfl, fun k hk => ?_⟩
  have hdac := openToCal_dac { s with house := { s.house with dacClrLow := true } } hk
  have hlow : (openToCal { s with house := { s.house with dacClrLow := true } }).house.dacClrLow = true :=
    openToCal_house_field (·.dacClrLow) (fun _ => rfl) _
  rw [if_pos rfl, after_dac, after_dacOut, State.dacOut, State.dacCleared, hlow, hdac]
  exact ⟨rfl, rfl⟩

/-- Settles O57, row by row: rounds of the sensors, conversions and urgent conversions (log entries 117, 118), DAC outputs. -/
theorem housekeepingRowsComplete : Obligations.HousekeepingRowsComplete := by
  unfold Obligations.HousekeepingRowsComplete
  exact ⟨fun l s hmain hdue => hkRound_evaluates hmain hdue l,
    fun _ _ hmain hconv hc => adcConversionDone_converts hmain hconv hc,
    fun v s hmain => ⟨⟨_, mainRow_run hmain (adcCtrl · v), congrArg House.adcRun (after_house ..),
        congrArg House.adcLast (after_house ..), (congrArg House.adc (after_house ..)).trans rfl⟩,
      adcUrgentGo_starts hmain, adcUrgentGo_lost hmain, adcUrgentResultRead_answers hmain⟩,
    fun _ _ hmain hbusy hc hdue => ⟨_, exec_adcUrgentConversionDone hmain hbusy hc hdue,
      congrArg House.urgBusy (after_house ..), congrArg House.urgResult (after_house ..),
      (congrArg House.adcEntry (after_house ..)).trans rfl⟩,
    fun _ v _ hmain hk => dacCtrlWrite_drives hmain hk v,
    fun s => ⟨dacClrNChange_clears s, _, rfl, after_house ..⟩⟩

end Sys2Proof.Safety

/-! SUPPORT. CAL_TIMEOUT (R227): the count of DEFERRED runs goes no further than its register's 16 bits. -/

namespace Sys2Proof.Safety

open Sys2Proof.Machine

/-- A CAL_TIMEOUT that ends runs leaves the count of DEFERRED within 16 bits, whatever it was before. -/
theorem calTimeout_deferred_le {s : State} {r : CalRun} {n : Nat} (hr : r ∈ s.calib.runs)
    (htimed : r.timedOut s.dt = true) (hbatch : r.batches.contains n = true) :
    ∃ t, exec (.calTimeout n) s = .next t ∧ t.calib.deferred ≤ 0xFFFF := by
  have hgone : r ∈ s.calib.runs.filter fun r => r.timedOut s.dt && r.batches.contains n := by
    rw [List.mem_filter, htimed, hbatch]
    exact ⟨hr, rfl⟩
  refine ⟨_, if_neg (by simpa using List.ne_nil_of_mem hgone), ?_⟩
  rw [after_calib_field (·.deferred) (fun _ => rfl)]
  exact Nat.min_le_right ..

/-- A run that no time is given to wait, and a count of DEFERRED beyond 16 bits. -/
def deferredBeyond : State :=
  { calib := { runs := [{ target := 0, batches := [0], timeout := some 0 }], deferred := 0x10000 } }

/-- Refutes O25: the statement lets CAL_TIMEOUT start from any count of DEFERRED, but the count saturates at 0xFFFF, so from
0x10000 it falls. -/
theorem not_calibrationVerbsComplete : ¬ Obligations.CalibrationVerbsComplete := by
  unfold Obligations.CalibrationVerbsComplete
  rintro ⟨-, -, -, -, -, -, hgrows, -⟩
  obtain ⟨t, ht, -, hle⟩ := hgrows 0 deferredBeyond ⟨rfl, rfl⟩ ⟨_, List.mem_singleton_self _, rfl, rfl⟩
  obtain ⟨u, hu, hcap⟩ := calTimeout_deferred_le (s := deferredBeyond) (n := 0) (List.mem_singleton_self _) rfl rfl
  cases hu.symm.trans ht
  exact absurd (Nat.le_trans hle hcap) (by decide)

end Sys2Proof.Safety

/-! SUPPORT. Calibration runs (R228 to R236): the run that begins, goes on, fails or passes, with what each step leaves of
the element, the queue and the counts; the losses of a path (R232). -/

namespace Sys2Proof.Machine

/-! ## A run that begins, and one that goes on -/

theorem State.queuedRun_eq {s : State} {k : RunKind} {e : Nat} {r : CalRun} (h : s.queuedRun k e = some r) :
    r ∈ s.calib.runs ∧ r.kind = k ∧ r.target = e := by
  have found := List.find?_some h
  simp only [Bool.and_eq_true, beq_iff_eq] at found
  exact ⟨List.mem_of_find?_eq_some h, found.1.2, found.2⟩

/-- The tile of a run of an element. -/
theorem CalRun.tile_elem {r : CalRun} (h : r.kind ≠ .channel) : r.tile = eidTile r.target := if_neg h

/-- The queued run as it begins with drives `ds`, its element held at `hold` (R228 step 1). -/
def CalRun.begun (r : CalRun) (hold : Nat) (ds : List Nat) : CalRun := { r with
  running := true, timeout := none, hold, todo := ds, measured := [], pullIn := none }

/-- The queue with run `r` in its next form `q`. -/
def runReplaced (s : State) (r q : CalRun) : State :=
  { s with calib := { s.calib with runs := s.calib.runs.map fun x => if x = r then q else x } }

theorem mem_runReplaced {s : State} {r : CalRun} (h : r ∈ s.calib.runs) (q : CalRun) :
    q ∈ (runReplaced s r q).calib.runs := List.mem_map.2 ⟨r, h, if_pos rfl⟩

theorem beginRun_cons (s : State) (r : CalRun) (d : Nat) (ds : List Nat) :
    beginRun s r (d :: ds) = ((runReplaced s r (r.begun (s.elem r.target).drive (d :: ds))).setElem r.target
      { s.elem r.target with paused := true }).down r.tile "CAL_POINT" [r.target % 1024, d] := by
  have moved (q : CalRun) (hold : Nat) : (if q = r then q.begun hold (d :: ds) else q) =
      if q = r then r.begun hold (d :: ds) else q := by
    split
    next h => rw [h]
    next => rfl
  unfold runReplaced
  rw [List.map_congr_left fun q _ => (moved q _).symm]
  rfl

/-- A run with the mean sense of its trial drive `d` (R228). -/
def CalRun.tried (r : CalRun) (d v : Nat) (rest : List Nat) : CalRun :=
  { r with measured := r.measured ++ [(d, v)], todo := rest }

/-- The element's trial at the tile is over. -/
def trialOver (s : State) (tile j : Nat) : State :=
  s.modTile tile fun x => { x with trial := if (x.trial.map (·.1)) = some j then none else x.trial }

section sense
variable {s : State} {tile j d : Nat} {r : CalRun} (v : Nat)
  (hrun : s.calib.runs.find? (fun r => r.running && r.kind != .channel && r.target == 1024 * tile + j) = some r)
  (hkind : r.kind = .micro)
include hrun hkind

theorem execCalSenseReceive_next {d2 : Nat} {ds : List Nat} (htodo : r.todo = d :: d2 :: ds) :
    execCalSenseReceive tile j v s = ok s (nextPoint (trialOver s tile j) r (r.tried d v (d2 :: ds)) d2) := by
  unfold execCalSenseReceive
  dsimp only
  rw [hrun]
  dsimp only
  rw [htodo]
  exact if_pos (beq_iff_eq.2 hkind)

theorem execCalSenseReceive_last (htodo : r.todo = [d]) :
    execCalSenseReceive tile j v s =
      ok s (endMicro (runReplaced (trialOver s tile j) r (r.tried d v [])) (r.tried d v [])) := by
  unfold execCalSenseReceive
  dsimp only
  rw [hrun]
  dsimp only
  rw [htodo]
  exact if_pos (beq_iff_eq.2 hkind)

end sense

/-! ## A run that fails (R233) -/

/-- The state once a failed run has left and is counted, before its report. -/
def runFailed (s : State) (r : CalRun) (code : Nat) : State :=
  let s1 := countBatches (leaveRun s r code) r fun b => { b with failed := b.failed + 1 }
  let s2 := { s1 with calib := { s1.calib with failed := satInc s1.calib.failed 0xFFFF } }
  s2.modElem r.target fun x => { x with
    calFails := if x.calFails = 2 then 0 else x.calFails + 1
    events := if x.calFails = 2 && x.st ≠ .uncal && x.st ≠ .retired then x.events ++ [.suspect] else x.events }

theorem failRun_eq (s : State) (r : CalRun) (code : Nat) :
    failRun s r code = (runFailed s r code).report 0x0044 srcSmu r.target code := rfl

theorem runFailed_failed (s : State) (r : CalRun) (code : Nat) :
    (runFailed s r code).calib.failed = satInc s.calib.failed 0xFFFF := rfl

/-- The element of a failed run has its code, and its loop goes on. -/
theorem runFailed_elem (s : State) (r : CalRun) (code : Nat) :
    ((runFailed s r code).elem r.target).calLast = code ∧ ((runFailed s r code).elem r.target).paused = false := by
  have left : ((leaveRun s r code).elem r.target).calLast = code ∧ ((leaveRun s r code).elem r.target).paused = false := by
    rw [leaveRun, State.modElem_same]
    exact ⟨rfl, rfl⟩
  rw [runFailed, State.modElem_same]
  exact left

/-! ## A channel run that passes (R236) -/

/-- The state once a channel run whose pairs `new` all pass has left and is counted, and the tile's record is in service. -/
def channelPassed (s : State) (tile : Nat) (r : CalRun) (new : List (Nat × Int × Int)) : State :=
  let s1 := (List.range 9).foldl (fun (s : State) c => (s.down tile "SMU_BUS" [c, 1]).down tile "SMU_BUS" [c, 0]) s
  let s2 := countBatches s1 r fun b => { b with passed := b.passed + 1, failed := b.failed + 0, skipped := b.skipped + b2n false }
  { s2 with calib := { s2.calib with
    runs := s2.calib.runs.filter (· ≠ r)
    tiles := tabSet s2.calib.tiles tile { pairs := new, lastTemp := (s.link tile).temp }
    passed := satInc s2.calib.passed 0xFFFF } }

theorem exec_calChannelRun_passes {s : State} {tile : Nat} {fits : List (Nat × Int × Int)} {r : CalRun}
    (hrun : s.queuedRun .channel tile = some r) (hwork : s.working = true) (hcool : s.loops.throttled = false)
    (hreach : s.tileReach tile = true) (hbus : s.smu.bus = .nobody) (hgood : s.smu.busFault = false)
    (hdark : ∀ c, c < 9 → s.litChannel tile c = false)
    (hpass : ∀ f ∈ fits, pairOk (tilePair (s.tileRec tile) f.1) f.2 = true) :
    ∃ new, exec (.calChannelRun tile fits) s = .next (after s (channelPassed s tile r new)) := by
  have chans : (List.range 9).filter (fun c => !s.litChannel tile c) = List.range 9 :=
    List.filter_eq_self.2 fun c hc => by rw [hdark c (List.mem_range.1 hc)]; rfl
  have passes (l : List (Nat × Int × Int)) (hl : l ⊆ fits) :
      l.filter (fun f => pairOk (tilePair (s.tileRec tile) f.1) f.2) = l :=
    List.filter_eq_self.2 fun f hf => hpass f (hl hf)
  change ∃ new, execCalChannelRun tile fits s = _
  unfold execCalChannelRun
  rw [hrun]
  dsimp only
  rw [if_neg (by simp [hwork, hcool, hreach, hbus]), if_neg (by simp [hgood]), chans,
    passes _ List.filter_sublist.subset]
  simp only [if_true, List.length_range]
  exact ⟨_, rfl⟩

end Sys2Proof.Machine

namespace Sys2Proof.Safety

open Sys2Proof.Machine

/-! ## Reading a frame of `Only` -/

theorem Only.calib_eq {P : List Part} {s t : State} (h : Only P s t) (hc : .calib ∉ P) (hr : .calRuns ∉ P) :
    t.calib = s.calib := by
  have hrest := h .calib hc
  obtain ⟨hruns, hbatches⟩ := h .calRuns hr
  simp only [Part.same] at hrest
  generalize t.calib = a at *
  generalize s.calib = b at *
  cases a
  cases b
  simp_all only [Calib.mk.injEq]

section field
variable {α : Type} {P : List Part} {s t : State} (h : Only P s t)
include h

theorem Only.faults_field (hp : .faults ∉ P) (f : Faults → α) (hf : ∀ u, f u = f { u with errLevel := 0, resumes := [] }) :
    f t.faults = f s.faults := by rw [hf t.faults, hf s.faults, (h .faults hp :)]

theorem Only.chip_field (hp : .chip ∉ P) (f : Chip → α) (hf : ∀ u, f u = f { u with
    otp := {}, digestBusy := false, digestAgain := false, digestCurrent := false, restart := {} }) :
    f t.chip = f s.chip := by rw [hf t.chip, hf s.chip, (h .chip hp :)]

theorem Only.calib_field (hp : .calib ∉ P) (f : Calib → α) (hf : ∀ u, f u = f { u with runs := [], batches := [] }) :
    f t.calib = f s.calib := by rw [hf t.calib, hf s.calib, (h .calib hp :)]

theorem Only.mate_field (hp : .mate ∉ P) (f : Mate → α)
    (hf : ∀ u, f u = f { u with handover := .none, sent := 0, unacked := [], waits := [] }) :
    f t.mate = f s.mate := by rw [hf t.mate, hf s.mate, (h .mate hp :)]

end field

theorem Only.elem_eq {P : List Part} {s t : State} (h : Only P s t) (he : .elems ∉ P) (e : Nat) : t.elem e = s.elem e :=
  congrArg (fun es : Tab Elem => tabGet es {} e) (h .elems he)

theorem Only.down (s : State) (k : Nat) (name : String) (fields : List Nat) : Only [.out, .links] s (s.down k name fields) :=
  State.down_only (.refl _ s) (List.Subset.refl _) k name fields

/-- A report finds the collector as it was before a command's other effects. -/
theorem Reportable.of_only {P : List Part} {s t : State} {code source d0 : Nat} (h : Reportable s code source d0)
    (ht : Only P s t) (hf : .faults ∉ P) (hc : .chip ∉ P) (hr : .regions ∉ P) (hd : .dt ∉ P) :
    Reportable t code source d0 ∧ t.faults.nextSeq = s.faults.nextSeq ∧ t.dt = s.dt := by
  obtain ⟨hmain, hsource, hmerge⟩ := h
  have hchip : t.chip.mainRun = s.chip.mainRun := ht.chip_field hc (·.mainRun) fun _ => rfl
  have hregions : t.regions = s.regions := ht .regions hr
  have hdt : t.dt = s.dt := ht .dt hd
  refine ⟨⟨hchip.trans hmain, ?_, ?_⟩, ht.faults_field hf (·.nextSeq) fun _ => rfl, hdt⟩
  · rw [← hsource]
    simp only [State.fencedSource, State.region, hregions, ht.faults_field hf (·.tileFences) fun _ => rfl]
  · rw [hdt, ht.faults_field hf (·.log) fun _ => rfl, ht.faults_field hf (·.spill) fun _ => rfl]
    exact hmerge

/-- A report after a command's other effects leaves a record, as one before them would. -/
theorem report_record_of_only {P : List Part} {s t : State} {code source d0 : Nat} (h : Reportable s code source d0)
    (ht : Only P s t) (hf : .faults ∉ P) (hc : .chip ∉ P) (hr : .regions ∉ P) (hd : .dt ∉ P) (d1 : Nat) :
    NewRecord s (t.report code source d0 d1) code source d0 := by
  obtain ⟨hreport, hseq, hdt⟩ := h.of_only ht hf hc hr hd
  have record := report_record hreport d1
  unfold NewRecord at record
  rwa [hseq, hdt] at record

/-! ## A run begins -/

theorem exec_calMicroRun {s : State} {e d : Nat} {ds : List Nat} {r : CalRun} (hrun : s.queuedRun .micro e = some r)
    (hnext : s.runsNext r = true) (hdrives : s.microDrives e (s.elem e).drive = d :: ds) :
    exec (.calMicroRun e) s = .next (after s (beginRun s r (d :: ds))) := by
  change execCalMicroRun e s = _
  unfold execCalMicroRun
  rw [hrun]
  dsimp only
  rw [hnext, hdrives]
  rfl

theorem exec_calFullRun {s : State} {e : Nat} {r : CalRun} (hrun : s.queuedRun .full e = some r)
    (hnext : s.runsNext r = true) :
    exec (.calFullRun e) s = .next (after s (beginRun s r [(s.cls (s.elemClass e)).driveMin])) := by
  change execCalFullRun e s = _
  unfold execCalFullRun
  rw [hrun]
  exact if_pos hnext

/-- A run of element `e` that has begun: the element's loop is paused, its first trial drive is out, and the queue holds it. -/
theorem beginRun_begins {s : State} {k : RunKind} {e d : Nat} {ds : List Nat} {r : CalRun} (hq : Quiet s)
    (hrun : s.queuedRun k e = some r) (hk : k ≠ .channel) :
    let t := after s (beginRun s r (d :: ds))
    t.elem e = { s.elem e with paused := true } ∧ (∀ j, j ≠ e → t.elem j = s.elem j) ∧
      Gives s t [.downFrame (eidTile e) "CAL_POINT" [e % 1024, d]] ∧
      r.begun (s.elem e).drive (d :: ds) ∈ t.calib.runs := by
  obtain ⟨hmem, rfl, rfl⟩ := State.queuedRun_eq hrun
  have hbegin := beginRun_cons s r d ds
  have hquiet : Quiet (beginRun s r (d :: ds)) :=
    hq.of_only (beginRun_only (.refl _ s) (List.Subset.refl _) r _) (by decide) (by decide)
  have hframe := Only.down ((runReplaced s r (r.begun (s.elem r.target).drive (d :: ds))).setElem r.target
    { s.elem r.target with paused := true }) r.tile "CAL_POINT" [r.target % 1024, d]
  rw [← hbegin] at hframe
  have helem (j : Nat) : (after s (beginRun s r (d :: ds))).elem j = _ :=
    (after_elem hquiet.1 hquiet.2 s j).trans (hframe.elem_eq (by decide) j)
  refine ⟨(helem _).trans (State.setElem_same ..), fun j hj => (helem j).trans (State.setElem_other _ _ _ hj), ?_, ?_⟩
  · refine after_gives ?_ hquiet.1 hquiet.2 s
    rw [hbegin, State.down_out, CalRun.tile_elem hk]
    rfl
  · rw [(after_calRuns hquiet.1 hquiet.2 s).1, hframe.calib_eq (by decide) (by decide)]
    exact mem_runReplaced hmem _

/-! ## A run goes on, or fails -/

theorem runReplaced_only {P : List Part} {o s : State} (h : Only P o s) (hp : .calRuns ∈ P) (r q : CalRun) :
    Only P o (runReplaced s r q) := .set_calib (.inr rfl) (.inl hp) h

theorem runFailed_only {P : List Part} {o s : State} (h : Only P o s) (hp : [.elems, .calib, .calRuns] ⊆ P) (r : CalRun)
    (code : Nat) : Only P o (runFailed s r code) :=
  State.modElem_only (.set_calib (.inl (hp (by decide))) (.inl (hp (by decide))) (countBatches_only
    (leaveRun_only h hp r code) (List.Subset.trans (by decide) hp) r _)) (List.Subset.trans (by decide) hp) _ _

/-- What a failed run leaves: the count, its element's code, the loop that goes on, its record (R233). -/
theorem failRun_leaves {s u : State} (hq : Quiet s) (hu : Only [.tiles, .calRuns] s u) (r : CalRun) (code : Nat) :
    let t := after s (failRun u r code)
    t.calib.failed = satInc s.calib.failed 0xFFFF ∧ (t.elem r.target).calLast = code ∧
      (t.elem r.target).paused = false ∧
      (Reportable s 0x0044 srcSmu r.target → NewRecord s t 0x0044 srcSmu r.target) := by
  have hframe : Only [.tiles, .elems, .calib, .calRuns] s (runFailed u r code) :=
    runFailed_only (hu.mono (by decide)) (by decide) r code
  have hcount : u.calib.failed = s.calib.failed := hu.calib_field (by decide) (·.failed) fun _ => rfl
  obtain ⟨hlast, hpaused⟩ := runFailed_elem u r code
  have hreport : Only [.out, .faults, .irq, .loops] (runFailed u r code) (failRun u r code) :=
    report_minor (by decide) srcSmu r.target code
  have hquiet : Quiet (failRun u r code) :=
    (hq.of_only hframe (by decide) (by decide)).of_only hreport (by decide) (by decide)
  have helem : (after s (failRun u r code)).elem r.target = (runFailed u r code).elem r.target :=
    (after_elem hquiet.1 hquiet.2 s _).trans (hreport.elem_eq (by decide) _)
  refine ⟨?_, by rw [helem, hlast], by rw [helem, hpaused], fun hrep => ?_⟩
  · rw [after_calib_field (·.failed) (fun _ => rfl), hreport.calib_field (by decide) (·.failed) fun _ => rfl,
      runFailed_failed, hcount]
  · have record := report_record_of_only hrep hframe (by decide) (by decide) (by decide) (by decide) code
    unfold NewRecord
    rwa [after_faults hquiet.1 hquiet.2 s]

section sense
variable {s : State} {tile j d : Nat} {r : CalRun} (v : Nat) (hq : Quiet s)
  (hrun : s.calib.runs.find? (fun r => r.running && r.kind != .channel && r.target == 1024 * tile + j) = some r)
  (hkind : r.kind = .micro)
include hrun

theorem senseRun_target : r.target = 1024 * tile + j := by
  have found := List.find?_some hrun
  simp only [Bool.and_eq_true, beq_iff_eq] at found
  exact found.2

include hq hkind

theorem calSenseReceive_goes_on (hj : j < 1024) {d2 : Nat} {ds : List Nat} (htodo : r.todo = d :: d2 :: ds) :
    ∃ t, exec (.calSenseReceive tile j v) s = .next t ∧ Gives s t [.downFrame tile "CAL_POINT" [j, d2]] ∧
      r.tried d v (d2 :: ds) ∈ t.calib.runs := by
  have htarget := senseRun_target hrun
  have htile : r.tile = tile := by
    rw [CalRun.tile_elem (by simp [hkind]), htarget, eidTile]
    omega
  have hquiet : Quiet (nextPoint (trialOver s tile j) r (r.tried d v (d2 :: ds)) d2) :=
    hq.of_only (nextPoint_only (P := [.out, .calRuns, .links, .tiles]) (State.modTile_only (.refl _ s) (by decide) _ _)
      (by decide) _ _ _) (by decide) (by decide)
  refine ⟨_, execCalSenseReceive_next v hrun hkind htodo, after_gives ?_ hquiet.1 hquiet.2 s, ?_⟩
  · rw [nextPoint, State.down_out, htile, htarget, show (1024 * tile + j) % 1024 = j by omega]
    rfl
  · rw [(after_calRuns hquiet.1 hquiet.2 s).1, nextPoint, (Only.down _ _ _ _).calib_eq (by decide) (by decide)]
    exact mem_runReplaced (s := trialOver s tile j) (List.mem_of_find?_eq_some hrun) _

/-- A micro run with its last mean, whose senses do not rise with the drives, fails with code 3 (Table 8-3). -/
theorem calSenseReceive_fails (htodo : r.todo = [d]) (hfalls : monotonic (r.measured ++ [(d, v)]) = false) :
    ∃ t, exec (.calSenseReceive tile j v) s = .next t ∧ t.calib.failed = satInc s.calib.failed 0xFFFF ∧
      (t.elem (1024 * tile + j)).calLast = 3 ∧ (t.elem (1024 * tile + j)).paused = false ∧
      (Reportable s 0x0044 srcSmu (1024 * tile + j) → NewRecord s t 0x0044 srcSmu (1024 * tile + j)) := by
  have hframe : Only [.tiles, .calRuns] s (runReplaced (trialOver s tile j) r (r.tried d v [])) :=
    runReplaced_only (State.modTile_only (.refl _ s) (by decide) _ _) (by decide) _ _
  have htarget : (r.tried d v []).target = 1024 * tile + j := (senseRun_target hrun :)
  have hexec := execCalSenseReceive_last v hrun hkind htodo
  rw [endMicro, if_pos (by rw [CalRun.tried, hfalls]; rfl)] at hexec
  obtain ⟨hfailed, hfails⟩ := failRun_leaves hq hframe (r.tried d v []) 3
  rw [htarget] at hfails
  exact ⟨_, hexec, hfailed, hfails⟩

end sense

/-! ## A channel run passes -/

theorem channelPassed_only (s : State) (tile : Nat) (r : CalRun) (new : List (Nat × Int × Int)) :
    Only [.out, .links, .calib, .calRuns] s (channelPassed s tile r new) :=
  .set_calib (.inl (by decide)) (.inl (by decide)) <| countBatches_only (.foldl (.refl _ s) fun _ _ h =>
    State.down_only (State.down_only h (by decide) _ _ _) (by decide) _ _ _) (by decide) _ _

/-- What a channel run that has passed leaves of the queue, the counts and the tiles' records. -/
theorem channelPassed_calib (s : State) (tile : Nat) (r : CalRun) (new : List (Nat × Int × Int)) :
    (channelPassed s tile r new).calib.runs = s.calib.runs.filter (· ≠ r) ∧
      (channelPassed s tile r new).calib.passed = satInc s.calib.passed 0xFFFF ∧
      (channelPassed s tile r new).calib.tiles =
        tabSet s.calib.tiles tile { pairs := new, lastTemp := (s.link tile).temp } := by
  have switched : ((List.range 9).foldl (fun (s : State) c => (s.down tile "SMU_BUS" [c, 1]).down tile "SMU_BUS" [c, 0])
      s).calib = s.calib :=
    Only.calib_eq (P := [.out, .links]) (.foldl (.refl _ s) fun _ _ h =>
      State.down_only (State.down_only h (by decide) _ _ _) (by decide) _ _ _) (by decide) (by decide)
  unfold channelPassed countBatches
  dsimp only
  rw [switched]
  exact ⟨rfl, rfl, rfl⟩

theorem calChannelRun_passes {s : State} {tile : Nat} {fits : List (Nat × Int × Int)} {r : CalRun} (hq : Quiet s)
    (hrun : s.queuedRun .channel tile = some r) (hwork : s.working = true) (hcool : s.loops.throttled = false)
    (hreach : s.tileReach tile = true) (hbus : s.smu.bus = .nobody) (hgood : s.smu.busFault = false)
    (hdark : ∀ c, c < 9 → s.litChannel tile c = false)
    (hpass : ∀ f ∈ fits, pairOk (tilePair (s.tileRec tile) f.1) f.2 = true) :
    ∃ t, exec (.calChannelRun tile fits) s = .next t ∧ t.calib.runs = s.calib.runs.filter (· ≠ r) ∧
      t.calib.passed = satInc s.calib.passed 0xFFFF ∧ (t.tileRec tile).lastTemp = (s.link tile).temp ∧
      ∀ k, k ≠ tile → t.tileRec k = s.tileRec k := by
  obtain ⟨new, hexec⟩ := exec_calChannelRun_passes hrun hwork hcool hreach hbus hgood hdark hpass
  obtain ⟨hruns, hpassed, htiles⟩ := channelPassed_calib s tile r new
  have hquiet : Quiet (channelPassed s tile r new) := hq.of_only (channelPassed_only s tile r new) (by decide) (by decide)
  have hrec : (after s (channelPassed s tile r new)).calib.tiles = _ :=
    (after_calib_field (·.tiles) (fun _ => rfl) ..).trans htiles
  refine ⟨_, hexec, (after_calRuns hquiet.1 hquiet.2 s).1.trans hruns,
    (after_calib_field (·.passed) (fun _ => rfl) ..).trans hpassed, ?_, fun k hk => ?_⟩
  · rw [State.tileRec, hrec, tabGet_tabSet_same]
  · rw [State.tileRec, hrec, tabGet_tabSet_other _ _ _ hk, State.tileRec]

/-! ## The losses of a path -/

/-- Losses given to the elements of a list by a function of the element. -/
theorem elem_foldl_ilEst (f : Nat → Nat) (es : List Nat) (s : State) (e : Nat) :
    ((es.map fun e => (e, f e)).foldl (fun (s : State) x => s.modElem x.1 fun y => { y with ilEst := some x.2 }) s).elem e =
      if e ∈ es then { s.elem e with ilEst := some (f e) } else s.elem e := by
  induction es generalizing s with
  | nil => rfl
  | cons a es ih =>
    rw [List.map_cons, List.foldl_cons, ih]
    by_cases h : e = a
    · subst h
      simp
    · simp [h, State.modElem_other _ _ _ h]

theorem exec_pathLossUpdate {s : State} {ip mi mo : Nat} {k : Conn} (hconn : s.conn ip = some k)
    (hlit : (clauseOf k.clause).lit = true) (hwork : s.working = true)
    (hin : (s.img.inPort ip).bind (·.monitor) = some mi)
    (hout : (s.img.outPort (clauseOf k.clause).outPort).bind (·.monitor) = some mo) :
    let es := (clauseOf k.clause).eids s.img.stages
    let power := fun m => Config.dbm (s.monitor m).current (s.img.losOf m).respMil
    exec (.pathLossUpdate ip) s = .next (after s
      ((es.map fun e => (e, Config.pathLoss (s.ilEst e) (s.pathCost es) (power mi) (power mo))).foldl
        (fun (s : State) x => s.modElem x.1 fun y => { y with ilEst := some x.2 }) s)) := by
  change execPathLossUpdate ip s = _
  unfold execPathLossUpdate
  rw [hconn]
  dsimp only
  rw [hin, hout]
  exact if_neg (by simp [hlit, hwork])

theorem pathLossUpdate_updates {s : State} {ip mi mo : Nat} {k : Conn} (hq : Quiet s) (hconn : s.conn ip = some k)
    (hlit : (clauseOf k.clause).lit = true) (hwork : s.working = true)
    (hin : (s.img.inPort ip).bind (·.monitor) = some mi)
    (hout : (s.img.outPort (clauseOf k.clause).outPort).bind (·.monitor) = some mo) :
    let es := (clauseOf k.clause).eids s.img.stages
    let power := fun m => Config.dbm (s.monitor m).current (s.img.losOf m).respMil
    ∃ t, exec (.pathLossUpdate ip) s = .next t ∧ (∀ e, e ∉ es → t.elem e = s.elem e) ∧
      ∀ e ∈ es, t.elem e = { s.elem e with
        ilEst := some (Config.pathLoss (s.ilEst e) (s.pathCost es) (power mi) (power mo)) } := by
  intro es power
  have hquiet : Quiet ((es.map fun e => (e, Config.pathLoss (s.ilEst e) (s.pathCost es) (power mi) (power mo))).foldl
      (fun (s : State) x => s.modElem x.1 fun y => { y with ilEst := some x.2 }) s) :=
    hq.of_only (P := [.elems]) (.foldl (.refl _ s) fun _ _ h => State.modElem_only h (by decide) _ _) (by decide) (by decide)
  have helem (e : Nat) := (after_elem hquiet.1 hquiet.2 s e).trans (elem_foldl_ilEst _ es s e)
  exact ⟨_, exec_pathLossUpdate hconn hlit hwork hin hout, fun e he => (helem e).trans (if_neg he),
    fun e he => (helem e).trans (if_pos he)⟩

/-- Settles O26, row by row: micro and full runs begin, a mean brings the next drive or the failure, a channel run passes
(log entry 69), the losses of a path are updated (log entries 66, 71). -/
theorem calibrationRunsComplete : Obligations.CalibrationRunsComplete := by
  unfold Obligations.CalibrationRunsComplete
  refine ⟨fun e d ds r s hq hrun hnext hdrives => ?_, fun e r s hq hrun hnext => ?_,
    fun tile j v d d2 ds r s hq hj hrun hkind htodo => calSenseReceive_goes_on v hq hrun hkind hj htodo,
    fun tile j v d r s hq _ hrun hkind htodo hfalls => calSenseReceive_fails v hq hrun hkind htodo hfalls,
    fun tile fits r s hq hrun hwork hcool hreach hbus hgood hdark hpass =>
      calChannelRun_passes hq hrun hwork hcool hreach hbus hgood hdark hpass,
    fun ip mi mo k s hq hconn hlit hwork hin hout => pathLossUpdate_updates hq hconn hlit hwork hin hout⟩
  · obtain ⟨helem, hother, hgives, hmem⟩ := beginRun_begins (d := d) (ds := ds) hq hrun nofun
    obtain ⟨-, -, htarget⟩ := State.queuedRun_eq hrun
    exact ⟨_, exec_calMicroRun hrun hnext hdrives, helem, hother, hgives, _, hmem, htarget, rfl, rfl, rfl⟩
  · obtain ⟨helem, hother, hgives, -⟩ := beginRun_begins hq hrun nofun
    exact ⟨_, exec_calFullRun hrun hnext, helem, hother, hgives⟩

end Sys2Proof.Safety

/-! SUPPORT. Links under frames (R249, R265): what frames to the tiles move of a link, and that the operations of adoption move
no more of it than they say. -/

namespace Sys2Proof.Machine

/-! ## What frames leave alone of a link -/

/-- A link without what frames move of it: its streams, the pending CRC inversion, the counts of writes. -/
def Link.still (l : Link) : Link :=
  { l with near := {}, injectCrc := false, epoch := 0, epochDirty := false, acksOpen := 0 }

/-- From `s` to `t` frames alone have moved the links. -/
structure FramesOnly (s t : State) : Prop where
  still : ∀ k, (t.link k).still = (s.link k).still

theorem FramesOnly.refl (s : State) : FramesOnly s s := ⟨fun _ => rfl⟩

theorem FramesOnly.trans {s t u : State} (h : FramesOnly s t) (h' : FramesOnly t u) : FramesOnly s u :=
  ⟨fun k => (h'.still k).trans (h.still k)⟩

theorem FramesOnly.of_links {s t : State} (h : t.paost.links = s.paost.links) : FramesOnly s t :=
  ⟨fun k => congrArg (fun ls : Tab Link => (tabGet ls {} k).still) h⟩

/-- Links that stood still before frames moved them. -/
theorem FramesOnly.since {s t u : State} (h : FramesOnly t u) (hl : t.paost.links = s.paost.links) : FramesOnly s u :=
  (FramesOnly.of_links hl).trans h

@[simp] theorem State.emit_link (s : State) (o : Output) (k : Nat) : (s.emit o).link k = s.link k := rfl

theorem down_frames (s : State) (k : Nat) (name : String) (fields : List Nat) : FramesOnly s (s.down k name fields) := by
  refine ⟨fun j => ?_⟩
  unfold State.down
  split
  · rfl
  · rw [State.emit_link]
    by_cases hj : j = k
    · rw [hj, State.modLink_same]
      rfl
    · rw [State.modLink_other _ _ _ hj]

theorem FramesOnly.ite {o s t : State} {c : Prop} [Decidable c] (hs : FramesOnly o s) (ht : FramesOnly o t) :
    FramesOnly o (if c then s else t) := by split <;> assumption

theorem FramesOnly.foldl {α : Type} {o s : State} {f : State → α → State} {l : List α} (h : FramesOnly o s)
    (hf : ∀ s x, FramesOnly s (f s x)) : FramesOnly o (l.foldl f s) := by
  induction l generalizing s with
  | nil => exact h
  | cons x l ih => exact ih (h.trans (hf s x))

/-- A field of a link that frames do not move. -/
theorem Link.field_of_still {α : Type} {l m : Link} (h : l.still = m.still) (f : Link → α) (hf : ∀ l, f l = f l.still) :
    f l = f m := by rw [hf l, hf m, h]

/-! ## Arm slots and the calibration bus -/

theorem slotFrames_frames (t : Nat) : ∀ (s : State) (l : List (Nat × Nat)), FramesOnly s (slotFrames s t l)
  | s, [] => .refl s
  | s, [_] => down_frames s ..
  | s, _ :: _ :: r => (down_frames s ..).trans (slotFrames_frames t _ r)

theorem fillSlot_frames (s : State) (t slot : Nat) (es : List (Nat × Nat)) : FramesOnly s (fillSlot s t slot es) :=
  (down_frames s ..).trans (slotFrames_frames t _ es)

theorem rewriteSlots_frames (s : State) (e : Nat) : FramesOnly s (rewriteSlots s e) := by
  refine .foldl (.refl s) fun s p => ?_
  split
  · exact .refl s
  · exact .ite (fillSlot_frames ..) (.refl s)

theorem takeSurface_frames (s : State) (e : Nat) (u : Surface) : FramesOnly s (takeSurface s e u) :=
  .ite (.since (rewriteSlots_frames _ e) rfl) (.of_links rfl)

theorem retune_frames (s : State) (t : Nat) : FramesOnly s (retune s t) :=
  .foldl (.refl s) fun s e => takeSurface_frames s e _

theorem busSwitch_frames (s : State) (t c : Nat) (on : Bool) : FramesOnly s (busSwitch s t c on) :=
  .ite ((down_frames s ..).trans (.of_links rfl)) (down_frames s ..)

theorem freeBus_frames (s : State) : FramesOnly s (freeBus s) := by
  unfold freeBus
  split
  · exact .refl s
  · exact .since (busSwitch_frames ..) rfl
  · exact .since (busSwitch_frames ..) rfl

/-! ## The rewrite of a tile's mirror (R258, R267) -/

theorem sendClassList_frames (s : State) (t : Nat) (ks es : List Nat) : FramesOnly s (sendClassList s t ks es) := by
  unfold sendClassList
  split
  · exact down_frames s ..
  · exact .foldl (.refl s) fun s _ => down_frames s ..

theorem sendDivs_frames (s : State) (t c : Nat) : FramesOnly s (sendDivs s t c) :=
  .foldl (.refl s) fun s _ => down_frames s ..

theorem sendFast_frames (s : State) (t c : Nat) (es : List Nat) : FramesOnly s (sendFast s t c es) :=
  .foldl (.refl s) fun s _ => down_frames s ..

theorem sendMirrorOf_frames (s : State) (t : Nat) (more : List Nat) : FramesOnly s (sendMirrorOf s t more) :=
  .foldl (((sendClassList_frames s t _ _).trans (sendDivs_frames _ t _)).trans (sendFast_frames _ t _ _)) fun _ _ => .of_links rfl

theorem sendShapes_frames (s : State) (t : Nat) : FramesOnly s (sendShapes s t) :=
  .foldl (.refl s) fun s _ => .foldl (.foldl (.refl s) fun s _ => down_frames s ..)
    fun s _ => down_frames s ..

theorem sendShares_frames (s : State) (t : Nat) : FramesOnly s (sendShares s t) := down_frames s ..

theorem sendArmSlots_frames (s : State) (t : Nat) : FramesOnly s (sendArmSlots s t) := by
  refine .foldl (.refl s) fun s p => ?_
  split
  · exact .refl s
  · exact .ite (.refl s) (fillSlot_frames ..)

end Sys2Proof.Machine

/-! SUPPORT. The end of an adoption (R264 to R267): what it leaves of the tile's link, of its elements and of the output, and
what a try to adopt leaves alone. -/

namespace Sys2Proof.Machine

/-! ## The link of a tile that is adopted or quarantined -/

/-- A link `x` whose tile is adopted with `n` elements moved, by what its link `l` held (R266, R267). -/
def Link.adopted (x l : Link) (n now : Nat) : Link := { x with
  tile := .adopted, stale := l.tile == .quarantined, known := true, tileId := l.identId, idHeld := some l.identId
  corrected := n
  lastSerial := l.identSerial
  lastSerialAt := if l.tile == .quarantined then some now else x.lastSerialAt
  epochDirty := if l.tile == .quarantined then false else x.epochDirty }

/-- A link whose tile is quarantined, with the corrections to come (R267). -/
def Link.quarantined (l : Link) (cs : List (Nat × Nat)) : Link :=
  { l with tile := .quarantined, stale := true, corrections := cs, corrected := cs.length }

/-- What a tile has answered: IDENT, the readback, the temperature. -/
def Link.answers (l : Link) : List (Nat × Word32) × List (Nat × List Nat) × Int × Bool :=
  (l.ident, l.readback, l.temp, l.tempSeen)

theorem Link.answers_still (l : Link) : l.still.answers = l.answers := rfl

/-- An element at the adoption of its tile, whose link is `l`; `moved`: those that corrections have moved. -/
def State.elemAdopted (s : State) (l : Link) (moved : List Nat) (e : Nat) : Elem :=
  s.adoptElem e (if moved.contains e then (s.elem e).drive else l.held (e % 1024))
    (moved.contains e || s.chip.resolvedMoves.contains e)

/-- The elements of tile `t` have taken their states. -/
def elemsAdopted (s : State) (t : Nat) (moved : List Nat) : State :=
  (tileEids t).foldl (fun (s1 : State) e => s1.setElem e (s1.elemAdopted (s.link t) moved e)) s

/-- A tile that was stale is given its epoch. -/
def epochTold (s : State) (t : Nat) (stale : Bool) : State :=
  if stale then s.down t "SET_EPOCH" [(s.link t).epoch] else s

/-- Tile `t` is adopted: its elements have taken their states, its link its own, and SET_EPOCH is out where it was stale. -/
def tileAdopted (s : State) (t : Nat) (moved : List Nat) : State :=
  epochTold ((elemsAdopted s t moved).modLink t fun x => x.adopted (s.link t) moved.length s.dt) t
    ((s.link t).tile == .quarantined)

/-- The moves that restart resolution found at the elements of tile `t` are done with. -/
def movesForgotten (s : State) (t : Nat) : State :=
  { s with chip := { s.chip with resolvedMoves := s.chip.resolvedMoves.filter fun e => eidTile e ≠ t } }

/-- What follows at an adopted tile: a bus it held is freed, a channel run is queued, the traces are entered, its
temperature triggers runs. -/
def adoptionFollowed (s : State) (t : Nat) (otherId : Bool) : State :=
  let s1 := if s.smu.bus.place.any (·.1 == t) && s.smu.busLostAt.isSome then freeBus s else s
  let s2 := if otherId || s1.tileRecBad t then queueRun none none s1 (.channel, t) else s1
  let s3 := movesForgotten s2 t
  calTempTrigger (if s3.chip.strays.isEmpty then s3 else reconstruct s3) t

theorem finishAdoption_eq (s : State) (t : Nat) (moved : List Nat) :
    ∃ otherId, finishAdoption s t moved = adoptionFollowed (tileAdopted s t moved) t otherId := ⟨_, rfl⟩

/-- The elements of tile `t` have the drives that its link `l` read back. -/
def heldTaken (s : State) (l : Link) (t : Nat) : State :=
  (tileEids t).foldl (fun (s : State) e => s.modElem e fun x => { x with drive := l.held (e % 1024), supervised := false }) s

theorem quarantine_eq (s : State) (t : Nat) : quarantine s t = sendArmSlots (sendShares (sendMirrorOf (sendShapes
    (heldTaken (s.modLink t (·.quarantined (s.correctionsOf t))) (s.link t) t) t) t ((s.correctionsOf t).map (·.1))) t) t :=
  rfl

/-! ## Elements at an adoption -/

theorem tileEids_nodup (t : Nat) : (tileEids t).Nodup :=
  List.Pairwise.map (1024 * t + ·) (fun _ _ hne h => hne (Nat.add_left_cancel h)) List.nodup_range

/-- An element that a fold over other elements does not write. -/
theorem elem_foldl_setElem_not_mem (f : State → Nat → Elem) {es : List Nat} {e : Nat} (he : e ∉ es) (s : State) :
    (es.foldl (fun (s : State) a => s.setElem a (f s a)) s).elem e = s.elem e := by
  induction es generalizing s with
  | nil => rfl
  | cons a es ih =>
    rw [List.foldl_cons, ih (List.not_mem_of_not_mem_cons he), State.setElem_other _ _ _ (List.ne_of_not_mem_cons he)]

/-- An element that a fold writes once is as it was when its turn comes. -/
theorem elem_foldl_setElem_mem (f : State → Nat → Elem) {es : List Nat} (hes : es.Nodup) {e : Nat} (he : e ∈ es)
    (s : State) : ∃ u : State, u.elem e = s.elem e ∧
      (es.foldl (fun (s : State) a => s.setElem a (f s a)) s).elem e = f u e := by
  induction es generalizing s with
  | nil => cases he
  | cons a es ih =>
    obtain ⟨ha, hes⟩ := List.nodup_cons.1 hes
    rw [List.foldl_cons]
    by_cases hea : e = a
    · subst hea
      exact ⟨s, rfl, (elem_foldl_setElem_not_mem f ha _).trans (State.setElem_same ..)⟩
    · obtain ⟨u, hu, hfold⟩ := ih hes ((List.mem_cons.1 he).resolve_left hea) (s.setElem a (f s a))
      exact ⟨u, hu.trans (State.setElem_other _ _ _ hea), hfold⟩

/-- An element that a correction has moved goes to SWITCHING (log entry 31). -/
theorem adoptElem_moved {s : State} {e : Nat}
    (h : (s.elem e).st = .darkOff ∨ (s.elem e).st = .darkOn ∨ (s.elem e).st = .lit) (held : Nat) :
    (s.adoptElem e held true).st = .switching := by
  unfold State.adoptElem
  dsimp only
  rcases h with h | h | h
  all_goals
    rw [h]
    rfl

end Sys2Proof.Machine

namespace Sys2Proof.Safety

open Sys2Proof.Machine

/-! ## What follows at an adopted tile -/

theorem fold_st {s s1 : State} {e : Nat} (h : fold s e = some s1) (k : Nat) : (s1.elem k).st = (s.elem k).st := by
  unfold fold at h
  dsimp only at h
  split at h
  · cases h
  · cases h
    have shifted := (shiftRows_only (P := [.calib]) (.refl _ s) (List.Subset.refl _) e (s.link (eidTile e)).temp 0
      (s.elem e).outerTrim).elem_eq (by decide)
    by_cases hk : k = e
    · rw [hk, State.setElem_same]
    · rw [State.setElem_other _ _ _ hk, shifted]

theorem foldAll_st (s : State) (es : List Nat) (k : Nat) : ((foldAll s es).1.elem k).st = (s.elem k).st := by
  unfold foldAll
  refine List.foldlRecOn (motive := fun a : State × Nat × Nat => (a.1.elem k).st = (s.elem k).st) _ _ rfl
    fun a ha e _ => ?_
  split
  next h => exact (fold_st h k).trans ha
  next => exact ha

theorem queueRun_elem (s : State) (batch timeout : Option Nat) (r : RunKind × Nat) (k : Nat) :
    (queueRun batch timeout s r).elem k = s.elem k :=
  (queueRun_only (P := [.calRuns]) (.refl _ s) (List.Subset.refl _) batch timeout r).elem_eq (by decide) k

theorem queueRuns_elem (s : State) (batch timeout : Option Nat) (rs : List (RunKind × Nat)) (k : Nat) :
    (rs.foldl (queueRun batch timeout) s).elem k = s.elem k :=
  Only.elem_eq (P := [.calRuns]) (.foldl (.refl _ s) fun _ _ h => queueRun_only h (List.Subset.refl _) _ _ _) (by decide) k

theorem calTempTrigger_st (s : State) (t k : Nat) : ((calTempTrigger s t).elem k).st = (s.elem k).st := by
  unfold calTempTrigger
  split
  · rfl
  · dsimp only
    split
    · rw [queueRun_elem, foldAll_st, queueRuns_elem]
    · rw [foldAll_st, queueRuns_elem]

theorem freeBus_out (s : State) : s.out <+: (freeBus s).out := by
  have switched (u : State) (t c : Nat) (on : Bool) : u.out <+: (busSwitch u t c on).out := by
    unfold busSwitch
    dsimp only
    split
    · exact down_out u t "SMU_BUS" [c, b2n on]
    · exact down_out u t "SMU_BUS" [c, b2n on]
  unfold freeBus
  split
  · exact List.prefix_refl _
  · exact switched { s with smu := { s.smu with bus := .nobody, busLostAt := none } } ..
  · exact switched { s with smu := { s.smu with bus := .nobody, busLostAt := none } } ..

/-- What follows at an adopted tile once the bus is free, if it was the tile's. -/
theorem adoptionFollowed_freed (s : State) (t : Nat) (otherId : Bool) : ∃ u, (u = freeBus s ∨ u = s) ∧
    Only [.elems, .store, .calib, .calRuns, .chip] u (adoptionFollowed s t otherId) ∧
    ∀ k, ((adoptionFollowed s t otherId).elem k).st = (u.elem k).st := by
  unfold adoptionFollowed
  dsimp only
  generalize hu : (if s.smu.bus.place.any (·.1 == t) && s.smu.busLostAt.isSome then freeBus s else s) = u
  have hqueue : Only [.calRuns] u (if otherId || u.tileRecBad t then queueRun none none u (.channel, t) else u) :=
    .ite (queueRun_only (.refl _ u) (List.Subset.refl _) _ _ _) (.refl _ u)
  generalize (if otherId || u.tileRecBad t then queueRun none none u (.channel, t) else u) = v at hqueue
  have hmoves : Only [.calRuns, .store, .chip] u (movesForgotten v t) :=
    .set_chip (.inl (by decide)) (.inr rfl) (.inr ⟨rfl, rfl, rfl, rfl⟩) (hqueue.mono (by decide))
  generalize movesForgotten v t = w at hmoves
  have htraces : Only [.calRuns, .store, .chip] u (if w.chip.strays.isEmpty then w else reconstruct w) :=
    .ite hmoves (reconstruct_only hmoves (by decide))
  refine ⟨u, ?_, calTempTrigger_only (htraces.mono (by decide)) (by decide) t, fun k => ?_⟩
  · rw [← hu]
    split
    · exact .inl rfl
    · exact .inr rfl
  · rw [calTempTrigger_st, htraces.elem_eq (by decide)]

/-- What follows at an adopted tile moves links by frames alone, adds to the output, leaves the states of the elements. -/
theorem adoptionFollowed_leaves (s : State) (t : Nat) (otherId : Bool) : FramesOnly s (adoptionFollowed s t otherId) ∧
    s.out <+: (adoptionFollowed s t otherId).out ∧ ∀ k, ((adoptionFollowed s t otherId).elem k).st = (s.elem k).st := by
  obtain ⟨u, hu, honly, hst⟩ := adoptionFollowed_freed s t otherId
  have hfollow : FramesOnly u (adoptionFollowed s t otherId) := .of_links (honly .links (by decide))
  have hout : (adoptionFollowed s t otherId).out = u.out := honly .out (by decide)
  rw [hout]
  rcases hu with rfl | rfl
  · have hfree := freeBus_only (P := [.out, .smu, .links]) (.refl _ s) (List.Subset.refl _)
    exact ⟨(freeBus_frames s).trans hfollow, freeBus_out s, fun k => by rw [hst, hfree.elem_eq (by decide)]⟩
  · exact ⟨hfollow, List.prefix_refl _, hst⟩

/-! ## The tile at the end of its adoption -/

theorem elemsAdopted_only (s : State) (t : Nat) (moved : List Nat) : Only [.elems] s (elemsAdopted s t moved) :=
  .foldl (.refl _ s) fun _ _ h => State.setElem_only h (by decide) _ _

theorem elemsAdopted_link (s : State) (t : Nat) (moved : List Nat) (k : Nat) :
    (elemsAdopted s t moved).link k = s.link k :=
  congrArg (fun ls : Tab Link => tabGet ls {} k) (elemsAdopted_only s t moved .links (by decide))

theorem epochTold_only (s : State) (t : Nat) (stale : Bool) : Only [.out, .links] s (epochTold s t stale) :=
  .ite (Only.down _ _ _ _) (.refl _ s)

theorem epochTold_frames (s : State) (t : Nat) (stale : Bool) : FramesOnly s (epochTold s t stale) :=
  .ite (down_frames ..) (.refl s)

theorem tileAdopted_link (s : State) (t : Nat) (moved : List Nat) : ((tileAdopted s t moved).link t).still =
    ((s.link t).adopted (s.link t) moved.length s.dt).still := by
  rw [tileAdopted, (epochTold_frames ..).still t, State.modLink_same, elemsAdopted_link]

theorem tileAdopted_elem (s : State) (t : Nat) (moved : List Nat) (e : Nat) :
    (tileAdopted s t moved).elem e = (elemsAdopted s t moved).elem e :=
  Only.elem_eq (P := [.out, .links]) ((State.modLink_only (.refl _ _) (by decide) t _).trans (epochTold_only _ t _))
    (by decide) e

theorem tileAdopted_out {s : State} {t : Nat} (h : (s.link t).tile = .quarantined) (moved : List Nat) :
    .downFrame t "SET_EPOCH" [(s.link t).epoch] ∈ (tileAdopted s t moved).out := by
  have epoch : (((elemsAdopted s t moved).modLink t fun x => x.adopted (s.link t) moved.length s.dt).link t).epoch =
      (s.link t).epoch := by
    rw [State.modLink_same, elemsAdopted_link]
    rfl
  rw [tileAdopted, h, epochTold, if_pos (beq_self_eq_true _), State.down_out, epoch]
  exact List.mem_append_right _ (List.mem_singleton_self _)

/-- An element that a correction has moved is SWITCHING once its tile is adopted. -/
theorem tileAdopted_moved {s : State} {t e : Nat} {moved : List Nat} (he : e ∈ tileEids t) (hmoved : e ∈ moved)
    (hst : (s.elem e).st = .darkOff ∨ (s.elem e).st = .darkOn ∨ (s.elem e).st = .lit) :
    ((tileAdopted s t moved).elem e).st = .switching := by
  obtain ⟨u, hu, hfold⟩ := elem_foldl_setElem_mem (State.elemAdopted · (s.link t) moved) (tileEids_nodup t) he s
  rw [tileAdopted_elem, elemsAdopted, hfold, State.elemAdopted, List.contains_iff_mem.2 hmoved, Bool.true_or]
  exact adoptElem_moved (by rwa [hu]) _

/-- What an adoption leaves: of the tile's link all but what frames move of it, the elements that corrections have moved,
SET_EPOCH where the tile was stale. -/
theorem finishAdoption_leaves (s : State) (t : Nat) (moved : List Nat) :
    ((finishAdoption s t moved).link t).still = ((s.link t).adopted (s.link t) moved.length s.dt).still ∧
      ((s.link t).tile = .quarantined →
        .downFrame t "SET_EPOCH" [(s.link t).epoch] ∈ (finishAdoption s t moved).out) ∧
      ∀ e ∈ tileEids t, e ∈ moved → ((s.elem e).st = .darkOff ∨ (s.elem e).st = .darkOn ∨ (s.elem e).st = .lit) →
        ((finishAdoption s t moved).elem e).st = .switching := by
  obtain ⟨otherId, h⟩ := finishAdoption_eq s t moved
  obtain ⟨hlinks, hout, hst⟩ := adoptionFollowed_leaves (tileAdopted s t moved) t otherId
  rw [h]
  exact ⟨(hlinks.still t).trans (tileAdopted_link s t moved), fun hstale => hout.subset (tileAdopted_out hstale moved),
    fun e he hmoved he' => (hst e).trans (tileAdopted_moved he hmoved he')⟩

/-! ## A tile that is quarantined -/

theorem quarantine_link (s : State) (t : Nat) :
    ((quarantine s t).link t).still = ((s.link t).quarantined (s.correctionsOf t)).still := by
  have held : Only [.elems] (s.modLink t (·.quarantined (s.correctionsOf t)))
      (heldTaken (s.modLink t (·.quarantined (s.correctionsOf t))) (s.link t) t) :=
    .foldl (.refl _ _) fun _ _ h => State.modElem_only h (by decide) _ _
  have sent := (((sendShapes_frames (heldTaken (s.modLink t (·.quarantined (s.correctionsOf t))) (s.link t) t) t).trans
    (sendMirrorOf_frames _ t ((s.correctionsOf t).map (·.1)))).trans (sendShares_frames _ t)).trans (sendArmSlots_frames _ t)
  rw [quarantine_eq, (sent.since (held .links (by decide))).still t, State.modLink_same]

/-! ## A try to adopt -/

theorem takeoverEnd_idle {s : State} (h : s.mate.takeover ≠ .adopting) : takeoverEnd s = s := by
  rw [takeoverEnd, if_neg (by simp [h])]

/-- What an adoption with no takeover to end may write. -/
def adoptionParts : List Part := [.out, .store, .elems, .smu, .calib, .calRuns, .links, .chip]

theorem Only.takeover_eq {P : List Part} {s t : State} (h : Only P s t) (hp : .mate ∉ P) :
    t.mate.takeover = s.mate.takeover := h.mate_field hp (·.takeover) fun _ => rfl

section adopt
variable {s : State} (h : s.mate.takeover ≠ .adopting) (k : Nat)
include h

theorem tryAdopt_eq : tryAdopt s k =
    if s.adoptReady k then (if (s.link k).current then finishAdoption s k [] else quarantine s k) else s := by
  have hfinish := finishAdoption_only (P := adoptionParts) (.refl _ s) (List.Subset.refl _) k []
  have hquarantine := quarantine_only (P := adoptionParts) (.refl _ s) (by decide) k
  unfold tryAdopt
  rw [takeoverEnd_idle]
  split
  · rwa [hfinish.takeover_eq (by decide)]
  · rwa [hquarantine.takeover_eq (by decide)]

theorem tryAdopt_writes : Only adoptionParts s (tryAdopt s k) := by
  rw [tryAdopt_eq h]
  exact .ite (.ite (finishAdoption_only (.refl _ s) (List.Subset.refl _) k []) (quarantine_only (.refl _ s) (by decide) k))
    (.refl _ s)

/-- A try to adopt keeps what the tile has answered. -/
theorem tryAdopt_answers : ((tryAdopt s k).link k).answers = (s.link k).answers := by
  rw [tryAdopt_eq h]
  split
  · split
    · rw [← Link.answers_still, (finishAdoption_leaves s k []).1]
      rfl
    · rw [← Link.answers_still, quarantine_link]
      rfl
  · rfl

end adopt

end Sys2Proof.Safety

/-! SUPPORT. The answers of tiles, their logs and the heartbeats (R226, R264 to R267, R270, R271, R398, R402): what each row
leaves of the tile's link, and what it gives out. -/

namespace Sys2Proof.Machine

/-! ## IDENT words as received -/

/-- A link with word `w` of IDENT received. -/
def Link.identified (l : Link) (w : Nat) (v : Word32) : Link :=
  { l with ident := (l.ident.filter fun p => p.1 ≠ w) ++ [(w, v)] }

theorem Link.identified_identWord (l : Link) (w : Nat) (v : Word32) : (l.identified w v).identWord w = v.toNat := by
  have gone : (l.ident.filter fun p => p.1 ≠ w).find? (fun p => p.1 = w) = none := by simp
  rw [Link.identWord, Link.identified, List.find?_append, gone]
  simp

/-- A link with part `p` of the readback received. -/
def Link.readBack (l : Link) (p : Nat) (codes : List Nat) : Link :=
  { l with readback := (l.readback.filter fun q => q.1 ≠ p) ++ [(p, codes)] }

theorem askRead_ident (s : State) (k : Nat) : ((askRead s k).link k).ident = (s.link k).ident := by
  unfold askRead
  dsimp only
  split
  · refine (Link.field_of_still ((down_frames ..).still k) (·.ident) fun _ => rfl).trans ?_
    rw [State.setLink_same]
  · rfl

/-! ## A tile claimed again -/

theorem loseTile_owner (s : State) (k : Nat) : ((loseTile s k).link k).owner = false := by
  unfold loseTile
  have lost (u : State) (p : Run → Bool) (q : CalRun → Bool) : (loseCalRuns (endRuns u p endLost) q).link k = u.link k :=
    congrArg (fun ls : Tab Link => tabGet ls {} k) (Safety.loseCalRuns_only (P := [.elems, .runs, .calRuns])
      (Safety.endRuns_only (.refl _ u) (by decide) _ _) (by decide) q .links (by decide))
  rw [lost, State.modLink_same]

theorem sendClaim_owner (s : State) (k : Nat) : ((sendClaim s k).link k).owner = (s.link k).owner := by
  refine (Link.field_of_still ((down_frames ..).still k) (·.owner) fun _ => rfl).trans ?_
  rw [State.modLink_same]

theorem mem_sendClaim_out (s : State) (k : Nat) : .downFrame k "CLAIM" [] ∈ (sendClaim s k).out := by
  rw [sendClaim, State.down_out]
  exact List.mem_append_right _ (List.mem_singleton_self _)

/-! ## Tile logs (R271) -/

/-- The burst of `n` words that a log opened to its start is pulled by. -/
theorem pullLog_pulls {s : State} {k : Nat} (hopen : (s.link k).logOpen = true) (hburst : (s.link k).logBurst = none)
    (hmore : 0 < min 256 ((s.link k).logLen - (s.link k).logOffset)) :
    pullLog s k = (s.setLink k { s.link k with
      logBurst := some (min 256 ((s.link k).logLen - (s.link k).logOffset)) }).down k "BULK_PULL"
        [(s.link k).logOffset, min 256 ((s.link k).logLen - (s.link k).logOffset) - 1] :=
  if_pos (by simp [hopen, hburst]; omega)

/-- A pull of the next burst keeps the words that have come and the offset they reach. -/
theorem pullLog_words (s : State) (k : Nat) : ((pullLog s k).link k).logWords = (s.link k).logWords ∧
    ((pullLog s k).link k).logOffset = (s.link k).logOffset := by
  unfold pullLog
  dsimp only
  split
  · have still := (down_frames (s.setLink k { s.link k with
      logBurst := some (min 256 ((s.link k).logLen - (s.link k).logOffset)) }) k "BULK_PULL"
        [(s.link k).logOffset, min 256 ((s.link k).logLen - (s.link k).logOffset) - 1]).still k
    rw [State.setLink_same] at still
    exact ⟨Link.field_of_still still (·.logWords) fun _ => rfl, Link.field_of_still still (·.logOffset) fun _ => rfl⟩
  · exact ⟨rfl, rfl⟩

/-- A link with one more word of its log, withdrawn or not. -/
def Link.logged (l : Link) (v : Word32) (withdrawn : Bool) : Link :=
  { l with logWords := l.logWords ++ [v], logOpen := l.logOpen && !withdrawn }

theorem Link.logged_of_open {l : Link} (hopen : l.logOpen = true) (v : Word32) :
    l.logged v false = { l with logWords := l.logWords ++ [v] } := by
  cases l
  cases hopen
  rfl

/-- A frame of a burst of `n` words: one before the last, the last of a good burst, the last of a burst to be discarded. -/
theorem execBulkReceive_burst {s : State} {k n : Nat} (hburst : (s.link k).logBurst = some n) (i : Nat) (v : Word32)
    (w : Bool) : execBulkReceive k i v w s =
      if i + 1 < n then ok s (s.setLink k ((s.link k).logged v w))
      else if ((s.link k).logged v w).logOpen then
        ok s (pullLog (s.setLink k { (s.link k).logged v w with
          logBurst := none, logOffset := (s.link k).logOffset + n }) k)
      else ok s (s.setLink k { (s.link k).logged v w with
        logBurst := none, logWords := ((s.link k).logged v w).logWords.take (s.link k).logOffset
        bulkDiscard := satInc (s.link k).bulkDiscard 0xFF }) := by
  generalize hresult : execBulkReceive k i v w s = result
  unfold execBulkReceive at hresult
  dsimp only at hresult
  split at hresult
  case h_1 hnone => exact nomatch hburst.symm.trans hnone
  case h_2 m hsome =>
    obtain rfl : n = m := Option.some.inj (hburst.symm.trans hsome)
    exact hresult.symm

/-! ## Heartbeats (R270) -/

theorem heartbeats_mem (w : Nat) {ks : List Nat} {k : Nat} (hk : k ∈ ks) (s : State) :
    .downFrame k "HBEAT" [0, b2n (s.link k).portB, w] ∈
      (ks.foldl (fun (s : State) t => s.down t "HBEAT" [0, b2n (s.link t).portB, w]) s).out := by
  induction ks generalizing s with
  | nil => cases hk
  | cons a ks ih =>
    rw [List.foldl_cons]
    rcases List.mem_cons.1 hk with rfl | hk
    · refine (Safety.foldl_out (fun s t => Safety.down_out s t "HBEAT" _) ks _).subset ?_
      rw [State.down_out]
      exact List.mem_append_right _ (List.mem_singleton_self _)
    · have later := ih hk (s.down a "HBEAT" [0, b2n (s.link a).portB, w])
      rwa [Link.field_of_still ((down_frames ..).still k) (·.portB) fun _ => rfl] at later

/-! ## IDENT words that tiles answer (R398) -/

/-- The IDENT words of tile `k` (Table 9-4). -/
def identWords (x : Tile) (l : Link) (k : Nat) : List Nat :=
  let own := match x.token with
    | .none => 0
    | .a => 1
    | .b => 2
  [Config.tileIdentity k % 2 ^ 32, Config.tileIdentity k / 2 ^ 32 % 2 ^ 32, x.epoch,
    x.lastSerial.toNat + 2 ^ 16 * own + 2 ^ 18 * b2n l.portB]

/-- The IDENT frame of tile `k` with word `i`. -/
def State.identFrame (s : State) (k i : Nat) : Output :=
  .upFrame k (s.link k).portB "IDENT" [i, (identWords (s.tile k) (s.link k) k).getD i 0]

theorem foldl_up_out (k : Nat) (b : Bool) (name : String) (fields : Nat → List Nat) (js : List Nat) (s : State) :
    (js.foldl (fun s j => s.up k b name (fields j)) s).out = s.out ++ js.map fun j => .upFrame k b name (fields j) := by
  induction js generalizing s with
  | nil => simp
  | cons j js ih => rw [List.foldl_cons, ih, State.up_out, List.map_cons, List.append_assoc, List.singleton_append]

theorem tileIdent_eq (s : State) (k : Nat) : tileIdent s k = (List.range 4).foldl (fun (u : State) i =>
    u.up k (s.link k).portB "IDENT" [i, (identWords (s.tile k) (s.link k) k).getD i 0]) s := rfl

theorem tileIdent_out (s : State) (k : Nat) : (tileIdent s k).out = s.out ++ (List.range 4).map (s.identFrame k) :=
  foldl_up_out k _ "IDENT" (fun i => [i, (identWords (s.tile k) (s.link k) k).getD i 0]) _ s

theorem State.up_identFrame (s : State) (k : Nat) (b : Bool) (name : String) (fields : List Nat) (j i : Nat) :
    (s.up k b name fields).identFrame j i = s.identFrame j i := by
  have hlink : (s.up k b name fields).link j = s.link j := congrArg (fun ls : Tab Link => tabGet ls {} j)
    (Safety.State.up_only (P := [.out, .tiles]) (.refl _ s) (List.Subset.refl _) k b name fields .links (by decide))
  have htile : ∃ p, (s.up k b name fields).tile j = (s.tile j).withFar p := by
    by_cases hj : j = k
    · rw [hj]
      exact s.up_tile k b name fields
    · exact ⟨(s.tile j).far, s.up_tile_other hj b name fields⟩
  obtain ⟨p, htile⟩ := htile
  rw [State.identFrame, hlink, htile]
  rfl

theorem tileIdent_identFrame (s : State) (k j i : Nat) : (tileIdent s k).identFrame j i = s.identFrame j i := by
  rw [tileIdent_eq]
  exact List.foldlRecOn (motive := fun u : State => u.identFrame j i = s.identFrame j i) _ _ rfl
    fun _ h _ _ => (State.up_identFrame ..).trans h

/-- Every tile that is asked answers with its four words. -/
theorem tileIdents_mem {ks : List Nat} {k i : Nat} (hk : k ∈ ks) (hi : i < 4) (s : State) :
    s.identFrame k i ∈ (ks.foldl tileIdent s).out := by
  induction ks generalizing s with
  | nil => cases hk
  | cons a ks ih =>
    rw [List.foldl_cons]
    rcases List.mem_cons.1 hk with rfl | hk
    · refine (Safety.foldl_out (fun s t => ?_) ks _).subset ?_
      · rw [tileIdent_out]
        exact List.prefix_append ..
      · rw [tileIdent_out]
        exact List.mem_append_right _ (List.mem_map_of_mem (List.mem_range.2 hi))
    · have later := ih hk (tileIdent s a)
      rwa [tileIdent_identFrame] at later

end Sys2Proof.Machine

namespace Sys2Proof.Safety

open Sys2Proof.Machine

/-! ## What a try to adopt decides -/

section adopt
variable {s : State} (h : s.mate.takeover ≠ .adopting) {k : Nat} (hready : s.adoptReady k = true)
include h hready

theorem tryAdopt_adopts (hcurrent : (s.link k).current = true) : ((tryAdopt s k).link k).tile = .adopted ∧
    ((tryAdopt s k).link k).stale = false ∧ ((tryAdopt s k).link k).corrected = 0 := by
  have hadopting : (s.link k).tile = .adopting := by
    simp only [State.adoptReady, Bool.and_eq_true, beq_iff_eq] at hready
    simp [hready]
  obtain ⟨hstill, -⟩ := finishAdoption_leaves s k []
  rw [tryAdopt_eq h, if_pos hready, if_pos hcurrent]
  refine ⟨Link.field_of_still hstill (·.tile) fun _ => rfl, ?_, Link.field_of_still hstill (·.corrected) fun _ => rfl⟩
  refine (Link.field_of_still hstill (·.stale) fun _ => rfl).trans ?_
  rw [Link.adopted, hadopting]
  rfl

theorem tryAdopt_quarantines (hstale : (s.link k).current = false) : ((tryAdopt s k).link k).tile = .quarantined ∧
    ((tryAdopt s k).link k).stale = true ∧ ((tryAdopt s k).link k).corrections = s.correctionsOf k := by
  have hstill := quarantine_link s k
  rw [tryAdopt_eq h, if_pos hready, if_neg (by simp [hstale])]
  generalize s.correctionsOf k = cs at hstill ⊢
  exact ⟨Link.field_of_still hstill (·.tile) fun _ => rfl, Link.field_of_still hstill (·.stale) fun _ => rfl,
    Link.field_of_still hstill (·.corrections) fun _ => rfl⟩

end adopt

/-- A link once a command has tried to adopt a tile. -/
theorem after_tryAdopt_link {s u : State} (hq : Quiet u) (h : u.mate.takeover ≠ .adopting) (k j : Nat) :
    (after s (tryAdopt u k)).link j = (tryAdopt u k).link j := by
  have hquiet := hq.of_only (tryAdopt_writes h k) (by decide) (by decide)
  exact after_link hquiet.1 hquiet.2 s j

/-! ## Answers of a tile -/

section answers
variable {s : State} (hq : Quiet s) (h : s.mate.takeover ≠ .adopting) (k : Nat)
include hq h

theorem readbackReceive_decides (p : Nat) (codes : List Nat) :
    let s1 := s.modLink k (·.readBack p codes)
    ∃ t, exec (.readbackReceive k p codes) s = .next t ∧ (t.link k).readback = (s1.link k).readback ∧
      (s1.adoptReady k = true → (s.link k).current = true → (t.link k).tile = .adopted ∧ (t.link k).stale = false ∧
        (t.link k).corrected = 0) ∧
      (s1.adoptReady k = true → (s.link k).current = false → (t.link k).tile = .quarantined ∧ (t.link k).stale = true ∧
        (t.link k).corrections = s1.correctionsOf k) := by
  intro s1
  have hquiet : Quiet s1 := hq
  have htakeover : s1.mate.takeover ≠ .adopting := h
  have hcurrent : (s1.link k).current = (s.link k).current := by
    rw [State.modLink_same]
    rfl
  refine ⟨after s (tryAdopt s1 k), rfl, ?_⟩
  rw [after_tryAdopt_link hquiet htakeover]
  exact ⟨congrArg (·.2.1) (tryAdopt_answers htakeover k),
    fun hready hcur => tryAdopt_adopts htakeover hready (hcurrent.trans hcur),
    fun hready hcur => tryAdopt_quarantines htakeover hready (hcurrent.trans hcur)⟩

theorem identReceive_keeps_word {w : Nat} (hw : w ≠ 3) (v : Word32) :
    ∃ t, exec (.identReceive k w v) s = .next t ∧
      (t.link k).ident = ((s.link k).ident.filter fun q => q.1 ≠ w) ++ [(w, v)] := by
  have hask : Only [.out, .links] s (askRead (s.modLink k (·.identified w v)) k) :=
    askRead_only (State.modLink_only (.refl _ s) (by decide) _ _) (List.Subset.refl _) k
  have htakeover : (askRead (s.modLink k (·.identified w v)) k).mate.takeover ≠ .adopting := by
    rwa [hask.takeover_eq (by decide)]
  refine ⟨after s (tryAdopt (askRead (s.modLink k (·.identified w v)) k) k), if_neg (by simp [hw]), ?_⟩
  rw [after_tryAdopt_link (hq.of_only hask (by decide) (by decide)) htakeover]
  refine (congrArg (·.1) (tryAdopt_answers htakeover k)).trans ?_
  change ((askRead _ k).link k).ident = _
  rw [askRead_ident, State.modLink_same]
  rfl

theorem tempReceive_keeps_temp (v : Int) :
    ∃ t, exec (.tempReceive k v) s = .next t ∧ (t.link k).temp = v ∧ (t.link k).tempSeen = true := by
  let s1 := s.modLink k fun l => { l with temp := v, tempSeen := true }
  let s2 := if (s.link k).tile == .adopted then retune s1 k else settleSurfaces s1 k
  have hframes : FramesOnly s1 (calTempTrigger s2 k) :=
    .trans (.ite (retune_frames ..) (.of_links (settleSurfaces_only (P := [.elems]) (.refl _ s1) (by decide) k .links (by decide))))
      (.of_links (calTempTrigger_only (P := [.elems, .calib, .calRuns]) (.refl _ s2) (List.Subset.refl _) k .links (by decide)))
  have hwrites : Only [.out, .elems, .calib, .calRuns, .links] s (calTempTrigger s2 k) :=
    calTempTrigger_only (.ite (retune_only (State.modLink_only (.refl _ s) (by decide) _ _) (by decide) k)
      (settleSurfaces_only (State.modLink_only (.refl _ s) (by decide) _ _) (by decide) k)) (by decide) k
  have htakeover : (calTempTrigger s2 k).mate.takeover ≠ .adopting := by rwa [hwrites.takeover_eq (by decide)]
  have hanswers : ((tryAdopt (calTempTrigger s2 k) k).link k).answers = (s1.link k).answers :=
    (tryAdopt_answers htakeover k).trans (Link.field_of_still (hframes.still k) Link.answers fun _ => rfl)
  refine ⟨after s (tryAdopt (calTempTrigger s2 k) k), rfl, ?_⟩
  rw [after_tryAdopt_link (hq.of_only hwrites (by decide) (by decide)) htakeover]
  rw [State.modLink_same] at hanswers
  exact ⟨congrArg (·.2.2.1) hanswers, congrArg (·.2.2.2) hanswers⟩

end answers

/-- A token found at NONE in IDENT is claimed again (R265, R408). -/
theorem identReceive_claims {s : State} (hq : Quiet s) {k : Nat} {v : Word32} (hnone : bits v.toNat 16 2 = 0)
    (howner : (s.link k).owner = true) (hrole : s.mate.role = .active ∨ s.mate.role = .alone)
    (hfree : s.tokensBarred = false) :
    ∃ t, exec (.identReceive k 3 v) s = .next t ∧ (t.link k).owner = false ∧ .downFrame k "CLAIM" [] ∈ t.out := by
  let s1 := s.modLink k (·.identified 3 v)
  have hlink : s1.link k = (s.link k).identified 3 v := State.modLink_same ..
  have hclaims : (decide (3 = 3) && (s1.link k).identOwner = 0 && (s1.link k).owner &&
      (s.mate.role == .active || s.mate.role == .alone) && !s.tokensBarred) = true := by
    rw [hlink, Link.identOwner, Link.identified_identWord, hnone, show ((s.link k).identified 3 v).owner = true from howner,
      hfree]
    rcases hrole with hrole | hrole <;> simp [hrole]
  have hwrites : Only [.out, .links, .elems, .runs, .calRuns] s (sendClaim (loseTile s1 k) k) :=
    sendClaim_only (loseTile_only (State.modLink_only (.refl _ s) (by decide) _ _) (by decide) k) (by decide) k
  have hquiet := hq.of_only hwrites (by decide) (by decide)
  refine ⟨after s (sendClaim (loseTile s1 k) k), if_pos hclaims, ?_, mem_after_out (mem_sendClaim_out ..) s⟩
  rw [after_link hquiet.1 hquiet.2, sendClaim_owner, loseTile_owner]

/-- A quarantined tile with no correction left rejoins (R267 step 4). -/
theorem adoptCorrectionEnd_rejoins {s : State} (hq : Quiet s) (h : s.mate.takeover ≠ .adopting) {k : Nat}
    (htile : (s.link k).tile = .quarantined) (hdone : (s.link k).corrections = []) (hacks : (s.link k).acksOpen = 0) :
    ∃ t, exec (.adoptCorrectionEnd k) s = .next t ∧ (t.link k).tile = .adopted ∧
      .downFrame k "SET_EPOCH" [(s.link k).epoch] ∈ t.out ∧
      ∀ e ∈ tileEids k, (s.elem e).drive ≠ (s.link k).held (e % 1024) →
        ((s.elem e).st = .darkOff ∨ (s.elem e).st = .darkOn ∨ (s.elem e).st = .lit) → (t.elem e).st = .switching := by
  let moved := (tileEids k).filter fun e => (s.elem e).drive ≠ (s.link k).held (e % 1024)
  have hwrites := finishAdoption_only (P := adoptionParts) (.refl _ s) (List.Subset.refl _) k moved
  have hquiet := hq.of_only hwrites (by decide) (by decide)
  have htakeover : (finishAdoption s k moved).mate.takeover ≠ .adopting := by rwa [hwrites.takeover_eq (by decide)]
  have hexec : exec (.adoptCorrectionEnd k) s = .next (after s (takeoverEnd (finishAdoption s k moved))) :=
    if_pos (by simp [htile, hdone, hacks])
  rw [takeoverEnd_idle htakeover] at hexec
  obtain ⟨hstill, hepoch, hmoved⟩ := finishAdoption_leaves s k moved
  refine ⟨_, hexec, ?_, mem_after_out (hepoch htile) s, fun e he hdrive hst => ?_⟩
  · rw [after_link hquiet.1 hquiet.2]
    exact Link.field_of_still hstill (·.tile) fun _ => rfl
  · rw [after_elem hquiet.1 hquiet.2]
    exact hmoved e he (List.mem_filter.2 ⟨he, by simpa using hdrive⟩) hst

/-! ## Heartbeats -/

/-- What follows a command leaves the role and the paths of the mate, whatever is in progress. -/
theorem after_mate_paths {α : Type} (s0 s : State) (f : Mate → α)
    (hf : ∀ u, f u = f { u with handover := .none, sent := 0, unacked := [], waits := [] }) :
    f (after s0 s).mate = f s.mate :=
  (after_only (.refl _ s) (List.Subset.refl _) s0).mate_field (by decide) f hf

theorem hbeatSend_beats {s : State} (hbeats : s.beats = true) (hdue : s.mate.hbAt + 10 * usTicks ≤ s.dt) :
    ∃ t, exec .hbeatSend s = .next t ∧ t.mate.hbSeq = (s.mate.hbSeq + 1) % 2 ^ 16 ∧ t.mate.hbAt = s.dt ∧
      (∀ k ∈ s.upTiles, .downFrame k "HBEAT" [0, b2n (s.link k).portB, s.hbWord] ∈ t.out) ∧
      (s.img.mateEnable = true → .mateFrame "HEARTBEAT" [s.hbWord] ∈ t.out) := by
  let s1 := { s with mate := { s.mate with hbSeq := (s.mate.hbSeq + 1) % 2 ^ 16, hbAt := s.dt } }
  let s2 := s1.upTiles.foldl (fun (s2 : State) t => s2.down t "HBEAT" [0, b2n (s2.link t).portB, s.hbWord]) s1
  have hexec : exec .hbeatSend s =
      .next (after s (if s.img.mateEnable then s2.emit (.mateFrame "HEARTBEAT" [s.hbWord]) else s2)) :=
    if_neg (by simp [hbeats, Nat.not_lt.2 hdue])
  have hwrites : Only [.out, .links] s1 s2 := .foldl (.refl _ s1) fun _ _ h => State.down_only h (by decide) _ _ _
  have hall : Only [.out, .links] s1 (if s.img.mateEnable then s2.emit (.mateFrame "HEARTBEAT" [s.hbWord]) else s2) :=
    .ite (State.emit_only hwrites (by decide) _) hwrites
  have hout : s2.out <+: (if s.img.mateEnable then s2.emit (.mateFrame "HEARTBEAT" [s.hbWord]) else s2).out :=
    ite_out (List.prefix_append ..) (List.prefix_refl _)
  refine ⟨_, hexec, ?_, ?_, fun k hk => mem_after_out (hout.subset (heartbeats_mem s.hbWord hk s1)) s, fun hmated => ?_⟩
  · exact (after_mate_paths s _ (·.hbSeq) fun _ => rfl).trans (hall.mate_field (by decide) (·.hbSeq) fun _ => rfl)
  · exact (after_mate_paths s _ (·.hbAt) fun _ => rfl).trans (hall.mate_field (by decide) (·.hbAt) fun _ => rfl)
  · refine mem_after_out ?_ s
    rw [if_pos hmated, State.emit_out]
    exact List.mem_append_right _ (List.mem_singleton_self _)

theorem relayedHbeatReceive_noted {s : State} (hmated : s.img.mateEnable = true) (k : Nat) (w : Word32) :
    ∃ t, exec (.relayedHbeatReceive k w) s = .next t ∧ t.mate.relayAt = some s.dt :=
  ⟨after s { s with mate := { s.mate with relayAt := some s.dt } }, if_pos hmated,
    after_mate_paths s _ (·.relayAt) fun _ => rfl⟩

theorem standbyIdentPoll_answers {s : State} (hrole : s.mate.role = .standby) :
    ∃ t, exec .standbyIdentPoll s = .next t ∧ ∀ k ∈ s.upTiles, ∀ i, i < 4 → s.identFrame k i ∈ t.out :=
  ⟨after s (s.upTiles.foldl tileIdent s), if_pos (by rw [hrole]; rfl),
    fun _ hk _ hi => mem_after_out (tileIdents_mem hk hi s) s⟩

/-! ## Tile logs -/

section log
variable {s : State} (hq : Quiet s) (k : Nat)
include hq

/-- The link that a row of the log has written, once the command is over. -/
theorem after_setLink_link (l : Link) : (after s (s.setLink k l)).link k = l :=
  (after_link (s := s.setLink k l) hq.1 hq.2 s k).trans (State.setLink_same ..)

theorem pullLog_quiet (l : Link) : Quiet (pullLog (s.setLink k l) k) :=
  hq.of_only (pullLog_only (P := [.out, .links]) (State.setLink_only (.refl _ s) (by decide) k l) (List.Subset.refl _) k)
    (by decide) (by decide)

/-- The log's end, or a frame withdrawn: no more of it is pulled. -/
theorem logInfoReceive_closes (n : Nat) :
    ∃ t, exec (.logInfoReceive k n true) s = .next t ∧ t.link k = { s.link k with logOpen := false } :=
  ⟨after s (s.setLink k { s.link k with logOpen := false }), rfl, after_setLink_link hq k _⟩

theorem logInfoReceive_pulls {n : Nat} (hn : 0 < n) :
    ∃ t, exec (.logInfoReceive k n false) s = .next t ∧ (t.link k).logOpen = true ∧ (t.link k).logLen = n ∧
      (t.link k).logBurst = some (min 256 n) ∧ .downFrame k "BULK_PULL" [0, min 256 n - 1] ∈ t.out := by
  let l : Link := { s.link k with logLen := n, logOffset := 0, logOpen := true, logBurst := none, logWords := [] }
  have hlink : (s.setLink k l).link k = l := State.setLink_same ..
  have hquiet := pullLog_quiet hq k l
  have hpull := pullLog_pulls (s := s.setLink k l) (k := k) (by rw [hlink]) (by rw [hlink])
    (by rw [hlink]; exact Nat.lt_min.2 ⟨by decide, hn⟩)
  rw [hlink] at hpull
  have hstill := (down_frames ((s.setLink k l).setLink k { l with logBurst := some (min 256 n) }) k "BULK_PULL"
    [0, min 256 n - 1]).still k
  rw [State.setLink_same] at hstill
  have hpulled : (pullLog (s.setLink k l) k).link k = _ := congrArg (State.link · k) hpull
  refine ⟨after s (pullLog (s.setLink k l) k), rfl, ?_⟩
  rw [after_link hquiet.1 hquiet.2, hpulled]
  refine ⟨Link.field_of_still hstill (·.logOpen) fun _ => rfl, Link.field_of_still hstill (·.logLen) fun _ => rfl,
    Link.field_of_still hstill (·.logBurst) fun _ => rfl, mem_after_out ?_ s⟩
  rw [hpull, State.down_out]
  exact List.mem_append_right _ (List.mem_singleton_self _)

section burst
variable {i n : Nat} (v : Word32) (hburst : (s.link k).logBurst = some n) (hopen : (s.link k).logOpen = true)
include hburst hopen

theorem bulkReceive_within (hi : i + 1 < n) : ∃ t, exec (.bulkReceive k i v false) s = .next t ∧
    t.link k = { s.link k with logWords := (s.link k).logWords ++ [v] } := by
  have hexec := (execBulkReceive_burst hburst i v false).trans (if_pos hi)
  exact ⟨_, hexec, (after_setLink_link hq k _).trans (Link.logged_of_open hopen v)⟩

theorem bulkReceive_ends_burst (hi : n ≤ i + 1) : ∃ t, exec (.bulkReceive k i v false) s = .next t ∧
    (t.link k).logWords = (s.link k).logWords ++ [v] ∧ (t.link k).logOffset = (s.link k).logOffset + n := by
  let l : Link := { (s.link k).logged v false with logBurst := none, logOffset := (s.link k).logOffset + n }
  have hexec : exec (.bulkReceive k i v false) s = .next (after s (pullLog (s.setLink k l) k)) :=
    ((execBulkReceive_burst hburst i v false).trans (if_neg (Nat.not_lt.2 hi))).trans
      (if_pos (by rw [Link.logged_of_open hopen]; exact hopen))
  have hquiet := pullLog_quiet hq k l
  obtain ⟨hwords, hoffset⟩ := pullLog_words (s.setLink k l) k
  rw [State.setLink_same] at hwords hoffset
  refine ⟨_, hexec, ?_⟩
  rw [after_link hquiet.1 hquiet.2]
  exact ⟨hwords, hoffset⟩

omit hopen in
/-- A burst with a withdrawn frame is discarded whole. -/
theorem bulkReceive_discards (hi : n ≤ i + 1) : ∃ t, exec (.bulkReceive k i v true) s = .next t ∧
    (t.link k).logOpen = false ∧
    (t.link k).logWords = ((s.link k).logWords ++ [v]).take (s.link k).logOffset ∧
    (t.link k).bulkDiscard = satInc (s.link k).bulkDiscard 0xFF := by
  have withdrawn : ((s.link k).logged v true).logOpen = false := Bool.and_false _
  have hexec := ((execBulkReceive_burst hburst i v true).trans (if_neg (Nat.not_lt.2 hi))).trans
    (if_neg (ne_true_of_eq_false withdrawn))
  refine ⟨_, hexec, ?_⟩
  rw [after_setLink_link hq]
  exact ⟨withdrawn, rfl, rfl⟩

end burst

end log

/-- Settles O52, row by row: the tile's answers, its adoption or quarantine (log entry 31), heartbeats, IDENT for the standby,
logs (log entry 76). -/
theorem adoptionRowsComplete : Obligations.AdoptionRowsComplete := by
  unfold Obligations.AdoptionRowsComplete
  exact ⟨fun k p l s hq h => readbackReceive_decides hq h k p l,
    fun k w v s hq h => ⟨fun hw => identReceive_keeps_word hq h k hw v,
      fun hnone howner hrole hfree => identReceive_claims hq hnone howner hrole hfree⟩,
    fun k v s hq h => tempReceive_keeps_temp hq h k v,
    fun k s hq h htile hdone hacks => adoptCorrectionEnd_rejoins hq h htile hdone hacks,
    fun s _ hbeats hdue => hbeatSend_beats hbeats hdue,
    fun k w s hmated => relayedHbeatReceive_noted hmated k w,
    fun s hrole => by
      obtain ⟨t, ht, hframes⟩ := standbyIdentPoll_answers hrole
      exact ⟨t, ht, fun k hk => ⟨hframes k hk 2 (by decide), hframes k hk 3 (by decide)⟩⟩,
    fun k n s hq => ⟨logInfoReceive_closes hq k n, logInfoReceive_pulls hq k⟩,
    fun k i n v s hq hburst hopen => ⟨bulkReceive_within hq k v hburst hopen, bulkReceive_ends_burst hq k v hburst hopen,
      bulkReceive_discards hq k v hburst⟩⟩

end Sys2Proof.Safety

/-! SUPPORT. Frames that only the owner may send (R269): from the other port a tile takes nothing of them. -/

namespace Sys2Proof.Safety

open Sys2Proof.Machine

/-- Settles O46: each of these commands goes through `tileCmd`, which asks for the token and else leaves the state. -/
theorem tileObeysItsOwner : Obligations.TileObeysItsOwner := by
  unfold Obligations.TileObeysItsOwner
  intro k b s h
  have ignored : ¬(s.tile k).obeys b = true := ne_true_of_eq_false h
  exact ⟨fun _ _ _ => if_neg ignored, fun _ _ => if_neg ignored, fun _ _ _ _ => if_neg ignored, fun _ _ => if_neg ignored,
    fun _ _ _ => if_neg ignored, fun _ _ _ => if_neg ignored, fun _ _ _ => if_neg ignored, fun _ _ _ _ => if_neg ignored,
    fun _ => if_neg ignored, fun _ => if_neg ignored, fun _ => if_neg ignored, if_neg ignored, fun _ _ => if_neg ignored,
    fun _ _ => if_neg ignored, fun _ _ _ => if_neg ignored, fun _ _ => if_neg ignored, fun _ _ => if_neg ignored,
    fun _ => if_neg ignored⟩

end Sys2Proof.Safety

/-! SUPPORT. The two ends of a tile link (R249 to R252): a port that is written, a link block that is sent, what NAK, ACK and
REPLAY leave of a port. -/

namespace Sys2Proof.Machine

open Sys2Proof.Safety (linkBlock)

/-! ## Ports -/

@[simp] theorem State.setPort_port (s : State) (e : LinkEnd) (p : LinkPort) : (s.setPort e p).port e = p := by
  cases e with
  | controller k => exact congrArg (·.near) (State.modLink_same s k fun l => { l with near := p })
  | tile k => exact congrArg (·.far) (State.modTile_same s k fun x => { x with far := p })

@[simp] theorem State.emit_port (s : State) (o : Output) (e : LinkEnd) : (s.emit o).port e = s.port e := by
  cases e <;> rfl

/-- A port that is written moves nothing else of the links. -/
theorem setPort_frames (s : State) (e : LinkEnd) (p : LinkPort) : FramesOnly s (s.setPort e p) := by
  cases e with
  | controller k =>
    refine ⟨fun j => ?_⟩
    change ((s.modLink k fun l => { l with near := p }).link j).still = _
    by_cases hj : j = k
    · rw [hj, State.modLink_same]
      rfl
    · rw [State.modLink_other _ _ _ hj]
  | tile k => exact ⟨fun _ => rfl⟩

theorem FramesOnly.portB {s t : State} (h : FramesOnly s t) (k : Nat) : (t.link k).portB = (s.link k).portB :=
  Link.field_of_still (h.still k) (·.portB) fun _ => rfl

theorem FramesOnly.state {s t : State} (h : FramesOnly s t) (k : Nat) : (t.link k).state = (s.link k).state :=
  Link.field_of_still (h.still k) (·.state) fun _ => rfl

/-! ## Link blocks (Table 9-1) -/

theorem State.mem_emit_out (s : State) (o : Output) : o ∈ (s.emit o).out :=
  List.mem_append_right _ (List.mem_singleton_self o)

theorem State.mem_down_out (s : State) (k : Nat) (name : String) (fields : List Nat) :
    .downFrame k name fields ∈ (s.down k name fields).out := by
  rw [State.down_out]
  exact List.mem_append_right _ (List.mem_singleton_self _)

/-- A link block enters no stream: it is given out, and that is all. -/
theorem State.down_linkBlock {name : String} (h : isLinkBlock name = true) (s : State) (k : Nat) (fields : List Nat) :
    s.down k name fields = s.emit (.downFrame k name fields) :=
  congrArg (State.emit · _) (if_pos h)

theorem sendBlock_eq {name : String} (h : isLinkBlock name = true) (s : State) (e : LinkEnd) (fields : List Nat) :
    sendBlock s e name fields = s.emit (linkBlock s e name fields) := by
  cases e with
  | controller k => exact State.down_linkBlock h s k fields
  | tile k => exact congrArg (State.emit · _) (if_pos (by rw [h, Bool.true_or]))

/-- The port of a tile by which a link block leaves is not moved by frames. -/
theorem linkBlock_of_portB {s t : State} {e : LinkEnd} (h : (t.link e.num).portB = (s.link e.num).portB) (name : String)
    (fields : List Nat) : linkBlock t e name fields = linkBlock s e name fields := by
  cases e with
  | controller k => rfl
  | tile k => exact congrArg (Output.upFrame k · name fields) h

theorem isLinkBlock_linkctl : isLinkBlock "LINKCTL" = true := rfl
theorem isLinkBlock_train : isLinkBlock "TRAIN" = true := rfl
theorem isLinkBlock_replay : isLinkBlock "REPLAY" = true := rfl

/-! ## What NAK, ACK and frames leave of a port -/

/-- The frame number that a stream expects. -/
def LinkPort.expected (p : LinkPort) (m : Bool) : Nat := if m then p.expectM else p.expect1

/-- A frame of the stream is missing and a NAK is out for it. -/
def LinkPort.missing (p : LinkPort) (m : Bool) : Bool := if m then p.missingM else p.missing1

/-- The port once a frame in order has counted (R249). -/
def LinkPort.counted (p : LinkPort) (m : Bool) : LinkPort :=
  if m then { p with expectM := (p.expectM + 1) % 4096, missingM := false }
  else { p with expect1 := (p.expect1 + 1) % 4096, missing1 := false }

/-- The port once a NAK for the expected frame has left at device time `t` (R251). -/
def LinkPort.nakSent (p : LinkPort) (m : Bool) (t : Nat) : LinkPort :=
  if m then { p with missingM := true, nakAtM := t } else { p with missing1 := true, nakAt1 := t }

/-- The port once an ACK of the stream has left at device time `t` (R250). -/
def LinkPort.ackSent (p : LinkPort) (m : Bool) (t : Nat) : LinkPort :=
  if m then { p with ackSentM := t } else { p with ackSent1 := t }

/-- How many NAKs in a row will have named frame `n` of the stream with one more (R252). -/
def LinkPort.nakCount (p : LinkPort) (m : Bool) (n : Nat) : Nat :=
  if m then (if p.nakNumM = n then p.nakCountM + 1 else 1) else (if p.nakNum1 = n then p.nakCount1 + 1 else 1)

/-- The port once a NAK that names frame `n` has arrived (R252). -/
def LinkPort.nakTaken (p : LinkPort) (m : Bool) (n : Nat) : LinkPort :=
  if m then { p with nakNumM := n, nakCountM := p.nakCount m n } else { p with nakNum1 := n, nakCount1 := p.nakCount m n }

theorem LinkPort.nakSent_missing (p : LinkPort) (m : Bool) (t : Nat) : (p.nakSent m t).missing m = true := by
  cases m <;> rfl

theorem LinkPort.nakSent_expected (p : LinkPort) (m : Bool) (t : Nat) : (p.nakSent m t).expected m = p.expected m := by
  cases m <;> rfl

/-- A NAK is the fourth in a row to name its frame when the three before it named the same one. -/
theorem LinkPort.nakCount_fourth (p : LinkPort) (m : Bool) (n : Nat) : 4 ≤ p.nakCount m n ↔
    (if m then p.nakNumM == n && decide (3 ≤ p.nakCountM) else p.nakNum1 == n && decide (3 ≤ p.nakCount1)) = true := by
  have fourth (q c : Nat) : 4 ≤ (if q = n then c + 1 else 1) ↔ (q == n && decide (3 ≤ c)) = true := by
    by_cases hq : q = n <;> simp [hq]
  cases m with
  | false => exact fourth p.nakNum1 p.nakCount1
  | true => exact fourth p.nakNumM p.nakCountM

/-! ## The operations at a port -/

theorem sendNak_eq (s : State) (e : LinkEnd) (m : Bool) : sendNak s e m =
    (s.setPort e ((s.port e).nakSent m s.dt)).emit (linkBlock s e "LINKCTL" [1, b2n m, (s.port e).expected m]) := by
  rw [← linkBlock_of_portB ((setPort_frames s e ((s.port e).nakSent m s.dt)).portB e.num)]
  exact sendBlock_eq isLinkBlock_linkctl ..

theorem sendAck_eq (s : State) (e : LinkEnd) (m : Bool) : sendAck s e m =
    (s.setPort e ((s.port e).ackSent m s.dt)).emit
      (linkBlock s e "LINKCTL" [0, b2n m, lastOf ((s.port e).expected m)]) := by
  rw [← linkBlock_of_portB ((setPort_frames s e ((s.port e).ackSent m s.dt)).portB e.num)]
  exact sendBlock_eq isLinkBlock_linkctl ..

/-- The link changed by `f` where the end is the controller's; a tile's end has no registers of the link. -/
def modHere (s : State) (e : LinkEnd) (f : Link → Link) : State := if e.here then s.modLink e.num f else s

theorem modHere_controller (s : State) (k : Nat) (f : Link → Link) :
    (modHere s (.controller k) f).link k = f (s.link k) := State.modLink_same ..

/-- A field that a change at the controller's end leaves alone. -/
theorem modHere_field {α : Type} (s : State) (e : LinkEnd) (f : Link → Link) (g : Link → α) (h : ∀ l, g (f l) = g l) :
    g ((modHere s e f).link e.num) = g (s.link e.num) := by
  cases e with
  | controller k => exact (congrArg g (modHere_controller s k f)).trans (h _)
  | tile k => rfl

theorem modHere_port (s : State) (e : LinkEnd) (f : Link → Link) (h : ∀ l, (f l).near = l.near) :
    (modHere s e f).port e = s.port e := by
  cases e with
  | controller k => exact modHere_field s (.controller k) f (·.near) h
  | tile k => rfl

/-- A link with one replay more. -/
def Link.replayCounted (l : Link) : Link := { l with replays := satInc l.replays 0xFFFF }

/-- A link whose injected CRC inversion is used up (R439). -/
def Link.crcUsed (l : Link) : Link := { l with injectCrc := false }

/-- A link with one frame more that was not in order or whose CRC was wrong. -/
def Link.crcCounted (l : Link) : Link := { l with crcErr := satInc l.crcErr 0xFFFF }

/-- The state once a NAK that names frame `n` is noted: its port, and the replay that it asks for is counted. -/
def nakNoted (s : State) (e : LinkEnd) (m : Bool) (n : Nat) : State :=
  modHere (s.setPort e ((s.port e).nakTaken m n)) e Link.replayCounted

theorem nakNoted_state (s : State) (e : LinkEnd) (m : Bool) (n : Nat) :
    ((nakNoted s e m n).link e.num).state = (s.link e.num).state :=
  (modHere_field _ e Link.replayCounted (·.state) fun _ => rfl).trans ((setPort_frames ..).state e.num)

theorem nakNoted_portB (s : State) (e : LinkEnd) (m : Bool) (n : Nat) :
    ((nakNoted s e m n).link e.num).portB = (s.link e.num).portB :=
  (modHere_field _ e Link.replayCounted (·.portB) fun _ => rfl).trans ((setPort_frames ..).portB e.num)

theorem nakNoted_replays (s : State) (k : Nat) (m : Bool) (n : Nat) :
    ((nakNoted s (.controller k) m n).link k).replays = satInc (s.link k).replays 0xFFFF :=
  (congrArg (·.replays) (modHere_controller ..)).trans (congrArg (satInc · 0xFFFF)
    (Link.field_of_still ((setPort_frames s (.controller k) _).still k) (·.replays) fun _ => rfl))

/-- The stream is sent again from frame `n`: REPLAY, and an injected CRC inversion is used up. -/
def replayed (s : State) (e : LinkEnd) (m : Bool) (n : Nat) : State :=
  modHere ((nakNoted s e m n).emit (linkBlock s e "REPLAY" [b2n m, n])) e Link.crcUsed

/-- A NAK is answered by REPLAY, or, the fourth time, by DOWN (R251, R252). -/
theorem takeNak_eq (s : State) (e : LinkEnd) (m : Bool) (n : Nat) : takeNak s e m n =
    if 4 ≤ (s.port e).nakCount m n then
      (if (s.link e.num).state == .down then nakNoted s e m n else linkDown (nakNoted s e m n) e.num)
    else replayed s e m n := by
  rw [← nakNoted_state s e m n, replayed, ← linkBlock_of_portB (nakNoted_portB s e m n),
    ← sendBlock_eq isLinkBlock_replay]
  rfl

theorem modHere_out (s : State) (e : LinkEnd) (f : Link → Link) : (modHere s e f).out = s.out := by
  cases e <;> rfl

theorem replayed_out (s : State) (e : LinkEnd) (m : Bool) (n : Nat) :
    linkBlock s e "REPLAY" [b2n m, n] ∈ (replayed s e m n).out := by
  rw [replayed, modHere_out]
  exact State.mem_emit_out ..

theorem replayed_state (s : State) (e : LinkEnd) (m : Bool) (n : Nat) :
    ((replayed s e m n).link e.num).state = (s.link e.num).state :=
  (modHere_field _ e Link.crcUsed (·.state) fun _ => rfl).trans (nakNoted_state s e m n)

theorem replayed_replays (s : State) (k : Nat) (m : Bool) (n : Nat) :
    ((replayed s (.controller k) m n).link k).replays = satInc (s.link k).replays 0xFFFF :=
  (modHere_field _ (.controller k) Link.crcUsed (·.replays) fun _ => rfl).trans (nakNoted_replays s k m n)

/-! ## Frames as they arrive (R249, R251) -/

/-- A frame that is not a link block: in order it counts and its header is taken, the first wrong one is counted and
answered by NAK. -/
theorem execLinkFrameReceive_frame {w : BitVec 64} (hfrom : 3 ≤ bits w.toNat 0 4) (hto : bits w.toNat 0 4 < 14)
    (e : LinkEnd) (m : Bool) (data : List (BitVec 64)) (s : State) : execLinkFrameReceive e m w data s =
      if frameOk m ((s.port e).expected m) w data then
        ok s (takeHeader (s.setPort e ((s.port e).counted m)) e m w)
      else if (s.port e).missing m then .next s
      else ok s (sendNak (modHere s e Link.crcCounted) e m) := by
  unfold execLinkFrameReceive
  have hcode : isLinkCode w = false := decide_eq_false (Nat.not_le.2 hfrom)
  rw [if_neg (Nat.not_le.2 hto), hcode, if_neg Bool.false_ne_true]
  rfl

end Sys2Proof.Machine

/-! SUPPORT. A link that goes DOWN (R252, R268), and the rows of the link protocol (R246, R249 to R252, R439). -/

namespace Sys2Proof.Machine

/-- A link that has gone DOWN: its streams, its tile and what the tile had answered are gone. -/
def Link.downed (l : Link) : Link := { l with
  state := .down, blockLock := false, tile := .absent, near := {}, downs := satInc l.downs 0xFF
  claimed := none, ident := [], readback := [], readAsked := false, tempSeen := false, corrections := [], launchSlots := []
  acksOpen := 0, logBurst := none, logWords := [], stepFails := 0, limited := false }

theorem Link.up_not_down {l : Link} (h : l.up = true) : (l.state == .down) = false := by
  cases hstate : l.state with
  | down => simp [Link.up, hstate] at h
  | _ => rfl

/-- The link to tile `t` has stopped and what ran on the tile is lost; the fault is still to be reported. -/
def linkStopped (s : State) (t : Nat) : State :=
  let s1 := s.setLink t (s.link t).downed
  let s2 := { s1 with smu := { s1.smu with
    busLostAt := if s1.smu.bus.place.any (·.1 == t) then some s1.dt else s1.smu.busLostAt } }
  loseCalRuns (endRuns s2 (fun x => x.tile == t) endLost) fun x => x.tile == t

theorem linkDown_eq (s : State) (t : Nat) : linkDown s t = (linkStopped s t).report 0x0030 (srcTile t) t := rfl

end Sys2Proof.Machine

namespace Sys2Proof.Safety

open Sys2Proof.Machine

/-! ## What follows a command, at a link -/

/-- What a change of links and tiles alone leaves of the links stands when the command is over. -/
theorem after_link_of_only {P : List Part} {s u : State} (hq : Quiet s) (hu : Only P s u) (k : Nat)
    (hh : .handover ∉ P := by decide) (hr : .resumes ∉ P := by decide) : (after s u).link k = u.link k :=
  after_link (hq.of_only hu hh hr).1 (hq.of_only hu hh hr).2 s k

theorem after_port_of_only {P : List Part} {s u : State} (hq : Quiet s) (hu : Only P s u) (e : LinkEnd)
    (hh : .handover ∉ P := by decide) (hr : .resumes ∉ P := by decide) : (after s u).port e = u.port e := by
  cases e with
  | controller k => exact congrArg (·.near) (after_link_of_only hq hu k hh hr)
  | tile k => exact congrArg (·.far) (after_tile s u k)

theorem modHere_only {P : List Part} {o s : State} (h : Only P o s) (hp : [.links] ⊆ P) (e : LinkEnd) (f : Link → Link) :
    Only P o (modHere s e f) := .ite (State.modLink_only h hp e.num f) h

theorem nakNoted_only {P : List Part} {o s : State} (h : Only P o s) (hp : [.links, .tiles] ⊆ P) (e : LinkEnd) (m : Bool)
    (n : Nat) : Only P o (nakNoted s e m n) :=
  modHere_only (State.setPort_only h hp e _) (List.Subset.trans (by decide) hp) e _

/-! ## A link that goes DOWN -/

theorem Only.link_eq {P : List Part} {s t : State} (h : Only P s t) (hp : .links ∉ P) (k : Nat) : t.link k = s.link k :=
  congrArg (fun ls : Tab Link => tabGet ls {} k) (h .links hp)

theorem Only.tile_eq {P : List Part} {s t : State} (h : Only P s t) (hp : .tiles ∉ P) (k : Nat) : t.tile k = s.tile k :=
  congrArg (fun xs : Tab Tile => tabGet xs {} k) (h .tiles hp)

/-- What ran on a tile is lost after its link has changed. -/
theorem linkStopped_loses (s : State) (t : Nat) :
    Only [.elems, .smu, .runs, .calRuns] (s.setLink t (s.link t).downed) (linkStopped s t) :=
  loseCalRuns_only (endRuns_only (Only.set_smu (.inl (by decide)) (.inl (by decide)) (.refl _ _)) (by decide) _ _)
    (by decide) _

theorem linkStopped_only (s : State) (t : Nat) : Only [.elems, .smu, .runs, .calRuns, .links] s (linkStopped s t) :=
  (State.setLink_only (.refl _ s) (by decide) t _).trans ((linkStopped_loses s t).mono (by decide))

theorem linkDown_reports (s : State) (t : Nat) : Only [.out, .faults, .irq, .loops] (linkStopped s t) (linkDown s t) := by
  rw [linkDown_eq]
  exact report_minor (code := 0x0030) (by decide) _ _ _

theorem linkDown_link (s : State) (t : Nat) : (linkDown s t).link t = (s.link t).downed :=
  calc (linkDown s t).link t
    _ = (linkStopped s t).link t := (linkDown_reports s t).link_eq (by decide) t
    _ = (s.setLink t (s.link t).downed).link t := (linkStopped_loses s t).link_eq (by decide) t
    _ = (s.link t).downed := State.setLink_same ..

/-- A command that took a link DOWN, after changes of links and tiles: the link, the tile and the record. -/
theorem after_linkDown {s u : State} (hq : Quiet s) (hu : Only [.links, .tiles] s u) {k : Nat}
    (hr : Reportable s 0x0030 (srcTile k) k) : (after s (linkDown u k)).link k = (u.link k).downed ∧
      (after s (linkDown u k)).tile k = u.tile k ∧ NewRecord s (after s (linkDown u k)) 0x0030 (srcTile k) k := by
  have hdown : Only [.out, .faults, .irq, .loops, .elems, .smu, .runs, .calRuns, .links, .tiles, .lsu, .house] s (linkDown u k) :=
    linkDown_only (hu.mono (by decide)) (by decide) k
  have hquiet := hq.of_only hdown (by decide) (by decide)
  have hstopped : Only [.elems, .smu, .runs, .calRuns, .links, .tiles] s (linkStopped u k) :=
    (hu.mono (by decide)).trans ((linkStopped_only u k).mono (by decide))
  refine ⟨(after_link_of_only hq hdown k).trans (linkDown_link u k), ?_, ?_⟩
  · rw [after_tile, (linkDown_reports u k).tile_eq (by decide), (linkStopped_only u k).tile_eq (by decide)]
  · unfold NewRecord
    rw [after_faults hquiet.1 hquiet.2, linkDown_eq]
    exact report_record_of_only hr hstopped (by decide) (by decide) (by decide) (by decide) 0

/-! ## Frames as they arrive -/

section frame
variable {s : State} (hq : Quiet s) (e : LinkEnd) {w : BitVec 64} (hfrom : 3 ≤ bits w.toNat 0 4)
  (hto : bits w.toNat 0 4 < 14) {data : List (BitVec 64)}
include hq hfrom hto

/-- A multi-block frame in order counts and acknowledges frames of both streams. -/
theorem linkFrameReceive_acks (hok : frameOk true (s.port e).expectM w data = true) :
    ∃ t, exec (.linkFrameReceive e true w data) s = .next t ∧ t.port e = { s.port e with
      expectM := ((s.port e).expectM + 1) % 4096, missingM := false, ackAt := s.dt
      unacked1 := ackThrough (s.port e).unacked1 (bits w.toNat 24 12)
      unackedM := ackThrough (s.port e).unackedM (bits w.toNat 36 12) } := by
  let s1 := s.setPort e ((s.port e).counted true)
  let p := ((s1.port e).acked false (bits w.toNat 24 12) s1.dt).acked true (bits w.toNat 36 12) s1.dt
  have hwrites : Only [.links, .tiles] s s1 := State.setPort_only (.refl _ s) (List.Subset.refl _) e _
  have hexec : exec (.linkFrameReceive e true w data) s = .next (after s (s1.setPort e p)) :=
    (execLinkFrameReceive_frame hfrom hto e true data s).trans (if_pos hok)
  refine ⟨_, hexec, (after_port_of_only hq (State.setPort_only hwrites (List.Subset.refl _) e p) e).trans ?_⟩
  rw [State.setPort_port]
  change ((s1.port e).acked false _ s1.dt).acked true _ s1.dt = _
  rw [State.setPort_port, hwrites .dt (by decide)]
  rfl

/-- A one-block frame in order counts. -/
theorem linkFrameReceive_counts (hok : frameOk false (s.port e).expect1 w data = true)
    (hnak : ¬(bits w.toNat 0 4 = 7 ∧ bit w.toNat 22 = true)) :
    ∃ t, exec (.linkFrameReceive e false w data) s = .next t ∧
      t.port e = { s.port e with expect1 := ((s.port e).expect1 + 1) % 4096, missing1 := false } := by
  have hheader : takeHeader (s.setPort e ((s.port e).counted false)) e false w = s.setPort e ((s.port e).counted false) :=
    if_neg (by simpa using hnak)
  have hexec := (execLinkFrameReceive_frame hfrom hto e false data s).trans (if_pos hok)
  rw [hheader] at hexec
  have hwrites : Only [.links, .tiles] s (s.setPort e ((s.port e).counted false)) :=
    State.setPort_only (.refl _ s) (List.Subset.refl _) e _
  exact ⟨_, hexec, (after_port_of_only hq hwrites e).trans (State.setPort_port ..)⟩

/-- The first wrong frame of a gap is counted and answered by a NAK that names the expected one. -/
theorem linkFrameReceive_naks {m : Bool} (hbad : frameOk m ((s.port e).expected m) w data = false)
    (hfirst : (s.port e).missing m = false) :
    ∃ t, exec (.linkFrameReceive e m w data) s = .next t ∧ (t.port e).missing m = true ∧
      (t.port e).expected m = (s.port e).expected m ∧
      linkBlock s e "LINKCTL" [1, b2n m, (s.port e).expected m] ∈ t.out ∧
      ∀ k, e = .controller k → (t.link k).crcErr = satInc (s.link k).crcErr 0xFFFF := by
  let s1 := modHere s e Link.crcCounted
  have hport : s1.port e = s.port e := modHere_port s e Link.crcCounted fun _ => rfl
  have hportB : (s1.link e.num).portB = (s.link e.num).portB := modHere_field s e Link.crcCounted (·.portB) fun _ => rfl
  have hexec : exec (.linkFrameReceive e m w data) s = .next (after s (sendNak s1 e m)) :=
    ((execLinkFrameReceive_frame hfrom hto e m data s).trans (if_neg (ne_true_of_eq_false hbad))).trans
      (if_neg (ne_true_of_eq_false hfirst))
  have hwrites : Only [.out, .links, .tiles] s (sendNak s1 e m) :=
    sendNak_only (modHere_only (.refl _ s) (by decide) e _) (List.Subset.refl _) e m
  have hsent : (sendNak s1 e m).port e = (s.port e).nakSent m s1.dt := by
    rw [sendNak_eq, State.emit_port, State.setPort_port, hport]
  refine ⟨_, hexec, ?_, ?_, mem_after_out ?_ s, ?_⟩
  · rw [after_port_of_only hq hwrites e, hsent, LinkPort.nakSent_missing]
  · rw [after_port_of_only hq hwrites e, hsent, LinkPort.nakSent_expected]
  · rw [sendNak_eq, hport, linkBlock_of_portB hportB]
    exact State.mem_emit_out ..
  · rintro k rfl
    rw [after_link_of_only hq hwrites k, sendNak_eq, State.emit_link]
    exact (Link.field_of_still ((setPort_frames ..).still k) (·.crcErr) fun _ => rfl).trans
      (congrArg (·.crcErr) (modHere_controller s k Link.crcCounted))

end frame

/-! ## ACK, NAK and their times -/

section times
variable {s : State} (hq : Quiet s) (e : LinkEnd)
include hq

theorem linkctlAckReceive_acks (m : Bool) (n : Nat) :
    ∃ t, exec (.linkctlAckReceive e m n) s = .next t ∧ t.port e = (s.port e).acked m n s.dt := by
  have hwrites : Only [.links, .tiles] s (s.setPort e ((s.port e).acked m n s.dt)) :=
    State.setPort_only (.refl _ s) (List.Subset.refl _) e _
  exact ⟨_, rfl, (after_port_of_only hq hwrites e).trans (State.setPort_port ..)⟩

/-- A NAK that is not the fourth for its frame is answered by REPLAY. -/
theorem linkctlNakReceive_replays {m : Bool} {n : Nat} (hfew : ¬4 ≤ (s.port e).nakCount m n) :
    ∃ t, exec (.linkctlNakReceive e m n) s = .next t ∧ linkBlock s e "REPLAY" [b2n m, n] ∈ t.out ∧
      (t.link e.num).state = (s.link e.num).state ∧
      ∀ k, e = .controller k → (t.link k).replays = satInc (s.link k).replays 0xFFFF := by
  have hexec : exec (.linkctlNakReceive e m n) s = .next (after s (takeNak s e m n)) := rfl
  rw [takeNak_eq, if_neg hfew] at hexec
  have hwrites : Only [.out, .links, .tiles] s (replayed s e m n) :=
    modHere_only (State.emit_only (nakNoted_only (.refl _ s) (by decide) e m n) (by decide) _) (by decide) e _
  refine ⟨_, hexec, mem_after_out (replayed_out s e m n) s, ?_, ?_⟩
  · rw [after_link_of_only hq hwrites e.num, replayed_state]
  · rintro k rfl
    rw [after_link_of_only hq hwrites k, replayed_replays]

/-- The fourth NAK for one frame takes the link DOWN. -/
theorem linkctlNakReceive_downs {m : Bool} {n : Nat} (hfourth : 4 ≤ (s.port e).nakCount m n)
    (hup : (s.link e.num).state ≠ .down) (hr : Reportable s 0x0030 (srcTile e.num) e.num) :
    ∃ t, exec (.linkctlNakReceive e m n) s = .next t ∧ (t.link e.num).state = .down ∧
      NewRecord s t 0x0030 (srcTile e.num) e.num := by
  have hexec : exec (.linkctlNakReceive e m n) s = .next (after s (takeNak s e m n)) := rfl
  rw [takeNak_eq, if_pos hfourth, if_neg (by simpa using hup)] at hexec
  obtain ⟨hlink, -, hrecord⟩ := after_linkDown hq (nakNoted_only (.refl _ s) (List.Subset.refl _) e m n) hr
  exact ⟨_, hexec, congrArg (·.state) hlink, hrecord⟩

/-- A NAK is sent again when twice the round trip and 100 ns have brought nothing. -/
theorem nakRepeatTimeout_naks {m : Bool} (hmissing : (s.port e).missing m = true)
    (hdue : 8 * (if m then (s.port e).nakAtM else (s.port e).nakAt1) + 4 * (s.link e.num).delay + 1000 ≤ 8 * s.dt) :
    ∃ t, exec (.nakRepeatTimeout e m) s = .next t ∧ (if m then (t.port e).nakAtM else (t.port e).nakAt1) = s.dt ∧
      linkBlock s e "LINKCTL" [1, b2n m, (s.port e).expected m] ∈ t.out := by
  have hexec : exec (.nakRepeatTimeout e m) s = .next (after s (sendNak s e m)) :=
    if_pos (Bool.and_eq_true_iff.2 ⟨hmissing, decide_eq_true hdue⟩)
  have hwrites : Only [.out, .links, .tiles] s (sendNak s e m) := sendNak_only (.refl _ s) (List.Subset.refl _) e m
  refine ⟨_, hexec, ?_, mem_after_out ?_ s⟩
  · rw [after_port_of_only hq hwrites e, sendNak_eq, State.emit_port, State.setPort_port]
    cases m <;> rfl
  · rw [sendNak_eq]
    exact State.mem_emit_out ..

/-- An ACK leaves after 2 commas without an acknowledging header. -/
theorem ackIdleTimeout_acks {m : Bool} (hup : (s.link e.num).up = true)
    (hdue : (if m then (s.port e).ackSentM else (s.port e).ackSent1) + 2 * usTicks ≤ s.dt) :
    ∃ t, exec (.ackIdleTimeout e m) s = .next t ∧ (if m then (t.port e).ackSentM else (t.port e).ackSent1) = s.dt ∧
      linkBlock s e "LINKCTL" [0, b2n m, lastOf ((s.port e).expected m)] ∈ t.out := by
  have hexec : exec (.ackIdleTimeout e m) s = .next (after s (sendAck s e m)) :=
    if_pos (Bool.and_eq_true_iff.2 ⟨hup, decide_eq_true hdue⟩)
  have hwrites : Only [.out, .links, .tiles] s (sendAck s e m) := sendAck_only (.refl _ s) (List.Subset.refl _) e m
  refine ⟨_, hexec, ?_, mem_after_out ?_ s⟩
  · rw [after_port_of_only hq hwrites e, sendAck_eq, State.emit_port, State.setPort_port]
    cases m <;> rfl
  · rw [sendAck_eq]
    exact State.mem_emit_out ..

end times

/-! ## A link lost or given up -/

section lost
variable {s : State} (hq : Quiet s) {k : Nat}
include hq

section record
variable (hup : (s.link k).up = true) (hr : Reportable s 0x0030 (srcTile k) k)
include hup hr

/-- Frames outstanding for 4 commas without an acknowledgement take the link DOWN. -/
theorem ackMissingTimeout_downs (hout : (s.link k).near.unacked1 ≠ [] ∨ (s.link k).near.unackedM ≠ [])
    (hdue : (s.link k).near.ackAt + 4 * usTicks ≤ s.dt) :
    ∃ t, exec (.ackMissingTimeout k) s = .next t ∧ (t.link k).state = .down ∧ (t.link k).near = {} ∧
      (t.link k).tile = .absent ∧ (t.tile k).held = (s.tile k).held ∧ NewRecord s t 0x0030 (srcTile k) k := by
  have hsome : (!((s.link k).near.unacked1.isEmpty && (s.link k).near.unackedM.isEmpty)) = true := by
    rcases hout with h | h <;> simp [h]
  have hexec : exec (.ackMissingTimeout k) s = .next (after s (linkDown s k)) :=
    if_pos (Bool.and_eq_true_iff.2 ⟨Bool.and_eq_true_iff.2 ⟨hup, hsome⟩, decide_eq_true hdue⟩)
  obtain ⟨hlink, htile, hrecord⟩ := after_linkDown hq (.refl _ s) hr
  exact ⟨_, hexec, congrArg (·.state) hlink, congrArg (·.near) hlink, congrArg (·.tile) hlink, congrArg (·.held) htile, hrecord⟩

theorem blockLockLoss_downs : ∃ t, exec (.blockLockLoss k) s = .next t ∧ (t.link k).state = .down ∧
    (t.link k).blockLock = false ∧ (t.link k).syncErr = min 0xFFFF ((s.link k).syncErr + 16) ∧
    NewRecord s t 0x0030 (srcTile k) k := by
  let s1 := s.modLink k fun l => { l with syncErr := satAdd l.syncErr 16 0xFFFF, blockLock := false }
  have hexec : exec (.blockLockLoss k) s = .next (after s (linkDown s1 k)) :=
    congrArg (fun u => Host.Outcome.next (after s u)) (if_neg (ne_true_of_eq_false (Link.up_not_down hup)))
  obtain ⟨hlink, -, hrecord⟩ := after_linkDown hq (State.modLink_only (P := [.links, .tiles]) (.refl _ s) (by decide) k _) hr
  refine ⟨_, hexec, congrArg (·.state) hlink, congrArg (·.blockLock) hlink, ?_, hrecord⟩
  rw [hlink, State.modLink_same]
  exact Nat.min_comm ..

theorem linkRetrain_downs : ∃ t, exec (.linkRetrain k) s = .next t ∧ (t.link k).state = .down ∧
    (t.link k).downs = satInc (s.link k).downs 0xFF ∧ NewRecord s t 0x0030 (srcTile k) k := by
  have hretrain : retrain s k = linkDown s k := if_neg (ne_true_of_eq_false (Link.up_not_down hup))
  have hexec : exec (.linkRetrain k) s = .next (after s (retrain s k)) := if_pos hr.1
  rw [hretrain] at hexec
  obtain ⟨hlink, -, hrecord⟩ := after_linkDown hq (.refl _ s) hr
  exact ⟨_, hexec, congrArg (·.state) hlink, congrArg (·.downs) hlink, hrecord⟩

end record

theorem linkInjectCrc_injects (hmain : s.chip.mainRun = true) :
    ∃ t, exec (.linkInjectCrc k) s = .next t ∧ t.link k = { s.link k with injectCrc := true } ∧
      ∀ j, j ≠ k → t.link j = s.link j := by
  have hexec : exec (.linkInjectCrc k) s = .next (after s (injectCrc s k)) := if_pos hmain
  have hwrites : Only [.links] s (injectCrc s k) := State.modLink_only (.refl _ s) (List.Subset.refl _) k _
  exact ⟨_, hexec, (after_link_of_only hq hwrites k).trans (State.modLink_same ..),
    fun j hj => (after_link_of_only hq hwrites j).trans (State.modLink_other _ _ _ hj)⟩

end lost

/-- Settles O49, row by row: frames in order and the first wrong one, ACK, NAK and REPLAY, repeated NAKs and idle ACKs, links
that go DOWN, the injected CRC inversion. -/
theorem linkProtocolRowsComplete : Obligations.LinkProtocolRowsComplete := by
  unfold Obligations.LinkProtocolRowsComplete
  refine ⟨fun e w data s hq hfrom hto => ⟨linkFrameReceive_acks hq e hfrom hto, linkFrameReceive_counts hq e hfrom hto,
      fun m hbad hfirst => linkFrameReceive_naks hq e hfrom hto hbad hfirst⟩,
    fun e m n s hq => linkctlAckReceive_acks hq e m n,
    fun e n m s hq => ⟨fun hfew => linkctlNakReceive_replays hq e fun hfourth => ?_,
      fun hagain hup hr => linkctlNakReceive_downs hq e (((s.port e).nakCount_fourth m n).2 hagain) hup hr⟩,
    fun e m s hq => ⟨fun hmissing hdue => nakRepeatTimeout_naks hq e hmissing hdue,
      fun hup hdue => ackIdleTimeout_acks hq e hup hdue⟩,
    fun k s hq hup hr => ⟨fun hout hdue => ackMissingTimeout_downs hq hup hr hout hdue, blockLockLoss_downs hq hup hr,
      linkRetrain_downs hq hup hr⟩,
    fun k s hq hmain => linkInjectCrc_injects hq hmain⟩
  exact Bool.false_ne_true (hfew.symm.trans (((s.port e).nakCount_fourth m n).1 hfourth))

end Sys2Proof.Safety

/-! SUPPORT. Training and electrical idle (R243, R261 to R264): what a training step, taps and a link that becomes ACTIVE leave of
the link, and the rows of TRAIN blocks. -/

namespace Sys2Proof.Machine

/-! ## Steps and taps (R261, R262) -/

/-- A link in the training step of a speed, with the taps of a preset. -/
def Link.stepping (l : Link) (speed : Nat) (taps : Nat × Nat × Nat) : Link :=
  { l with state := .step, stepSpeed := speed, tapPre := taps.1, tapMain := taps.2.1, tapPost := taps.2.2 }

theorem beginStep_eq (s : State) (t speed : Nat) : beginStep s t speed =
    (s.setLink t ((s.link t).stepping speed (s.preset t speed))).emit (.downFrame t "TRAIN" [2, speed, 0, 0]) :=
  State.down_linkBlock isLinkBlock_train ..

theorem beginStep_link (s : State) (t speed : Nat) :
    (beginStep s t speed).link t = (s.link t).stepping speed (s.preset t speed) := by
  rw [beginStep_eq, State.emit_link, State.setLink_same]

theorem beginStep_out (s : State) (t speed : Nat) :
    .downFrame t "TRAIN" [2, speed, 0, 0] ∈ (beginStep s t speed).out := by
  rw [beginStep_eq]
  exact State.mem_emit_out ..

/-- A link with the tap requests of a TRAIN block taken. -/
def Link.tapped (l : Link) (b : TrainBlock) : Link :=
  let pre := (tapRequest b.reqPre l.tapPre 0 15 (l.tapMain + l.tapPost)).1
  let main := (tapRequest b.reqMain l.tapMain 20 63 (pre + l.tapPost)).1
  { l with tapPre := pre, tapMain := main, tapPost := (tapRequest b.reqPost l.tapPost 0 31 (pre + main)).1 }

theorem takeTaps_link (s : State) (t : Nat) (b : TrainBlock) : (takeTaps s t b).link t = (s.link t).tapped b :=
  (congrArg (State.link · t) (State.down_linkBlock isLinkBlock_train ..)).trans (State.setLink_same ..)

theorem tapRequest_none (v lo hi rest : Nat) : tapRequest 0 v lo hi rest = (v, false) := rfl

/-- A request for more is taken up to the tap's limit, and while the taps' sum stays within 63. -/
theorem tapRequest_more (v lo hi rest : Nat) :
    (tapRequest 1 v lo hi rest).1 = if v < hi ∧ v + rest < 63 then v + 1 else v := by
  simp only [tapRequest, Bool.and_eq_true, decide_eq_true_eq]
  split <;> rfl

/-! ## A link that becomes ACTIVE (R264) -/

/-- A link whose tile has still to answer CLAIM, IDENT and READBACK_REQ. -/
def Link.unanswered (l : Link) : Link := { l with claimed := none, ident := [], readback := [], readAsked := false }

theorem sendClaim_still (s : State) (t : Nat) : ((sendClaim s t).link t).still = (s.link t).unanswered.still := by
  have unanswered := State.modLink_same s t Link.unanswered
  rw [← unanswered]
  exact (down_frames (s.modLink t Link.unanswered) t "CLAIM" []).still t

/-- A link that has become ACTIVE at device time `now`, before a claim is sent. -/
def Link.activated (l : Link) (limited : Bool) (now : Nat) : Link := { l with
  state := .active, tile := .adopting, limited, trainings := satInc l.trainings 0xFFFF
  near := { ackAt := now, ackSent1 := now, ackSentM := now }
  claimed := if l.owner then some true else none
  ident := [], readback := [], readAsked := false, tempSeen := false, stepFails := 0 }

/-- The link to tile `t` has become ACTIVE at both ends, before a claim is sent. -/
def linkBegun (s : State) (t : Nat) (limited : Bool) : State :=
  (s.modLink t (·.activated limited s.dt)).modTile t fun x =>
    { x with far := { ackAt := s.dt, ackSent1 := s.dt, ackSentM := s.dt } }

theorem linkBegun_link (s : State) (t : Nat) (limited : Bool) :
    (linkBegun s t limited).link t = (s.link t).activated limited s.dt := State.modLink_same s t (·.activated limited s.dt)

/-- Adoption begins with a claim, unless this controller holds the token. -/
theorem linkActive_eq (s : State) (t : Nat) (limited : Bool) : linkActive s t limited =
    if (s.link t).owner then linkBegun s t limited else sendClaim (linkBegun s t limited) t := by
  have howner : ((linkBegun s t limited).link t).owner = (s.link t).owner := congrArg (·.owner) (linkBegun_link s t limited)
  rw [← howner]
  rfl

/-- A field of a link that becomes ACTIVE, of those that a claim and frames do not move. -/
theorem linkActive_field {α : Type} (s : State) (t : Nat) (limited : Bool) (f : Link → α)
    (hf : ∀ l, f l = f l.unanswered.still) :
    f ((linkActive s t limited).link t) = f ((s.link t).activated limited s.dt) := by
  rw [linkActive_eq, ← linkBegun_link]
  split
  · rfl
  · have claimed := congrArg (fun l : Link => f l.unanswered) (sendClaim_still (linkBegun s t limited) t)
    exact (hf _).trans (claimed.trans (hf ((linkBegun s t limited).link t)).symm)

theorem linkActive_claims {s : State} {t : Nat} (howner : (s.link t).owner = false) (limited : Bool) :
    .downFrame t "CLAIM" [] ∈ (linkActive s t limited).out := by
  rw [linkActive_eq, if_neg (ne_true_of_eq_false howner)]
  exact mem_sendClaim_out ..

/-! ## Electrical idle (R263) -/

/-- A link in another state of LINK_STATUS. -/
def Link.inState (l : Link) (x : LinkState) : Link := { l with state := x }

/-- An end of a link gives out a block and its port goes to `p`; at the controller's end the link goes to `x`. -/
def idleChanged (s : State) (e : LinkEnd) (o : Output) (p : LinkPort) (x : LinkState) : State :=
  modHere ((s.emit o).setPort e p) e (·.inState x)

theorem idleChanged_port (s : State) (e : LinkEnd) (o : Output) (p : LinkPort) (x : LinkState) :
    (idleChanged s e o p x).port e = p :=
  (modHere_port _ e (·.inState x) fun _ => rfl).trans (State.setPort_port ..)

theorem idleChanged_state (s : State) (e : LinkEnd) (o : Output) (p : LinkPort) (x : LinkState) :
    ((idleChanged s e o p x).link e.num).state = if e.here then x else (s.link e.num).state := by
  cases e with
  | controller k => exact congrArg (·.state) (modHere_controller _ k _)
  | tile k => rfl

theorem idleChanged_out (s : State) (e : LinkEnd) (o : Output) (p : LinkPort) (x : LinkState) :
    (idleChanged s e o p x).out = s.out ++ [o] := by
  cases e <;> rfl

end Sys2Proof.Machine

namespace Sys2Proof.Safety

open Sys2Proof.Machine

/-! ## TRAIN blocks -/

section train
variable {s : State} (hq : Quiet s) {k : Nat} (hmay : s.mayTrain k = true) {b : TrainBlock}
include hq hmay

/-- DETECT: the first block of phase DETECT locks the link and brings CAPS. -/
theorem trainBlockReceive_detects (hstate : (s.link k).state = .down) (hphase : b.phase = 0) :
    ∃ t, exec (.trainBlockReceive k b) s = .next t ∧
      t.link k = { s.link k with state := .caps, blockLock := true, speed := 0 } ∧
      .downFrame k "TRAIN" [1, 0, (s.link k).maxSpeed, 0] ∈ t.out := by
  let u := (s.setLink k { s.link k with state := .caps, blockLock := true, speed := 0 }).emit
    (.downFrame k "TRAIN" [1, 0, (s.link k).maxSpeed, 0])
  have hexec : exec (.trainBlockReceive k b) s = .next (after s u) := by
    change execTrainBlockReceive k b s = _
    simp [execTrainBlockReceive, hmay, hstate, hphase, State.down_linkBlock isLinkBlock_train, ok_next, u]
  have hwrites : Only [.out, .links] s u := State.emit_only (State.setLink_only (.refl _ s) (by decide) k _) (by decide) _
  exact ⟨_, hexec, (after_link_of_only hq hwrites k).trans (State.setLink_same ..),
    mem_after_out (State.mem_emit_out ..) s⟩

/-- CAPS: the far end's limits are taken. -/
theorem trainBlockReceive_takes_caps (hstate : (s.link k).state = .caps) (hphase : b.phase = 1) :
    ∃ t, exec (.trainBlockReceive k b) s = .next t ∧
      t.link k = { s.link k with farMax := b.maxSpeed, portB := b.portB, farVersion := b.version } := by
  let u := (s.setLink k { s.link k with farMax := b.maxSpeed, portB := b.portB, farVersion := b.version }).emit
    (.downFrame k "TRAIN" [4, 0, 0, 0])
  have hexec : exec (.trainBlockReceive k b) s = .next (after s u) := by
    change execTrainBlockReceive k b s = _
    simp [execTrainBlockReceive, hmay, hstate, hphase, State.down_linkBlock isLinkBlock_train, ok_next, u]
  have hwrites : Only [.out, .links] s u := State.emit_only (State.setLink_only (.refl _ s) (by decide) k _) (by decide) _
  exact ⟨_, hexec, (after_link_of_only hq hwrites k).trans (State.setLink_same ..)⟩

/-- CAPS ends: the delay is known, the step of speed 0 begins with its preset. -/
theorem trainBlockReceive_begins_steps (hstate : (s.link k).state = .caps) (hphase : b.phase = 5) :
    ∃ t, exec (.trainBlockReceive k b) s = .next t ∧ (t.link k).state = .step ∧ (t.link k).stepSpeed = 0 ∧
      (t.link k).delay = min 1023 (b.roundTripTenthNs / 2) ∧
      ((t.link k).tapPre, (t.link k).tapMain, (t.link k).tapPost) = s.preset k 0 ∧
      .downFrame k "TRAIN" [2, 0, 0, 0] ∈ t.out := by
  let s1 := s.setLink k { s.link k with delay := min 1023 (b.roundTripTenthNs / 2) }
  have hexec : exec (.trainBlockReceive k b) s = .next (after s (beginStep s1 k 0)) := by
    change execTrainBlockReceive k b s = _
    simp [execTrainBlockReceive, hmay, hstate, hphase, ok_next, s1]
  have hwrites : Only [.out, .links] s (beginStep s1 k 0) :=
    beginStep_only (State.setLink_only (.refl _ s) (by decide) k _) (List.Subset.refl _) k 0
  refine ⟨_, hexec, ?_⟩
  rw [after_link_of_only hq hwrites k, beginStep_link, State.setLink_same]
  exact ⟨rfl, rfl, rfl, rfl, mem_after_out (beginStep_out s1 k 0) s⟩

/-- STEP: the far receiver has locked, which is answered. -/
theorem trainBlockReceive_answers_lock (hstate : (s.link k).state = .step)
    (hlock : b.phase = 2 ∧ b.lock = true ∨ b.phase = 3) :
    ∃ t, exec (.trainBlockReceive k b) s = .next t ∧ t.link k = s.link k ∧
      .downFrame k "TRAIN" [4, (s.link k).stepSpeed, 0, 1] ∈ t.out := by
  let u := s.emit (.downFrame k "TRAIN" [4, (s.link k).stepSpeed, 0, 1])
  have hexec : exec (.trainBlockReceive k b) s = .next (after s u) := by
    change execTrainBlockReceive k b s = _
    rcases hlock with ⟨hphase, hlock⟩ | hphase
    · simp [execTrainBlockReceive, hmay, hstate, hphase, hlock, State.down_linkBlock isLinkBlock_train, ok_next, u]
    · simp [execTrainBlockReceive, hmay, hstate, hphase, State.down_linkBlock isLinkBlock_train, ok_next, u]
  have hwrites : Only [.out] s u := State.emit_only (.refl _ s) (List.Subset.refl _) _
  exact ⟨_, hexec, after_link_of_only hq hwrites k,
    mem_after_out (State.mem_emit_out ..) s⟩

/-- STEP without lock: a request for more of MAIN is taken within the limits of R262. -/
theorem trainBlockReceive_raises_main (hstate : (s.link k).state = .step) (hphase : b.phase = 2) (hlock : b.lock = false)
    (hpre : b.reqPre = 0) (hmain : b.reqMain = 1) (hpost : b.reqPost = 0) :
    ∃ t, exec (.trainBlockReceive k b) s = .next t ∧ (t.link k).tapPre = (s.link k).tapPre ∧
      (t.link k).tapPost = (s.link k).tapPost ∧
      (t.link k).tapMain = (if (s.link k).tapMain < 63 ∧ (s.link k).tapPre + (s.link k).tapMain + (s.link k).tapPost < 63
        then (s.link k).tapMain + 1 else (s.link k).tapMain) := by
  have hexec : exec (.trainBlockReceive k b) s = .next (after s (takeTaps s k b)) := by
    change execTrainBlockReceive k b s = _
    simp [execTrainBlockReceive, hmay, hstate, hphase, hlock, ok_next]
  have hwrites : Only [.out, .links] s (takeTaps s k b) := takeTaps_only (.refl _ s) (List.Subset.refl _) k b
  refine ⟨_, hexec, ?_⟩
  rw [after_link_of_only hq hwrites k, takeTaps_link, Link.tapped, hpre, hmain, hpost]
  have sum : (s.link k).tapMain + ((s.link k).tapPre + (s.link k).tapPost) =
      (s.link k).tapPre + (s.link k).tapMain + (s.link k).tapPost := by omega
  rw [tapRequest_none, tapRequest_none, tapRequest_more, sum]
  exact ⟨rfl, rfl, rfl⟩

/-- STEP ends below the limit: the next speed's step begins. -/
theorem trainBlockReceive_steps_up (hstate : (s.link k).state = .step) (hphase : b.phase = 5)
    (hmore : (s.link k).stepSpeed < s.speedLimit k) :
    ∃ t, exec (.trainBlockReceive k b) s = .next t ∧ (t.link k).state = .step ∧
      (t.link k).speed = (s.link k).stepSpeed ∧ (t.link k).stepSpeed = (s.link k).stepSpeed + 1 := by
  let s1 := s.setLink k { s.link k with
    delay := min 1023 (b.roundTripTenthNs / 2), speed := (s.link k).stepSpeed, stepFails := 0 }
  have hexec : exec (.trainBlockReceive k b) s = .next (after s (beginStep s1 k ((s.link k).stepSpeed + 1))) := by
    change execTrainBlockReceive k b s = _
    simp [execTrainBlockReceive, hmay, hstate, hphase, hmore, ok_next, s1]
  have hwrites : Only [.out, .links] s (beginStep s1 k ((s.link k).stepSpeed + 1)) :=
    beginStep_only (State.setLink_only (.refl _ s) (by decide) k _) (List.Subset.refl _) k _
  refine ⟨_, hexec, ?_⟩
  rw [after_link_of_only hq hwrites k, beginStep_link, State.setLink_same]
  exact ⟨rfl, rfl, rfl⟩

/-- STEP ends at the limit: the link is ACTIVE, its tile is claimed. -/
theorem trainBlockReceive_activates (hstate : (s.link k).state = .step) (hphase : b.phase = 5)
    (hlast : s.speedLimit k ≤ (s.link k).stepSpeed) :
    ∃ t, exec (.trainBlockReceive k b) s = .next t ∧ (t.link k).state = .active ∧ (t.link k).tile = .adopting ∧
      (t.link k).speed = (s.link k).stepSpeed ∧ (t.link k).limited = false ∧
      ((s.link k).owner = false → .downFrame k "CLAIM" [] ∈ t.out) := by
  let s1 := s.setLink k { s.link k with
    delay := min 1023 (b.roundTripTenthNs / 2), speed := (s.link k).stepSpeed, stepFails := 0 }
  have hlink : s1.link k = _ := State.setLink_same ..
  have hexec : exec (.trainBlockReceive k b) s = .next (after s (linkActive s1 k false)) := by
    change execTrainBlockReceive k b s = _
    simp [execTrainBlockReceive, hmay, hstate, hphase, Nat.not_lt.2 hlast, ok_next, s1]
  have hwrites : Only [.out, .links, .tiles] s (linkActive s1 k false) :=
    linkActive_only (State.setLink_only (.refl _ s) (by decide) k _) (List.Subset.refl _) k false
  refine ⟨_, hexec, ?_⟩
  rw [after_link_of_only hq hwrites k]
  refine ⟨linkActive_field s1 k false (·.state) fun _ => rfl, linkActive_field s1 k false (·.tile) fun _ => rfl,
    (linkActive_field s1 k false (·.speed) fun _ => rfl).trans (congrArg (·.speed) hlink),
    linkActive_field s1 k false (·.limited) fun _ => rfl,
    fun howner => mem_after_out (linkActive_claims ((congrArg (·.owner) hlink).trans howner) false) s⟩

end train

/-! ## A training step that times out -/

section stepTimeout
variable {s : State} (hq : Quiet s) {k : Nat} (hstate : (s.link k).state = .step)
include hq hstate

/-- The first two time-outs try the step again. -/
theorem trainStepTimeout_retries (hfew : (s.link k).stepFails < 2) :
    ∃ t, exec (.trainStepTimeout k) s = .next t ∧ (t.link k).stepFails = (s.link k).stepFails + 1 ∧
      (t.link k).state = .step ∧ (t.link k).stepSpeed = (s.link k).stepSpeed := by
  let s1 := s.setLink k { s.link k with stepFails := (s.link k).stepFails + 1 }
  have hexec : exec (.trainStepTimeout k) s = .next (after s (beginStep s1 k (s.link k).stepSpeed)) :=
    (if_neg (by simp [hstate])).trans (if_pos hfew)
  have hwrites : Only [.out, .links] s (beginStep s1 k (s.link k).stepSpeed) :=
    beginStep_only (State.setLink_only (.refl _ s) (by decide) k _) (List.Subset.refl _) k _
  refine ⟨_, hexec, ?_⟩
  rw [after_link_of_only hq hwrites k, beginStep_link, State.setLink_same]
  exact ⟨rfl, rfl, rfl⟩

/-- The third, where no speed has locked, goes back to DETECT. -/
theorem trainStepTimeout_detects (hthird : 2 ≤ (s.link k).stepFails) (hnone : (s.link k).stepSpeed = 0) :
    ∃ t, exec (.trainStepTimeout k) s = .next t ∧ t.link k = { s.link k with state := .down, stepFails := 0 } := by
  let u := (s.setLink k { s.link k with state := .down, stepFails := 0 }).down k "TRAIN" [0, 0, 0, 0]
  have hexec : exec (.trainStepTimeout k) s = .next (after s u) :=
    ((if_neg (by simp [hstate])).trans (if_neg (Nat.not_lt.2 hthird))).trans (if_pos hnone)
  have hwrites : Only [.out, .links] s u := State.down_only (State.setLink_only (.refl _ s) (by decide) k _) (by decide) _ _ _
  have hsent : u.link k = _ := congrArg (State.link · k) (State.down_linkBlock isLinkBlock_train ..)
  exact ⟨_, hexec, ((after_link_of_only hq hwrites k).trans hsent).trans (State.setLink_same ..)⟩

/-- The third above speed 0 leaves the last speed that locked. -/
theorem trainStepTimeout_limits (hthird : 2 ≤ (s.link k).stepFails) (hsome : (s.link k).stepSpeed ≠ 0) :
    ∃ t, exec (.trainStepTimeout k) s = .next t ∧ (t.link k).state = .active ∧ (t.link k).limited = true ∧
      (t.link k).speed = (s.link k).speed := by
  have hexec : exec (.trainStepTimeout k) s = .next (after s (linkActive s k true)) :=
    ((if_neg (by simp [hstate])).trans (if_neg (Nat.not_lt.2 hthird))).trans (if_neg hsome)
  have hwrites : Only [.out, .links, .tiles] s (linkActive s k true) := linkActive_only (.refl _ s) (List.Subset.refl _) k true
  refine ⟨_, hexec, ?_⟩
  rw [after_link_of_only hq hwrites k]
  exact ⟨linkActive_field s k true (·.state) fun _ => rfl, linkActive_field s k true (·.limited) fun _ => rfl,
    linkActive_field s k true (·.speed) fun _ => rfl⟩

end stepTimeout

/-! ## Electrical idle -/

section idle
variable {s : State} (hq : Quiet s) (e : LinkEnd)
include hq

/-- What an end that goes to electrical idle or comes back leaves when the command is over. -/
theorem after_idleChanged (o : Output) (p : LinkPort) (x : LinkState) :
    (after s (idleChanged s e o p x)).port e = p ∧ o ∈ (after s (idleChanged s e o p x)).out ∧
      ((after s (idleChanged s e o p x)).link e.num).state = if e.here then x else (s.link e.num).state := by
  have hwrites : Only [.out, .links, .tiles] s (idleChanged s e o p x) :=
    modHere_only (State.setPort_only (State.emit_only (.refl _ s) (by decide) o) (by decide) e p) (by decide) e _
  refine ⟨(after_port_of_only hq hwrites e).trans (idleChanged_port ..), mem_after_out ?_ s,
    (congrArg (·.state) (after_link_of_only hq hwrites e.num)).trans (idleChanged_state ..)⟩
  rw [idleChanged_out]
  exact List.mem_append_right _ (List.mem_singleton_self _)

theorem eidleEnter_idles (hen : (s.link e.num).idleEn = true) (hup : (s.link e.num).up = true)
    (hawake : (s.port e).eidle = false) :
    ∃ t, exec (.eidleEnter e) s = .next t ∧ (t.port e).eidle = true ∧ linkBlock s e "LINKCTL" [2, 0, 0] ∈ t.out ∧
      (t.link e.num).state = if e.here then .idle else (s.link e.num).state := by
  have hexec : exec (.eidleEnter e) s = .next (after s (modHere
      ((sendBlock s e "LINKCTL" [2, 0, 0]).setPort e { s.port e with eidle := true }) e (·.inState .idle))) :=
    if_neg (by simp [hen, hup, hawake])
  rw [sendBlock_eq isLinkBlock_linkctl] at hexec
  obtain ⟨hport, hout, hlink⟩ := after_idleChanged hq e (linkBlock s e "LINKCTL" [2, 0, 0]) { s.port e with eidle := true } .idle
  exact ⟨_, hexec, congrArg (·.eidle) hport, hout, hlink⟩

theorem eidleExit_wakes (hidle : (s.port e).eidle = true) :
    ∃ t, exec (.eidleExit e) s = .next t ∧ (t.port e).eidle = false ∧ linkBlock s e "TRAIN" [6, 64] ∈ t.out ∧
      (t.link e.num).state = if e.here then .active else (s.link e.num).state := by
  have hexec : exec (.eidleExit e) s = .next (after s (modHere
      ((sendBlock s e "TRAIN" [6, 64]).setPort e { s.port e with eidle := false }) e (·.inState .active))) :=
    if_neg (by simp [hidle])
  rw [sendBlock_eq isLinkBlock_train] at hexec
  obtain ⟨hport, hout, hlink⟩ := after_idleChanged hq e (linkBlock s e "TRAIN" [6, 64]) { s.port e with eidle := false } .active
  exact ⟨_, hexec, congrArg (·.eidle) hport, hout, hlink⟩

end idle

/-- Settles O50, row by row: TRAIN blocks from DETECT to ACTIVE, a step that times out, electrical idle and its end. -/
theorem trainingRowsComplete : Obligations.TrainingRowsComplete := by
  unfold Obligations.TrainingRowsComplete
  exact ⟨fun k b s hq hmay => ⟨trainBlockReceive_detects hq hmay, trainBlockReceive_takes_caps hq hmay,
      trainBlockReceive_begins_steps hq hmay, trainBlockReceive_answers_lock hq hmay, trainBlockReceive_raises_main hq hmay,
      trainBlockReceive_steps_up hq hmay, trainBlockReceive_activates hq hmay⟩,
    fun k s hq hstate => ⟨trainStepTimeout_retries hq hstate, trainStepTimeout_detects hq hstate,
      trainStepTimeout_limits hq hstate⟩,
    fun e s hq => ⟨eidleEnter_idles hq e, eidleExit_wakes hq e⟩⟩

end Sys2Proof.Safety

/-! SUPPORT. Acknowledgements of tiles (R184, R264, R265, R269, R408): the answer to a claim, a write of the epoch, an arm slot. -/

namespace Sys2Proof.Machine

/-! ## The answer to a claim (R264, R269) -/

/-- A link whose claim has been answered. -/
def Link.claimAnswered (l : Link) (granted : Bool) : Link := { l with owner := granted, claimed := some granted }

/-- A link whose tile has been asked for its readback. -/
def Link.readSent (l : Link) : Link := { l with readAsked := true, readback := [] }

/-- A field of a link that READBACK_REQ and frames do not move. -/
theorem askRead_field {α : Type} (s : State) (k : Nat) (f : Link → α) (hf : ∀ l, f l = f l.readSent.still) :
    f ((askRead s k).link k) = f (s.link k) := by
  unfold askRead
  dsimp only
  split
  · have hsent := (down_frames (s.setLink k (s.link k).readSent) k "READBACK_REQ" []).still k
    rw [State.setLink_same] at hsent
    exact (hf _).trans ((congrArg (fun l : Link => f l.readSent) hsent).trans (hf (s.link k)).symm)
  · rfl

/-- Outside a takeover a claim's answer says who owns the tile, and READBACK_REQ may follow. -/
theorem execCmdAckReceive_claim {s : State} (h : s.mate.takeover ≠ .claiming) (k n : Nat) (granted : Bool) :
    execCmdAckReceive k 0x0A granted n s = ok s (askRead (s.modLink k (·.claimAnswered granted)) k) := by
  have hidle : (s.mate.takeover == .claiming && s.mate.claims.contains k) = false := by simp [h]
  have hidle' := ne_true_of_eq_false hidle
  cases granted with
  | false => exact congrArg (ok s) (if_neg hidle')
  | true => exact congrArg (ok s) (if_neg hidle')

/-! ## A takeover that is refused (R408) -/

/-- A takeover stopped by the refusal of tile `k`: the tiles it had got are given back, a new try comes after 1 ms. -/
def takeoverAverted (s : State) (k : Nat) : State :=
  let s1 := releaseTiles (s.modLink k (·.claimAnswered false)) s.mate.granted
  { s1 with mate := { s1.mate with
      takeover := .none, claims := [], granted := [], splitAverted := true, retryAt := some (s.dt + msTicks) } }

theorem claimRefused_averts {s : State} {k : Nat} (htaking : s.mate.takeover = .claiming) (hk : k ∈ s.mate.claims)
    (hincoming : s.mate.incoming = none) : claimRefused s k = (takeoverAverted s k).report 0x0081 srcMate := by
  unfold claimRefused
  dsimp only
  rw [if_pos (by simp [htaking, hk]), hincoming]
  rfl

/-! ## Writes that the epoch counts (R265) -/

/-- A link with one acknowledgement less to come. -/
def Link.writeAcked (l : Link) : Link := { l with acksOpen := l.acksOpen - 1 }

/-- A frame that is no write of the epoch leaves the counts of writes. -/
theorem down_keeps_writes {name : String} {fields : List Nat} (h : isEpochWrite name fields = false) (s : State) (k : Nat) :
    ((s.down k name fields).link k).acksOpen = (s.link k).acksOpen ∧
      ((s.down k name fields).link k).epochDirty = (s.link k).epochDirty := by
  unfold State.down
  dsimp only
  rw [h, State.emit_link]
  split
  · exact ⟨rfl, rfl⟩
  · rw [State.modLink_same]
    exact ⟨rfl, Bool.or_false _⟩

theorem writeAcked_eq (s : State) (k : Nat) : writeAcked s k = flushEpoch (s.modLink k Link.writeAcked) k := rfl

/-- The last acknowledgement brings SET_EPOCH. -/
theorem writeAcked_last {s : State} {k : Nat} (hlast : (s.link k).acksOpen = 1) (htile : (s.link k).tile = .adopted)
    (hdirty : (s.link k).epochDirty = true) : writeAcked s k = ((s.modLink k Link.writeAcked).setLink k
      { (s.link k).writeAcked with epochDirty := false }).down k "SET_EPOCH" [(s.link k).epoch] := by
  have hlink : (s.modLink k Link.writeAcked).link k = (s.link k).writeAcked := State.modLink_same ..
  rw [writeAcked_eq, flushEpoch, hlink]
  exact if_pos (by simp [Link.writeAcked, hlast, htile, hdirty])

/-- While acknowledgements are still to come nothing is sent. -/
theorem writeAcked_more {s : State} {k : Nat} (hmore : 1 < (s.link k).acksOpen) :
    writeAcked s k = s.modLink k Link.writeAcked := by
  have hlink : (s.modLink k Link.writeAcked).link k = (s.link k).writeAcked := State.modLink_same ..
  have hopen : (s.link k).writeAcked.acksOpen ≠ 0 := Nat.sub_ne_zero_of_lt hmore
  rw [writeAcked_eq, flushEpoch, hlink]
  exact if_neg (by simp [hopen])

/-! ## Arm slots (R184) -/

/-- A sentence with the acknowledgement of its arm slot in tile `k`. -/
def Sentence.slotAck (x : Sentence) (k : Nat) : Sentence := { x with slotAcked := x.slotAcked ++ [k] }

theorem finishArming_waits {s : State} {hd : Nat}
    (h : s.store.preps.find? (fun p => p.arms && p.handle = hd && p.done.isSome) = none) : finishArming s hd = s := by
  unfold finishArming
  rw [h]

/-- With the last tile's acknowledgement the sentence is armed and its verb ends. -/
theorem finishArming_ends {s : State} {hd : Nat} {p : Prep} {h : Hdr}
    (hprep : s.store.preps.find? (fun p => p.arms && p.handle = hd && p.done.isSome) = some p) (htrigger : p.trigger = .arming h)
    (hall : (tilesOf (s.sent hd).armedMoved).all (s.sent hd).slotAcked.contains = true) : finishArming s hd =
      (dropPreps (s.setSent hd { s.sent hd with state := .armed }) (·.id == p.id)).complete h 0x14 stSuccess 0 := by
  unfold finishArming
  rw [hprep]
  dsimp only
  rw [if_pos hall, htrigger]

end Sys2Proof.Machine

namespace Sys2Proof.Safety

open Sys2Proof.Machine

/-! ## Claims -/

/-- A granted claim makes this controller the owner, a refused one does not. -/
theorem cmdAckReceive_answers_claim {s : State} (hq : Quiet s) (h : s.mate.takeover ≠ .claiming) (k n : Nat)
    (granted : Bool) : ∃ t, exec (.cmdAckReceive k 0x0A granted n) s = .next t ∧ (t.link k).owner = granted ∧
      (t.link k).claimed = some granted := by
  let s1 := s.modLink k (·.claimAnswered granted)
  have hlink : s1.link k = (s.link k).claimAnswered granted := State.modLink_same s k (·.claimAnswered granted)
  have hwrites : Only [.out, .links] s (askRead s1 k) :=
    askRead_only (State.modLink_only (.refl _ s) (by decide) k _) (List.Subset.refl _) k
  refine ⟨_, execCmdAckReceive_claim h k n granted, ?_⟩
  rw [after_link_of_only hq hwrites k]
  exact ⟨(askRead_field s1 k (·.owner) fun _ => rfl).trans (congrArg (·.owner) hlink),
    (askRead_field s1 k (·.claimed) fun _ => rfl).trans (congrArg (·.claimed) hlink)⟩

theorem mem_releaseTiles_out {ks : List Nat} {k : Nat} (hk : k ∈ ks) (s : State) :
    .downFrame k "RELEASE" [] ∈ (releaseTiles s ks).out := by
  induction ks generalizing s with
  | nil => cases hk
  | cons j ks ih =>
    rcases List.mem_cons.1 hk with rfl | hk
    · refine (releaseTiles_out ((loseTile s k).down k "RELEASE" []) ks).subset ?_
      exact State.mem_down_out ..
    · exact ih hk _

/-- A report below S3 that becomes a record only adds to the output. -/
theorem report_minor_out {s : State} {code source d0 : Nat} (h : Reportable s code source d0) (hminor : severityOf code ≠ 3)
    (d1 : Nat) : s.out <+: (s.report code source d0 d1).out := by
  rw [report_eq h, if_neg hminor]
  unfold recordNew
  dsimp only
  split
  · refine List.IsPrefix.trans ?_ (msix_out ..)
    exact List.prefix_refl _
  · exact List.prefix_refl _

theorem takeoverAverted_only (s : State) (k : Nat) :
    Only [.out, .elems, .runs, .calRuns, .links, .mate] s (takeoverAverted s k) :=
  Only.set_mate (.inl (by decide)) (.inr rfl) (.inr ⟨rfl, rfl, rfl⟩)
    (releaseTiles_only (State.modLink_only (.refl _ s) (by decide) k _) (by decide) _)

/-- A refused claim stops a takeover for 1 ms (R408): the active is alive. -/
theorem cmdAckReceive_averts_takeover {s : State} {k : Nat} (hq : Quiet s) (htaking : s.mate.takeover = .claiming)
    (hk : k ∈ s.mate.claims) (hincoming : s.mate.incoming = none) (hr : Reportable s 0x0081 srcMate 0) (n : Nat) :
    ∃ t, exec (.cmdAckReceive k 0x0A false n) s = .next t ∧ t.mate.takeover = .none ∧
      t.mate.retryAt = some (s.dt + msTicks) ∧ t.mate.splitAverted = true ∧ NewRecord s t 0x0081 srcMate 0 ∧
      ∀ j ∈ s.mate.granted, .downFrame j "RELEASE" [] ∈ t.out := by
  let u := (takeoverAverted s k).report 0x0081 srcMate
  have hexec : exec (.cmdAckReceive k 0x0A false n) s = .next (after s u) :=
    congrArg (ok s) (claimRefused_averts htaking hk hincoming)
  have hstopped := takeoverAverted_only s k
  have hreport : Only [.out, .faults, .irq, .loops] (takeoverAverted s k) u := report_minor (code := 0x0081) (by decide) _ _ _
  have hmate {α : Type} (f : Mate → α)
      (hf : ∀ m, f m = f { m with handover := .none, sent := 0, unacked := [], waits := [] }) :
      f (after s u).mate = f (takeoverAverted s k).mate :=
    (after_mate_paths s u f hf).trans (hreport.mate_field (by decide) f hf)
  refine ⟨_, hexec, hmate (·.takeover) fun _ => rfl, hmate (·.retryAt) fun _ => rfl, hmate (·.splitAverted) fun _ => rfl, ?_, ?_⟩
  · have hwrites : Only [.out, .faults, .irq, .loops, .elems, .runs, .calRuns, .links, .mate] s u :=
      (hstopped.mono (by decide)).trans (hreport.mono (by decide))
    have hquiet := hq.of_only hwrites (by decide) (by decide)
    unfold NewRecord
    rw [after_faults hquiet.1 hquiet.2]
    exact report_record_of_only hr hstopped (by decide) (by decide) (by decide) (by decide) 0
  · have hreportable := (hr.of_only hstopped (by decide) (by decide) (by decide) (by decide)).1
    exact fun j hj => mem_after_out ((report_minor_out hreportable (by decide) 0).subset (mem_releaseTiles_out hj _)) s

/-! ## Writes that the epoch counts -/

section write
variable {s : State} (hq : Quiet s) {k op : Nat} (hop : op ∈ [0x03, 0x05, 0x06, 0x08]) (n : Nat)
include hop

theorem exec_cmdAckReceive_write :
    exec (.cmdAckReceive k op true n) s = .next (after s (writeAcked s k)) := by
  have hclaim : op ≠ 0x0A := by rintro rfl; exact absurd hop (by decide)
  have hslot : op ≠ 0x01 := by rintro rfl; exact absurd hop (by decide)
  exact ((if_neg hclaim).trans (if_neg (by simp [hslot]))).trans (if_pos (List.contains_iff_mem.2 hop))

include hq

/-- The last acknowledgement to come brings SET_EPOCH. -/
theorem cmdAckReceive_sets_epoch (hlast : (s.link k).acksOpen = 1) (htile : (s.link k).tile = .adopted)
    (hdirty : (s.link k).epochDirty = true) : ∃ t, exec (.cmdAckReceive k op true n) s = .next t ∧
      (t.link k).acksOpen = 0 ∧ (t.link k).epochDirty = false ∧ .downFrame k "SET_EPOCH" [(s.link k).epoch] ∈ t.out := by
  have hwrites : Only [.out, .links] s (writeAcked s k) := writeAcked_only (.refl _ s) (List.Subset.refl _) k
  obtain ⟨hacks, hclean⟩ := down_keeps_writes (name := "SET_EPOCH") (fields := [(s.link k).epoch]) rfl
    ((s.modLink k Link.writeAcked).setLink k { (s.link k).writeAcked with epochDirty := false }) k
  rw [State.setLink_same] at hacks hclean
  refine ⟨_, exec_cmdAckReceive_write hop n, ?_⟩
  rw [after_link_of_only hq hwrites k, writeAcked_last hlast htile hdirty]
  refine ⟨hacks.trans ?_, hclean, mem_after_out ?_ s⟩
  · rw [Link.writeAcked, hlast]
  · exact State.mem_down_out ..

theorem cmdAckReceive_counts (hmore : 1 < (s.link k).acksOpen) : ∃ t, exec (.cmdAckReceive k op true n) s = .next t ∧
    t.link k = { s.link k with acksOpen := (s.link k).acksOpen - 1 } := by
  have hwrites : Only [.out, .links] s (writeAcked s k) := writeAcked_only (.refl _ s) (List.Subset.refl _) k
  refine ⟨_, exec_cmdAckReceive_write hop n, (after_link_of_only hq hwrites k).trans ?_⟩
  rw [writeAcked_more hmore, State.modLink_same, Link.writeAcked]

end write

/-! ## Arm slots -/

section slot
variable {s : State} (hq : Quiet s) (k : Nat) {n hd : Nat} {x : Sentence} (hn : n < 256)
  (hfind : s.store.sentences.find? (fun p => p.2.slot = some n) = some (hd, x)) (hsent : s.sent hd = x)

theorem writeAcked_store (s : State) (k : Nat) : (writeAcked s k).store = s.store :=
  writeAcked_only (P := [.out, .links]) (.refl _ s) (List.Subset.refl _) k .store (by decide)

include hn hfind in
theorem exec_cmdAckReceive_slot : exec (.cmdAckReceive k 0x01 true n) s =
    .next (after s (finishArming ((writeAcked s k).modSent hd (·.slotAck k)) hd)) := by
  change execCmdAckReceive k 0x01 true n s = _
  unfold execCmdAckReceive
  rw [if_neg (by decide), if_pos (by simp [hn])]
  dsimp only
  rw [writeAcked_store, hfind]
  rfl

include hsent in
theorem slotAcked_sent : ((writeAcked s k).modSent hd (·.slotAck k)).sent hd = x.slotAck k := by
  rw [State.modSent_same, State.sent, writeAcked_store]
  exact congrArg (·.slotAck k) hsent

include hn hfind hsent in
/-- Without an ARM whose preparation is done, the acknowledgement is noted, and that is all. -/
theorem cmdAckReceive_notes_slot
    (hnone : s.store.preps.find? (fun p => p.arms && p.handle = hd && p.done.isSome) = none) :
    ∃ t, exec (.cmdAckReceive k 0x01 true n) s = .next t ∧ t.sent hd = x.slotAck k := by
  let u := (writeAcked s k).modSent hd (·.slotAck k)
  have hpreps : u.store.preps = s.store.preps := congrArg (·.preps) (writeAcked_store s k)
  refine ⟨_, exec_cmdAckReceive_slot k hn hfind, ?_⟩
  rw [after_sent, finishArming_waits ((congrArg (List.find? _) hpreps).trans hnone), slotAcked_sent k hsent]

include hq hn hfind hsent in
/-- The last tile of an arm slot ends the verb ARM. -/
theorem cmdAckReceive_arms {p : Prep} {h : Hdr}
    (hprep : s.store.preps.find? (fun p => p.arms && p.handle = hd && p.done.isSome) = some p) (htrigger : p.trigger = .arming h)
    (hall : (tilesOf x.armedMoved).all (x.slotAcked ++ [k]).contains = true) :
    ∃ t, exec (.cmdAckReceive k 0x01 true n) s = .next t ∧ (t.sent hd).state = .armed ∧ VerbEnds s t h 0x14 stSuccess 0 := by
  let u := (writeAcked s k).modSent hd (·.slotAck k)
  let v := dropPreps (u.setSent hd { u.sent hd with state := .armed }) (·.id == p.id)
  have hpreps : u.store.preps = s.store.preps := congrArg (·.preps) (writeAcked_store s k)
  have hacked : u.sent hd = x.slotAck k := slotAcked_sent k hsent
  have hends : finishArming u hd = v.complete h 0x14 stSuccess 0 :=
    finishArming_ends ((congrArg (List.find? _) hpreps).trans hprep) htrigger (by rw [hacked]; exact hall)
  have hexec : exec (.cmdAckReceive k 0x01 true n) s = .next (after s (finishArming u hd)) := exec_cmdAckReceive_slot k hn hfind
  rw [hends] at hexec
  have hwrites : Only [.out, .links, .store] s v :=
    dropPreps_only (State.setSent_only (State.modSent_only (writeAcked_only (.refl _ s) (by decide) k) (by decide) _ _)
      (by decide) _ _) (by decide) _
  have harmed : v.sent hd = { u.sent hd with state := .armed } := State.setSent_same u hd _
  refine ⟨_, hexec, ?_, verbEnds_after hwrites hq (by decide) (by decide) (by decide) (by decide) h 0x14 stSuccess 0⟩
  rw [after_sent, State.sent, State.complete_store]
  exact congrArg (·.state) harmed

end slot

/-- Settles O51, clause by clause: the answer to a claim outside a takeover and in one, the writes that the epoch counts, the
arm slots. -/
theorem tileAnswersComplete : Obligations.TileAnswersComplete := by
  unfold Obligations.TileAnswersComplete
  exact ⟨fun k n s hq h => ⟨cmdAckReceive_answers_claim hq h k n true, cmdAckReceive_answers_claim hq h k n false⟩,
    fun k n s hq htaking hk hincoming hr => cmdAckReceive_averts_takeover hq htaking hk hincoming hr n,
    fun k op n s hq hop => ⟨cmdAckReceive_sets_epoch hq hop n, cmdAckReceive_counts hq hop n⟩,
    fun k n hd x s hq hn hfind hsent => ⟨cmdAckReceive_notes_slot k hn hfind hsent,
      fun p h hprep htrigger hall => cmdAckReceive_arms hq k hn hfind hsent hprep htrigger hall⟩⟩

end Sys2Proof.Safety

/-! Device time: of all commands COMMA_BOUNDARY and the two resets of everything alone have it in their frame. -/

namespace Sys2Proof.Safety

open Sys2Proof.Machine

/-- The commands that may write device time: its own passing, and the resets that hold everything. -/
def mayWriteDt : Instr → Bool
  | .commaBoundary | .porNAssert | .aonSupplyLow => true
  | _ => false

theorem mayWriteDt_eq (c : Instr) : mayWriteDt c = (touched c).contains .dt := by
  cases c <;> rfl

theorem dt_not_mem_touched {c : Instr} (hcomma : c ≠ .commaBoundary) (hpor : c ≠ .porNAssert) (haon : c ≠ .aonSupplyLow) :
    .dt ∉ touched c := by
  intro hm
  have hmay : mayWriteDt c = true := (mayWriteDt_eq c).trans (List.contains_iff_mem.2 hm)
  unfold mayWriteDt at hmay
  split at hmay
  · exact hcomma rfl
  · exact hpor rfl
  · exact haon rfl
  · exact Bool.noConfusion hmay

/-- Settles O4, by the frame of every command: device time is in that of the three commands alone. -/
theorem onlyTimeMovesDeviceTime : Obligations.OnlyTimeMovesDeviceTime := by
  unfold Obligations.OnlyTimeMovesDeviceTime
  intro c s t hcomma hpor haon ht
  have hframe : .dt ∉ touched c ++ background := fun hm =>
    (List.mem_append.1 hm).elim (dt_not_mem_touched hcomma hpor haon) (by decide)
  exact (exec_writes s c).same hframe (by decide) ht

end Sys2Proof.Safety

/-! SUPPORT. The servo (R276 to R279): what a measurement does to the time unit in each row of Table 10-1, and what the rest of
the block may see of it. -/

namespace Sys2Proof.Machine

/-! ## The time unit as a measurement leaves it -/

/-- The unit as it handles a measurement that arrived at tick `at_`: the measurement shows. -/
def TimeUnit.measured (u : TimeUnit) (at_ : Nat) (theta : Int) : TimeUnit :=
  { u with servoOffset := shownOffset theta, lastMeasured := some at_ }

/-- A measurement is accepted (Table 10-1). -/
def TimeUnit.accept (u : TimeUnit) (at_ : Nat) : TimeUnit :=
  { u with lastAccepted := some at_, holdoverOver := false, timeJump := false }

/-- Network time is stepped by `theta` at tick `now` (R276). -/
def TimeUnit.stepBy (u : TimeUnit) (now : Nat) (theta : Int) : TimeUnit :=
  { u.rebase now with baseNt := u.nt now - theta, afresh := true, steps := satInc u.steps 0xFFFF }

/-- The initial set (R276). -/
def TimeUnit.setInitially (u : TimeUnit) (now at_ : Nat) (theta : Int) : TimeUnit :=
  { (u.stepBy now theta).accept at_ with needInitial := false, state := .acquiring, lockRun := 0, unlockRun := 0 }

/-- A measurement beyond JUMP_LIMIT is refused (R279). -/
def TimeUnit.refuse (u : TimeUnit) : TimeUnit := { u with
  timeJump := true
  jumps := satInc u.jumps 0xFFFF
  jumpLocked := if u.state == .jump then u.jumpLocked else u.locked
  state := .jump, lockRun := 0, unlockRun := 0 }

/-- Ticks since the last accepted measurement, as the PI law counts them (R277). -/
def TimeUnit.sinceAccepted (u : TimeUnit) (at_ : Nat) : Nat := max 1 (min (at_ - u.lastAccepted.getD at_) (16 * secTicks))

section handle
variable {i : Image} {u : TimeUnit} (now at_ : Nat) {theta : Int}

theorem handle_initial (hinit : u.needInitial = true) :
    handle i u now at_ theta = (u.measured at_ theta).setInitially now at_ theta := if_pos hinit

section later
variable (hinit : u.needInitial = false)
include hinit

theorem handle_refused (hfar : withinSlew theta (1000 * i.jumpLimit) = false) :
    handle i u now at_ theta = (u.measured at_ theta).refuse := by
  refine (if_neg (Bool.eq_false_iff.1 hinit)).trans (if_pos ?_)
  rw [hfar, Bool.not_false]

variable (hnear : withinSlew theta (1000 * i.jumpLimit) = true)
include hnear

theorem handle_stepped (hstep : withinSlew theta (1000 * i.stepThresh) = false) :
    handle i u now at_ theta = lockStep i (((u.measured at_ theta).stepBy now theta).accept at_) theta := by
  refine (if_neg (Bool.eq_false_iff.1 hinit)).trans ((if_neg ?_).trans (if_pos ?_))
  · simp only [hnear, Bool.not_true, Bool.false_eq_true, not_false_eq_true]
  · rw [hstep, Bool.not_false]

variable (hsmall : withinSlew theta (1000 * i.stepThresh) = true)
include hsmall

theorem handle_afresh (hafresh : u.afresh = true) :
    handle i u now at_ theta = lockStep i { (u.measured at_ theta).accept at_ with afresh := false } theta := by
  refine (if_neg (Bool.eq_false_iff.1 hinit)).trans ((if_neg ?_).trans ((if_neg ?_).trans (if_pos hafresh)))
  · simp only [hnear, Bool.not_true, Bool.false_eq_true, not_false_eq_true]
  · simp only [hsmall, Bool.not_true, Bool.false_eq_true, not_false_eq_true]

theorem handle_slewed (hafresh : u.afresh = false) : handle i u now at_ theta =
    lockStep i ((slew i ((u.measured at_ theta).rebase now) theta (u.sinceAccepted at_)).accept at_) theta := by
  refine (if_neg (Bool.eq_false_iff.1 hinit)).trans ((if_neg ?_).trans ((if_neg ?_).trans
    (if_neg (Bool.eq_false_iff.1 hafresh))))
  · simp only [hnear, Bool.not_true, Bool.false_eq_true, not_false_eq_true]
  · simp only [hsmall, Bool.not_true, Bool.false_eq_true, not_false_eq_true]

end later

/-- Table 10-2 moves the lock state and its two counts alone. -/
theorem lockStep_field {α : Type} (f : TimeUnit → α)
    (hf : ∀ (u : TimeUnit) st n m, f { u with state := st, lockRun := n, unlockRun := m } = f u) (i : Image) (u : TimeUnit)
    (theta : Int) : f (lockStep i u theta) = f u := by
  unfold lockStep
  dsimp only
  split
  · split <;> split <;> exact hf u _ _ _
  · split <;> split <;> exact hf u _ _ _
  · rfl
  · exact hf u _ _ _

/-- What the servo leaves alone: PTP's part, and the waiting measurement. -/
def TimeUnit.besideServo (u : TimeUnit) : Ptp × Option (Int × Nat) × Option Nat × Bool :=
  (u.ptp, u.held, u.firstHeld, u.tokensStopped)

theorem handle_besideServo (i : Image) (u : TimeUnit) (now at_ : Nat) (theta : Int) :
    (handle i u now at_ theta).besideServo = u.besideServo := by
  have hlock := lockStep_field TimeUnit.besideServo fun _ _ _ _ => rfl
  cases hinit : u.needInitial with
  | true => rw [handle_initial now at_ hinit]; rfl
  | false =>
    cases hnear : withinSlew theta (1000 * i.jumpLimit) with
    | false => rw [handle_refused now at_ hinit hnear]; rfl
    | true =>
      cases hsmall : withinSlew theta (1000 * i.stepThresh) with
      | false => rw [handle_stepped now at_ hinit hnear hsmall, hlock]; rfl
      | true =>
        cases hafresh : u.afresh with
        | true => rw [handle_afresh now at_ hinit hnear hsmall hafresh, hlock]; rfl
        | false => rw [handle_slewed now at_ hinit hnear hsmall hafresh, hlock]; rfl

end handle

/-- At its base tick the time unit reads the base. -/
theorem TimeUnit.nt_at_base {u : TimeUnit} {t : Nat} (h : u.baseDt = t) : u.nt t = u.baseNt := by
  subst h
  simp only [TimeUnit.nt, Int.sub_self, Int.zero_mul, Int.zero_ediv, Int.add_zero]

theorem TimeUnit.ppsGate_field {α : Type} (f : TimeUnit → α) (hf : ∀ (u : TimeUnit) b, f { u with ppsOut := b } = f u)
    (u : TimeUnit) : f u.ppsGate = f u := by
  unfold TimeUnit.ppsGate
  split
  · rfl
  · exact hf u false

/-! ## A measurement that waits, and one that does not (R278) -/

theorem measureTime_takes {s : State} (htoken : s.tokenOut = false) (hheld : s.time.held = none) (theta : Int) :
    measureTime s theta = takeMeasure s s.dt theta := by
  have happly : applyHeld s = s := by rw [applyHeld, hheld]
  unfold measureTime
  rw [happly]
  exact if_neg (Bool.eq_false_iff.1 htoken)

/-- The state with a measurement that waits. -/
def measureHeld (s : State) (theta : Int) : State :=
  { s with time := { s.time with
    held := some (theta, s.dt)
    firstHeld := some (s.time.firstHeld.getD s.dt)
    heldCount := satInc s.time.heldCount 0xFFFF } }

theorem applyHeld_waits {s : State} (htoken : s.tokenOut = true) : applyHeld s = s := by
  unfold applyHeld
  split
  · rfl
  · exact if_pos htoken

theorem measureTime_waits {s : State} (htoken : s.tokenOut = true) (theta : Int) : measureTime s theta = measureHeld s theta := by
  unfold measureTime
  rw [applyHeld_waits htoken]
  exact if_pos htoken

theorem applyHeld_takes {s : State} {x : Int × Nat} (hheld : s.time.held = some x) (htoken : s.tokenOut = false) :
    applyHeld s = takeMeasure { s with time := { s.time with held := none, firstHeld := none, tokensStopped := false } } x.2 x.1 := by
  rw [applyHeld, hheld]
  exact if_neg (Bool.eq_false_iff.1 htoken)

end Sys2Proof.Machine

namespace Sys2Proof.Safety

open Sys2Proof.Machine

/-! ## What a report leaves alone -/

/-- The parts that a report may write. -/
def reportParts : List Part := [.out, .faults, .irq, .loops, .elems, .runs, .calRuns, .links, .lsu, .house]

theorem report_writes (s : State) (code source d0 d1 : Nat) : Only reportParts s (s.report code source d0 d1) :=
  State.report_only (.refl _ s) (List.Subset.refl _) code source d0 d1

@[simp] theorem report_time (s : State) (code source d0 d1 : Nat) : (s.report code source d0 d1).time = s.time :=
  report_writes s code source d0 d1 .time (by decide)

@[simp] theorem report_dt (s : State) (code source d0 d1 : Nat) : (s.report code source d0 d1).dt = s.dt :=
  report_writes s code source d0 d1 .dt (by decide)

theorem setTime_only (s : State) (u : TimeUnit) : Only [.time] s { s with time := u } :=
  Only.set_time (by decide) (.refl _ s)

/-! ## A measurement is handled -/

/-- `t` comes of `s` by a measurement that the servo handles (Table 10-1): PPS_OUT follows, device time stands. -/
def Handled (s : State) (at_ : Nat) (x : Int) (t : State) : Prop :=
  t.time = (handle s.img s.time s.dt at_ x).ppsGate ∧ t.dt = s.dt

theorem after_now (s0 s : State) : (after s0 s).now = s.now := by rw [State.now, after_time, after_dt, State.now]

theorem after_newRecord {s t : State} {code source d0 : Nat} (h : NewRecord s t code source d0) (s0 : State) :
    NewRecord s (after s0 t) code source d0 := by
  have hlog := congrArg Faults.log (after_same s0 t (p := .faults) (by decide))
  unfold NewRecord
  rwa [hlog]

section handled
variable {s t : State} {at_ : Nat} {x : Int}

theorem handled_takeMeasure (s0 s : State) (at_ : Nat) (x : Int) : Handled s at_ x (after s0 (takeMeasure s at_ x)) := by
  unfold Handled takeMeasure
  rw [after_time, after_dt]
  dsimp only
  split
  · exact ⟨report_time .., report_dt ..⟩
  · exact ⟨rfl, rfl⟩

/-- TIME_JUMP is reported when it is set (R279). -/
theorem takeMeasure_reports_jump (hold : s.time.timeJump = false)
    (hnew : (handle s.img s.time s.dt at_ x).timeJump = true) (hr : Reportable s 0x0090 srcTime 0) (s0 : State) :
    NewRecord s (after s0 (takeMeasure s at_ x)) 0x0090 srcTime 0 := by
  have hjump : (handle s.img s.time s.dt at_ x).ppsGate.timeJump = true :=
    (TimeUnit.ppsGate_field (·.timeJump) (fun _ _ => rfl) _).trans hnew
  have hreports : takeMeasure s at_ x =
      State.report { s with time := (handle s.img s.time s.dt at_ x).ppsGate } 0x0090 srcTime :=
    if_pos (by rw [hjump, hold]; rfl)
  have hframe := setTime_only s (handle s.img s.time s.dt at_ x).ppsGate
  rw [hreports]
  exact after_newRecord (report_record_of_only hr hframe (by decide) (by decide) (by decide) (by decide) 0) s0

section rows
variable (ht : Handled s at_ x t)
include ht

/-- What is read of the time unit after a measurement, but for the pin PPS_OUT, is what its handling leaves. -/
theorem Handled.field {α : Type} (f : TimeUnit → α) (hf : ∀ (u : TimeUnit) b, f { u with ppsOut := b } = f u) :
    f t.time = f (handle s.img s.time s.dt at_ x) := (congrArg f ht.1).trans (TimeUnit.ppsGate_field f hf _)

theorem Handled.now : t.now = (handle s.img s.time s.dt at_ x).nt s.dt := by
  rw [State.now, ht.2]
  exact ht.field (·.nt s.dt) fun _ _ => rfl

theorem Handled.besideServo : t.time.besideServo = s.time.besideServo :=
  (ht.field TimeUnit.besideServo fun _ _ => rfl).trans (handle_besideServo ..)

section initial
variable {v : TimeUnit} (hv : handle s.img s.time s.dt at_ x = v)
include hv

theorem Handled.field_of_eq {α : Type} (f : TimeUnit → α) (hf : ∀ (u : TimeUnit) b, f { u with ppsOut := b } = f u) :
    f t.time = f v := (ht.field f hf).trans (congrArg f hv)

theorem Handled.now_of_eq : t.now = v.nt s.dt := by rw [ht.now, hv]

end initial

section counted
variable {v : TimeUnit} (hv : handle s.img s.time s.dt at_ x = lockStep s.img v x)
include hv

/-- Where Table 10-2 counts the measurement, it moves the lock state alone. -/
theorem Handled.field_of_lockStep {α : Type} (f : TimeUnit → α) (hf : ∀ (u : TimeUnit) st n m b,
    f { u with state := st, lockRun := n, unlockRun := m, ppsOut := b } = f u) : f t.time = f v :=
  (ht.field_of_eq hv f fun u b => hf u u.state u.lockRun u.unlockRun b).trans
    (lockStep_field f (fun u st n m => hf u st n m u.ppsOut) ..)

theorem Handled.now_of_lockStep : t.now = v.nt s.dt := by
  rw [State.now, ht.2]
  exact ht.field_of_lockStep hv (·.nt s.dt) fun _ _ _ _ _ => rfl

end counted

/-- The first measurement sets network time. -/
theorem Handled.sets (hinit : s.time.needInitial = true) :
    t.now = s.now - x ∧ t.time.state = .acquiring ∧ t.time.needInitial = false ∧ t.time.timeJump = false ∧
      t.time.rate = s.time.rate := by
  have hv := handle_initial (i := s.img) (theta := x) s.dt at_ hinit
  exact ⟨(ht.now_of_eq hv).trans (TimeUnit.nt_at_base rfl), ht.field_of_eq hv (·.state) fun _ _ => rfl,
    ht.field_of_eq hv (·.needInitial) fun _ _ => rfl, ht.field_of_eq hv (·.timeJump) fun _ _ => rfl,
    ht.field_of_eq hv (·.rate) fun _ _ => rfl⟩

section later
variable (hinit : s.time.needInitial = false)
include hinit

/-- One beyond JUMP_LIMIT is refused. -/
theorem Handled.refuses (hfar : withinSlew x (1000 * s.img.jumpLimit) = false) :
    t.now = s.now ∧ t.time.rate = s.time.rate ∧ t.time.state = .jump ∧ t.time.timeJump = true ∧
      t.time.jumps = satInc s.time.jumps 0xFFFF := by
  have hv := handle_refused s.dt at_ hinit hfar
  exact ⟨(ht.now_of_eq hv).trans rfl, ht.field_of_eq hv (·.rate) fun _ _ => rfl, ht.field_of_eq hv (·.state) fun _ _ => rfl,
    ht.field_of_eq hv (·.timeJump) fun _ _ => rfl, ht.field_of_eq hv (·.jumps) fun _ _ => rfl⟩

variable (hnear : withinSlew x (1000 * s.img.jumpLimit) = true)
include hnear

/-- One beyond STEP_THRESH steps network time. -/
theorem Handled.steps (hstep : withinSlew x (1000 * s.img.stepThresh) = false) :
    t.now = s.now - x ∧ t.time.rate = s.time.rate ∧ t.time.steps = satInc s.time.steps 0xFFFF ∧ t.time.afresh = true := by
  have hv := handle_stepped s.dt at_ hinit hnear hstep
  exact ⟨(ht.now_of_lockStep hv).trans (TimeUnit.nt_at_base rfl), ht.field_of_lockStep hv (·.rate) fun _ _ _ _ _ => rfl,
    ht.field_of_lockStep hv (·.steps) fun _ _ _ _ _ => rfl, ht.field_of_lockStep hv (·.afresh) fun _ _ _ _ _ => rfl⟩

variable (hsmall : withinSlew x (1000 * s.img.stepThresh) = true)
include hsmall

/-- The first small one after a set or a step leaves the rate. -/
theorem Handled.restarts (hafresh : s.time.afresh = true) :
    t.now = s.now ∧ t.time.lastAccepted = some at_ ∧ t.time.afresh = false ∧ t.time.rate = s.time.rate ∧
      t.time.integ = s.time.integ := by
  have hv := handle_afresh s.dt at_ hinit hnear hsmall hafresh
  exact ⟨(ht.now_of_lockStep hv).trans rfl, ht.field_of_lockStep hv (·.lastAccepted) fun _ _ _ _ _ => rfl,
    ht.field_of_lockStep hv (·.afresh) fun _ _ _ _ _ => rfl, ht.field_of_lockStep hv (·.rate) fun _ _ _ _ _ => rfl,
    ht.field_of_lockStep hv (·.integ) fun _ _ _ _ _ => rfl⟩

/-- A later small one slews: network time stands in its tick, the PI law sets the rate (R277). -/
theorem Handled.slews (hafresh : s.time.afresh = false) :
    t.now = s.now ∧ t.time.lastAccepted = some at_ ∧ t.time.afresh = false ∧
      t.time.integ = clampInt (-rateLimit s.img) (rateLimit s.img)
        (piTerm s.time.integ s.img.ki x (s.time.sinceAccepted at_)) ∧
      t.time.rate = clampInt (-rateLimit s.img) (rateLimit s.img)
        (piTerm t.time.integ s.img.kp x (s.time.sinceAccepted at_)) := by
  have hv := handle_slewed s.dt at_ hinit hnear hsmall hafresh
  have hinteg := ht.field_of_lockStep hv (·.integ) fun _ _ _ _ _ => rfl
  refine ⟨(ht.now_of_lockStep hv).trans (TimeUnit.nt_at_base rfl),
    ht.field_of_lockStep hv (·.lastAccepted) fun _ _ _ _ _ => rfl,
    (ht.field_of_lockStep hv (·.afresh) fun _ _ _ _ _ => rfl).trans hafresh, hinteg, ?_⟩
  rw [hinteg]
  exact ht.field_of_lockStep hv (·.rate) fun _ _ _ _ _ => rfl

/-- A small one, as far as its two cases agree and as far as they differ. -/
theorem Handled.accepts :
    t.now = s.now ∧ t.time.lastAccepted = some at_ ∧ t.time.afresh = false ∧
      (s.time.afresh = true → t.time.rate = s.time.rate ∧ t.time.integ = s.time.integ) ∧
      (s.time.afresh = false → ∀ a, s.time.lastAccepted = some a →
        let n := max 1 (min (at_ - a) (16 * secTicks))
        let m := rateLimit s.img
        t.time.integ = clampInt (-m) m (piTerm s.time.integ s.img.ki x n) ∧
        t.time.rate = clampInt (-m) m (piTerm t.time.integ s.img.kp x n)) := by
  cases hafresh : s.time.afresh with
  | true =>
    obtain ⟨hnow, hlast, hdone, hrate, hinteg⟩ := ht.restarts hinit hnear hsmall hafresh
    exact ⟨hnow, hlast, hdone, fun _ => ⟨hrate, hinteg⟩, fun h => Bool.noConfusion h⟩
  | false =>
    obtain ⟨hnow, hlast, hdone, hinteg, hrate⟩ := ht.slews hinit hnear hsmall hafresh
    refine ⟨hnow, hlast, hdone, fun h => Bool.noConfusion h, fun _ a ha => ?_⟩
    have hsince : s.time.sinceAccepted at_ = max 1 (min (at_ - a) (16 * secTicks)) := by
      rw [TimeUnit.sinceAccepted, ha, Option.getD_some]
    rw [hsince] at hinteg hrate
    exact ⟨hinteg, hrate⟩

end later
end rows
end handled

/-! ## Measurements arrive -/

section arrival
variable {s : State} (hmain : s.chip.mainRun = true)

section main
include hmain

theorem exec_timeMeasurement (x : Int) : exec (.timeMeasurement x) s = .next (after s (measureTime s x)) := if_pos hmain

/-- Nothing holds the measurement: it has the row of Table 10-1 that its size picks. -/
theorem timeMeasurement_handled (htoken : s.tokenOut = false) (hheld : s.time.held = none) (x : Int) :
    ∃ t, exec (.timeMeasurement x) s = .next t ∧
      (s.time.needInitial = true → t.now = s.now - x ∧ t.time.state = .acquiring ∧ t.time.needInitial = false ∧
        t.time.timeJump = false ∧ t.time.rate = s.time.rate) ∧
      (s.time.needInitial = false → withinSlew x (1000 * s.img.jumpLimit) = false →
        t.now = s.now ∧ t.time.rate = s.time.rate ∧ t.time.state = .jump ∧ t.time.timeJump = true ∧
        t.time.jumps = satInc s.time.jumps 0xFFFF ∧
        (s.time.timeJump = false → Reportable s 0x0090 srcTime 0 → NewRecord s t 0x0090 srcTime 0)) ∧
      (s.time.needInitial = false → withinSlew x (1000 * s.img.jumpLimit) = true →
        withinSlew x (1000 * s.img.stepThresh) = false →
        t.now = s.now - x ∧ t.time.rate = s.time.rate ∧ t.time.steps = satInc s.time.steps 0xFFFF ∧ t.time.afresh = true) ∧
      (s.time.needInitial = false → withinSlew x (1000 * s.img.jumpLimit) = true →
        withinSlew x (1000 * s.img.stepThresh) = true →
        t.now = s.now ∧ t.time.lastAccepted = some s.dt ∧ t.time.afresh = false ∧
        (s.time.afresh = true → t.time.rate = s.time.rate ∧ t.time.integ = s.time.integ) ∧
        (s.time.afresh = false → ∀ a, s.time.lastAccepted = some a →
          let n := max 1 (min (s.dt - a) (16 * secTicks))
          let m := rateLimit s.img
          t.time.integ = clampInt (-m) m (piTerm s.time.integ s.img.ki x n) ∧
          t.time.rate = clampInt (-m) m (piTerm t.time.integ s.img.kp x n))) := by
  have ht := handled_takeMeasure s s s.dt x
  refine ⟨_, (exec_timeMeasurement hmain x).trans (by rw [measureTime_takes htoken hheld]), ht.sets, fun hinit hfar => ?_,
    ht.steps, ht.accepts⟩
  obtain ⟨hnow, hrate, hstate, hjump, hjumps⟩ := ht.refuses hinit hfar
  refine ⟨hnow, hrate, hstate, hjump, hjumps, fun hold hr => takeMeasure_reports_jump hold ?_ hr s⟩
  rw [handle_refused s.dt s.dt hinit hfar]
  rfl

/-- While a scheduled token is out the measurement waits (R278). -/
theorem timeMeasurement_waits (htoken : s.tokenOut = true) (x : Int) :
    ∃ t, exec (.timeMeasurement x) s = .next t ∧ t.time.held = some (x, s.dt) ∧ t.now = s.now ∧
      t.time.firstHeld = some (s.time.firstHeld.getD s.dt) ∧ t.time.heldCount = satInc s.time.heldCount 0xFFFF := by
  refine ⟨_, (exec_timeMeasurement hmain x).trans (by rw [measureTime_waits htoken]), ?_⟩
  rw [after_now, after_time]
  exact ⟨rfl, rfl, rfl, rfl⟩

/-- With the host as source of time, SERVO_FEED brings a measurement in ns. -/
theorem servoFeedWrite_measures (v : Word32) (hhost : s.img.hostTime = true) :
    ∃ t, exec (.servoFeedWrite v) s = .next t ∧ exec (.timeMeasurement (v.toInt * ntNs)) s = .next t := by
  have hfeed : servoFeed s v = measureTime s (v.toInt * ntNs) := if_pos hhost
  exact ⟨_, (mainRow_run hmain (servoFeed · v)).trans (by rw [hfeed]), exec_timeMeasurement hmain _⟩

/-- With PTP as source of time SERVO_FEED is ignored. -/
theorem servoFeedWrite_ignored (v : Word32) (hptp : s.img.hostTime = false) :
    ∃ t, exec (.servoFeedWrite v) s = .next t ∧ t.time = s.time := by
  have hfeed : servoFeed s v = s := if_neg (Bool.eq_false_iff.1 hptp)
  exact ⟨_, mainRow_run hmain (servoFeed · v), by rw [after_time, hfeed]⟩

end main

theorem heldChangeApply_applies {x : Int × Nat} (hheld : s.time.held = some x) (htoken : s.tokenOut = false) :
    ∃ t, exec .heldChangeApply s = .next t ∧ t.time.held = none ∧ t.time.firstHeld = none ∧ t.time.tokensStopped = false ∧
      (s.time.needInitial = true → t.now = s.now - x.1) := by
  let s1 : State := { s with time := { s.time with held := none, firstHeld := none, tokensStopped := false } }
  have ht := handled_takeMeasure s s1 x.2 x.1
  have hexec : exec .heldChangeApply s = .next (after s (applyHeld s)) := if_pos (by rw [hheld, htoken]; rfl)
  have hbeside := ht.besideServo
  exact ⟨_, hexec.trans (by rw [applyHeld_takes hheld htoken]), congrArg (·.2.1) hbeside, congrArg (·.2.2.1) hbeside,
    congrArg (·.2.2.2) hbeside, fun hinit => (ht.sets hinit).1⟩

theorem heldChangeLimit_stops {a : Nat} (hfirst : s.time.firstHeld = some a) (hover : a + msTicks ≤ s.dt) :
    ∃ t, exec .heldChangeLimit s = .next t ∧ t.time = { s.time with tokensStopped := true } := by
  refine ⟨after s { s with time := { s.time with tokensStopped := true } }, ?_, after_time ..⟩
  change execHeldChangeLimit s = _
  rw [execHeldChangeLimit, hfirst]
  exact if_pos hover

/-! ## Lock states (R279) -/

/-- The state with another time unit, before its pin follows. -/
theorem after_gated_field {α : Type} (f : TimeUnit → α) (hf : ∀ (u : TimeUnit) b, f { u with ppsOut := b } = f u)
    (s0 s : State) (u : TimeUnit) : f (after s0 { s with time := u.ppsGate }).time = f u :=
  (congrArg f (after_time ..)).trans (TimeUnit.ppsGate_field f hf u)

theorem syncTimeout_holds_over {a : Nat} (hlocked : s.time.state = .locked) (hlast : s.time.lastMeasured = some a)
    (hover : a + s.img.syncTimeout * secTicks ≤ s.dt) :
    ∃ t, exec .syncTimeout s = .next t ∧ t.time.state = .holdover ∧ t.time.rate = s.time.rate ∧ t.now = s.now := by
  let u : TimeUnit := { s.time with state := .holdover }
  have field {α : Type} (f : TimeUnit → α) (hf) := after_gated_field f hf s s u
  refine ⟨after s { s with time := u.ppsGate }, if_pos ?_, field (·.state) fun _ _ => rfl, field (·.rate) fun _ _ => rfl, ?_⟩
  · simp [hlocked, hlast, hover]
  · rw [State.now, after_dt]
    exact field (·.nt s.dt) fun _ _ => rfl

theorem holdoverExpire_expires {a : Nat} (hstate : s.time.state = .holdover ∨ s.time.state = .jump)
    (hfirst : s.time.holdoverOver = false) (hlast : s.time.lastAccepted = some a)
    (hover : a + s.img.holdoverMax * secTicks ≤ s.dt) :
    ∃ t, exec .holdoverExpire s = .next t ∧ t.time.holdoverOver = true ∧ t.time.state = s.time.state := by
  have field {α : Type} (f : TimeUnit → α) (hf) := after_gated_field f hf s s { s.time with holdoverOver := true }
  refine ⟨_, if_pos ?_, field (·.holdoverOver) fun _ _ => rfl, field (·.state) fun _ _ => rfl⟩
  simp [hstate, hfirst, hlast, hover]

/-! ## ACCEPT_JUMP and the reads (R272, R274) -/

theorem acceptJump_awaits (hmain : s.chip.mainRun = true) :
    ∃ t, exec .acceptJump s = .next t ∧ t.time = { s.time with needInitial := true } :=
  ⟨_, mainRow_run hmain acceptJump, after_time ..⟩

theorem timeSnap_snaps (hmain : s.chip.mainRun = true) :
    ∃ t, exec .timeSnap s = .next t ∧
      t.time = { s.time with snap := timeWords s.now ++ [BitVec.ofNat 32 s.dt, BitVec.ofNat 32 (s.dt / 2 ^ 32)] } :=
  ⟨_, mainRow_run hmain timeSnap, after_time ..⟩

/-- A read that touches the output by its word alone. -/
theorem readRow_reads (hmain : s.chip.mainRun = true) {f : State → Word32 × State} (hout : (f s).2.out = s.out) :
    ∃ t, readRow s f = .next t ∧ .readData [(f s).1] ∈ t.out ∧ t.time = (f s).2.time :=
  ⟨_, readRow_run hmain f, (readRow_gives f hout).subset (by simp), after_time ..⟩

theorem dtLoRead_latches (hmain : s.chip.mainRun = true) :
    ∃ t, exec .dtLoRead s = .next t ∧ .readData [BitVec.ofNat 32 s.dt] ∈ t.out ∧
      t.time = { s.time with dtHi := BitVec.ofNat 32 (s.dt / 2 ^ 32) } := readRow_reads hmain (f := readDtLo) rfl

theorem rateLoRead_latches (hmain : s.chip.mainRun = true) :
    ∃ t, exec .rateLoRead s = .next t ∧ .readData [BitVec.ofNat 32 (unsign s.time.rate 40)] ∈ t.out ∧
      t.time = { s.time with rateHi := BitVec.ofNat 32 (unsign s.time.rate 40 / 2 ^ 32) } :=
  readRow_reads hmain (f := readRateLo) rfl

/-! ## The time PLL (R272, R425) -/

theorem timePllLock_locks (hpor : s.chip.por = false) :
    ∃ t, exec .timePllLock s = .next t ∧ t.time = { s.time with pllLocked := true } ∧ t.dt = s.dt :=
  ⟨_, congrArg Host.Outcome.next (if_neg (Bool.eq_false_iff.1 hpor)), rfl, rfl⟩

/-- A report of severity S3 that becomes a record brings the safe state. -/
theorem report_enters_safeState {code source d0 : Nat} (hr : Reportable s code source d0) (hsev : severityOf code = 3)
    (d1 : Nat) : (s.report code source d0 d1).faults.safeState = true := by
  rw [report_eq hr, if_pos hsev]
  exact enterSafeState_safeState ..

theorem timePllLossOfLock_reports (hlocked : s.time.pllLocked = true) (hr : Reportable s 0x0055 srcTime 0) :
    ∃ t, exec .timePllLossOfLock s = .next t ∧ t.time.pllLocked = false ∧ NewRecord s t 0x0055 srcTime 0 ∧
      t.faults.safeState = true := by
  let u : TimeUnit := { s.time with pllLocked := false }
  have hframe := setTime_only s u
  have hr1 := (hr.of_only hframe (by decide) (by decide) (by decide) (by decide)).1
  refine ⟨after s (State.report { s with time := u } 0x0055 srcTime), if_pos hlocked, ?_, ?_, ?_⟩
  · rw [after_time, report_time]
  · exact after_newRecord (report_record_of_only hr hframe (by decide) (by decide) (by decide) (by decide) 0) s
  · rw [after_safeState]
    exact report_enters_safeState hr1 rfl 0

end arrival

/-- Settles O55, row by row: a measurement that nothing holds (Table 10-1), one that waits, SERVO_FEED, the waiting change, the
lock states, the reads, the PLL. -/
theorem servoRowsComplete : Obligations.ServoRowsComplete := by
  unfold Obligations.ServoRowsComplete
  exact ⟨fun x s hmain htoken hheld => timeMeasurement_handled hmain htoken hheld x,
    fun x s hmain htoken => timeMeasurement_waits hmain htoken x,
    fun v s hmain => ⟨servoFeedWrite_measures hmain v, servoFeedWrite_ignored hmain v⟩,
    fun x s => heldChangeApply_applies, fun a s => heldChangeLimit_stops, fun a s => syncTimeout_holds_over,
    fun a s => holdoverExpire_expires, fun s => acceptJump_awaits,
    fun s hmain => ⟨timeSnap_snaps hmain, dtLoRead_latches hmain, rateLoRead_latches hmain⟩, fun s => timePllLock_locks,
    fun s hlocked hr _ => timePllLossOfLock_reports hlocked hr⟩

end Sys2Proof.Safety

/-! SUPPORT. PTP and the PPS pins (R281 to R285, R289, R290): the masters of the ports, the messages of an exchange and its
offset, silence, the edges of PPS_OUT and PPS_IN. -/

namespace Sys2Proof.Machine

/-! ## Sparse tables, searched by key -/

theorem tabGet_absent {α : Type} {t : Tab α} {k : Nat} (h : ∀ x ∈ t, x.1 ≠ k) (d : α) : tabGet t d k = d := by
  induction t with
  | nil => rfl
  | cons x r ih =>
    obtain ⟨hx, hr⟩ := List.forall_mem_cons.1 h
    rw [tabGet, if_neg (Ne.symm hx), ih hr, ite_self]

theorem find?_tabSet_same {α : Type} (t : Tab α) (k : Nat) (v : α) :
    (tabSet t k v).find? (fun x => x.1 == k) = some (k, v) := by
  induction t with
  | nil => exact List.find?_cons_of_pos (beq_self_eq_true k)
  | cons x r ih =>
    rw [tabSet]
    split
    · exact List.find?_cons_of_pos (beq_self_eq_true k)
    · split
      · exact List.find?_cons_of_pos (beq_self_eq_true k)
      next hne => rw [List.find?_cons_of_neg (by simpa using Ne.symm hne), ih]

/-! ## Masters (R281, R282) -/

/-- The port's best master is replaced. -/
def Ptp.withMaster (p : Ptp) (k : Nat) (m : Announce × Nat) : Ptp := { p with masters := tabSet p.masters k m }

@[simp] theorem Ptp.withMaster_master (p : Ptp) (k : Nat) (m : Announce × Nat) : (p.withMaster k m).master k = some m :=
  congrArg (Option.map Prod.snd) (find?_tabSet_same p.masters k m)

/-- A port whose latest best Announce is unknown takes any. -/
theorem Ptp.best_of_no_master {p : Ptp} {k : Nat} (h : p.master k = none) :
    tabGet (p.masters.map fun x => (x.1, some x.2)) none k = none := by
  refine tabGet_absent (fun y hy => ?_) none
  obtain ⟨x, hx, rfl⟩ := List.mem_map.1 hy
  have hnone := List.find?_eq_none.1 (Option.map_eq_none_iff.1 h) x hx
  simpa using hnone

section follow
variable (p : Ptp) (a : Announce)

@[simp] theorem Ptp.follow_gmId : (p.follow a).gmId = a.gmId := by unfold Ptp.follow; dsimp only; split <;> rfl
@[simp] theorem Ptp.follow_utcOffset : (p.follow a).utcOffset = a.utcOffset := by unfold Ptp.follow; dsimp only; split <;> rfl
@[simp] theorem Ptp.follow_port : (p.follow a).port = p.port := by unfold Ptp.follow; dsimp only; split <;> rfl
@[simp] theorem Ptp.follow_masters : (p.follow a).masters = p.masters := by unfold Ptp.follow; dsimp only; split <;> rfl

/-- A port that follows a master is at least UNCALIBRATED. -/
theorem Ptp.follow_portState : 8 ≤ (p.follow a).portState := by
  unfold Ptp.follow
  dsimp only
  split
  next hsame => exact of_decide_eq_true (Bool.and_eq_true_iff.1 hsame).2
  · exact le_refl 8

end follow

/-- PTP's part once a port's best master has announced itself: the active port follows it. -/
def Ptp.announced (p : Ptp) (k : Nat) (m : Announce × Nat) : Ptp :=
  if k = p.port then (p.withMaster k m).follow m.1 else p.withMaster k m

theorem Ptp.announced_master (p : Ptp) (k : Nat) (m : Announce × Nat) : (p.announced k m).master k = some m := by
  unfold Ptp.announced
  split
  · rw [Ptp.master, Ptp.follow_masters]
    exact p.withMaster_master k m
  · exact p.withMaster_master k m

/-- PTP's part without the master of the active port. -/
def Ptp.silent (p : Ptp) : Ptp := { p with
  masters := p.masters.filter fun x => x.1 != p.port, portState := 4, t1 := none, t2 := none, t3 := none
  awaitsFollowUp := false }

theorem Ptp.silent_master (p : Ptp) : p.silent.master p.port = none := by
  refine Option.map_eq_none_iff.2 (List.find?_eq_none.2 fun x hx => ?_)
  have hother := (List.mem_filter.1 hx).2
  simpa using hother

/-! ## An exchange (R283, R284) -/

/-- PTP's part after a Sync, or after the Follow_Up of one. -/
def Ptp.synced (p : Ptp) (followUp twoStep : Bool) (t1 t2 : Int) : Ptp :=
  if followUp then { p with t1 := some t1, awaitsFollowUp := false }
  else { p with t2 := some t2, t3 := none, awaitsFollowUp := twoStep, t1 := if twoStep then none else some t1 }

/-- PTP's part once an exchange with this path is complete. -/
def Ptp.exchanged (p : Ptp) (path : Int) : Ptp := { p with t3 := none, paths := (path :: p.paths).take 16 }

/-- The gate of R284: some of the latest paths is shorter by more than 1 µs. -/
def Ptp.gates (p : Ptp) (path : Int) : Bool := p.paths.any fun x => decide (x + 1000 * ntNs < path)

/-- The state once an exchange has passed the gate, before the servo has its offset. -/
def pathTaken (s : State) (path : Int) : State :=
  { s with time := { s.time with
    ptp := { s.time.ptp.exchanged path with portState := 9 }, servoPath := (openDiv path ntNs).toNat } }

section exchange
variable {s : State} {t1 t2 t3 t4 : Int}

theorem exchange_gated (hgate : s.time.ptp.gates (((t2 - t1) + (t4 - t3)) / 2) = true) : exchange s t1 t2 t3 t4 =
    s.setPtp { s.time.ptp.exchanged (((t2 - t1) + (t4 - t3)) / 2) with gated := satInc s.time.ptp.gated 0xFFFF } :=
  if_pos hgate

variable (hgate : s.time.ptp.gates (((t2 - t1) + (t4 - t3)) / 2) = false)
include hgate

theorem exchange_hostTime (hhost : s.img.hostTime = true) :
    exchange s t1 t2 t3 t4 = pathTaken s (((t2 - t1) + (t4 - t3)) / 2) :=
  (if_neg (Bool.eq_false_iff.1 hgate)).trans (if_pos hhost)

theorem exchange_measures (hptp : s.img.hostTime = false) : exchange s t1 t2 t3 t4 =
    measureTime (pathTaken s (((t2 - t1) + (t4 - t3)) / 2)) (((t2 - t1) - (t4 - t3)) / 2) :=
  (if_neg (Bool.eq_false_iff.1 hgate)).trans (if_neg (Bool.eq_false_iff.1 hptp))

end exchange

end Sys2Proof.Machine

namespace Sys2Proof.Safety

open Sys2Proof.Machine

theorem after_setPtp (s0 s : State) (p : Ptp) : (after s0 (s.setPtp p)).time.ptp = p := congrArg (·.ptp) (after_time ..)

/-! ## The servo leaves PTP's part alone -/

theorem takeMeasure_ptp (s : State) (at_ : Nat) (x : Int) : (takeMeasure s at_ x).time.ptp = s.time.ptp := by
  have hbeside := (handled_takeMeasure s s at_ x).besideServo
  rw [after_time] at hbeside
  exact congrArg (·.1) hbeside

theorem applyHeld_ptp (s : State) : (applyHeld s).time.ptp = s.time.ptp := by
  cases htoken : s.tokenOut with
  | true => rw [applyHeld_waits htoken]
  | false =>
    cases hheld : s.time.held with
    | none => rw [applyHeld, hheld]
    | some x => rw [applyHeld_takes hheld htoken, takeMeasure_ptp]

theorem measureTime_ptp (s : State) (x : Int) : (measureTime s x).time.ptp = s.time.ptp := by
  unfold measureTime
  dsimp only
  split
  · exact applyHeld_ptp s
  · rw [takeMeasure_ptp, applyHeld_ptp]

/-- PTP's part after an exchange that passed the gate, whatever the servo did with the offset. -/
theorem exchange_time_ptp {s : State} {t1 t2 t3 t4 : Int}
    (hgate : s.time.ptp.gates (((t2 - t1) + (t4 - t3)) / 2) = false) : (exchange s t1 t2 t3 t4).time.ptp =
      { s.time.ptp.exchanged (((t2 - t1) + (t4 - t3)) / 2) with portState := 9 } := by
  cases hsource : s.img.hostTime with
  | true => rw [exchange_hostTime hgate hsource, pathTaken]
  | false => rw [exchange_measures hgate hsource, measureTime_ptp, pathTaken]

/-! ## Announce (R275, R281, R282) -/

section announce
variable {s : State} (hruns : s.ptpRuns = true) {k : Nat} (hk : k < 2) {a : Announce}
include hruns hk

/-- A message of another domain or version is counted. -/
theorem ptpAnnounceReceive_discards (hform : a.domain ≠ s.img.domain ∨ a.version ≠ 2) :
    ∃ t, exec (.ptpAnnounceReceive k a) s = .next t ∧
      t.time = { s.time with ptp := { s.time.ptp with discarded := satInc s.time.ptp.discarded 0xFFFF } } := by
  have hexec : exec (.ptpAnnounceReceive k a) s = .next (after s (ptpDiscard s)) :=
    (if_neg (by simp [hruns, hk])).trans (if_pos (by simpa using hform))
  exact ⟨_, hexec, after_time ..⟩

variable (hdomain : a.domain = s.img.domain) (hversion : a.version = 2)
include hdomain hversion

/-- A port without a master takes the one that announces itself. -/
theorem ptpAnnounceReceive_takes (hnone : s.time.ptp.master k = none) :
    ∃ t, exec (.ptpAnnounceReceive k a) s = .next t ∧ t.time.ptp.master k = some (a, s.dt) ∧
      (k = s.time.ptp.port → t.time.ptp.gmId = a.gmId ∧ 8 ≤ t.time.ptp.portState ∧ t.time.ptp.utcOffset = a.utcOffset) := by
  have hexec : exec (.ptpAnnounceReceive k a) s = .next (after s (s.setPtp (s.time.ptp.announced k (a, s.dt)))) := by
    refine (if_neg (by simp [hruns, hk])).trans ((if_neg (by simp [hdomain, hversion])).trans ?_)
    dsimp only
    rw [Ptp.best_of_no_master hnone]
    rfl
  refine ⟨_, hexec, ?_, fun hport => ?_⟩ <;> rw [after_setPtp]
  · exact Ptp.announced_master ..
  · rw [Ptp.announced, if_pos hport]
    exact ⟨Ptp.follow_gmId .., Ptp.follow_portState .., Ptp.follow_utcOffset ..⟩

/-- A port keeps its master against another one that is not better. -/
theorem ptpAnnounceReceive_keeps {b : Announce} {u : Nat} (hmasters : s.time.ptp.masters = [(k, (b, u))])
    (hother : b.gmId ≠ a.gmId) (hworse : betterMaster a.dataset b.dataset = false) :
    exec (.ptpAnnounceReceive k a) s = .next s := by
  refine (if_neg (by simp [hruns, hk])).trans ((if_neg (by simp [hdomain, hversion])).trans (if_pos ?_))
  simp [hmasters, tabGet, hother, hworse]

end announce

/-! ## Sync and Follow_Up (R283, R284) -/

section sync
variable {s : State} (hruns : s.ptpRuns = true) {k : Nat} (hport : k = s.time.ptp.port)
  (hmaster : (s.time.ptp.master k).isSome = true)
include hruns hport hmaster

theorem exec_ptpSyncReceive {d : Nat} (hdomain : d = s.img.domain) {o : NetTime} (htime : timeOk o = true)
    {followUp : Bool} (hawaits : followUp = true → s.time.ptp.awaitsFollowUp = true) (twoStep : Bool) (c : Int) (tick : Nat) :
    exec (.ptpSyncReceive k followUp twoStep d o c tick) s =
      .next (after s (s.setPtp (s.time.ptp.synced followUp twoStep (o.units + c) (s.ingress k tick)))) := by
  have hknown : (k ≠ s.time.ptp.port || (s.time.ptp.master k).isNone) = false := by
    obtain ⟨m, hm⟩ := Option.isSome_iff_exists.1 hmaster
    simp [← hport, hm]
  change execPtpSyncReceive k followUp twoStep d o c tick s = _
  unfold execPtpSyncReceive
  dsimp only
  rw [if_neg (by simp [hruns]), if_neg (by simp [hdomain, htime]), if_neg (Bool.eq_false_iff.1 hknown)]
  cases followUp with
  | true =>
    rw [if_pos rfl, if_pos (hawaits rfl)]
    rfl
  | false => rfl

theorem ptpSyncReceive_stamps {d : Nat} (hdomain : d = s.img.domain) {o : NetTime} (htime : timeOk o = true) (c : Int)
    (tick : Nat) :
    (∃ t, exec (.ptpSyncReceive k false false d o c tick) s = .next t ∧ t.time.ptp.t1 = some (o.units + c) ∧
      t.time.ptp.t2 = some (s.ingress k tick) ∧ t.time.ptp.awaitsFollowUp = false) ∧
    (∃ t, exec (.ptpSyncReceive k false true d o c tick) s = .next t ∧ t.time.ptp.t1 = none ∧
      t.time.ptp.t2 = some (s.ingress k tick) ∧ t.time.ptp.awaitsFollowUp = true) ∧
    (s.time.ptp.awaitsFollowUp = true → ∃ t, exec (.ptpSyncReceive k true false d o c tick) s = .next t ∧
      t.time.ptp.t1 = some (o.units + c) ∧ t.time.ptp.t2 = s.time.ptp.t2 ∧ t.time.ptp.awaitsFollowUp = false) := by
  have hsync := exec_ptpSyncReceive hruns hport hmaster hdomain htime (followUp := false) (fun h => Bool.noConfusion h)
  refine ⟨⟨_, hsync false c tick, ?_⟩, ⟨_, hsync true c tick, ?_⟩, fun hawaits =>
    ⟨_, exec_ptpSyncReceive hruns hport hmaster hdomain htime (fun _ => hawaits) false c tick, ?_⟩⟩ <;>
  · rw [after_setPtp]
    exact ⟨rfl, rfl, rfl⟩

/-! ## Delay_Req (R281, R283) -/

theorem ptpDelayReqSend_asks (h1 : s.time.ptp.t1.isSome = true) (h2 : s.time.ptp.t2.isSome = true)
    (hdue : ∀ a, s.time.ptp.asked = some a → a + logTicks (max (-7) s.time.ptp.delayInterval) ≤ s.dt) (tick : Nat) :
    ∃ t, exec (.ptpDelayReqSend k tick) s = .next t ∧ t.time.ptp.t3 = some (s.egress tick) ∧ t.time.ptp.asked = some s.dt ∧
      .siteFrame k "DELAY_REQ" [s.img.domain] ∈ t.out := by
  let u := (s.setPtp { s.time.ptp with t3 := some (s.egress tick), asked := some s.dt }).emit
    (.siteFrame k "DELAY_REQ" [s.img.domain])
  have hexec : exec (.ptpDelayReqSend k tick) s = .next (after s u) := by
    obtain ⟨m, hm⟩ := Option.isSome_iff_exists.1 hmaster
    obtain ⟨t1, h1⟩ := Option.isSome_iff_exists.1 h1
    obtain ⟨t2, h2⟩ := Option.isSome_iff_exists.1 h2
    refine if_neg ?_
    cases hasked : s.time.ptp.asked with
    | none => simp [hruns, ← hport, hm, h1, h2]
    | some a => simp [hruns, ← hport, hm, h1, h2, hdue a hasked]
  refine ⟨_, hexec, ?_, ?_, mem_after_out (State.mem_emit_out ..) s⟩
  · rw [after_time]
    rfl
  · rw [after_time]
    rfl

end sync

/-! ## Delay_Resp (R284) -/

section answer
variable {s : State} (hruns : s.ptpRuns = true) {k d : Nat} (hport : k = s.time.ptp.port) (hdomain : d = s.img.domain)
  {o : NetTime} (htime : timeOk o = true) {t1 t2 t3 : Int} (h1 : s.time.ptp.t1 = some t1) (h2 : s.time.ptp.t2 = some t2)
  (h3 : s.time.ptp.t3 = some t3) (c l : Int)
include hruns hport hdomain htime h1 h2 h3

theorem exec_ptpDelayRespReceive : exec (.ptpDelayRespReceive k d o c l) s =
    .next (after s (exchange (s.setPtp { s.time.ptp with delayInterval := l }) t1 t2 t3 (o.units - c))) := by
  refine (if_neg (by simp [hruns])).trans ((if_neg (by simp [hdomain, htime])).trans ((if_neg (by simp [hport])).trans ?_))
  dsimp only
  rw [h1, h2, h3]
  rfl

/-- The exchange is complete: its path is one of the latest, and the gate decides whether the servo has its offset. -/
theorem ptpDelayRespReceive_completes :
    let path := ((t2 - t1) + (o.units - c - t3)) / 2
    let gated := s.time.ptp.paths.any fun x => decide (x + 1000 * ntNs < path)
    ∃ t, exec (.ptpDelayRespReceive k d o c l) s = .next t ∧ t.time.ptp.paths = (path :: s.time.ptp.paths).take 16 ∧
      t.time.ptp.t3 = none ∧ t.time.ptp.delayInterval = l ∧
      (gated = true → t.time.ptp.gated = satInc s.time.ptp.gated 0xFFFF ∧ t.now = s.now) ∧
      (gated = false → t.time.ptp.portState = 9 ∧ (s.img.hostTime = true → t.now = s.now) ∧
        (s.img.hostTime = false → s.tokenOut = false → s.time.held = none → s.time.needInitial = true →
          t.now = s.now - ((t2 - t1) - (o.units - c - t3)) / 2)) := by
  intro path gated
  let u := s.setPtp { s.time.ptp with delayInterval := l }
  have hexec := exec_ptpDelayRespReceive hruns hport hdomain htime h1 h2 h3 c l
  cases hgate : gated with
  | true =>
    have hu := exchange_gated (s := u) hgate
    refine ⟨_, hexec.trans (by rw [hu]), ?_⟩
    rw [after_setPtp, after_now]
    exact ⟨rfl, rfl, rfl, fun _ => ⟨rfl, rfl⟩, fun h => Bool.noConfusion h⟩
  | false =>
    have hu := exchange_time_ptp (s := u) hgate
    refine ⟨_, hexec, ?_⟩
    rw [after_time, hu, after_now]
    refine ⟨rfl, rfl, rfl, fun h => Bool.noConfusion h, fun _ => ⟨rfl, fun hhost => ?_, fun hptp htoken hheld hinit => ?_⟩⟩
    · rw [exchange_hostTime (s := u) hgate hhost]
      rfl
    · rw [exchange_measures (s := u) hgate hptp, measureTime_takes (s := pathTaken u path) htoken hheld]
      have ht := handled_takeMeasure s (pathTaken u path) s.dt (((t2 - t1) - (o.units - c - t3)) / 2)
      exact (after_now ..).symm.trans (ht.sets hinit).1

end answer

/-! ## A silent master (R281, R282) -/

section silent
variable {s : State} (hruns : s.ptpRuns = true) {a : Announce} {u : Nat}
  (hmaster : s.time.ptp.master s.time.ptp.port = some (a, u)) (hover : u + 3 * logTicks a.logAnnounce ≤ s.dt)
include hruns hmaster hover

theorem ptpAnnounceTimeout_listens (hmode : s.img.portMode ≠ 2) :
    ∃ t, exec .ptpAnnounceTimeout s = .next t ∧ t.time.ptp.portState = 4 ∧ t.time.ptp.port = s.time.ptp.port ∧
      t.time.ptp.master s.time.ptp.port = none ∧ t.time.ptp.t1 = none := by
  have hexec : exec .ptpAnnounceTimeout s = .next (after s (s.setPtp s.time.ptp.silent)) := by
    refine (if_neg (by simp [hruns, hmaster, hover])).trans ?_
    dsimp only
    rw [if_neg hmode]
    rfl
  refine ⟨_, hexec, ?_⟩
  rw [after_setPtp]
  exact ⟨rfl, rfl, s.time.ptp.silent_master, rfl⟩

theorem ptpAnnounceTimeout_moves {b : Announce} {v : Nat} (hmode : s.img.portMode = 2)
    (hother : s.time.ptp.master (1 - s.time.ptp.port) = some (b, v)) :
    ∃ t, exec .ptpAnnounceTimeout s = .next t ∧ t.time.ptp.port = 1 - s.time.ptp.port ∧ t.time.ptp.gmId = b.gmId ∧
      8 ≤ t.time.ptp.portState := by
  have hexec : exec .ptpAnnounceTimeout s =
      .next (after s (s.setPtp (Ptp.follow { s.time.ptp.silent with port := 1 - s.time.ptp.port } b))) := by
    refine (if_neg (by simp [hruns, hmaster, hover])).trans ?_
    dsimp only
    rw [if_pos hmode, hother]
    rfl
  refine ⟨_, hexec, ?_⟩
  rw [after_setPtp]
  exact ⟨Ptp.follow_port .., Ptp.follow_gmId .., Ptp.follow_portState ..⟩

end silent

/-! ## The PPS pins (R285, R289, R290) -/

section pps
variable {s : State}

theorem ppsOutEdge_rises (hmain : s.chip.mainRun = true) (hallowed : s.time.ppsAllowed = true)
    (hfirst : s.time.ntAt ((s.dt : Int) - 1) < s.time.ppsTime (s.time.ppsSecond s.now))
    (hfresh : ∀ m, s.time.ppsMarked = some m → m < s.time.ppsSecond s.now) :
    ∃ t, exec .ppsOutEdge s = .next t ∧ t.time = { s.time with
      ppsOut := true, ppsMarked := some (s.time.ppsSecond s.now)
      ppsFall := s.time.ppsTime (s.time.ppsSecond s.now) + s.time.ppsWidth * 1000000 * ntNs } := by
  refine ⟨after s { s with time := { s.time with
    ppsOut := true, ppsMarked := some (s.time.ppsSecond s.now)
    ppsFall := s.time.ppsTime (s.time.ppsSecond s.now) + s.time.ppsWidth * 1000000 * ntNs } }, if_neg ?_, after_time ..⟩
  cases hmarked : s.time.ppsMarked with
  | none => simp [hmain, hallowed, hfirst]
  | some m => simp [hmain, hallowed, hfirst, hfresh m hmarked]

theorem ppsOutFall_falls (hhigh : s.time.ppsOut = true) (hover : s.time.ppsFall ≤ s.now) :
    ∃ t, exec .ppsOutFall s = .next t ∧ t.time = { s.time with ppsOut := false } :=
  ⟨after s { s with time := { s.time with ppsOut := false } }, if_pos (by simp [hhigh, hover]), after_time ..⟩

variable (hmain : s.chip.mainRun = true)
include hmain

theorem ppsInEdge_stamps : ∃ t, exec .ppsInEdge s = .next t ∧
    t.time.ppsIn = s.time.ppsIn.complete [0, (timeWords s.now).getD 0 0, (timeWords s.now).getD 2 0,
      (timeWords s.now).getD 3 0, BitVec.ofNat 32 s.dt] ∧ t.now = s.now :=
  ⟨_, if_neg (by simp [hmain]), congrArg (·.ppsIn) (after_time ..), after_now ..⟩

theorem ppsInResultRead_reads : ∃ t, exec .ppsInResultRead s = .next t ∧ .readData [s.time.ppsIn.word] ∈ t.out ∧
    t.time = { s.time with ppsIn := s.time.ppsIn.read } := readRow_reads hmain (f := readPpsIn) rfl

end pps

/-- Settles O56, row by row: Announce, Sync and Follow_Up, Delay_Req, Delay_Resp, a silent master, PPS_OUT, PPS_IN. -/
theorem ptpAndPpsRowsComplete : Obligations.PtpAndPpsRowsComplete := by
  unfold Obligations.PtpAndPpsRowsComplete
  exact ⟨fun k a s hruns hk => ⟨ptpAnnounceReceive_discards hruns hk, ptpAnnounceReceive_takes hruns hk,
      fun b u hdomain hversion hmasters hother hworse =>
        ptpAnnounceReceive_keeps hruns hk hdomain hversion hmasters hother hworse⟩,
    fun k d tick o c s hruns hport hmaster hdomain htime => ptpSyncReceive_stamps hruns hport hmaster hdomain htime c tick,
    fun k tick s hruns hport hmaster h1 h2 hdue => ptpDelayReqSend_asks hruns hport hmaster h1 h2 hdue tick,
    fun k d o c l t1 t2 t3 s hruns hport hdomain htime h1 h2 h3 =>
      ptpDelayRespReceive_completes hruns hport hdomain htime h1 h2 h3 c l,
    fun a u s hruns hmaster hover => ⟨ptpAnnounceTimeout_listens hruns hmaster hover,
      fun b v => ptpAnnounceTimeout_moves hruns hmaster hover⟩,
    fun s => ppsOutEdge_rises, fun s => ppsOutFall_falls,
    fun s hmain => ⟨ppsInEdge_stamps hmain, ppsInResultRead_reads hmain⟩⟩

end Sys2Proof.Safety

/-! SUPPORT. A verb at the gate of R310: every verb is carried out by `verb`, so one that the gate
refuses leaves no more than its status. -/

namespace Sys2Proof.Safety

open Sys2Proof.Machine

/-! ## The gate (R310) -/

/-- Behind the gate each verb has a function of its own. -/
theorem exec_verb (s : State) {c : Instr} {h : Hdr} {op : Nat} (hverb : verbOf c = some (h, op)) :
    ∃ f, exec c s = verb s h op c f := by
  unfold verbOf at hverb
  split at hverb <;> cases hverb
  all_goals
    dsimp only [exec, execDalovoSend, execStageList, execParaDefine, execClassLoad, execSweepLoad, execSaveCalibration,
      execExportCalibration]
    exact ⟨_, rfl⟩

theorem exec_gate_refuses {s : State} {c : Instr} {h : Hdr} {op st : Nat} (hverb : verbOf c = some (h, op)) (hq : Quiet s)
    (hturn : s.turn h op = true) (hwait : s.verbsWait = false) (hstay : s.verbStays op = false)
    (hgate : s.gate h.src op c = some st) :
    ∃ t, exec c s = .next t ∧ VerbEnds s t h op st (noResult op) ∧ Only (.issues :: background) s t := by
  obtain ⟨f, hf⟩ := exec_verb s hverb
  have hfail : Only [.issues] s (s.fail h op st) := State.fail_only (.refl _ s) (List.Subset.refl _) h op st
  exact ⟨_, hf.trans (verb_fails hturn hwait hstay hgate f),
    verbEnds_after (.refl [] s) hq (by decide) (by decide) (by decide) (by decide) h op st (noResult op),
    after_frame hfail hq (by decide) (by decide) s⟩

section gate
variable {s : State} {src : Source} {op : Nat} {c : Instr}

theorem gate_not_permitted (hperm : s.permitted src op = false) : s.gate src op c = some 0x0E := by
  simp [State.gate, hperm, stBadOpcode]

theorem gate_not_ready (hperm : s.permitted src op = true) (hready : s.verbReady op = false) :
    s.gate src op c = some 0x0F := by
  simp [State.gate, hperm, hready, stNotReady]

theorem gate_bad_field (hperm : s.permitted src op = true) (hready : s.verbReady op = true) (hfields : fieldsOk c = false) :
    s.gate src op c = some 0x07 := by
  simp [State.gate, hperm, hready, hfields, stBadField]

end gate

/-- Settles O10: every verb is carried out by `verb`, which ends one that the gate refuses with the gate's status. -/
theorem verbEndsWithFirstFailingCheck : Obligations.VerbEndsWithFirstFailingCheck := by
  unfold Obligations.VerbEndsWithFirstFailingCheck
  exact fun c h op s hverb hq hturn hwait hstay =>
    ⟨fun hperm => exec_gate_refuses hverb hq hturn hwait hstay (gate_not_permitted hperm),
      fun hperm hready => exec_gate_refuses hverb hq hturn hwait hstay (gate_not_ready hperm hready),
      fun hperm hready hfields => exec_gate_refuses hverb hq hturn hwait hstay (gate_bad_field hperm hready hfields)⟩

end Sys2Proof.Safety

/-! SUPPORT. Submission queues (R300 to R303, R310): what the operations on a queue leave of each queue, and what an arriving
verb adds to the issue order. -/

namespace Sys2Proof.Safety

open Sys2Proof.Machine

/-! ## Queues under a frame -/

section frame
variable {P : List Part} {s t : State} (h : Only P s t)
include h

theorem Only.host_field {α : Type} (hp : .host ∉ P) (f : HostIf → α)
    (hf : ∀ u, f u = f { u with msixPending := [], issues := [], owed := [] }) : f t.host = f s.host := by
  rw [hf t.host, hf s.host, (h .host hp :)]

theorem Only.queue_eq (hp : .host ∉ P) (k : Nat) : t.queue k = s.queue k :=
  congrArg (fun qs : Tab Queue => tabGet qs {} k) (h.host_field hp (·.queues) fun _ => rfl)

end frame

/-- A change of queue `q` alone, seen after what follows the command. -/
theorem after_setQueue {s u : State} {q : Nat} {x : Queue} (hu : u = s.setQueue q x) (s0 : State) :
    (after s0 u).queue q = x ∧ ∀ k, k ≠ q → (after s0 u).queue k = s.queue k := by
  subst hu
  exact ⟨(after_queue s0 _ q).trans (s.setQueue_same q x), fun k hk => (after_queue s0 _ k).trans (s.setQueue_other q x hk)⟩

/-! ## Reads of SQ entries (R302) -/

@[simp] theorem State.emit_queue (s : State) (o : Output) (k : Nat) : (s.emit o).queue k = s.queue k := rfl

section fetch
variable {s : State} {q : Nat}

theorem fetchMore_reads (hrun : (s.queue q).state = .running) (hmaster : s.canMaster = true)
    (hidle : (s.queue q).reading = 0) (hn : 0 < s.fetchCount q) :
    fetchMore s q = (s.setQueue q { s.queue q with reading := s.fetchCount q }).emit
      (.hostRead ((s.queue q).sqBase + 64 * (s.queue q).sqHead) (64 * s.fetchCount q) false) :=
  if_pos (by simp [hrun, hmaster, hidle, hn])

theorem fetchMore_busy (hbusy : (s.queue q).reading ≠ 0) : fetchMore s q = s := if_neg (by simp [hbusy])

theorem fetchMore_sqHead (s : State) (q : Nat) : ((fetchMore s q).queue q).sqHead = (s.queue q).sqHead := by
  unfold fetchMore
  dsimp only
  split
  · rw [State.emit_queue, State.setQueue_same]
  · rfl

theorem fetchMore_other (s : State) {q k : Nat} (hk : k ≠ q) : (fetchMore s q).queue k = s.queue k := by
  unfold fetchMore
  dsimp only
  split
  · exact s.setQueue_other q _ hk
  · rfl

theorem fetchMore_issues (s : State) (q : Nat) : (fetchMore s q).host.issues = s.host.issues :=
  fetchMore_only (P := [.out, .host]) (.refl _ s) (List.Subset.refl _) q .issues (by decide)

end fetch

/-! ## Writes of indexes (R301) -/

section index
variable {s : State} {q v : Nat} (hrun : (s.queue q).state = .running)
include hrun

theorem sqTail_in_ring (hv : v < 2 ^ (s.queue q).size) :
    sqTail s q v = fetchMore (s.setQueue q { s.queue q with sqTail := v }) q := by
  simp [sqTail, hrun, Nat.not_le.2 hv]

theorem sqTail_outside (hv : 2 ^ (s.queue q).size ≤ v) : sqTail s q v = queueError s q 1 := by
  simp [sqTail, hrun, hv]

theorem cqHead_in_ring (hv : v < 2 ^ (s.queue q).size)
    (hposted : ringLen (2 ^ (s.queue q).size) (s.queue q).cqHead v ≤
      ringLen (2 ^ (s.queue q).size) (s.queue q).cqHead (s.queue q).cqTail) :
    cqHead s q v = fetchMore (s.setQueue q { s.queue q with cqHead := v }) q := by
  simp [cqHead, hrun, Nat.not_le.2 hv, Nat.not_lt.2 hposted]

theorem eqHead_in_ring (hv : v < 2 ^ (s.queue q).eqSize)
    (hposted : ringLen (2 ^ (s.queue q).eqSize) (s.queue q).eqHead v ≤
      ringLen (2 ^ (s.queue q).eqSize) (s.queue q).eqHead (s.queue q).eqTail) :
    eqHead s q v = flushHeld (s.setQueue q { s.queue q with eqHead := v }) q 200 := by
  simp [eqHead, hrun, Nat.not_le.2 hv, Nat.not_lt.2 hposted]

theorem eqHead_outside (hv : 2 ^ (s.queue q).eqSize ≤ v) : eqHead s q v = queueError s q 2 := by
  simp [eqHead, hrun, hv]

end index

theorem flushHeld_empty {s : State} {q : Nat} (hheld : (s.queue q).held = []) (hdropped : (s.queue q).droppedSince = 0)
    (n : Nat) : flushHeld s q n = s := by
  cases n with
  | zero => rfl
  | succ n => simp [flushHeld, hheld, hdropped]

/-! ## Verbs that arrive (R310) -/

theorem colour_host (s : State) (src : Source) (cls : Nat) : (s.colour src cls).2.host = s.host := rfl

theorem entryGate_colour (s : State) (src src' : Source) (cls : Nat) (e : Entry) :
    (s.colour src cls).2.entryGate src' e = s.entryGate src' e := rfl

/-- Where no meter turns it away, an arriving verb ends at once only by the checks of its entry. -/
theorem arrive_passes {s : State} {src : Source} {e : Entry} (hmain : s.chip.mainRun = true)
    (hcolour : (s.colour src ((verbClass (ebytes e 0 1)).getD 3)).1 ≠ 2) :
    (arrive s src e).host.issues = s.host.issues ++ [{
      src, tag := ebytes e 2 2, opcode := ebytes e 0 1, colour := (s.colour src ((verbClass (ebytes e 0 1)).getD 3)).1
      at_ := s.dt, done := (s.entryGate src e).map fun st => (st, noResult (ebytes e 0 1))
      limit := if ebytes e 0 1 = 0x02 then some (s.dt + ebytes e 12 2 * msTicks) else none }] := by
  simp only [arrive, hmain, if_true, Bool.not_true, Bool.false_eq_true, if_false, hcolour, entryGate_colour, colour_host]

/-- Whatever its checks say, an arriving verb is the last in the issue order. -/
theorem arrive_appends (s : State) (src : Source) (e : Entry) :
    ∃ i, (arrive s src e).host.issues = s.host.issues ++ [i] ∧
      (i.src, i.tag, i.opcode) = (src, ebytes e 2 2, ebytes e 0 1) := by
  cases hmain : s.chip.mainRun
  · exact ⟨_, by simp only [arrive, hmain]; rfl, rfl⟩
  · exact ⟨_, by simp only [arrive, hmain]; rfl, rfl⟩

theorem arrivals_append (src : Source) (es : List Entry) (s : State) :
    ∃ l, (es.foldl (fun (s : State) e => arrive s src e) s).host.issues = s.host.issues ++ l ∧
      l.map (fun i => (i.src, i.tag, i.opcode)) = es.map fun e => (src, ebytes e 2 2, ebytes e 0 1) := by
  induction es generalizing s with
  | nil => exact ⟨[], (List.append_nil _).symm, rfl⟩
  | cons e es ih =>
    obtain ⟨i, hi, hfields⟩ := arrive_appends s src e
    obtain ⟨l, hl, hmap⟩ := ih (arrive s src e)
    refine ⟨i :: l, ?_, congrArg₂ List.cons hfields hmap⟩
    rw [List.foldl_cons, hl, hi, List.append_assoc, List.singleton_append]

theorem arrivals_only (src : Source) (es : List Entry) (s : State) :
    Only [.issues, .adm] s (es.foldl (fun (s : State) e => arrive s src e) s) :=
  .foldl (.refl _ s) fun _ _ h => arrive_only h (List.Subset.refl _) _ _

/-! ## Rows of the queues -/

theorem verbArrival_admits {src : Source} {e : Entry} {s : State} (hq : Quiet s) (hpor : s.chip.por = false)
    (hmain : s.chip.mainRun = true) (hcolour : (s.colour src ((verbClass (ebytes e 0 1)).getD 3)).1 ≠ 2) :
    ∃ t i, exec (.verbArrival src e) s = .next t ∧ t.host.issues = s.host.issues ++ [i] ∧ i.src = src ∧
      i.tag = ebytes e 2 2 ∧ i.opcode = ebytes e 0 1 ∧ i.at_ = s.dt ∧
      i.colour = (s.colour src ((verbClass (ebytes e 0 1)).getD 3)).1 ∧
      (s.entryGate src e = none → i.done = none) ∧
      (∀ st, s.entryGate src e = some st → i.done = some (st, noResult (ebytes e 0 1))) := by
  obtain ⟨hh, hr⟩ := hq.of_only (arrive_only (P := [.issues, .adm]) (.refl _ s) (List.Subset.refl _) src e) (by decide)
    (by decide)
  exact ⟨after s (arrive s src e), _, if_neg (by simp [hpor]), (after_issues hh hr s).trans (arrive_passes hmain hcolour),
    rfl, rfl, rfl, rfl, rfl, fun hgate => by simp only [hgate, Option.map_none],
    fun st hgate => by simp only [hgate, Option.map_some]⟩

theorem sqTailWrite_reads {q v : Nat} {s : State} (hq : Quiet s) (hmain : s.chip.mainRun = true)
    (hrun : (s.queue q).state = .running) (hv : v < 2 ^ (s.queue q).size) (hidle : (s.queue q).reading = 0)
    (hmaster : s.canMaster = true) (hn : 0 < (s.setQueue q { s.queue q with sqTail := v }).fetchCount q) :
    ∃ t, exec (.sqTailWrite q v) s = .next t ∧
      t.queue q = { s.queue q with
        sqTail := v, reading := (s.setQueue q { s.queue q with sqTail := v }).fetchCount q } ∧
      (∀ k, k ≠ q → t.queue k = s.queue k) ∧
      Gives s t [.hostRead ((s.queue q).sqBase + 64 * (s.queue q).sqHead)
        (64 * (s.setQueue q { s.queue q with sqTail := v }).fetchCount q) false] := by
  obtain ⟨u, hu⟩ : ∃ u, u = s.setQueue q { s.queue q with sqTail := v } := ⟨_, rfl⟩
  have hset : u.queue q = { s.queue q with sqTail := v } := hu ▸ State.setQueue_same ..
  have hother : ∀ k, k ≠ q → u.queue k = s.queue k := fun k hk => hu ▸ State.setQueue_other _ _ _ hk
  have hreads : fetchMore u q = _ := fetchMore_reads (by rw [hset]; exact hrun) (by rw [hu]; exact hmaster)
    (by rw [hset]; exact hidle) (by rw [hu]; exact hn)
  have hquiet : Quiet (fetchMore u q) := Quiet.of_only (s := u) (by rw [hu]; exact hq)
    (fetchMore_only (P := [.out, .host]) (.refl _ u) (List.Subset.refl _) q) (by decide) (by decide)
  have hout : u.out = s.out := by rw [hu]; rfl
  refine ⟨_, (mainRow_run hmain (sqTail · q v)).trans (by rw [sqTail_in_ring hrun hv]), ?_⟩
  rw [← hu]
  rw [hreads] at hquiet ⊢
  refine ⟨?_, fun k hk => ?_, ?_⟩
  · rw [after_queue, State.emit_queue, State.setQueue_same, hset]
  · rw [after_queue, State.emit_queue, State.setQueue_other _ _ _ hk, hother k hk]
  · refine after_gives ?_ hquiet.1 hquiet.2 s
    rw [State.emit_out, State.setQueue_out, hout, hset]

section running
variable {q v : Nat} {s : State} (hmain : s.chip.mainRun = true) (hrun : (s.queue q).state = .running)
include hmain hrun

theorem sqTailWrite_stops (hv : 2 ^ (s.queue q).size ≤ v) :
    ∃ t, exec (.sqTailWrite q v) s = .next t ∧ t.queue q = (s.queue q).stop .error 1 :=
  ⟨_, mainRow_run hmain (sqTail · q v), (after_setQueue (sqTail_outside hrun hv) s).1⟩

theorem cqHeadWrite_moves (hv : v < 2 ^ (s.queue q).size)
    (hposted : ringLen (2 ^ (s.queue q).size) (s.queue q).cqHead v ≤
      ringLen (2 ^ (s.queue q).size) (s.queue q).cqHead (s.queue q).cqTail) (hbusy : (s.queue q).reading ≠ 0) :
    ∃ t, exec (.cqHeadWrite q v) s = .next t ∧ t.queue q = { s.queue q with cqHead := v } ∧
      ∀ k, k ≠ q → t.queue k = s.queue k := by
  have hmove : cqHead s q v = s.setQueue q { s.queue q with cqHead := v } :=
    (cqHead_in_ring hrun hv hposted).trans (fetchMore_busy (by rw [State.setQueue_same]; exact hbusy))
  exact ⟨_, mainRow_run hmain (cqHead · q v), after_setQueue hmove s⟩

theorem eqHeadWrite_moves (hv : v < 2 ^ (s.queue q).eqSize)
    (hposted : ringLen (2 ^ (s.queue q).eqSize) (s.queue q).eqHead v ≤
      ringLen (2 ^ (s.queue q).eqSize) (s.queue q).eqHead (s.queue q).eqTail) (hheld : (s.queue q).held = [])
    (hdropped : (s.queue q).droppedSince = 0) :
    ∃ t, exec (.eqHeadWrite q v) s = .next t ∧ t.queue q = { s.queue q with eqHead := v } ∧
      ∀ k, k ≠ q → t.queue k = s.queue k := by
  have hmove : eqHead s q v = s.setQueue q { s.queue q with eqHead := v } :=
    (eqHead_in_ring hrun hv hposted).trans (flushHeld_empty (by rw [State.setQueue_same]; exact hheld)
      (by rw [State.setQueue_same]; exact hdropped) 200)
  exact ⟨_, mainRow_run hmain (eqHead · q v), after_setQueue hmove s⟩

theorem eqHeadWrite_stops (hv : 2 ^ (s.queue q).eqSize ≤ v) :
    ∃ t, exec (.eqHeadWrite q v) s = .next t ∧ t.queue q = (s.queue q).stop .error 2 :=
  ⟨_, mainRow_run hmain (eqHead · q v), (after_setQueue (eqHead_outside hrun hv) s).1⟩

end running

theorem sqEntryFetch_admits {q : Nat} {es : List Entry} {s : State} (hq : Quiet s) (hrun : (s.queue q).state = .running)
    (hreading : 0 < (s.queue q).reading) (hlen : es.length = (s.queue q).reading) :
    ∃ t l, exec (.sqEntryFetch q es) s = .next t ∧ t.host.issues = s.host.issues ++ l ∧
      l.map (fun i => (i.src, i.tag, i.opcode)) = es.map (fun e => (.host q, ebytes e 2 2, ebytes e 0 1)) ∧
      (t.queue q).sqHead = ((s.queue q).sqHead + (s.queue q).reading) % 2 ^ (s.queue q).size ∧
      ∀ k, k ≠ q → t.queue k = s.queue k := by
  let s1 := s.setQueue q { s.queue q with
    sqHead := ((s.queue q).sqHead + (s.queue q).reading) % 2 ^ (s.queue q).size, reading := 0 }
  let s2 := es.foldl (fun (s : State) e => arrive s (.host q) e) s1
  obtain ⟨l, hl, hmap⟩ := arrivals_append (.host q) es s1
  have hframe : Only [.issues, .adm] s1 s2 := arrivals_only (.host q) es s1
  obtain ⟨hh, hr⟩ : Quiet (fetchMore s2 q) := Quiet.of_only (s := s1) hq
    (fetchMore_only (P := [.out, .host, .issues, .adm]) (hframe.mono (by decide)) (by decide) q) (by decide) (by decide)
  refine ⟨after s (fetchMore s2 q), l, if_neg ?_, ?_, hmap, ?_, fun k hk => ?_⟩
  · simp [hrun, hlen, hreading.ne']
  · rw [after_issues hh hr, fetchMore_issues]
    exact hl
  · rw [after_queue, fetchMore_sqHead, hframe.queue_eq (by decide), State.setQueue_same]
  · rw [after_queue, fetchMore_other s2 hk, hframe.queue_eq (by decide), State.setQueue_other _ _ _ hk]

theorem sqReadFail_stops {q : Nat} {s : State} (hrun : (s.queue q).state = .running) (hreading : 0 < (s.queue q).reading) :
    ∃ t, exec (.sqReadFail q) s = .next t ∧ t.queue q = (s.queue q).stop .error 3 ∧ ∀ k, k ≠ q → t.queue k = s.queue k :=
  ⟨after s (queueError s q 3), if_pos (by simp [hrun, hreading]), after_setQueue rfl s⟩

theorem cqEqWriteFail_stops {q : Nat} {s : State} (hposts : (s.queue q).posts = true) (event : Bool) :
    ∃ t, exec (.cqEqWriteFail q event) s = .next t ∧ (t.queue q).state = .error ∧
      (t.queue q).errCode = (if event then 5 else 4) ∧ (t.queue q).held = [] ∧
      (t.queue q).lost = satInc (satAdd (s.queue q).lost (s.queue q).held.length 0xFFFF) 0xFFFF ∧
      ∀ k, k ≠ q → t.queue k = s.queue k := by
  have hstop : (queueError s q (if event then 5 else 4)).queue q = (s.queue q).stop .error (if event then 5 else 4) :=
    s.setQueue_same q _
  obtain ⟨hself, hother⟩ := after_setQueue (s := queueError s q (if event then 5 else 4)) (q := q) rfl s
  refine ⟨_, if_pos hposts, ?_, ?_, ?_, ?_, fun k hk => (hother k hk).trans (s.setQueue_other q _ hk)⟩
  all_goals rw [hself, hstop]; rfl

/-- Settles O33, row by row: VERB_ARRIVAL, the indexes, SQ_ENTRY_FETCH, and the two failures of host memory (log
entry 110). -/
theorem queueRowsComplete : Obligations.QueueRowsComplete := by
  unfold Obligations.QueueRowsComplete
  exact ⟨fun src e s hq hpor hmain hcolour => verbArrival_admits hq hpor hmain hcolour,
    fun q v s hq hmain hrun hv hidle hmaster hn => sqTailWrite_reads hq hmain hrun hv hidle hmaster hn,
    fun q v s hmain hrun => ⟨sqTailWrite_stops hmain hrun, cqHeadWrite_moves hmain hrun, eqHeadWrite_moves hmain hrun,
      eqHeadWrite_stops hmain hrun⟩,
    fun q es s hq hrun hreading hlen => sqEntryFetch_admits hq hrun hreading hlen,
    fun q s => sqReadFail_stops,
    fun q event s hposts => cqEqWriteFail_stops hposts event⟩

end Sys2Proof.Safety

/-! SUPPORT. Enabling, draining and configuring a queue (R299, R300, R323): what each leaves of the queue and of its meters. -/

namespace Sys2Proof.Safety

open Sys2Proof.Machine

/-! ## Meters that start full (R323) -/

/-- A meter with both buckets full at time `t`. -/
def Meter.filled (m : Meter) (t : Nat) : Meter :=
  { m with tc := m.profile.cbs * tokenUnit, tp := m.profile.pbs * tokenUnit, last := t }

theorem setMeter_same (s : State) (src cls : Nat) (m : Meter) : (s.setMeter src cls m).meter src cls = m :=
  tabGet_tabSet_same ..

theorem setMeter_other_class (s : State) (src : Nat) {cls c : Nat} (m : Meter) (hc : c ≠ cls) :
    (s.setMeter src cls m).meter src c = s.meter src c := tabGet_tabSet_other _ _ _ (by omega)

/-- Filling some meters of a source fills these and no other of it. -/
theorem fill_meter (src : Nat) (l : List Nat) (s : State) (c : Nat) :
    (l.foldl (fun (s : State) k => s.setMeter src k (Meter.filled (s.meter src k) s.dt)) s).meter src c =
      if c ∈ l then Meter.filled (s.meter src c) s.dt else s.meter src c := by
  induction l generalizing s with
  | nil => rfl
  | cons a l ih =>
    rw [List.foldl_cons, ih]
    by_cases hc : c = a
    · subst hc
      simp only [setMeter_same, List.mem_cons_self, if_true]
      exact ite_self _
    · simp only [setMeter_other_class s src _ hc, List.mem_cons, hc, false_or]
      rfl

theorem fillMeters_meter (s : State) (src : Nat) {c : Nat} (hc : c < 4) :
    (fillMeters s src).meter src c = Meter.filled (s.meter src c) s.dt :=
  (fill_meter src (List.range 4) s c).trans (if_pos (List.mem_range.2 hc))

theorem fillMeters_queue (s : State) (src k : Nat) : (fillMeters s src).queue k = s.queue k :=
  (fillMeters_only (P := [.adm]) (.refl _ s) (List.Subset.refl _) src).queue_eq (by decide) k

/-! ## ENABLE (R300) -/

theorem queueOn_disabled {s : State} {q : Nat} (hoff : (s.queue q).enable = false) (hstate : (s.queue q).state = .disabled) :
    queueOn s q = startQueue s q := by
  simp [queueOn, hoff, hstate]

theorem queueEnable_starts {q : Nat} {s : State} (hmain : s.chip.mainRun = true) (hoff : (s.queue q).enable = false)
    (hstate : (s.queue q).state = .disabled) :
    ∃ t, exec (.queueEnable q) s = .next t ∧ (t.queue q).enable = true ∧ (t.queue q).state = .running ∧
      (t.queue q).sqHead = 0 ∧ (t.queue q).sqTail = 0 ∧ (t.queue q).cqTail = 0 ∧ (t.queue q).eqTail = 0 ∧
      (t.queue q).cqPhase = true ∧ (t.queue q).eqPhase = true ∧ (t.queue q).errCode = 0 ∧
      (∀ c, c < 4 → (t.meter q c).tc = (s.meter q c).profile.cbs * tokenUnit ∧
        (t.meter q c).tp = (s.meter q c).profile.pbs * tokenUnit) ∧
      ∀ k, k ≠ q → t.queue k = s.queue k := by
  have hmeter : ∀ c, c < 4 → (after s (startQueue s q)).meter q c = Meter.filled (s.meter q c) s.dt := fun c hc =>
    (congrArg (fun u : Admission => tabGet u.meters (fullMeter (defaultProfile q c) 0) (4 * q + c)) (after_adm s _)).trans
      (fillMeters_meter _ q hc)
  have hqueue : ∀ k, (after s (startQueue s q)).queue k = _ := fun k => (after_queue s _ k).trans (fillMeters_queue _ q k)
  refine ⟨_, (mainRow_run hmain (queueOn · q)).trans (by rw [queueOn_disabled hoff hstate]), ?_⟩
  rw [(hqueue q).trans (State.setQueue_same ..)]
  exact ⟨rfl, rfl, rfl, rfl, rfl, rfl, rfl, rfl, rfl, fun c hc => by rw [hmeter c hc]; exact ⟨rfl, rfl⟩,
    fun k hk => (hqueue k).trans (State.setQueue_other _ _ _ hk)⟩

/-- R300: a queue that runs, or stands in ERROR, drains; what is held for it stays. -/
theorem queueOff_drains {s : State} {q : Nat} (hstate : (s.queue q).state = .running ∨ (s.queue q).state = .error) :
    ∃ n, queueOff s q = s.setQueue q { s.queue q with enable := false, state := .draining, reading := n } := by
  obtain hrun | herr := hstate
  · exact ⟨0, by simp only [queueOff, hrun]⟩
  · exact ⟨(s.queue q).reading, by simp only [queueOff, herr]⟩

theorem queueDisable_drains {q : Nat} {s : State} (hmain : s.chip.mainRun = true)
    (hstate : (s.queue q).state = .running ∨ (s.queue q).state = .error) :
    ∃ t, exec (.queueDisable q) s = .next t ∧ (t.queue q).enable = false ∧ (t.queue q).state = .draining ∧
      (t.queue q).held = (s.queue q).held ∧ ∀ k, k ≠ q → t.queue k = s.queue k := by
  obtain ⟨n, hoff⟩ := queueOff_drains hstate
  obtain ⟨hself, hother⟩ := after_setQueue hoff s
  refine ⟨_, mainRow_run hmain (queueOff · q), ?_⟩
  rw [hself]
  exact ⟨rfl, rfl, rfl, hother⟩

theorem queueDrained_disables {q : Nat} {s : State} (hstate : (s.queue q).state = .draining) (hflight : s.inflight q = 0)
    (hoff : (s.queue q).enable = false) :
    ∃ t, exec (.queueDrained q) s = .next t ∧ t.queue q = (s.queue q).stop .disabled (s.queue q).errCode ∧
      ∀ k, k ≠ q → t.queue k = s.queue k := by
  refine ⟨_, (if_neg ?_).trans (if_neg ?_), after_setQueue rfl s⟩
  · simp [hstate, hflight]
  · simp [hoff]

/-! ## Configuration (R299) -/

theorem queueConfig_enabled {s : State} {q r : Nat} (hon : (s.queue q).enable = true) (hr : r ≤ 6) (v : Word32) :
    queueConfig s q r v = s.setQueue q { s.queue q with cfgErr := true } := by
  unfold queueConfig
  dsimp only
  split
  case h_4 => rw [if_neg (by omega), if_pos hon]
  all_goals omega

theorem queueConfig_sqBase_low {s : State} {q : Nat} (hoff : (s.queue q).enable = false) (v : Word32) :
    queueConfig s q 0 v = s.setQueue q { s.queue q with
      sqBase := (s.queue q).sqBase / 2 ^ 32 * 2 ^ 32 + v.toNat / 4096 * 4096 } := by
  simp [queueConfig, hoff, setHalf]

/-- Settles O34, row by row: ENABLE = 1, ENABLE = 0, the end of draining, a base while enabled and while not
(log entry 110). -/
theorem queueControlRowsComplete : Obligations.QueueControlRowsComplete := by
  unfold Obligations.QueueControlRowsComplete
  exact ⟨fun q s hmain => queueEnable_starts hmain,
    fun q s hmain => queueDisable_drains hmain,
    fun q s => queueDrained_disables,
    fun q r v s hmain hon hr => ⟨_, mainRow_run hmain (queueConfig · q r v), after_setQueue (queueConfig_enabled hon hr v) s⟩,
    fun q v s hmain hoff => ⟨_, mainRow_run hmain (queueConfig · q 0 v),
      (after_setQueue (queueConfig_sqBase_low hoff v) s).1⟩⟩

end Sys2Proof.Safety

/-! SUPPORT. The sideband and the PCIe function (R291, R293, R316, R317, R320, R469, R504): what a function reset leaves of the
host interface and of the DMA channels, and what D0 leaves of the power state. -/

namespace Sys2Proof.Safety

open Sys2Proof.Machine

/-! ## DMA channels that are dropped (R369) -/

theorem setChan_dropped {s u : State} (hmem : u.mem = s.mem) (c : Nat) {x : DmaChan} (hx : x.state = .dropped) (k : Nat) :
    ((u.setChan c x).chan k).state = if k = c then .dropped else (s.chan k).state := by
  split
  next hk => rw [hk, State.setChan_same, hx]
  next hk => rw [State.setChan_other _ _ _ hk, State.chan, hmem, State.chan]

theorem dropChan_state (s : State) (c k : Nat) :
    ((dropChan s c).chan k).state = if k = c then .dropped else (s.chan k).state := by
  have hmem : (if (s.chan c).state == .running then abortBurst s 16 c else s).mem = s.mem := by split <;> rfl
  unfold dropChan
  dsimp only
  split
  · exact List.foldlRecOn (motive := fun t : State => (t.chan k).state = if k = c then .dropped else (s.chan k).state) _ _
      (setChan_dropped hmem c rfl k) fun t ht a _ => ht
  · exact setChan_dropped hmem c rfl k

/-- Of the channels `cs` each ends dropped, whatever the others do. -/
theorem dropChans_state {c : Nat} (cs : List Nat) {s : State} (h : c ∈ cs ∨ (s.chan c).state = .dropped) :
    ((cs.foldl dropChan s).chan c).state = .dropped := by
  induction cs generalizing s with
  | nil => exact h.resolve_left List.not_mem_nil
  | cons k cs ih =>
    refine ih ?_
    rw [dropChan_state]
    split
    next => exact .inr rfl
    next hk => exact h.imp_left fun h => (List.mem_cons.1 h).resolve_left hk

theorem dropAll_state (s : State) {c : Nat} (hc : c < 16) : ((dropAll s).chan c).state = .dropped :=
  dropChans_state _ (.inl (List.mem_range.2 hc))

/-! ## A function reset (R320) -/

theorem Only.host_eq {P : List Part} {s t : State} (h : Only P s t) (hh : .host ∉ P) (hirq : .irq ∉ P) (hi : .issues ∉ P)
    (ho : .owed ∉ P) : t.host = s.host := by
  have hrest := h .host hh
  have hpending := h .irq hirq
  have hissues := h .issues hi
  have howed := h .owed ho
  simp only [Part.same] at hrest hpending hissues howed
  generalize t.host = a at *
  generalize s.host = b at *
  cases a
  cases b
  simp_all only [HostIf.mk.injEq]

theorem dropAll_host (s : State) : (dropAll s).host = s.host :=
  (dropAll_only (P := [.free, .mem, .matrix]) (.refl _ s) (List.Subset.refl _)).host_eq (by decide) (by decide) (by decide)
    (by decide)

theorem abortBurst_host (s : State) (m unit : Nat) : (abortBurst s m unit).host = s.host := rfl

theorem abortBurst_chan (s : State) (m unit c : Nat) : (abortBurst s m unit).chan c = s.chan c := rfl

/-- The queues at their reset values, one more reset counted; verbs in progress and events owed apart, nothing else. -/
theorem functionReset_host (s : State) : ∃ is os, (functionReset s).host = { s.host with
    queues := [], issues := is, owed := os, flrCount := satInc s.host.flrCount 0xFF } ∧ ∀ q e, (Source.host q, e) ∉ os := by
  unfold functionReset
  dsimp only
  refine ⟨_, _, (abortBurst_host ..).trans (dropAll_host _), fun q e h => ?_⟩
  simp at h

theorem functionReset_state (s : State) {c : Nat} (hc : c < 16) : ((functionReset s).chan c).state = .dropped := by
  unfold functionReset
  rw [abortBurst_chan, dropAll_state _ hc]

theorem functionReset_store (s : State) : (functionReset s).store = s.store :=
  functionReset_only (P := [.free, .host, .issues, .owed, .mem, .matrix]) (.refl _ s) (List.Subset.refl _) .store (by decide)

theorem pcieFunctionReset_resets {s : State} (hmain : s.chip.mainRun = true) :
    ∃ t, exec .pcieFunctionReset s = .next t ∧ t.host.queues = [] ∧ t.host.flrCount = satInc s.host.flrCount 0xFF ∧
      (∀ c, c < 16 → (t.chan c).state = .dropped) ∧ t.store = s.store := by
  obtain ⟨is, os, hhost, -⟩ := functionReset_host s
  refine ⟨_, if_pos hmain, ?_, ?_, fun c hc => ?_, ?_⟩
  · exact (after_host_field (·.queues) (fun _ => rfl) s _).trans (congrArg HostIf.queues hhost)
  · exact (after_host_field (·.flrCount) (fun _ => rfl) s _).trans (congrArg HostIf.flrCount hhost)
  · rw [after_chan, functionReset_state s hc]
  · rw [after_store, functionReset_store]

/-- PERST low: the link down and the function off (R504). -/
def heldInReset (s : State) : State := { s with host := { s.host with
  perst := true, speed := 0, width := 0, bme := false, msixEn := false, d3hot := false } }

theorem exec_pciePerst_low {s : State} (hhigh : s.host.perst = false) (hmain : s.chip.mainRun = true) :
    exec (.pciePerst true) s = .next (after s (functionReset (heldInReset s))) := by
  change execPciePerst true s = _
  rw [execPciePerst, if_pos rfl, if_neg (by simp [hhigh]), if_pos hmain]
  rfl

theorem pciePerst_holds {s : State} (hhigh : s.host.perst = false) (hmain : s.chip.mainRun = true) :
    ∃ t, exec (.pciePerst true) s = .next t ∧ t.host.perst = true ∧ t.host.bme = false ∧ t.host.queues = [] ∧
      t.host.speed = 0 ∧ (∀ q e, (Source.host q, e) ∉ t.host.owed) := by
  obtain ⟨is, os, hhost, howed⟩ := functionReset_host (heldInReset s)
  refine ⟨_, exec_pciePerst_low hhigh hmain, ?_, ?_, ?_, ?_, ?_⟩
  · exact (after_host_field (·.perst) (fun _ => rfl) s _).trans (congrArg HostIf.perst hhost)
  · exact (after_host_field (·.bme) (fun _ => rfl) s _).trans (congrArg HostIf.bme hhost)
  · exact (after_host_field (·.queues) (fun _ => rfl) s _).trans (congrArg HostIf.queues hhost)
  · exact (after_host_field (·.speed) (fun _ => rfl) s _).trans (congrArg HostIf.speed hhost)
  · rw [after_owed, hhost]
    exact howed

theorem pciePerst_trains {s : State} (hlow : s.host.perst = true) (hmain : s.chip.mainRun = true) :
    ∃ t, exec (.pciePerst false) s = .next t ∧ t.host = { s.host with perst := false }.trained ∧
      t.host.queues = s.host.queues := by
  change ∃ t, execPciePerst false s = _ ∧ _
  rw [execPciePerst, if_neg Bool.false_ne_true, if_pos (by simp [hlow, hmain])]
  exact ⟨_, rfl, rfl, rfl⟩

/-! ## Power states (R291) -/

theorem msix_d3hot (s : State) (v : Nat) : (s.msix v).host.d3hot = s.host.d3hot := by
  unfold State.msix
  repeat' split
  all_goals rfl

theorem writeEvent_d3hot (s : State) (q : Nat) (e : Event) : (writeEvent s q e).host.d3hot = s.host.d3hot := by
  unfold writeEvent
  dsimp only
  split
  · exact msix_d3hot _ _
  · rfl

theorem flushHeld_d3hot (n : Nat) (s : State) (q : Nat) : (flushHeld s q n).host.d3hot = s.host.d3hot := by
  induction n generalizing s with
  | zero => rfl
  | succ n ih =>
    unfold flushHeld
    dsimp only
    split
    · rfl
    · split
      · rw [ih, writeEvent_d3hot, State.setQueue_host_d3hot]
      · split
        · rw [writeEvent_d3hot, State.setQueue_host_d3hot]
        · rfl

theorem fetchMore_d3hot (s : State) (q : Nat) : (fetchMore s q).host.d3hot = s.host.d3hot := by
  unfold fetchMore
  dsimp only
  split
  · rfl
  · rfl

theorem exec_pciePowerStateChange (d : Bool) (s : State) :
    exec (.pciePowerStateChange d) s = .next (after s (if d then { s with host := { s.host with d3hot := d } } else
      (List.range 8).foldl (fun (s : State) q => fetchMore (flushHeld s q 200) q)
        { s with host := { s.host with d3hot := d } })) := by
  cases d <;> rfl

theorem pciePowerStateChange_sets (d : Bool) (s : State) :
    ∃ t, exec (.pciePowerStateChange d) s = .next t ∧ t.host.d3hot = d ∧ (d = true → t.host.queues = s.host.queues) := by
  refine ⟨_, exec_pciePowerStateChange d s, (after_host_field (·.d3hot) (fun _ => rfl) s _).trans ?_, fun hd =>
    (after_host_field (·.queues) (fun _ => rfl) s _).trans ?_⟩
  · split
    · rfl
    · exact List.foldlRecOn (motive := fun t : State => t.host.d3hot = d) _ _ rfl fun t ht q _ => by
        rw [fetchMore_d3hot, flushHeld_d3hot, ht]
  · rw [if_pos hd]

/-! ## The sideband (R316, R317, R469) -/

section sideband
variable {s : State} (hpor : s.chip.por = false)
include hpor

theorem sbVerbWrite_admits (e : Entry) (hopen : s.sbPending < 4) (hroom : s.sbPending + s.host.sbCompletions.length < 16)
    (hq : Quiet s) :
    ∃ t i, exec (.sbVerbWrite e 64 true) s = .next t ∧ t.host.issues = s.host.issues ++ [i] ∧ i.src = .sideband ∧
      i.tag = ebytes e 2 2 ∧ i.opcode = ebytes e 0 1 := by
  obtain ⟨i, hi, hfields⟩ := arrive_appends s .sideband e
  obtain ⟨hsrc, htag, hop⟩ : i.src = .sideband ∧ i.tag = ebytes e 2 2 ∧ i.opcode = ebytes e 0 1 := by
    simpa only [Prod.mk.injEq] using hfields
  obtain ⟨hh, hr⟩ := hq.of_only (arrive_only (P := [.issues, .adm]) (.refl _ s) (List.Subset.refl _) .sideband e)
    (by decide) (by decide)
  refine ⟨after s (arrive s .sideband e), i, (if_neg ?_).trans ((if_neg ?_).trans (if_neg ?_)),
    (after_issues hh hr s).trans hi, hsrc, htag, hop⟩
  · simp [hpor]
  · simp [Nat.not_le.2 hopen, Nat.not_le.2 hroom]
  · simp

theorem sbVerbWrite_nacks (hfull : 4 ≤ s.sbPending) (e : Entry) (n : Nat) (pec : Bool) :
    exec (.sbVerbWrite e n pec) s = .next (s.emit .smbusNack) :=
  (if_neg (by simp [hpor])).trans (if_pos (by simp [hfull]))

theorem sbCompletionRead_takes {c : Nat} {r : List Nat} (hfirst : s.host.sbCompletions = c :: r) :
    ∃ t, exec .sbCompletionRead s = .next t ∧ t.host.sbCompletions = r ∧ t.out = s.out ++ [.smbusData (byteList 16 c)] :=
  ⟨State.emit { s with host := { s.host with sbCompletions := r } } (.smbusData (byteList 16 c)),
    (if_neg (by simp [hpor])).trans (by rw [hfirst]), rfl, rfl⟩

theorem sbEventRead_takes {c : Nat} {r : List Nat} (hfirst : s.host.sbEvents = c :: r) (hnone : s.host.sbEventDropped = 0) :
    ∃ t, exec .sbEventRead s = .next t ∧ t.host.sbEvents = r ∧ t.out = s.out ++ [.smbusData (byteList 64 c)] :=
  ⟨State.emit { s with host := { s.host with sbEvents := r } } (.smbusData (byteList 64 c)),
    (if_neg (by simp [hpor])).trans (by rw [hfirst]; exact congrArg Host.Outcome.next (if_pos hnone)), rfl, rfl⟩

theorem sbWindowOffset_sets {v : Nat} (halign : v % 4 = 0) (hv : v < 2 ^ 16) :
    exec (.sbWindowOffset v true) s = .next { s with host := { s.host with sbOffset := v } } :=
  (if_neg (by simp [hpor])).trans ((if_neg (by simp [halign])).trans (by rw [Nat.mod_eq_of_lt hv]))

end sideband

/-- Settles O36, row by row: the sideband's writes and reads, the function's resets and power states, and the access that is
turned away (log entries 111, 112). -/
theorem sidebandAndFunctionRowsComplete : Obligations.SidebandAndFunctionRowsComplete := by
  unfold Obligations.SidebandAndFunctionRowsComplete
  exact ⟨fun e s hpor hopen hroom hq => sbVerbWrite_admits hpor e hopen hroom hq,
    fun e n pec s hpor hfull => sbVerbWrite_nacks hpor hfull e n pec,
    fun c r s hpor hfirst => sbCompletionRead_takes hpor hfirst,
    fun c r s hpor hfirst hnone => sbEventRead_takes hpor hfirst hnone,
    fun v s hpor halign hv => sbWindowOffset_sets hpor halign hv,
    fun s hmain => pcieFunctionReset_resets hmain,
    fun s _ hhigh hmain => pciePerst_holds hhigh hmain,
    fun s hlow hmain => pciePerst_trains hlow hmain,
    fun d s => pciePowerStateChange_sets d s,
    fun w o n s ho => if_neg (Nat.not_le.2 ho)⟩

end Sys2Proof.Safety

/-! SUPPORT. The bytes and poison markers of the banks under a write with enables (R346) and under the loss or clearing of a
bank (R348, R349). -/

namespace Sys2Proof.Machine

/-! ## Writes with enables -/

/-- The byte that a write of `bs` from address `a` on brings to address `x`; none where it enables none. -/
def broughtByte (bs : List (Option Byte)) (a x : Nat) : Option Byte := if a ≤ x then bs.getD (x - a) none else none

theorem broughtByte_add (bs : List (Option Byte)) (a i : Nat) : broughtByte bs a (a + i) = bs.getD i none := by
  simp only [broughtByte, Nat.le_add_right, if_true, Nat.add_sub_cancel_left]

theorem broughtByte_none {bs : List (Option Byte)} {a x : Nat} (h : ∀ i v, bs.getD i none = some v → x ≠ a + i) :
    broughtByte bs a x = none := by
  unfold broughtByte
  split
  · exact Option.eq_none_iff_forall_ne_some.2 fun v hv => h (x - a) v hv (by omega)
  · rfl

theorem Memory.get_congr {m n : Memory} (h : n.bytes = m.bytes) (x : Nat) : n.get x = m.get x := congrArg (byteGet · x) h

theorem marks_bytes (ws : List Nat) (m : Memory) : (ws.foldl (fun (m : Memory) w => m.mark w true) m).bytes = m.bytes := by
  induction ws generalizing m with
  | nil => rfl
  | cons w ws ih => exact ih _

/-- The first `n` bytes of a write. -/
def Memory.putFirst (m : Memory) (a : Nat) (bs : List (Option Byte)) (n : Nat) : Memory :=
  (List.range n).foldl (fun (m : Memory) i => match bs.getD i none with
    | some v => m.put (a + i) v
    | none => m) m

theorem Memory.putFirst_succ (m : Memory) (a : Nat) (bs : List (Option Byte)) (n : Nat) :
    m.putFirst a bs (n + 1) = match bs.getD n none with
      | some v => (m.putFirst a bs n).put (a + n) v
      | none => m.putFirst a bs n := by
  simp only [putFirst, List.range_succ, List.foldl_append, List.foldl_cons, List.foldl_nil]

theorem Memory.putFirst_spec {m : Memory} (hm : m.wf = true) (a : Nat) (bs : List (Option Byte)) (n : Nat) :
    (m.putFirst a bs n).wf = true ∧
      ∀ x, (m.putFirst a bs n).get x = if x < a + n then (broughtByte bs a x).getD (m.get x) else m.get x := by
  induction n with
  | zero =>
    refine ⟨hm, fun x => ?_⟩
    split
    · rw [broughtByte, if_neg (by omega)]
      rfl
    · rfl
  | succ n ih =>
    obtain ⟨hwf, hget⟩ := ih
    rw [putFirst_succ]
    cases hv : bs.getD n none with
    | none =>
      refine ⟨hwf, fun x => (hget x).trans ?_⟩
      by_cases hx : x = a + n
      · simp only [hx, broughtByte_add, hv, Option.getD_none, ite_self]
      · simp only [show x < a + (n + 1) ↔ x < a + n by omega]
    | some v =>
      refine ⟨put_wf _ _ hwf, fun x => ?_⟩
      by_cases hx : x = a + n
      · subst hx
        rw [put_get_same _ _ hwf, broughtByte_add, hv, if_pos (by omega), Option.getD_some]
      · rw [put_get_other _ hwf hx, hget]
        simp only [show x < a + (n + 1) ↔ x < a + n by omega]

theorem Memory.write_get {m : Memory} (hm : m.wf = true) (a : Nat) (bs : List (Option Byte)) (x : Nat) :
    (m.write a bs).get x = (broughtByte bs a x).getD (m.get x) := by
  refine (get_congr (m := m.putFirst a bs bs.length) (marks_bytes _ _) x).trans ?_
  rw [(putFirst_spec hm a bs bs.length).2]
  split
  · rfl
  · have hlen : bs.length ≤ x - a := by omega
    simp [broughtByte, List.getD_eq_getElem?_getD, List.getElem?_eq_none hlen]

/-! ## A bank that is wiped -/

theorem byteGet_absent {l : List (Nat × Byte)} {x : Nat} (h : ∀ y ∈ l, y.1 ≠ x) : byteGet l x = 0 := by
  induction l with
  | nil => rfl
  | cons y r ih =>
    obtain ⟨hy, hr⟩ := List.forall_mem_cons.1 h
    rw [byteGet, if_neg (Ne.symm hy), ih hr, ite_self]

/-- Of a rising list the bytes that a filter keeps read as before. -/
theorem byteGet_filter {l : List (Nat × Byte)} (hl : rising l = true) {p : Nat × Byte → Bool} {x : Nat}
    (hp : ∀ v, p (x, v) = true) : byteGet (l.filter p) x = byteGet l x := by
  induction l with
  | nil => rfl
  | cons y r ih =>
    obtain ⟨k, w⟩ := y
    have hr := ih (rising_cons.1 hl).2
    by_cases hk : x = k
    · subst hk
      simp only [List.filter_cons, hp, if_true, byteGet]
    · by_cases hlt : x < k
      · have habsent : ∀ y ∈ (k, w) :: r, y.1 ≠ x := List.forall_mem_cons.2
          ⟨Ne.symm hk, fun y hy => (Nat.lt_trans hlt (rising_above hl y hy)).ne'⟩
        rw [byteGet_absent habsent, byteGet_absent fun y hy => habsent y (List.mem_filter.1 hy).1]
      · rw [List.filter_cons]
        split
        · simp only [byteGet, if_neg hk, if_neg hlt, hr]
        · simp only [hr, byteGet, if_neg hk, if_neg hlt]

theorem tabSet_keys {α : Type} {t : Tab α} {k : Nat} {v : α} {x : Nat × α} (h : x ∈ tabSet t k v) : x ∈ t ∨ x = (k, v) := by
  induction t with
  | nil => exact .inr (List.mem_singleton.1 h)
  | cons y r ih =>
    obtain ⟨k', w⟩ := y
    unfold tabSet at h
    split at h
    · exact (List.mem_cons.1 h).symm
    · split at h
      · exact (List.mem_cons.1 h).elim .inr fun h => .inl (List.mem_cons_of_mem _ h)
      · rcases List.mem_cons.1 h with rfl | h
        · exact .inl List.mem_cons_self
        · exact (ih h).imp_left (List.mem_cons_of_mem _)

section wipe
variable {m : Memory} {b : Nat} (c : Bool)

theorem Memory.wipe_get_inside {x : Nat} (hx : x / bankSize = b) : (m.wipe b c).get x = 0 :=
  byteGet_absent fun _ hy e => bne_iff_ne.1 (List.mem_filter.1 hy).2 (e ▸ hx)

theorem Memory.wipe_get_outside (hm : m.wf = true) {x : Nat} (hx : x / bankSize ≠ b) : (m.wipe b c).get x = m.get x :=
  byteGet_filter ((wf_iff m).1 hm).1 fun _ => bne_iff_ne.2 hx

theorem Memory.wipe_wordClean (hb : b < 32) {w : Nat} (hw : w / 2 ^ 17 = b) : (m.wipe b c).wordClean w = c := by
  have hdefault : tabGet (m.wipe b c).clean false (2 ^ 22 + w / 2 ^ 17) = c := by
    rw [hw]
    exact tabGet_tabSet_same ..
  unfold wordClean
  rw [hdefault]
  refine tabGet_absent (fun x hx => ?_) c
  rcases tabSet_keys hx with hx | rfl
  · exact fun e => bne_iff_ne.1 (List.mem_filter.1 hx).2 (e ▸ hw)
  · simp only
    omega

end wipe

/-! ## Words and banks -/

theorem wordBytes_getD (d : BitVec 64) {i : Nat} (hi : i < 8) :
    (wordBytes d).getD i none = some (BitVec.ofNat 8 (d.toNat / 2 ^ (8 * i))) := by
  have hbyte : BitVec.ofNat 8 (d.toNat / 256 ^ i % 256) = BitVec.ofNat 8 (d.toNat / 2 ^ (8 * i)) :=
    BitVec.eq_of_toNat_eq (by simp [pow_mul])
  simp [wordBytes, byteList, leBytes, List.getD_eq_getElem?_getD, List.getElem?_range hi, hbyte]

theorem wordBytes_length (d : BitVec 64) : (wordBytes d).length = 8 := by
  simp [wordBytes, byteList, leBytes]

end Sys2Proof.Machine

/-! SUPPORT. BAR2, banks and DDR training (R292, R294, R344, R348 to R350, R353, R355): what each row leaves of bytes,
markers and banks. -/

namespace Sys2Proof.Safety

open Sys2Proof.Machine

/-! ## What reads and writes of words leave of bytes and banks -/

theorem recordOne_mem (s : State) (simul inj check : Bool) (r : Report) : (recordOne s simul inj check r).mem = s.mem :=
  recordOne_only (P := [.out, .faults, .irq, .loops, .elems, .runs, .calRuns, .links, .lsu, .house]) (.refl _ s)
    (List.Subset.refl _) simul inj check r .mem (by decide)

theorem recordOne_bank (s : State) (simul inj check : Bool) (r : Report) (k : Nat) :
    (recordOne s simul inj check r).bank k = s.bank k := by rw [State.bank, recordOne_mem, State.bank]

theorem readWord_clean {s : State} {w : Nat} (hgood : ∀ x ∈ s.mem.bad, x.1 ≠ w) : readWord s w = s := by
  have hfind : s.mem.bad.find? (fun x => x.1 == w) = none := List.find?_eq_none.2 fun x hx => by simp [hgood x hx]
  simp only [readWord, hfind]

theorem readWord_bytes (s : State) (w : Nat) : (readWord s w).mem.bytes = s.mem.bytes := by
  unfold readWord
  split
  · rfl
  · dsimp only
    split
    · rw [recordOne_mem]
      rfl
    · rfl

/-- A bank whose own counters of check bits change counts as many collisions as before. -/
theorem setBank_collides {s : State} {b : Nat} {x : BankState} (hx : x.collides = (s.bank b).collides) (k : Nat) :
    ((s.setBank b x).bank k).collides = (s.bank k).collides := by
  by_cases hk : k = b
  · rw [hk, State.setBank_same, hx]
  · rw [State.setBank_other _ _ _ hk]

theorem readWord_collides (s : State) (w k : Nat) : ((readWord s w).bank k).collides = (s.bank k).collides := by
  unfold readWord
  split
  · rfl
  · dsimp only
    split
    · rw [recordOne_bank]
      exact setBank_collides (s := s) (x := { s.bank (w / 2 ^ 17) with ue := satInc (s.bank (w / 2 ^ 17)).ue 0xFFFF }) rfl k
    · exact setBank_collides (s := s) (x := { s.bank (w / 2 ^ 17) with ce := satInc (s.bank (w / 2 ^ 17)).ce 0xFFFF }) rfl k

theorem readWords_keep (ws : List Nat) (s : State) : (ws.foldl readWord s).mem.bytes = s.mem.bytes ∧
    ∀ k, ((ws.foldl readWord s).bank k).collides = (s.bank k).collides := by
  induction ws generalizing s with
  | nil => exact ⟨rfl, fun _ => rfl⟩
  | cons w ws ih =>
    obtain ⟨hbytes, hcollides⟩ := ih (readWord s w)
    exact ⟨hbytes.trans (readWord_bytes s w), fun k => (hcollides k).trans (readWord_collides s w k)⟩

theorem wroteUnits_bytes (s : State) (us : List Nat) : (wroteUnits s us).mem.bytes = s.mem.bytes := by
  unfold wroteUnits
  dsimp only
  repeat' split
  all_goals rfl

theorem wroteUnits_bank (s : State) (us : List Nat) (k : Nat) : (wroteUnits s us).bank k = s.bank k := by
  unfold wroteUnits
  dsimp only
  repeat' split
  all_goals rfl

theorem write_banks (m : Memory) (a : Nat) (bs : List (Option Byte)) : (m.write a bs).banks = m.banks := by
  unfold Memory.write
  refine List.foldlRecOn (motive := fun n : Memory => n.banks = m.banks) _ _ ?_ fun n hn w _ => hn
  refine List.foldlRecOn (motive := fun n : Memory => n.banks = m.banks) _ _ rfl fun n hn i _ => ?_
  split <;> exact hn

theorem writeBanks_get {s : State} (hm : MemForm s) (a : Nat) (bs : List (Option Byte)) (x : Nat) :
    (writeBanks s a bs).mem.get x = (broughtByte bs a x).getD (s.mem.get x) := by
  unfold writeBanks
  dsimp only
  rw [Memory.get_congr (wroteUnits_bytes _ _)]
  refine (Memory.write_get (Memory.wf_congr hm (readWords_keep _ s).1) a bs x).trans ?_
  rw [Memory.get_congr (readWords_keep _ s).1]

theorem writeBanks_collides (s : State) (a : Nat) (bs : List (Option Byte)) (k : Nat) :
    ((writeBanks s a bs).bank k).collides = (s.bank k).collides := by
  unfold writeBanks
  dsimp only
  rw [wroteUnits_bank]
  simp only [State.bank, write_banks]
  exact (readWords_keep _ s).2 k

/-! ## BAR2 (R292, R294) -/

theorem bar2Access_outside {w : Bool} {a n : Nat} {d : List (Option Byte)} (s : State)
    (hout : banksSize < a + if w then d.length else n) : exec (.bar2Access w a n d) s = .fault (.noSuchAddress a) :=
  if_pos (by simp [hout])

/-- Where the aperture reaches every byte of a write, every enabled byte goes on to the banks. -/
theorem reached_bytes {s : State} {a : Nat} {data : List (Option Byte)}
    (hreach : ∀ i, i < data.length → (s.bank ((a + i) / bankSize)).hostReach = true) :
    (((List.range data.length).zip data).map fun x => if (s.bank ((a + x.1) / bankSize)).hostReach then x.2 else none) = data := by
  have hmap : ∀ x ∈ (List.range data.length).zip data,
      (if (s.bank ((a + x.1) / bankSize)).hostReach then x.2 else none) = x.2 := fun x hx =>
    if_pos (hreach x.1 (List.mem_range.1 (List.of_mem_zip hx).1))
  rw [List.map_congr_left hmap]
  exact List.map_snd_zip (by simp)

/-- A write passes on to the banks, whether or not the request was counted as denied. -/
theorem exec_bar2Access_write {s : State} {a : Nat} {data : List (Option Byte)} (hmain : s.chip.mainRun = true)
    (hdata : data ≠ []) (hend : a + data.length ≤ banksSize)
    (hreach : ∀ i, i < data.length → (s.bank ((a + i) / bankSize)).hostReach = true) :
    ∃ u : State, u.mem = s.mem ∧ exec (.bar2Access true a 0 data) s = .next (after s (writeBanks u a data)) := by
  change ∃ u : State, _ ∧ execBar2Access true a 0 data s = _
  unfold execBar2Access
  simp only [if_true]
  rw [if_neg (by simp [hdata, Nat.not_lt.2 hend]), if_neg (by simp [hmain]), reached_bytes hreach]
  refine ⟨_, ?_, rfl⟩
  split
  · rfl
  · rfl

theorem bar2Access_writes {s : State} {a : Nat} {data : List (Option Byte)} (hm : MemForm s) (hmain : s.chip.mainRun = true)
    (hdata : data ≠ []) (hend : a + data.length ≤ banksSize)
    (hreach : ∀ i, i < data.length → (s.bank ((a + i) / bankSize)).hostReach = true) :
    ∃ t, exec (.bar2Access true a 0 data) s = .next t ∧
      (∀ i b, data.getD i none = some b → t.mem.get (a + i) = b) ∧
      SameBytesBut (fun x => ∃ i b, data.getD i none = some b ∧ x = a + i) s t := by
  obtain ⟨u, hu, hexec⟩ := exec_bar2Access_write hmain hdata hend hreach
  have hget : ∀ x, (after s (writeBanks u a data)).mem.get x = (broughtByte data a x).getD (s.mem.get x) := fun x => by
    rw [after_mem, writeBanks_get (s := u) (by rw [MemForm, hu]; exact hm), hu]
  refine ⟨_, hexec, fun i b hb => ?_, fun x hx => ?_⟩
  · rw [hget, broughtByte_add, hb, Option.getD_some]
  · rw [hget, broughtByte_none fun i v hv he => hx ⟨i, v, hv, he⟩, Option.getD_none]

/-- What a read of the DWORD at `a` leaves: a bank that the aperture does not reach has denied it, in any other the word
that holds it has been read. -/
def dwordRead (s : State) (a : Nat) : State :=
  let u := if (s.bank (a / bankSize)).hostReach then readWord s (a / 8) else denied s
  u.emit (if (u.bar2Word a).isNone then .poisonedCompletion else .readData ([u.bar2Word a].filterMap id))

theorem exec_bar2Access_dword {s : State} {a : Nat} (hmain : s.chip.mainRun = true) (halign : a % 4 = 0)
    (hend : a + 4 ≤ banksSize) : exec (.bar2Access false a 4 []) s = .next (after s (dwordRead s a)) := by
  have hfirst : a / 4 * 4 = a := by omega
  have hcount : (a + 4 - a + 3) / 4 = 1 := by omega
  change execBar2Access false a 4 [] s = _
  unfold execBar2Access dwordRead
  simp only [Bool.false_eq_true, if_false, hfirst, hcount, List.range_one, List.map_cons, List.map_nil, Nat.mul_zero,
    Nat.add_zero]
  rw [if_neg (by simp [Nat.not_lt.2 hend]), if_neg (by simp [hmain])]
  cases hreach : (s.bank (a / bankSize)).hostReach <;> simp [hreach, ok_next]

section dword
variable {s : State} {a : Nat}

theorem bar2Word_reached (hreach : (s.bank (a / bankSize)).hostReach = true) (hclean : s.mem.wordClean (a / 8) = true) :
    s.bar2Word a = some (BitVec.ofNat 32 (bytesNat ((List.range 4).map fun i => (s.mem.get (a + i)).toNat))) := by
  simp [State.bar2Word, hreach, hclean]

theorem bar2Word_poisoned (hreach : (s.bank (a / bankSize)).hostReach = true) (hpoison : s.mem.wordClean (a / 8) = false) :
    s.bar2Word a = none := by
  simp [State.bar2Word, hreach, hpoison]

theorem dwordRead_reached (hreach : (s.bank (a / bankSize)).hostReach = true) (hgood : ∀ x ∈ s.mem.bad, x.1 ≠ a / 8) :
    dwordRead s a =
      s.emit (if (s.bar2Word a).isNone then .poisonedCompletion else .readData ([s.bar2Word a].filterMap id)) := by
  simp only [dwordRead, hreach, if_true, readWord_clean hgood]

theorem denied_out (s : State) : (denied s).out = s.out := rfl

theorem dwordRead_denied (hreach : (s.bank (a / bankSize)).hostReach = false) :
    dwordRead s a = (denied s).emit (.readData [0xFFFFFFFF]) := by
  have hword : s.bar2Word a = some 0xFFFFFFFF := if_pos (by simp [hreach])
  have hdenied : (denied s).bar2Word a = some 0xFFFFFFFF := hword
  simp only [dwordRead, hreach, Bool.false_eq_true, if_false, hdenied]
  rfl

end dword

section read
variable {s : State} {a : Nat} (hq : Quiet s) (hmain : s.chip.mainRun = true) (halign : a % 4 = 0) (hend : a + 4 ≤ banksSize)
include hq hmain halign hend

theorem bar2Access_reads (hreach : (s.bank (a / bankSize)).hostReach = true) (hgood : ∀ x ∈ s.mem.bad, x.1 ≠ a / 8) :
    ∃ t, exec (.bar2Access false a 4 []) s = .next t ∧ t.mem = s.mem ∧
      (s.mem.wordClean (a / 8) = true → Gives s t [.readData [BitVec.ofNat 32
        (bytesNat ((List.range 4).map fun i => (s.mem.get (a + i)).toNat))]]) ∧
      (s.mem.wordClean (a / 8) = false → Gives s t [.poisonedCompletion]) := by
  refine ⟨_, exec_bar2Access_dword hmain halign hend, ?_, fun hclean => ?_, fun hpoison => ?_⟩
  · rw [after_mem, dwordRead_reached hreach hgood, State.emit_mem]
  · rw [dwordRead_reached hreach hgood, bar2Word_reached hreach hclean]
    exact after_gives (State.emit_out ..) hq.1 hq.2 s
  · rw [dwordRead_reached hreach hgood, bar2Word_poisoned hreach hpoison]
    exact after_gives (State.emit_out ..) hq.1 hq.2 s

theorem bar2Access_denies (hreach : (s.bank (a / bankSize)).hostReach = false) :
    ∃ t, exec (.bar2Access false a 4 []) s = .next t ∧ Gives s t [.readData [0xFFFFFFFF]] ∧
      t.host.apertureDenied = satInc s.host.apertureDenied 0xFFFF := by
  refine ⟨_, exec_bar2Access_dword hmain halign hend, ?_, ?_⟩
  · rw [dwordRead_denied hreach]
    obtain ⟨hh, hr⟩ : Quiet ((denied s).emit (.readData [0xFFFFFFFF])) := hq
    exact after_gives ((State.emit_out ..).trans (by rw [denied_out])) hh hr s
  · rw [dwordRead_denied hreach, after_host_field (·.apertureDenied) fun _ => rfl]
    rfl

end read

/-! ## Two writes of one word (R344) -/

theorem bankAccessCollide_stores {b w : Nat} {s : State} (hm : MemForm s) (hb : b < 32) (hw : w < 131072)
    (hawake : (s.bank b).awake = true) (x y : BitVec 64) :
    ∃ t, exec (.bankAccessCollide b w x y) s = .next t ∧
      (t.bank b).collides = satInc (s.bank b).collides 0xFFFF ∧
      (∀ i, i < 8 → t.mem.get (b * bankSize + 8 * w + i) = BitVec.ofNat 8 (x.toNat / 2 ^ (8 * i))) ∧
      SameBytesBut (fun k => b * bankSize + 8 * w ≤ k ∧ k < b * bankSize + 8 * w + 8) s t := by
  obtain ⟨u, hu⟩ : ∃ u, u = s.setBank b { s.bank b with collides := satInc (s.bank b).collides 0xFFFF } := ⟨_, rfl⟩
  have hexec : exec (.bankAccessCollide b w x y) s =
      .next (after s (writeBanks u (b * bankSize + 8 * w) (wordBytes x))) := by
    rw [hu]
    exact if_neg (by simp [hb, hw, hawake])
  have hget : ∀ k, (after s (writeBanks u (b * bankSize + 8 * w) (wordBytes x))).mem.get k =
      (broughtByte (wordBytes x) (b * bankSize + 8 * w) k).getD (s.mem.get k) := fun k => by
    rw [after_mem, writeBanks_get (s := u) (by rw [hu]; exact Memory.wf_congr hm rfl), hu]
    rfl
  refine ⟨_, hexec, ?_, fun i hi => ?_, fun k hk => ?_⟩
  · rw [after_bank, writeBanks_collides, hu, State.setBank_same]
  · rw [hget, broughtByte_add, wordBytes_getD x hi, Option.getD_some]
  · rw [hget, broughtByte_none fun i v hv he => hk ?_, Option.getD_none]
    have hi : i < (wordBytes x).length := by
      by_contra hi
      simp [List.getD_eq_getElem?_getD, List.getElem?_eq_none (Nat.not_lt.1 hi)] at hv
    rw [wordBytes_length] at hi
    omega

/-! ## Owner, power and initialisation (R348 to R350, R353) -/

/-- A change of bank `b` alone, seen after what follows the command. -/
theorem after_setBank {s u : State} {b : Nat} {x : BankState} (hu : u = s.setBank b x) (s0 : State) :
    (after s0 u).bank b = x ∧ (after s0 u).mem.bytes = s.mem.bytes ∧ ∀ k, k ≠ b → (after s0 u).bank k = s.bank k := by
  subst hu
  exact ⟨(after_bank s0 _ b).trans (s.setBank_same b x), by rw [after_mem, State.setBank_mem_bytes],
    fun k hk => (after_bank s0 _ k).trans (s.setBank_other b x hk)⟩

section soft
variable {b : Nat} {s : State} (hmain : s.chip.mainRun = true) (hb : b < 32) (hsoft : (s.bank b).soft = true)
include hmain hb hsoft

theorem bankOwnerWrite_accepts {v : Word32} (hv : bits v.toNat 0 3 ≤ ownDma) (hfree : (s.bank b).pendingOwner = none) :
    ∃ t, exec (.bankOwnerWrite b v) s = .next t ∧ t.bank b = { s.bank b with pendingOwner := some (bits v.toNat 0 3) } ∧
      t.mem.bytes = s.mem.bytes ∧ ∀ k, k ≠ b → t.bank k = s.bank k :=
  ⟨_, mainRow_run hmain _, after_setBank ((if_pos hb).trans (if_pos (by simp [hsoft, hv, hfree]))) s⟩

theorem bankInit_begins (hawake : (s.bank b).awake = true) :
    ∃ t, exec (.bankInit b) s = .next t ∧ t.bank b = { s.bank b with initEnd := some (s.dt + 204800) } ∧
      ∀ k, k ≠ b → t.bank k = s.bank k := by
  obtain ⟨hself, -, hother⟩ := after_setBank
    ((if_pos hb).trans ((if_neg (by simp [hsoft])).trans (if_pos hawake)) : (if b < 32 then bankInit s b else s) = _) s
  exact ⟨_, mainRow_run hmain _, hself, hother⟩

end soft

theorem bankOwnerChanged_passes {b o : Nat} {s : State} (hpending : (s.bank b).pendingOwner = some o) :
    ∃ t, exec (.bankOwnerChanged b) s = .next t ∧ t.bank b = { s.bank b with owner := o, pendingOwner := none } ∧
      t.mem.bytes = s.mem.bytes ∧ ∀ k, k ≠ b → t.bank k = s.bank k := by
  change ∃ t, execBankOwnerChanged b s = _ ∧ _
  rw [execBankOwnerChanged, hpending]
  exact ⟨_, rfl, after_setBank rfl s⟩

/-- A write of BANK_CFG that asks for another power state and for no initialisation. -/
theorem bankCfg_power {s : State} {b : Nat} {v : Word32} (hsoft : (s.bank b).soft = true) (hcode : bits v.toNat 0 2 < 3)
    (hinit : bit v.toNat 3 = false) (hwant : powerOf (bits v.toNat 0 2) ≠ (s.bank b).pendingPower.getD (s.bank b).power) :
    bankCfg s b v = (s.setBank b { s.bank b with rotate := bit v.toNat 2 }).setBank b
      { s.bank b with rotate := bit v.toNat 2, pendingPower := some (powerOf (bits v.toNat 0 2)) } := by
  have hsoft' : ({ s.bank b with rotate := bit v.toNat 2 } : BankState).soft = true := hsoft
  simp only [bankCfg, State.setBank_same]
  rw [if_neg (by simp [hinit]), if_neg hcode.ne, if_neg (by simpa using hwant), if_neg (by simp [hsoft'])]

theorem bankPowerWrite_accepts {b : Nat} {v : Word32} {s : State} (hmain : s.chip.mainRun = true) (hb : b < 32)
    (hsoft : (s.bank b).soft = true) (hcode : bits v.toNat 0 2 < 3) (hinit : bit v.toNat 3 = false)
    (hwant : powerOf (bits v.toNat 0 2) ≠ (s.bank b).pendingPower.getD (s.bank b).power) :
    ∃ t, exec (.bankPowerWrite b v) s = .next t ∧
      t.bank b = { s.bank b with rotate := bit v.toNat 2, pendingPower := some (powerOf (bits v.toNat 0 2)) } ∧
      t.mem.bytes = s.mem.bytes ∧ ∀ k, k ≠ b → t.bank k = s.bank k := by
  obtain ⟨hself, hbytes, hother⟩ := after_setBank ((if_pos hb).trans (bankCfg_power hsoft hcode hinit hwant) :
    (if b < 32 then bankCfg s b v else s) = _) s
  exact ⟨_, mainRow_run hmain _, hself, hbytes, fun k hk => (hother k hk).trans (s.setBank_other b _ hk)⟩

/-- What a wiped bank leaves: its own bytes are 0, its words marked, every other byte as it was. -/
theorem wiped_bank {s u : State} {b : Nat} {c : Bool} (hm : MemForm s) (hb : b < 32) (hbytes : u.mem.bytes = s.mem.bytes) :
    (∀ w, w / 2 ^ 17 = b → (u.mem.wipe b c).wordClean w = c) ∧ (∀ x, x / bankSize = b → (u.mem.wipe b c).get x = 0) ∧
      ∀ x, ¬ x / bankSize = b → (u.mem.wipe b c).get x = s.mem.get x :=
  ⟨fun _ hw => Memory.wipe_wordClean c hb hw, fun _ hx => Memory.wipe_get_inside c hx,
    fun x hx => (Memory.wipe_get_outside c (Memory.wf_congr hm hbytes) hx).trans (Memory.get_congr hbytes x)⟩

theorem bankPowerReached_enters {b : Nat} {p : Power} {s : State} (hm : MemForm s) (hb : b < 32)
    (hpending : (s.bank b).pendingPower = some p) :
    ∃ t, exec (.bankPowerReached b) s = .next t ∧ t.bank b = { s.bank b with power := p, pendingPower := none } ∧
      (p ≠ .off → t.mem.bytes = s.mem.bytes ∧ t.mem.clean = s.mem.clean) ∧
      (p = .off → (∀ w, w / 2 ^ 17 = b → t.mem.wordClean w = false) ∧ (∀ x, x / bankSize = b → t.mem.get x = 0) ∧
        SameBytesBut (fun x => x / bankSize = b) s t) := by
  obtain ⟨u, hu⟩ : ∃ u, u = s.setBank b { s.bank b with power := p, pendingPower := none } := ⟨_, rfl⟩
  have hexec : exec (.bankPowerReached b) s =
      .next (after s (if p == .off then { u with mem := u.mem.wipe b false } else u)) := by
    change execBankPowerReached b s = _
    rw [execBankPowerReached]
    dsimp only
    rw [hpending, hu]
    rfl
  have hbank : u.bank b = { s.bank b with power := p, pendingPower := none } := by rw [hu, State.setBank_same]
  refine ⟨_, hexec, ?_, fun hp => ?_, fun hp => ?_⟩
  · rw [after_bank, ← hbank]
    split
    · rfl
    · rfl
  · rw [after_mem, if_neg (by simpa using hp), hu]
    exact ⟨rfl, rfl⟩
  · unfold SameBytesBut
    rw [after_mem, if_pos (by simp [hp])]
    exact wiped_bank hm hb (by rw [hu, State.setBank_mem_bytes])

theorem bankInitDone_clears {b e : Nat} {s : State} (hm : MemForm s) (hb : b < 32) (hinit : (s.bank b).initEnd = some e)
    (hover : e ≤ s.dt) :
    ∃ t, exec (.bankInitDone b) s = .next t ∧ t.bank b = { s.bank b with initEnd := none } ∧
      (∀ w, w / 2 ^ 17 = b → t.mem.wordClean w = true) ∧ (∀ x, x / bankSize = b → t.mem.get x = 0) ∧
      SameBytesBut (fun x => x / bankSize = b) s t := by
  obtain ⟨u, hu⟩ : ∃ u, u = s.setBank b { s.bank b with initEnd := none } := ⟨_, rfl⟩
  have hexec : exec (.bankInitDone b) s = .next (after s { u with mem := u.mem.wipe b true }) := by
    change execBankInitDone b s = _
    rw [execBankInitDone, hinit]
    dsimp only
    rw [if_pos hover, hu]
    rfl
  have hbank : u.bank b = { s.bank b with initEnd := none } := by rw [hu, State.setBank_same]
  refine ⟨_, hexec, (after_bank ..).trans hbank, ?_⟩
  unfold SameBytesBut
  rw [after_mem]
  exact wiped_bank hm hb (by rw [hu, State.setBank_mem_bytes])

/-! ## DDR training (R355) -/

section ddr
variable {s : State} (hmain : s.chip.mainRun = true) (himage : s.chip.imageApplied = true) (hidle : s.ddrReady = false)
include hmain himage hidle

theorem ddrTrainingDone_trains : ∃ t, exec (.ddrTrainingDone true true) s = .next t ∧ t.mem.ddr0.trained = true ∧
    t.mem.ddr1.trained = true ∧ t.mem.ddr0.capacity = channelGib s.img := by
  change ∃ t, execDdrTrainingDone true true s = _ ∧ _
  rw [execDdrTrainingDone, if_neg (by simp [hmain, himage, hidle])]
  refine ⟨_, rfl, ?_⟩
  rw [after_mem]
  exact ⟨rfl, rfl, rfl⟩

/-- The second channel has failed to train: the first serves, the fabric is held (R454). -/
def secondUntrained (s : State) : State := { s with
  mem := { s.mem with
    ddr0 := { s.mem.ddr0 with trained := true, capacity := channelGib s.img }
    ddr1 := { s.mem.ddr1 with trained := false, capacity := 0 } }
  chip := { s.chip with heldFabric := true } }

theorem exec_ddrTrainingDone_second_fails :
    exec (.ddrTrainingDone true false) s = .next (after s ((secondUntrained s).report 0x00C1 11)) := by
  change execDdrTrainingDone true false s = _
  rw [execDdrTrainingDone, if_neg (by simp [hmain, himage, hidle])]
  rfl

theorem ddrTrainingDone_reports (hreport : Reportable s 0x00C1 11 0) :
    ∃ t, exec (.ddrTrainingDone true false) s = .next t ∧ t.chip.heldFabric = true ∧ t.mem.ddr0.trained = true ∧
      t.mem.ddr1.trained = false ∧ NewRecord s t 0x00C1 11 0 := by
  obtain ⟨u, hu⟩ : ∃ u, u = (secondUntrained s).report 0x00C1 11 := ⟨_, rfl⟩
  have hframe : Only (.out :: .irq :: recordParts) (secondUntrained s) u := by
    rw [hu]
    exact State.report_only (.refl _ _) (by decide) 0x00C1 11 0 0
  have hafter : Only afterParts u (after s u) := after_only (.refl _ u) (List.Subset.refl _) s
  have hmem : (after s u).mem = (secondUntrained s).mem := (after_mem s u).trans (hframe .mem (by decide))
  have hheld : (after s u).chip.heldFabric = (secondUntrained s).chip.heldFabric :=
    (hafter.chip_field (by decide) (·.heldFabric) fun _ => rfl).trans
      (hframe.chip_field (by decide) (·.heldFabric) fun _ => rfl)
  have hlog : (after s u).faults.log = u.faults.log := hafter.faults_field (by decide) (·.log) fun _ => rfl
  have hrecord : NewRecord (secondUntrained s) u 0x00C1 11 0 := by
    rw [hu]
    exact report_record (s := secondUntrained s) hreport 0
  refine ⟨after s u, (exec_ddrTrainingDone_second_fails hmain himage hidle).trans (by rw [hu]), hheld, ?_, ?_, ?_⟩
  · rw [hmem]
    rfl
  · rw [hmem]
    rfl
  · unfold NewRecord
    rw [hlog]
    exact hrecord

end ddr

/-- Settles O37, row by row: BAR2, two writes of one word, owner, power and initialisation of a bank (log entries 8, 103, 124), and
DDR training. -/
theorem memoryRowsComplete : Obligations.MemoryRowsComplete := by
  unfold Obligations.MemoryRowsComplete
  exact ⟨fun a data s hm hmain hdata hend hreach => bar2Access_writes hm hmain hdata hend hreach,
    fun a s hq hmain halign hend => ⟨fun hreach hgood => bar2Access_reads hq hmain halign hend hreach hgood,
      fun hreach => bar2Access_denies hq hmain halign hend hreach⟩,
    fun w a n d s hout => bar2Access_outside s hout,
    fun b w x y s hm hb hw hawake => bankAccessCollide_stores hm hb hw hawake x y,
    fun b v s hmain hb hsoft hv hfree => bankOwnerWrite_accepts hmain hb hsoft hv hfree,
    fun b o s hpending => bankOwnerChanged_passes hpending,
    fun b v s hmain hb hsoft hcode hinit hwant => bankPowerWrite_accepts hmain hb hsoft hcode hinit hwant,
    fun b p s hm hb hpending => bankPowerReached_enters hm hb hpending,
    fun b s hmain hb hsoft hawake => bankInit_begins hmain hb hsoft hawake,
    fun b e s hm hb hinit hover => bankInitDone_clears hm hb hinit hover,
    fun s hmain himage hidle => ⟨ddrTrainingDone_trains hmain himage hidle, ddrTrainingDone_reports hmain himage hidle⟩⟩

end Sys2Proof.Safety

/-! The queue, OTP and the parts of every command: each is a part of the state, or all of them, read off the frame of every
command. -/

namespace Sys2Proof.Safety

set_option Elab.async false

open Sys2Proof.Machine

/-! ## What follows a command that starts quiet -/

/-- No command lists the queue or OTP; one that may start or end a HANDOVER or a RESUME_REGION lists every part that their
steps may write. -/
theorem touched_bounds (c : Instr) : (!(touched c).contains .pending && !(touched c).contains .otp &&
    ((!(touched c).contains .handover && !(touched c).contains .resumes) || afterParts.all (touched c ++ background).contains)) =
      true := by
  cases c <;> exact Eq.refl true

theorem afterParts_sub_touches (c : Instr) :
    (.handover ∉ touched c ∧ .resumes ∉ touched c) ∨ afterParts ⊆ touches c := by
  have h := touched_bounds c
  simp only [Bool.or_eq_true, Bool.and_eq_true, Bool.not_eq_true', List.contains_eq_mem, decide_eq_false_iff_not,
    List.all_eq_true, decide_eq_true_eq] at h
  exact h.2

/-- From a quiet state a command writes only its parts and the background, what follows it included. -/
theorem Writes.only_touches {c : Instr} {s t : State} {o : Host.Outcome State Fault Refusal} (h : Writes (touched c) s o)
    (hq : Quiet s) (ht : o = .next t) : Only (touches c) s t := by
  obtain ⟨u, hu, rfl | ⟨s0, rfl⟩⟩ := h t ht
  · exact hu
  · rcases afterParts_sub_touches c with ⟨hh, hr⟩ | hsub
    · have hhand : Part.handover ∉ touches c := fun hm => (List.mem_append.1 hm).elim hh (by decide)
      have hres : Part.resumes ∉ touches c := fun hm => (List.mem_append.1 hm).elim hr (by decide)
      exact after_quiet hu (List.subset_append_right ..) ((hu .handover hhand).trans hq.1) ((hu .resumes hres).trans hq.2) s0
    · exact after_only hu hsub s0

/-! ## Parts that no command writes -/

theorem not_mem_touched (c : Instr) : .pending ∉ touched c ∧ .otp ∉ touched c := by
  have h := touched_bounds c
  simp only [Bool.and_eq_true, Bool.not_eq_true', List.contains_eq_mem, decide_eq_false_iff_not] at h
  exact h.1

/-- A part that is neither in a command's list nor among what follows a command stays as it was. -/
theorem exec_same {c : Instr} {s t : State} {p : Part} (hp : p ∉ touched c) (ha : p ∉ afterParts) (hb : p ∉ background)
    (ht : exec c s = .next t) : p.same s t :=
  (exec_writes s c).same (fun hm => (List.mem_append.1 hm).elim hp hb) ha ht

/-! ## The obligations -/

/-- Settles O1: that is what `step` is. -/
theorem stepRunsFrontCommand : Obligations.StepRunsFrontCommand := by
  unfold Obligations.StepRunsFrontCommand
  exact fun _ _ _ => rfl

/-- Settles O3, by the frame of every command: the queue is in none of them. -/
theorem commandsLeaveQueue : Obligations.CommandsLeaveQueue := by
  unfold Obligations.CommandsLeaveQueue
  exact fun c _ _ ht => exec_same (not_mem_touched c |>.1) (by decide) (by decide) ht

/-- Settles O5, by the frame of every command and of the tick on an empty queue: OTP is in none of them. -/
theorem otpIsNeverWritten : Obligations.OtpIsNeverWritten := by
  unfold Obligations.OtpIsNeverWritten
  intro s t ht
  unfold step at ht
  split at ht
  · exact (idle_writes s).same (p := .otp) (by decide) (by decide) ht
  next c rest _ => exact exec_same (s := { s with pending := rest }) (p := .otp) (not_mem_touched c |>.2) (by decide) (by decide) ht

/-- Settles O60: what a command itself writes is `exec_writes`, and what follows it stays within the same parts. -/
theorem eachCommandTouchesOnlyItsParts : Obligations.EachCommandTouchesOnlyItsParts := by
  unfold Obligations.EachCommandTouchesOnlyItsParts
  exact fun c s _ hq ht => (exec_writes s c).only_touches hq ht

end Sys2Proof.Safety

/-! The bytes of the banks and of the DRAM: every command that may write them keeps their canonical form (R344, R355). -/

namespace Sys2Proof.Safety

set_option Elab.async false

open Sys2Proof.Machine

/-- Every part but the memory. -/
def notMem : List Part := [.pending, .out, .free, .dt, .time, .faults, .errLevel, .resumes, .host, .irq, .issues, .owed,
  .comma, .regions, .store, .loops, .elems, .smu, .runs, .calib, .calRuns, .links, .tiles, .adm, .matrix, .lsu, .mate,
  .handover, .mirror, .chip, .otp, .digest, .house, .hostOps]

section
variable {s t : State}

theorem MemForm.of_bytes (hs : MemForm s) (h : t.mem.bytes = s.mem.bytes) : MemForm t := Memory.wf_congr hs h

theorem MemForm.of_only (hs : MemForm s) (h : Only notMem s t) : MemForm t :=
  hs.of_bytes (congrArg Memory.bytes (h .mem (by decide)))

theorem MemForm.ite {c : Prop} [Decidable c] {x y : State} (hx : MemForm x) (hy : MemForm y) :
    MemForm (if c then x else y) := by split <;> assumption

theorem MemForm.ite_fst {β : Type} {c : Prop} [Decidable c] {x y : State × β} (hx : MemForm x.1) (hy : MemForm y.1) :
    MemForm (if c then x else y).1 := by split <;> assumption

theorem MemForm.foldl {α : Type} {f : State → α → State} {l : List α} (hs : MemForm s)
    (hf : ∀ u x, MemForm u → MemForm (f u x)) : MemForm (l.foldl f s) :=
  List.foldlRecOn (motive := MemForm) l f hs fun u hu x _ => hf u x hu

theorem MemForm.after (hs : MemForm s) (s0 : State) : MemForm (after s0 s) := by
  unfold MemForm
  rwa [after_mem]

/-! ## Channels, banks, resets: no byte is written -/

theorem MemForm.setChan (hs : MemForm s) (k : Nat) (c : DmaChan) : MemForm (s.setChan k c) := hs

theorem MemForm.setBank (hs : MemForm s) (k : Nat) (b : BankState) : MemForm (s.setBank k b) := hs

theorem MemForm.setTime (hs : MemForm s) (u : TimeUnit) : MemForm { s with time := u } := hs

theorem MemForm.draw (hs : MemForm s) : MemForm s.draw.2 := hs.of_only (State.draw_only (.refl _ _) (by decide))

theorem MemForm.emit (hs : MemForm s) (o : Output) : MemForm (s.emit o) := hs

theorem MemForm.msix (hs : MemForm s) (v : Nat) : MemForm (s.msix v) := hs.of_only (State.msix_only (.refl _ _) (by decide) v)

theorem MemForm.report (hs : MemForm s) (code source d0 d1 : Nat) : MemForm (s.report code source d0 d1) :=
  hs.of_only (State.report_only (.refl _ _) (by decide) _ _ _ _)

theorem MemForm.warmReset (hs : MemForm s) (cause : Nat) : MemForm (warmReset s cause) := Memory.warm_wf hs

theorem memForm_porReset (s : State) : MemForm (porReset s) := State.reset_mem_wf

theorem MemForm.resetCtrl (hs : MemForm s) (v : Word32) : MemForm (resetCtrl s v) := .ite (hs.warmReset 2) hs

theorem MemForm.ownError (hs : MemForm s) : MemForm (ownError s) := hs

theorem MemForm.powerError (hs : MemForm s) : MemForm (powerError s) := hs

theorem MemForm.bankOwner (hs : MemForm s) (b : Nat) (v : Word32) : MemForm (bankOwner s b v) := .ite (hs.setBank ..) hs.ownError

theorem MemForm.bankInit (hs : MemForm s) (b : Nat) : MemForm (bankInit s b) :=
  .ite hs.powerError <| .ite (hs.setBank ..) hs

theorem MemForm.bankCfg (hs : MemForm s) (b : Nat) (v : Word32) : MemForm (bankCfg s b v) := by
  have hset : ∀ x, MemForm (s.setBank b x) := hs.setBank b
  unfold Machine.bankCfg
  refine .ite (.bankInit (.ite (.powerError ?_) ?_) b) (.ite (.powerError ?_) ?_)
  all_goals exact .ite (hset _) <| .ite (hset _).powerError <| .setBank (hset _) _ _

/-! ## Words read and written -/

theorem MemForm.readWord (hs : MemForm s) (w : Nat) : MemForm (readWord s w) := hs.of_bytes (readWord_bytes s w)

theorem MemForm.readWords (hs : MemForm s) (ws : List Nat) : MemForm (ws.foldl Machine.readWord s) :=
  hs.of_bytes (readWords_keep ws s).1

theorem MemForm.wroteUnits (hs : MemForm s) (us : List Nat) : MemForm (wroteUnits s us) := hs.of_bytes (wroteUnits_bytes s us)

theorem MemForm.writeBanks (hs : MemForm s) (a : Nat) (bs : List (Option Byte)) : MemForm (writeBanks s a bs) := by
  unfold Machine.writeBanks
  refine .wroteUnits ?_ _
  exact Memory.write_wf a bs (hs.readWords _)

/-- What the read of a unit of DRAM leaves of the memory. -/
def readDramMem (m : Memory) (u : Nat) : Memory :=
  match m.bad.find? fun x => x.1 == u with
  | none => m
  | some (_, dbl) =>
    let inc := fun (d : DdrChan) => if dbl then { d with ue := satInc d.ue 0xFFFF } else { d with ce := satInc d.ce 0xFFFF }
    let m1 := if u % 2 = 0 then { m with ddr0 := inc m.ddr0 } else { m with ddr1 := inc m.ddr1 }
    if dbl then m1 else { m1 with bad := m1.bad.filter fun x => x.1 != u }

theorem readDram_mem (s : State) (u : Nat) : (readDram s u).mem = readDramMem s.mem u := by
  unfold readDram readDramMem
  cases s.mem.bad.find? fun x => x.1 == u with
  | none => rfl
  | some x =>
    obtain ⟨_, dbl⟩ := x
    cases dbl
    · rfl
    · exact recordOne_mem ..

theorem readDramMem_keeps (m : Memory) (u : Nat) : (readDramMem m u).bytes = m.bytes ∧ (readDramMem m u).chans = m.chans := by
  unfold readDramMem
  dsimp only
  split
  · exact ⟨rfl, rfl⟩
  · split <;> split <;> exact ⟨rfl, rfl⟩

theorem readDram_bytes (s : State) (u : Nat) : (readDram s u).mem.bytes = s.mem.bytes := by
  rw [readDram_mem, (readDramMem_keeps s.mem u).1]

theorem MemForm.readDrams (hs : MemForm s) (us : List Nat) : MemForm (us.foldl readDram s) :=
  hs.foldl fun _ u hu => hu.of_bytes (readDram_bytes _ u)

/-! ## Transfers of the DMA channels -/

theorem MemForm.haltChan (hs : MemForm s) (ch i : Nat) (write : Bool) (cause : Nat) : MemForm (haltChan s ch i write cause) :=
  .msix (hs.setChan ..) _

theorem MemForm.dmaGo (hs : MemForm s) (ch : Nat) : MemForm (dmaGo s ch) :=
  .ite hs <| .ite (hs.setChan ..) <| .ite (hs.setChan ..) <| .ite (.haltChan (hs.setChan ..) _ _ _ _) (hs.setChan ..)

theorem MemForm.dmaResume (hs : MemForm s) (ch : Nat) : MemForm (dmaResume s ch) := .ite (hs.setChan ..) hs

theorem MemForm.dropChan (hs : MemForm s) (ch : Nat) : MemForm (dropChan s ch) := by
  have hburst : MemForm (if (s.chan ch).state == .running then abortBurst s 16 ch else s) :=
    .ite (hs.of_only (abortBurst_only (.refl _ _) (by decide) _ _)) hs
  have hdrawn := hburst.draw.draw.draw.draw
  unfold Machine.dropChan
  exact .ite (MemForm.foldl (hdrawn.setChan ..) fun u _ hu => Memory.put_wf _ _ hu.draw) (hdrawn.setChan ..)

theorem MemForm.dropAll (hs : MemForm s) : MemForm (dropAll s) := hs.foldl fun _ ch hu => hu.dropChan ch

theorem MemForm.dmaDisable (hs : MemForm s) (ch : Nat) : MemForm (dmaDisable s ch) := .setChan (hs.dropChan ch) _ _

theorem MemForm.dmaGlobal (hs : MemForm s) : MemForm (dmaGlobal s) := MemForm.dropAll hs

theorem drawBytes_mem (s : State) (n : Nat) : (drawBytes s n).2.mem = s.mem :=
  drawBytes_only (P := notMem) (by decide) (.refl _ s) n .mem (by decide)

theorem MemForm.readElem (hs : MemForm s) (c : DmaChan) (i : Nat) : MemForm (readElem s c i) := by
  have hsource : MemForm (if c.srcSpace = 1 then ((s.elemBytes c false i).map (· / 8)).foldl Machine.readWord s
      else if c.srcSpace = 0 then s else ((s.elemBytes c false i).flatMap dramUnits).foldl readDram s) :=
    .ite (hs.readWords _) <| .ite hs (hs.readDrams _)
  exact .ite (hsource.readWords _) <| .ite hsource (hsource.readDrams _)

/-- The state from which an element's bytes are written: host memory is read first, a free byte draws its value. -/
theorem MemForm.moveElem (hs : MemForm s) (c : DmaChan) (free : Bool) (host : List Byte) (i : Nat) :
    MemForm (moveElem s c free host i) := by
  have hbytes : ∀ (u : State) (l : List (Nat × Byte)), MemForm u →
      (l.foldl (fun (m : Memory) x => m.put (spaceByte c.dstSpace x.1) x.2) u.mem).wf = true :=
    fun u l hu => foldl_wf hu fun m x hm => Memory.put_wf _ _ hm
  have hmarks : ∀ (m : Memory) (ws : List Nat), m.wf = true → (ws.foldl (fun (m : Memory) w => m.mark w true) m).wf = true :=
    fun m ws hm => foldl_wf hm fun m w hm => Memory.mark_wf w true hm
  have hread : MemForm (if c.srcSpace = 0 then s.emit (.hostRead (s.elemAddr c false i) c.width c.ns) else s) :=
    .ite (hs.emit _) hs
  have hdrawn := hread.of_bytes (congrArg Memory.bytes (drawBytes_mem _ c.width))
  unfold Machine.moveElem
  cases free
  · refine .ite (hread.emit _) <| .ite (.wroteUnits ?_ _) (.wroteUnits ?_ _)
    · exact hmarks _ _ (hbytes _ _ hread)
    · exact hbytes _ _ hread
  · refine .ite (hdrawn.emit _) <| .ite (.wroteUnits ?_ _) (.wroteUnits ?_ _)
    · exact hmarks _ _ (hbytes _ _ hdrawn)
    · exact hbytes _ _ hdrawn

theorem MemForm.moveElems (c : DmaChan) (free : Bool) (n : Nat) {s : State} (hs : MemForm s) (host : List Byte) (i : Nat) :
    MemForm (moveElems c free s host i n).1 := by
  induction n generalizing s host i with
  | zero => exact hs
  | succ n ih =>
    have hread : MemForm (if s.accessCause c false i = 0 && s.accessCause c true i = 0 then Machine.readElem s c i else s) :=
      .ite (hs.readElem c i) hs
    unfold Machine.moveElems
    exact .ite_fst hread <| .ite_fst hread <| ih (hread.moveElem c free _ i) _ _

theorem MemForm.of_moveElems (hs : MemForm s) {c : DmaChan} {free : Bool} {host : List Byte} {i n : Nat}
    {r : Option (Nat × Bool × Nat)} (h : Machine.moveElems c free s host i n = (t, r)) : MemForm t := by
  have hmoved := hs.moveElems c free n host i
  rwa [h] at hmoved

theorem MemForm.dmaReg (hs : MemForm s) (ch r : Nat) (v : Word32) : MemForm (dmaReg s ch r v) := .ite (hs.setChan ..) (hs.setChan ..)

theorem MemForm.dmaCtrl (hs : MemForm s) (ch : Nat) (v : Word32) : MemForm (dmaCtrl s ch v) :=
  .ite (.dmaDisable (.ite hs (hs.setChan ..)) ch) <|
    .ite (.ite (.setChan (.ite (hs.dmaResume ch) hs) _ _) (.ite (hs.dmaResume ch) hs)) <|
    .ite (.dmaGo (hs.setChan ..) ch) (hs.setChan ..)

/-! ## Registers -/

theorem MemForm.writeDma (hs : MemForm s) (o : Nat) (v : Word32) : MemForm (writeDma s o v) :=
  .ite (.ite (hs.dmaReg ..) <| .ite (hs.dmaCtrl ..) <| .ite (hs.setChan ..) hs) <| .ite (.ite hs.dmaGlobal hs) hs

theorem MemForm.writeBanksReg (hs : MemForm s) (o : Nat) (v : Word32) : MemForm (writeBanksReg s o v) :=
  .ite (hs.bankOwner ..) <| .ite (hs.bankCfg ..) <| .ite hs <| .ite hs <| .ite (.ite hs hs) <| .ite hs hs

theorem MemForm.injectCheck (hs : MemForm s) (target unit : Nat) : MemForm (injectCheck s target unit) :=
  hs.of_only (injectCheck_only (.refl _ _) (by decide) _ _)

/-- Of the injections that react, those of a bank and of DRAM wait for the next full write: no byte changes. -/
theorem MemForm.injectReact (hs : MemForm s) (target unit : Nat) (double : Bool) : MemForm (injectReact s target unit double) := by
  have hrecord : ∀ u : State, MemForm u → ∀ r, MemForm (recordOne u false true false r) := fun u hu r =>
    hu.of_bytes (congrArg Memory.bytes (recordOne_mem u ..))
  unfold Machine.injectReact
  dsimp only
  split
  · exact hs
  · exact hs
  · exact .ite (hs.draw.of_only (State.modElem_only (.refl _ _) (by decide) _ _)) hs
  · exact .ite (hs.of_only (sendNak_only (State.modLink_only (.refl _ _) (by decide) _ _) (by decide) _ _)) hs
  · exact (hrecord s hs _).of_only (fenceRegion_only (.refl _ _) (by decide) _)
  · exact hrecord s hs _
  · exact .ite (hs.of_only (collectorFault_only (.refl _ _) (by decide) _)) hs
  · exact hrecord _ (.ite (hs.of_only (lenOff_only (State.setLen_only (.refl _ _) (by decide) _ _) (by decide) _)) hs) _

theorem MemForm.inject (hs : MemForm s) (target unit : Nat) (double isReact viaSideband : Bool) :
    MemForm (inject s target unit double isReact viaSideband) :=
  have hfields : ∀ f, MemForm { s with faults := f } := fun _ => hs
  .ite hs <| .ite (.injectReact (hfields _) ..) (.injectCheck (hfields _) ..)

theorem MemForm.faultInject (hs : MemForm s) (v : Word32) (viaSideband : Bool) : MemForm (faultInject s v viaSideband) :=
  have hfields : ∀ f, MemForm { s with faults := f } := fun _ => hs
  .ite (.inject (hfields _) ..) hs

theorem MemForm.writeFault (hs : MemForm s) (o : Nat) (v : Word32) (viaSideband : Bool) :
    MemForm (writeFault s o v viaSideband) :=
  .ite hs <| .ite (.ite (hs.of_only (firstClear_only (.refl _ _) (by decide))) hs) <|
    .ite (hs.of_only (faultClear_only (.refl _ _) (by decide) _)) <| .ite hs <| .ite (hs.faultInject _ _) <| .ite hs <| .ite hs hs

theorem MemForm.writeGlobal (hs : MemForm s) (o : Nat) (v : Word32) : MemForm (writeGlobal s o v) :=
  .ite hs <| .ite (hs.resetCtrl v) <| .ite (hs.of_only (writeLinkShare_only (.refl _ _) (by decide) _)) <|
    .ite (hs.of_only (writeLoopShare_only (.refl _ _) (by decide) _)) <| .ite hs hs

theorem MemForm.writeReg (hs : MemForm s) (off : Nat) (v : Word32) (viaSideband : Bool) :
    MemForm (writeReg s off v viaSideband) := by
  unfold Machine.writeReg
  dsimp only
  split
  · exact hs.writeGlobal _ v
  · exact hs.writeFault _ v viaSideband
  · exact hs.of_only (writeTime_only (.refl _ _) (by decide) _ _)
  · exact hs.of_only (writeHouse_only (.refl _ _) (by decide) _ _)
  · exact hs.of_only (writeCalib_only (.refl _ _) (by decide) _ _)
  · exact hs.of_only (writeSmu_only (.refl _ _) (by decide) _ _)
  · exact hs.of_only <| .ite (.refl _ _) <| .ite (writePlace_only (.refl _ _) (by decide) _ _) <|
      writeClauses_only (.refl _ _) (by decide) _ _
  · exact hs.of_only (writeHost_only (.refl _ _) (by decide) _ _)
  · exact hs.writeDma _ v
  · exact hs.writeBanksReg _ v
  · exact hs.of_only (writeSite_only (.refl _ _) (by decide) _ _)
  · exact hs.of_only (writeMate_only (.refl _ _) (by decide) _ _)
  · exact hs.of_only (writeAdm_only (.refl _ _) (by decide) _ _)
  · exact hs.of_only <| .ite (writeRegion_only (.refl _ _) (by decide) _ _ _) (.refl _ _)

theorem MemForm.wrote (ht : MemForm t) (s0 : State) (off : Nat) : MemForm (wrote s0 t off) := .ite ht (ht.after s0)

theorem MemForm.writeWindow (hs : MemForm s) (o : Nat) (v : Word32) : MemForm (writeWindow s o v) :=
  .ite (hs.resetCtrl v) <| .ite (MemForm.after (s := faultConfig s v) hs s) <| .ite hs <|
    .ite (MemForm.after (hs.of_only (writeSafety_only (.refl _ _) (by decide) _ _)) s) <| .ite hs <|
    .ite (.ite ((hs.writeReg _ v true).wrote s _) hs) hs

theorem MemForm.writeWords (hs : MemForm s) (l : List Word32) :
    MemForm (l.foldl (fun (s : State) v => nextWord (Machine.writeWindow s s.host.sbOffset v)) s) :=
  hs.foldl fun u v hu => MemForm.writeWindow hu u.host.sbOffset v

/-! ## The commands that may write the memory -/

/-- Where an outcome is a next state, its bytes stand in their canonical form. -/
def NextMemForm (o : Host.Outcome State Fault Refusal) : Prop := ∀ t, o = .next t → MemForm t

theorem NextMemForm.next (h : MemForm t) : NextMemForm (.next t) := by
  intro u hu
  cases hu
  exact h

theorem NextMemForm.ok (h : MemForm t) : NextMemForm (ok s t) := .next (h.after s)

theorem NextMemForm.fault (f : Fault) : NextMemForm (.fault f) := by
  simp only [NextMemForm, reduceCtorEq, false_implies, implies_true]

theorem NextMemForm.ite {c : Prop} [Decidable c] {x y : Host.Outcome State Fault Refusal} (hx : NextMemForm x)
    (hy : NextMemForm y) : NextMemForm (if c then x else y) := by split <;> assumption

theorem NextMemForm.mainRow {f : State → State} (hs : MemForm s) (hf : MemForm (f s)) : NextMemForm (mainRow s f) :=
  .ite (.ok hf) (.next hs)

theorem Writes.nextMemForm {P : List Part} {o : Host.Outcome State Fault Refusal} (h : Writes P s o)
    (hp : .mem ∉ P ++ background) (hs : MemForm s) : NextMemForm o :=
  fun _ ht => hs.of_bytes (congrArg Memory.bytes (h.same hp (by decide) ht))

/-! ### DMA channels -/

theorem MemForm.noteHolds (hs : MemForm s) (ch : Nat) : MemForm (noteHolds s ch) := hs

theorem execDmaReadbackDone_nextMemForm (hs : MemForm s) (ch : Nat) (good : Bool) (data : List Byte) :
    NextMemForm (execDmaReadbackDone ch good data s) := by
  unfold execDmaReadbackDone
  refine .ite (.next hs) ?_
  split
  next s1 i w k heq => exact .ok (((hs.noteHolds ch).of_moveElems heq).haltChan ..)
  next s1 heq =>
    have hmoved : MemForm s1 := (hs.noteHolds ch).of_moveElems heq
    have hback : ∀ o, MemForm (if (s.chan ch).dstSpace = 0 then s1.emit o else s1) := fun o => .ite (hmoved.emit o) hmoved
    exact .ite (.ok ((hback _).haltChan ..)) (.ok (.msix ((hback _).setChan ..) _))

theorem execDmaErrorHalt_nextMemForm (hs : MemForm s) (ch : Nat) (write : Bool) (cause k0 k1 k2 : Nat) (data : List Byte) :
    NextMemForm (execDmaErrorHalt ch write cause k0 k1 k2 data s) := by
  unfold execDmaErrorHalt
  refine .ite (.next hs) ?_
  split
  next s1 j w k heq => exact .ok (((hs.noteHolds ch).of_moveElems heq).haltChan ..)
  next s1 heq => exact .ok (((hs.noteHolds ch).of_moveElems heq).haltChan ..)

/-! ### Banks, BAR2, DDR -/

theorem execBankOwnerChanged_nextMemForm (hs : MemForm s) (b : Nat) : NextMemForm (execBankOwnerChanged b s) := by
  unfold execBankOwnerChanged
  split
  · exact .ok (hs.setBank ..)
  · exact .next hs

theorem execBankPowerReached_nextMemForm (hs : MemForm s) (b : Nat) : NextMemForm (execBankPowerReached b s) := by
  unfold execBankPowerReached
  dsimp only
  split
  · exact .ok <| .ite (Memory.wipe_wf _ _ hs) (hs.setBank ..)
  · exact .next hs

theorem execBankInitDone_nextMemForm (hs : MemForm s) (b : Nat) : NextMemForm (execBankInitDone b s) := by
  unfold execBankInitDone
  split
  · exact .ite (.ok (Memory.wipe_wf _ _ hs)) (.next hs)
  · exact .next hs

theorem execBankAccessCollide_nextMemForm (hs : MemForm s) (b w : Nat) (x y : BitVec 64) :
    NextMemForm (execBankAccessCollide b w x y s) :=
  .ite (.next hs) <| .ok <| (hs.setBank ..).writeBanks _ _

theorem execBar2Access_nextMemForm (hs : MemForm s) (write : Bool) (addr n : Nat) (data : List (Option Byte)) :
    NextMemForm (execBar2Access write addr n data s) := by
  have hdenied : ∀ c : Bool, MemForm (if c then denied s else s) := fun _ => .ite hs hs
  unfold execBar2Access
  dsimp only
  exact .ite (.fault _) <| .ite (.next hs) <| .ite (.ok ((hdenied _).writeBanks _ _)) (.ok (.emit ((hdenied _).readWords _) _))

theorem execDdrTrainingDone_nextMemForm (hs : MemForm s) (ok0 ok1 : Bool) : NextMemForm (execDdrTrainingDone ok0 ok1 s) := by
  have htrained : ∀ c d0 d1, MemForm { s with chip := c, mem := { s.mem with ddr0 := d0, ddr1 := d1 } } := fun _ _ _ => hs
  exact .ite (.next hs) <| .ite (.ok (htrained _ _ _)) (.ok ((htrained _ _ _).report ..))

/-! ### The management sequencer, the PCIe function, the image, resets -/

theorem execMgmtWatchdog_nextMemForm (hs : MemForm s) : NextMemForm (execMgmtWatchdog s) := by
  unfold execMgmtWatchdog
  refine .ite (.next hs) (.ok (.setTime ?_ _))
  have hburst : MemForm (abortBurst (s.report 0x0054 srcMgmt) 18 0) :=
    (hs.report ..).of_only (abortBurst_only (.refl _ _) (by decide) _ _)
  refine MemForm.foldl (hburst.foldl fun u b hu => hu.setBank ..) fun u p hu => ?_
  exact .ite (hu.of_only (closeSession_only (.refl _ _) (by decide) _ _ _)) (hu.of_only (State.setPeer_only (.refl _ _) (by decide) _ _))

theorem MemForm.functionReset (hs : MemForm s) : MemForm (functionReset s) := by
  have hhost : ∀ h, MemForm { s with host := h } := fun _ => hs
  unfold Machine.functionReset
  dsimp only
  exact MemForm.of_only (s := Machine.dropAll _) (.dropAll (hhost _)) (abortBurst_only (.refl _ _) (by decide) _ _)

theorem mainRow_inject_nextMemForm (hs : MemForm s) (target unit : Nat) (double isReact viaSideband : Bool) :
    NextMemForm (mainRow s (inject · target unit double isReact viaSideband)) :=
  .mainRow hs (hs.inject target unit double isReact viaSideband)

theorem execPcieFunctionReset_nextMemForm (hs : MemForm s) : NextMemForm (execPcieFunctionReset s) :=
  .ite (.ok hs.functionReset) (.next hs)

theorem MemForm.applyImage (hs : MemForm s) (i : Image) : MemForm (applyImage s i) := by
  unfold Machine.applyImage
  dsimp only
  refine MemForm.of_only (s := List.foldl _ _ i.meters) (MemForm.foldl ?_ fun u x hu => ?_) (deliverBlock_only (.refl _ _) (by decide) _)
  · exact hs.of_bytes rfl
  · exact hu.of_only (State.setMeter_only (.refl _ _) (by decide) _ _ _)

theorem execFlashImageReadDone_nextMemForm (hs : MemForm s) (i : FlashImage) : NextMemForm (execFlashImageReadDone i s) := by
  have hcert : ∀ c, MemForm { s with chip := c } := fun _ => hs
  unfold execFlashImageReadDone
  refine .ite (.next hs) (.ite (.next hs) ?_)
  dsimp only
  split
  · exact .ok (.report (hcert _) ..)
  · exact .ok (.applyImage (hcert _) _)

theorem execPciePerst_nextMemForm (hs : MemForm s) (low : Bool) : NextMemForm (execPciePerst low s) := by
  have hhost : ∀ h, MemForm { s with host := h } := fun _ => hs
  exact .ite (.ite (.next hs) (.ite (.ok (hhost _).functionReset) (.next hs))) (.ite (.next hs) (.next hs))

theorem execWarmReset_nextMemForm (hs : MemForm s) (n : Nat) : NextMemForm (execWarmReset n s) :=
  .ite (.next hs) <| .ite (.next (hs.warmReset 1)) <| .next <| .ite hs.draw (hs.draw.warmReset 1)

theorem execMainSupplyFault_nextMemForm (hs : MemForm s) (m : Nat) : NextMemForm (execMainSupplyFault m s) := by
  have hdown : ∀ c, MemForm { warmReset s 3 with chip := c } := fun _ => hs.warmReset 3
  exact .ite (.next hs) (.ok ((hdown _).report ..))

theorem execSbWindowAccess_nextMemForm (hs : MemForm s) (write : Bool) (bytes : Nat) (data : List Word32) (pecOk : Bool) :
    NextMemForm (execSbWindowAccess write bytes data pecOk s) :=
  .ite (.next hs) <| .ite (.next hs) <| .ite (.next (hs.writeWords _)) <| .next <|
    hs.of_only (State.emit_only (readWords_only (by decide) _ (.refl _ _)) (by decide) _)

/-! ### Every command -/

/-- A command whose parts do not include the memory leaves it alone. -/
theorem exec_nextMemForm_of_frame (hs : MemForm s) {c : Instr} (hc : (touched c).contains .mem = false) :
    NextMemForm (exec c s) :=
  (exec_writes s c).nextMemForm (fun hm => (List.mem_append.1 hm).elim (by simpa using hc) (by decide)) hs

theorem exec_nextMemForm (hs : MemForm s) (c : Instr) : NextMemForm (exec c s) := by
  cases c
  case dmaGo => exact .mainRow hs (.ite (hs.dmaGo _) hs)
  case dmaResume => exact .mainRow hs (hs.dmaResume _)
  case dmaEnableClear => exact .mainRow hs (.ite (hs.dmaDisable _) hs)
  case dmaGlobalDisable => exact .mainRow hs hs.dmaGlobal
  case dmaErrorHalt => exact execDmaErrorHalt_nextMemForm hs _ _ _ _ _ _ _
  case dmaReadbackDone => exact execDmaReadbackDone_nextMemForm hs _ _ _
  case bankOwnerWrite => exact .mainRow hs (.ite (hs.bankOwner _ _) hs)
  case bankOwnerChanged => exact execBankOwnerChanged_nextMemForm hs _
  case bankPowerWrite => exact .mainRow hs (.ite (hs.bankCfg _ _) hs)
  case bankPowerReached => exact execBankPowerReached_nextMemForm hs _
  case bankInit => exact .mainRow hs (.ite (hs.bankInit _) hs)
  case bankInitDone => exact execBankInitDone_nextMemForm hs _
  case bankAccessCollide b w x y => exact execBankAccessCollide_nextMemForm hs b w x y
  case bar2Access => exact execBar2Access_nextMemForm hs _ _ _ _
  case ddrTrainingDone => exact execDdrTrainingDone_nextMemForm hs _ _
  case mgmtWatchdog => exact execMgmtWatchdog_nextMemForm hs
  case faultInjectCheck => exact mainRow_inject_nextMemForm hs _ _ _ false _
  case faultInjectReact => exact mainRow_inject_nextMemForm hs _ _ _ true _
  case pcieFunctionReset => exact execPcieFunctionReset_nextMemForm hs
  case pciePerst => exact execPciePerst_nextMemForm hs _
  case flashImageReadDone => exact execFlashImageReadDone_nextMemForm hs _
  case porNAssert => exact .next (memForm_porReset s)
  case aonSupplyLow => exact .next (memForm_porReset s)
  case warmReset => exact execWarmReset_nextMemForm hs _
  case resetCtrlWrite => exact .next (hs.resetCtrl _)
  case mainSupplyFault => exact execMainSupplyFault_nextMemForm hs _
  case registerWrite => exact .ite (.fault _) <| .ite (.next hs) <| .next <| (hs.writeReg _ _ false).wrote s _
  case sbWindowAccess => exact execSbWindowAccess_nextMemForm hs _ _ _ _
  all_goals exact exec_nextMemForm_of_frame hs (Eq.refl false)

theorem step_nextMemForm (hs : MemForm s) : NextMemForm (step s) := by
  unfold step
  split
  · exact (idle_writes s).nextMemForm (by decide) hs
  next c rest _ => exact exec_nextMemForm (s := { s with pending := rest }) hs c

end

/-! ## The obligations -/

/-- Settles O7: no byte is listed. -/
theorem resetMemoryCanonical : Obligations.ResetMemoryCanonical := by
  unfold Obligations.ResetMemoryCanonical
  exact State.reset_mem_wf

/-- Settles O8: by the frame of a command, or because it writes single bytes in order or drops those of a bank. -/
theorem stepKeepsMemoryCanonical : Obligations.StepKeepsMemoryCanonical := by
  unfold Obligations.StepKeepsMemoryCanonical
  exact fun s t hs ht => step_nextMemForm hs t ht

end Sys2Proof.Safety

/-! Resets (R443 to R446, R496, R497): what POR_N, the always-on supply, RESET_N and RESET_CTRL leave, and the records that the
always-on island keeps while the main side is down. -/

namespace Sys2Proof.Safety

set_option Elab.async false

open Sys2Proof.Machine

/-! ## A report while the main side is down (R437) -/

/-- A report of no fenced unit that no waiting record takes in waits in the always-on memory. -/
theorem report_waits {s : State} {code source d0 : Nat} (hdown : s.chip.mainRun = false)
    (hfence : s.fencedSource { code, source, detail0 := d0 } = false) (hsev : severityOf code ≠ 3)
    (hnew : findMerge s.faults.aonPending { code, source, detail0 := d0 } s.dt = none) :
    s.report code source d0 = recordAon s { code, source, detail0 := d0 } (severityOf code) false := by
  unfold State.report recordReports
  simp only [List.filter_cons, hfence, Bool.not_false, if_true, List.filter_nil, sortReports, List.foldr_cons, List.foldr_nil,
    insertReport, List.foldl_cons, List.foldl_nil, recordOne, hdown, hnew, hsev, Bool.false_eq_true, if_false,
    List.length_singleton, Nat.lt_irrefl, decide_false]

theorem recordAon_pending (s : State) (r : Report) (sev : Nat) (simul : Bool) :
    ∃ f ∈ (recordAon s r sev simul).faults.aonPending, f.code = r.code ∧ f.detail0 = r.detail0 ∧ f.time = s.dt :=
  ⟨_, List.mem_append_right _ (List.mem_singleton_self _), rfl, rfl, rfl⟩

theorem recordAon_chip (s : State) (r : Report) (sev : Nat) (simul : Bool) : (recordAon s r sev simul).chip = s.chip := rfl

/-- Any field of the collector but ERR_LEVEL and the RESUME_REGION verbs, in any state. -/
theorem after_faults_field {α : Type} (f : Faults → α) (hf : ∀ u, f u = f { u with errLevel := 0, resumes := [] })
    (s0 s : State) : f (after s0 s).faults = f s.faults := by
  rw [hf (after s0 s).faults, hf s.faults, (after_same s0 s (p := .faults) (by decide) :)]

/-- Any field of start-up and identity but OTP, the digest's progress and the restart record, in any state. -/
theorem after_chip_any {α : Type} (f : Chip → α) (hf : ∀ u, f u = f { u with
    otp := {}, digestBusy := false, digestAgain := false, digestCurrent := false, restart := {} }) (s0 s : State) :
    f (after s0 s).chip = f s.chip := by
  rw [hf (after s0 s).chip, hf s.chip, (after_same s0 s (p := .chip) (by decide) :)]

/-! ## POR_N and the always-on supply (R443, R446, R497) -/

theorem porReset_clears (s : State) : (porReset s).chip.por = true ∧ (porReset s).chip.mainRun = false ∧ (porReset s).dt = 0 ∧
    (porReset s).time.pllLocked = false ∧ (∀ k, ((porReset s).len k).on = false) ∧ (porReset s).chip.otp = s.chip.otp ∧
    (porReset s).calib.stored = s.calib.stored ∧ (porReset s).lsu.record = s.lsu.record ∧
    ∀ k, (porReset s).tile k = s.tile k :=
  ⟨rfl, rfl, rfl, rfl, fun _ => rfl, rfl, rfl, rfl, fun _ => rfl⟩

theorem porN_resets {c : Instr} (s : State) (hc : c = .porNAssert ∨ c = .aonSupplyLow) : exec c s = .next (porReset s) := by
  rcases hc with rfl | rfl <;> rfl

theorem porNRelease_releases {s : State} (hpor : s.chip.por = true) :
    exec .porNRelease s = .next { s with chip := { s.chip with por := false } } := by
  change Host.Outcome.next _ = _
  rw [if_pos hpor]

/-! ## A warm reset (R444, R445) -/

/-- RESET_N low: a warm reset with cause 1, the pin being low. -/
def pinReset (s : State) : State :=
  { warmReset s 1 with chip := { (warmReset s 1).chip with resetHigh := false } }

theorem warmReset_short {s : State} {n : Nat} (hn : n < 500) : exec (.warmReset n) s = .next s :=
  if_pos (by simp [hn])

theorem warmReset_long {s : State} {n : Nat} (hpor : s.chip.por = false) (hn : 1000 ≤ n) :
    exec (.warmReset n) s = .next (pinReset s) := by
  change execWarmReset n s = _
  unfold execWarmReset
  rw [if_neg (by simp [hpor]; omega), if_pos hn]
  rfl

/-- Between the two limits a free choice decides; the draw itself is the only trace of it. -/
theorem warmReset_between {s : State} {n : Nat} (hpor : s.chip.por = false) (hlo : 500 ≤ n) (hhi : n < 1000) :
    ∃ t, exec (.warmReset n) s = .next t ∧
      (t = { s with free := s.free + 1 } ∨ t = { pinReset s with free := s.free + 1 }) := by
  have hexec : exec (.warmReset n) s = .next (if s.draw.1 % 2 = 0 then s.draw.2 else pinReset s.draw.2) := by
    change execWarmReset n s = _
    unfold execWarmReset
    rw [if_neg (by simp [hpor]; omega), if_neg (by omega)]
    rfl
  refine ⟨_, hexec, ?_⟩
  split
  · exact .inl rfl
  · exact .inr rfl

/-- What Table 17-1 keeps is kept, the rest stands at its reset value. -/
theorem pinReset_state (s : State) : (pinReset s).chip.resetHeld = true ∧ (pinReset s).chip.resetHigh = false ∧
    (pinReset s).chip.resetCause = 1 ∧ (pinReset s).chip.resetCount = satInc s.chip.resetCount 0xFFFF ∧
    (pinReset s).chip.mainRun = false ∧ (pinReset s).chip.imageApplied = false ∧ (pinReset s).dt = s.dt ∧
    (pinReset s).time.pllLocked = s.time.pllLocked ∧ (pinReset s).faults.unclear3 = s.faults.unclear3 ∧
    (pinReset s).faults.safeState = false ∧ (pinReset s).faults.errLevel = s.faults.errLevel ∧
    (pinReset s).lsu = { s.lsu with safeState := false } ∧ (pinReset s).store.table = [] ∧
    ∀ k, (pinReset s).tile k = s.tile k :=
  ⟨rfl, rfl, rfl, rfl, rfl, rfl, rfl, rfl, rfl, rfl, rfl, rfl, rfl, fun _ => rfl⟩

/-- The bytes of the banks outlive a warm reset. -/
theorem pinReset_get {s : State} (hs : MemForm s) {x : Nat} (hx : x < 2 ^ 25) : (pinReset s).mem.get x = s.mem.get x :=
  byteGet_filter ((Memory.wf_iff s.mem).1 hs).1 fun _ => decide_eq_true hx

theorem resetCtrlWrite_resets {s : State} (hpor : s.chip.por = false) :
    exec (.resetCtrlWrite 0x5EE7#32) s = .next (warmReset s 2) := by
  change Host.Outcome.next (resetCtrl s 0x5EE7#32) = _
  rw [resetCtrl, if_pos (by simp [hpor])]

theorem resetCtrlWrite_other (s : State) {v : Word32} (hv : v ≠ 0x5EE7#32) : exec (.resetCtrlWrite v) s = .next s := by
  change Host.Outcome.next (resetCtrl s v) = _
  rw [resetCtrl, if_neg (by simp [hv])]

theorem warmReset_cause (s : State) : (warmReset s 2).chip.resetCause = 2 ∧
    pinReset s = { warmReset s 2 with chip := { (warmReset s 2).chip with resetCause := 1, resetHigh := false } } :=
  ⟨rfl, rfl⟩

/-! ## Reports of the always-on island (R445, R496) -/

/-- A report of the always-on island that follows a change of start-up: the change stands and the record waits. -/
theorem aonReport_after {s s1 : State} {code d0 : Nat} (s0 : State) (hdown : s1.chip.mainRun = false) (hsev : severityOf code ≠ 3)
    (hnew : findMerge s1.faults.aonPending { code, source := srcAon, detail0 := d0 } s1.dt = none)
    (hs1 : s1.dt = s.dt) :
    (∀ {α : Type} (f : Chip → α), (∀ u, f u = f { u with
      otp := {}, digestBusy := false, digestAgain := false, digestCurrent := false, restart := {} }) →
      f (after s0 (s1.report code srcAon d0)).chip = f s1.chip) ∧
    ∃ f ∈ (after s0 (s1.report code srcAon d0)).faults.aonPending, f.code = code ∧ f.detail0 = d0 ∧ f.time = s.dt := by
  have hreport : s1.report code srcAon d0 = recordAon s1 { code, source := srcAon, detail0 := d0 } (severityOf code) false :=
    report_waits hdown rfl hsev hnew
  obtain ⟨f, hf, hcode, hdetail, htime⟩ :=
    recordAon_pending s1 { code, source := srcAon, detail0 := d0 } (severityOf code) false
  rw [hreport]
  refine ⟨fun g hg => after_chip_any g hg .., f, ?_, hcode, hdetail, htime.trans hs1⟩
  rw [after_faults_field (·.aonPending) (fun _ => rfl)]
  exact hf

theorem resetHeldExpire_reports {s : State} (hdown : s.chip.mainRun = false) (hheld : s.chip.resetHeld = true)
    (hfirst : s.chip.heldReported = false) (hover : s.chip.heldSince + secTicks ≤ s.dt)
    (hnew : findMerge s.faults.aonPending { code := 0x00C2, source := srcAon } s.dt = none) :
    ∃ t, exec .resetHeldExpire s = .next t ∧ t.chip.heldReported = true ∧
      ∃ f ∈ t.faults.aonPending, f.code = 0x00C2 ∧ f.time = s.dt := by
  obtain ⟨hchip, f, hf, hcode, -, htime⟩ := aonReport_after (s := s)
    (s1 := { s with chip := { s.chip with heldReported := true } }) s hdown (by decide) hnew rfl
  exact ⟨_, if_pos (by simp [hheld, hfirst, hover]), hchip (·.heldReported) fun _ => rfl, f, hf, hcode, htime⟩

theorem mainSupplyFault_reports {s : State} {m : Nat} (hpor : s.chip.por = false)
    (hnew : findMerge s.faults.aonPending { code := 0x00C3, source := srcAon, detail0 := m } s.dt = none) :
    ∃ t, exec (.mainSupplyFault m) s = .next t ∧ t.chip.mainPower = false ∧ t.chip.resetCause = 3 ∧ t.chip.mainRun = false ∧
      ∃ f ∈ t.faults.aonPending, f.code = 0x00C3 ∧ f.detail0 = m := by
  obtain ⟨hchip, f, hf, hcode, hdetail, -⟩ := aonReport_after (s := s)
    (s1 := { warmReset s 3 with chip := { (warmReset s 3).chip with mainPower := false } }) s rfl (by decide) hnew rfl
  exact ⟨_, if_neg (by simp [hpor]), hchip (·.mainPower) fun _ => rfl, hchip (·.resetCause) fun _ => rfl,
    hchip (·.mainRun) fun _ => rfl, f, hf, hcode, hdetail⟩

theorem mainSupplyGood_powers {s : State} (hpor : s.chip.por = false) :
    exec .mainSupplyGood s = .next { s with chip := { s.chip with mainPower := true } } := by
  change Host.Outcome.next _ = _
  rw [if_neg (by simp [hpor])]

/-- Settles O58. -/
theorem resetRowsComplete : Obligations.ResetRowsComplete := by
  unfold Obligations.ResetRowsComplete
  refine ⟨fun c s hc => ⟨_, porN_resets s hc, porReset_clears s⟩, fun s => ⟨_, rfl, rfl⟩,
    fun s hpor => ⟨_, porNRelease_releases hpor, rfl⟩, fun n s hpor => ⟨warmReset_short, fun hn => ?_, fun hlo hhi => ?_, ?_,
      fun v => resetCtrlWrite_other s⟩,
    fun s hdown hheld hfirst hover hnew => resetHeldExpire_reports hdown hheld hfirst hover hnew,
    fun m s hpor hnew => mainSupplyFault_reports hpor hnew, fun s hpor => ⟨_, mainSupplyGood_powers hpor, rfl⟩⟩
  · obtain ⟨h1, h2, h3, h4, h5, h6, h7, h8, h9, h10, h11, h12, h13, h14⟩ := pinReset_state s
    exact ⟨_, warmReset_long hpor hn, h1, h2, h3, h4, h5, h6, h7, h8, h9, h10, h11, h12, h13, h14,
      fun x hx hs => pinReset_get hs hx⟩
  · obtain ⟨t, hexec, ht⟩ := warmReset_between hpor hlo hhi
    exact ⟨t, _, hexec, warmReset_long hpor (Nat.le_refl _), ht⟩
  · exact ⟨_, _, resetCtrlWrite_resets hpor, warmReset_long hpor (Nat.le_refl _), warmReset_cause s⟩

end Sys2Proof.Safety

/-! Start-up (R437, R443, R452 to R463): the image as it is read, the surfaces and the restart record, and what adoption keeps of
their progress. -/

namespace Sys2Proof.Machine

set_option Elab.async false

/-- Start-up as adoption and the resolution of tokens leave it: all but their own notes and what follows any command. -/
def Chip.settled (c : Chip) : Chip :=
  { c with
    otp := {}, digestBusy := false, digestAgain := false, digestCurrent := false, restart := {}
    resolvedMoves := [], strays := [], restored := [], restartConns := 0, restartApplied := 0, restartReverted := 0 }

/-- From `s` to `t` start-up has made no progress, and without strays the connection table is as it was. -/
def State.StartKept (s t : State) : Prop :=
  t.chip.settled = s.chip.settled ∧ (s.chip.strays = [] → t.chip.strays = [] ∧ t.store.table = s.store.table)

end Sys2Proof.Machine

namespace Sys2Proof.Safety

set_option Elab.async false

open Sys2Proof.Machine

/-! ## What adoption keeps of start-up -/

section kept
variable {s t u : State}

theorem startKept_refl (s : State) : s.StartKept s := ⟨rfl, fun h => ⟨h, rfl⟩⟩

theorem startKept_trans (hst : s.StartKept t) (htu : t.StartKept u) : s.StartKept u :=
  ⟨htu.1.trans hst.1, fun h => ⟨(htu.2 (hst.2 h).1).1, (htu.2 (hst.2 h).1).2.trans (hst.2 h).2⟩⟩

theorem Only.settled_eq {P : List Part} (h : Only P s t) (hp : .chip ∉ P) : t.chip.settled = s.chip.settled :=
  h.chip_field hp Chip.settled fun _ => rfl

theorem Only.startKept {P : List Part} (h : Only P s t) (hp : .chip ∉ P) (hstore : .store ∉ P) : s.StartKept t :=
  ⟨h.settled_eq hp, fun hs => ⟨(h.chip_field hp (·.strays) fun _ => rfl).trans hs, congrArg Store.table (h .store hstore)⟩⟩

theorem reconstruct_settled (s : State) : (reconstruct s).chip.settled = s.chip.settled := rfl

theorem adoptionFollowed_startKept (s : State) (t : Nat) (otherId : Bool) : s.StartKept (adoptionFollowed s t otherId) := by
  unfold adoptionFollowed
  dsimp only
  have hbus : Only [.out, .smu, .links] s (if s.smu.bus.place.any (·.1 == t) && s.smu.busLostAt.isSome then freeBus s else s) :=
    .ite (freeBus_only (.refl _ s) (List.Subset.refl _)) (.refl _ s)
  generalize (if s.smu.bus.place.any (·.1 == t) && s.smu.busLostAt.isSome then freeBus s else s) = u at hbus
  have hqueue : Only [.calRuns] u (if otherId || u.tileRecBad t then queueRun none none u (.channel, t) else u) :=
    .ite (queueRun_only (.refl _ u) (List.Subset.refl _) _ _ _) (.refl _ u)
  generalize (if otherId || u.tileRecBad t then queueRun none none u (.channel, t) else u) = v at hqueue
  have hforgot : s.StartKept (movesForgotten v t) :=
    startKept_trans (startKept_trans (hbus.startKept (by decide) (by decide)) (hqueue.startKept (by decide) (by decide)))
      ⟨rfl, fun h => ⟨h, rfl⟩⟩
  generalize movesForgotten v t = w at hforgot
  refine startKept_trans (t := if w.chip.strays.isEmpty then w else reconstruct w) ?_
    ((calTempTrigger_only (.refl _ _) (List.Subset.refl _) t).startKept (by decide) (by decide))
  split
  next => exact hforgot
  next hne => exact ⟨(reconstruct_settled w).trans hforgot.1, fun hs => absurd (by rw [(hforgot.2 hs).1]; rfl) hne⟩

theorem finishAdoption_startKept (s : State) (t : Nat) (moved : List Nat) : s.StartKept (finishAdoption s t moved) := by
  obtain ⟨otherId, h⟩ := finishAdoption_eq s t moved
  have hadopted : Only [.elems, .links, .out] s (tileAdopted s t moved) :=
    (State.modLink_only ((elemsAdopted_only s t moved).mono (by decide)) (by decide) t _).trans
      ((epochTold_only _ t _).mono (by decide))
  rw [h]
  exact startKept_trans (hadopted.startKept (by decide) (by decide)) (adoptionFollowed_startKept ..)

theorem tryAdopt_startKept (h : s.mate.takeover ≠ .adopting) (k : Nat) : s.StartKept (tryAdopt s k) := by
  rw [tryAdopt_eq h]
  split
  · split
    · exact finishAdoption_startKept ..
    · exact (quarantine_only (.refl _ s) (List.Subset.refl _) k).startKept (by decide) (by decide)
  · exact startKept_refl s

theorem tryAdopts_startKept (ks : List Nat) (h : s.mate.takeover ≠ .adopting) :
    s.StartKept (ks.foldl tryAdopt s) := by
  induction ks generalizing s with
  | nil => exact startKept_refl s
  | cons k ks ih =>
    have htakeover : (tryAdopt s k).mate.takeover ≠ .adopting := by
      rwa [(tryAdopt_writes h k).takeover_eq (by decide)]
    exact startKept_trans (tryAdopt_startKept h k) (ih htakeover)

end kept

/-! ## The restart record (R459) -/

theorem resolveRecorded_settled (s : State) (l : Launch) : (resolveRecorded s l).chip.settled = s.chip.settled := by
  have htile : ∀ (u : State) (k : Nat), (resolveTile l u k).chip.settled = u.chip.settled := fun u k => by
    have hresult := setTileResult_only (P := [.store, .links]) (.refl _ u) (by decide) l.serial k (u.tokenResult l.serial k)
    unfold resolveTile
    dsimp only
    split
    · split
      · exact (noteSerial_only hresult (by decide) l k).settled_eq (by decide)
      · exact (State.modLink_only hresult (by decide) k _).settled_eq (by decide)
    · exact hresult.settled_eq (by decide)
  have htoken : (resolveToken s l).chip.settled = s.chip.settled := by
    unfold resolveToken
    refine ((checkSettle_only (.refl _ _) (List.Subset.refl _) l.serial).settled_eq (by decide)).trans ?_
    exact List.foldlRecOn (motive := fun u : State => u.chip.settled = s.chip.settled) _ _ rfl
      fun u hu k _ => (htile u k).trans hu
  exact htoken

/-- What the record says of the tiles is entered in their links. -/
theorem recordedTiles_only (l : List (Nat × Nat × Serial × Option Nat)) (s : State) : Only [.links] s
    (l.foldl (fun (s : State) x => s.modLink x.1 fun k => { k with
      epoch := x.2.1, lastSerial := x.2.2.1, idHeld := x.2.2.2, known := true }) s) :=
  .foldl (.refl _ s) fun _ _ h => State.modLink_only h (by decide) _ _

/-- The record is used: the mode is noted, start-up has made no other progress. -/
theorem useRecord_settled (s : State) : (useRecord s).chip.settled = { s.chip.settled with restartMode := 1 } := by
  have htokens : ∀ (l : List Launch) (u : State), (l.foldl resolveRecorded u).chip.settled = u.chip.settled := fun l u =>
    List.foldlRecOn (motive := fun v : State => v.chip.settled = u.chip.settled) _ _ rfl
      fun v hv x _ => (resolveRecorded_settled v x).trans hv
  exact (htokens _ _).trans ((recordedTiles_only _ _).settled_eq (by decide))

/-- A record without tokens gives its table as it is, and no stray. -/
theorem useRecord_table {s : State} (htokens : s.chip.restart.tokens = []) :
    (useRecord s).store.table = s.chip.restart.table.map (fun x => (x.1, x.2.map restoredConn)) ∧
      (useRecord s).chip.strays = s.chip.strays := by
  unfold useRecord
  dsimp only
  rw [htokens]
  exact ⟨congrArg Store.table (recordedTiles_only _ _ .store (by decide)),
    (recordedTiles_only _ _).chip_field (by decide) (·.strays) fun _ => rfl⟩

/-! ## RESTART_RESOLVE (R459, R460) -/

/-- The table as the record, or as the held drives show it. -/
def tableResolved (s : State) : State :=
  if s.recordUsable then useRecord s else reconstruct { s with chip := { s.chip with restartMode := 2 } }

theorem tableResolved_settled (s : State) :
    (tableResolved s).chip.settled = { s.chip.settled with restartMode := if s.recordUsable then 1 else 2 } := by
  unfold tableResolved
  split
  · exact useRecord_settled s
  · rfl

theorem tableResolved_takeover (s : State) : (tableResolved s).mate.takeover = s.mate.takeover := by
  have hrecord := useRecord_only (P := [.out, .issues, .owed, .store, .elems, .links, .chip]) (.refl _ s) (List.Subset.refl _)
  unfold tableResolved
  split
  · exact hrecord.takeover_eq (by decide)
  · rfl

theorem restartResolve_resolves {s : State} (htakeover : s.mate.takeover ≠ .adopting) (himage : s.chip.imageApplied = true)
    (hddr : s.ddrReady = true) (hset : s.chip.setChecked = true) (hopen : s.chip.resolved = false)
    (htokens : s.issuesTokens = true)
    (hwait : s.chip.ddrAt + s.img.restartWait * msTicks ≤ s.dt ∨ s.restartTiles.all s.restartAnswered = true) :
    ∃ t, exec .restartResolve s = .next t ∧ t.chip.resolved = true ∧ t.chip.restartMode = (if s.recordUsable then 1 else 2) ∧
      (s.recordUsable = true → s.chip.restart.tokens = [] → s.chip.strays = [] →
        t.store.table = s.chip.restart.table.map fun x => (x.1, x.2.map fun c => { c with handle := 0xFFF })) := by
  let s1 : State := { tableResolved s with chip := { (tableResolved s).chip with resolved := true } }
  have hs1 : s1.chip.settled = { (tableResolved s).chip.settled with resolved := true } := rfl
  have hkept : s1.StartKept (tryAdoptAll s1) :=
    tryAdopts_startKept _ (by rwa [show s1.mate.takeover = _ from tableResolved_takeover s])
  have hsettled : (tryAdoptAll s1).chip.settled =
      { s.chip.settled with restartMode := if s.recordUsable then 1 else 2, resolved := true } := by
    rw [hkept.1, hs1, tableResolved_settled]
  have hexec : exec .restartResolve s = .next (after s (tryAdoptAll s1)) :=
    if_neg (by rcases hwait with h | h <;> simp [himage, hddr, hset, hopen, htokens, h])
  refine ⟨_, hexec, ?_, ?_, fun husable htok hstrays => ?_⟩
  · rw [after_chip_any (·.resolved) fun _ => rfl]
    exact congrArg Chip.resolved hsettled
  · rw [after_chip_any (·.restartMode) fun _ => rfl]
    exact congrArg Chip.restartMode hsettled
  · have hrecord : tableResolved s = useRecord s := if_pos husable
    obtain ⟨htable, hsame⟩ := useRecord_table htok
    have hnone : s1.chip.strays = [] := by
      rw [show s1.chip.strays = (tableResolved s).chip.strays from rfl, hrecord, hsame, hstrays]
    rw [after_store, (hkept.2 hnone).2, show s1.store = (tableResolved s).store from rfl, hrecord, htable]
    rfl

/-! ## Surfaces (R463) -/

theorem expandElem_calEntry (s : State) (e k : Nat) : (expandElem s e).calEntry k = s.calEntry k := by
  unfold expandElem
  split <;> rfl

/-- The element is as its calibration entry has it. -/
def State.ExpandedAs (s : State) (e : Nat) (x : Elem) : Prop :=
  x.st = (if (s.calEntry e).isSome then .darkOff else .uncal) ∧ x.entryValid = (s.calEntry e).isSome

theorem expandElem_same (s : State) (e : Nat) : State.ExpandedAs s e ((expandElem s e).elem e) := by
  unfold expandElem State.ExpandedAs
  split
  next h => rw [State.modElem_same, h]; exact ⟨rfl, rfl⟩
  next h => rw [State.modElem_same, h]; exact ⟨rfl, rfl⟩

theorem expandElem_other (s : State) {e k : Nat} (hk : k ≠ e) : (expandElem s e).elem k = s.elem k := by
  unfold expandElem
  split
  · exact State.modElem_other _ _ _ hk
  · exact State.modElem_other _ _ _ hk

theorem expandElems_elem (es : List Nat) {s : State} {e : Nat} (h : e ∈ es ∨ State.ExpandedAs s e (s.elem e)) :
    State.ExpandedAs s e ((es.foldl expandElem s).elem e) := by
  induction es generalizing s with
  | nil => exact h.resolve_left List.not_mem_nil
  | cons k es ih =>
    have hentry : ∀ x, State.ExpandedAs (expandElem s k) e x ↔ State.ExpandedAs s e x := fun x => by
      rw [State.ExpandedAs, expandElem_calEntry, State.ExpandedAs]
    refine (hentry _).1 (ih ?_)
    by_cases hk : e = k
    · subst hk
      exact .inr ((hentry _).2 (expandElem_same s e))
    · rw [expandElem_other s hk]
      exact h.imp (fun hm => (List.mem_cons.1 hm).resolve_left hk) (hentry _).2

theorem expandElems_only (es : List Nat) (s : State) : Only [.elems] s (es.foldl expandElem s) :=
  .foldl (.refl _ s) fun _ k h => expandElem_only h (List.Subset.refl _) k

/-- SURFACE_EXPAND_DONE sets the tile's elements up and adopts the tile where it can. -/
theorem surfaceExpandDone_eq {s : State} {k : Nat} (hset : s.chip.setChecked = true)
    (hnext : (s.expandOrder.filter fun t => !s.chip.expanded.contains t).head? = some k) :
    ∃ u, Only [.elems] s u ∧ (∀ e ∈ tileEids k, State.ExpandedAs s e (u.elem e)) ∧ exec (.surfaceExpandDone k) s =
      .next (after s (tryAdopt { u with chip := { u.chip with expanded := u.chip.expanded ++ [k] } } k)) :=
  ⟨_, expandElems_only (tileEids k) s, fun _ he => expandElems_elem (tileEids k) (.inl he),
    if_neg (by rw [hset, hnext]; simp)⟩

theorem tryAdopt_expanded {s u : State} {k : Nat} (hu : Only [.elems] s u) (htakeover : s.mate.takeover ≠ .adopting) :
    (tryAdopt { u with chip := { u.chip with expanded := u.chip.expanded ++ [k] } } k).chip.expanded =
      s.chip.expanded ++ [k] := by
  have hbefore : u.chip.expanded = s.chip.expanded := hu.chip_field (by decide) (·.expanded) fun _ => rfl
  have hidle : u.mate.takeover ≠ .adopting := by rwa [hu.takeover_eq (by decide)]
  have hsame := congrArg Chip.expanded
    (tryAdopt_startKept (s := { u with chip := { u.chip with expanded := u.chip.expanded ++ [k] } }) hidle k).1
  exact hsame.trans (congrArg (· ++ [k]) hbefore)

theorem after_elem_of_not_adopting {s u : State} {k : Nat} (hq : Quiet s) (hu : Only [.elems] s u)
    (hadopt : (s.link k).tile ≠ .adopting) (x : Chip) (e : Nat) :
    (after s (tryAdopt { u with chip := x } k)).elem e = u.elem e := by
  have hlink : u.link k = s.link k := hu.link_eq (by decide) k
  have hready : ¬ State.adoptReady { u with chip := x } k = true := by
    simp [State.adoptReady, show ({ u with chip := x } : State).link k = u.link k from rfl, hlink, hadopt]
  rw [show tryAdopt { u with chip := x } k = _ from if_neg hready]
  exact after_elem (s := { u with chip := x }) ((hu .handover (by decide)).trans hq.1)
    ((hu .resumes (by decide)).trans hq.2) _ _

theorem surfaceExpandDone_expands {s : State} {k : Nat} (hq : Quiet s) (htakeover : s.mate.takeover ≠ .adopting)
    (hset : s.chip.setChecked = true) (hnext : (s.expandOrder.filter fun t => !s.chip.expanded.contains t).head? = some k) :
    ∃ t, exec (.surfaceExpandDone k) s = .next t ∧ t.chip.expanded = s.chip.expanded ++ [k] ∧
      ((s.link k).tile ≠ .adopting → ∀ e ∈ tileEids k, (t.elem e).st = (if (s.calEntry e).isSome then .darkOff else .uncal) ∧
        (t.elem e).entryValid = (s.calEntry e).isSome) := by
  obtain ⟨u, honly, helem, hexec⟩ := surfaceExpandDone_eq hset hnext
  refine ⟨_, hexec, ?_, fun hadopt e he => ?_⟩
  · rw [after_chip_any (·.expanded) fun _ => rfl]
    exact tryAdopt_expanded honly htakeover
  · rw [after_elem_of_not_adopting hq honly hadopt]
    exact helem e he

/-! ## The image as it is read (R452, R453, R455) -/

theorem flashImage_retries {s : State} {i : FlashImage} (hmain : s.chip.mainRun = true) (hreading : s.chip.imageReading = true)
    (hsfdp : i.sfdpOk = true) (hread : i.readOk = false) (hfirst : s.chip.readRetried = false) :
    exec (.flashImageReadDone i) s = .next { s with chip := { s.chip with readRetried := true } } := by
  change execFlashImageReadDone i s = _
  unfold execFlashImageReadDone
  rw [if_neg (by simp [hmain, hreading]), if_pos (by simp [hsfdp, hread, hfirst])]

/-- An image that is read goes to the checks with its owner certificate taken. -/
theorem flashImage_checked {s : State} {i : FlashImage} (hmain : s.chip.mainRun = true) (hreading : s.chip.imageReading = true)
    (hread : i.readOk = true ∨ s.chip.readRetried = true ∨ i.sfdpOk = false) :
    ∃ u : State, (∃ cert valid, u = { s with chip := { s.chip with ownerCert := cert, ownerValid := valid } }) ∧
      (∀ c, firstFail s.chip.otp i = some c → exec (.flashImageReadDone i) s = ok s (refuseImage u c)) ∧
      (firstFail s.chip.otp i = none → exec (.flashImageReadDone i) s = ok s (applyImage u i.content)) := by
  let good := i.ownerCertOk && !i.ownerCert.isEmpty && decide (i.ownerCert.length ≤ 640)
  refine ⟨_, ⟨if good then i.ownerCert else [], good, rfl⟩, fun c hfail => ?_, fun hpass => ?_⟩
  · change execFlashImageReadDone i s = _
    unfold execFlashImageReadDone
    rw [if_neg (by simp [hmain, hreading]), if_neg (by rcases hread with h | h | h <;> simp [h]), hfail]
  · change execFlashImageReadDone i s = _
    unfold execFlashImageReadDone
    rw [if_neg (by simp [hmain, hreading]), if_neg (by rcases hread with h | h | h <;> simp [h]), hpass]

theorem flashImage_refused {s : State} {i : FlashImage} {c : Check} (hmain : s.chip.mainRun = true)
    (hreading : s.chip.imageReading = true) (hfail : firstFail s.chip.otp i = some c)
    (hread : i.readOk = true ∨ s.chip.readRetried = true ∨ i.sfdpOk = false) :
    ∃ t, exec (.flashImageReadDone i) s = .next t ∧ t.chip.heldFabric = true ∧ t.chip.imageApplied = s.chip.imageApplied ∧
      t.chip.imageResult = c.code ∧ t.chip.imageSection = c.section_ ∧ t.chip.imageRecord = c.record ∧
      (Reportable s 0x00C0 srcMgmt c.code → NewRecord s t 0x00C0 srcMgmt c.code) := by
  obtain ⟨v, ⟨cert, valid, rfl⟩, hchecked, -⟩ := flashImage_checked hmain hreading hread
  let u : State := { s with chip := { s.chip with
    ownerCert := cert, ownerValid := valid, imageReading := false, imageResult := c.code, imageSection := c.section_
    imageRecord := c.record, heldFabric := true } }
  have hexec : exec (.flashImageReadDone i) s = .next (after s (u.report 0x00C0 srcMgmt c.code)) := by
    rw [hchecked c hfail]
    rfl
  have hchip : ∀ {α : Type} (f : Chip → α), (∀ x, f x = f { x with
      otp := {}, digestBusy := false, digestAgain := false, digestCurrent := false, restart := {} }) →
      f (after s (u.report 0x00C0 srcMgmt c.code)).chip = f u.chip := fun f hf =>
    (after_chip_any f hf ..).trans ((report_minor (by decide) srcMgmt c.code 0).chip_field (by decide) f hf)
  exact ⟨_, hexec, hchip (·.heldFabric) fun _ => rfl, hchip (·.imageApplied) fun _ => rfl, hchip (·.imageResult) fun _ => rfl,
    hchip (·.imageSection) fun _ => rfl, hchip (·.imageRecord) fun _ => rfl,
    fun hrep => after_newRecord (report_record (s := u) hrep 0) s⟩

theorem tabGet_foldl_tabSet {α : Type} (d v : α) {k : Nat} (ks : List Nat) {t : Tab α} (h : k ∈ ks ∨ tabGet t d k = v) :
    tabGet (ks.foldl (fun t n => tabSet t n v) t) d k = v := by
  induction ks generalizing t with
  | nil => exact h.resolve_left List.not_mem_nil
  | cons n ks ih =>
    refine ih ?_
    by_cases hk : k = n
    · subst hk
      exact .inr (tabGet_tabSet_same ..)
    · rw [tabGet_tabSet_other _ _ _ hk]
      exact h.imp_left fun hm => (List.mem_cons.1 hm).resolve_left hk

/-- What an image that passes sets. -/
theorem applyImage_sets (s : State) (i : Image) : (applyImage s i).chip.imageApplied = true ∧ (applyImage s i).chip.image = i ∧
    (applyImage s i).chip.imageReading = false ∧ (applyImage s i).comma.linkShare = i.linkShare ∧
    (applyImage s i).comma.loopShare = i.loopShare ∧
    (applyImage s i).mate.role = (if i.mateEnable then .starting else .alone) ∧
    ∀ n, n < 16 → (applyImage s i).region n = { clockOk := true } := by
  have hmeters : ∀ u : State, Only [.lsu, .adm] u (deliverBlock (i.meters.foldl (fun (s : State) x =>
      s.setMeter x.1 x.2.1 (fullMeter x.2.2 s.dt)) u) i.safety) := fun u =>
    deliverBlock_only (.foldl (.refl _ u) fun _ _ h => State.setMeter_only h (by decide) _ _ _) (by decide) _
  unfold applyImage
  dsimp only
  refine ⟨(hmeters _).chip_field (by decide) (·.imageApplied) fun _ => rfl, (hmeters _).chip_field (by decide) (·.image) fun _ => rfl,
    (hmeters _).chip_field (by decide) (·.imageReading) fun _ => rfl, congrArg Comma.linkShare (hmeters _ .comma (by decide)),
    congrArg Comma.loopShare (hmeters _ .comma (by decide)), (hmeters _).mate_field (by decide) (·.role) fun _ => rfl,
    fun n hn => ?_⟩
  rw [State.region, show (deliverBlock _ i.safety).regions = _ from hmeters _ .regions (by decide)]
  exact tabGet_foldl_tabSet _ _ _ (.inl (List.mem_range.2 hn))

/-! ## Regions under what follows a command -/

theorem endResuming_idle {s : State} (h : ∀ n, n < 16 → (s.region n).resuming = false) : endResuming s = s := by
  unfold endResuming
  rw [List.filter_eq_nil_iff.2 fun n hn => by simp [h n (List.mem_range.1 hn)]]
  rfl

/-- Where no region is being resumed, what follows a command leaves the regions alone. -/
theorem after_regions_of_not_resuming {s : State} (h : ∀ n, n < 16 → (s.region n).resuming = false) (s0 : State) :
    (after s0 s).regions = s.regions := by
  have hhand : (handoverStep s).regions = s.regions := handoverStep_only (.refl _ s) (List.Subset.refl _) .regions (by decide)
  have hresume : (resumeStep (handoverStep s)).regions = s.regions := by
    refine List.foldlRecOn (motive := fun u : State => u.regions = s.regions) _ _ hhand fun u hu r _ => ?_
    have hidle : endResuming u = u := endResuming_idle fun n hn => by rw [State.region, hu]; exact h n hn
    dsimp only
    split
    · rw [hidle]
      exact (State.complete_only (.refl _ _) (List.Subset.refl _) _ _ _ _ .regions (by decide)).trans hu
    · exact hu
  have hrest : Only background (resumeStep (handoverStep s)) (after s0 s) :=
    State.lsuNotify_only (regionNotify_only (mateNotify_only (peerNotify_only (timeNotify_only (mirrorTouch_only
      (digestTouch_only (recordTouch_only (.refl _ _) (by decide)) (by decide) s0) (by decide) s0) (by decide) s0)
      (by decide) s0) (by decide) s0) (by decide) s0) (by decide) _
  exact (hrest .regions (by decide)).trans hresume

theorem flashImage_applied {s : State} {i : FlashImage} (hmain : s.chip.mainRun = true) (hreading : s.chip.imageReading = true)
    (hpass : firstFail s.chip.otp i = none) (hread : i.readOk = true) :
    ∃ t, exec (.flashImageReadDone i) s = .next t ∧ t.chip.imageApplied = true ∧
      t.chip.image = i.content ∧ t.chip.imageReading = false ∧ t.comma.linkShare = i.content.linkShare ∧
      t.comma.loopShare = i.content.loopShare ∧ t.mate.role = (if i.content.mateEnable then .starting else .alone) ∧
      ∀ n, n < 16 → t.region n = { clockOk := true } := by
  obtain ⟨u, -, -, happlies⟩ := flashImage_checked (i := i) hmain hreading (.inl hread)
  have hexec := happlies hpass
  obtain ⟨happlied, himage, hdone, hlink, hloop, hrole, hregions⟩ := applyImage_sets u i.content
  refine ⟨_, hexec, ?_, ?_, ?_, ?_, ?_, ?_, fun n hn => ?_⟩
  · rwa [after_chip_any (·.imageApplied) fun _ => rfl]
  · rwa [after_chip_any (·.image) fun _ => rfl]
  · rwa [after_chip_any (·.imageReading) fun _ => rfl]
  · rwa [after_comma]
  · rwa [after_comma]
  · rwa [(after_only (P := afterParts) (.refl _ _) (List.Subset.refl _) s).mate_field (by decide) (·.role) fun _ => rfl]
  · rw [State.region, after_regions_of_not_resuming fun k hk => by rw [hregions k hk]]
    exact hregions n hn

/-! ## The start of the main side, and READY (R437, R443, R456) -/

theorem adoptRecord_log (u : Faults) (f : FaultRec) : { f with seq := some u.nextSeq } ∈ (adoptRecord u f).log :=
  List.mem_append_right _ (List.mem_singleton_self _)

theorem mainStart_starts {s : State} (hpor : s.chip.por = false) (hdown : s.chip.mainRun = false) (hpower : s.chip.mainPower = true) :
    ∃ t, exec .mainStart s = .next t ∧ t.chip.mainRun = true ∧ t.chip.imageReading = true ∧ t.chip.resetHeld = false ∧
      t.faults.aonPending = [] ∧ (s.host.perst = false → t.host.bme = true) ∧
      ∀ f, s.faults.aonPending = [f] → ∃ g ∈ t.faults.log, g.seq = some s.faults.nextSeq ∧ g.code = f.code ∧ g.time = f.time := by
  refine ⟨_, if_neg (by simp [hpor, hdown, hpower]), rfl, rfl, rfl, rfl, fun hperst => ?_, fun f hf => ?_⟩
  · dsimp only
    rw [if_neg (by simp [hperst])]
    rfl
  · refine ⟨{ f with seq := some s.faults.nextSeq }, ?_, rfl, rfl, rfl⟩
    dsimp only
    rw [hf]
    exact adoptRecord_log s.faults f

theorem readyChange_sets {s : State} (hnew : BitVec.ofNat 32 s.readyNow ≠ s.chip.ready) :
    ∃ t, exec .readyChange s = .next t ∧ t.chip.ready = BitVec.ofNat 32 s.readyNow ∧
      (s.chip.mainRun = true → t.chip.readyEvent = s.chip.readyEvent ||| (BitVec.ofNat 32 s.readyNow ^^^ s.chip.ready)) := by
  refine ⟨_, if_neg hnew, ?_, fun hmain => ?_⟩
  · rw [after_chip_any (·.ready) fun _ => rfl]
    exact (State.msix_only (.refl _ _) (List.Subset.refl _) 17).chip_field (by decide) (·.ready) fun _ => rfl
  · rw [after_chip_any (·.readyEvent) fun _ => rfl]
    refine ((State.msix_only (.refl _ _) (List.Subset.refl _) 17).chip_field (by decide) (·.readyEvent) fun _ => rfl).trans ?_
    exact if_pos hmain

/-- Settles O59. -/
theorem startUpRowsComplete : Obligations.StartUpRowsComplete := by
  unfold Obligations.StartUpRowsComplete
  exact ⟨fun _ => mainStart_starts,
    fun _ _ hmain hreading => ⟨fun hsfdp hread hfirst => ⟨_, flashImage_retries hmain hreading hsfdp hread hfirst, rfl⟩,
      fun _ => flashImage_refused hmain hreading, flashImage_applied hmain hreading⟩,
    fun _ _ => surfaceExpandDone_expands, fun _ _ => restartResolve_resolves, fun _ => readyChange_sets⟩

end Sys2Proof.Safety


/-! # Dalovo sessions (O29): discovery, key agreement, the session and its ends (R333 to R336) -/

namespace Sys2Proof.Safety

set_option Elab.async false

open Sys2Proof.Machine

/-- What a fold's step for `b` brings about and every step keeps holds after a fold that visits `b`. -/
theorem foldl_reaches {σ β : Type} {f : σ → β → σ} {Q : σ → Prop} {b : β} (hset : ∀ u, Q (f u b))
    (hkeep : ∀ u x, Q u → Q (f u x)) (xs : List β) {s : σ} (h : b ∈ xs ∨ Q s) : Q (xs.foldl f s) := by
  induction xs generalizing s with
  | nil => exact h.resolve_left List.not_mem_nil
  | cons x xs ih =>
    refine ih ?_
    rcases h with h | h
    · rcases List.mem_cons.1 h with rfl | h
      · exact .inr (hset s)
      · exact .inl h
    · exact .inr (hkeep s x h)

/-! ## CLOSE (R336) -/

theorem frameReports_only (l : List UserFrame) (s : State) :
    Only [.owed] s (l.foldl (fun (s : State) f => frameReport s f stLateCancelled s.now) s) :=
  .foldl (.refl _ s) fun _ f h => frameReport_only h (List.Subset.refl _) f _ _

theorem frameReports_adm (l : List UserFrame) (s : State) :
    (l.foldl (fun (s : State) f => frameReport s f stLateCancelled s.now) s).adm = s.adm :=
  frameReports_only l s .adm (by decide)

/-- A session's end takes the session from its peer and the peer's timed frames from the queue. -/
theorem closeSession_adm (s : State) (p reason : Nat) (tell : Bool) : (closeSession s p reason tell).adm =
    { s.adm with
      queue := s.adm.queue.filter fun f => !(f.peer == p && f.timed.isSome)
      peers := tabSet s.adm.peers p { s.peer p with state := .absent, rxSeq := none, txSeq := 0, tagFails := [] } } := by
  unfold closeSession
  dsimp only
  generalize hu : (if (tell && (s.peer p).state == .up) = true then _ else s) = u
  have hadm : u.adm = s.adm := by rw [← hu]; split <;> rfl
  simp only [State.setPeer, State.peer, frameReports_adm, hadm]

theorem closeSession_out (s : State) (p reason : Nat) (tell : Bool) : ∃ b, (closeSession s p reason tell).out =
    s.out ++ if tell && (s.peer p).state == .up then
      [.siteFrame (s.peer p).port "CLOSE" [(s.peer p).session, (s.peer p).txSeq, b]] else [] := by
  refine ⟨bytesNat ((Config.sealBody (s.peer p).keys (s.peer p).txSeq (byteList 1 reason)).map (·.toNat)), ?_⟩
  unfold closeSession
  dsimp only
  generalize hu : (if (tell && (s.peer p).state == .up) = true then _ else s) = u
  refine (State.setPeer_out ..).trans ((frameReports_only _ _ .out (by decide)).trans ?_)
  change u.out = _
  rw [← hu]
  split
  · rfl
  · exact (List.append_nil _).symm

theorem closeSession_same (s : State) (p reason : Nat) (tell : Bool) :
    ((closeSession s p reason tell).peer p).state = .absent := by
  rw [State.peer, closeSession_adm, tabGet_tabSet_same]

theorem closeSession_other (s : State) (p reason : Nat) (tell : Bool) {k : Nat} (hk : k ≠ p) :
    (closeSession s p reason tell).peer k = s.peer k := by
  rw [State.peer, closeSession_adm, tabGet_tabSet_other _ _ _ hk, State.peer]

theorem dalovoClose_closes {p reason : Nat} {s : State} (hup : (s.peer p).state = .up) :
    ∃ t, exec (.dalovoClose p reason) s = .next t ∧ (t.peer p).state = .absent ∧ (∀ k, k ≠ p → t.peer k = s.peer k) ∧
      ∀ f ∈ t.adm.queue, f.peer = p → f.timed = none := by
  refine ⟨_, if_pos (by simp [hup]), ?_, fun k hk => ?_, fun f hf hpeer => ?_⟩
  · rw [after_peer, closeSession_same]
  · rw [after_peer, closeSession_other _ _ _ _ hk]
  · rw [after_adm, closeSession_adm] at hf
    simpa [hpeer] using (List.mem_filter.1 hf).2

theorem dalovoIdleTimeout_closes {p : Nat} {s : State} (hq : Quiet s) (hup : (s.peer p).state = .up)
    (hlate : (s.peer p).lastRx + 3500 * msTicks ≤ s.dt) :
    ∃ t b, exec (.dalovoIdleTimeout p) s = .next t ∧ (t.peer p).state = .absent ∧ (∀ k, k ≠ p → t.peer k = s.peer k) ∧
      Gives s t [.siteFrame (s.peer p).port "CLOSE" [(s.peer p).session, (s.peer p).txSeq, b]] := by
  obtain ⟨b, hout⟩ := closeSession_out s p 3 true
  have honly := closeSession_only (P := [.out, .owed, .adm]) (.refl _ s) (List.Subset.refl _) p 3 true
  refine ⟨_, b, if_pos (by simp [hup, hlate]), ?_, fun k hk => ?_, ?_⟩
  · rw [after_peer, closeSession_same]
  · rw [after_peer, closeSession_other _ _ _ _ hk]
  · refine after_gives (hout.trans ?_) ((honly .handover (by decide)).trans hq.1) ((honly .resumes (by decide)).trans hq.2) s
    rw [hup]
    rfl

/-! ## Discovery (R333) -/

theorem dalovoAnnounceSend_announces {port : Nat} {s : State} (hq : Quiet s) (hport : port < 2)
    (hup : s.sitePortUp port = true) (himage : s.chip.imageApplied = true) (hfirst : ∀ x ∈ s.adm.announced, x.1 ≠ port) :
    ∃ t l, exec (.dalovoAnnounceSend port) s = .next t ∧ tabGet t.adm.announced 0 port = s.dt ∧
      Gives s t [.siteFrame port "ANNOUNCE" l] := by
  have hnever : tabGet (s.adm.announced.map fun x => (x.1, some x.2)) none port = none :=
    tabGet_absent (fun _ hx => by obtain ⟨y, hy, rfl⟩ := List.mem_map.1 hx; exact hfirst y hy) _
  let u := State.emit { s with adm := { s.adm with announced := tabSet s.adm.announced port s.dt } }
    (.siteFrame port "ANNOUNCE" [s.chip.otp.identity, (sha256 s.chip.otp.deviceCert).toNat, port, b2n s.chip.ownerValid])
  have hexec : exec (.dalovoAnnounceSend port) s = .next (after s u) :=
    if_neg (by simp [hport, hup, himage, hnever])
  refine ⟨_, _, hexec, ?_, after_gives (s1 := u) rfl hq.1 hq.2 s⟩
  rw [after_adm]
  exact tabGet_tabSet_same ..

theorem dalovoAnnounceReceive_initiates {port src p : Nat} {o : Bool} {s : State} (hq : Quiet s)
    (hup : s.sitePortUp port = true) (himage : s.chip.imageApplied = true) (hpeer : s.peerOf src = some p)
    (hstate : (s.peer p).state = .absent ∨ (s.peer p).state = .seen) (hlower : s.chip.otp.identity < src) :
    ∃ t, exec (.dalovoAnnounceReceive port src o) s = .next t ∧ (t.peer p).state = .handshake ∧
      (t.peer p).initiator = true ∧ (t.peer p).deadline = s.dt + 100 * msTicks ∧ (∀ k, k ≠ p → t.peer k = s.peer k) ∧
      Gives s t [.siteFrame port "HELLO" [s.chip.otp.identity, src]] := by
  let u := (handshake s p port true id).emit (.siteFrame port "HELLO" [s.chip.otp.identity, src])
  have hexec : exec (.dalovoAnnounceReceive port src o) s = .next (after s u) := by
    change execDalovoAnnounceReceive port src o s = _
    unfold execDalovoAnnounceReceive
    rw [if_neg (by simp [hup, himage]), hpeer]
    exact (if_neg (by rcases hstate with h | h <;> simp [h])).trans (if_pos hlower)
  have hsame := (after_peer s u p).trans (State.setPeer_same ..)
  exact ⟨_, hexec, by rw [hsame]; rfl, by rw [hsame]; rfl, by rw [hsame]; rfl,
    fun k hk => (after_peer ..).trans (State.setPeer_other _ _ _ hk), after_gives (s1 := u) rfl hq.1 hq.2 s⟩

/-! ## Key agreement (R334, R335) -/

theorem dalovoHello_answers {f : HelloFrame} {p : Nat} {s : State} (hq : Quiet s) (htakes : s.takesHello f = true)
    (hpeer : s.peerOf f.srcId = some p) (hok : s.helloOk p f = true) (hdown : (s.peer p).state ≠ .up) :
    ∃ t, exec (.dalovoHello f) s = .next t ∧ (t.peer p).state = .handshake ∧ (t.peer p).initiator = false ∧
      (t.peer p).port = f.port ∧ (∀ k, k ≠ p → t.peer k = s.peer k) ∧
      Gives s t [.siteFrame f.port "HELLO_REPLY" [s.chip.otp.identity, f.srcId]] := by
  let keys := Config.sessionKeys f.body (byteList 4 s.chip.otp.identity)
  let u := (handshake s p f.port false fun x => { x with keys }).emit
    (.siteFrame f.port "HELLO_REPLY" [s.chip.otp.identity, f.srcId])
  have hexec : exec (.dalovoHello f) s = .next (after s u) := by
    change execDalovoHello f s = _
    unfold execDalovoHello
    rw [if_neg (by simp [htakes]), hpeer]
    dsimp only
    rw [if_neg (by simp [hok]), if_neg (by simpa using hdown)]
    rfl
  have hsame := (after_peer s u p).trans (State.setPeer_same ..)
  exact ⟨_, hexec, by rw [hsame], by rw [hsame], by rw [hsame],
    fun k hk => (after_peer ..).trans (State.setPeer_other _ _ _ hk), after_gives (s1 := u) rfl hq.1 hq.2 s⟩

theorem dalovoHelloReply_finishes {f : HelloFrame} {p : Nat} {s : State} (hq : Quiet s) (htakes : s.takesHello f = true)
    (hpeer : s.peerOf f.srcId = some p) (hok : s.helloOk p f = true) (hstate : (s.peer p).state = .handshake)
    (hinit : (s.peer p).initiator = true) (hport : (s.peer p).port = f.port) :
    ∃ t b, exec (.dalovoHelloReply f) s = .next t ∧ (t.peer p).session = s.adm.nextSession ∧
      t.adm.nextSession = s.adm.nextSession % (2 ^ 32 - 1) + 1 ∧ (∀ k, k ≠ p → t.peer k = s.peer k) ∧
      Gives s t [.siteFrame f.port "FINISH" [s.adm.nextSession, 0, b]] := by
  let keys := Config.sessionKeys (byteList 4 s.chip.otp.identity) f.body
  let u := handshake s p f.port true fun y => { y with keys, session := s.adm.nextSession, txSeq := 1 }
  let b := bytesNat ((Config.sealBody keys 0 f.body).map (·.toNat))
  let v := State.emit { u with adm := { u.adm with nextSession := s.adm.nextSession % (2 ^ 32 - 1) + 1 } }
    (.siteFrame f.port "FINISH" [s.adm.nextSession, 0, b])
  have hexec : exec (.dalovoHelloReply f) s = .next (after s v) := by
    change execDalovoHelloReply f s = _
    unfold execDalovoHelloReply
    rw [if_neg (by simp [htakes]), hpeer]
    dsimp only
    rw [if_neg (by simp [hstate, hinit, hport]), if_neg (by simp [hok])]
    rfl
  have hsame := (after_peer s v p).trans (State.setPeer_same ..)
  exact ⟨_, b, hexec, by rw [hsame], by rw [after_adm]; rfl,
    fun k hk => (after_peer ..).trans (State.setPeer_other _ _ _ hk), after_gives (s1 := v) rfl hq.1 hq.2 s⟩

theorem fillMeters_peer (s : State) (src k : Nat) : (fillMeters s src).peer k = s.peer k := by
  unfold fillMeters
  exact List.foldlRecOn (motive := fun u : State => u.peer k = s.peer k) _ _ rfl fun _ h _ _ => h

theorem sessionUp_same (s : State) (p : Nat) : (sessionUp s p).peer p =
    { s.peer p with state := .up, upSince := s.dt, lastRx := s.dt, tagFails := [] } :=
  (fillMeters_peer ..).trans (State.setPeer_same ..)

theorem sessionUp_other (s : State) (p : Nat) {k : Nat} (hk : k ≠ p) : (sessionUp s p).peer k = s.peer k :=
  (fillMeters_peer ..).trans (State.setPeer_other _ _ _ hk)

theorem dalovoFinish_answers {h : DvHead} {p : Nat} {s : State} (hq : Quiet s) (hpeer : s.peerOf h.srcId = some p)
    (hstate : (s.peer p).state = .handshake) (hport : (s.peer p).port = h.port) (hup : s.sitePortUp h.port = true)
    (hinit : (s.peer p).initiator = false) (hversion : h.version = 1) (hlength : h.lengthOk = true) (htag : h.tagOk = true)
    (hseq : h.seq = 0) :
    ∃ t, exec (.dalovoFinish h true) s = .next t ∧ (t.peer p).state = .up ∧ (t.peer p).session = h.session ∧
      (t.peer p).upSince = s.dt ∧ (∀ k, k ≠ p → t.peer k = s.peer k) ∧
      Gives s t [.siteFrame h.port "FINISH" [h.session, 0]] := by
  let u := (s.setPeer p { s.peer p with session := h.session, rxSeq := some 0, txSeq := 1 }).emit
    (.siteFrame (s.peer p).port "FINISH" [h.session, 0])
  have hexec : exec (.dalovoFinish h true) s = .next (after s (sessionUp u p)) := by
    change execDalovoFinish h true s = _
    unfold execDalovoFinish
    rw [hpeer]
    dsimp only
    rw [if_neg (by simp [hstate, hport, hup, hinit]), if_neg (by simp [hversion, hlength, htag]), if_neg (by simp [hseq]),
      if_neg (by simp), if_neg (by simp [hinit])]
    rfl
  have honly := sessionUp_only (P := [.adm]) (.refl _ u) (List.Subset.refl _) p
  have hsame : (after s (sessionUp u p)).peer p = _ := (after_peer ..).trans (sessionUp_same u p)
  refine ⟨_, hexec, by rw [hsame], ?_, by rw [hsame]; rfl, fun k hk => ?_, ?_⟩
  · rw [hsame]
    exact congrArg Peer.session (State.setPeer_same s p _)
  · rw [after_peer, sessionUp_other u p hk]
    exact State.setPeer_other _ _ _ hk
  · rw [← hport]
    exact after_gives (honly .out (by decide)) ((honly .handover (by decide)).trans hq.1)
      ((honly .resumes (by decide)).trans hq.2) s

theorem dalovoHandshakeTimeout_ends {p : Nat} {s : State} (hstate : (s.peer p).state = .handshake)
    (hlate : (s.peer p).deadline ≤ s.dt) :
    ∃ t, exec (.dalovoHandshakeTimeout p) s = .next t ∧ t.peer p = { s.peer p with state := .seen } ∧
      ∀ k, k ≠ p → t.peer k = s.peer k :=
  ⟨_, if_pos (by simp [hstate, hlate]), (after_peer ..).trans (State.setPeer_same ..),
    fun _ hk => (after_peer ..).trans (State.setPeer_other _ _ _ hk)⟩

/-! ## The site ports' links (R336) -/

theorem sitePortLinkChange_up {port : Nat} {s : State} (hport : port < 2) (hmain : s.chip.mainRun = true)
    (hdown : s.sitePortUp port = false) :
    ∃ t, exec (.sitePortLinkChange port true) s = .next t ∧ t.sitePortUp port = true ∧ ∀ k, t.peer k = s.peer k := by
  refine ⟨_, (if_neg (by simp [hport, hmain, hdown])).trans (if_pos rfl), ?_, fun k => (after_peer ..).trans ?_⟩
  · rw [State.sitePortUp, after_adm]
    split <;> rfl
  · dsimp only
    split <;> rfl

theorem closeSessions_only (ps : List Nat) (s : State) :
    Only [.out, .owed, .adm] s (ps.foldl (fun (s : State) p => closeSession s p 0 false) s) :=
  .foldl (.refl _ s) fun _ p h => closeSession_only h (List.Subset.refl _) p 0 false

theorem closeSessions_sitePortUp (ps : List Nat) (s : State) (port : Nat) :
    (ps.foldl (fun (s : State) p => closeSession s p 0 false) s).sitePortUp port = s.sitePortUp port :=
  List.foldlRecOn (motive := fun u : State => u.sitePortUp port = s.sitePortUp port) _ _ rfl fun u hu p _ => by
    rw [State.sitePortUp, closeSession_adm]
    exact hu

theorem closeSessions_absent {k : Nat} (ps : List Nat) {s : State} (h : k ∈ ps) :
    ((ps.foldl (fun (s : State) p => closeSession s p 0 false) s).peer k).state = .absent := by
  refine foldl_reaches (b := k) (Q := fun u : State => (u.peer k).state = .absent) (fun u => closeSession_same ..) (fun u p hu => ?_)
    ps (.inl h)
  by_cases hk : k = p
  · rw [hk, closeSession_same]
  · rwa [closeSession_other _ _ _ _ hk]

/-- A site port's link as its pins report it. -/
def State.setSitePort (s : State) (port : Nat) (up : Bool) : State :=
  let a := { s.adm with announced := s.adm.announced.filter fun x => x.1 != port }
  { s with adm := if port = 0 then { a with sp0Up := up } else { a with sp1Up := up } }

theorem sitePortLinkChange_down {port : Nat} {s : State} (hport : port < 2) (hmain : s.chip.mainRun = true)
    (hup : s.sitePortUp port = true) (hrep : Reportable s 0x00A1 srcSite port) :
    ∃ t, exec (.sitePortLinkChange port false) s = .next t ∧ t.sitePortUp port = false ∧
      NewRecord s t 0x00A1 srcSite port ∧
      ∀ k, k < 16 → (s.peer k).port = port → (s.peer k).state = .up → (t.peer k).state = .absent := by
  let s1 := State.setSitePort s port false
  let ps := (List.range 16).filter fun p => (s.peer p).port == port && ((s.peer p).state == .up || (s.peer p).state == .handshake)
  let u := ps.foldl (fun (s : State) p => closeSession s p 0 false) s1
  have hexec : exec (.sitePortLinkChange port false) s = .next (after s (u.report 0x00A1 srcSite port)) := by
    change execSitePortLinkChange port false s = _
    unfold execSitePortLinkChange
    rw [if_neg (by simp [hport, hmain, hup])]
    dsimp only
    exact if_neg Bool.false_ne_true
  have hreport : (u.report 0x00A1 srcSite port).adm = u.adm := report_minor (by decide) srcSite port 0 .adm (by decide)
  have honly : Only [.out, .owed, .adm] s u := .trans (.set_adm (by decide) (.refl _ s)) (closeSessions_only ps s1)
  refine ⟨_, hexec, ?_, after_newRecord (report_record_of_only hrep honly (by decide) (by decide) (by decide) (by decide) 0) s,
    fun k hk hkport hkup => ?_⟩
  · rw [State.sitePortUp, after_adm, hreport]
    refine (closeSessions_sitePortUp ps s1 port).trans ?_
    unfold State.sitePortUp s1 State.setSitePort
    dsimp only
    split <;> rfl
  · rw [after_peer, State.peer, hreport]
    refine closeSessions_absent ps (List.mem_filter.2 ⟨List.mem_range.2 hk, ?_⟩)
    simp [hkport, hkup]

/-- Settles O29. -/
theorem dalovoSessionsComplete : Obligations.DalovoSessionsComplete := by
  unfold Obligations.DalovoSessionsComplete
  exact ⟨fun _ _ => dalovoAnnounceSend_announces, fun _ _ _ _ _ => dalovoAnnounceReceive_initiates,
    fun _ _ _ => dalovoHello_answers, fun _ _ _ => dalovoHelloReply_finishes, fun _ _ _ => dalovoFinish_answers,
    fun _ _ _ => dalovoHandshakeTimeout_ends, fun _ _ _ _ => dalovoClose_closes, fun _ _ => dalovoIdleTimeout_closes,
    fun _ _ _ => sitePortLinkChange_up, fun _ _ _ => sitePortLinkChange_down⟩

end Sys2Proof.Safety


/-! # The light-safety unit (O31, O32): its inputs, outputs, test pulses, commissioning and own checks (R371 to R391) -/

namespace Sys2Proof.Safety

set_option Elab.async false

open Sys2Proof.Machine

/-! ## The rows of the unit -/

theorem lsuRow_runs {s : State} (hpor : s.chip.por = false) (f : State → State) : lsuRow s f = .next (after s (f s)) := by
  rw [lsuRow, if_pos (by simp [State.lsuRuns, hpor])]
  rfl

/-- What a fold does at one place, where every step leaves the other places alone. -/
theorem foldl_at {α : Type} {f : State → Nat → State} {g : State → Nat → α} {R : State → Prop}
    (hR : ∀ u j, R u → R (f u j)) (hother : ∀ u j k, R u → k ≠ j → g (f u j) k = g u k) {ks : List Nat} (hnodup : ks.Nodup)
    {k : Nat} (hk : k ∈ ks) {s : State} (hs : R s) : ∃ u, R u ∧ g u k = g s k ∧ g (ks.foldl f s) k = g (f u k) k := by
  have hrest : ∀ (l : List Nat) (u : State), R u → k ∉ l → g (l.foldl f u) k = g u k := by
    intro l
    induction l with
    | nil => exact fun _ _ _ => rfl
    | cons j l ih =>
      intro u hu hl
      have hj : k ≠ j := fun e => hl (e ▸ List.mem_cons_self)
      exact (ih _ (hR u j hu) fun h => hl (List.mem_cons_of_mem _ h)).trans (hother u j k hu hj)
  induction ks generalizing s with
  | nil => exact absurd hk List.not_mem_nil
  | cons j ks ih =>
    obtain ⟨hj, hks⟩ := List.nodup_cons.1 hnodup
    rcases List.mem_cons.1 hk with rfl | hk
    · exact ⟨s, hs, rfl, hrest ks _ (hR s k hs) hj⟩
    · obtain ⟨u, hu, hsame, hend⟩ := ih hks hk (hR s j hs)
      exact ⟨u, hu, hsame.trans (hother s j k hs fun e => hj (e ▸ hk)), hend⟩

/-- What a fold leaves alone at a place that it does not visit. -/
theorem foldl_elsewhere {α : Type} {f : State → Nat → State} {g : State → Nat → α} {k : Nat}
    (hother : ∀ u j, k ≠ j → g (f u j) k = g u k) {ks : List Nat} (hk : k ∉ ks) (s : State) : g (ks.foldl f s) k = g s k :=
  List.foldlRecOn (motive := fun u => g u k = g s k) _ _ rfl fun u hu j hj =>
    (hother u j fun e => hk (e ▸ hj)).trans hu

/-! ## Outputs: de-energised, and latched -/

theorem lenOff_same (s : State) (k : Nat) : (lenOff s k).len k = { s.len k with
    on := false, changed := if (s.len k).on then s.dt else (s.len k).changed, ackWait := (s.len k).ackWait || s.lsu.manual k
    demandInPulse := (s.len k).demandInPulse || (s.len k).inPulse, tpDue := none } :=
  State.setLen_same ..

theorem lenOff_other (s : State) {j k : Nat} (hj : j ≠ k) : (lenOff s k).len j = s.len j := State.setLen_other _ _ _ hj

theorem lenOff_cause (s : State) (j k : Nat) : ((lenOff s k).len j).cause = (s.len j).cause := by
  by_cases hj : j = k
  · rw [hj, lenOff_same]
  · rw [lenOff_other s hj]

theorem lenOff_on (s : State) {j k : Nat} (hoff : (s.len j).on = false) : ((lenOff s k).len j).on = false := by
  by_cases hj : j = k
  · rw [hj, lenOff_same]
  · rwa [lenOff_other s hj]

theorem lensOff_on {k : Nat} (ks : List Nat) {s : State} (h : k ∈ ks ∨ (s.len k).on = false) :
    ((ks.foldl lenOff s).len k).on = false :=
  foldl_reaches (Q := fun u : State => (u.len k).on = false) (fun u => by rw [lenOff_same]) (fun u j => lenOff_on u) ks h

theorem lensOff_cause (ks : List Nat) (s : State) (k : Nat) : ((ks.foldl lenOff s).len k).cause = (s.len k).cause :=
  List.foldlRecOn (motive := fun u : State => (u.len k).cause = (s.len k).cause) _ _ rfl fun u hu j _ =>
    (lenOff_cause u k j).trans hu

/-- De-energising outputs leaves all else of the unit alone. -/
theorem lensOff_field {α : Type} (f : LightSafety → α) (hf : ∀ u l, f { u with lens := l } = f u) (ks : List Nat) (s : State) :
    f (ks.foldl lenOff s).lsu = f s.lsu :=
  List.foldlRecOn (motive := fun u : State => f u.lsu = f s.lsu) _ _ rfl fun u hu _ _ => (hf u.lsu _).trans hu

theorem latchCause_eq {s : State} {k : Nat} {c : LenCause} (hcause : (s.len k).cause.code < c.code) (code : Nat) :
    latchCause s k c code =
      (lenOff (s.setLen k { s.len k with cause := c, agreeSince := some s.dt }) k).report code srcLsu k :=
  if_neg (Nat.not_le.2 hcause)

/-- A report below S3 leaves the unit alone. -/
theorem report_minor_lsu {code : Nat} (hsev : severityOf code ≠ 3) (s : State) (source d0 : Nat) :
    (s.report code source d0).lsu = s.lsu := report_minor hsev source d0 0 .lsu (by decide)

theorem latchCause_minor {s : State} {k : Nat} {c : LenCause} {code : Nat} (hsev : severityOf code ≠ 3)
    (hcause : (s.len k).cause.code < c.code) (j : Nat) : (latchCause s k c code).len j =
      (lenOff (s.setLen k { s.len k with cause := c, agreeSince := some s.dt }) k).len j := by
  rw [latchCause_eq hcause]
  exact congrArg (fun l : LightSafety => tabGet l.lens {} j) (report_minor_lsu hsev ..)

theorem latchCause_other (s : State) {j k : Nat} (c : LenCause) {code : Nat} (hsev : severityOf code ≠ 3) (hj : j ≠ k) :
    (latchCause s k c code).len j = s.len j := by
  by_cases hcause : (s.len k).cause.code < c.code
  · rw [latchCause_minor hsev hcause, lenOff_other _ hj, State.setLen_other _ _ _ hj]
  · rw [latchCause, if_pos (Nat.not_lt.1 hcause)]

theorem latchCause_same {s : State} {k : Nat} {c : LenCause} {code : Nat} (hsev : severityOf code ≠ 3)
    (hcause : (s.len k).cause.code < c.code) : ((latchCause s k c code).len k).cause = c ∧
      ((latchCause s k c code).len k).on = false ∧ ((latchCause s k c code).len k).last = (s.len k).last ∧
      ((latchCause s k c code).len k).fbkOpen = (s.len k).fbkOpen := by
  rw [latchCause_minor hsev hcause, lenOff_same, State.setLen_same]
  exact ⟨rfl, rfl, rfl, rfl⟩

/-! ## The safe state, as the unit sees it (R374, R430) -/

theorem enterSafeState_lsu {s : State} (hsafe : s.faults.safeState = false) (q : Nat) : (enterSafeState s q).lsu =
    (lsuSafeState { s with faults := { s.faults with safeState := true, safeSeq := q } }).lsu := by
  have hstopped : ∀ u : State, Only [.out, .elems, .runs, .calRuns, .links] u
      (loseCalRuns (endRuns (((abortPoints u fun _ => true).calib.runs.filter fun r => r.running && r.kind ≠ .channel).foldl
        (fun s r => s.down r.tile "ABORT" [r.target % 1024]) (abortPoints u fun _ => true)) (fun _ => true) endLost)
        fun _ => true) := fun u =>
    loseCalRuns_only (endRuns_only (.foldl (abortPoints_only (.refl _ u) (by decide) _) fun _ _ h =>
      State.down_only h (by decide) _ _ _) (by decide) _ _) (by decide) _
  have hopened := openToCal_only (.refl [.out, .irq, .house] (lightStopped s q)) (by decide)
  rw [enterSafeState_eq, if_neg (by simp [hsafe])]
  exact (State.msix_only hopened (by decide) 16 .lsu (by decide)).trans (hstopped _ .lsu (by decide))

/-- The unit after the entry to the safe state: outputs off, causes as they were. -/
theorem enterSafeState_outputs (s : State) (q k : Nat) :
    ((enterSafeState s q).len k).cause = (s.len k).cause ∧
      ((s.len k).on = false ∨ (s.faults.safeState = false ∧ k < 4) → ((enterSafeState s q).len k).on = false) ∧
      (enterSafeState s q).lsu.fault = s.lsu.fault ∧
      (s.faults.safeState = false → (enterSafeState s q).lsu.safeState = true) := by
  cases hsafe : s.faults.safeState with
  | true =>
    rw [show enterSafeState s q = s from if_pos hsafe]
    exact ⟨rfl, fun h => h.elim id fun h => absurd h.1 (by simp), rfl, fun h => absurd h (by simp)⟩
  | false =>
    have hlsu := enterSafeState_lsu hsafe q
    have hlen : (enterSafeState s q).len k = _ := congrArg (fun l : LightSafety => tabGet l.lens {} k) hlsu
    refine ⟨?_, fun h => ?_, ?_, fun _ => ?_⟩
    · rw [hlen]
      exact lensOff_cause _ _ k
    · rw [hlen]
      exact lensOff_on _ (h.symm.imp (fun h => List.mem_range.2 h.2) id)
    · rw [hlsu]
      exact lensOff_field (·.fault) (fun _ _ => rfl) _ _
    · rw [hlsu]
      exact lensOff_field (·.safeState) (fun _ _ => rfl) _ _

/-- The unit after a report of severity S3. -/
theorem report_outputs {s : State} {code source d0 : Nat} (hrep : Reportable s code source d0) (hsev : severityOf code = 3)
    (d1 k : Nat) : ((s.report code source d0 d1).len k).cause = (s.len k).cause ∧
      ((s.len k).on = false ∨ (s.faults.safeState = false ∧ k < 4) → ((s.report code source d0 d1).len k).on = false) ∧
      (s.report code source d0 d1).lsu.fault = s.lsu.fault ∧
      (s.faults.safeState = false → (s.report code source d0 d1).lsu.safeState = true) := by
  have hnew : (recordNew s { code, source, detail0 := d0, detail1 := d1 } (severityOf code) false false).lsu = s.lsu :=
    recordNew_only (.refl [.out, .faults, .irq, .loops] s) (List.Subset.refl _) _ _ _ _ .lsu (by decide)
  have houtputs := enterSafeState_outputs
    (recordNew s { code, source, detail0 := d0, detail1 := d1 } (severityOf code) false false) s.faults.nextSeq k
  have hlen : (recordNew s { code, source, detail0 := d0, detail1 := d1 } (severityOf code) false false).len k = s.len k :=
    congrArg (fun l : LightSafety => tabGet l.lens {} k) hnew
  rw [hlen, hnew, recordNew_safeState] at houtputs
  rw [report_eq hrep, if_pos hsev]
  exact houtputs

/-! ## Interlock inputs (R371 to R373) -/

theorem ilkTo_lsu (s : State) (i : Nat) (x : Ilk) (new : IlkState) :
    (ilkTo s i x new).lsu = (s.setIlk i { x with state := new }).lsu := by
  unfold ilkTo
  dsimp only
  split <;> split <;> simp only [report_minor_lsu (show severityOf 0x0070 ≠ 3 by decide),
    report_minor_lsu (show severityOf 0x0071 ≠ 3 by decide)]

theorem ilkTo_same (s : State) (i : Nat) (x : Ilk) (new : IlkState) : (ilkTo s i x new).ilk i = { x with state := new } := by
  rw [State.ilk, ilkTo_lsu]
  exact State.setIlk_same ..

theorem ilkTo_other (s : State) (i : Nat) (x : Ilk) (new : IlkState) {k : Nat} (hk : k ≠ i) :
    (ilkTo s i x new).ilk k = s.ilk k := by
  rw [State.ilk, ilkTo_lsu]
  exact State.setIlk_other _ _ _ hk

theorem ilkContactChange_follows {i : Nat} {b closed : Bool} {s : State} (hpor : s.chip.por = false) (hi : i < 8)
    (hstate : (s.ilk i).state = .ok ∨ (s.ilk i).state = .demand) :
    let y : Ilk := if b then { s.ilk i with rawB := closed, filtB := closed } else { s.ilk i with rawA := closed, filtA := closed }
    let p := permissive (s.lsu.ilkMode i) y.filtA y.filtB
    ∃ t, exec (.ilkContactChange i b closed) s = .next t ∧
      t.ilk i = { y with state := if p.1 && p.2 then .ok else .demand } ∧ ∀ k, k ≠ i → t.ilk k = s.ilk k := by
  intro y p
  let u := s.setIlk i y
  have hstate : y.state = .ok ∨ y.state = .demand := by
    cases b <;> exact hstate
  have hfollow : ilkFollow u i = ilkTo u i y (if p.1 && p.2 then .ok else .demand) := by
    unfold ilkFollow
    rw [State.setIlk_same]
    rcases hstate with h | h <;> simp only [h] <;> rfl
  have hexec : exec (.ilkContactChange i b closed) s =
      .next (after s (ilkTo u i y (if p.1 && p.2 then .ok else .demand))) := by
    change execIlkContactChange i b closed s = _
    rw [execIlkContactChange, lsuRow_runs hpor, if_neg (Nat.not_le.2 hi), ← hfollow]
  refine ⟨_, hexec, ?_, fun k hk => ?_⟩
  · rw [after_ilk, ilkTo_same]
  · rw [after_ilk, ilkTo_other _ _ _ _ hk]
    exact State.setIlk_other _ _ _ hk

theorem ilkDiscrepancy_detects {i : Nat} {s : State} (hpor : s.chip.por = false) (hi : i < 8)
    (hstate : (s.ilk i).state = .demand) (hdiffer : (permissive (s.lsu.ilkMode i) (s.ilk i).filtA (s.ilk i).filtB).1 ≠
      (permissive (s.lsu.ilkMode i) (s.ilk i).filtA (s.ilk i).filtB).2) (hrep : Reportable s 0x0071 srcLsu i) :
    ∃ t, exec (.ilkDiscrepancy i) s = .next t ∧ (t.ilk i).state = .discrepancy ∧ (t.ilk i).seenPerm = false ∧
      (∀ k, k ≠ i → t.ilk k = s.ilk k) ∧ NewRecord s t 0x0071 srcLsu i := by
  let x : Ilk := { s.ilk i with seenNon := false, seenPerm := false }
  have hexec : exec (.ilkDiscrepancy i) s = .next (after s (ilkTo s i x .discrepancy)) := by
    change execIlkDiscrepancy i s = _
    rw [execIlkDiscrepancy, lsuRow_runs hpor]
    dsimp only
    rw [if_neg (by simp [hi, hstate, hdiffer])]
  have hto : ilkTo s i x .discrepancy = (s.setIlk i { x with state := .discrepancy }).report 0x0071 srcLsu i := by
    have hx : x.state = .demand := hstate
    rw [ilkTo, hx]
    rfl
  have hrecord : NewRecord s (ilkTo s i x .discrepancy) 0x0071 srcLsu i := by
    rw [hto]
    exact report_record_of_only hrep (State.setIlk_only (.refl [.lsu] s) (List.Subset.refl _) _ _) (by decide) (by decide)
      (by decide) (by decide) 0
  refine ⟨_, hexec, ?_, ?_, fun k hk => ?_, after_newRecord hrecord s⟩
  · rw [after_ilk, ilkTo_same]
  · rw [after_ilk, ilkTo_same]
  · rw [after_ilk, ilkTo_other _ _ _ _ hk]

/-! ## LEN_EVALUATE (R374) -/

/-- `u` is `s` at the same device time, but for the outputs, none of which is in a test pulse. -/
def OutputsOnly (s u : State) : Prop :=
  u.dt = s.dt ∧ (∃ l, u.lsu = { s.lsu with lens := l }) ∧ ∀ j, (u.len j).inPulse = false

theorem OutputsOnly.lenAllowed {s u : State} (h : OutputsOnly s u) {k : Nat} (hk : u.len k = s.len k) :
    u.lenAllowed k = s.lenAllowed k := by
  obtain ⟨-, ⟨l, hl⟩, -⟩ := h
  unfold State.lenAllowed State.ilk State.rc
  rw [hk, hl]
  rfl

theorem OutputsOnly.setLen {s u : State} (h : OutputsOnly s u) (k : Nat) {v : Len} (hv : v.inPulse = false) :
    OutputsOnly s (u.setLen k v) := by
  obtain ⟨hdt, ⟨l, hl⟩, hpulse⟩ := h
  refine ⟨hdt, ⟨_, congrArg (fun x : LightSafety => { x with lens := tabSet u.lsu.lens k v }) hl⟩, fun j => ?_⟩
  by_cases hj : j = k
  · rwa [hj, State.setLen_same]
  · rw [State.setLen_other _ _ _ hj]
    exact hpulse j

theorem OutputsOnly.latchCause {s u : State} (h : OutputsOnly s u) (k : Nat) (c : LenCause) {code : Nat}
    (hsev : severityOf code ≠ 3) : OutputsOnly s (latchCause u k c code) := by
  unfold Sys2Proof.Machine.latchCause
  refine iteInduction (fun _ => h) fun _ => ?_
  have hoff : OutputsOnly s (lenOff (u.setLen k { u.len k with cause := c, agreeSince := some u.dt }) k) :=
    OutputsOnly.setLen (h.setLen k (v := { u.len k with cause := c, agreeSince := some u.dt }) (h.2.2 k)) k
      (by rw [State.setLen_same]; exact h.2.2 k)
  have hreport := report_minor (s := lenOff (u.setLen k { u.len k with cause := c, agreeSince := some u.dt }) k) hsev srcLsu k 0
  obtain ⟨hdt, hlsu, hpulse⟩ := hoff
  exact ⟨(hreport .dt (by decide)).trans hdt, by rwa [report_minor_lsu hsev], fun j => by
    rw [State.len, report_minor_lsu hsev]
    exact hpulse j⟩

theorem endPulse_idle {s : State} {k : Nat} (h : (s.len k).inPulse = false) : endPulse s k = s := if_neg (by simp [h])

theorem lenStep_disallowed {u : State} {k : Nat} (hpulse : (u.len k).inPulse = false) (hno : u.lenAllowed k = false) :
    lenStep u k = lenOff u k := by
  rw [lenStep, endPulse_idle hpulse]
  exact if_pos (by simp [hno])

theorem lenStep_stays {u : State} {k : Nat} (hpulse : (u.len k).inPulse = false) (hyes : u.lenAllowed k = true)
    (hon : (u.len k).on = true) : lenStep u k = u := by
  rw [lenStep, endPulse_idle hpulse]
  exact (if_neg (by simp [hyes])).trans (if_pos (by simp [hon]))

theorem lenStep_energises {u : State} {k : Nat} (hpulse : (u.len k).inPulse = false) (hyes : u.lenAllowed k = true)
    (hoff : (u.len k).on = false) (hfbk : u.lsu.fbkEn k = false ∨ (u.len k).fbkOpen = true)
    (hack : u.lsu.manual k = false ∨ ((u.len k).ackWait = false ∧ (u.len k).everOn = true)) : lenStep u k = lenOn u k := by
  rw [lenStep, endPulse_idle hpulse]
  refine (if_neg (by simp [hyes])).trans ((if_neg ?_).trans (if_pos (by simpa using hfbk)))
  rcases hack with h | ⟨h, h'⟩
  · simp [hoff, h]
  · simp [hoff, h, h']

theorem lenStep_outputsOnly {s u : State} (h : OutputsOnly s u) (k : Nat) : OutputsOnly s (lenStep u k) := by
  rw [lenStep, endPulse_idle (h.2.2 k)]
  refine iteInduction (fun _ => h.setLen k (h.2.2 k)) fun _ => iteInduction (fun _ => h) fun _ =>
    iteInduction (fun _ => h.setLen k (h.2.2 k)) fun _ => h.latchCause k _ (by decide)

theorem lenStep_other {s u : State} (h : OutputsOnly s u) {j k : Nat} (hk : k ≠ j) : (lenStep u j).len k = u.len k := by
  rw [lenStep, endPulse_idle (h.2.2 j)]
  exact iteInduction (motive := fun v : State => v.len k = u.len k) (fun _ => lenOff_other u hk) fun _ =>
    iteInduction (motive := fun v : State => v.len k = u.len k) (fun _ => rfl) fun _ =>
    iteInduction (motive := fun v : State => v.len k = u.len k) (fun _ => State.setLen_other _ _ _ hk) fun _ =>
    latchCause_other u _ (by decide) hk

/-- The state in which an evaluation comes to output `k`. -/
theorem lenSteps_at {s : State} {k : Nat} (hk : k ∈ List.range 4) (hpulse : ∀ j, (s.len j).inPulse = false) :
    ∃ u, OutputsOnly s u ∧ u.len k = s.len k ∧ ((List.range 4).foldl lenStep s).len k = (lenStep u k).len k :=
  foldl_at (f := lenStep) (g := State.len) (R := OutputsOnly s) (fun _ j h => lenStep_outputsOnly h j)
    (fun _ _ _ h hk => lenStep_other h hk) List.nodup_range hk ⟨rfl, ⟨s.lsu.lens, rfl⟩, hpulse⟩

theorem lenEvaluate_evaluates {k : Nat} {s : State} (hpor : s.chip.por = false) (hk : k < 4)
    (hpulse : ∀ j, (s.len j).inPulse = false) :
    ∃ t, exec .lenEvaluate s = .next t ∧
      (s.lenAllowed k = false → (t.len k).on = false) ∧
      (s.lenAllowed k = true → (s.len k).on = false → (s.lsu.fbkEn k = false ∨ (s.len k).fbkOpen = true) →
        (s.lsu.manual k = false ∨ ((s.len k).ackWait = false ∧ (s.len k).everOn = true)) →
        (t.len k).on = true ∧ (t.len k).changed = s.dt) ∧
      (s.lenAllowed k = true → (s.len k).on = true → t.len k = s.len k) := by
  obtain ⟨u, hu, hsame, hend⟩ := lenSteps_at (List.mem_range.2 hk) hpulse
  have hallowed := hu.lenAllowed hsame
  obtain ⟨hdt, ⟨l, hl⟩, hidle⟩ := hu
  have hlen : (after s ((List.range 4).foldl lenStep s)).len k = (lenStep u k).len k := (after_len ..).trans hend
  have hexec : exec .lenEvaluate s = .next (after s ((List.range 4).foldl lenStep s)) := by
    change execLenEvaluate s = _
    rw [execLenEvaluate, lsuRow_runs hpor]
  refine ⟨_, hexec, fun hno => ?_, fun hyes hoff hfbk hack => ?_, fun hyes hon => ?_⟩
  · rw [hlen, lenStep_disallowed (hidle k) (hallowed.trans hno), lenOff_same]
  · rw [hlen, lenStep_energises (hidle k) (hallowed.trans hyes) (by rwa [hsame]) (by rw [hl, hsame]; exact hfbk)
      (by rw [hl, hsame]; exact hack), lenOn, State.setLen_same]
    exact ⟨rfl, hdt⟩
  · rw [hlen, lenStep_stays (hidle k) (hallowed.trans hyes) (by rwa [hsame]), hsame]

/-! ## Feedback and readback (R375, R376) -/

theorem fbkTimeout_latches {k : Nat} {o : Bool} {s : State} (hpor : s.chip.por = false) (hk : k < 4)
    (hused : s.lsu.used k = true) (hfbk : s.lsu.fbkEn k = true) (hlive : s.fbkLive k = true) (hon : (s.len k).on = o)
    (hlate : (s.len k).changed + s.lsu.fbkTime k * msTicks ≤ s.dt) (hcause : (s.len k).cause = .none) :
    ∃ t, exec (.fbkTimeout k o) s = .next t ∧ (t.len k).cause = .fbkTimeout ∧ (t.len k).on = false ∧
      (t.len k).fbkOpen = o ∧ ∀ j, j ≠ k → t.len j = s.len j := by
  let u := s.setLen k { s.len k with fbkOpen := o }
  have hexec : exec (.fbkTimeout k o) s = .next (after s (latchCause u k .fbkTimeout 0x0071)) := by
    change execFbkTimeout k o s = _
    rw [execFbkTimeout, lsuRow_runs hpor, if_neg (Nat.not_le.2 hk)]
    dsimp only
    rw [if_pos (by simp [hused, hfbk, hlive, hon, hlate])]
  obtain ⟨hcause, hoff, -, hopen⟩ := latchCause_same (s := u) (k := k) (c := .fbkTimeout) (code := 0x0071) (by decide)
    (by rw [State.setLen_same, show ({ s.len k with fbkOpen := o } : Len).cause = .none from hcause]; decide)
  refine ⟨_, hexec, ?_, ?_, ?_, fun j hj => ?_⟩
  · rwa [after_len]
  · rwa [after_len]
  · rw [after_len, hopen, State.setLen_same]
  · rw [after_len, latchCause_other _ _ (by decide) hj, State.setLen_other _ _ _ hj]

theorem stuckOnDetect_latches {k : Nat} {s : State} (hpor : s.chip.por = false) (hk : k < 4) (hoff : (s.len k).on = false)
    (hidle : (s.len k).inPulse = false) (hcause : (s.len k).cause = .none) (hrep : Reportable s 0x0072 srcLsu k) :
    ∃ t, exec (.stuckOnDetect k) s = .next t ∧ (t.len k).cause = .stuckOn ∧ NewRecord s t 0x0072 srcLsu k ∧
      (s.faults.safeState = false → t.faults.safeState = true ∧ ∀ j, j < 4 → (t.len j).on = false) := by
  let u := lenOff (s.setLen k { s.len k with cause := .stuckOn, agreeSince := some s.dt }) k
  have hexec : exec (.stuckOnDetect k) s = .next (after s (u.report 0x0072 srcLsu k)) := by
    change execStuckOnDetect k s = _
    rw [execStuckOnDetect, lsuRow_runs hpor]
    dsimp only
    rw [if_neg (by simp [hk, hoff, hidle]), if_neg (by simp [hcause]), latchCause_eq (by rw [hcause]; decide)]
  have honly : Only [.lsu] s u := lenOff_only (State.setLen_only (.refl _ s) (List.Subset.refl _) _ _) (List.Subset.refl _) _
  have hrep1 := (hrep.of_only honly (by decide) (by decide) (by decide) (by decide)).1
  have hlatched : (u.len k).cause = .stuckOn := by
    rw [show u.len k = _ from lenOff_same _ k, State.setLen_same]
  refine ⟨_, hexec, ?_, after_newRecord (report_record_of_only hrep honly (by decide) (by decide) (by decide) (by decide) 0) s,
    fun hsafe => ⟨?_, fun j hj => ?_⟩⟩
  · rw [after_len, (report_outputs hrep1 (by decide) 0 k).1, hlatched]
  · rw [after_safeState]
    exact report_enters_safeState hrep1 (by decide) 0
  · rw [after_len]
    exact (report_outputs hrep1 (by decide) 0 j).2.1
      (.inr ⟨(congrArg Faults.safeState (honly .faults (by decide))).trans hsafe, hj⟩)

/-! ## Test pulses (R377, R378) -/

theorem testPulseStart_starts {k due : Nat} {s : State} (hpor : s.chip.por = false) (hk : k < 4)
    (hen : s.lsu.tpEn k = true) (hon : (s.len k).on = true) (hidle : (s.len k).inPulse = false)
    (hdue : (s.len k).tpDue = some due) (hnow : due ≤ s.dt) (hfree : s.pulseFree k due = true) :
    ∃ t, exec (.testPulseStart k) s = .next t ∧
      t.len k = { s.len k with inPulse := true, check1 := none, pulseAt := s.dt, demandInPulse := false, tpDue := none } ∧
      ∀ j, j ≠ k → t.len j = s.len j := by
  have hexec : exec (.testPulseStart k) s = .next (after s (s.setLen k { s.len k with
      inPulse := true, check1 := none, pulseAt := s.dt, demandInPulse := false, tpDue := none })) := by
    change execTestPulseStart k s = _
    rw [execTestPulseStart, lsuRow_runs hpor]
    dsimp only
    rw [hdue]
    dsimp only
    rw [if_pos (by simp [hk, hen, hon, hidle, hnow, hfree])]
  refine ⟨_, hexec, ?_⟩
  exact ⟨(after_len ..).trans (State.setLen_same ..), fun j hj => (after_len ..).trans (State.setLen_other _ _ _ hj)⟩

/-- The output at the end of its test pulse. -/
def Len.pulseEnded (l : Len) (t : Nat) (r : TestResult) : Len :=
  { l with inPulse := false, pulseEnd := some t, check1 := none, demandInPulse := false, last := r }

theorem testPulseCheck_first {k : Nat} {s : State} (hpor : s.chip.por = false) (hk : k < 4)
    (hpulse : (s.len k).inPulse = true) (hcheck : (s.len k).check1 = none) :
    (∃ t, exec (.testPulseCheck k false) s = .next t ∧ t.len k = { s.len k with check1 := some true }) ∧
      ((s.len k).cause = .none →
        ∃ t, exec (.testPulseCheck k true) s = .next t ∧ (t.len k).cause = .testFail ∧ (t.len k).last = .failed ∧
          (t.len k).on = false) := by
  have hexec : ∀ b, exec (.testPulseCheck k b) s = .next (after s (if b then
      latchCause (s.setLen k (Len.pulseEnded (s.len k) s.dt .failed)) k .testFail 0x0071
      else s.setLen k { s.len k with check1 := some true })) := fun b => by
    change execTestPulseCheck k b s = _
    rw [execTestPulseCheck, lsuRow_runs hpor]
    dsimp only
    rw [if_neg (by simp [hk, hpulse]), hcheck]
    rfl
  refine ⟨⟨_, hexec false, (after_len ..).trans (State.setLen_same ..)⟩, fun hcause => ⟨_, hexec true, ?_⟩⟩
  have hbefore := State.setLen_same s k (Len.pulseEnded (s.len k) s.dt .failed)
  obtain ⟨h1, h2, h3, -⟩ := latchCause_same (s := s.setLen k (Len.pulseEnded (s.len k) s.dt .failed)) (k := k)
    (c := .testFail) (code := 0x0071) (by decide) (by rw [hbefore, Len.pulseEnded, hcause]; decide)
  rw [if_pos rfl, after_len]
  exact ⟨h1, by rw [h3, hbefore]; rfl, h2⟩

theorem testPulseCheck_passes {k : Nat} {s : State} (hpor : s.chip.por = false) (hk : k < 4)
    (hpulse : (s.len k).inPulse = true) (hcheck : (s.len k).check1 = some true) (hquiet : (s.len k).demandInPulse = false) :
    ∃ t, exec (.testPulseCheck k true) s = .next t ∧ (t.len k).last = .passed ∧ (t.len k).inPulse = false ∧
      (t.len k).tpDue = some ((s.len k).pulseAt + s.lsu.tpPeriod k * secTicks) ∧
      t.lsu.passed = satInc s.lsu.passed 0xFFFF := by
  let u := s.setLen k { Len.pulseEnded (s.len k) s.dt .passed with
    tpDue := some ((s.len k).pulseAt + s.lsu.tpPeriod k * secTicks) }
  have hexec : exec (.testPulseCheck k true) s =
      .next (after s { u with lsu := { u.lsu with passed := satInc u.lsu.passed 0xFFFF } }) := by
    change execTestPulseCheck k true s = _
    rw [execTestPulseCheck, lsuRow_runs hpor]
    dsimp only
    rw [if_neg (by simp [hk, hpulse]), hcheck]
    dsimp only
    rw [if_neg (by simp [hquiet]), if_neg (by simp)]
    rfl
  have hlen := (after_len s { u with lsu := { u.lsu with passed := satInc u.lsu.passed 0xFFFF } } k).trans
    (State.setLen_same ..)
  exact ⟨_, hexec, by rw [hlen]; rfl, by rw [hlen]; rfl, by rw [hlen], by rw [after_lsu]; rfl⟩

/-- Settles O31. -/
theorem lightSafetyInputsAndOutputsComplete : Obligations.LightSafetyInputsAndOutputsComplete := by
  unfold Obligations.LightSafetyInputsAndOutputsComplete
  exact ⟨fun _ _ _ _ _ => ilkContactChange_follows, fun _ _ _ => ilkDiscrepancy_detects, fun _ _ _ => lenEvaluate_evaluates,
    fun _ _ _ _ => fbkTimeout_latches, fun _ _ _ => stuckOnDetect_latches, fun _ _ _ _ => testPulseStart_starts,
    fun _ _ _ hpor hk hpulse => ⟨testPulseCheck_first hpor hk hpulse, testPulseCheck_passes hpor hk hpulse⟩⟩

end Sys2Proof.Safety


/-! # The light-safety unit's commissioning, acknowledgement, parameter block and own checks (O32) -/

namespace Sys2Proof.Safety

set_option Elab.async false

open Sys2Proof.Machine

/-! ## The key (R387) -/

theorem safeKeyWrite_eq {s : State} (hpor : s.chip.por = false) (v : Word32) :
    exec (.safeKeyWrite v) s = .next (after s (safeKey s v)) := by
  change execSafeKeyWrite v s = _
  rw [execSafeKeyWrite, lsuRow_runs hpor]

theorem safeKeyWrite_first {s : State} (hpor : s.chip.por = false) :
    ∃ t, exec (.safeKeyWrite 0x5A1E) s = .next t ∧ t.lsu = { s.lsu with keyPhase := 1 } :=
  ⟨_, safeKeyWrite_eq hpor _, by rw [after_lsu]; rfl⟩

theorem safeKeyWrite_second {s : State} (hpor : s.chip.por = false) (hphase : s.lsu.keyPhase = 1) :
    ∃ t, exec (.safeKeyWrite 0xA5E1) s = .next t ∧ t.lsu = { s.lsu with keyPhase := 2, keyAt := s.dt } := by
  refine ⟨_, safeKeyWrite_eq hpor _, ?_⟩
  rw [after_lsu, safeKey, if_pos (by simp [hphase])]

theorem safeKeyTimeout_closes {s : State} (hpor : s.chip.por = false) (hphase : s.lsu.keyPhase = 2)
    (hlate : s.lsu.keyAt + secTicks ≤ s.dt) :
    ∃ t, exec .safeKeyTimeout s = .next t ∧ t.lsu = { s.lsu with keyPhase := 0 } := by
  have hexec : exec .safeKeyTimeout s = .next (after s (dropKey s)) := by
    change execSafeKeyTimeout s = _
    rw [execSafeKeyTimeout, lsuRow_runs hpor, if_pos (by simp [hphase, hlate])]
  exact ⟨_, hexec, after_lsu ..⟩

theorem keyOpen_of {s : State} (hphase : s.lsu.keyPhase = 2) (hnow : s.dt ≤ s.lsu.keyAt + secTicks) : s.keyOpen = true := by
  simp [State.keyOpen, hphase, hnow]

theorem safeCommitWrite_eq {s : State} (hpor : s.chip.por = false) (v : Word32) :
    exec (.safeCommitWrite v) s = .next (after s (safeCommit s v)) := by
  change execSafeCommitWrite v s = _
  rw [execSafeCommitWrite, lsuRow_runs hpor]

theorem safeCommitWrite_commissions {s : State} (hpor : s.chip.por = false) (hopen : s.keyOpen = true)
    (hcheck : s.lsu.check ≠ 0) : ∃ t, exec (.safeCommitWrite s.lsu.check) s = .next t ∧ t.lsu = { s.lsu with
      keyPhase := 0, commissioned := true, committed := s.lsu.check, recordPending := some s.lsu.check } := by
  refine ⟨_, safeCommitWrite_eq hpor _, ?_⟩
  rw [after_lsu, safeCommit]
  dsimp only
  rw [if_neg (by simpa using fun _ => hcheck), if_pos (by simp [hopen])]
  rfl

theorem safeCommitWrite_withdraws {s : State} (hpor : s.chip.por = false) (hopen : s.keyOpen = true) :
    ∃ t, exec (.safeCommitWrite 0) s = .next t ∧ t.lsu.commissioned = false ∧ t.lsu.recordPending = some 0 ∧
      t.lsu.keyPhase = 0 ∧ ∀ k, k < 4 → (t.len k).on = false := by
  refine ⟨_, safeCommitWrite_eq hpor _, ?_⟩
  rw [after_lsu, safeCommit]
  dsimp only
  rw [if_pos (by simp [hopen])]
  exact ⟨lensOff_field (·.commissioned) (fun _ _ => rfl) _ _, lensOff_field (·.recordPending) (fun _ _ => rfl) _ _,
    lensOff_field (·.keyPhase) (fun _ _ => rfl) _ _, fun k hk => by
      rw [after_len]; exact lensOff_on _ (.inl (List.mem_range.2 hk))⟩

theorem safeCommitWrite_refused {v : Word32} {s : State} (hpor : s.chip.por = false) (hphase : s.lsu.keyPhase ≠ 2) :
    ∃ t, exec (.safeCommitWrite v) s = .next t ∧ t.lsu = { s.lsu with keyPhase := 0, commitErr := true } := by
  have hclosed : s.keyOpen = false := by simp [State.keyOpen, hphase]
  refine ⟨_, safeCommitWrite_eq hpor _, ?_⟩
  rw [after_lsu, safeCommit]
  dsimp only
  rw [if_neg (by simp [hclosed]), if_neg (by simp [hclosed])]
  rfl

/-! ## SAFE_ACK (R373 to R375) -/

/-- What the acknowledgement of inputs touches of the unit. -/
theorem ackIlk_field {α : Type} (f : LightSafety → α) (hf : ∀ u l, f { u with ilks := l } = f u) (s : State) (i : Nat) :
    f (ackIlk s i).lsu = f s.lsu := by
  unfold ackIlk
  dsimp only
  split
  · rw [ilkTo_lsu]
    exact hf s.lsu _
  · rfl

theorem ackIlks_field {α : Type} (f : LightSafety → α) (hf : ∀ u l, f { u with ilks := l } = f u) (is : List Nat) (s : State) :
    f (is.foldl ackIlk s).lsu = f s.lsu :=
  List.foldlRecOn (motive := fun u : State => f u.lsu = f s.lsu) _ _ rfl fun u hu i _ => (ackIlk_field f hf u i).trans hu

theorem ackIlks_dt (is : List Nat) (s : State) : (is.foldl ackIlk s).dt = s.dt :=
  (Only.foldl (.refl [.out, .faults, .irq, .loops, .elems, .runs, .calRuns, .links, .lsu, .house] s) fun _ i h =>
    ackIlk_only h (List.Subset.refl _) i) .dt (by decide)

theorem ackIlk_other (s : State) {i k : Nat} (hk : k ≠ i) : (ackIlk s i).ilk k = s.ilk k := by
  unfold ackIlk
  dsimp only
  split
  · exact ilkTo_other _ _ _ _ hk
  · rfl

theorem ackIlk_same {s : State} {i : Nat} (hstate : (s.ilk i).state = .discrepancy) (hperm : (s.ilk i).seenPerm = true) :
    let p := permissive (s.lsu.ilkMode i) (s.ilk i).filtA (s.ilk i).filtB
    ((ackIlk s i).ilk i).state = if p.1 && p.2 then .ok else .demand := by
  intro p
  rw [ackIlk, if_pos (by simp [hstate, hperm]), ilkTo_same]

theorem ackLen_other (s0 s : State) {j k : Nat} (hk : k ≠ j) : (ackLen s0 s j).len k = s.len k :=
  State.setLen_other _ _ _ hk

theorem ackLens_ilk (s0 : State) (ks : List Nat) (s : State) (i : Nat) : (ks.foldl (ackLen s0) s).ilk i = s.ilk i :=
  List.foldlRecOn (motive := fun u : State => u.ilk i = s.ilk i) _ _ rfl fun _ hu _ _ => hu

theorem ackLen_stuckOn {s0 s : State} {k a : Nat} (hcause : (s.len k).cause = .stuckOn) (hsince : (s.len k).agreeSince = some a)
    (hlate : a + 10 * msTicks ≤ s.dt) : ((ackLen s0 s k).len k).cause = .none := by
  unfold ackLen
  dsimp only
  rw [State.setLen_same]
  dsimp only
  rw [hcause, hsince]
  exact if_pos (by simp [hlate])

/-- The outputs that an acknowledgement names. -/
def ackedLens (v : Word32) : List Nat := (List.range 4).filter fun k => bit v.toNat (8 + k)

/-- The inputs that an acknowledgement names. -/
def ackedIlks (v : Word32) : List Nat := (List.range 8).filter fun i => bit v.toNat i

theorem safeAck_eq (s : State) (v : Word32) :
    safeAck s v = (ackedLens v).foldl (ackLen s) ((ackedIlks v).foldl ackIlk (dropKey s)) := rfl

theorem safeAckWrite_eq {s : State} (hpor : s.chip.por = false) (v : Word32) :
    exec (.safeAckWrite v) s = .next (after s (safeAck s v)) := by
  change execSafeAckWrite v s = _
  rw [execSafeAckWrite, lsuRow_runs hpor]

theorem safeAckWrite_clears {v : Word32} {k a : Nat} {s : State} (hpor : s.chip.por = false) (hk : k < 4)
    (hbit : bit v.toNat (8 + k) = true) (hcause : (s.len k).cause = .stuckOn) (hsince : (s.len k).agreeSince = some a)
    (hlate : a + 10 * msTicks ≤ s.dt) :
    ∃ t, exec (.safeAckWrite v) s = .next t ∧ (t.len k).cause = .none ∧
      ∀ j, j < 4 → bit v.toNat (8 + j) = false → t.len j = s.len j := by
  have hstart : ∀ j, ((ackedIlks v).foldl ackIlk (dropKey s)).len j = s.len j := fun j =>
    ackIlks_field (fun u => tabGet u.lens {} j) (fun _ _ => rfl) _ (dropKey s)
  obtain ⟨u, hdt, hsame, hend⟩ := foldl_at (f := ackLen s) (g := State.len) (R := fun u => u.dt = s.dt) (fun _ _ h => h)
    (fun u _ _ _ hk => ackLen_other s u hk) (ks := ackedLens v) (List.nodup_range.filter _) (List.mem_filter.2 ⟨List.mem_range.2 hk, hbit⟩)
    (ackIlks_dt (ackedIlks v) (dropKey s))
  have hlen : u.len k = s.len k := hsame.trans (hstart k)
  refine ⟨_, safeAckWrite_eq hpor _, ?_, fun j _ hj => ?_⟩
  · rw [after_len, safeAck_eq]
    refine (congrArg Len.cause hend).trans (ackLen_stuckOn ?_ ?_ (by rwa [hdt]))
    · rwa [hlen]
    · rwa [hlen]
  · rw [after_len, safeAck_eq, ← hstart j]
    exact foldl_elsewhere (g := State.len) (fun u i hi => ackLen_other s u hi) (fun h => by
      have hbit := (List.mem_filter.1 h).2
      rw [hj] at hbit
      exact Bool.false_ne_true hbit) _

theorem safeAckWrite_restores {v : Word32} {i : Nat} {s : State} (hpor : s.chip.por = false) (hi : i < 8)
    (hbit : bit v.toNat i = true) (hstate : (s.ilk i).state = .discrepancy) (hperm : (s.ilk i).seenPerm = true) :
    let p := permissive (s.lsu.ilkMode i) (s.ilk i).filtA (s.ilk i).filtB
    ∃ t, exec (.safeAckWrite v) s = .next t ∧ (t.ilk i).state = if p.1 && p.2 then .ok else .demand := by
  intro p
  obtain ⟨u, hmode, hsame, hend⟩ := foldl_at (f := ackIlk) (g := State.ilk) (R := fun u => u.lsu.ilkMode i = s.lsu.ilkMode i)
    (fun u j h => (ackIlk_field (·.ilkMode i) (fun _ _ => rfl) u j).trans h) (fun u _ _ _ hk => ackIlk_other u hk)
    (ks := ackedIlks v) (List.nodup_range.filter _) (List.mem_filter.2 ⟨List.mem_range.2 hi, hbit⟩) (s := dropKey s) rfl
  have hilk : u.ilk i = s.ilk i := hsame
  refine ⟨_, safeAckWrite_eq hpor _, ?_⟩
  rw [after_ilk, safeAck_eq, ackLens_ilk]
  refine (congrArg Ilk.state hend).trans ((ackIlk_same (by rwa [hilk]) (by rwa [hilk])).trans ?_)
  rw [hmode, hilk]

/-! ## LEN_FORCE_OFF (R374) -/

/-- One output's bit of LEN_FORCE_OFF. -/
def forceLen (v : Word32) (s : State) (k : Nat) : State :=
  let f := bit v.toNat k
  let s1 := s.setLen k { s.len k with forceOff := f }
  if f then lenOff s1 k else s1

theorem lenForceOff_eq (s : State) (v : Word32) : lenForceOff s v = (List.range 4).foldl (forceLen v) (dropKey s) := rfl

theorem forceLen_other (v : Word32) (s : State) {j k : Nat} (hk : k ≠ j) : (forceLen v s j).len k = s.len k := by
  unfold forceLen
  dsimp only
  split
  · rw [lenOff_other _ hk, State.setLen_other _ _ _ hk]
  · exact State.setLen_other _ _ _ hk

theorem forceLen_same (v : Word32) (s : State) (k : Nat) : ((forceLen v s k).len k).forceOff = bit v.toNat k ∧
    (bit v.toNat k = true → ((forceLen v s k).len k).on = false) ∧
    (bit v.toNat k = false → ((forceLen v s k).len k).on = (s.len k).on) := by
  unfold forceLen
  cases hbit : bit v.toNat k with
  | true =>
    dsimp only
    rw [if_pos rfl, lenOff_same, State.setLen_same]
    exact ⟨rfl, fun _ => rfl, fun h => absurd h (by decide)⟩
  | false =>
    dsimp only
    rw [if_neg (by decide), State.setLen_same]
    exact ⟨rfl, fun h => absurd h (by decide), fun _ => rfl⟩

theorem forceLen_keyPhase (v : Word32) (s : State) (k : Nat) : (forceLen v s k).lsu.keyPhase = s.lsu.keyPhase := by
  unfold forceLen
  dsimp only
  split <;> rfl

theorem lenForceOffWrite_forces {v : Word32} {s : State} (hpor : s.chip.por = false) :
    ∃ t, exec (.lenForceOffWrite v) s = .next t ∧ t.lsu.keyPhase = 0 ∧
      ∀ k, k < 4 → (t.len k).forceOff = bit v.toNat k ∧ (bit v.toNat k = true → (t.len k).on = false) ∧
        (bit v.toNat k = false → (t.len k).on = (s.len k).on) := by
  have hexec : exec (.lenForceOffWrite v) s = .next (after s (lenForceOff s v)) := by
    change execLenForceOffWrite v s = _
    rw [execLenForceOffWrite, lsuRow_runs hpor]
  refine ⟨_, hexec, ?_, fun k hk => ?_⟩
  · rw [after_lsu, lenForceOff_eq]
    exact List.foldlRecOn (motive := fun u : State => u.lsu.keyPhase = 0) _ _ rfl fun u hu j _ =>
      (forceLen_keyPhase v u j).trans hu
  · obtain ⟨u, -, hsame, hend⟩ := foldl_at (f := forceLen v) (g := State.len) (R := fun _ => True) (fun _ _ h => h)
      (fun u _ _ _ hk => forceLen_other v u hk) List.nodup_range (List.mem_range.2 hk) (s := dropKey s) trivial
    have hforce := forceLen_same v u k
    rw [show (u.len k).on = (s.len k).on from congrArg Len.on hsame] at hforce
    rw [after_len, lenForceOff_eq, hend]
    exact hforce

/-! ## The parameter block and the safety record (R384 to R388) -/

/-- The start of a block leaves the unit's parameters and status alone. -/
theorem startBlock_field {α : Type} (f : LightSafety → α) (hf : ∀ u a b c, f { u with ilks := a, lens := b, rcs := c } = f u)
    (s : State) : f (startBlock s).lsu = f s.lsu := by
  unfold startBlock
  refine (lensOff_field f (fun u l => hf u u.ilks l u.rcs) _ _).trans ?_
  refine List.foldlRecOn (motive := fun u : State => f u.lsu = f s.lsu) _ _ ?_ fun u hu j _ =>
    (hf u.lsu u.lsu.ilks u.lsu.lens _).trans hu
  exact List.foldlRecOn (motive := fun u : State => f u.lsu = f s.lsu) _ _ rfl fun u hu i _ =>
    (hf u.lsu _ u.lsu.lens u.lsu.rcs).trans hu

theorem startBlock_off (s : State) {k : Nat} (hk : k < 4) : ((startBlock s).len k).on = false :=
  lensOff_on _ (.inl (List.mem_range.2 hk))

theorem safetyBlockDeliver_takes {b : SafetyBlock} {s : State} (hpor : s.chip.por = false) (hlength : b.words.length = 28)
    (hnew : s.lsu.words = [] ∨ safeCheck b.words ≠ s.lsu.check) :
    ∃ t, exec (.safetyBlockDeliver b) s = .next t ∧ t.lsu.words = b.words ∧ t.lsu.check = safeCheck b.words ∧
      (t.lsu.paramOk = true ↔ safeCheck b.words = b.expected) ∧ ∀ k, k < 4 → (t.len k).on = false := by
  have htakes : ¬ ((!s.lsu.words.isEmpty && safeCheck b.words == s.lsu.check) = true) := by
    rcases hnew with h | h <;> simp [h]
  let kept := s.lsu.words.isEmpty && safeCheck b.words == b.expected && s.lsu.record == some (safeCheck b.words, true)
  let u : State := { s with lsu := { s.lsu with
    words := b.words, check := safeCheck b.words, paramOk := safeCheck b.words == b.expected, commissioned := kept
    committed := if kept then safeCheck b.words else s.lsu.committed } }
  have hexec : exec (.safetyBlockDeliver b) s = .next (after s (startBlock u)) := by
    change execSafetyBlockDeliver b s = _
    rw [execSafetyBlockDeliver, lsuRow_runs hpor, if_pos hlength, deliverBlock, if_neg htakes]
  refine ⟨_, hexec, ?_, ?_, ?_, fun k hk => ?_⟩
  · rw [after_lsu]
    exact startBlock_field (·.words) (fun _ _ _ _ => rfl) u
  · rw [after_lsu]
    exact startBlock_field (·.check) (fun _ _ _ _ => rfl) u
  · rw [after_lsu, startBlock_field (·.paramOk) (fun _ _ _ _ => rfl) u]
    exact beq_iff_eq
  · rw [after_len]
    exact startBlock_off u hk

theorem safetyRecordWrite_records {v : Word32} {s : State} (hpor : s.chip.por = false) (hmain : s.chip.mainRun = true)
    (hpending : s.lsu.recordPending = some v) :
    (∃ t, exec (.safetyRecordWrite true) s = .next t ∧
      t.lsu = { s.lsu with record := some (v, true), recordPending := none }) ∧
    (∃ t, exec (.safetyRecordWrite false) s = .next t ∧
      t.lsu = { s.lsu with recordErr := true, recordPending := none }) := by
  have hexec : ∀ good, exec (.safetyRecordWrite good) s = .next (after s (if good then
      { s with lsu := { s.lsu with record := some (v, true), recordPending := none } }
      else { s with lsu := { s.lsu with recordErr := true, recordPending := none } })) := fun good => by
    change execSafetyRecordWrite good s = _
    rw [execSafetyRecordWrite, lsuRow_runs hpor, hpending]
    dsimp only
    rw [if_neg (by simp [hmain])]
  exact ⟨⟨_, hexec true, after_lsu ..⟩, ⟨_, hexec false, after_lsu ..⟩⟩

/-! ## The unit's own checks (R382) and bindings (R391) -/

/-- An output is de-energised by an internal fault. -/
def faultLen (s : State) (k : Nat) : State := lenOff (s.setLen k { s.len k with cause := .lsuFault }) k

theorem faultLen_same (s : State) (k : Nat) : ((faultLen s k).len k).on = false ∧ ((faultLen s k).len k).cause = .lsuFault := by
  unfold faultLen
  rw [lenOff_same, State.setLen_same]
  exact ⟨rfl, rfl⟩

theorem faultLens_off {k : Nat} (hk : k < 4) (s : State) : (((List.range 4).foldl faultLen s).len k).on = false ∧
    (((List.range 4).foldl faultLen s).len k).cause = .lsuFault := by
  refine foldl_reaches (Q := fun u : State => (u.len k).on = false ∧ (u.len k).cause = .lsuFault)
    (fun u => faultLen_same u k) (fun u j hu => ?_) _ (.inl (List.mem_range.2 hk))
  by_cases hj : k = j
  · rw [hj]
    exact faultLen_same u j
  · rw [faultLen, lenOff_other _ hj, State.setLen_other _ _ _ hj]
    exact hu

theorem faultLens_fault (s : State) : ((List.range 4).foldl faultLen s).lsu.fault = s.lsu.fault :=
  List.foldlRecOn (motive := fun u : State => u.lsu.fault = s.lsu.fault) _ _ rfl fun _ hu _ _ => hu

theorem lsuSelfCheck_faults {crc parity clock supply : Bool} {s : State} (hpor : s.chip.por = false)
    (hgood : s.lsu.fault = false) (hfail : (crc && parity && clock && supply) = false) :
    let d := if !crc then 0 else if !parity then 1 else if !clock then 2 else 3
    Reportable s 0x0073 srcLsu d →
    ∃ t, exec (.lsuSelfCheck crc parity clock supply) s = .next t ∧ t.lsu.fault = true ∧
      NewRecord s t 0x0073 srcLsu d ∧ ∀ k, k < 4 → (t.len k).on = false ∧ (t.len k).cause = .lsuFault := by
  intro d hrep
  let u := (List.range 4).foldl faultLen { s with lsu := { s.lsu with fault := true } }
  have hexec : exec (.lsuSelfCheck crc parity clock supply) s = .next (after s (u.report 0x0073 srcLsu d)) := by
    change execLsuSelfCheck crc parity clock supply s = _
    rw [execLsuSelfCheck, lsuRow_runs hpor, hfail, if_neg Bool.false_ne_true, lsuFault, if_neg (by rw [hgood]; decide)]
    rfl
  have honly : Only [.lsu] s u := .foldl (.set_lsu (by decide) (.refl _ s)) fun _ k h =>
    lenOff_only (State.setLen_only h (List.Subset.refl _) _ _) (List.Subset.refl _) _
  have hrep1 := (hrep.of_only honly (by decide) (by decide) (by decide) (by decide)).1
  have houtputs := report_outputs hrep1 (by decide) 0
  refine ⟨_, hexec, ?_, after_newRecord (report_record_of_only hrep honly (by decide) (by decide) (by decide) (by decide) 0) s,
    fun k hk => ?_⟩
  · rw [after_lsu, (houtputs 0).2.2.1]
    exact faultLens_fault _
  · obtain ⟨hoff, hcause⟩ := faultLens_off hk { s with lsu := { s.lsu with fault := true } }
    rw [after_len]
    exact ⟨(houtputs k).2.1 (.inl hoff), (houtputs k).1.trans hcause⟩

theorem bindingWatchdogExpire_expires {j : Nat} {s : State} (hpor : s.chip.por = false) (hj : j < 8)
    (hreceives : s.lsu.rcReceives j = true) (hlate : (s.rc j).lastAt + s.lsu.rcWatchdog j * msTicks ≤ s.dt) :
    ∃ t, exec (.bindingWatchdogExpire j) s = .next t ∧
      t.rc j = { s.rc j with state := .expired, primed := false, lastSeq := none } ∧ ∀ k, k ≠ j → t.rc k = s.rc k :=
  ⟨_, if_pos (by simp [State.lsuRuns, hpor, hj, hreceives, hlate]), (after_rc ..).trans (State.setRc_same ..),
    fun _ hk => (after_rc ..).trans (State.setRc_other _ _ _ hk)⟩

/-- Settles O32. -/
theorem lightSafetyCommissioningComplete : Obligations.LightSafetyCommissioningComplete := by
  unfold Obligations.LightSafetyCommissioningComplete
  exact ⟨fun _ hpor => ⟨safeKeyWrite_first hpor, safeKeyWrite_second hpor, safeKeyTimeout_closes hpor⟩,
    fun _ hpor hphase hnow => ⟨safeCommitWrite_commissions hpor (keyOpen_of hphase hnow),
      safeCommitWrite_withdraws hpor (keyOpen_of hphase hnow)⟩,
    fun _ _ => safeCommitWrite_refused, fun _ _ _ _ _ => safeAckWrite_clears, fun _ _ _ _ => safeAckWrite_restores,
    fun _ _ => lenForceOffWrite_forces, fun _ _ => safetyBlockDeliver_takes, fun _ _ => safetyRecordWrite_records,
    fun _ _ _ _ _ _ => lsuSelfCheck_faults, fun _ _ => bindingWatchdogExpire_expires⟩

end Sys2Proof.Safety


/-! # Mirroring between mated controllers (O54): records, acknowledgements, SYNCED, digests (R404 to R406, R419) -/

namespace Sys2Proof.Safety

set_option Elab.async false

open Sys2Proof.Machine

/-! ## The redundancy unit under what follows a command -/

/-- Any field of the unit but the progress of a HANDOVER and the numbering of records, in any state. -/
theorem after_mate_any {α : Type} {s : State} (f : Mate → α)
    (hf : ∀ u, f u = f { u with handover := .none, sent := 0, unacked := [], waits := [] }) (s0 : State) :
    f (after s0 s).mate = f s.mate :=
  (after_only (P := afterParts) (.refl _ s) (List.Subset.refl _) s0).mate_field (by decide) f hf

/-- The parts that hold what is mirrored (Table 15-2). -/
def mirroredParts : List Part := [.store, .loops, .elems, .links, .calib, .lsu]

theorem diffKeys_self {α : Type} [DecidableEq α] (d : α) (t : Tab α) : diffKeys d t t = [] := by simp [diffKeys]

/-- No record comes of a state in which nothing mirrored has changed. -/
theorem mirrorDiff_eq_nil {P : List Part} {s t : State} (h : Only P s t) (hP : ∀ p ∈ mirroredParts, p ∉ P) :
    s.mirrorDiff t = [] := by
  have hstore : t.store = s.store := h .store (hP _ (by decide))
  have helems : t.loops.elems = s.loops.elems := h .elems (hP _ (by decide))
  have hclasses : t.loops.classes = s.loops.classes := by
    have hloops := congrArg Loops.classes (h .loops (hP .loops (by decide)))
    exact hloops
  have hlinks : t.paost.links = s.paost.links := h .links (hP _ (by decide))
  have hversion : t.calib.version = s.calib.version := h.calib_field (hP _ (by decide)) (·.version) fun _ => rfl
  have hrows : t.calib.rowSet = s.calib.rowSet := h.calib_field (hP _ (by decide)) (·.rowSet) fun _ => rfl
  have hlsu : t.lsu = s.lsu := h .lsu (hP _ (by decide))
  have hended : s.store.launches.filter (fun l => s.store.launches.all fun x => x.serial != l.serial) = [] :=
    List.filter_eq_nil_iff.2 fun l hl => by simpa using ⟨l, hl, rfl⟩
  simp [State.mirrorDiff, hstore, helems, hclasses, hlinks, hversion, hrows, hlsu, diffKeys_self, hended]

theorem Only.mate_eq {P : List Part} {s t : State} (h : Only P s t) (hmate : .mate ∉ P) (hhand : .handover ∉ P)
    (hmirror : .mirror ∉ P) : t.mate = s.mate := by
  have h1 := h .mate hmate
  have h2 := h .handover hhand
  have h3 := h .mirror hmirror
  simp only [Part.same] at h1 h2 h3
  generalize t.mate = a at *
  generalize s.mate = b at *
  cases a; cases b; simp only [Mate.mk.injEq] at *; simp_all

/-- Where nothing mirrored has changed, what follows a command leaves the redundancy unit alone. -/
theorem after_mate_of_unmirrored {P : List Part} {s0 s : State} (h : Only P s0 s) (hP : ∀ p ∈ mirroredParts, p ∉ P)
    (hq : Quiet s) (hsent : s.mate.sent = s0.mate.sent ∨ s.mate.synced = false) : (after s0 s).mate = s.mate := by
  have htouched : Only [.digest] s (digestTouch s0 (recordTouch s)) :=
    digestTouch_only (recordTouch_only (.refl _ s) (List.Subset.refl _)) (List.Subset.refl _) s0
  have hmate : (digestTouch s0 (recordTouch s)).mate = s.mate := htouched.mate_eq (by decide) (by decide) (by decide)
  have hdiff : s0.mirrorDiff (digestTouch s0 (recordTouch s)) = [] :=
    mirrorDiff_eq_nil (P := .digest :: P) (.trans (h.mono (List.subset_cons_self _ _))
      (htouched.mono (List.cons_subset_cons _ (List.nil_subset _)))) fun p hp => List.not_mem_cons_of_ne_of_not_mem
        (by revert hp; revert p; decide) (hP p hp)
  have hstays : mirrorTouch s0 (digestTouch s0 (recordTouch s)) = digestTouch s0 (recordTouch s) := by
    unfold mirrorTouch
    rw [hdiff]
    refine (ite_eq_right_iff.2 fun _ => if_pos ?_)
    rw [List.foldl_nil, hmate]
    rcases hsent with h | h <;> simp [h]
  obtain ⟨hhand, hresumes⟩ := hq
  have hnotified : Only [.out, .irq] (digestTouch s0 (recordTouch s)) (after s0 s) := by
    unfold after
    rw [handoverStep_idle hhand, resumeStep_idle hresumes, hstays]
    exact State.lsuNotify_only (regionNotify_only (mateNotify_only (peerNotify_only (timeNotify_only (.refl _ _)
      (List.Subset.refl _) s0) (List.Subset.refl _) s0) (List.Subset.refl _) s0) (List.Subset.refl _) s0)
      (List.Subset.refl _) _
  exact (hnotified.mate_eq (by decide) (by decide) (by decide)).trans hmate

/-! ## Records at the standby (R404) -/

theorem applyRecord_conn {r : MirrorRec} {v hd sn w : Nat} (hkind : r.kind = 2) (hvalue : r.value = [v, hd, sn, w]) (s : State) :
    (applyRecord s r).conn r.key = if v = 0 then none else
      some { clause := BitVec.ofNat 128 w, handle := hd, serial := BitVec.ofNat 16 sn } := by
  obtain ⟨kind, key, value⟩ := r
  subst hkind hvalue
  exact State.setConn_same ..

theorem mirrorReceive_applies {n : Nat} {r : MirrorRec} {s : State} (hrole : s.mate.role = .standby)
    (hturn : s.mate.snapshotWanted = true ∨ n % 2 ^ 22 = (s.mate.applied + 1) % 2 ^ 22) :
    ∃ t, exec (.mirrorReceive n r) s = .next t ∧ t.mate.applied = n ∧ .mateFrame "MIRROR_ACK" [n % 2 ^ 22] ∈ t.out ∧
      (r.kind = 2 → ∀ v hd sn w, r.value = [v, hd, sn, w] → t.conn r.key = if v = 0 then none else
        some { clause := BitVec.ofNat 128 w, handle := hd, serial := BitVec.ofNat 16 sn }) := by
  let u := ({ applyRecord s r with mate := { (applyRecord s r).mate with applied := n } } : State).emit
    (.mateFrame "MIRROR_ACK" [recNum n])
  have hturn : s.mate.snapshotWanted = true ∨ recNum n = recNum (s.mate.applied + 1) := hturn
  have hexec : exec (.mirrorReceive n r) s = .next (after s u) := by
    change execMirrorReceive n r s = _
    rw [execMirrorReceive, if_neg (by simp [hrole]), if_pos (Bool.or_eq_true_iff.2 (hturn.imp id decide_eq_true))]
    rfl
  refine ⟨_, hexec, after_mate_any (s := u) (·.applied) (fun _ => rfl) s,
    mem_after_out (List.mem_append_right _ (List.mem_singleton_self _)) s, fun hkind v hd sn w hvalue => ?_⟩
  rw [after_conn]
  exact applyRecord_conn hkind hvalue s

theorem askSnapshot_asks (s0 s : State) : (after s0 (askSnapshot s)).mate.snapshotWanted = true ∧
    (after s0 (askSnapshot s)).mate.synced = false ∧ (after s0 (askSnapshot s)).mate.applied = s.mate.applied ∧
    .mateFrame "SYNC_REQ" [] ∈ (after s0 (askSnapshot s)).out :=
  ⟨after_mate_any (s := askSnapshot s) (·.snapshotWanted) (fun _ => rfl) s0,
    after_mate_any (s := askSnapshot s) (·.synced) (fun _ => rfl) s0,
    after_mate_any (s := askSnapshot s) (·.applied) (fun _ => rfl) s0,
    mem_after_out (List.mem_append_right _ (List.mem_singleton_self _)) s0⟩

theorem mirrorReceive_asks {n : Nat} {r : MirrorRec} {s : State} (hrole : s.mate.role = .standby)
    (hwanted : s.mate.snapshotWanted = false) (hgap : n % 2 ^ 22 ≠ (s.mate.applied + 1) % 2 ^ 22) :
    ∃ t, exec (.mirrorReceive n r) s = .next t ∧ t.mate.snapshotWanted = true ∧ t.mate.applied = s.mate.applied ∧
      .mateFrame "SYNC_REQ" [] ∈ t.out := by
  have hexec : exec (.mirrorReceive n r) s = .next (after s (askSnapshot s)) := by
    change execMirrorReceive n r s = _
    rw [execMirrorReceive, if_neg (by simp [hrole]), if_neg (by rw [hwanted]; exact fun h => hgap (of_decide_eq_true h))]
    rfl
  obtain ⟨hasked, -, happlied, hout⟩ := askSnapshot_asks s s
  exact ⟨_, hexec, hasked, happlied, hout⟩

theorem snapshotApplied_syncs {n : Nat} {s : State} (hrole : s.mate.role = .standby) (hwanted : s.mate.snapshotWanted = true) :
    ∃ t, exec (.snapshotApplied n) s = .next t ∧ t.mate.synced = !s.mate.digestMismatch ∧ t.mate.applied = n ∧
      t.mate.snapshotWanted = false ∧ .mateFrame "MIRROR_ACK" [n % 2 ^ 22] ∈ t.out := by
  let u := ({ s with
    mate := { s.mate with snapshotWanted := false, applied := n, synced := !s.mate.digestMismatch }
    chip := { s.chip with restartMode := 3, resolved := true } } : State).emit (.mateFrame "MIRROR_ACK" [recNum n])
  have hexec : exec (.snapshotApplied n) s = .next (after s u) := by
    change execSnapshotApplied n s = _
    rw [execSnapshotApplied, if_pos (by simp [hrole, hwanted])]
    rfl
  exact ⟨_, hexec, after_mate_any (s := u) (·.synced) (fun _ => rfl) s, after_mate_any (s := u) (·.applied) (fun _ => rfl) s,
    after_mate_any (s := u) (·.snapshotWanted) (fun _ => rfl) s,
    mem_after_out (List.mem_append_right _ (List.mem_singleton_self _)) s⟩

/-! ## Acknowledgements at the active (R404 to R406) -/

theorem mirrorAckReceive_acknowledges {n m t0 : Nat} {s : State} (hq : Quiet s)
    (hfind : s.mate.unacked.find? (fun p => p.1 % 2 ^ 22 = n % 2 ^ 22) = some (m, t0)) :
    ∃ t, exec (.mirrorAckReceive n) s = .next t ∧ t.mate.acked = m ∧ t.mate.unacked = s.mate.unacked.filter (fun p => m < p.1) ∧
      t.mate.synced = (s.mate.synced || ((s.mate.unacked.filter fun p => m < p.1).isEmpty && decide (s.dt ≤ t0 + 100 * usTicks) &&
        !s.mate.digestMismatch)) := by
  let left := s.mate.unacked.filter fun p => m < p.1
  let u : State := { s with mate := { s.mate with
    acked := m, unacked := left, waits := s.mate.waits.filter fun w => m < w.record
    synced := s.mate.synced || (left.isEmpty && decide (s.dt ≤ t0 + 100 * usTicks) && !s.mate.digestMismatch) } }
  have hexec : exec (.mirrorAckReceive n) s = .next (after s u) := by
    change execMirrorAckReceive n s = _
    rw [execMirrorAckReceive, show (s.mate.unacked.find? fun p => recNum p.1 = recNum n) = _ from hfind]
    rfl
  have honly : Only [.mate, .mirror] s u := .set_mate (.inl (by decide)) (.inr rfl) (.inl (by decide)) (.refl _ s)
  have hmate : (after s u).mate = u.mate := after_mate_of_unmirrored honly (by decide) hq (.inl rfl)
  exact ⟨_, hexec, by rw [hmate], by rw [hmate], by rw [hmate]⟩

theorem mirrorAckTimeout_unsyncs {n t0 : Nat} {l : List (Nat × Nat)} {s : State} (hunacked : s.mate.unacked = (n, t0) :: l)
    (hlate : t0 + 100 * usTicks ≤ s.dt) (hrole : s.mate.role = .active) (hq : Quiet s) :
    ∃ t, exec .mirrorAckTimeout s = .next t ∧ t.mate.synced = false ∧ t.mate.waits = [] := by
  let u : State := { s with mate := { s.mate with synced := false, waits := [] } }
  have hexec : exec .mirrorAckTimeout s = .next (after s u) := by
    change execMirrorAckTimeout s = _
    rw [execMirrorAckTimeout, hunacked]
    exact if_pos (by simp [hlate, hrole])
  have honly : Only [.mate, .mirror] s u := .set_mate (.inl (by decide)) (.inr rfl) (.inl (by decide)) (.refl _ s)
  have hmate : (after s u).mate = u.mate := after_mate_of_unmirrored honly (by decide) hq (.inr rfl)
  exact ⟨_, hexec, by rw [hmate], by rw [hmate]⟩

/-! ## Snapshots (R404) -/

theorem sendMirrors_numbering (rs : List (List Nat)) (s : State) : (rs.foldl sendMirror s).mate.sent = s.mate.sent + rs.length ∧
    (rs.foldl sendMirror s).mate.waits = s.mate.waits := by
  induction rs generalizing s with
  | nil => exact ⟨rfl, rfl⟩
  | cons r rs ih =>
    obtain ⟨hsent, hwaits⟩ := ih (sendMirror s r)
    refine ⟨hsent.trans ?_, hwaits⟩
    rw [List.length_cons, ← Nat.add_assoc, Nat.add_right_comm]
    rfl

theorem syncReq_standby {s : State} (hrole : s.mate.role = .standby) :
    ∃ t, exec .syncReq s = .next t ∧ t.mate.snapshotWanted = true ∧ t.mate.synced = false ∧
      .mateFrame "SYNC_REQ" [] ∈ t.out := by
  have hexec : exec .syncReq s = .next (after s (askSnapshot s)) := by
    change execSyncReq s = _
    rw [execSyncReq, if_pos (by simp [hrole])]
    rfl
  obtain ⟨hasked, hsynced, -, hout⟩ := askSnapshot_asks s s
  exact ⟨_, hexec, hasked, hsynced, hout⟩

/-- A snapshot sent by a controller that is not SYNCED numbers its records on and makes nothing wait. -/
theorem sendSnapshot_numbers {u : State} (hq : Quiet u) (hsynced : u.mate.synced = false) :
    let t := after u (sendSnapshot u)
    t.mate.synced = false ∧ t.mate.waits = u.mate.waits ∧ t.mate.sent = u.mate.sent + (State.mirrorDiff {} u).length := by
  have honly : Only [.out, .mirror] u (sendSnapshot u) := sendSnapshot_only (.refl _ u) (List.Subset.refl _)
  have hquiet : Quiet (sendSnapshot u) := hq.of_only honly (by decide) (by decide)
  have hunsynced : (sendSnapshot u).mate.synced = false :=
    (honly.mate_field (by decide) (·.synced) fun _ => rfl).trans hsynced
  have hmate : (after u (sendSnapshot u)).mate = (sendSnapshot u).mate :=
    after_mate_of_unmirrored honly (by decide) hquiet (.inr hunsynced)
  have hnumbers : (sendSnapshot u).mate.sent = u.mate.sent + (State.mirrorDiff {} u).length ∧
      (sendSnapshot u).mate.waits = u.mate.waits := by
    rw [sendSnapshot]
    exact sendMirrors_numbering _ u
  dsimp only
  rw [hmate]
  exact ⟨hunsynced, hnumbers.2, hnumbers.1⟩

/-- The state from which a snapshot is sent: nothing is unacknowledged, nothing waits. -/
def forgetRecords (s : State) : State := { s with mate := { s.mate with synced := false, unacked := [], waits := [] } }

theorem mirrorDiff_forgetRecords (s0 s : State) : s0.mirrorDiff (forgetRecords s) = s0.mirrorDiff s := rfl

theorem syncReq_active {s : State} (hq : Quiet s) (hrole : s.mate.role = .active) :
    ∃ t, exec .syncReq s = .next t ∧ t.mate.synced = false ∧ t.mate.waits = [] ∧
      t.mate.sent = s.mate.sent + (State.mirrorDiff {} s).length := by
  have hexec : exec .syncReq s = .next (after (forgetRecords s) (sendSnapshot (forgetRecords s))) := by
    change execSyncReq s = _
    rw [execSyncReq, if_neg (by simp [hrole]), if_pos (by simp [hrole])]
    rfl
  have hquiet : Quiet (forgetRecords s) := hq
  obtain ⟨hsynced, hwaits, hsent⟩ := sendSnapshot_numbers hquiet rfl
  rw [mirrorDiff_forgetRecords] at hsent
  exact ⟨_, hexec, hsynced, hwaits, hsent⟩

/-! ## Digests (R419) -/

theorem digestFrameReceive_compares (d : BitVec 256) (s : State) :
    ∃ t, exec (.digestFrameReceive d) s = .next t ∧ t.mate.mateDigest = d ∧
      t.mate.differAt = if d = s.chip.digest then none else some (s.mate.differAt.getD s.dt) := by
  let u := compareDigests { s with mate := { s.mate with mateDigest := d } }
  have hu : u.mate.mateDigest = d ∧ u.mate.differAt = if d = s.chip.digest then none else some (s.mate.differAt.getD s.dt) := by
    by_cases hsame : d = s.chip.digest
    · have hu : u = _ := if_neg (not_not_intro hsame)
      rw [hu, if_pos hsame]
      exact ⟨rfl, rfl⟩
    · have hu : u = _ := if_pos hsame
      rw [hu, if_neg hsame]
      exact ⟨rfl, rfl⟩
  exact ⟨_, rfl, (after_mate_any (s := u) (·.mateDigest) (fun _ => rfl) s).trans hu.1,
    (after_mate_any (s := u) (·.differAt) (fun _ => rfl) s).trans hu.2⟩

theorem setMismatch_mate (s : State) : (setMismatch s).mate.digestMismatch = true ∧ (setMismatch s).mate.synced = false := by
  unfold setMismatch
  split
  next h => exact ⟨h, rfl⟩
  next =>
    have hreport := fun u : State => report_minor (s := u) (code := 0x0083) (by decide) srcMate 0 0
    exact ⟨(hreport _).mate_field (by decide) (·.digestMismatch) fun _ => rfl,
      (hreport _).mate_field (by decide) (·.synced) fun _ => rfl⟩

theorem setMismatch_record {s : State} (hfirst : s.mate.digestMismatch = false) (hrep : Reportable s 0x0083 srcMate 0) :
    NewRecord s (setMismatch s) 0x0083 srcMate 0 := by
  rw [setMismatch, if_neg (by simp [hfirst])]
  exact report_record_of_only (P := [.mate]) hrep (.set_mate (v := { s.mate with digestMismatch := true, synced := false }) (.inl (by decide)) (.inr rfl) (.inr ⟨rfl, rfl, rfl⟩) (.refl _ s)) (by decide) (by decide) (by decide)
    (by decide) 0

theorem digestMismatchExpire_mismatches {t0 : Nat} {s : State} (hdiffer : s.mate.differAt = some t0) (hlate : t0 + msTicks < s.dt) :
    ∃ t, exec .digestMismatchExpire s = .next t ∧ t.mate.digestMismatch = true ∧ t.mate.synced = false ∧
      (s.mate.digestMismatch = false → Reportable s 0x0083 srcMate 0 → NewRecord s t 0x0083 srcMate 0) := by
  have hexec : exec .digestMismatchExpire s = .next (after s (setMismatch s)) := by
    change execDigestMismatchExpire s = _
    rw [execDigestMismatchExpire, hdiffer]
    exact if_pos hlate
  obtain ⟨hmismatch, hsynced⟩ := setMismatch_mate s
  exact ⟨_, hexec, (after_mate_any (·.digestMismatch) (fun _ => rfl) s).trans hmismatch,
    (after_mate_any (·.synced) (fun _ => rfl) s).trans hsynced,
    fun hfirst hrep => after_newRecord (setMismatch_record hfirst hrep) s⟩

/-- Settles O54. -/
theorem mirrorRowsComplete : Obligations.MirrorRowsComplete := by
  unfold Obligations.MirrorRowsComplete
  exact ⟨fun _ _ _ _ hrole => ⟨mirrorReceive_applies hrole, mirrorReceive_asks hrole⟩,
    fun _ _ _ _ => mirrorAckReceive_acknowledges, fun _ _ _ _ => mirrorAckTimeout_unsyncs,
    fun _ hq => ⟨syncReq_standby, syncReq_active hq⟩, fun _ _ _ => snapshotApplied_syncs, digestFrameReceive_compares,
    fun _ _ _ => digestMismatchExpire_mismatches⟩

end Sys2Proof.Safety


/-! # The fault collector (O43): reports, merging, the safe state, clearing, injection (R421 to R439) -/

namespace Sys2Proof.Safety

set_option Elab.async false

open Sys2Proof.Machine

/-! ## FAULT_REPORT (R421 to R426) -/

theorem newRecord_of_only {P : List Part} {s t u : State} {code source d0 : Nat} (h : NewRecord s t code source d0)
    (hu : Only P t u) (hfaults : .faults ∉ P) : NewRecord s u code source d0 := by
  have hlog := congrArg Faults.log (hu .faults hfaults)
  unfold NewRecord
  rwa [hlog]

/-- A report of no fenced unit, of no fault of the collector itself: it is recorded, then its fence is made. -/
theorem faultReport_eq {r : Report} {s : State} (hpor : s.chip.por = false) (hmain : s.chip.mainRun = true)
    (hfence : s.fencedSource r = false) (hcode : r.code ≠ 0x0001) :
    exec (.faultReport [r]) s = .next (after s (reactTo (s.report r.code r.source r.detail0 r.detail1) r)) := by
  change execFaultReport [r] s = _
  rw [execFaultReport, if_neg (by simp [hpor])]
  simp only [List.filter_cons, hfence, Bool.not_false, if_true, List.filter_nil, bne_iff_ne, ne_eq, hcode, not_false_eq_true,
    List.length_singleton, Nat.lt_irrefl, if_false, hmain]
  rfl

theorem reactTo_none {s : State} {r : Report} (h11 : r.code ≠ 0x0011) (h12 : r.code ≠ 0x0012) (h22 : r.code ≠ 0x0022)
    (h31 : r.code ≠ 0x0031) : reactTo s r = s := by simp [reactTo, h11, h12, h22, h31]

theorem faultReport_records {r : Report} {s : State} (hpor : s.chip.por = false) (hrep : Reportable s r.code r.source r.detail0)
    (h1 : r.code ≠ 0x0001) (h11 : r.code ≠ 0x0011) (h12 : r.code ≠ 0x0012) (h22 : r.code ≠ 0x0022) (h31 : r.code ≠ 0x0031) :
    ∃ t, exec (.faultReport [r]) s = .next t ∧ NewRecord s t r.code r.source r.detail0 ∧
      (severityOf r.code = 3 → s.faults.safeState = false → t.faults.safeState = true ∧ t.lsu.safeState = true ∧
        ∀ k, k < 4 → (t.len k).on = false) := by
  have hexec := faultReport_eq (r := r) hpor hrep.1 hrep.2.1 h1
  rw [reactTo_none h11 h12 h22 h31] at hexec
  refine ⟨_, hexec, after_newRecord (report_record hrep _) s, fun hsev hsafe => ⟨?_, ?_, fun k hk => ?_⟩⟩
  · rw [after_safeState]
    exact report_enters_safeState hrep hsev _
  · rw [after_lsu]
    exact (report_outputs hrep hsev _ 0).2.2.2 hsafe
  · rw [after_len]
    exact (report_outputs hrep hsev _ k).2.1 (.inr ⟨hsafe, hk⟩)

theorem fenceRegion_fenced (s : State) (n : Nat) : ((fenceRegion s n).region n).fenced = true := by
  unfold fenceRegion
  dsimp only
  split
  next h => exact (Bool.and_eq_true_iff.1 h).1
  next =>
    have hrest := fun u : State => fun a b c d => abortBurst_only (settleAll_only (fenceLaunchTiles_only (loseCalRuns_only
      (endRuns_only (staleByElem_only (P := [.out, .issues, .owed, .store, .elems, .runs, .calRuns, .links, .matrix])
        (.refl _ u) (by decide) a) (by decide) b endLost) (by decide) c) (by decide) d) (by decide)) (by decide) n 0
    rw [State.region, show (abortBurst _ n 0).regions = _ from hrest _ _ _ _ _ .regions (by decide)]
    exact congrArg Region.fenced (State.setRegion_same s n _)

theorem faultReport_fences {n : Nat} {s : State} (hpor : s.chip.por = false) (hrep : Reportable s 0x0011 (srcRegion n) 0)
    (hn : n < 16) (hq : Quiet s) :
    ∃ t, exec (.faultReport [{ code := 0x0011, source := srcRegion n }]) s = .next t ∧
      NewRecord s t 0x0011 (srcRegion n) 0 ∧ (t.region n).fenced = true := by
  have hreact : ∀ u, reactTo u { code := 0x0011, source := srcRegion n } = fenceRegion u n := fun u => by
    have hsource : (decide (16 ≤ 16 + n) && decide (16 + n < 32)) = true := by simp; omega
    simp only [reactTo, srcRegion, decide_true, Bool.true_or, if_true, Nat.add_sub_cancel_left]
    exact if_pos hsource
  have hexec := faultReport_eq (r := { code := 0x0011, source := srcRegion n }) hpor hrep.1 hrep.2.1 (show 0x0011 ≠ 0x0001 by decide)
  have hfence := fenceRegion_only (P := [.out, .issues, .owed, .regions, .store, .elems, .runs, .calRuns, .links, .matrix])
    (.refl _ (s.report 0x0011 (srcRegion n))) (List.Subset.refl _) n
  have hq1 := (hq.of_only (report_minor (code := 0x0011) (by decide) (srcRegion n) 0 0) (by decide) (by decide)).of_only hfence
    (by decide) (by decide)
  rw [hreact] at hexec
  refine ⟨_, hexec, after_newRecord (newRecord_of_only (report_record hrep 0) hfence (by decide)) s, ?_⟩
  rw [after_region hq1.1 hq1.2]
  exact fenceRegion_fenced _ n

/-- A report that a record of the latest millisecond takes in (R424). -/
theorem report_merges {r : Report} {f : FaultRec} {s : State} (hmain : s.chip.mainRun = true) (hfence : s.fencedSource r = false)
    (hmerge : findMerge (s.faults.log ++ s.faults.spill) r s.dt = some f) :
    s.report r.code r.source r.detail0 r.detail1 = { s with faults := { s.faults with
      log := mapSeq s.faults.log f.seq fun g => g.merged s.dt
      spill := mapSeq s.faults.spill f.seq fun g => g.merged s.dt
      aonCopy := mapSeq s.faults.aonCopy f.seq fun g => g.merged s.dt } } := by
  change recordReports s [r] = _
  simp only [recordReports, List.filter_cons, hfence, Bool.not_false, if_true, List.filter_nil, sortReports, List.foldr_cons,
    List.foldr_nil, insertReport, List.foldl_cons, List.foldl_nil, recordOne, hmain, hmerge]

theorem faultReport_merges {r : Report} {f : FaultRec} {s : State} (hpor : s.chip.por = false) (hmain : s.chip.mainRun = true)
    (hfence : s.fencedSource r = false) (h1 : r.code ≠ 0x0001) (h11 : r.code ≠ 0x0011) (h12 : r.code ≠ 0x0012)
    (h22 : r.code ≠ 0x0022) (h31 : r.code ≠ 0x0031) (hmerge : findMerge (s.faults.log ++ s.faults.spill) r s.dt = some f) :
    ∃ t, exec (.faultReport [r]) s = .next t ∧ t.faults.nextSeq = s.faults.nextSeq ∧
      t.faults.log = s.faults.log.map (fun g => if g.seq = f.seq then
        { g with count := satInc g.count 0xFFFF, timeLast := s.dt % 2 ^ 32 } else g) := by
  have hexec := faultReport_eq hpor hmain hfence h1
  rw [reactTo_none h11 h12 h22 h31, report_merges hmain hfence hmerge] at hexec
  exact ⟨_, hexec, after_faults_field (·.nextSeq) (fun _ => rfl) .., after_faults_field (·.log) (fun _ => rfl) ..⟩

/-! ## Faults of the collector, the engines and the management sequencer (R428, R433) -/

theorem mem_latest_append {α : Type} {n : Nat} (hn : 0 < n) (l : List α) (x : α) : x ∈ latest n (l ++ [x]) := by
  rw [latest, List.drop_append_of_le_length (by simp; omega)]
  exact List.mem_append_right _ (List.mem_singleton_self x)

theorem enterSafeState_aonCopy (s : State) (q : Nat) : (enterSafeState s q).faults.aonCopy = s.faults.aonCopy := by
  rw [enterSafeState_eq]
  split
  · rfl
  · have hopened := openToCal_only (.refl [.out, .irq, .house] (lightStopped s q)) (by decide)
    exact ((State.msix_only hopened (by decide) 16).faults_field (by decide) (·.aonCopy) fun _ => rfl).trans
      ((lightStopped_only s q).faults_field (by decide) (·.aonCopy) fun _ => rfl)

theorem collectorSelfFault_stops {s : State} (hmain : s.chip.mainRun = true) (hsafe : s.faults.safeState = false) :
    ∃ t, exec .collectorSelfFault s = .next t ∧ t.faults.safeState = true ∧
      (∃ f ∈ t.faults.aonCopy, f.code = 0x0001 ∧ f.severity = 3) ∧ ∀ k, k < 4 → (t.len k).on = false := by
  have hexec : exec .collectorSelfFault s = .next (after s (collectorFault s false)) := if_pos hmain
  refine ⟨_, hexec, ?_, ?_, fun k hk => ?_⟩
  · rw [after_safeState]
    exact enterSafeState_safeState _ _
  · rw [after_faults_field (·.aonCopy) fun _ => rfl, collectorFault, enterSafeState_aonCopy]
    exact ⟨_, List.mem_map_of_mem (mem_latest_append (by decide) _ _), rfl, rfl⟩
  · rw [after_len]
    exact (enterSafeState_outputs _ _ k).2.1 (.inr ⟨hsafe, hk⟩)

theorem centralEngineError_stops {ddr : Bool} {src : Nat} {s : State} (hrep : Reportable s (if ddr then 0x0052 else 0x0053) src 0) :
    ∃ t, exec (.centralEngineError ddr src) s = .next t ∧ NewRecord s t (if ddr then 0x0052 else 0x0053) src 0 ∧
      t.faults.safeState = true := by
  refine ⟨_, if_pos hrep.1, after_newRecord (report_record hrep 0) s, ?_⟩
  rw [after_safeState]
  exact report_enters_safeState hrep (by cases ddr <;> rfl) 0

/-- A peer's session, or its attempt at one, ends with the sequencer's restart. -/
def dropPeer (s : State) (p : Nat) : State :=
  if (s.peer p).state == .up then closeSession s p 0 false else s.setPeer p { s.peer p with state := .absent }

theorem dropPeer_same (s : State) (p : Nat) : ((dropPeer s p).peer p).state = .absent := by
  unfold dropPeer
  split
  · exact closeSession_same ..
  · rw [State.setPeer_same]

theorem dropPeer_absent {s : State} {k : Nat} (p : Nat) (h : (s.peer k).state = .absent) :
    ((dropPeer s p).peer k).state = .absent := by
  by_cases hk : k = p
  · rw [hk]
    exact dropPeer_same s p
  · unfold dropPeer
    split
    · rwa [closeSession_other _ _ _ _ hk]
    · rwa [State.setPeer_other _ _ _ hk]

/-- The sequencer's banks are initialised. -/
def initMgmtBanks (u : State) : State :=
  ((List.range 32).filter fun b => (u.bank b).owner = ownMgmt && (u.bank b).awake).foldl
    (fun (v : State) b => v.setBank b { v.bank b with initEnd := some (v.dt + 204800) }) u

/-- PTP measurements stop; the unit that was LOCKED runs in HOLDOVER. -/
def stopPtp (u : TimeUnit) : TimeUnit :=
  { u with ptp := { discarded := u.ptp.discarded, gated := u.ptp.gated }, state := if u.state == .locked then .holdover else u.state }

/-- The sequencer restarted, its sessions dropped. -/
def restartedMgmt (s : State) : State :=
  (List.range 16).foldl dropPeer (initMgmtBanks (abortBurst (s.report 0x0054 srcMgmt) 18 0))

theorem mgmtWatchdog_eq {s : State} (hmain : s.chip.mainRun = true) :
    exec .mgmtWatchdog s = .next (after s { restartedMgmt s with time := stopPtp (restartedMgmt s).time }) := by
  change execMgmtWatchdog s = _
  unfold execMgmtWatchdog restartedMgmt initMgmtBanks dropPeer stopPtp
  rw [if_neg (by simp [hmain])]
  rfl

theorem restartedMgmt_only (s : State) : Only [.matrix, .mem, .out, .owed, .adm] (s.report 0x0054 srcMgmt) (restartedMgmt s) :=
  .foldl (.foldl (abortBurst_only (.refl _ _) (by decide) 18 0) fun _ b h => State.setBank_only h (by decide) b _) fun _ p h =>
    .ite (closeSession_only h (by decide) p 0 false) (State.setPeer_only h (by decide) p _)

theorem restartedMgmt_absent (s : State) {p : Nat} (hp : p < 16) : ((restartedMgmt s).peer p).state = .absent :=
  foldl_reaches (b := p) (Q := fun v : State => (v.peer p).state = .absent) (dropPeer_same · p)
    (fun _ k h => dropPeer_absent k h) _ (.inl (List.mem_range.2 hp))

theorem mgmtWatchdog_restarts {s : State} (hrep : Reportable s 0x0054 srcMgmt 0) :
    ∃ t, exec .mgmtWatchdog s = .next t ∧ NewRecord s t 0x0054 srcMgmt 0 ∧ (∀ p, p < 16 → (t.peer p).state = .absent) ∧
      t.time.state = (if s.time.state = .locked then .holdover else s.time.state) := by
  have honly := restartedMgmt_only s
  have hexec := mgmtWatchdog_eq hrep.1
  have habsent : ∀ p, p < 16 → ((restartedMgmt s).peer p).state = .absent := fun _ hp => restartedMgmt_absent s hp
  generalize restartedMgmt s = u at honly hexec habsent
  have htime : u.time = s.time := (honly .time (by decide)).trans (report_minor (by decide) srcMgmt 0 0 .time (by decide))
  have hrecord : NewRecord s { u with time := stopPtp u.time } 0x0054 srcMgmt 0 :=
    newRecord_of_only (u := u) (report_record hrep 0) honly (by decide)
  refine ⟨_, hexec, after_newRecord hrecord s, fun p hp => ?_, ?_⟩
  · rw [after_peer]
    exact habsent p hp
  · rw [after_time, htime]
    exact if_congr beq_iff_eq rfl rfl

/-! ## Clearing (R435, R436) -/

theorem uncountAll_field {α : Type} (f : Faults → α) (hf : ∀ u v, f (uncountCleared u v) = f u) (l : List Nat) (u : Faults) :
    f (l.foldl uncountCleared u) = f u :=
  List.foldlRecOn (motive := fun v : Faults => f v = f u) _ _ rfl fun v hv x _ => (hf v x).trans hv

theorem faultClear_clears {v : Word32} {s : State} (hmain : s.chip.mainRun = true) :
    ∃ t, exec (.faultClear v) s = .next t ∧ t.faults.log = s.faults.log.map (fun f =>
        if seqUpTo v.toNat f.seq then { f with cleared := true } else f) ∧
      t.faults.nextSeq = s.faults.nextSeq ∧ t.faults.safeState = s.faults.safeState := by
  have hexec : exec (.faultClear v) s = .next (after s (faultClear s v.toNat)) := if_pos hmain
  refine ⟨_, hexec, after_faults_field (·.log) (fun _ => rfl) .., (after_faults_field (·.nextSeq) (fun _ => rfl) ..).trans ?_,
    (after_safeState ..).trans ?_⟩
  · exact uncountAll_field (·.nextSeq) (fun u v => by unfold uncountCleared; split <;> rfl) _ _
  · exact uncountAll_field (·.safeState) (fun u v => by unfold uncountCleared; split <;> rfl) _ _

theorem faultFirstClear_clears {s : State} (hmain : s.chip.mainRun = true) :
    ∃ t, exec .faultFirstClear s = .next t ∧ t.faults.firstValid = false ∧ t.faults.log = s.faults.log := by
  have hexec : exec .faultFirstClear s = .next (after s (firstClear s)) := if_pos hmain
  exact ⟨_, hexec, after_faults_field (·.firstValid) (fun _ => rfl) .., after_faults_field (·.log) (fun _ => rfl) ..⟩

/-! ## Injection (R439) -/

/-- The fields of an injection are taken. -/
def takeInjection (s : State) (k u : Nat) (dbl isReact : Bool) : State := { s with faults := { s.faults with
  injTarget := k, injUnit := u, injDouble := dbl, injReact := isReact
  injErr := s.faults.injErr || decide (unitTop k < u) } }

theorem inject_eq {s : State} {k u : Nat} (hfree : s.faults.injBusy = none) (hk : k < 7) (hu : u ≤ unitTop k)
    (dbl isReact side : Bool) : inject s k u dbl isReact side =
      if isReact then injectReact (takeInjection s k u dbl isReact) k u dbl
      else injectCheck (takeInjection s k u dbl isReact) k u := by
  unfold inject
  dsimp only
  rw [Nat.mod_eq_of_lt (show k < 8 by omega), Nat.min_eq_left hu,
    if_neg (by simp [hfree, show k ≠ 7 by omega])]
  rfl

theorem recordNew_injected (s : State) (r : Report) (sev : Nat) (simul inj : Bool) :
    ∃ f ∈ (recordNew s r sev simul inj).faults.log, f.seq = some s.faults.nextSeq ∧ f.code = r.code ∧ f.injected = inj ∧
      f.severity = sev := by
  have hseq : (countUncleared s.faults sev).nextSeq = s.faults.nextSeq := by unfold countUncleared; split <;> rfl
  have hwritten := fun (spill : Bool) (f : FaultRec) => List.mem_append_right (makeRoom (countUncleared s.faults sev) spill).log
    (List.mem_singleton_self { f with seq := some (countUncleared s.faults sev).nextSeq })
  unfold recordNew
  dsimp only
  split
  · rw [msix_log]
    exact ⟨_, hwritten _ _, congrArg some hseq, rfl, rfl, rfl⟩
  · exact ⟨_, hwritten _ _, congrArg some hseq, rfl, rfl, rfl⟩

/-- A CHECK injection is recorded at S0 and INJECTED. -/
theorem injectCheck_eq {s : State} {k u c : Nat} (hmain : s.chip.mainRun = true) (hcode : checkerCode k u = some c)
    (hnew : findMerge (s.faults.log ++ s.faults.spill) { code := c, source := checkerSource k u, detail0 := u } s.dt = none) :
    injectCheck s k u = recordNew s { code := c, source := checkerSource k u, detail0 := u } 0 false true := by
  simp only [injectCheck, hcode, recordOne, hmain, hnew, if_true]
  rfl

theorem faultInjectCheck_records {k u c : Nat} {dbl side : Bool} {s : State} (hq : Quiet s) (hmain : s.chip.mainRun = true)
    (hfree : s.faults.injBusy = none) (hk : k < 7) (hu : u ≤ unitTop k) (hcode : checkerCode k u = some c)
    (hnew : findMerge (s.faults.log ++ s.faults.spill) { code := c, source := checkerSource k u, detail0 := u } s.dt = none) :
    ∃ t, exec (.faultInjectCheck k u dbl side) s = .next t ∧ t.faults.safeState = s.faults.safeState ∧ t.regions = s.regions ∧
      ∃ f ∈ t.faults.log, f.seq = some s.faults.nextSeq ∧ f.code = c ∧ f.injected = true ∧ f.severity = 0 := by
  let v := recordNew (takeInjection s k u dbl false) { code := c, source := checkerSource k u, detail0 := u } 0 false true
  have hexec : exec (.faultInjectCheck k u dbl side) s = .next (after s v) := by
    change execFaultInjectCheck k u dbl side s = _
    rw [execFaultInjectCheck, mainRow_run hmain, inject_eq hfree hk hu, if_neg Bool.false_ne_true,
      injectCheck_eq (s := takeInjection s k u dbl false) hmain hcode hnew]
  have honly : Only [.out, .faults, .irq, .loops] (takeInjection s k u dbl false) v :=
    recordNew_only (.refl _ _) (List.Subset.refl _) _ _ _ _
  have hhand : v.mate.handover = .none := (honly .handover (by decide)).trans hq.1
  have hresumes : v.faults.resumes = [] := (honly .resumes (by decide)).trans hq.2
  refine ⟨_, hexec, ?_, ?_, ?_⟩
  · rw [after_safeState]
    exact recordNew_safeState ..
  · rw [after_regions hhand hresumes]
    exact honly .regions (by decide)
  · rw [after_faults hhand hresumes]
    exact recordNew_injected _ _ _ _ _

theorem faultInjectReact_poisons {dbl side : Bool} {s : State} (hmain : s.chip.mainRun = true) (hfree : s.faults.injBusy = none) :
    ∃ t, exec (.faultInjectReact 0 0 dbl side) s = .next t ∧
      t.mem.poisonNext = some (s.faults.injAddr / 8, dbl) ∧ t.mem.bytes = s.mem.bytes := by
  have hexec : exec (.faultInjectReact 0 0 dbl side) s =
      .next (after s (injectReact (takeInjection s 0 0 dbl true) 0 0 dbl)) := by
    change execFaultInjectReact 0 0 dbl side s = _
    rw [execFaultInjectReact, mainRow_run hmain, inject_eq hfree (by decide) (by decide), if_pos rfl]
  refine ⟨_, hexec, ?_, ?_⟩
  · rw [after_mem]
    rfl
  · rw [after_mem]
    rfl

theorem faultInjectReact_fences {n : Nat} {dbl side : Bool} {s : State} (hq : Quiet s) (hmain : s.chip.mainRun = true)
    (hfree : s.faults.injBusy = none) (hn : n < 16) :
    ∃ t, exec (.faultInjectReact 4 n dbl side) s = .next t ∧ (t.region n).fenced = true := by
  let v := recordOne (takeInjection s 4 n dbl true) false true false { code := 0x0011, source := srcRegion n, detail0 := n }
  have hexec : exec (.faultInjectReact 4 n dbl side) s = .next (after s (fenceRegion v n)) := by
    change execFaultInjectReact 4 n dbl side s = _
    rw [execFaultInjectReact, mainRow_run hmain, inject_eq hfree (by decide) (Nat.le_of_lt_succ hn), if_pos rfl]
    rfl
  have hrecord : Only [.out, .faults, .irq, .loops, .elems, .runs, .calRuns, .links, .lsu, .house] (takeInjection s 4 n dbl true) v :=
    recordOne_only (.refl _ _) (List.Subset.refl _) _ _ _ _
  have hq1 : Quiet (fenceRegion v n) := (Quiet.of_only (s := takeInjection s 4 n dbl true) hq hrecord (by decide) (by decide)).of_only
    (fenceRegion_only (.refl [.out, .issues, .owed, .regions, .store, .elems, .runs, .calRuns, .links, .matrix] v)
      (List.Subset.refl _) n) (by decide) (by decide)
  refine ⟨_, hexec, ?_⟩
  rw [after_region hq1.1 hq1.2]
  exact fenceRegion_fenced v n

/-- Settles O43. -/
theorem collectorRowsComplete : Obligations.CollectorRowsComplete := by
  unfold Obligations.CollectorRowsComplete
  exact ⟨fun _ _ => faultReport_records, fun _ _ => faultReport_fences, fun _ _ _ => faultReport_merges,
    fun _ => collectorSelfFault_stops, fun _ _ _ hrep _ => centralEngineError_stops hrep, fun _ => mgmtWatchdog_restarts,
    fun _ _ => faultClear_clears, fun _ => faultFirstClear_clears, fun _ _ _ _ _ _ => faultInjectCheck_records,
    fun _ _ _ hq hmain hfree => ⟨faultInjectReact_poisons hmain hfree,
      fun _ hn _ => faultInjectReact_fences hq hmain hfree hn⟩⟩

end Sys2Proof.Safety

/-! DMA channels (R362 to R369): what starts, halts and drops a channel, what a transfer reads of the state, and the one
element that is copied between banks. -/

namespace Sys2Proof.Safety

set_option Elab.async false

open Sys2Proof.Machine

/-! ## Channels -/

section channels
variable (s : State) (ch : Nat)

theorem State.msix_mem (v : Nat) : (s.msix v).mem = s.mem :=
  State.msix_only (P := notMem) (.refl _ s) (by decide) v .mem (by decide)

theorem State.msix_chan (v k : Nat) : (s.msix v).chan k = s.chan k := by rw [State.chan, State.msix_mem, State.chan]

theorem haltChan_chan (i : Nat) (write : Bool) (cause : Nat) : let x := (haltChan s ch i write cause).chan ch
    x.state = .halted ∧ x.moved = i ∧ x.errWrite = write ∧ x.errCause = cause := by
  simp only [haltChan, State.msix_chan, State.setChan_same, and_self]

theorem haltChan_bytes (i : Nat) (write : Bool) (cause : Nat) : (haltChan s ch i write cause).mem.bytes = s.mem.bytes := by
  simp only [haltChan, State.msix_mem]
  rfl

theorem haltChan_other (i : Nat) (write : Bool) (cause : Nat) {k : Nat} (hk : k ≠ ch) :
    (haltChan s ch i write cause).chan k = s.chan k := by
  simp only [haltChan, State.msix_chan, State.setChan_other _ _ _ hk]

/-- A channel that GO has started. -/
def startedChan (c : DmaChan) : DmaChan :=
  { c with state := .running, moved := 0, pos0 := 0, pos1 := 0, errCause := 0, errWrite := false, reprogrammed := [] }

/-- GO of an enabled, idle channel: one that needs host memory halts where the function may not master the bus. -/
theorem dmaGo_idle (hon : (s.chan ch).enable = true) (hall : s.mem.dmaDisable = false) (hidle : (s.chan ch).state = .idle) :
    dmaGo s ch = if ((s.chan ch).srcSpace = 0 || (s.chan ch).dstSpace = 0) && !s.host.bme
      then haltChan (s.setChan ch (startedChan (s.chan ch))) ch 0 ((s.chan ch).srcSpace ≠ 0) 7
      else s.setChan ch (startedChan (s.chan ch)) := by
  unfold dmaGo
  rw [if_neg (by simp [hon, hall]), if_neg (by simp [hidle]), if_neg (by simp [hidle])]
  rfl

/-- The state in which a dropped channel stands before the bytes it was writing take free values. -/
theorem dropChan_other {k : Nat} (hk : k ≠ ch) : (dropChan s ch).chan k = s.chan k := by
  have hmem : (if (s.chan ch).state == .running then abortBurst s 16 ch else s).mem = s.mem := by split <;> rfl
  have hset : ∀ (u : State) x, u.mem = s.mem → (u.setChan ch x).chan k = s.chan k := fun u x hu => by
    rw [State.setChan_other _ _ _ hk, State.chan, hu, State.chan]
  unfold dropChan
  dsimp only
  split
  · exact List.foldlRecOn (motive := fun t : State => t.chan k = s.chan k) _ _ (hset _ _ hmem) fun t ht a _ => ht
  · exact hset _ _ hmem

theorem dropChan_dmaDisable : (dropChan s ch).mem.dmaDisable = s.mem.dmaDisable := by
  have hmem : (if (s.chan ch).state == .running then abortBurst s 16 ch else s).mem = s.mem := by split <;> rfl
  have hset : ∀ (u : State) x, u.mem = s.mem → (u.setChan ch x).mem.dmaDisable = s.mem.dmaDisable := fun u x hu =>
    by rw [State.setChan, hu]
  unfold dropChan
  dsimp only
  split
  · exact List.foldlRecOn (motive := fun t : State => t.mem.dmaDisable = s.mem.dmaDisable) _ _ (hset _ _ hmem)
      fun t ht a _ => ht
  · exact hset _ _ hmem

theorem dropChans_dmaDisable (cs : List Nat) : (cs.foldl dropChan s).mem.dmaDisable = s.mem.dmaDisable := by
  induction cs generalizing s with
  | nil => rfl
  | cons c cs ih => exact (ih (dropChan s c)).trans (dropChan_dmaDisable s c)

end channels

/-! ### GO, RESUME, ENABLE and DISABLE -/

section rows
variable {s : State} {c : Nat}

theorem dmaGo_starts (hmain : s.chip.mainRun = true) (hc : c < 16) (hon : (s.chan c).enable = true)
    (hall : s.mem.dmaDisable = false) (hidle : (s.chan c).state = .idle) :
    ∃ t, exec (.dmaGo c) s = .next t ∧ (∀ k, k ≠ c → t.chan k = s.chan k) ∧ t.mem.bytes = s.mem.bytes ∧
      (((s.chan c).srcSpace ≠ 0 ∧ (s.chan c).dstSpace ≠ 0 ∨ s.host.bme = true) →
        (t.chan c).state = .running ∧ (t.chan c).moved = 0 ∧ (t.chan c).errCause = 0) ∧
      (((s.chan c).srcSpace = 0 ∨ (s.chan c).dstSpace = 0) → s.host.bme = false →
        (t.chan c).state = .halted ∧ (t.chan c).errCause = 7) := by
  have hexec : exec (.dmaGo c) s = .next (after s (dmaGo s c)) := by
    change mainRow s _ = _
    rw [mainRow_run hmain, if_pos hc]
  refine ⟨_, hexec, ?_⟩
  simp only [after_chan, after_mem, dmaGo_idle s c hon hall hidle]
  by_cases hheld : ((s.chan c).srcSpace = 0 ∨ (s.chan c).dstSpace = 0) ∧ s.host.bme = false
  · rw [if_pos (by simpa using hheld)]
    obtain ⟨hstate, -, -, hcause⟩ := haltChan_chan (s.setChan c (startedChan (s.chan c))) c 0 ((s.chan c).srcSpace ≠ 0) 7
    refine ⟨fun k hk => ?_, haltChan_bytes .., fun hserved => ?_, fun _ _ => ⟨hstate, hcause⟩⟩
    · rw [haltChan_other _ _ _ _ _ hk, State.setChan_other _ _ _ hk]
    · obtain ⟨hspace, hbme⟩ := hheld
      rcases hserved with ⟨hsrc, hdst⟩ | hbme'
      · exact absurd hspace (not_or.2 ⟨hsrc, hdst⟩)
      · exact absurd (hbme.symm.trans hbme') Bool.false_ne_true
  · rw [if_neg (by simpa using hheld)]
    refine ⟨fun k hk => State.setChan_other _ _ _ hk, rfl, fun _ => ?_, fun hspace hbme => absurd ⟨hspace, hbme⟩ hheld⟩
    rw [State.setChan_same]
    exact ⟨rfl, rfl, rfl⟩

theorem dmaResume_runs (hmain : s.chip.mainRun = true) (hhalted : (s.chan c).state = .halted) :
    ∃ t, exec (.dmaResume c) s = .next t ∧ t.chan c = { s.chan c with state := .running, errCause := 0 } ∧
      t.mem.bytes = s.mem.bytes ∧ ∀ k, k ≠ c → t.chan k = s.chan k := by
  have hresume : dmaResume s c = s.setChan c { s.chan c with state := .running, errCause := 0 } :=
    if_pos (by rw [hhalted]; rfl)
  have hexec : exec (.dmaResume c) s = .next (after s (dmaResume s c)) := by
    change mainRow s (dmaResume · c) = _
    exact mainRow_run hmain _
  refine ⟨_, hexec, ?_⟩
  simp only [after_chan, after_mem, hresume, State.setChan_same, true_and]
  exact ⟨rfl, fun k hk => State.setChan_other _ _ _ hk⟩

theorem dmaEnableClear_drops (hmain : s.chip.mainRun = true) (hc : c < 16) :
    ∃ t, exec (.dmaEnableClear c) s = .next t ∧ (t.chan c).state = .dropped ∧ (t.chan c).enable = false ∧
      ∀ k, k ≠ c → t.chan k = s.chan k := by
  have hexec : exec (.dmaEnableClear c) s = .next (after s (dmaDisable s c)) := by
    change mainRow s _ = _
    rw [mainRow_run hmain, if_pos hc]
  refine ⟨_, hexec, ?_⟩
  simp only [after_chan, dmaDisable, State.setChan_same, dropChan_state, if_true, true_and]
  exact fun k hk => (State.setChan_other _ _ _ hk).trans (dropChan_other s c hk)

theorem dmaGlobalDisable_drops (hmain : s.chip.mainRun = true) :
    ∃ t, exec .dmaGlobalDisable s = .next t ∧ t.mem.dmaDisable = true ∧ ∀ c, c < 16 → (t.chan c).state = .dropped := by
  have hexec : exec .dmaGlobalDisable s = .next (after s (dmaGlobal s)) := by
    change mainRow s dmaGlobal = _
    exact mainRow_run hmain _
  refine ⟨_, hexec, ?_, fun c hc => ?_⟩
  · rw [after_mem, dmaGlobal, dropAll, dropChans_dmaDisable]
  · rw [after_chan]
    exact dropAll_state _ hc

end rows

/-! ## What reads and writes of units leave of the memory -/

/-- What the read of a word of the banks leaves of the memory. -/
def readWordMem (m : Memory) (w : Nat) : Memory :=
  match m.bad.find? fun x => x.1 == w with
  | none => m
  | some (_, dbl) =>
    let k := tabGet m.banks {} (w / 2 ^ 17)
    let m1 := { m with bad := m.bad.filter fun x => x.1 != w }
    if dbl then Memory.mark { m1 with banks := tabSet m.banks (w / 2 ^ 17) { k with ue := satInc k.ue 0xFFFF } } w false
    else { m1 with banks := tabSet m.banks (w / 2 ^ 17) { k with ce := satInc k.ce 0xFFFF } }

theorem readWord_mem (s : State) (w : Nat) : (readWord s w).mem = readWordMem s.mem w := by
  unfold readWord readWordMem
  cases s.mem.bad.find? fun x => x.1 == w with
  | none => rfl
  | some x =>
    obtain ⟨_, dbl⟩ := x
    cases dbl
    · rfl
    · exact recordOne_mem ..

theorem readWordMem_chans (m : Memory) (w : Nat) : (readWordMem m w).chans = m.chans := by
  unfold readWordMem
  dsimp only
  split
  · rfl
  · split <;> rfl

/-- What the writing of whole units leaves of the memory. -/
def wroteUnitsMem (m : Memory) (us : List Nat) : Memory :=
  let bad := m.bad.filter fun x => !us.contains x.1
  match m.poisonNext with
  | some (u, dbl) =>
    if us.contains u then { m with bad := bad ++ [(u, dbl)], poisonNext := none } else { m with bad }
  | none => { m with bad }

theorem wroteUnits_mem (s : State) (us : List Nat) : (wroteUnits s us).mem = wroteUnitsMem s.mem us := by
  unfold wroteUnits wroteUnitsMem
  dsimp only
  cases s.mem.poisonNext with
  | none => rfl
  | some x =>
    obtain ⟨u, dbl⟩ := x
    dsimp only
    cases us.contains u <;> rfl

theorem wroteUnitsMem_keeps (m : Memory) (us : List Nat) :
    (wroteUnitsMem m us).chans = m.chans ∧ (wroteUnitsMem m us).clean = m.clean := by
  unfold wroteUnitsMem
  dsimp only
  split
  · split <;> exact ⟨rfl, rfl⟩
  · exact ⟨rfl, rfl⟩

/-! ## What a transfer reads of the state -/

/-- The states agree in everything a transfer reads: the memory, the free values, the image. -/
structure SameSource (u v : State) : Prop where
  mem : u.mem = v.mem
  free : u.free = v.free
  img : u.img = v.img

/-- The parts that reads of words may change and no transfer reads. -/
def readParts : List Part := [.out, .faults, .irq, .loops, .elems, .runs, .calRuns, .links, .mem, .lsu, .house]

section source
variable {u v : State} (h : SameSource u v)
include h

theorem SameSource.of_read {u' v' : State} (hu : Only readParts u u') (hv : Only readParts v v')
    (hmem : u'.mem = v'.mem) : SameSource u' v' :=
  ⟨hmem, (hu .free (by decide)).trans (h.free.trans (hv .free (by decide)).symm),
    (hu.chip_field (by decide) (·.image) fun _ => rfl).trans
      (h.img.trans (hv.chip_field (by decide) (·.image) fun _ => rfl).symm)⟩

theorem SameSource.bank (b : Nat) : u.bank b = v.bank b := by rw [State.bank, h.mem, State.bank]

theorem SameSource.spaceSize (sp : Nat) : u.spaceSize sp = v.spaceSize sp := by
  unfold State.spaceSize
  rw [h.img]

theorem SameSource.elemAddr (c : DmaChan) (dst : Bool) (i : Nat) : u.elemAddr c dst i = v.elemAddr c dst i := by
  simp only [State.elemAddr, h.spaceSize]

theorem SameSource.elemBytes (c : DmaChan) (dst : Bool) (i : Nat) : u.elemBytes c dst i = v.elemBytes c dst i := by
  simp only [State.elemBytes, h.spaceSize, h.elemAddr]

theorem SameSource.wholeUnits (c : DmaChan) (i n : Nat) : u.wholeUnits c i n = v.wholeUnits c i n := by
  simp only [State.wholeUnits, h.elemAddr]

theorem SameSource.partUnits (c : DmaChan) (i n : Nat) : u.partUnits c i n = v.partUnits c i n := by
  simp only [State.partUnits, h.elemAddr, h.elemBytes]

theorem SameSource.accessCause (c : DmaChan) (dst : Bool) (i : Nat) : u.accessCause c dst i = v.accessCause c dst i := by
  simp only [State.accessCause, h.spaceSize, h.elemBytes, h.bank, h.mem]

theorem SameSource.dramPoison (c : DmaChan) (i : Nat) : u.dramPoison c i = v.dramPoison c i := by
  simp only [State.dramPoison, h.elemBytes, h.mem]

theorem SameSource.readWord (w : Nat) : SameSource (readWord u w) (readWord v w) := by
  refine h.of_read (readWord_only (.refl _ _) (by decide) w) (readWord_only (.refl _ _) (by decide) w) ?_
  rw [readWord_mem, readWord_mem, h.mem]

theorem SameSource.readDram (w : Nat) : SameSource (readDram u w) (readDram v w) := by
  refine h.of_read (readDram_only (.refl _ _) (by decide) w) (readDram_only (.refl _ _) (by decide) w) ?_
  rw [readDram_mem, readDram_mem, h.mem]

end source

/-! ## Every step of a transfer depends on its source alone -/

section transfer
variable {u v : State}

theorem SameSource.readWords (h : SameSource u v) (ws : List Nat) :
    SameSource (ws.foldl Machine.readWord u) (ws.foldl Machine.readWord v) := by
  induction ws generalizing u v with
  | nil => exact h
  | cons w ws ih => exact ih (h.readWord w)

theorem SameSource.readDrams (h : SameSource u v) (ws : List Nat) :
    SameSource (ws.foldl Machine.readDram u) (ws.foldl Machine.readDram v) := by
  induction ws generalizing u v with
  | nil => exact h
  | cons w ws ih => exact ih (h.readDram w)

theorem SameSource.wroteUnits (h : SameSource u v) (us : List Nat) : SameSource (wroteUnits u us) (wroteUnits v us) :=
  h.of_read (wroteUnits_only (.refl _ _) (by decide) us) (wroteUnits_only (.refl _ _) (by decide) us)
    (by rw [wroteUnits_mem, wroteUnits_mem, h.mem])

theorem SameSource.emit (h : SameSource u v) (o p : Output) : SameSource (u.emit o) (v.emit p) := ⟨h.mem, h.free, h.img⟩

theorem SameSource.drawBytes (h : SameSource u v) (n : Nat) :
    (drawBytes u n).1 = (drawBytes v n).1 ∧ SameSource (drawBytes u n).2 (drawBytes v n).2 := by
  induction n generalizing u v with
  | zero => exact ⟨rfl, h⟩
  | succ n ih =>
    obtain ⟨hbytes, hsame⟩ := ih (u := u.draw.2) (v := v.draw.2) ⟨h.mem, congrArg (· + 1) h.free, h.img⟩
    have hfirst : u.draw.1 = v.draw.1 := congrArg Config.freeValue h.free
    exact ⟨congrArg₂ (fun n l => BitVec.ofNat 8 n :: l) hfirst hbytes, hsame⟩

theorem SameSource.readElem (h : SameSource u v) (c : DmaChan) (i : Nat) : SameSource (readElem u c i) (readElem v c i) := by
  unfold Machine.readElem
  simp only [h.elemBytes, h.partUnits]
  have hsource : SameSource
      (if c.srcSpace = 1 then ((v.elemBytes c false i).map (· / 8)).foldl Machine.readWord u
        else if c.srcSpace = 0 then u else ((v.elemBytes c false i).flatMap dramUnits).foldl Machine.readDram u)
      (if c.srcSpace = 1 then ((v.elemBytes c false i).map (· / 8)).foldl Machine.readWord v
        else if c.srcSpace = 0 then v else ((v.elemBytes c false i).flatMap dramUnits).foldl Machine.readDram v) := by
    split
    · exact h.readWords _
    · split
      · exact h
      · exact h.readDrams _
  split
  · exact hsource.readWords _
  · split
    · exact hsource
    · exact hsource.readDrams _

/-! ### An element that lands -/

/-- The request for an element in host memory. -/
def askElem (s : State) (c : DmaChan) (i : Nat) : State :=
  if c.srcSpace = 0 then s.emit (.hostRead (s.elemAddr c false i) c.width c.ns) else s

/-- The bytes of element `i` reach their destination. -/
def landElem (s : State) (c : DmaChan) (i : Nat) (read : List Byte × State) : State :=
  if c.dstSpace = 0 then read.2.emit (.hostWrite (s.elemAddr c true i) c.width (bytesNat (read.1.map (·.toNat))))
  else
    let m := ((s.elemBytes c true i).zip read.1).foldl (fun (m : Memory) x => m.put (spaceByte c.dstSpace x.1) x.2) read.2.mem
    if c.dstSpace = 1 then
      let ws := s.wholeUnits c i 8
      wroteUnits { read.2 with mem := ws.foldl (fun (m : Memory) w => m.mark w true) m } ws
    else wroteUnits { read.2 with mem := m } ((s.wholeUnits c i 64).flatMap fun u => dramUnits (64 * u))

theorem moveElem_free (s : State) (c : DmaChan) (host : List Byte) (i : Nat) :
    moveElem s c true host i = landElem s c i (drawBytes (askElem s c i) c.width) := rfl

theorem moveElem_read (s : State) (c : DmaChan) (host : List Byte) (i : Nat) :
    moveElem s c false host i = landElem s c i
      (if c.srcSpace = 0 then host else (s.elemBytes c false i).map fun a => s.mem.get (spaceByte c.srcSpace a), askElem s c i) :=
  rfl

theorem SameSource.askElem (h : SameSource u v) (c : DmaChan) (i : Nat) : SameSource (askElem u c i) (askElem v c i) := by
  unfold Safety.askElem
  split
  · exact h.emit _ _
  · exact h

theorem SameSource.landElem (h : SameSource u v) (c : DmaChan) (i : Nat) (l : List Byte) {u' v' : State}
    (h' : SameSource u' v') : SameSource (landElem u c i (l, u')) (landElem v c i (l, v')) := by
  have hset : ∀ m, SameSource { u' with mem := m } { v' with mem := m } := fun _ => ⟨rfl, h'.free, h'.img⟩
  unfold Safety.landElem
  simp only [h.elemBytes, h.wholeUnits, h'.mem]
  split
  · exact h'.emit _ _
  · split
    · exact (hset _).wroteUnits _
    · exact (hset _).wroteUnits _

theorem SameSource.moveElem (h : SameSource u v) (c : DmaChan) (free : Bool) (host : List Byte) (i : Nat) :
    SameSource (moveElem u c free host i) (moveElem v c free host i) := by
  cases free with
  | true =>
    obtain ⟨hbytes, hdrawn⟩ := (h.askElem c i).drawBytes c.width
    rw [moveElem_free, moveElem_free, ← Prod.mk.eta (p := Machine.drawBytes (Safety.askElem u c i) c.width), hbytes]
    exact h.landElem c i _ hdrawn
  | false =>
    simp only [moveElem_read, h.elemBytes, h.mem]
    exact h.landElem c i _ (h.askElem c i)

/-! ### A transfer -/

/-- The state in which the accesses of element `i` are tried: its words have been read where they are served. -/
def triedElem (s : State) (c : DmaChan) (i : Nat) : State :=
  if s.accessCause c false i = 0 && s.accessCause c true i = 0 then readElem s c i else s

/-- Why the read of element `i` fails, 0 where it does not. -/
def readCause (s : State) (c : DmaChan) (i : Nat) : Nat :=
  if s.dramPoison c i then 3 else (triedElem s c i).accessCause c false i

theorem moveElems_succ (c : DmaChan) (free : Bool) (s : State) (host : List Byte) (i n : Nat) :
    moveElems c free s host i (n + 1) =
      if readCause s c i ≠ 0 then (triedElem s c i, some (i, false, readCause s c i))
      else if (triedElem s c i).accessCause c true i ≠ 0 then
        (triedElem s c i, some (i, true, (triedElem s c i).accessCause c true i))
      else moveElems c free (moveElem (triedElem s c i) c free (host.take c.width) i) (host.drop c.width) (i + 1) n := rfl

theorem SameSource.triedElem (h : SameSource u v) (c : DmaChan) (i : Nat) : SameSource (triedElem u c i) (triedElem v c i) := by
  unfold Safety.triedElem
  simp only [h.accessCause]
  split
  · exact h.readElem c i
  · exact h

theorem SameSource.readCause (h : SameSource u v) (c : DmaChan) (i : Nat) : readCause u c i = readCause v c i := by
  simp only [Safety.readCause, h.dramPoison, (h.triedElem c i).accessCause]

theorem SameSource.moveElems (h : SameSource u v) (c : DmaChan) (free : Bool) (host : List Byte) (i n : Nat) :
    (moveElems c free u host i n).2 = (moveElems c free v host i n).2 ∧
      SameSource (moveElems c free u host i n).1 (moveElems c free v host i n).1 := by
  induction n generalizing u v host i with
  | zero => exact ⟨rfl, h⟩
  | succ n ih =>
    have htried := h.triedElem c i
    simp only [moveElems_succ, h.readCause, htried.accessCause]
    split
    · exact ⟨rfl, htried⟩
    · split
      · exact ⟨rfl, htried⟩
      · exact ih (htried.moveElem c free _ i) _ _

end transfer

/-! ## A transfer changes no channel -/

section
variable (s : State)

theorem readWord_chans (w : Nat) : (readWord s w).mem.chans = s.mem.chans := by
  rw [readWord_mem, readWordMem_chans]

theorem readDram_chans (w : Nat) : (readDram s w).mem.chans = s.mem.chans := by
  rw [readDram_mem, (readDramMem_keeps s.mem w).2]

theorem wroteUnits_chans (us : List Nat) : (wroteUnits s us).mem.chans = s.mem.chans := by
  rw [wroteUnits_mem, (wroteUnitsMem_keeps s.mem us).1]

theorem readWords_chans (ws : List Nat) : (ws.foldl readWord s).mem.chans = s.mem.chans := by
  induction ws generalizing s with
  | nil => rfl
  | cons w ws ih => exact (ih _).trans (readWord_chans s w)

theorem readDrams_chans (ws : List Nat) : (ws.foldl readDram s).mem.chans = s.mem.chans := by
  induction ws generalizing s with
  | nil => rfl
  | cons w ws ih => exact (ih _).trans (readDram_chans s w)

theorem triedElem_chans (c : DmaChan) (i : Nat) : (triedElem s c i).mem.chans = s.mem.chans := by
  unfold triedElem readElem
  dsimp only
  split
  · have hsource : (if c.srcSpace = 1 then ((s.elemBytes c false i).map (· / 8)).foldl readWord s
        else if c.srcSpace = 0 then s else ((s.elemBytes c false i).flatMap dramUnits).foldl readDram s).mem.chans =
        s.mem.chans := by
      split
      · exact readWords_chans s _
      · split
        · rfl
        · exact readDrams_chans s _
    split
    · exact (readWords_chans _ _).trans hsource
    · split
      · exact hsource
      · exact (readDrams_chans _ _).trans hsource
  · rfl

theorem landElem_chans (c : DmaChan) (i : Nat) (read : List Byte × State) :
    (landElem s c i read).mem.chans = read.2.mem.chans := by
  have hputs : ∀ l : List (Nat × Byte),
      (l.foldl (fun (m : Memory) x => m.put (spaceByte c.dstSpace x.1) x.2) read.2.mem).chans = read.2.mem.chans := fun l =>
    List.foldlRecOn (motive := fun m : Memory => m.chans = read.2.mem.chans) l _ rfl fun _ hm _ _ => hm
  have hmarks : ∀ (ws : List Nat) (m : Memory), (ws.foldl (fun (m : Memory) w => m.mark w true) m).chans = m.chans :=
    fun ws m => List.foldlRecOn (motive := fun n : Memory => n.chans = m.chans) ws _ rfl fun _ hm _ _ => hm
  unfold landElem
  dsimp only
  split
  · rfl
  · split
    · exact (wroteUnits_chans _ _).trans ((hmarks _ _).trans (hputs _))
    · exact (wroteUnits_chans _ _).trans (hputs _)

theorem moveElem_chans (c : DmaChan) (free : Bool) (host : List Byte) (i : Nat) :
    (moveElem s c free host i).mem.chans = s.mem.chans := by
  have hask : (askElem s c i).mem = s.mem := by
    unfold askElem
    split <;> rfl
  cases free with
  | true => rw [moveElem_free, landElem_chans, drawBytes_mem, hask]
  | false => rw [moveElem_read, landElem_chans, hask]

theorem moveElems_chans (c : DmaChan) (free : Bool) (host : List Byte) (i n : Nat) :
    (moveElems c free s host i n).1.mem.chans = s.mem.chans := by
  induction n generalizing s host i with
  | zero => rfl
  | succ n ih =>
    rw [moveElems_succ]
    split
    · exact triedElem_chans s c i
    · split
      · exact triedElem_chans s c i
      · exact (ih _ _ _).trans ((moveElem_chans _ c free _ i).trans (triedElem_chans s c i))

end

/-! ## The end of a transfer (R362, R368) -/

section
variable {s : State} {c : Nat}

/-- The channel of a transfer that has ended well. -/
def endedChan (x : DmaChan) : DmaChan := { x with state := .idle, moved := 0, done := true }

/-- A transfer that is served to its end and whose last word is not poisoned ends DONE. -/
theorem exec_dmaReadbackDone_served {s2 : State} {data : List Byte} (hrun : (s.chan c).state = .running)
    (hdata : (s.chan c).supplied (s.chan c).total data = true)
    (hmoved : moveElems (s.chan c) (s.overlaps (s.chan c)) (noteHolds s c) data (s.chan c).moved
      ((s.chan c).total - (s.chan c).moved) = (s2, none))
    (hclean : (s.chan c).dstSpace = 1 →
      s2.mem.wordClean ((s2.elemBytes (s.chan c) true ((s.chan c).total - 1)).getLastD 0 / 8) = true) :
    ∃ u, exec (.dmaReadbackDone c true data) s = .next (after s u) ∧ u.mem = (s2.setChan c (endedChan (s.chan c))).mem := by
  have hchan : s2.chan c = s.chan c := by
    have hchans := moveElems_chans (noteHolds s c) (s.chan c) (s.overlaps (s.chan c)) data (s.chan c).moved
      ((s.chan c).total - (s.chan c).moved)
    rw [hmoved] at hchans
    rw [State.chan, hchans]
    rfl
  have hpoison : (decide ((s.chan c).dstSpace = 1) &&
      !s2.mem.wordClean ((s2.elemBytes (s.chan c) true ((s.chan c).total - 1)).getLastD 0 / 8)) = false := by
    simpa using hclean
  change ∃ u, execDmaReadbackDone c true data s = _ ∧ _
  unfold execDmaReadbackDone
  rw [if_neg (by simp [hrun, hdata]), hmoved]
  dsimp only
  rw [hpoison, if_neg (by decide)]
  refine ⟨_, rfl, ?_⟩
  rw [State.msix_mem]
  split
  · exact congrArg (fun x => (s2.setChan c (endedChan x)).mem) hchan
  · exact congrArg (fun x => (s2.setChan c (endedChan x)).mem) hchan

theorem dmaReadbackDone_ends {s1 : State} {data : List Byte} (hrun : (s.chan c).state = .running)
    (hdata : (s.chan c).supplied (s.chan c).total data = true)
    (hmoved : moveElems (s.chan c) (s.overlaps (s.chan c)) s data (s.chan c).moved
      ((s.chan c).total - (s.chan c).moved) = (s1, none)) (hdst : (s.chan c).dstSpace ≠ 1) :
    ∃ t, exec (.dmaReadbackDone c true data) s = .next t ∧ (t.chan c).state = .idle ∧ (t.chan c).done = true ∧
      (t.chan c).moved = 0 ∧ t.mem.bytes = s1.mem.bytes ∧ ∀ k, k ≠ c → t.chan k = s.chan k := by
  have hsource : SameSource (noteHolds s c) s := ⟨rfl, rfl, rfl⟩
  obtain ⟨s2, hserved, hsame⟩ : ∃ s2, moveElems (s.chan c) (s.overlaps (s.chan c)) (noteHolds s c) data (s.chan c).moved
      ((s.chan c).total - (s.chan c).moved) = (s2, none) ∧ SameSource s2 s1 := by
    obtain ⟨hend, hsame⟩ := hsource.moveElems (s.chan c) (s.overlaps (s.chan c)) data (s.chan c).moved
      ((s.chan c).total - (s.chan c).moved)
    rw [hmoved] at hend hsame
    exact ⟨_, Prod.ext rfl hend, hsame⟩
  have hchans : s1.mem.chans = s.mem.chans := by
    have hkept := moveElems_chans s (s.chan c) (s.overlaps (s.chan c)) data (s.chan c).moved ((s.chan c).total - (s.chan c).moved)
    rwa [hmoved] at hkept
  obtain ⟨u, hexec, hmem⟩ := exec_dmaReadbackDone_served hrun hdata hserved (fun h => absurd h hdst)
  have hchan : ∀ k, (after s u).chan k = (s2.setChan c (endedChan (s.chan c))).chan k := fun k =>
    (after_chan ..).trans (congrArg (fun m : Memory => tabGet m.chans {} k) hmem)
  refine ⟨_, hexec, ?_⟩
  simp only [hchan, State.setChan_same, after_mem, hmem]
  refine ⟨rfl, rfl, rfl, ?_, fun k hk => ?_⟩
  · rw [State.setChan, hsame.mem]
  · rw [State.setChan_other _ _ _ hk, State.chan, hsame.mem, hchans, State.chan]

theorem dmaErrorHalt_halts {cause k0 k1 k2 : Nat} (w : Bool) (hrun : (s.chan c).state = .running)
    (h0 : k0 < (s.chan c).count0) (h1 : k1 < (s.chan c).count1) (h2 : k2 < (s.chan c).count2)
    (hmoved : (s.chan c).moved = k0 + (s.chan c).count0 * (k1 + (s.chan c).count1 * k2)) (hlo : 1 ≤ cause) (hhi : cause ≤ 7) :
    ∃ t, exec (.dmaErrorHalt c w cause k0 k1 k2 []) s = .next t ∧ (t.chan c).state = .halted ∧
      (t.chan c).errCause = cause ∧ (t.chan c).errWrite = w ∧ (t.chan c).moved = (s.chan c).moved ∧
      t.mem.bytes = s.mem.bytes ∧ ∀ k, k ≠ c → t.chan k = s.chan k := by
  have hexec : exec (.dmaErrorHalt c w cause k0 k1 k2 []) s =
      .next (after s (haltChan (noteHolds s c) c (s.chan c).moved w cause)) := by
    change execDmaErrorHalt c w cause k0 k1 k2 [] s = _
    unfold execDmaErrorHalt
    dsimp only
    rw [← hmoved, Nat.sub_self, if_neg]
    · rfl
    · simp [hrun, h0, h1, h2, DmaChan.supplied]
      omega
  obtain ⟨hstate, hi, hw, hcause⟩ := haltChan_chan (noteHolds s c) c (s.chan c).moved w cause
  refine ⟨_, hexec, ?_⟩
  simp only [after_chan, after_mem]
  exact ⟨hstate, hcause, hw, hi, haltChan_bytes .., fun k hk => haltChan_other _ _ _ _ _ hk⟩

end

/-! ## One element between banks (R344, R362, R364) -/

/-- `c` is a transfer of one element from bank bytes to others, both within the banks. -/
structure CopiesOnce (c : DmaChan) : Prop where
  total : c.total = 1
  srcSpace : c.srcSpace = 1
  dstSpace : c.dstSpace = 1
  srcEnd : c.src + c.width ≤ banksSize
  dstEnd : c.dst + c.width ≤ banksSize
  apart : c.src + c.width ≤ c.dst ∨ c.dst + c.width ≤ c.src

/-- The bytes at either end of the element. -/
def copyBase (c : DmaChan) (dst : Bool) : Nat := if dst then c.dst else c.src

section copy
variable {c : DmaChan} (hc : CopiesOnce c) (s : State)
include hc

theorem CopiesOnce.space (dst : Bool) : (if dst then c.dstSpace else c.srcSpace) = 1 := by
  cases dst
  · exact hc.srcSpace
  · exact hc.dstSpace

theorem CopiesOnce.fits (dst : Bool) : copyBase c dst + c.width ≤ banksSize := by
  cases dst
  · exact hc.srcEnd
  · exact hc.dstEnd

theorem CopiesOnce.base_lt (dst : Bool) : copyBase c dst < banksSize := by
  have hwidth : 0 < c.width := Nat.two_pow_pos _
  have hfits := hc.fits dst
  omega

theorem CopiesOnce.elemAddr (dst : Bool) : s.elemAddr c dst 0 = copyBase c dst := by
  have hmod : ((copyBase c dst : Int) % (banksSize : Int)).toNat = copyBase c dst := by
    rw [← Int.natCast_mod, Int.toNat_natCast, Nat.mod_eq_of_lt (hc.base_lt dst)]
  simpa [State.elemAddr, DmaChan.pos, hc.space dst, State.spaceSize, copyBase] using hmod

theorem CopiesOnce.elemBytes (dst : Bool) : s.elemBytes c dst 0 = (List.range c.width).map (copyBase c dst + ·) := by
  refine List.map_congr_left fun k hk => ?_
  have hfits := hc.fits dst
  have hlt := List.mem_range.1 hk
  rw [hc.space dst, hc.elemAddr s dst]
  exact Nat.mod_eq_of_lt (by omega : copyBase c dst + k < banksSize)

/-- Banks that let the transfer through and words that are not poisoned serve both of its accesses. -/
theorem CopiesOnce.accessCause (dst : Bool) (howner : ∀ i, i < c.width → (s.bank ((copyBase c dst + i) / bankSize)).owner ≤ ownDma)
    (hawake : ∀ i, i < c.width → (s.bank ((copyBase c dst + i) / bankSize)).awake = true)
    (hclean : ∀ i, i < c.width → s.mem.wordClean ((copyBase c dst + i) / 8) = true) : s.accessCause c dst 0 = 0 := by
  have hsize : s.spaceSize (if dst then c.dstSpace else c.srcSpace) = banksSize := by
    rw [hc.space dst]
    rfl
  unfold State.accessCause
  dsimp only
  rw [hsize, hc.elemBytes s dst, if_neg (show ¬ banksSize ≤ if dst then c.dst else c.src from Nat.not_le.2 (hc.base_lt dst)), if_neg (not_not.2 (hc.space dst)), if_neg, if_neg,
    if_neg]
  · simpa using fun _ => hclean
  · simpa using hawake
  · simpa using howner

theorem CopiesOnce.not_overlaps : s.overlaps c = false := by
  have hapart := hc.apart
  simp only [State.overlaps, hc.total, List.range_one, List.any_cons, List.any_nil, hc.elemBytes s, copyBase]
  simp
  omega

theorem CopiesOnce.dramPoison : s.dramPoison c 0 = false := by
  simp [State.dramPoison, hc.srcSpace]

end copy

section landed
variable (m : Memory)

theorem tabGet_true_of_tabGet {t : Tab Bool} {d : Bool} {k : Nat} (h : tabGet t d k = true) : tabGet t true k = true := by
  induction t with
  | nil => rfl
  | cons y r ih =>
    obtain ⟨j, v⟩ := y
    rw [tabGet] at h ⊢
    by_cases hj : k = j
    · rwa [if_pos hj] at h ⊢
    · rw [if_neg hj] at h ⊢
      by_cases hlt : k < j
      · rw [if_pos hlt]
      · rw [if_neg hlt] at h ⊢
        exact ih h

/-- A word that loses its poison marker makes no other word poisoned. -/
theorem Memory.wordClean_mark {m : Memory} {x : Nat} (h : m.wordClean x = true) (w : Nat) : (m.mark w true).wordClean x = true := by
  unfold Memory.wordClean Memory.mark at *
  dsimp only
  by_cases hx : x = w
  · rw [hx, tabGet_tabSet_same]
  · rw [tabGet_tabSet_other _ _ _ hx]
    by_cases hdefault : 2 ^ 22 + x / 2 ^ 17 = w
    · rw [hdefault, tabGet_tabSet_same]
      exact tabGet_true_of_tabGet h
    · rwa [tabGet_tabSet_other _ _ _ hdefault]

/-- The words `ws` lose their poison markers. -/
def unpoison (ws : List Nat) : Memory := ws.foldl (fun (m : Memory) w => m.mark w true) m

theorem unpoison_wordClean {m : Memory} {x : Nat} (h : m.wordClean x = true) (ws : List Nat) :
    (unpoison m ws).wordClean x = true :=
  List.foldlRecOn (motive := fun m : Memory => m.wordClean x = true) ws _ h fun _ hm w _ => Memory.wordClean_mark hm w

/-- Bytes `f 0`, `f 1` and so on are written from address `a` on. -/
def putBytes (a : Nat) (f : Nat → Byte) (n : Nat) : Memory := (List.range n).foldl (fun (m : Memory) i => m.put (a + i) (f i)) m

theorem putBytes_succ (a : Nat) (f : Nat → Byte) (n : Nat) : putBytes m a f (n + 1) = (putBytes m a f n).put (a + n) (f n) := by
  simp only [putBytes, List.range_succ, List.foldl_append, List.foldl_cons, List.foldl_nil]

theorem putBytes_get {m : Memory} (hm : m.wf = true) (a : Nat) (f : Nat → Byte) (n : Nat) : (putBytes m a f n).wf = true ∧
    (∀ i, i < n → (putBytes m a f n).get (a + i) = f i) ∧
    ∀ x, ¬ (a ≤ x ∧ x < a + n) → (putBytes m a f n).get x = m.get x := by
  induction n with
  | zero => exact ⟨hm, fun i hi => absurd hi (Nat.not_lt_zero i), fun _ _ => rfl⟩
  | succ n ih =>
    obtain ⟨hwf, hin, hout⟩ := ih
    rw [putBytes_succ]
    refine ⟨Memory.put_wf _ _ hwf, fun i hi => ?_, fun x hx => ?_⟩
    · by_cases hlast : i = n
      · rw [hlast, Memory.put_get_same _ _ hwf]
      · rw [Memory.put_get_other _ hwf (by omega), hin i (by omega)]
    · rw [Memory.put_get_other _ hwf (by omega), hout x (by omega)]

theorem putBytes_clean (a : Nat) (f : Nat → Byte) (n : Nat) : (putBytes m a f n).clean = m.clean :=
  List.foldlRecOn (motive := fun x : Memory => x.clean = m.clean) _ _ rfl fun _ hx _ _ => hx

theorem wroteUnits_clean (s : State) (us : List Nat) : (wroteUnits s us).mem.clean = s.mem.clean := by
  rw [wroteUnits_mem, (wroteUnitsMem_keeps s.mem us).2]

end landed

section copied
variable {s : State} {c : Nat}

theorem readWords_clean {s : State} (hbad : s.mem.bad = []) (ws : List Nat) : ws.foldl readWord s = s := by
  induction ws with
  | nil => rfl
  | cons w ws ih => rw [List.foldl_cons, readWord_clean (by simp [hbad]), ih]

/-- Where no check bit is inverted the element is read as it stands. -/
theorem CopiesOnce.triedElem {x : DmaChan} (hx : CopiesOnce x) (hbad : s.mem.bad = []) : triedElem s x 0 = s := by
  unfold Safety.triedElem readElem
  simp only [hx.srcSpace, hx.dstSpace, if_true, readWords_clean hbad, ite_self]

/-- The bytes of the element land, and no word becomes poisoned. -/
theorem CopiesOnce.moveElem {x : DmaChan} (hx : CopiesOnce x) (host : List Byte) : ∃ t, moveElem s x false host 0 = t ∧
    t.mem.bytes = (putBytes s.mem x.dst (fun i => s.mem.get (x.src + i)) x.width).bytes ∧
    ∀ w, s.mem.wordClean w = true → t.mem.wordClean w = true := by
  have hfold : ((s.elemBytes x true 0).zip ((s.elemBytes x false 0).map fun a => s.mem.get (spaceByte 1 a))).foldl
      (fun (m : Memory) y => m.put (spaceByte 1 y.1) y.2) s.mem =
      putBytes s.mem x.dst (fun i => s.mem.get (x.src + i)) x.width := by
    rw [hx.elemBytes, hx.elemBytes, List.map_map, List.zip_map', List.foldl_map]
    rfl
  refine ⟨_, rfl, ?_⟩
  rw [moveElem_read, askElem, landElem]
  simp only [hx.srcSpace, hx.dstSpace, Nat.one_ne_zero, if_false, if_true]
  rw [hfold, wroteUnits_bytes]
  refine ⟨marks_bytes _ _, fun w hw => ?_⟩
  have hput : (putBytes s.mem x.dst (fun i => s.mem.get (x.src + i)) x.width).wordClean w = true := by
    rwa [Memory.wordClean, putBytes_clean]
  rw [Memory.wordClean, wroteUnits_clean]
  exact unpoison_wordClean hput _

/-- The last byte of the element. -/
theorem CopiesOnce.last {x : DmaChan} (hx : CopiesOnce x) (t : State) :
    ∃ i, i < x.width ∧ (t.elemBytes x true 0).getLastD 0 = x.dst + i := by
  obtain ⟨n, hn⟩ : ∃ n, x.width = n + 1 := Nat.exists_eq_succ_of_ne_zero (Nat.two_pow_pos _).ne'
  refine ⟨n, by omega, ?_⟩
  rw [hx.elemBytes, hn, List.range_succ, List.map_append, List.map_cons, List.map_nil, List.getLastD_concat]
  rfl

end copied

section copyRow
variable {s : State} {c : Nat}

theorem dmaReadbackDone_copies (hform : MemForm s) (hrun : (s.chan c).state = .running) (hmoved : (s.chan c).moved = 0)
    (hcopy : CopiesOnce (s.chan c))
    (hserved : ∀ dst i, i < (s.chan c).width → s.mem.wordClean ((copyBase (s.chan c) dst + i) / 8) = true ∧
      (s.bank ((copyBase (s.chan c) dst + i) / bankSize)).owner ≤ ownDma ∧
      (s.bank ((copyBase (s.chan c) dst + i) / bankSize)).awake = true) (hbad : s.mem.bad = []) :
    ∃ t, exec (.dmaReadbackDone c true []) s = .next t ∧ (t.chan c).state = .idle ∧ (t.chan c).done = true ∧
      (∀ i, i < (s.chan c).width → t.mem.get ((s.chan c).dst + i) = s.mem.get ((s.chan c).src + i)) ∧
      SameBytesBut (fun k => (s.chan c).dst ≤ k ∧ k < (s.chan c).dst + (s.chan c).width) s t := by
  have hcause : ∀ dst, (noteHolds s c).accessCause (s.chan c) dst 0 = 0 := fun dst =>
    hcopy.accessCause _ dst (fun i hi => (hserved dst i hi).2.1) (fun i hi => (hserved dst i hi).2.2)
      fun i hi => (hserved dst i hi).1
  have htried : triedElem (noteHolds s c) (s.chan c) 0 = noteHolds s c := hcopy.triedElem hbad
  obtain ⟨s2, hmove, hbytes, hclean⟩ := hcopy.moveElem (s := noteHolds s c) ([].take (s.chan c).width)
  have hrest : moveElems (s.chan c) (s.overlaps (s.chan c)) (noteHolds s c) [] (s.chan c).moved
      ((s.chan c).total - (s.chan c).moved) = (s2, none) := by
    rw [hmoved, hcopy.total, Nat.sub_zero, hcopy.not_overlaps, moveElems_succ, readCause, htried, hcopy.dramPoison,
      hcause, hcause, if_neg (by simp), if_neg (by simp), hmove]
    rfl
  obtain ⟨hwf, hin, hout⟩ := putBytes_get (m := s.mem) hform (s.chan c).dst (fun i => s.mem.get ((s.chan c).src + i))
    (s.chan c).width
  obtain ⟨u, hexec, hmem⟩ := exec_dmaReadbackDone_served hrun (by simp [DmaChan.supplied, hcopy.srcSpace]) hrest
    fun _ => by
      obtain ⟨i, hi, hlast⟩ := hcopy.last s2
      rw [hcopy.total, hlast]
      exact hclean _ (hserved true i hi).1
  have hget : ∀ x, (after s u).mem.get x =
      (putBytes s.mem (s.chan c).dst (fun i => s.mem.get ((s.chan c).src + i)) (s.chan c).width).get x := fun x => by
    rw [after_mem, hmem]
    exact Memory.get_congr hbytes x
  have hchan : (after s u).chan c = endedChan (s.chan c) := by
    rw [after_chan, State.chan, hmem]
    exact State.setChan_same _ _ _
  refine ⟨_, hexec, ?_, ?_, fun i hi => ?_, fun x hx => ?_⟩
  · rw [hchan]
    rfl
  · rw [hchan]
    rfl
  · rw [hget, hin i hi]
  · rw [hget, hout x hx]

end copyRow

/-- Settles O38: a channel's rows write the channel alone; a transfer reads memory, image and free values only, and the one
element between banks lands byte by byte. -/
theorem dmaRowsComplete : Obligations.DmaRowsComplete := by
  unfold Obligations.DmaRowsComplete
  refine ⟨fun c s hmain hc hon hall hidle => dmaGo_starts hmain hc hon hall hidle,
    fun c s hmain hhalted => dmaResume_runs hmain hhalted, fun c s hmain hc => dmaEnableClear_drops hmain hc,
    fun s hmain => dmaGlobalDisable_drops hmain,
    fun c data s s1 hrun hdata hmoved hdst => dmaReadbackDone_ends hrun hdata hmoved hdst, ?_,
    fun c cause k0 k1 k2 w s hrun h0 h1 h2 hmoved hlo hhi => dmaErrorHalt_halts w hrun h0 h1 h2 hmoved hlo hhi⟩
  intro c s _ hform x hrun hmoved htotal hsrc hdst _ hsrcEnd hdstEnd hapart hserved hbad _
  refine dmaReadbackDone_copies hform hrun hmoved ⟨htotal, hsrc, hdst, hsrcEnd, hdstEnd, hapart⟩ (fun dst i hi => ?_) hbad
  obtain ⟨hsrcClean, hdstClean, hsrcOwner, hsrcAwake, hdstOwner, hdstAwake⟩ := hserved i hi
  cases dst
  · exact ⟨hsrcClean, hsrcOwner, hsrcAwake⟩
  · exact ⟨hdstClean, hdstOwner, hdstAwake⟩

end Sys2Proof.Safety

/-! # Roles of mated controllers (O53): heartbeats, takeover, handover, deferred losses of light (R396 to R417) -/

namespace Sys2Proof.Safety

set_option Elab.async false

open Sys2Proof.Machine

/-! ## A controller that becomes STANDBY (R414) -/

/-- The parts that giving up tiles, tokens and runs may write. -/
def standDownParts : List Part := [.out, .issues, .owed, .store, .elems, .runs, .calRuns, .links]

/-- A request of the P0 queue ends NOT_READY, its sentence is armed again. -/
def requestRefused (s : State) (r : P0Req) : State :=
  match r.trigger with
  | .fire h => (s.modSent r.handle fun t => { t with state := .armed }).complete h 0x16 stNotReady cancelledFields
  | .doorbell q tag => doorbellReport (s.modSent r.handle fun t => { t with state := .armed }) q tag r.handle stNotReady
  | _ => s.modSent r.handle fun t => { t with state := .armed }

theorem requestRefused_only {P : List Part} {o s : State} (h : Only P o s) (hissues : [.issues] ⊆ P) (howed : [.owed] ⊆ P)
    (hstore : [.store] ⊆ P) (r : P0Req) : Only P o (requestRefused s r) := by
  have harmed := State.modSent_only h hstore r.handle fun t => { t with state := .armed }
  unfold requestRefused
  split
  · exact State.complete_only harmed hissues _ _ _ _
  · exact doorbellReport_only harmed howed _ _ _ _
  · exact harmed

/-- The role and the progress of takeovers and handovers of a controller that becomes STANDBY. -/
def standbyRole (s : State) : State :=
  let hand := match s.mate.handover with
    | .released h r ms => Handover.released h r ms
    | _ => .none
  { s with
    mate := { s.mate with
      role := .standby, takeover := .none, claims := [], granted := [], incoming := none, waits := [], handover := hand }
    chip := { s.chip with restart := {}, resolved := true, restored := [], strays := [] } }

/-- Its preparations, requests, tiles and runs are given up. -/
def givenUp (s1 : State) : State :=
  let s2 := s1.store.preps.foldl notReadyPrep s1
  let s3 := s2.store.p0Queue.foldl requestRefused s2
  let gone := s3.store.launches.map fun l =>
    { l with tiles := l.tiles.map fun x => if x.2.2 = .waiting then (x.1, x.2.1, .lost) else x }
  let s4 := { s3 with store := { s3.store with p0Queue := [], launches := gone } }
  let s5 := s4.placedTiles.foldl loseTile (settleAll s4)
  loseCalRuns (endRuns s5 (fun _ => true) endLost) fun _ => true

theorem becomeStandby_eq (s : State) : becomeStandby s = askSnapshot (givenUp (standbyRole s)) := rfl

theorem givenUp_mate (s : State) : (givenUp s).mate = s.mate := by
  have hrefused : Only standDownParts s ((s.store.preps.foldl notReadyPrep s).store.p0Queue.foldl requestRefused
      (s.store.preps.foldl notReadyPrep s)) :=
    .foldl (.foldl (.refl _ s) fun _ p h => notReadyPrep_only h (by decide) p) fun _ r h =>
      requestRefused_only h (by decide) (by decide) (by decide) r
  have hgiven : Only standDownParts s (givenUp s) :=
    loseCalRuns_only (endRuns_only (.foldl (settleAll_only (.set_store (by decide) hrefused) (by decide)) fun _ k h =>
      loseTile_only h (by decide) k) (by decide) _ _) (by decide) _
  exact hgiven.mate_eq (by decide) (by decide) (by decide)

/-- What becoming STANDBY leaves of the unit, and its request. -/
theorem becomeStandby_leaves (s : State) : let t := becomeStandby s
    t.mate.role = .standby ∧ t.mate.synced = false ∧ t.mate.mateAt = s.mate.mateAt ∧ t.mate.link = s.mate.link ∧
      .mateFrame "SYNC_REQ" [] ∈ t.out := by
  have hmate := givenUp_mate (standbyRole s)
  rw [becomeStandby_eq]
  generalize givenUp (standbyRole s) = u at hmate ⊢
  exact ⟨congrArg (·.role) hmate, rfl, congrArg (·.mateAt) hmate, congrArg (·.link) hmate,
    List.mem_append_right _ (List.mem_singleton_self _)⟩

/-! ## Heartbeats of the mate (R396, R397, R414) -/

/-- The mate has been heard. -/
def heard (s : State) (w id pr : Nat) (hash : BitVec 256) : State := { s with mate := { s.mate with
  link := true, mateAt := some s.dt, mateId := id, matePrio := pr, mateHash := hash, mateRole := roleOf w
  mateSynced := bit w 18, mateDrill := bit w 19, mateTag := BitVec.ofNat 12 (bits w 20 12) } }

theorem exec_mateHeartbeatReceive {s : State} (w : Word32) (id pr : Nat) (hash : BitVec 256) (hmate : s.img.mateEnable = true)
    (himage : s.chip.imageApplied = true) (hmain : s.chip.mainRun = true) :
    exec (.mateHeartbeatReceive w id pr hash) s = .next (after s (decideRole
      (if hash ≠ s.img.hash then setMismatch (heard s w.toNat id pr hash) else heard s w.toNat id pr hash))) := by
  change execMateHeartbeatReceive w id pr hash s = _
  rw [execMateHeartbeatReceive, if_neg (by simp [hmate, himage, hmain])]
  rfl

section decide
variable {s : State}

/-- Deciding the role makes the controller STANDBY, makes it ACTIVE or leaves it as it is. -/
theorem decideRole_induction {Q : State → Prop} (s : State) (hstandby : Q (becomeStandby s))
    (hactive : Q { s with mate := { s.mate with role := .active } }) (hsame : Q s) : Q (decideRole s) := by
  unfold decideRole
  dsimp only
  split
  · exact hstandby
  · exact hstandby
  · split
    · exact hactive
    · exact hstandby
  · exact hactive
  · exact hactive
  · split
    · exact hstandby
    · exact hsame
  · exact hsame

/-- Deciding the role keeps when the mate was heard. -/
theorem decideRole_keeps (s : State) : (decideRole s).mate.mateAt = s.mate.mateAt ∧ (decideRole s).mate.link = s.mate.link := by
  obtain ⟨-, -, hat, hlink, -⟩ := becomeStandby_leaves s
  exact decideRole_induction (Q := fun t => t.mate.mateAt = s.mate.mateAt ∧ t.mate.link = s.mate.link) s ⟨hat, hlink⟩
    ⟨rfl, rfl⟩ ⟨rfl, rfl⟩

theorem decideRole_standby (h : s.mate.role = .standby) : decideRole s = s := by
  unfold decideRole
  simp only [h]

theorem decideRole_of_active_mate (h : s.mate.role = .starting) (hm : s.mate.mateRole = .active ∨ s.mate.mateRole = .alone) :
    decideRole s = becomeStandby s := by
  unfold decideRole
  rcases hm with hm | hm
  · simp only [h, hm]
  · simp only [h, hm]

theorem decideRole_of_starting_mate (h : s.mate.role = .starting) (hm : s.mate.mateRole = .starting) : (decideRole s).mate.role =
    if s.mate.matePrio < s.img.matePrio ∨ (s.mate.matePrio = s.img.matePrio ∧ s.chip.otp.identity < s.mate.mateId) then .active
    else .standby := by
  unfold decideRole
  simp only [h, hm, Bool.or_eq_true, Bool.and_eq_true, decide_eq_true_eq]
  split
  · rfl
  · exact (becomeStandby_leaves s).1

theorem decideRole_alone (h : s.mate.role = .alone) (hm : s.mate.mateRole = .starting ∨ s.mate.mateRole = .standby) :
    (decideRole s).mate.role = .active := by
  unfold decideRole
  rcases hm with hm | hm
  · simp only [h, hm]
  · simp only [h, hm]

end decide

theorem mateHeartbeatReceive_decides (w : Word32) (id pr : Nat) {s : State} (hmate : s.img.mateEnable = true)
    (himage : s.chip.imageApplied = true) (hmain : s.chip.mainRun = true) :
    ∃ t, exec (.mateHeartbeatReceive w id pr s.img.hash) s = .next t ∧ t.mate.mateAt = some s.dt ∧ t.mate.link = true ∧
      (s.mate.role = .starting → (bits w.toNat 16 2 = 1 ∨ bits w.toNat 16 2 = 3) →
        t.mate.role = .standby ∧ t.mate.synced = false ∧ .mateFrame "SYNC_REQ" [] ∈ t.out) ∧
      (s.mate.role = .starting → bits w.toNat 16 2 = 0 → t.mate.role =
        if pr < s.img.matePrio ∨ (pr = s.img.matePrio ∧ s.chip.otp.identity < id) then .active else .standby) ∧
      (s.mate.role = .alone → (bits w.toNat 16 2 = 0 ∨ bits w.toNat 16 2 = 2) → t.mate.role = .active) ∧
      (s.mate.role = .standby → t.mate.role = .standby) := by
  have hexec := exec_mateHeartbeatReceive w id pr s.img.hash hmate himage hmain
  rw [if_neg (not_not_intro rfl)] at hexec
  obtain ⟨hat, hlink⟩ := decideRole_keeps (heard s w.toNat id pr s.img.hash)
  refine ⟨_, hexec, (after_mate_any (·.mateAt) (fun _ => rfl) s).trans hat,
    (after_mate_any (·.link) (fun _ => rfl) s).trans hlink, ?_⟩
  rw [after_mate_any (·.role) (fun _ => rfl), after_mate_any (·.synced) (fun _ => rfl)]
  refine ⟨fun hrole hcode => ?_, fun hrole hcode => ?_, fun hrole hcode => ?_, fun hrole => ?_⟩
  · have hmate : (heard s w.toNat id pr s.img.hash).mate.mateRole = .active ∨
        (heard s w.toNat id pr s.img.hash).mate.mateRole = .alone := hcode.imp
      (fun h => show roleOf w.toNat = .active by simp only [roleOf, h]) fun h => show roleOf w.toNat = .alone by simp only [roleOf, h]
    obtain ⟨hstandby, hsynced, -, -, hasked⟩ := becomeStandby_leaves (heard s w.toNat id pr s.img.hash)
    rw [decideRole_of_active_mate (s := heard s w.toNat id pr s.img.hash) hrole hmate]
    exact ⟨hstandby, hsynced, mem_after_out hasked s⟩
  · exact decideRole_of_starting_mate (s := heard s w.toNat id pr s.img.hash) hrole
      (show roleOf w.toNat = .starting by simp only [roleOf, hcode])
  · exact decideRole_alone (s := heard s w.toNat id pr s.img.hash) hrole (hcode.imp
      (fun h => show roleOf w.toNat = .starting by simp only [roleOf, h]) fun h => show roleOf w.toNat = .standby by simp only [roleOf, h])
  · rw [decideRole_standby (s := heard s w.toNat id pr s.img.hash) hrole]
    exact hrole

theorem mateHeartbeatReceive_mismatches (w : Word32) (id pr : Nat) {hash : BitVec 256} {s : State}
    (hmate : s.img.mateEnable = true) (himage : s.chip.imageApplied = true) (hhash : hash ≠ s.img.hash)
    (hfirst : s.mate.digestMismatch = false) (hrep : Reportable s 0x0083 srcMate 0) (hrole : s.mate.role = .standby) :
    ∃ t, exec (.mateHeartbeatReceive w id pr hash) s = .next t ∧ t.mate.digestMismatch = true ∧ t.mate.synced = false ∧
      NewRecord s t 0x0083 srcMate 0 := by
  have hexec := exec_mateHeartbeatReceive w id pr hash hmate himage hrep.1
  have hstill : (setMismatch (heard s w.toNat id pr hash)).mate.role = .standby := by
    rw [setMismatch, if_neg (by simp [heard, hfirst])]
    exact ((report_minor (code := 0x0083) (by decide) srcMate 0 0).mate_field (by decide) (·.role) fun _ => rfl).trans hrole
  rw [if_pos hhash, decideRole_standby hstill] at hexec
  obtain ⟨hmismatch, hsynced⟩ := setMismatch_mate (heard s w.toNat id pr hash)
  have hrecord : NewRecord (heard s w.toNat id pr hash) (setMismatch (heard s w.toNat id pr hash)) 0x0083 srcMate 0 :=
    setMismatch_record hfirst hrep
  exact ⟨_, hexec, (after_mate_any (·.digestMismatch) (fun _ => rfl) s).trans hmismatch,
    (after_mate_any (·.synced) (fun _ => rfl) s).trans hsynced, after_newRecord hrecord s⟩

theorem mateWaitExpire_alone {s : State} (hmate : s.img.mateEnable = true) (himage : s.chip.imageApplied = true)
    (hrole : s.mate.role = .starting) (hnone : s.mate.mateAt = none) (hdue : s.mate.waitFrom + s.img.mateWait * msTicks ≤ s.dt) :
    ∃ t, exec .mateWaitExpire s = .next t ∧ t.mate.role = .alone := by
  let u : State := { s with mate := { s.mate with role := .alone } }
  have hexec : exec .mateWaitExpire s = .next (after s u) := if_pos (by simp [hmate, himage, hrole, hnone, hdue])
  exact ⟨_, hexec, after_mate_any (s := u) (·.role) (fun _ => rfl) s⟩

/-! ## Takeovers (R407, R408, R416) -/

/-- A takeover of a controller with tiles in reach: every one is claimed. -/
theorem startTakeover_claims {s : State} (hup : s.upTiles ≠ []) : let t := startTakeover s
    t.mate = { s.mate with takeover := .claiming, claims := s.upTiles, granted := [], deferred := [] } ∧
      ∀ k ∈ s.upTiles, .downFrame k "CLAIM" [] ∈ t.out := by
  let s1 : State := { s with mate := { s.mate with takeover := .claiming, claims := s.upTiles, granted := [], deferred := [] } }
  have honly : Only [.out, .links] s1 (s.upTiles.foldl sendClaim s1) :=
    .foldl (.refl _ s1) fun _ k h => sendClaim_only h (List.Subset.refl _) k
  have hmate : (s.upTiles.foldl sendClaim s1).mate = s1.mate := honly.mate_eq (by decide) (by decide) (by decide)
  have hstart : startTakeover s = s.upTiles.foldl sendClaim s1 := by
    change claimsDone (s.upTiles.foldl sendClaim s1) = _
    rw [claimsDone, hmate, if_neg]
    simp [s1, hup]
  dsimp only
  rw [hstart]
  refine ⟨hmate, fun k hk => foldl_reaches (Q := fun u : State => .downFrame k "CLAIM" [] ∈ u.out)
    (fun u => mem_sendClaim_out u k) (fun u j hu => ?_) s.upTiles (.inl hk)⟩
  rw [sendClaim, State.down_out]
  exact List.mem_append_left _ hu

theorem splitRetry_waits {t0 : Nat} {s : State} (hretry : s.mate.retryAt = some t0) (hdue : t0 ≤ s.dt)
    (halive : s.bothDead = false) :
    ∃ t, exec .splitRetry s = .next t ∧ t.mate.retryAt = none ∧ t.mate.takeover = s.mate.takeover := by
  let u : State := { s with mate := { s.mate with retryAt := none } }
  have hdead : u.bothDead = false := halive
  have hexec : exec .splitRetry s = .next (after s u) := by
    change execSplitRetry s = _
    have htest : ¬ (u.bothDead && u.mate.role == .standby && u.mate.takeover == .none) = true := by simp [hdead]
    rw [execSplitRetry, hretry]
    exact (if_neg (Nat.not_lt.2 hdue)).trans (congrArg (fun x => Host.Outcome.next (after s x)) (if_neg htest))
  exact ⟨_, hexec, after_mate_any (s := u) (·.retryAt) (fun _ => rfl) s, after_mate_any (s := u) (·.takeover) (fun _ => rfl) s⟩

theorem splitRetry_takes {t0 : Nat} {s : State} (hretry : s.mate.retryAt = some t0) (hdue : t0 ≤ s.dt) (hdead : s.bothDead = true)
    (hrole : s.mate.role = .standby) (hidle : s.mate.takeover = .none) (hup : s.upTiles ≠ []) :
    ∃ t, exec .splitRetry s = .next t ∧ t.mate.takeover = .claiming ∧ t.mate.claims = s.upTiles ∧
      ∀ k ∈ s.upTiles, .downFrame k "CLAIM" [] ∈ t.out := by
  let u : State := { s with mate := { s.mate with retryAt := none } }
  have hexec : exec .splitRetry s = .next (after s (startTakeover u)) := by
    have hboth : u.bothDead = true := hdead
    have htest : (u.bothDead && u.mate.role == .standby && u.mate.takeover == .none) = true := by
      rw [hboth, Bool.true_and]
      simp [u, hrole, hidle]
    change execSplitRetry s = _
    rw [execSplitRetry, hretry]
    exact (if_neg (Nat.not_lt.2 hdue)).trans (congrArg (fun x => Host.Outcome.next (after s x)) (if_pos htest))
  obtain ⟨hmate, hout⟩ := startTakeover_claims (s := u) hup
  refine ⟨_, hexec, ?_, ?_, fun k hk => mem_after_out (hout k hk) s⟩
  · rw [after_mate_any (·.takeover) (fun _ => rfl), hmate]
  · rw [after_mate_any (·.claims) (fun _ => rfl), hmate]
    rfl

theorem roleFrameReceive_takes (ret : Bool) {s : State} (hrole : s.mate.role = .standby) (hup : s.upTiles ≠ []) :
    ∃ t, exec (.roleFrameReceive 3 ret) s = .next t ∧ t.mate.takeover = .claiming ∧ t.mate.incoming = some ret ∧
      ∀ k ∈ s.upTiles, .downFrame k "CLAIM" [] ∈ t.out := by
  let u : State := { s with mate := { s.mate with incoming := some ret } }
  have hexec : exec (.roleFrameReceive 3 ret) s = .next (after s (startTakeover u)) := by
    change execRoleFrameReceive 3 ret s = _
    unfold execRoleFrameReceive
    rw [hrole]
    rfl
  obtain ⟨hmate, hout⟩ := startTakeover_claims (s := u) hup
  refine ⟨_, hexec, ?_, ?_, fun k hk => mem_after_out (hout k hk) s⟩
  · rw [after_mate_any (·.takeover) (fun _ => rfl), hmate]
  · rw [after_mate_any (·.incoming) (fun _ => rfl), hmate]

/-! ## The end of a HANDOVER (R416, R418) -/

/-- The progress of the verb is over; of the verbs in progress it alone ends. -/
theorem endHandover_leaves {u : State} (hresumes : u.faults.resumes = []) (s : State) (h : Hdr) (status taken lost cause : Nat) :
    let t := after s (endHandover u h status taken lost cause)
    t.mate.handover = .none ∧ t.mate.role = u.mate.role ∧
      t.host.issues = (u.complete h 0x05 status (taken + 2 ^ 16 * lost + 2 ^ 32 * cause)).host.issues := by
  let v : State := { u with mate := { u.mate with handover := .none } }
  have hmate : (endHandover u h status taken lost cause).mate = v.mate := State.complete_mate ..
  have hnone : (endHandover u h status taken lost cause).mate.handover = .none := congrArg (·.handover) hmate
  have hidle : (endHandover u h status taken lost cause).faults.resumes = [] := by
    rw [endHandover, State.complete_faults]
    exact hresumes
  refine ⟨(after_handover hnone hidle s).trans hnone, ?_, (after_issues hnone hidle s).trans ?_⟩
  · rw [after_mate_any (·.role) (fun _ => rfl), hmate]
  · exact State.complete_host_issues_congr (s' := v) h _ _ _ rfl rfl

theorem roleFrameReceive_refused {h : Hdr} {ms : Nat} {ret : Bool} (b : Bool) {s : State} (hresumes : s.faults.resumes = [])
    (hrole : s.mate.role = .active) (hreleased : s.mate.handover = .released h ret ms) :
    ∃ t, exec (.roleFrameReceive 1 b) s = .next t ∧ t.mate.handover = .none ∧ t.mate.role = .active ∧
      VerbEnds s t h 0x05 stRefused (2 ^ 16 * s.placedTiles.length + 2 ^ 32 * b2n ret) := by
  have honly : Only [.out, .links] s (s.upTiles.foldl sendClaim s) :=
    .foldl (.refl _ s) fun _ k h => sendClaim_only h (List.Subset.refl _) k
  have hexec : exec (.roleFrameReceive 1 b) s = .next (after s (endHandover (s.upTiles.foldl sendClaim s) h stRefused 0
      s.placedTiles.length (b2n ret))) := by
    change execRoleFrameReceive 1 b s = _
    unfold execRoleFrameReceive
    rw [hrole]
    dsimp only
    rw [hreleased]
    rfl
  obtain ⟨hnone, hstill, hends⟩ := endHandover_leaves ((honly .resumes (by decide)).trans hresumes) s h stRefused 0
    s.placedTiles.length (b2n ret)
  rw [Nat.zero_add] at hends
  exact ⟨_, hexec, hnone, hstill.trans ((honly.mate_field (by decide) (·.role) fun _ => rfl).trans hrole),
    hends.trans (State.complete_host_issues_congr h _ _ _ (honly .issues (by decide)) (honly .dt (by decide)))⟩

theorem roleFrameReceive_released {h : Hdr} {ms : Nat} (b : Bool) {s : State} (hresumes : s.faults.resumes = [])
    (hrole : s.mate.role = .active) (hreleased : s.mate.handover = .released h false ms) :
    ∃ t, exec (.roleFrameReceive 0 b) s = .next t ∧ t.mate.handover = .none ∧ t.mate.role = .standby := by
  have hexec : ∃ st up lost, exec (.roleFrameReceive 0 b) s =
      .next (after s (endHandover (becomeStandby s) h st up lost 0)) := by
    change ∃ st up lost, execRoleFrameReceive 0 b s = _
    unfold execRoleFrameReceive
    rw [hrole]
    dsimp only
    rw [hreleased]
    exact ⟨_, _, _, rfl⟩
  obtain ⟨st, up, lost, hexec⟩ := hexec
  have hidle : (becomeStandby s).faults.resumes = [] :=
    (becomeStandby_only (.refl _ s) (List.Subset.refl _) .resumes (by decide)).trans hresumes
  obtain ⟨hnone, hstill, -⟩ := endHandover_leaves hidle s h st up lost 0
  exact ⟨_, hexec, hnone, hstill.trans (becomeStandby_leaves s).1⟩

/-! ## RELEASE once no launch is out (R416 step 3) -/

/-- Every tile link that is up is released, and ROLE with step 3 tells the mate. -/
def handedOver (s : State) (x : Handover) (ret : Bool) : State :=
  sendRole { releaseTiles s s.linked with mate := { (releaseTiles s s.linked).mate with handover := x } } 3 ret

theorem handoverStep_waiting {s : State} {h : Hdr} {ret : Bool} {ms : Nat} (hlaunches : s.store.launches = [])
    (hwaiting : s.mate.handover = .waiting h ret ms) : handoverStep s = handedOver s (.released h ret ms) ret := by
  rw [handoverStep, if_neg (by simp [hlaunches]), hwaiting]
  rfl

theorem handoverStep_handingBack {s : State} (hlaunches : s.store.launches = [])
    (hback : s.mate.handover = .handingBack false) : handoverStep s = handedOver s (.handingBack true) false := by
  rw [handoverStep, if_neg (by simp [hlaunches]), hback]
  rfl

/-- What follows a command once its steps of HANDOVER and RESUME_REGION are done. -/
theorem after_of_steps (s0 s : State) : Only [.out, .irq, .mirror, .digest] (resumeStep (handoverStep s)) (after s0 s) := by
  unfold after
  exact State.lsuNotify_only (regionNotify_only (mateNotify_only (peerNotify_only (timeNotify_only (mirrorTouch_only
    (digestTouch_only (recordTouch_only (.refl _ _) (by decide)) (by decide) s0) (by decide) s0) (by decide) s0) (by decide) s0)
    (by decide) s0) (by decide) s0) (by decide) _

theorem handoverStep_prefix_after (s0 s : State) : (handoverStep s).out <+: (after s0 s).out := by
  have hadded := mirrorTouch_out s0 (digestTouch s0 (recordTouch (resumeStep (handoverStep s))))
  rw [digestTouch_out, recordTouch_out, resumeStep_out] at hadded
  exact ((((hadded.trans (timeNotify_out ..)).trans (peerNotify_out ..)).trans (mateNotify_out ..)).trans
    (regionNotify_out ..)).trans (lsuNotify_out ..)

/-- A command that leaves the step of HANDOVER to do: what stands after both. -/
theorem after_handedOver (s0 : State) {s : State} {x : Handover} {ret : Bool} (hresumes : s.faults.resumes = [])
    (hstep : handoverStep s = handedOver s x ret) : let t := after s0 s
    t.mate.handover = x ∧ t.host.issues = s.host.issues ∧ .mateFrame "ROLE" [3, b2n ret] ∈ t.out ∧
      ∀ k ∈ s.linked, .downFrame k "RELEASE" [] ∈ t.out := by
  have hreleased : Only [.out, .elems, .runs, .calRuns, .links] s (releaseTiles s s.linked) :=
    releaseTiles_only (.refl _ s) (List.Subset.refl _) _
  have hidle : (handoverStep s).faults.resumes = [] := by
    rw [hstep]
    exact (hreleased .resumes (by decide)).trans hresumes
  have hafter := after_of_steps s0 s
  rw [resumeStep_idle hidle] at hafter
  have hout := (handoverStep_prefix_after s0 s).subset
  rw [hstep] at hafter hout
  refine ⟨(hafter .handover (by decide)).trans rfl, (hafter .issues (by decide)).trans (hreleased .issues (by decide)),
    hout (List.mem_append_right _ (List.mem_singleton_self _)), fun k hk => hout (List.mem_append_left _ ?_)⟩
  exact mem_releaseTiles_out hk s

theorem drillEnd_returns {t0 n : Nat} {s : State} (hresumes : s.faults.resumes = []) (hdrill : s.mate.handover = .drilling t0)
    (hlaunches : s.store.launches = []) (hdue : t0 ≤ s.dt) :
    ∃ t, exec (.drillEnd 0 n) s = .next t ∧ t.mate.handover = .handingBack true ∧ t.mate.drillFails = s.mate.drillFails ∧
      .mateFrame "ROLE" [3, 0] ∈ t.out ∧ ∀ k ∈ s.linked, .downFrame k "RELEASE" [] ∈ t.out := by
  let u : State := { s with mate := { s.mate with drillCause := 0, tilesFailed := n, handover := .handingBack false } }
  have hexec : exec (.drillEnd 0 n) s = .next (after s u) := by
    change execDrillEnd 0 n s = _
    rw [execDrillEnd, hdrill]
    dsimp only
    rw [if_neg (by simp [hdue])]
    rfl
  obtain ⟨hback, -, hrole, hreleased⟩ := after_handedOver s (s := u) hresumes (handoverStep_handingBack hlaunches rfl)
  exact ⟨_, hexec, hback, after_mate_any (s := u) (·.drillFails) (fun _ => rfl) s, hrole, hreleased⟩

theorem drillEnd_fails {t0 n c : Nat} {s : State} (hresumes : s.faults.resumes = []) (hdrill : s.mate.handover = .drilling t0)
    (hlaunches : s.store.launches = []) (hc : c ≠ 0) (hrep : Reportable s 0x0082 srcMate c) :
    ∃ t, exec (.drillEnd c n) s = .next t ∧ t.mate.handover = .handingBack true ∧
      t.mate.drillFails = satInc s.mate.drillFails 0xFF ∧ NewRecord s t 0x0082 srcMate c := by
  let u : State := { s with mate := { s.mate with
    drillCause := c, tilesFailed := n, handover := .handingBack false, drillFails := satInc s.mate.drillFails 0xFF } }
  have hexec : exec (.drillEnd c n) s = .next (after s (u.report 0x0082 srcMate c n)) := by
    change execDrillEnd c n s = _
    rw [execDrillEnd, hdrill]
    dsimp only
    rw [if_neg (by simp [hc]), if_neg hc]
    rfl
  have honly : Only [.mate, .handover] s u := .set_mate (.inl (by decide)) (.inl (by decide)) (.inr ⟨rfl, rfl, rfl⟩) (.refl _ s)
  have hminor := report_minor (s := u) (code := 0x0082) (by decide) srcMate c n
  have hrecord : NewRecord s (u.report 0x0082 srcMate c n) 0x0082 srcMate c :=
    report_record_of_only hrep honly (by decide) (by decide) (by decide) (by decide) n
  obtain ⟨hback, -, -, -⟩ := after_handedOver s (s := u.report 0x0082 srcMate c n)
    ((hminor .resumes (by decide)).trans hresumes)
    (handoverStep_handingBack ((congrArg Store.launches (hminor .store (by decide))).trans hlaunches)
      (hminor .handover (by decide)))
  refine ⟨_, hexec, hback, ?_, after_newRecord hrecord s⟩
  rw [after_mate_any (·.drillFails) (fun _ => rfl)]
  exact hminor.mate_field (by decide) (·.drillFails) fun _ => rfl

/-! ## Losses of light put off (R411) -/

theorem deferredLosFire_fires {hd m : Nat} {x : Bool × PortRec} {s : State} (hdeferred : s.mate.deferred = [m])
    (hlos : (s.monitor m).los = true) (hport : s.img.portOfMonitor m = some x)
    (hmem : { input := x.1, port := x.2.port } ∈ (s.sent hd).ports)
    (hmatch : s.losMatches (s.sent hd) { input := x.1, port := x.2.port } = true) (harmed : (s.sent hd).state = .armed)
    (htokens : s.issuesTokens = true) (howner : ((tilesOf (s.sent hd).armedMoved).all fun k => (s.link k).owner) = true)
    (hsafe : s.faults.safeState = false) :
    ∃ t, exec (.deferredLosFire hd) s = .next t ∧ t.mate.deferred = [] ∧ (t.sent hd).state = .launching ∧
      t.mate.deferredFires = satInc s.mate.deferredFires 0xFFFF := by
  let s1 : State := { s with mate := { s.mate with
    deferred := [m].filter (· ≠ m), deferredFires := satInc s.mate.deferredFires 0xFFFF } }
  let u : State := fireSentence s1 hd (.deferredLos m (s.sent hd).armSrc) false s.dt
  have hexec : exec (.deferredLosFire hd) s = .next (after s u) := by
    change execDeferredLosFire hd s = _
    rw [execDeferredLosFire]
    dsimp only
    rw [hdeferred, List.filter_cons_of_pos (by simp [hlos, hport, hmem, hmatch]), List.filter_nil]
    dsimp only
    rw [if_neg (by simp [harmed, htokens, howner])]
    rfl
  have hfired : u.mate = s1.mate := (fireSentence_only (.refl _ s1) (List.Subset.refl _) hd _ false s.dt).mate_eq (by decide)
    (by decide) (by decide)
  have hsent : (u.sent hd).state = .launching := by
    have hstate : (s1.sent hd).state = .armed := harmed
    have hu : u = _ := (if_neg (by simp [s1, hsafe])).trans (if_pos hstate)
    rw [hu]
    exact congrArg Sentence.state (State.setSent_same s1 hd { s1.sent hd with state := .launching })
  refine ⟨_, hexec, ?_, ?_, ?_⟩
  · rw [after_mate_any (·.deferred) (fun _ => rfl), hfired]
    simp [s1]
  · rw [after_sent, hsent]
  · rw [after_mate_any (·.deferredFires) (fun _ => rfl), hfired]

/-! ## Outstanding tokens (R409) -/

/-- Of the launches of serial `n` no tile but those of `ks` is still waited for. -/
def WaitsOnly (n : Serial) (ks : List Nat) (s : State) : Prop :=
  ∀ x ∈ s.store.launches, x.serial = n → ∀ y ∈ x.tiles, y.2.2 = .waiting → y.1 ∈ ks

theorem WaitsOnly.allIn {n : Serial} {s : State} (h : WaitsOnly n [] s) {x : Launch} (hx : x ∈ s.store.launches)
    (hn : x.serial = n) : x.allIn = true :=
  List.all_eq_true.2 fun y hy => decide_eq_true fun hwaiting => absurd (h x hx hn y hy hwaiting) List.not_mem_nil

theorem WaitsOnly.of_subset {n : Serial} {ks : List Nat} {s t : State} (h : WaitsOnly n ks s)
    (hsub : t.store.launches ⊆ s.store.launches) : WaitsOnly n ks t := fun x hx => h x (hsub hx)

theorem TheLaunch.waitsOnly {n : Serial} {l : Launch} {s : State} (h : TheLaunch s n l) :
    WaitsOnly n ((l.tiles.filter fun y => y.2.2 = .waiting).map (·.1)) s := by
  intro x hx hn y hy hwaiting
  have hl : x ∈ s.store.launches.filter (fun x => x.serial = n) := List.mem_filter.2 ⟨hx, decide_eq_true hn⟩
  rw [h, List.mem_singleton] at hl
  exact List.mem_map.2 ⟨y, List.mem_filter.2 ⟨hl ▸ hy, decide_eq_true hwaiting⟩, rfl⟩

theorem TheLaunch.serial_eq {n : Serial} {l : Launch} {s : State} (h : TheLaunch s n l) : l.serial = n := by
  have hl : l ∈ s.store.launches.filter (fun x => x.serial = n) := by
    rw [h]
    exact List.mem_singleton_self l
  exact of_decide_eq_true (List.mem_filter.1 hl).2

theorem tokenResult_ne_waiting (s : State) (n : Serial) (k : Nat) : s.tokenResult n k ≠ .waiting := by
  unfold State.tokenResult
  dsimp only
  split
  · decide
  · split
    · decide
    · decide

/-- A tile's answer is entered in the launches of a serial: that tile is no longer waited for. -/
theorem setTileResult_waitsOnly {n : Serial} {k : Nat} {ks : List Nat} {s : State} (h : WaitsOnly n (k :: ks) s) {r : TileResult}
    (hr : r ≠ .waiting) : WaitsOnly n ks (setTileResult s n k r) := by
  intro x hx hn y hy hwaiting
  obtain ⟨x0, hx0, rfl⟩ := List.mem_map.1 hx
  by_cases hserial : x0.serial = n
  · rw [if_pos hserial] at hy
    obtain ⟨y0, hy0, rfl⟩ := List.mem_map.1 hy
    split at hwaiting
    · exact absurd hwaiting hr
    next hother =>
      rw [if_neg hother]
      have hk : y0.1 ≠ k := fun hk => hother (by simp [hk, hwaiting])
      exact (List.mem_cons.1 (h x0 hx0 hserial y0 hy0 hwaiting)).resolve_left hk
  · rw [if_neg hserial] at hn
    exact absurd hn hserial

theorem ite_launches {c : Prop} [Decidable c] {x y s : State} (hx : x.store.launches = s.store.launches)
    (hy : y.store.launches = s.store.launches) : (if c then x else y).store.launches = s.store.launches := by split <;> assumption

theorem resolveTile_launches (l : Launch) (s : State) (k : Nat) : (resolveTile l s k).store.launches =
    (setTileResult s l.serial k (s.tokenResult l.serial k)).store.launches := by
  have hnoted : ∀ {c : Prop} [Decidable c] (u : State), (if c then noteSerial u l k
      else u.modLink k fun x => { x with known := false }).store.launches = u.store.launches := fun _ => ite_launches rfl rfl
  exact ite_launches (hnoted _) rfl

theorem resolveTiles_waitsOnly (l : Launch) (ks : List Nat) {s : State} (h : WaitsOnly l.serial ks s) :
    WaitsOnly l.serial [] (ks.foldl (resolveTile l) s) := by
  induction ks generalizing s with
  | nil => exact h
  | cons k ks ih =>
    refine ih ((setTileResult_waitsOnly h (tokenResult_ne_waiting s l.serial k)).of_subset ?_)
    rw [resolveTile_launches]
    exact List.Subset.refl _

/-! ### Functions that keep the launches -/

theorem launches_of_only {P : List Part} {s t : State} (h : Only P s t) (hP : .store ∉ P) :
    t.store.launches = s.store.launches := congrArg Store.launches (h .store hP)

theorem finishSentence_launches (s : State) (l : Launch) (fire : Bool) :
    (finishSentence s l fire).store.launches = s.store.launches := by
  unfold finishSentence
  dsimp only
  split
  · rfl
  · split <;> rfl

theorem moveEvents_launches (s : State) (l : Launch) (src : Source) : (moveEvents s l src).store.launches = s.store.launches :=
  launches_of_only (P := [.owed]) (moveEvents_only (.refl _ s) (List.Subset.refl _) l src) (by decide)

theorem reportLaunch_launches (s : State) (l : Launch) (written : Bool) :
    (reportLaunch s l written).store.launches = s.store.launches := by
  have hfinish := finishSentence_launches s l
  have hevents := fun fire src => (moveEvents_launches (finishSentence s l fire) l src).trans (hfinish fire)
  have hmoved : ∀ e, (s.sysEvent e).store.launches = s.store.launches := fun e =>
    launches_of_only (P := [.owed]) (State.sysEvent_only (.refl _ s) (List.Subset.refl _) e) (by decide)
  unfold reportLaunch
  dsimp only
  generalize l.trigger = trigger
  cases trigger with
  | commit => exact (congrArg Store.launches (State.complete_store ..)).trans (hevents _ _)
  | fire => exact (congrArg Store.launches (State.complete_store ..)).trans (hevents _ _)
  | schedule => exact hevents _ _
  | paraStep => exact ite_launches (x := State.event ..) (hfinish false) (hfinish false)
  | reroute => exact ite_launches rfl (hmoved _)
  | lossOfLight => exact hfinish true
  | deferredLos => exact hfinish true
  | doorbell => exact hfinish true
  | resolved => exact hfinish _
  | _ => rfl

theorem completeLaunch_launches (s : State) (l : Launch) : (completeLaunch s l).store.launches ⊆ s.store.launches := by
  have hblock : (writeBlock (dropLaunch s l.serial) l).1.store.launches = (dropLaunch s l.serial).store.launches :=
    launches_of_only (P := [.out]) (writeBlock_only (.refl _ _) (List.Subset.refl _) l) (by decide)
  unfold completeLaunch
  rw [reportLaunch_launches, hblock]
  exact fun _ hx => List.mem_of_mem_filter hx

theorem WaitsOnly.ite {n : Serial} {ks : List Nat} {c : Prop} [Decidable c] {x y : State} (hx : WaitsOnly n ks x)
    (hy : WaitsOnly n ks y) : WaitsOnly n ks (if c then x else y) := by split <;> assumption

/-- A launch that is settled and given reversals waits for the tiles it waited for. -/
theorem WaitsOnly.of_settled {n : Serial} {ks : List Nat} {s t : State} (h : WaitsOnly n ks s) {m : Serial} {acts : List Act}
    (ht : t.store.launches = s.store.launches.map fun x => if x.serial = m then { x with settled := true, revActs := acts } else x) :
    WaitsOnly n ks t := by
  intro x hx hn
  rw [ht] at hx
  obtain ⟨x0, hx0, rfl⟩ := List.mem_map.1 hx
  split at hn
  next hserial =>
    rw [if_pos hserial]
    exact h x0 hx0 hn
  next hserial =>
    rw [if_neg hserial]
    exact h x0 hx0 hn

theorem settleLaunch_waitsOnly {n : Serial} {s : State} (h : WaitsOnly n [] s) (l : Launch) : WaitsOnly n [] (settleLaunch s l) := by
  have hbumped : ∀ (ks : List Nat) (u : State), (ks.foldl bumpEpoch u).store.launches = u.store.launches := fun ks u =>
    launches_of_only (P := [.links]) (.foldl (.refl _ u) fun _ k hu => bumpEpoch_only hu (List.Subset.refl _) k) (by decide)
  have hcompleted : ∀ {u : State} (x : Launch), u.store.launches = s.store.launches → WaitsOnly n [] (completeLaunch u x) :=
    fun x hu => h.of_subset (hu ▸ completeLaunch_launches _ x)
  have hdropped : ∀ m, WaitsOnly n [] (dropLaunch s m) := fun _ => h.of_subset fun _ hx => List.mem_of_mem_filter hx
  unfold settleLaunch
  dsimp only
  split
  · split
    · exact (hdropped _).of_subset (completeLaunch_launches _ _)
    · exact hdropped _
  · refine .ite (hcompleted _ ?_) (.ite (hcompleted _ rfl) (h.of_settled rfl))
    rw [hbumped]

theorem checkSettle_waitsOnly {n : Serial} {s : State} (h : WaitsOnly n [] s) (m : Serial) : WaitsOnly n [] (checkSettle s m) := by
  unfold checkSettle
  split
  · split
    · exact settleLaunch_waitsOnly h _
    · exact h
  · exact h

/-! ### The end of the takeover keeps the launches -/

theorem repairSentence_launches (s : State) (hd : Nat) : (repairSentence s hd).store.launches = s.store.launches := by
  unfold repairSentence
  dsimp only
  split <;> rfl

theorem prepareMirrored_launches (s : State) (hd : Nat) : (prepareMirrored s hd).store.launches = s.store.launches := by
  unfold prepareMirrored
  dsimp only
  split <;> rfl

theorem becomeActive_launches (s : State) : (becomeActive s).store.launches = s.store.launches := by
  have hfold : ∀ (hs : List Nat) (u : State),
      (hs.foldl (fun s h => prepareMirrored (repairSentence s h) h) u).store.launches = u.store.launches := fun hs u =>
    List.foldlRecOn (motive := fun v : State => v.store.launches = u.store.launches) hs _ rfl fun v hv hd _ =>
      (prepareMirrored_launches _ hd).trans ((repairSentence_launches v hd).trans hv)
  have htiles := launches_of_only (P := [.tiles]) (s := s)
    (.foldl (l := s.mate.granted) (f := fun (s : State) t => s.modTile t fun x => { x with gapOpen := true }) (.refl _ s)
      fun _ k h => State.modTile_only h (List.Subset.refl _) k _) (by decide)
  unfold becomeActive
  dsimp only
  rw [hfold]
  split
  · exact htiles
  · exact htiles

theorem takeoverEnd_launches (s : State) : (takeoverEnd s).store.launches = s.store.launches := by
  unfold takeoverEnd
  dsimp only
  split
  · split
    · rw [endHandover, State.complete_store]
      exact becomeActive_launches s
    · exact becomeActive_launches s
  · rfl

theorem adoptionFollowed_launches (s : State) (k : Nat) (other : Bool) :
    (adoptionFollowed s k other).store.launches = s.store.launches := by
  have hbus : (freeBus s).store.launches = s.store.launches :=
    launches_of_only (P := [.out, .smu, .links]) (freeBus_only (.refl _ s) (List.Subset.refl _)) (by decide)
  have hrun : ∀ u : State, (queueRun none none u (.channel, k)).store.launches = u.store.launches := fun u =>
    launches_of_only (P := [.calRuns]) (queueRun_only (.refl _ u) (List.Subset.refl _) _ _ _) (by decide)
  have htrigger : ∀ u : State, (calTempTrigger u k).store.launches = u.store.launches := fun u =>
    launches_of_only (P := [.elems, .calib, .calRuns]) (calTempTrigger_only (.refl _ u) (List.Subset.refl _) k) (by decide)
  have hbefore : ∀ {u : State}, u.store.launches = s.store.launches → ∀ c : Bool,
      (movesForgotten (if c then queueRun none none u (.channel, k) else u) k).store.launches = s.store.launches :=
    fun hu c => ite_launches (c := c = true) ((hrun _).trans hu) hu
  unfold adoptionFollowed
  refine (htrigger _).trans (ite_launches (hbefore (ite_launches hbus rfl) _) ?_)
  exact hbefore (ite_launches hbus rfl) _

theorem finishAdoption_launches (s : State) (k : Nat) (moved : List Nat) :
    (finishAdoption s k moved).store.launches = s.store.launches := by
  obtain ⟨other, h⟩ := finishAdoption_eq s k moved
  have hmoved : Only [.out, .elems, .links] s (tileAdopted s k moved) :=
    (State.modLink_only ((elemsAdopted_only s k moved).mono (by decide)) (by decide) k _).trans
      ((epochTold_only _ k _).mono (by decide))
  rw [h, adoptionFollowed_launches]
  exact launches_of_only hmoved (by decide)

theorem tryAdopt_launches (s : State) (k : Nat) : (tryAdopt s k).store.launches = s.store.launches := by
  unfold tryAdopt
  split
  · rw [takeoverEnd_launches]
    split
    · exact finishAdoption_launches s k []
    · exact launches_of_only (P := [.out, .elems, .links]) (quarantine_only (.refl _ s) (List.Subset.refl _) k) (by decide)
  · rfl

theorem resolvedAll_launches (s : State) : (resolvedAll s).store.launches = s.store.launches := by
  have hall : ∀ (ks : List Nat) (u : State), (ks.foldl tryAdopt u).store.launches = u.store.launches := fun ks u =>
    List.foldlRecOn (motive := fun v : State => v.store.launches = u.store.launches) ks _ rfl fun v hv k _ =>
      (tryAdopt_launches v k).trans hv
  unfold resolvedAll tryAdoptAll
  split
  · rw [takeoverEnd_launches, hall]
  · rfl

theorem takeoverTokenResolve_resolves {n : Serial} {l : Launch} {s : State} (hresolving : s.mate.takeover = .resolving)
    (hl : TheLaunch s n l) (hopen : l.allIn = false) (hdue : l.tick + 20 * usTicks ≤ s.dt) :
    ∃ t, exec (.takeoverTokenResolve n) s = .next t ∧ ∀ x ∈ t.store.launches, x.serial = n → x.allIn = true := by
  have hexec : exec (.takeoverTokenResolve n) s = .next (after s (resolvedAll (resolveToken s l))) := by
    have hfind : s.store.launches.find? (fun l => l.serial = n && !l.allIn) = some l := by
      have hboth : (fun x : Launch => decide (x.serial = n) && !x.allIn) =
          fun x => decide (decide (x.serial = n) = true ∧ (!x.allIn) = true) := funext fun x => by simp
      rw [hboth, ← List.find?_filter, hl]
      simp [hopen]
    change execTakeoverTokenResolve n s = _
    rw [execTakeoverTokenResolve, hfind]
    dsimp only
    rw [if_neg (by simp [hresolving, hdue])]
    rfl
  have hresolved : WaitsOnly n [] (resolveToken s l) := by
    rw [← hl.serial_eq]
    exact checkSettle_waitsOnly (resolveTiles_waitsOnly l _ (hl.serial_eq ▸ hl.waitsOnly)) _
  refine ⟨_, hexec, fun x hx hn => ?_⟩
  rw [after_store, resolvedAll_launches] at hx
  exact hresolved.allIn hx hn

/-- Settles O53. -/
theorem roleRowsComplete : Obligations.RoleRowsComplete := by
  unfold Obligations.RoleRowsComplete
  exact ⟨fun w id pr _ _ => mateHeartbeatReceive_decides w id pr,
    fun w id pr _ _ _ => mateHeartbeatReceive_mismatches w id pr,
    fun _ => mateWaitExpire_alone,
    fun _ _ _ hretry hdue => ⟨splitRetry_waits hretry hdue, splitRetry_takes hretry hdue⟩,
    fun ret _ _ => roleFrameReceive_takes ret,
    fun _ _ _ b _ => roleFrameReceive_refused b,
    fun _ _ b _ => roleFrameReceive_released b,
    fun _ _ _ _ => takeoverTokenResolve_resolves,
    fun _ _ _ _ _ => deferredLosFire_fires,
    fun _ _ _ hresumes hdrill hlaunches => ⟨drillEnd_returns hresumes hdrill hlaunches,
      fun _ => drillEnd_fails hresumes hdrill hlaunches⟩⟩

end Sys2Proof.Safety

/-! # Verbs of recovery and identity (O27): RESUME_REGION, SELF_TEST, GET_DIGEST, GET_CERT, HANDOVER (R416, R440, R442, R468) -/

namespace Sys2Proof.Safety

set_option Elab.async false

open Sys2Proof.Machine

/-! ## Tiles that are adopted afresh (R264, R442) -/

/-- Tile `k` is claimed again. -/
def claimAgain (s : State) (k : Nat) : State := sendClaim (s.modLink k fun l => { l with tile := .adopting, corrections := [] }) k

/-- The tiles `ks` are fenced no more. -/
def unfenced (s : State) (ks : List Nat) : State :=
  { s with faults := { s.faults with tileFences := s.faults.tileFences.filter fun t => !ks.contains t } }

theorem adoptAgain_eq (s : State) (ks : List Nat) :
    adoptAgain s ks = (ks.filter fun k => (s.link k).up).foldl claimAgain (unfenced s ks) := rfl

theorem claimAgain_only {P : List Part} {o s : State} (h : Only P o s) (hP : [.out, .links] ⊆ P) (k : Nat) :
    Only P o (claimAgain s k) := sendClaim_only (State.modLink_only h (fun _ hp => hP (List.mem_cons_of_mem _ hp)) k _) hP k

theorem claimAgain_still (s : State) (k : Nat) : ((claimAgain s k).link k).still =
    ({ s.link k with tile := .adopting, corrections := [] } : Link).unanswered.still := by
  rw [claimAgain, sendClaim_still, State.modLink_same]

theorem claimAgain_other (s : State) {k j : Nat} (hj : j ≠ k) : ((claimAgain s k).link j).still = (s.link j).still := by
  refine ((down_frames _ k "CLAIM" []).still j).trans ?_
  rw [State.modLink_other _ _ _ hj, State.modLink_other _ _ _ hj]

theorem claimAgain_state (s : State) (k j : Nat) : ((claimAgain s k).link j).state = (s.link j).state := by
  by_cases hj : j = k
  · rw [hj]
    exact Link.field_of_still (claimAgain_still s k) (·.state) fun _ => rfl
  · exact Link.field_of_still (claimAgain_other s hj) (·.state) fun _ => rfl

theorem claimAgain_adopts (s : State) (k : Nat) : ((claimAgain s k).link k).tile = .adopting :=
  Link.field_of_still (claimAgain_still s k) (·.tile) fun _ => rfl

theorem claimAgain_keeps_adopting {s : State} {j : Nat} (h : (s.link j).tile = .adopting) (k : Nat) :
    ((claimAgain s k).link j).tile = .adopting := by
  by_cases hj : j = k
  · rw [hj]
    exact claimAgain_adopts s k
  · exact (Link.field_of_still (claimAgain_other s hj) (·.tile) fun _ => rfl).trans h

/-- A tile whose link is up waits for its adoption. -/
theorem adoptAgain_adopting {s : State} {ks : List Nat} {k : Nat} (hk : k ∈ ks) (hup : (s.link k).up = true) :
    ((adoptAgain s ks).link k).tile = .adopting ∧ ((adoptAgain s ks).link k).state ≠ .down := by
  have hlive : (s.link k).state ≠ .down := by
    intro hdown
    simp [Link.up, hdown] at hup
  rw [adoptAgain_eq]
  constructor
  · exact foldl_reaches (Q := fun u : State => (u.link k).tile = .adopting) (fun u => claimAgain_adopts u k)
      (fun u j hu => claimAgain_keeps_adopting hu j) _ (.inl (List.mem_filter.2 ⟨hk, hup⟩))
  · exact List.foldlRecOn (motive := fun u : State => (u.link k).state ≠ .down) _ _ hlive fun u hu j _ => by
      rwa [claimAgain_state]

theorem mem_dedup {k : Nat} {l : List Nat} (h : k ∈ l) : k ∈ dedup l := by
  refine foldl_reaches (Q := (k ∈ ·)) (fun u => ?_) (fun u x hu => ?_) l (.inl h)
  · split
    next hin => exact List.contains_iff_mem.1 hin
    next => exact List.mem_append_right _ (List.mem_singleton_self k)
  · split
    · exact hu
    · exact List.mem_append_left _ hu

/-- What a command has given out stands before what follows it. -/
theorem gives_after {s u : State} {l : List Output} (h : u.out = s.out ++ l) (s0 : State) : Gives s (after s0 u) l := by
  rw [Gives, ← h]
  exact after_adds_out s0 u

/-! ## A verb that waits for tiles -/

/-- The verb `h` waits for the adoption of the tiles `ks`. -/
def resumeEntered (s : State) (h : Hdr) (ks : List Nat) : State :=
  { s with faults := { s.faults with resumes := s.faults.resumes ++ [{ hdr := h, tiles := ks }] } }

theorem resumeStep_waits {s : State} {r : Resume} (h : s.faults.resumes = [r]) {k : Nat} (hk : k ∈ r.tiles)
    (hadopting : (s.link k).tile = .adopting) (hlive : (s.link k).state ≠ .down) : resumeStep s = s := by
  unfold resumeStep
  rw [h, List.foldl_cons, List.foldl_nil, if_neg]
  intro hall
  have hover := List.all_eq_true.1 hall k hk
  simp [hadopting, hlive] at hover

/-- While a tile is still to be adopted, what follows the verb stays in the background. -/
theorem after_resumeEntered {s u : State} {h : Hdr} {ks : List Nat} {k : Nat} (s0 : State) (hq : Quiet s)
    (hu : Only [.out, .free, .faults, .regions, .links] s u) (hk : k ∈ ks) (hadopting : (u.link k).tile = .adopting)
    (hlive : (u.link k).state ≠ .down) :
    Only [.out, .irq, .mirror, .digest] (resumeEntered u h ks) (after s0 (resumeEntered u h ks)) ∧
      (resumeEntered u h ks).faults.resumes = [{ hdr := h, tiles := ks }] := by
  have hresumes : (resumeEntered u h ks).faults.resumes = [{ hdr := h, tiles := ks }] := by
    change u.faults.resumes ++ _ = _
    rw [(hu .resumes (by decide)).trans hq.2, List.nil_append]
  have hidle : handoverStep (resumeEntered u h ks) = resumeEntered u h ks :=
    handoverStep_idle ((hu .handover (by decide)).trans hq.1)
  have hwaits : resumeStep (resumeEntered u h ks) = resumeEntered u h ks := resumeStep_waits hresumes hk hadopting hlive
  have hafter := after_of_steps s0 (resumeEntered u h ks)
  rw [hidle, hwaits] at hafter
  exact ⟨hafter, hresumes⟩

theorem resumeRegion_claims_tile {h : Hdr} {tile : Nat} {s : State} (hq : Quiet s)
    (ha : Accepts s h 0x01 (.resumeRegion h true tile)) (hfenced : s.faults.tileFences.contains tile = true)
    (hup : (s.link tile).up = true) :
    ∃ t, exec (.resumeRegion h true tile) s = .next t ∧ t.faults.tileFences = s.faults.tileFences.filter (· ≠ tile) ∧
      (t.link tile).tile = .adopting ∧ t.faults.resumes = [{ hdr := h, tiles := [tile] }] ∧
      Gives s t [.downFrame tile "CLAIM" []] ∧ t.host.issues = s.host.issues := by
  have hexec : exec (.resumeRegion h true tile) s = .next (after s (resumeEntered (adoptAgain s [tile]) h [tile])) := by
    change execResumeRegion h true tile s = _
    rw [execResumeRegion, verb_accepts ha]
    dsimp only
    rw [if_pos rfl, if_neg (by rw [hfenced]; decide)]
    rfl
  have hone : adoptAgain s [tile] = claimAgain (unfenced s [tile]) tile := by
    rw [adoptAgain_eq, List.filter_cons_of_pos (by exact hup), List.filter_nil, List.foldl_cons, List.foldl_nil]
  have honly : Only [.out, .free, .faults, .regions, .links] s (adoptAgain s [tile]) :=
    adoptAgain_only (.refl _ s) (by decide) [tile]
  have hmem : tile ∈ [tile] := List.mem_singleton_self tile
  obtain ⟨hadopting, hlive⟩ := adoptAgain_adopting (s := s) hmem hup
  obtain ⟨hafter, hresumes⟩ := after_resumeEntered (h := h) s hq honly hmem hadopting hlive
  refine ⟨_, hexec, ?_, ?_, (hafter .resumes (by decide)).trans hresumes, ?_, ?_⟩
  · refine (hafter.faults_field (by decide) (·.tileFences) fun _ => rfl).trans ?_
    have hclaimed : Only [.out, .links] (unfenced s [tile]) (claimAgain (unfenced s [tile]) tile) :=
      claimAgain_only (.refl _ _) (List.Subset.refl _) tile
    have hkept : (adoptAgain s [tile]).faults.tileFences = (unfenced s [tile]).faults.tileFences := by
      rw [hone]
      exact hclaimed.faults_field (by decide) (·.tileFences) fun _ => rfl
    refine hkept.trans (List.filter_congr fun t _ => ?_)
    simp
  · exact (congrArg (·.tile) (hafter.link_eq (by decide) tile)).trans hadopting
  · have hout : (adoptAgain s [tile]).out = s.out ++ [.downFrame tile "CLAIM" []] := by
      rw [hone, claimAgain, sendClaim, State.down_out]
      rfl
    exact gives_after (u := resumeEntered (adoptAgain s [tile]) h [tile]) hout s
  · exact (hafter .issues (by decide)).trans (honly .issues (by decide))

/-- The parts that the record of a failed handshake test may write. -/
def checkParts : List Part := [.out, .free, .faults, .irq, .loops, .elems, .runs, .calRuns, .links, .lsu, .house]

theorem resumeRegion_clears_region {h : Hdr} {n k : Nat} {s : State} (hq : Quiet s)
    (ha : Accepts s h 0x01 (.resumeRegion h false n)) (hfence : s.anyFence n = true) (hk : k ∈ regionTiles s.img n)
    (hup : (s.link k).up = true) :
    ∃ t, exec (.resumeRegion h false n) s = .next t ∧
      (VerbEnds s t h 0x01 0x02 0 ∨
        (t.region n = (s.region n).clearFences ∧ (t.link k).tile = .adopting ∧ t.host.issues = s.host.issues)) := by
  by_cases hfails : s.draw.1 % 2 = 1
  · have hexec : exec (.resumeRegion h false n) s = .next (after s ((recordOne s.draw.2 false false false
        { code := 0x0011, source := srcRegion n }).complete h 0x01 0x02 0)) := by
      change execResumeRegion h false n s = _
      rw [execResumeRegion, verb_accepts ha]
      dsimp only
      rw [if_neg Bool.false_ne_true, if_neg (by simp [hfence]), if_pos hfails]
      rfl
    have honly : Only checkParts s (recordOne s.draw.2 false false false { code := 0x0011, source := srcRegion n }) :=
      recordOne_only (State.draw_only (.refl _ s) (by decide)) (by decide) _ _ _ _
    exact ⟨_, hexec, .inl (verbEnds_after honly hq (by decide) (by decide) (by decide) (by decide) h 0x01 0x02 0)⟩
  · let s1 := s.draw.2.modRegion n Region.clearFences
    let ks := dedup (regionTiles s.img n)
    have hexec : exec (.resumeRegion h false n) s = .next (after s (resumeEntered (adoptAgain s1 ks) h ks)) := by
      change execResumeRegion h false n s = _
      rw [execResumeRegion, verb_accepts ha]
      dsimp only
      rw [if_neg Bool.false_ne_true, if_neg (by simp [hfence]), if_neg hfails]
      rfl
    have honly : Only [.out, .free, .faults, .regions, .links] s (adoptAgain s1 ks) :=
      adoptAgain_only (State.modRegion_only (State.draw_only (.refl _ s) (by decide)) (by decide) n _) (by decide) ks
    have hmem : k ∈ ks := mem_dedup hk
    obtain ⟨hadopting, hlive⟩ := adoptAgain_adopting (s := s1) hmem hup
    obtain ⟨hafter, -⟩ := after_resumeEntered (h := h) s hq honly hmem hadopting hlive
    have hregions : (adoptAgain s1 ks).regions = s1.regions :=
      adoptAgain_only (P := [.out, .faults, .links]) (.refl _ s1) (List.Subset.refl _) ks .regions (by decide)
    refine ⟨_, hexec, .inr ⟨?_, ?_, ?_⟩⟩
    · rw [State.region, hafter .regions (by decide)]
      change tabGet (adoptAgain s1 ks).regions {} n = _
      rw [hregions]
      exact State.modRegion_same s.draw.2 n Region.clearFences
    · exact (congrArg (·.tile) (hafter.link_eq (by decide) k)).trans hadopting
    · exact (hafter .issues (by decide)).trans (honly .issues (by decide))

/-! ## SELF_TEST (R440) -/

/-- A record of an injection that the checker caught has severity S0: the safe state is as it was. -/
theorem recordOne_check_safeState (s : State) (simul inj : Bool) (r : Report) :
    (recordOne s simul inj true r).faults.safeState = s.faults.safeState := by
  unfold recordOne
  dsimp only
  split
  · split
    · rfl
    · exact recordNew_safeState ..
  · split
    · rfl
    · exact recordAon_safeState ..

theorem injectCheck_safeState (s : State) (k u : Nat) : (injectCheck s k u).faults.safeState = s.faults.safeState := by
  unfold injectCheck
  dsimp only
  split
  · exact recordOne_check_safeState ..
  · exact recordOne_check_safeState ..

/-- The units that a SELF_TEST injects. -/
def testedUnits (s : State) (targets : Nat) : List (Nat × Nat) :=
  ((List.range 8).filter fun k => bit targets k).flatMap fun k => (s.testUnits k).map fun u => (k, u)

theorem testedUnits_length (s : State) (targets : Nat) :
    (testedUnits s targets).length = (((List.range 8).filter fun k => bit targets k).flatMap s.testUnits).length := by
  simp only [testedUnits, List.length_flatMap, List.length_map]

theorem selfTest_counts {h : Hdr} {targets ms : Nat} {s : State} (hq : Quiet s)
    (ha : Accepts s h 0x02 (.selfTest h targets ms [])) (hsource : bit targets 7 = false ∨ h.src = .sideband) :
    ∃ t, exec (.selfTest h targets ms []) s = .next t ∧ t.faults.safeState = s.faults.safeState ∧ VerbEnds s t h 0x02 0
      (((List.range 8).filter fun k => bit targets k).flatMap s.testUnits).length := by
  let u := (testedUnits s targets).foldl (fun (s : State) x => injectCheck s x.1 x.2) s
  have hexec : exec (.selfTest h targets ms []) s = .next (after s (u.complete h 0x02 0 (testedUnits s targets).length)) := by
    change execSelfTest h targets ms [] s = _
    have hnone : ∀ l : List (Nat × Nat), l.filter (List.contains []) = [] := fun l =>
      List.filter_eq_nil_iff.2 fun _ _ => Bool.false_ne_true
    rw [execSelfTest, verb_accepts ha, if_neg (by rcases hsource with h | h <;> simp [h])]
    dsimp only
    rw [hnone]
    rfl
  have hsafe : u.faults.safeState = s.faults.safeState :=
    List.foldlRecOn (motive := fun t : State => t.faults.safeState = s.faults.safeState) _ _ rfl fun t ht x _ =>
      (injectCheck_safeState t x.1 x.2).trans ht
  have honly : Only checkParts s u := .foldl (.refl _ s) fun _ x h => injectCheck_only h (by decide) x.1 x.2
  rw [← testedUnits_length]
  refine ⟨_, hexec, ?_, verbEnds_after honly hq (by decide) (by decide) (by decide) (by decide) h 0x02 0 _⟩
  rw [after_safeState, State.complete_faults, hsafe]

/-! ## GET_DIGEST and GET_CERT (R468) -/

/-- The signed record goes to host memory, or stands to be read where no address is given. -/
def digestWritten (s : State) (addr : Nat) (nonce : BitVec 256) : State :=
  if addr ≠ 0 then s.emit (.hostWrite addr 200 (s.digestRecord nonce))
  else { s with chip := { s.chip with digestRec := s.digestRecord nonce } }

theorem getDigest_gives {h : Hdr} {wait : Bool} {a : Nat} {n : BitVec 256} {s : State} (hq : Quiet s)
    (ha : Accepts s h 0x03 (.getDigest h wait a n)) (hcurrent : wait = false ∨ s.chip.digestCurrent = true) :
    ∃ t, exec (.getDigest h wait a n) s = .next t ∧ (a ≠ 0 → Gives s t [.hostWrite a 200 (s.digestRecord n)]) ∧
      (a = 0 → t.chip.digestRec = s.digestRecord n) ∧
      VerbEnds s t h 0x03 0 (s.chip.digestSerial + 2 ^ 32 * bits s.chip.digest.toNat 0 32) := by
  let u := digestEvents (digestWritten s a n) h (s.digestRecord n)
  have hexec : exec (.getDigest h wait a n) s = .next (after s (u.complete h 0x03 0
      (s.chip.digestSerial + 2 ^ 32 * bits s.chip.digest.toNat 0 32))) := by
    change execGetDigest h wait a n s = _
    rw [execGetDigest, verb_accepts ha, if_neg (by rcases hcurrent with h | h <;> simp [h])]
    rfl
  have hevents : Only [.owed] (digestWritten s a n) u := digestEvents_only (.refl _ _) (List.Subset.refl _) h _
  have hwritten : Only [.out, .chip] s (digestWritten s a n) :=
    .ite (State.emit_only (.refl _ s) (by decide) _) (.set_chip (.inl (by decide)) (.inr rfl) (.inr ⟨rfl, rfl, rfl, rfl⟩) (.refl _ s))
  have honly : Only [.out, .chip, .owed] s u :=
    (hwritten.mono (by decide)).trans (hevents.mono (by decide))
  refine ⟨_, hexec, fun haddr => ?_, fun haddr => ?_,
    verbEnds_after honly hq (by decide) (by decide) (by decide) (by decide) h 0x03 0 _⟩
  · have hout : (u.complete h 0x03 0 (s.chip.digestSerial + 2 ^ 32 * bits s.chip.digest.toNat 0 32)).out =
        s.out ++ [.hostWrite a 200 (s.digestRecord n)] := by
      rw [State.complete_out, show u.out = _ from hevents .out (by decide), digestWritten, if_pos haddr]
      rfl
    exact gives_after hout s
  · rw [after_chip_any (·.digestRec) (fun _ => rfl), State.complete_chip,
      hevents.chip_field (by decide) (·.digestRec) fun _ => rfl, digestWritten, if_neg (not_not_intro haddr)]

theorem getDigest_waits {h : Hdr} {a : Nat} {n : BitVec 256} {s : State} (hq : Quiet s)
    (ha : Accepts s h 0x03 (.getDigest h true a n)) (hstale : s.chip.digestCurrent = false) :
    ∃ t, exec (.getDigest h true a n) s = .next t ∧ t.chip.digestWaits = s.chip.digestWaits ++ [(h, a, n)] ∧
      t.host.issues = s.host.issues := by
  let u : State := { s with chip := { s.chip with digestWaits := s.chip.digestWaits ++ [(h, a, n)] } }
  have hexec : exec (.getDigest h true a n) s = .next (after s u) := by
    change execGetDigest h true a n s = _
    rw [execGetDigest, verb_accepts ha, if_pos (by simp [hstale])]
  exact ⟨_, hexec, after_chip_any (s := u) (·.digestWaits) (fun _ => rfl) s, after_issues (s := u) hq.1 hq.2 s⟩

theorem getCert_gives {h : Hdr} {a n : Nat} {s : State} (hq : Quiet s) (ha : Accepts s h 0x04 (.getCert h 0 a n)) (haddr : a ≠ 0)
    (hfits : s.chip.otp.deviceCert.length ≤ n) :
    ∃ t, exec (.getCert h 0 a n) s = .next t ∧ VerbEnds s t h 0x04 0 s.chip.otp.deviceCert.length ∧
      Gives s t [.hostWrite a s.chip.otp.deviceCert.length (bytesNat (s.chip.otp.deviceCert.map (·.toNat)))] := by
  let u := s.emit (.hostWrite a s.chip.otp.deviceCert.length (bytesNat (s.chip.otp.deviceCert.map (·.toNat))))
  have hexec : exec (.getCert h 0 a n) s = .next (after s (u.complete h 0x04 0 s.chip.otp.deviceCert.length)) := by
    change execGetCert h 0 a n s = _
    rw [execGetCert, verb_accepts ha]
    dsimp only
    rw [if_pos rfl, if_neg (by simp), if_neg (by simp [hfits]), if_pos haddr]
    rfl
  have honly : Only [.out] s u := State.emit_only (.refl _ s) (List.Subset.refl _) _
  refine ⟨_, hexec, verbEnds_after honly hq (by decide) (by decide) (by decide) (by decide) h 0x04 0 _, ?_⟩
  have hout : (u.complete h 0x04 0 s.chip.otp.deviceCert.length).out = s.out ++
      [.hostWrite a s.chip.otp.deviceCert.length (bytesNat (s.chip.otp.deviceCert.map (·.toNat)))] := State.complete_out ..
  exact gives_after hout s

/-! ## HANDOVER (R416) -/

/-- Step 1 of a HANDOVER. -/
def handoverAsked (s : State) (h : Hdr) (ret : Bool) (ms : Nat) : State :=
  { s with mate := { s.mate with handover := .waiting h ret (if ms = 0 then s.img.drillMs else ms) } }

section handover
variable {h : Hdr} {ret : Bool} {ms : Nat} {s : State} (hq : Quiet s) (ha : Accepts s h 0x05 (.handover h ret ms))
  (hrole : s.mate.role = .active) (hsynced : s.mate.synced = true)
include hq ha hrole hsynced

theorem exec_handover : exec (.handover h ret ms) s = .next (after s (handoverAsked s h ret ms)) := by
  change execHandover h ret ms s = _
  rw [execHandover, verb_accepts ha, if_neg (by simp [hrole, hsynced, hq.1])]
  rfl

theorem handover_waits (hlaunches : s.store.launches ≠ []) :
    ∃ t, exec (.handover h ret ms) s = .next t ∧
      t.mate.handover = .waiting h ret (if ms = 0 then s.img.drillMs else ms) ∧ t.host.issues = s.host.issues := by
  have hstep : handoverStep (handoverAsked s h ret ms) = handoverAsked s h ret ms := if_pos (show (!s.store.launches.isEmpty) = true by simpa using hlaunches)
  have hresumes : (handoverAsked s h ret ms).faults.resumes = [] := hq.2
  have hafter := after_of_steps s (handoverAsked s h ret ms)
  rw [hstep, resumeStep_idle hresumes] at hafter
  exact ⟨_, exec_handover hq ha hrole hsynced, hafter .handover (by decide), hafter .issues (by decide)⟩

theorem handover_releases (hlaunches : s.store.launches = []) :
    ∃ t, exec (.handover h ret ms) s = .next t ∧
      t.mate.handover = .released h ret (if ms = 0 then s.img.drillMs else ms) ∧ t.host.issues = s.host.issues ∧
      .mateFrame "ROLE" [3, b2n ret] ∈ t.out := by
  obtain ⟨hreleased, hissues, hrole3, -⟩ := after_handedOver s (s := handoverAsked s h ret ms) hq.2
    (handoverStep_waiting hlaunches rfl)
  exact ⟨_, exec_handover hq ha hrole hsynced, hreleased, hissues, hrole3⟩

end handover

/-- Settles O27. -/
theorem recoveryAndIdentityVerbsComplete : Obligations.RecoveryAndIdentityVerbsComplete := by
  unfold Obligations.RecoveryAndIdentityVerbsComplete
  exact ⟨fun _ _ _ => resumeRegion_claims_tile, fun _ _ _ _ => resumeRegion_clears_region, fun _ _ _ _ => selfTest_counts,
    fun _ _ _ _ _ => getDigest_gives, fun _ _ _ _ => getDigest_waits, fun _ _ _ _ => getCert_gives,
    fun _ _ _ _ => handover_waits, fun _ _ _ _ => handover_releases⟩

end Sys2Proof.Safety
